-- ==== Sys2Proof/Word.lean ====
section
/-!
DEFINITION. The word types of the ZS-192 model and their plainest arithmetic.
Bit 0 is the least significant bit and every multi-byte value is little-endian (R9).
-/
namespace Sys2Proof

/-- A byte of a payload, of DRAM or of host memory. -/
abbrev Byte := BitVec 8

/-- A 16-bit word of the station port, of the annotation queue and of the verdict queue. -/
abbrev Half := BitVec 16

/-- A 32-bit register of the register file, or a handle, or a unit address. -/
abbrev Word := BitVec 32

/-- A 64-bit record word (R207) or timestamp (R8). -/
abbrev DWord := BitVec 64

/-- An absolute session time in fine ticks: timestamp epoch times 2^64 plus the timestamp (R209). -/
abbrev Time := Nat

/-- One coarse tick is one SCLK period of 128 ft (Table 0.4). -/
def coarseTick : Nat := 128

/-- One sample slot is one FCLK period of 256 ft (Table 0.4). -/
def slotFt : Nat := 256

/-- One pod time quantum of 2.5 ns is 512 ft (Table 0.4). -/
def podQuantum : Nat := 512

/-- A sparse table keyed by a number: entries in strictly rising key order (see Machine/Tbl.lean). -/
abbrev Tbl (α : Type) := List (Nat × α)

end Sys2Proof
end

