-- ==== Sys2Proof/Syntax.lean ====
section
/-!
DEFINITION. The commands of the ZS-192: one constructor of `Instr` for each row of spec/opcode_table.json.
A row is a host command, a bus access, a pin event or a step of a sequencer or engine of the device;
its operands are what arrives with it from outside (an address, a written value, the data of a DMA completion,
the outcome of a physical test, a stamp).
-/
namespace Sys2Proof

/-- The three dies of the package (R14). -/
inductive Die where
  | cd0 | cd1 | hd
  deriving DecidableEq, Repr

/-- The two comparators of a lane (chapter 2). -/
inductive Comp where
  | l | u
  deriving DecidableEq, Repr

/-- How a bus write arrives: its size in bits (R354, R438), and whether its data are poisoned (R365). -/
structure WriteAttr where
  bits     : Nat
  poisoned : Bool
  deriving DecidableEq, Repr

/-- Space of a register access by the host: BAR 0, the expansion ROM, configuration space. -/
inductive HostSpace where
  | bar0
  | rom
  | config
  deriving DecidableEq, Repr

/-- Where a register access goes: a space and the byte offset in it. -/
structure HostAddr where
  space : HostSpace
  off   : BitVec 26
  /-- The attributes of the request: Relaxed Ordering, No Snoop and ID-Based Ordering (R361). -/
  attr  : BitVec 3 := 0
  deriving DecidableEq, Repr

/-- How a BAR 2 read goes: whether the bytes it finds fail their error-correcting code (Table 15.9), and the request's
attributes (R361). -/
structure ReadAsk where
  eccFail : Bool
  attr    : BitVec 3 := 0
  deriving DecidableEq, Repr

/-- The host-written part of a mailbox (Table 14.1): header bytes 0x00 to 0x1F, and the payload. -/
structure MbImage where
  code    : Half
  tag     : Half
  length  : Word
  handle  : Word
  vector  : Half
  flags   : Byte
  /-- Header bytes 0x0F to 0x1F, which the host must write as zero. -/
  rsv     : List Byte
  /-- Payload bytes from 0x040, at most 4,032. -/
  payload : List Byte
  deriving DecidableEq, Repr

/-- How a completion for a device read ends (R364). -/
inductive CplStatus where
  | success | unsupported | aborted | poisoned
  deriving DecidableEq, Repr

/-- A 64-bit engine counter of which a read of the _LO half latches the _HI half (Tables 11.8 and 11.9). -/
inductive LoCounter where
  | ceIn  (n : Fin 16)
  | ceOut (n : Fin 16)
  | deOut (n : Fin 8)
  deriving DecidableEq, Repr

/-- One lane's outcome of a calibration run (Table 2.3): the step that failed, if any, and the measured CAL. -/
structure LaneCal where
  lane     : Fin 192
  failStep : Option Nat
  cal      : Half
  deriving DecidableEq, Repr

/-- A frame as the port receives it (R68): 15 pod words and the payload of the CHECK block. -/
structure PodFrame where
  headersValid : Bool
  words        : List DWord
  checkType    : Byte
  check        : DWord
  deriving DecidableEq, Repr

/-- A port's beacon: `rdev` is R_dev in UI as measured from the beacon before to the upstream superframe start that followed it,
if one did (R72). -/
structure Beacon where
  port : Fin 16
  rdev : Option (Fin 67584)
  deriving DecidableEq, Repr

/-- A management block as it comes: `sfn` is the superframe number of the last beacon that the pod had received when it sent the
block (R78). -/
structure MgmtBlock where
  sfn  : Half
  bits : DWord
  deriving DecidableEq, Repr

/-- A COMMAND block (Table 3.5). -/
structure PodCommand where
  pos   : Fin 32
  bcast : Bool
  op    : BitVec 2
  seq   : Byte
  addr  : Byte
  data  : Word
  deriving DecidableEq, Repr

/-- A duration unit: of a stake (R99) or of a pod port (R108). -/
inductive DurUnit where
  | stake (s : Fin 12) (u : Fin 8)
  | port  (p : Fin 16) (u : Fin 8)
  deriving DecidableEq, Repr

/-- What anchors a compare step (R149). -/
inductive AnchorSrc where
  | sequencer (at_ : Time)
  | station   (at_ : Time) (stepId : Half)
  deriving DecidableEq, Repr

/-- A queue of Table 10.1. -/
inductive QRef where
  | onChip (q : Fin 5)
  | stake  (s : Fin 12)
  | stream (i : Fin 4096)
  deriving DecidableEq, Repr

/-- A consumer's operation on a queue (Table 10.2). -/
inductive ConsumerOp where
  | read (n : Nat)
  | pop (n : Nat)
  | setMark
  | rewind
  | release
  | releaseToMark
  deriving DecidableEq, Repr

/-- A word that a producer writes, and what the consumer does in the same cycle (R242). -/
structure QueueItem where
  word : DWord
  same : List ConsumerOp
  deriving DecidableEq, Repr

/-- A word at the station port, and what the annotation router does to queue 0 in the same cycle (R242). -/
structure StationWord where
  word : Half
  same : List ConsumerOp
  deriving DecidableEq, Repr

/-- An edge at a pin's TDC (R187, R403): its time, whether it is a second edge of its SCLK period, whether the TDC had lost lock. -/
structure PinEdge where
  at_    : Time
  second : Bool
  coarse : Bool
  deriving DecidableEq, Repr

/-- A column that a histogram unit reads: `parity` lists the bins read with a parity error (R172, Table 7.3). -/
structure ColumnRead where
  hu     : Fin 4
  parity : List (Fin 144)
  deriving DecidableEq, Repr

/-- A bank region that a histogram unit's spill engine reads: `parity` lists the counters read with a parity error (Table 7.3). -/
structure SpillRead where
  hu     : Fin 4
  parity : List (Fin 147456)
  deriving DecidableEq, Repr

/-- The bits of a compressed block as built, and how many of them the data of each segment took. -/
structure CodedBlock where
  bits : List Bool
  cuts : List Nat
  deriving DecidableEq, Repr

/-- An engine of chapter 11. -/
inductive EngineRef where
  | ce (n : Fin 16)
  | de (n : Fin 8)
  deriving DecidableEq, Repr

/-- Why a reference is lost (R145): a member fails its trailer check in playback, or a channel froze. -/
inductive RefLossCause where
  | memberCheck (member offset : Nat)
  | channel (ma : BitVec 37)
  deriving DecidableEq, Repr

/-- The diagnostic rerun of a CORRUPT member (R264): result code of Table 11.5, BYTE, BIT, OUT. -/
structure Rerun where
  code : BitVec 4
  byte : Nat
  bit  : Fin 8
  out  : Nat
  deriving DecidableEq, Repr

/-- Items of the ledger's metadata, in the order of Table 16.2. -/
inductive MetaItem where
  | opSeconds | powerCycles | log | refused | wallTime | key | rollback | transients | retired | snapshots | scrub
  deriving DecidableEq, Repr

/-- The physical outcome of a start-up (Table 18.6), step by step. -/
structure StartOutcome where
  /-- A power-on reset came before it (R387). -/
  powerOn      : Bool
  /-- Both copies of the board configuration block, as read from boot flash (R411); empty when unreadable. -/
  boardA       : List Byte
  boardB       : List Byte
  /-- What step 3 reads of the two slots: the manifest and the image's bytes after it, none of a slot that is empty (R342). -/
  slots        : List (Option (List Byte))
  /-- Metadata items whose copy A, or copy B, fails its CRC-32 when firmware reads it (R371). -/
  metaBadA     : List MetaItem
  metaBadB     : List MetaItem
  /-- The root PLL locked (code 2 otherwise). -/
  pllLock      : Bool
  /-- REF_IN has already qualified in a whole block: its nominal MHz, or 0. -/
  refMhz       : Nat
  refPpb       : Word
  /-- Die-to-die modules that failed training, as 4·die + module. -/
  badModules   : List (Fin 8)
  /-- For each channel, how many rates it failed (0 to 3; 3 retires it), and its density code. -/
  channelFails : List Nat
  densities    : List (BitVec 2)
  memTemp      : Half
  /-- Lane calibration results of step 8a; a lane not listed passes with CAL 0. -/
  lanes        : List LaneCal
  /-- Die temperatures in 0.125 °C units. -/
  tempHd       : Half
  tempCd0      : Half
  tempCd1      : Half
  /-- Unit addresses that failed the self-test of step 9 (R308). -/
  badUnits     : List Word
  /-- A control core, an SRAM bank or the endpoint failed step 9 (code 4). -/
  coreFail     : Bool
  /-- READY was not reached by 600 ms (code 5). -/
  late         : Bool
  /-- Time from PERST_N to READY in µs. -/
  us           : Word
  /-- The negotiated link: rate code of Table 15.16, width, Flit mode. -/
  linkRate     : BitVec 4
  linkWidth    : BitVec 5
  linkFlit     : Bool
  deriving DecidableEq, Repr

/-- The commands, one constructor for each row of the opcode table. -/
inductive Instr where
  -- mailbox commands (chapter 14): m is the mailbox in which the device executes the command it took
  | deviceInfo (m : Fin 32)
  | getStatus (m : Fin 32)
  | getDigests (m : Fin 32)
  | notifyRing (m : Fin 32)
  | create (m : Fin 32)
  | destroy (m : Fin 32)
  | configureLanes (m : Fin 32)
  | configurePods (m : Fin 32)
  | defineSequenceLevels (m : Fin 32)
  | defineSequenceTerms (m : Fin 32)
  | defineHistogram (m : Fin 32)
  | defineInterval (m : Fin 32)
  | bindStream (m : Fin 32)
  | setWindow (m : Fin 32)
  | startCompare (m : Fin 32)
  | commit (m : Fin 32)
  | commitRevert (m : Fin 32)
  | queryPlacement (m : Fin 32)
  | arm (m : Fin 32)
  | armSync (m : Fin 32)
  | disarm (m : Fin 32)
  | forceMark (m : Fin 32)
  | abortStream (m : Fin 32)
  | abortCompareJob (m : Fin 32)
  | abortCommand (m : Fin 32)
  | loadReference (m : Fin 32)
  | histogramSnapshotSwap (m : Fin 32)
  | histogramSnapshotFetch (m : Fin 32)
  | histogramClear (m : Fin 32)
  | annotate (m : Fin 32)
  | timeNote (m : Fin 32)
  | ledgerRead (m : Fin 32)
  | ledgerClearChallenge (m : Fin 32)
  | ledgerClear (m : Fin 32)
  | ledgerSetSnapshot (m : Fin 32)
  | ledgerProvisionKey (m : Fin 32)
  | selftest (m : Fin 32)
  | diagDecompress (m : Fin 32)
  | diagUnlock (m : Fin 32)
  | diagLock (m : Fin 32)
  | mapWindow (m : Fin 32)
  | setPowerState (m : Fin 32)
  | fwUpdateBegin (m : Fin 32)
  | fwUpdateCancel (m : Fin 32)
  | fwUpdateChunk (m : Fin 32)
  | fwUpdateCommit (m : Fin 32)
  /-- `ok`: the programming of the inactive slot succeeded. -/
  | fwUpdateDone (ok : Bool)
  -- the mailbox itself, doorbells and register accesses
  | mailboxDoorbell (m : Fin 32) (value : Word) (attr : WriteAttr) (image : MbImage)
  /-- `us`: microseconds from the doorbell to this completion. -/
  | commandCompletion (m : Fin 32) (us : Nat)
  | descTail (stream : Fin 4096) (value : Word) (attr : WriteAttr)
  | cplHead (stream : Fin 4096) (value : Word) (attr : WriteAttr)
  | notificationConsumerDoorbell (value : Word) (attr : WriteAttr)
  /-- `collides`: firmware writes the register in the same FCLK cycle (R442). -/
  | registerWrite (addr : HostAddr) (value : DWord) (attr : WriteAttr) (collides : Bool)
  /-- `bits`: the size of the read. -/
  | rcRegisterRead (addr : HostAddr) (bits : Nat)
  | iuResValueLoRead (iu : Fin 16)
  | loCounterRead (c : LoCounter)
  -- BAR 2, link and configuration space (chapter 15)
  /-- `eccFail`: a burst of the page fails its error-correcting code. -/
  | bar2Read (off : BitVec 36) (len : Nat) (ask : ReadAsk)
  | bar2Write (off : BitVec 36) (data : List Byte) (poisoned : Bool)
  | windowTableSwap (w : Fin 64)
  | d3hot
  | d0
  | busMasterEnableCleared
  | busMasterEnableSet
  | functionLevelReset
  | linkDown
  | linkUp (rate : BitVec 4) (width : BitVec 5) (flit : Bool)
  | linkHoldExpiry
  | linkRetrain (rate : BitVec 4) (width : BitVec 5) (flit : Bool)
  | completionTimeout (tag : Nat)
  | completionReceived (tag : Nat) (status : CplStatus) (data : List Byte)
  | descriptorFetch (stream : Fin 4096)
  | uncorrectableInternalError (headerLog : List Byte)
  -- reset, start-up, calibration, power and clocks (chapters 2, 12, 18, 20)
  | perstNAssert
  | startUp (o : StartOutcome)
  | laneCalibration (results : List LaneCal) (tempCd0 tempCd1 : Half)
  /-- `fails`: how many rates failed, from the channel's present rate; `density`: read from the mode registers. -/
  | initialTraining (ch : Fin 16) (fails : Nat) (density : BitVec 2) (temp : Half)
  | pwrFailNAssert
  /-- `us`: duration of the assertion. -/
  | pwrFailNDeassert (us : Word)
  | brownOut
  | thermalTrip (die : Die) (temp : Half)
  | thermalRelease (tempHd tempCd0 tempCd1 : Half)
  | stateTransitionDone
  | standbyEntry
  /-- Die temperatures on arrival, for step 4 of R423. -/
  | wake (tempCd0 tempCd1 : Half)
  | refLost
  | refBad
  /-- `mhz`: nominal 10 or 100; `ppb`: the block's measured offset. -/
  | refQualified (mhz : Nat) (ppb : Word)
  | refLocked
  | holdoverEnd
  | timestampWrap
  | sessionEpochPulse (value : DWord)
  -- fine lanes (chapter 2)
  /-- A comparator edge: `sclk` counts SCLK edges of the session at the sampling edge, `taps` is how many taps it
  passed, `second` marks the second transition in one SCLK period (R42). -/
  | comparatorEdge (n : Fin 192) (comp : Comp) (rise : Bool) (sclk taps : Nat) (second : Bool)
  | burstClose (n : Fin 192) (comp : Comp) (sclk : Nat)
  | levelKeepalive (n : Fin 192)
  | rawBlockClose (n : Fin 192)
  | lossOfLock (n : Fin 192) (comp : Comp)
  | tdcSelftestDone (n : Fin 192) (pass : Bool)
  /-- `mv`: the threshold read, in mV. -/
  | dacReadback (n : Fin 192) (comp : Comp) (mv : Int)
  | dacSweepDone (stake : Fin 12) (pass : Bool)
  | calDue (stake : Fin 12) (temp : Half)
  -- pods (chapter 3)
  | superframeBeacon (beacon : Beacon)
  | frameReceived (port : Fin 16) (slot : Fin 62) (frame : PodFrame)
  | managementBlockReceived (port : Fin 16) (pos : Fin 32) (block : MgmtBlock)
  | blockLockLost (port : Fin 16)
  | delayRecompute (port : Fin 16) (pos : Fin 32)
  /-- `block`: the downstream block of the superframe, 1 to 1,023, as 0 to 1,022. -/
  | commandBlockSent (port : Fin 16) (block : Fin 1023)
  | podFault (port : Fin 16) (pos : Fin 32)
  | slotSwitch (port : Fin 16)
  /-- `ahead`: how many superframes more than 16 ahead the switch is named anew. -/
  | slotSwitchCancel (port : Fin 16) (ahead : Byte)
  /-- `serials`: the pods on the chain in hop order, as they answer. -/
  | enum (port : Fin 16) (serials : List (BitVec 48))
  | chainBreak (port : Fin 16) (pos : Fin 32)
  | podAdded (port : Fin 16) (serial : BitVec 48)
  | configDigestRotation (port : Fin 16) (pos : Fin 32)
  | segmentTestStart (port : Fin 16) (seg : Fin 32)
  | segmentTestDone (port : Fin 16) (seg : Fin 32) (errors : Nat) (lockHeld : Bool)
  -- trigger terms and sequencers (chapters 4 and 5)
  | sampleSlot
  | durationDeadline (u : DurUnit)
  | trigInEdge (pin : Fin 4) (rise : Bool) (edge : PinEdge)
  | sequencerDecision (sq : Fin 32)
  | timerExpiry (sq : Fin 32) (i : Fin 4)
  | deadTimeEnd (sq : Fin 32)
  | markWrite (stream : Fin 4096)
  | trigOutPulseStart (pin : Fin 4)
  | trigOutPulseEnd (pin : Fin 4)
  -- compare units (chapter 6)
  | stepAnchor (cu : Fin 8) (src : AnchorSrc)
  | expectedEdgeTimeout (cu : Fin 8)
  | checkLevel (cu : Fin 8)
  /-- `fail`: the byte offset at which the step member failed its trailer check or its content, if it did. -/
  | decisionInstant (cu : Fin 8) (fail : Option Nat)
  | referenceLost (ref : Fin 1024) (cause : RefLossCause)
  -- histograms (chapter 7)
  /-- `parity`: the bin read has a parity error. -/
  | histValue (hu : Fin 4) (parity : Bool)
  | sweepColumnEnd (column : ColumnRead)
  | deferredSwap (hu : Fin 4) (region : Fin 16)
  | spillDone (read : SpillRead)
  -- interval units (chapter 8)
  | gateInEdge (pin : Fin 4) (rise : Bool) (edge : PinEdge)
  | intervalEvent (iu : Fin 16)
  | freeWindowEnd (iu : Fin 16)
  -- streams (chapter 9)
  | flushTime (stream : Fin 4096)
  | digestPeriodic
  | bufferCompletion (stream : Fin 4096)
  | lossSegment (stream : Fin 4096)
  -- queues (chapter 10)
  /-- `last`: the word carries the last-word or end mark; `parity`: it fails its parity check. -/
  | queueWrite (q : QRef) (item : QueueItem) (last parity : Bool)
  | packetCommit (q : QRef) (item : QueueItem)
  | packetAbort (q : QRef)
  /-- `n`: the most items the consumer asks for. -/
  | queueRead (q : QRef) (n : Nat)
  | pop (q : QRef) (n : Nat)
  | setMark (q : QRef)
  | rewind (q : QRef)
  | release (q : QRef)
  | releaseToMark (q : QRef)
  | stalledReadComplete (q : QRef)
  | readWithdrawn (q : QRef)
  | bankHandover (q : QRef)
  | bankDrainDone (q : QRef)
  -- station port and pins (chapter 17)
  | data (item : StationWord)
  /-- `at_`: session time of the commit edge. -/
  | dataLast (item : StationWord) (at_ : Time)
  | controlAbort
  | controlDiscard
  | vword
  | lost
  | portProtocolError
  | stationTimeout
  | annotationRoute
  | syncInEdge
  | state
  /-- The sensor reading, 0.125 °C units. -/
  | tempHd (reading : Half)
  | tempCd0 (reading : Half)
  | tempCd1 (reading : Half)
  | opSeconds
  | alert
  | ack (v : Byte)
  | ident
  -- engines (chapter 11)
  /-- `slot`: the slot served; `segs`: segments taken; `decodeOk`: the decoded block's CRC-32 matches its input. -/
  | compressorBlock (ce : Fin 16) (slot : Fin 8) (segs : Nat) (out : CodedBlock) (decodeOk : Bool)
  | knownAnswerTestDone (e : EngineRef) (pass : Bool)
  /-- A context of stream or job `ctx` enters `slot`; `ok`: its CRC-32 holds. -/
  | contextSwitchDone (e : EngineRef) (slot : Fin 8) (ctx : Half) (ok : Bool)
  | decompressorCorrupt (e : Fin 8) (ref : Fin 1024) (member offset : Nat) (rerun : Rerun)
  -- memory channels (chapter 12)
  | uncorrectableError (ch : Fin 16) (off : BitVec 33) (port : BitVec 3) (tagError : Bool) (synd : Word)
  | dramCommandError (ch : Fin 16) (off : BitVec 33) (port : BitVec 3) (missedRefresh : Bool)
  | correctedError (ch : Fin 16) (off : BitVec 33)
  | correctedHour (ch : Fin 16)
  /-- One patrol read at `off`: 0 clean, 1 corrected, 2 uncorrectable; `passEnd`: it completes a pass. -/
  | patrolScrub (ch : Fin 16) (off : BitVec 33) (result : Fin 3) (passEnd : Bool)
  /-- `steps`: the shift measured on the worst pin, in 1/64 UI steps; `temp`: memory temperature. -/
  | driftTracking (ch : Fin 16) (steps : Int) (temp : Half)
  | evacuationDone (ch : Fin 16)
  | retrainingDone (ch : Fin 16) (temp : Half)
  | trainingFailed (ch : Fin 16)
  | sweepStepDone (ch : Fin 16)
  | selfRefreshEntry (ch : Fin 16)
  | channelWake (ch : Fin 16) (steps : Int) (temp : Half)
  -- health and placement (chapters 1 and 13)
  | moduleRetired (die : Fin 2) (module : Fin 4)
  /-- `results`: for each error class under test on the unit, whether its test passed. -/
  | targetedSelfTestDone (unit : Word) (results : List (Byte × Bool)) (detail : Word)
  | replacement
  /-- `upsets`: registers whose hardware value differs from the register file at the check; `sticky`: the difference remains
  after the rewrite. -/
  | dieDigestCheck (die : Die) (upsets : List (BitVec 26 × Word)) (sticky : Bool)
  -- ledger (chapter 16)
  | ledgerRecordCreate
  /-- `fail`: the bank and record index (from 0 in this flush) whose write-verify fails first, if any. -/
  | ledgerFlush (fail : Option (Fin 2 × Nat))
  | ledgerRestored (bank : Fin 2)
  /-- `bad0`, `bad1`: SEQs whose seal fails in bank 0 and in bank 1 in the region scrubbed. -/
  | ledgerScrub (bad0 bad1 : List Nat)
  | operatingSecond
  -- notices and firmware timers
  | noticeWrite
  | beat
  | unlockLapse
  | powerUp
  | blockLockGained (port : Fin 16)
  | pmeStatusClear
  deriving DecidableEq, Repr

end Sys2Proof
end

