-- ==== Sys2Proof/Config.lean ====
section
/-!
DEFINITION. What an implementation fixes and the spec leaves open. Every constant here is OPAQUE: nothing in Lean can
compute it, so a statement about it holds for every value.
-/
namespace Sys2Proof.Config

/-- A free value of width `w`, one for each draw `n` (log entry 2). -/
opaque free (w : Nat) (n : Nat) : BitVec w

/-- VERSION of the resource directory, as DEVICE_INFO reports it; the spec gives its layout and no value (log entry 3). -/
opaque directoryVersion : Word

/-- The public key of Kloeg Instruments that the boot ROM holds for firmware manifests, as the affine coordinates of a P-384
point (R340); the spec gives no value (log entry 3). -/
opaque firmwareKeyX : Nat
opaque firmwareKeyY : Nat

/-- The UEFI driver image of the expansion ROM: its length, where its PCI Data Structure stands, and its bytes (R351, log entry 106). -/
opaque driverImageBytes : Nat
opaque driverPcir : Nat
opaque driverByte (a : Nat) : BitVec 8

/-- Boot flash: bytes of the board configuration areas beyond a block, and the bytes of a firmware slot that holds a manifest
and an image, whose layout within the slot is not given (Table 17.6, log entry 106). -/
opaque flashByte (a : Nat) : BitVec 8
opaque slotByte (manifest : List (BitVec 8)) (image : List (Nat × BitVec 8)) (off : Nat) : BitVec 8

/-- Which 64 KiB region of a metadata copy holds item number `i` of Table 16.2: the places are not given (R395, log entry 108). -/
opaque metaRegion (i : Nat) : Nat

/-- Manufacturer field of the IDCODE (R413, log entry 107). -/
opaque jtagManufacturer : BitVec 11

end Sys2Proof.Config
end

