-- ==== Sys2Proof/Machine/Bits.lean ====
section
/-!
DEFINITION. Bit fields, little-endian byte strings (R9) and signed readings of fields.
-/
namespace Sys2Proof

/-- Field [lo + len - 1 : lo] of a word. -/
def fld {w : Nat} (x : BitVec w) (lo len : Nat) : Nat := (x.toNat >>> lo) % 2 ^ len

/-- The word with field [lo + len - 1 : lo] set to `v`, other bits kept. -/
def setFld {w : Nat} (x : BitVec w) (lo len v : Nat) : BitVec w :=
  BitVec.ofNat w (x.toNat - (fld x lo len) * 2 ^ lo + (v % 2 ^ len) * 2 ^ lo)

/-- Bit `i` of a word. -/
def bit {w : Nat} (x : BitVec w) (i : Nat) : Bool := x.getLsbD i

/-- The word with bit `i` set to `b`. -/
def setBit {w : Nat} (x : BitVec w) (i : Nat) (b : Bool) : BitVec w := setFld x i 1 b.toNat

/-- `n` bytes of `v`, least significant first. -/
def leBytes : Nat → Nat → List Byte
  | 0, _ => []
  | n + 1, v => BitVec.ofNat 8 v :: leBytes n (v / 256)

/-- The number that bytes spell, least significant first. -/
def leNat : List Byte → Nat
  | [] => 0
  | b :: t => b.toNat + 256 * leNat t

/-- The number in `len` bytes of a payload at offset `off`. -/
def getLe (p : List Byte) (off len : Nat) : Nat := leNat ((p.drop off).take len)

/-- The bytes `len` of a payload at offset `off`. -/
def slice (p : List Byte) (off len : Nat) : List Byte := (p.drop off).take len

/-- Read the low `bits` bits of `v` as a signed number. -/
def sint (bits v : Nat) : Int :=
  let x := v % 2 ^ bits
  if 2 ^ (bits - 1) ≤ x then (x : Int) - 2 ^ bits else x

/-- Two's complement of `i` in `bits` bits, as a number. -/
def unint (bits : Nat) (i : Int) : Nat := (i % (2 ^ bits : Int)).toNat

/-- Every byte of the list is zero. -/
def zeros (p : List Byte) : Bool := p.all (· == 0)

/-- A byte string cut or padded with zeros to `n` bytes. -/
def padTo (n : Nat) (p : List Byte) : List Byte := p.take n ++ List.replicate (n - p.length) 0

/-- Division rounded up. -/
def ceilDiv (a b : Nat) : Nat := (a + b - 1) / b

/-- `a` no larger than `m`: a saturating value. -/
def sat (m a : Nat) : Nat := if m < a then m else a

/-- A record word from its bit fields: pairs of lowest bit and (width, value). -/
def pack64 (fs : List (Nat × Nat × Nat)) : DWord :=
  BitVec.ofNat 64 (fs.foldl (fun acc f => acc + (f.2.2 % 2 ^ f.2.1) * 2 ^ f.1) 0)

/-- Numbers 0 to n - 1 that pass. -/
def filterRange (n : Nat) (p : Nat → Bool) : List Nat := (List.range n).filter p

/-- The sum of `f` over a list. -/
def sumOn {α : Type} (l : List α) (f : α → Nat) : Nat := l.foldl (fun a x => a + f x) 0

/-- Cut a list in pieces of `n`. The fuel is the list's length. -/
def chunksAux {α : Type} (n : Nat) : Nat → List α → List (List α)
  | 0, _ => []
  | _, [] => []
  | k + 1, l => l.take n :: chunksAux n k (l.drop n)

/-- Cut a list in pieces of `n`. -/
def chunks {α : Type} (n : Nat) (l : List α) : List (List α) := chunksAux n l.length l

/-- A little-endian 64-bit word from its eight bytes. -/
def wordOf (p : List Byte) : DWord := BitVec.ofNat 64 (leNat p)

/-- The bytes of record words, in stream order. -/
def bytesOf (ws : List DWord) : List Byte := ws.flatMap fun w => leBytes 8 w.toNat

end Sys2Proof
end

