-- ==== Sys2Proof/Machine/Crypto.lean ====
section
/-!
DEFINITION. Checks and digests: CRC-32 (R68), CRC-8 (R78), SHA-256 (R315), HMAC-SHA-256 (R390), SHA-384 and
ECDSA P-384 (R340), Adler-32 (R245). The algorithms are those of the standards the spec names.
-/
namespace Sys2Proof

/-! ### CRC -/

/-- One bit of the reflected CRC-32 of IEEE 802.3. -/
def crc32Bit (c : Word) : Word := if bit c 0 then (c >>> 1) ^^^ 0xEDB88320 else c >>> 1

def crc32Byte (c : Word) (b : Byte) : Word :=
  crc32Bit (crc32Bit (crc32Bit (crc32Bit (crc32Bit (crc32Bit (crc32Bit (crc32Bit (c ^^^ b.setWidth 32))))))))

/-- CRC-32 with the parameters of R68. -/
def crc32 (p : List Byte) : Word := (p.foldl crc32Byte 0xFFFFFFFF) ^^^ 0xFFFFFFFF

def crc8Bit (c : Byte) : Byte := if bit c 7 then (c <<< 1) ^^^ 0x07 else c <<< 1

def crc8Byte (c b : Byte) : Byte :=
  crc8Bit (crc8Bit (crc8Bit (crc8Bit (crc8Bit (crc8Bit (crc8Bit (crc8Bit (c ^^^ b))))))))

/-- CRC-8 with the parameters of Table 3.3. -/
def crc8 (p : List Byte) : Byte := p.foldl crc8Byte 0

/-- Adler-32 (RFC 1950): sums modulo 65,521. -/
def adler32 (p : List Byte) : Nat :=
  let r := p.foldl (fun (a : Nat × Nat) b => let x := (a.1 + b.toNat) % 65521; (x, (a.2 + x) % 65521)) (1, 0)
  r.2 * 65536 + r.1

/-! ### SHA-2 -/

def beNat : List Byte → Nat := fun p => p.foldl (fun a b => a * 256 + b.toNat) 0
def beBytes (n v : Nat) : List Byte := (leBytes n v).reverse

/-- Padding to blocks of `blk` bytes with a length field of `len` bytes. -/
def shaPad (blk len : Nat) (p : List Byte) : List Byte :=
  let z := (blk - (p.length + 1 + len) % blk) % blk
  p ++ [0x80] ++ List.replicate z 0 ++ beBytes len (8 * p.length)

def shaK256 : List Nat :=
  [ 0x428A2F98, 0x71374491, 0xB5C0FBCF, 0xE9B5DBA5, 0x3956C25B, 0x59F111F1, 0x923F82A4, 0xAB1C5ED5,
    0xD807AA98, 0x12835B01, 0x243185BE, 0x550C7DC3, 0x72BE5D74, 0x80DEB1FE, 0x9BDC06A7, 0xC19BF174,
    0xE49B69C1, 0xEFBE4786, 0x0FC19DC6, 0x240CA1CC, 0x2DE92C6F, 0x4A7484AA, 0x5CB0A9DC, 0x76F988DA,
    0x983E5152, 0xA831C66D, 0xB00327C8, 0xBF597FC7, 0xC6E00BF3, 0xD5A79147, 0x06CA6351, 0x14292967,
    0x27B70A85, 0x2E1B2138, 0x4D2C6DFC, 0x53380D13, 0x650A7354, 0x766A0ABB, 0x81C2C92E, 0x92722C85,
    0xA2BFE8A1, 0xA81A664B, 0xC24B8B70, 0xC76C51A3, 0xD192E819, 0xD6990624, 0xF40E3585, 0x106AA070,
    0x19A4C116, 0x1E376C08, 0x2748774C, 0x34B0BCB5, 0x391C0CB3, 0x4ED8AA4A, 0x5B9CCA4F, 0x682E6FF3,
    0x748F82EE, 0x78A5636F, 0x84C87814, 0x8CC70208, 0x90BEFFFA, 0xA4506CEB, 0xBEF9A3F7, 0xC67178F2 ]

def shaK512 : List Nat :=
  [ 0x428A2F98D728AE22, 0x7137449123EF65CD, 0xB5C0FBCFEC4D3B2F, 0xE9B5DBA58189DBBC, 0x3956C25BF348B538,
    0x59F111F1B605D019, 0x923F82A4AF194F9B, 0xAB1C5ED5DA6D8118, 0xD807AA98A3030242, 0x12835B0145706FBE,
    0x243185BE4EE4B28C, 0x550C7DC3D5FFB4E2, 0x72BE5D74F27B896F, 0x80DEB1FE3B1696B1, 0x9BDC06A725C71235,
    0xC19BF174CF692694, 0xE49B69C19EF14AD2, 0xEFBE4786384F25E3, 0x0FC19DC68B8CD5B5, 0x240CA1CC77AC9C65,
    0x2DE92C6F592B0275, 0x4A7484AA6EA6E483, 0x5CB0A9DCBD41FBD4, 0x76F988DA831153B5, 0x983E5152EE66DFAB,
    0xA831C66D2DB43210, 0xB00327C898FB213F, 0xBF597FC7BEEF0EE4, 0xC6E00BF33DA88FC2, 0xD5A79147930AA725,
    0x06CA6351E003826F, 0x142929670A0E6E70, 0x27B70A8546D22FFC, 0x2E1B21385C26C926, 0x4D2C6DFC5AC42AED,
    0x53380D139D95B3DF, 0x650A73548BAF63DE, 0x766A0ABB3C77B2A8, 0x81C2C92E47EDAEE6, 0x92722C851482353B,
    0xA2BFE8A14CF10364, 0xA81A664BBC423001, 0xC24B8B70D0F89791, 0xC76C51A30654BE30, 0xD192E819D6EF5218,
    0xD69906245565A910, 0xF40E35855771202A, 0x106AA07032BBD1B8, 0x19A4C116B8D2D0C8, 0x1E376C085141AB53,
    0x2748774CDF8EEB99, 0x34B0BCB5E19B48A8, 0x391C0CB3C5C95A63, 0x4ED8AA4AE3418ACB, 0x5B9CCA4F7763E373,
    0x682E6FF3D6B2B8A3, 0x748F82EE5DEFB2FC, 0x78A5636F43172F60, 0x84C87814A1F0AB72, 0x8CC702081A6439EC,
    0x90BEFFFA23631E28, 0xA4506CEBDE82BDE9, 0xBEF9A3F7B2C67915, 0xC67178F2E372532B, 0xCA273ECEEA26619C,
    0xD186B8C721C0C207, 0xEADA7DD6CDE0EB1E, 0xF57D4F7FEE6ED178, 0x06F067AA72176FBA, 0x0A637DC5A2C898A6,
    0x113F9804BEF90DAE, 0x1B710B35131C471B, 0x28DB77F523047D84, 0x32CAAB7B40C72493, 0x3C9EBE0A15C9BEBC,
    0x431D67C49C100D4C, 0x4CC5D4BECB3E42B6, 0x597F299CFC657E2A, 0x5FCB6FAB3AD6FAEC, 0x6C44198C4A475817 ]

def sha256Init : List Nat := [ 0x6A09E667, 0xBB67AE85, 0x3C6EF372, 0xA54FF53A, 0x510E527F, 0x9B05688C, 0x1F83D9AB, 0x5BE0CD19 ]
def sha384Init : List Nat :=
  [ 0xCBBB9D5DC1059ED8, 0x629A292A367CD507, 0x9159015A3070DD17, 0x152FECD8F70E5939,
    0x67332667FFC00B31, 0x8EB44A8768581511, 0xDB0C2E0D64F98FA7, 0x47B5481DBEFA4FA4 ]

/-- The rotation amounts of one SHA-2 width. -/
structure ShaParams where
  w : Nat
  s0 : Nat × Nat × Nat
  s1 : Nat × Nat × Nat
  e0 : Nat × Nat × Nat
  e1 : Nat × Nat × Nat

def sha256P : ShaParams := { w := 32, s0 := (7, 18, 3), s1 := (17, 19, 10), e0 := (2, 13, 22), e1 := (6, 11, 25) }
def sha512P : ShaParams := { w := 64, s0 := (1, 8, 7), s1 := (19, 61, 6), e0 := (28, 34, 39), e1 := (14, 18, 41) }

def ShaParams.small {P : ShaParams} (r : Nat × Nat × Nat) (x : BitVec P.w) : BitVec P.w :=
  x.rotateRight r.1 ^^^ x.rotateRight r.2.1 ^^^ (x >>> r.2.2)
def ShaParams.big {P : ShaParams} (r : Nat × Nat × Nat) (x : BitVec P.w) : BitVec P.w :=
  x.rotateRight r.1 ^^^ x.rotateRight r.2.1 ^^^ x.rotateRight r.2.2

/-- Extend the message schedule, held newest first, by `n` words. -/
def shaSchedule (P : ShaParams) : Nat → List (BitVec P.w) → List (BitVec P.w)
  | 0, ws => ws
  | n + 1, ws =>
    let w := ShaParams.small P.s1 (ws.getD 1 0) + ws.getD 6 0 + ShaParams.small P.s0 (ws.getD 14 0) + ws.getD 15 0
    shaSchedule P n (w :: ws)

/-- One round on the eight working words. -/
def shaRound (P : ShaParams) (v : List (BitVec P.w)) (kw : BitVec P.w) : List (BitVec P.w) :=
  match v with
  | [a, b, c, d, e, f, g, h] =>
    let t1 := h + ShaParams.big P.e1 e + ((e &&& f) ^^^ (~~~e &&& g)) + kw
    let t2 := ShaParams.big P.e0 a + ((a &&& b) ^^^ (a &&& c) ^^^ (b &&& c))
    [t1 + t2, a, b, c, d + t1, e, f, g]
  | _ => v

/-- One block. -/
def shaBlock (P : ShaParams) (ks : List Nat) (h : List (BitVec P.w)) (blk : List Byte) : List (BitVec P.w) :=
  let ws := (chunks (P.w / 8) blk).map fun c => BitVec.ofNat P.w (beNat c)
  let sched := (shaSchedule P (ks.length - 16) ws.reverse).reverse
  let v := (List.zip ks sched).foldl (fun v kw => shaRound P v (BitVec.ofNat P.w kw.1 + kw.2)) h
  List.zipWith (· + ·) h v

def shaRun (P : ShaParams) (ks init : List Nat) (p : List Byte) : List Byte :=
  let blk := 2 * P.w
  let h := (chunks blk (shaPad blk (P.w / 4) p)).foldl (shaBlock P ks) (init.map (BitVec.ofNat P.w))
  h.flatMap fun x => beBytes (P.w / 8) x.toNat

/-- SHA-256, 32 bytes. -/
def sha256 (p : List Byte) : List Byte := shaRun sha256P shaK256 sha256Init p
/-- SHA-384, 48 bytes. -/
def sha384 (p : List Byte) : List Byte := (shaRun sha512P shaK512 sha384Init p).take 48

/-- HMAC-SHA-256 with a key of at most 64 bytes. -/
def hmacSha256 (key msg : List Byte) : List Byte :=
  let k := padTo 64 key
  sha256 (k.map (· ^^^ 0x5C) ++ sha256 (k.map (· ^^^ 0x36) ++ msg))

/-! ### ECDSA P-384 -/

def p384P : Nat := 2 ^ 384 - 2 ^ 128 - 2 ^ 96 + 2 ^ 32 - 1
def p384N : Nat := 0xFFFFFFFFFFFFFFFFFFFFFFFFFFFFFFFFFFFFFFFFFFFFFFFFC7634D81F4372DDF581A0DB248B0A77AECEC196ACCC52973
def p384Gx : Nat := 0xAA87CA22BE8B05378EB1C71EF320AD746E1D3B628BA79B9859F741E082542A385502F25DBF55296C3A545E3872760AB7
def p384Gy : Nat := 0x3617DE4A96262C6F5D9E98BF9292DC29F8F41DBD289A147CE9DA3113B5F0B8C00A60B1CE1D7E819D7A431D7C90EA0E5F

/-- b to the power e modulo m, by squaring; `fuel` bounds the bits of e. -/
def powMod (m : Nat) : Nat → Nat → Nat → Nat
  | 0, _, _ => 1 % m
  | fuel + 1, b, e =>
    if e = 0 then 1 % m
    else
      let r := powMod m fuel (b * b % m) (e / 2)
      if e % 2 = 1 then b * r % m else r

def invMod (m a : Nat) : Nat := powMod m 400 (a % m) (m - 2)
def subMod (m a b : Nat) : Nat := (a % m + m - b % m) % m

/-- Affine points of P-384; none is the point at infinity. -/
def ecAdd (a b : Option (Nat × Nat)) : Option (Nat × Nat) :=
  match a, b with
  | none, q => q
  | q, none => q
  | some (x1, y1), some (x2, y2) =>
    if x1 = x2 ∧ (y1 + y2) % p384P = 0 then none
    else
      let l := if x1 = x2 then (subMod p384P (3 * x1 * x1) 3) * invMod p384P (2 * y1) % p384P
        else (subMod p384P y2 y1) * invMod p384P (subMod p384P x2 x1) % p384P
      let x3 := subMod p384P (l * l) (x1 + x2)
      some (x3, subMod p384P (l * subMod p384P x1 x3) y1)

def ecMul : Nat → Nat → Option (Nat × Nat) → Option (Nat × Nat)
  | 0, _, _ => none
  | fuel + 1, k, q =>
    if k = 0 then none
    else
      let r := ecMul fuel (k / 2) (ecAdd q q)
      if k % 2 = 1 then ecAdd q r else r

/-- ECDSA P-384 over a digest: signature r, s under the public key (FIPS 186). -/
def ecdsaP384 (qx qy : Nat) (digest : List Byte) (r s : Nat) : Bool :=
  if r = 0 || s = 0 || p384N ≤ r || p384N ≤ s then false
  else
    let w := invMod p384N s
    let u1 := beNat digest * w % p384N
    let u2 := r * w % p384N
    match ecAdd (ecMul 400 u1 (some (p384Gx, p384Gy))) (ecMul 400 u2 (some (qx, qy))) with
    | none => false
    | some (x, _) => x % p384N == r

end Sys2Proof
end

