-- ==== Sys2Proof/Machine/Tbl.lean ====
section
/-!
DEFINITION. Operations on sparse tables. A table is in canonical form when its keys rise strictly and no entry
holds the value that an unlisted key reads as; equal tables are then equal data.
-/
namespace Sys2Proof

/-- The entry of key `k`, if one is listed. -/
def Tbl.find? {α : Type} : Tbl α → Nat → Option α
  | [], _ => none
  | (i, v) :: t, k => if i = k then some v else Tbl.find? t k

/-- The value at key `k`; an unlisted key reads as `d`. -/
def Tbl.getD {α : Type} (t : Tbl α) (k : Nat) (d : α) : α := (Tbl.find? t k).getD d

/-- List `v` under `k`, replacing what was there. -/
def Tbl.put {α : Type} : Tbl α → Nat → α → Tbl α
  | [], k, v => [(k, v)]
  | (i, w) :: t, k, v =>
    if k < i then (k, v) :: (i, w) :: t
    else if k = i then (k, v) :: t
    else (i, w) :: Tbl.put t k v

/-- Remove the entry of `k`. -/
def Tbl.del {α : Type} : Tbl α → Nat → Tbl α
  | [], _ => []
  | (i, w) :: t, k => if k = i then Tbl.del t k else (i, w) :: Tbl.del t k

/-- Store `v` at `k` where unlisted keys read as `d`: storing `d` removes the entry. -/
def Tbl.set {α : Type} [DecidableEq α] (t : Tbl α) (k : Nat) (v d : α) : Tbl α :=
  if v = d then Tbl.del t k else Tbl.put t k v

/-- Every key of the table is above `k`. -/
def Tbl.above {α : Type} (t : Tbl α) (k : Nat) : Bool :=
  match t with
  | [] => true
  | (i, _) :: _ => decide (k < i)

/-- Keys rise strictly. -/
def Tbl.sorted {α : Type} : Tbl α → Bool
  | [] => true
  | (i, _) :: t => Tbl.above t i && Tbl.sorted t

/-- No entry holds the value `dflt k` that key `k` reads as when unlisted. -/
def Tbl.lean {α : Type} [DecidableEq α] (t : Tbl α) (dflt : Nat → α) : Bool :=
  t.all fun e => decide (e.2 ≠ dflt e.1)

/-- The keys of a table, in rising order. -/
def Tbl.keys {α : Type} (t : Tbl α) : List Nat := t.map (·.1)

/-- The values of a table, in key order. -/
def Tbl.vals {α : Type} (t : Tbl α) : List α := t.map (·.2)

/-- Apply `f` to every listed value, with its key. -/
def Tbl.mapVals {α β : Type} (t : Tbl α) (f : Nat → α → β) : Tbl β := t.map fun e => (e.1, f e.1 e.2)

/-- Keep the entries whose key passes. -/
def Tbl.filterKeys {α : Type} (t : Tbl α) (p : Nat → Bool) : Tbl α := t.filter fun e => p e.1

end Sys2Proof
end

