-- ==== Sys2Proof/Machine/State.lean ====
section
/-!
DEFINITION. The state of the ZS-192 as plain data, and the reasons a command can stop.
Software-visible registers live in ONE sparse table keyed by BAR 0 address (`State.regs`; an unlisted register reads as
its reset value, Machine/Regs.lean). The structures below hold what the spec gives the device besides its registers.
-/
namespace Sys2Proof.Machine

/-! ### Board and configuration -/

/-- Ordering codes of Table 0.1. -/
inductive Ordering where
  | zs192c | zs192x | zs096c
  deriving DecidableEq, Repr

/-- What the board fixes (R3, R268, R411): the fitted part, its serial number and the board configuration block in force. -/
structure Board where
  ordering   : Ordering
  serial     : DWord
  /-- CHANNEL_GIB of the board block: 2, 4 or 8. -/
  channelGib : Nat
  smbAddr    : Nat
  linkHold   : Nat
  syncPreload : Nat
  stnTimeoutUs : Nat
  subsysVid  : Half
  subsysId   : Half
  deriving DecidableEq, Repr

/-! ### Intent and placement (chapters 13 and 14) -/

/-- Staged settings of one lane: the register images of CONFIGURE_LANES (Table 14.9). -/
structure LaneCfg where
  cfg      : Word
  thr      : Word
  follow   : Word
  followU  : Word
  stateDly : Word
  user     : Half
  deriving DecidableEq, Repr

/-- Staged settings of one pod that the intent names (Table 14.9). -/
structure PodCfg where
  grant  : Nat
  serial : BitVec 48
  image  : List Byte
  deriving DecidableEq, Repr

/-- The intent (R297). `defs` holds, for each object, the payload of its last accepted defining command, under the key
`kind * 65536 + index` with the kinds of `DefKind`. -/
structure Intent where
  lanes : Tbl LaneCfg
  pods  : Tbl PodCfg
  defs  : Tbl (List Byte)
  /-- Constraint records of the COMMIT, 16 bytes each (R334). -/
  constraints : List (List Byte)
  deriving DecidableEq, Repr

structure SeqPlace where
  obj : Nat
  sq : Nat
  path : Nat
  deriving DecidableEq, Repr

/-- Term `term` of sequence `seq` is served by term `number` (Table 4.2) of weave `weave`. -/
structure TermPlace where
  seq : Nat
  term : Nat
  weave : Nat
  number : Nat
  deriving DecidableEq, Repr

structure CmpPlace where
  obj : Nat
  cu : Nat
  de : Nat
  deriving DecidableEq, Repr

structure IvalPlace where
  obj : Nat
  iu : Nat
  deriving DecidableEq, Repr

structure HistPlace where
  obj : Nat
  hu : Nat
  region : Nat
  base : Nat
  words : Nat
  deriving DecidableEq, Repr

/-- Library pages of a reference, as MA[36:21] (R300). -/
structure RefPlace where
  obj : Nat
  pages : List Nat
  deriving DecidableEq, Repr

structure StreamPlace where
  obj : Nat
  demand : Nat
  stripe : List Nat
  perChannel : Nat
  engine : Option Nat
  slot : Option Nat
  deriving DecidableEq, Repr

/-- Where the Weaver has placed the committed configuration (Table 13.2). -/
structure Placement where
  seqs : List SeqPlace
  terms : List TermPlace
  cmps : List CmpPlace
  ivals : List IvalPlace
  hists : List HistPlace
  refs : List RefPlace
  streams : List StreamPlace
  /-- Trigger pod position of each port that has one (R75). -/
  trig : Tbl Nat
  /-- Slot owners of each port, 62 values, 32 for none (R76). -/
  slots : Tbl (List Nat)
  deriving DecidableEq, Repr

/-- A unit under targeted self-test, the error classes that joined the test, and whether an error started it or the host (R305,
R307). -/
structure UnitTest where
  unit : Word
  classes : List Byte
  byError : Bool
  deriving DecidableEq, Repr

/-- A host SELFTEST in progress (R336): its identifier and the units whose results are still due. -/
structure HostTest where
  id : Nat
  units : List Word
  deriving DecidableEq, Repr

/-- A compare job that is shed (R313): the unit it last held, the step that its next sequencer anchor would start, the time
of its last station anchor, and anchors that wait for their verdict. -/
structure HeldJob where
  cu : Nat
  nextStep : Nat
  stationAt : Option Time
  anchors : List AnchorSrc
  deriving DecidableEq, Repr

/-- The Weaver and health firmware (chapter 13), objects and handles (R202 to R204). -/
structure WeaverState where
  /-- Current generation of each index, key `type * 65536 + index`; unlisted is 0x001 (R203). -/
  gens : Tbl Nat
  /-- Allocated indexes; the value is true while a DESTROY waits for the next admitted COMMIT (R204). -/
  created : Tbl Bool
  staged : Intent
  committed : Intent
  place : Placement
  /-- Shed objects, in order of shedding (R313). -/
  shed : List Nat
  /-- RSEQ of interval jobs that are shed, by object (R200, R313). -/
  heldRseq : Tbl Byte
  /-- Shed compare jobs, by object (R313). -/
  heldCmps : Tbl HeldJob
  /-- Health digest of the latest COMMIT or re-placement (R316). -/
  healthDig : List Byte
  /-- Retired units by binary address (R309). -/
  retired : List Word
  /-- Transient verdicts: unit and operating second (R306). -/
  transients : List (Word × Nat)
  tests : List UnitTest
  hostTests : List HostTest
  nextTestId : Nat
  /-- Lanes being calibrated on command (R50). -/
  calibrating : List Nat
  /-- A re-placement is due (R310). -/
  replaceDue : Bool
  /-- Budget 0x08 in units of 0.1 GB/s, taken at COMMIT (R345). -/
  egress : Nat
  /-- Configuration mismatches in force: unit and digest kind (R318). -/
  mismatches : List (Word × Nat)
  /-- Operating second of the last digest check of each die (R319). -/
  digSecs : Tbl Nat
  deriving DecidableEq, Repr

/-! ### Mailboxes and notices (chapter 14) -/

/-- A response the device has ready for a mailbox: status, detail and payload (Tables 14.1 and 14.5). -/
structure Response where
  status : Half
  detail : Half
  bytes  : List Byte
  deriving DecidableEq, Repr

/-- A mailbox: what the host last wrote to its header, OWNER, the command taken, and the response prepared and last written. -/
structure Mailbox where
  image : Option MbImage
  owner : Bool
  /-- The command copied at the doorbell (R321 step 3). -/
  taken : Option MbImage
  /-- The command has passed its start, which is its commit point (R335). -/
  started : Bool
  /-- Result waiting for COMMAND_COMPLETION. -/
  ready : Option Response
  /-- Last response written, with EPOCH, HEALTH, RTAG and RESP_US (Table 14.1). -/
  status : Half
  detail : Half
  rlength : Word
  epoch : Word
  health : Word
  rtag : Half
  respUs : Word
  /-- Payload bytes as they stand, written by the host and by responses; bytes not listed are zero. -/
  payload : List Byte
  deriving DecidableEq, Repr

structure MailboxState where
  boxes : Tbl Mailbox
  /-- Class 2 and 3 commands that wait for execution, in doorbell order (R326). -/
  order : List Nat
  /-- Host notification ring: address, entries, vector if valid (R337). -/
  ringAddr : Nat
  ringEntries : Nat
  ringVector : Option Nat
  /-- Notices lost since the last GET_STATUS with HANDLE 0 (R339). -/
  noticesLost : Nat
  deriving DecidableEq, Repr

/-! ### PCI Express endpoint (chapter 15) -/

/-- What a device read was issued for. -/
inductive ReadOwner where
  | command (m : Nat)
  | descriptors (stream : Nat) (first count : Nat)
  deriving DecidableEq, Repr

/-- A read request: its tag, what it serves, the host bytes it asks for and their offset in the whole read, its Relaxed
Ordering attribute, and when it left (R360, R361, R363; log entry 63). -/
structure DevRead where
  tag : Nat
  owner : ReadOwner
  addr : Nat
  len : Nat
  off : Nat
  relaxed : Bool
  since : Time
  deriving DecidableEq, Repr

/-- Severity of an error message (R365). -/
inductive ErrKind where
  | correctable | nonFatal | fatal
  deriving DecidableEq, Repr

/-- A DMA write request, with its Relaxed Ordering attribute, an MSI-X message, or an error message, that the device has
issued or holds (R360, R361, R365, R366). -/
inductive DmaOut where
  | write (addr : Nat) (bytes : List Byte) (relaxed : Bool)
  | msix (vector : Nat)
  | error (kind : ErrKind)
  deriving DecidableEq, Repr

/-- What the on-chip copy of the expansion ROM was loaded with (R351): the part, and the manifest and slots of the firmware. -/
structure RomCopy where
  ordering : Ordering
  manifest : List Byte
  running : Nat
  pending : Nat
  deriving DecidableEq, Repr

structure PcieState where
  /-- Memory Space Enable, the addresses of BAR 0 and BAR 2, the expansion ROM BAR with its enable bit (R346, R351). -/
  memSpace : Bool
  bar0 : DWord
  bar2 : DWord
  romBar : Word
  rom : RomCopy
  busMaster : Bool
  d3hot : Bool
  linkUp : Bool
  /-- Device Control and Device Control 2 settings (R349). -/
  maxPayload : Nat
  maxReadRequest : Nat
  extendedTag : Bool
  tenBitTag : Bool
  relaxedOrdering : Bool
  completionTimeout : BitVec 4
  pmeEn : Bool
  pmeStatus : Bool
  outstanding : List DevRead
  nextTag : Nat
  /-- Parts of reads that wait for a place among the outstanding ones (R360); their tags are not assigned yet. -/
  queued : List DevRead
  /-- Parts that have come of reads not yet whole: owner, offset and bytes. -/
  parts : List (ReadOwner × Nat × List Byte)
  /-- Data of completed reads not yet used, by owner. -/
  delivered : List (ReadOwner × List Byte)
  /-- Writes and messages not yet transmitted, in order (Table 15.13). -/
  held : List DmaOut
  /-- What left the device, oldest first: DMA writes and MSI-X messages. -/
  sent : List DmaOut
  /-- MSI-X vectors whose PBA bit is set (R366). -/
  pba : List Nat
  /-- MSI-X table by dword, four per vector: message address, its upper half, data, vector control (R348). Unlisted dwords have
  their reset values (log entry 69). -/
  msix : Tbl Word
  /-- Tags of reads that the device has given up without an error (Table 15.13 step 3, Table 15.14 step 2). -/
  abandoned : List Nat
  /-- Translation entries in force, key `window * 512 + entry` (R357). -/
  entries : Tbl Word
  /-- Staged copies that wait for the swap: window, mailbox that waits (if any), and its whole table (R359). -/
  stagedWindows : List (Nat × Option Nat × Tbl Word)
  /-- AER: uncorrectable status, a bit per error of Table 15.12, correctable status, the header log and the first error pointer. -/
  aer : Word
  aerCor : Word
  headerLog : List Byte
  aerFirst : Nat
  /-- Device Status: correctable, non-fatal and fatal error, unsupported request (R365). -/
  devStatus : BitVec 4
  /-- MSI-X Enable and Function Mask (Table 15.1). -/
  msixEnable : Bool
  msixMask : Bool
  /-- Host-written bits of configuration registers without a field of their own, by dword: Command, Device Control, Link
  Control, Device Control 2, AER masks and severity, L1 PM Substates, LTR (Table 15.1). Unlisted dwords have their reset
  values. -/
  cfg : Tbl Word
  /-- A Function Level Reset is in progress (R367). -/
  flr : Bool
  /-- BAR 2 writes have been logged for these mapping generations (Table 15.9). -/
  bar2Logged : List Nat
  /-- BAR 2 reads that wait for their channel: offset, length and how they go (R290, R294). -/
  bar2Waits : List (BitVec 36 × Nat × ReadAsk)
  deriving DecidableEq, Repr

/-! ### Time, clocks and power (chapters 1, 17 and 18) -/

structure TimeState where
  tsCd0 : DWord
  tsCd1 : DWord
  tsHd : DWord
  /-- Timestamp epoch (R8): its low 32 bits count wraps since the session epoch began; the bits above count session epochs,
  so that times never run backward inside the model (log entry 22). -/
  tsEpoch : Nat
  armed : Bool
  armTime : Time
  /-- The mailbox whose ARM waits for SYNC_IN (R404). -/
  syncWait : Option Nat
  /-- A COMMIT has been admitted since the last session epoch began, so the next ARM begins one (R8). -/
  newEpoch : Bool
  /-- SYNC_OUT pulses since start-up (R405). -/
  syncOuts : Nat
  /-- Time-base states since start-up: instant and state, oldest first (R197). -/
  tbHist : List (Time × BitVec 2)
  deriving DecidableEq, Repr

/-- Why the root PLL is in holdover (R427). -/
inductive HoldCause where
  | lost | bad
  deriving DecidableEq, Repr

/-- Firmware update (R340 to R343): the open staging area, the slots of boot flash, and the programming in progress. -/
structure FwState where
  staging : Option (List Byte × Tbl Byte)
  /-- The manifest and the image that are being programmed. -/
  programming : Option (List Byte × Tbl Byte)
  running : Nat
  /-- VERSION word of the running image (R340): Usilet 4.2 (R1). -/
  version : Word
  pending : Option Nat
  /-- Manifests of the two slots; empty while firmware has neither written nor read the slot. -/
  slot0 : List Byte
  slot1 : List Byte
  /-- Image bytes of the two slots; unlisted bytes are zero. -/
  image0 : Tbl Byte
  image1 : Tbl Byte
  /-- Slots that hold no image to start: programming was cut short or failed, or the image did not reach READY (R342). -/
  bad : List Nat
  /-- The public key in the boot ROM, as the affine coordinates of a P-384 point (R340). -/
  keyX : Nat
  keyY : Nat
  deriving DecidableEq, Repr

structure PowerState where
  board : Board
  /-- The two copies of the board configuration block in boot flash, as start-up has read them (R411). -/
  boardA : List Byte
  boardB : List Byte
  /-- PERST_N is asserted. -/
  perst : Bool
  /-- The rails are in tolerance and the always-on domain runs (R416). -/
  powered : Bool
  /-- PWR_FAIL_N is asserted past its filter. -/
  pwrFail : Bool
  /-- Cores stopped at level 1 by a power failure (Table 18.7). -/
  stopped : Bool
  /-- The outputs were driven inactive at 150 µs (Table 18.7 step 5). -/
  outputsOff : Bool
  /-- The die that tripped, while the device holds itself in reset (R455). -/
  hotDie : Option Die
  tempHd : Half
  tempCd0 : Half
  tempCd1 : Half
  holdCause : Option HoldCause
  fw : FwState
  deriving DecidableEq, Repr

/-! ### Lanes and stakes (chapter 2) -/

/-- Flags that travel with a time: UNSTAMPED, COARSE, POD (Table 4.3). -/
structure EvFlags where
  unstamped : Bool
  coarse : Bool
  pod : Bool
  deriving DecidableEq, Repr

/-- An open burst of a comparator (R51); `coarse` and `lastCoarse` belong to its first and last time (R45). -/
structure Burst where
  first : Time
  count : Nat
  last : Time
  coarse : Bool
  lastCoarse : Bool
  deriving DecidableEq, Repr

/-- One comparator: its output, earliest next record time E, open burst and DLL state. -/
structure CompDyn where
  high : Bool
  /-- Instant from which it works under its present threshold, hysteresis and power (R40). -/
  from_ : Time
  e : Time
  burst : Option Burst
  /-- The DLL has lost lock and stamps are coarse (R45). -/
  coarse : Bool
  /-- A threshold DAC of this comparator has been replaced for good by the spare. -/
  onSpare : Bool
  deriving DecidableEq, Repr

/-- A RAW_BLOCK or STATE_BLOCK being filled (R59, R60): time of sample 0, samples oldest first, skipped clocks. -/
structure BlockDyn where
  start : Time
  samples : List (BitVec 2)
  /-- Sampling instants of a STATE_BLOCK that later edges of the data lane may still precede (R60). -/
  waiting : List Time
  skipped : Nat
  deriving DecidableEq, Repr

/-- An entry of a lane's history: the comparator outputs that it sets, by an edge or by new settings (R40, R60). -/
structure LaneEv where
  at_ : Time
  l : Option Bool
  u : Option Bool
  edge : Bool
  deriving DecidableEq, Repr

structure LaneDyn where
  l : CompDyn
  u : CompDyn
  /-- Time of the last record of the lane (R56). -/
  lastRecord : Time
  block : Option BlockDyn
  /-- Full STATE_BLOCKs of which later edges may still precede a sample (R60). -/
  full : List BlockDyn
  /-- A LEVEL that waits, as edges stamped before its instant may still arrive: REASON and instant (R40, R51, R56). -/
  levelDue : Option (Nat × Time)
  /-- Instant from which edges pair (R62). -/
  pairFrom : Time
  /-- Last accepted clock edge of a state-mode lane (R60). -/
  lastClock : Option Time
  /-- What the comparators did recently, in order of time; state sampling, level conditions and sweeps read it. -/
  history : List LaneEv
  /-- The comparators' outputs before the first entry of the history. -/
  baseL : Bool
  baseU : Bool
  /-- Edges that wait for their partner under R61. -/
  pendL : Option (Time × EvFlags)
  pendU : Option (Time × EvFlags)
  /-- The lane has passed a calibration after its retirement and waits for the next epoch (R48). -/
  returning : Bool
  /-- Logical level (R62). -/
  logical : Bool
  /-- Calibration point (R50): temperature and operating seconds. -/
  calTemp : Half
  calTime : Word
  deriving DecidableEq, Repr

/-- A stake: DAC mismatches that wait for the spare, as 2·lane + comparator (R47), and the packer. -/
structure StakeDyn where
  waiting : List Nat
  /-- A sweep of the suspect DAC is running. -/
  sweeping : Bool
  deriving DecidableEq, Repr

/-! ### Pods (chapter 3) -/

/-- A command that waits for its acknowledgement (R80): SEQ, superframe sent, retries made. -/
structure PodPending where
  cmd : PodCommand
  sent : Nat
  retries : Nat
  deriving DecidableEq, Repr

structure PodDyn where
  serial : BitVec 48
  /-- Expected frame sequence number (R69). -/
  fsn : Half
  /-- Last DROP seen (R78). -/
  drop : Option (BitVec 20)
  /-- Information page words 0 to 15 as last received. -/
  info : Tbl (BitVec 12)
  /-- Digest words of the rotation in progress (R79). -/
  dig : Tbl Half
  /-- Consecutive complete rotations that differed. -/
  digBad : Nat
  /-- Comparison suspended until a complete rotation after the last acknowledged write. -/
  digHold : Bool
  pending : List PodPending
  /-- Last TIME that the pod delivered, in link quanta (R82). -/
  lastQ : Option Nat
  /-- Where a LINK_CHECK loss would begin, as link time in ft: the last TIME of the last accepted frame, or the end of its slot
  where it has none (Table 3.7). -/
  lastFrame : Option Int
  /-- A LINK_CHECK loss is open. -/
  linkLoss : Bool
  /-- The pod is lost: CHAIN_BREAK or REPLACE (Table 3.7). -/
  broken : Bool
  /-- A COMMIT has closed the pod's CHAIN_BREAK or REPLACE loss (Table 3.7). -/
  lossClosed : Bool
  /-- Management block seen in the present superframe. -/
  mgmtSeen : Bool
  /-- Superframes in a row without a management block. -/
  absent : Nat
  /-- Pod registers as last written by firmware (1,024 bytes); empty is the idle image. -/
  image : List Byte
  /-- Rotations since the pod was added, while its addition goes on (R84). -/
  adding : Option Nat
  deriving DecidableEq, Repr

structure PortDyn where
  /-- Number of the last beacon sent: it left at link time 1,056 · n quanta (R71). -/
  beacon : Option Nat
  /-- Session timestamp at which link time 0 fell (R73). -/
  cBase : Int
  pods : Tbl PodDyn
  /-- Slot table staged for a SLOT_SWITCH: 62 owners. -/
  nextSlots : List Nat
  /-- Known levels of the trigger pod's channels (R106). -/
  levels : Tbl Bool
  nextSeq : Byte
  /-- Frame slots that have passed in the superframe in progress, and whether block lock was lost in it (Table 3.7). -/
  passed : List Nat
  unlocked : Bool
  /-- Segment whose test ran in the superframe in progress: pods from there on deliver nothing (R85). -/
  tested : Option Nat
  /-- Commands that wait for a downstream block, oldest first, and the last downstream block sent (R67). -/
  outbox : List PodCommand
  down : DWord
  /-- Frames failed at the receiver of a segment in the last 1 ms: link time in quanta, segment, frames (R85). -/
  bad : List (Nat × Nat × Nat)
  deriving DecidableEq, Repr

/-! ### Trigger terms (chapter 4) -/

/-- An input event of the live units. -/
inductive InEv where
  /-- Comparator edge of a lane: new output and the lane state after it. -/
  | edge (lane : Nat) (comp : Comp) (rise : Bool) (state : BitVec 2)
  /-- Logical crossing of a lane (R61, R62): Δt of its pair, none for a single crossing, and the time of its later edge. -/
  | crossing (lane : Nat) (rise : Bool) (pair : Option Nat) (later : Time)
  /-- Transition of a pod channel. -/
  | podEdge (pod : Nat) (ch : Nat) (level : Bool)
  /-- A DROPOUT word: the level held around it, and WIDTH in quanta. -/
  | dropout (pod : Nat) (ch : Nat) (level : Bool) (width : Nat)
  | trigIn (pin : Nat) (rise : Bool)
  | gateIn (pin : Nat) (rise : Bool)
  /-- Deviation of a compare unit: kind and CIN (R159). -/
  | deviation (cu : Nat) (kind : Nat) (cin : Nat)
  deriving DecidableEq, Repr

structure TimedEv where
  at_ : Time
  flags : EvFlags
  ev : InEv
  deriving DecidableEq, Repr

/-- A term's result for a slot (Table 4.3). -/
structure TermResult where
  time : Time
  count : Nat
  flags : EvFlags
  deriving DecidableEq, Repr

/-- Result of term `number` of weave `weave` for slot `slot`; terms that are not true have no entry. -/
structure SlotResult where
  slot : Nat
  weave : Nat
  number : Nat
  res : TermResult
  deriving DecidableEq, Repr

/-- A measurement of a duration unit or the pairing state of a signal-quality unit. -/
structure MeasDyn where
  start : Option Time
  flags : EvFlags
  /-- Already fired early, or firings made in this quiet span (R100, R101). -/
  fired : Nat
  /-- Second reference time: falling U edge of a low runt. -/
  start2 : Option Time
  deriving DecidableEq, Repr

structure TrigState where
  /-- Events that entered in the slot in progress, in order of arrival. -/
  inputs : List TimedEv
  /-- Measurements, key `weave * 256 + term number`. -/
  meas : Tbl MeasDyn
  /-- For level terms: the instant the condition last became true, with the flags of the edge there, key as above. -/
  since : Tbl (Time × EvFlags)
  /-- Results presented and not yet decided by every sequencer, oldest first. -/
  results : List SlotResult
  /-- Detections of the slot in progress: key as above, TIME and flags (R168). -/
  dets : List (Nat × Time × EvFlags)
  /-- Pod words of the slot in progress: they reach the terms in the next slot (R75). -/
  later : List TimedEv
  /-- Early decisions and timeouts of pod duration units that a later edge has confirmed before the pod's history is complete
  up to them: key as above, TIME and flags (R108). -/
  confirmed : List (Nat × Time × EvFlags)
  deriving DecidableEq, Repr

/-! ### Sequencers (chapter 5) -/

/-- A MARK as it waits for a stream (Table 5.4). -/
structure Mark where
  time : Time
  sq : Nat
  seq : Half
  id : Byte
  fromLevel : BitVec 4
  toLevel : BitVec 4
  branch : BitVec 2
  satisfied : BitVec 4
  inputs : Half
  dead : Nat
  missed : Nat
  folded : Nat
  forced : Bool
  summary : Bool
  flags : EvFlags
  deriving DecidableEq, Repr

structure TimerDyn where
  start : Time
  /-- The expiry instant has been reached and waits to be presented (R118). -/
  due : Option Time
  deriving DecidableEq, Repr

structure SeqDyn where
  /-- Next slot to decide. -/
  next : Nat
  /-- First slot in which the sequencer recognises again after a restart (R121). -/
  deadEnd : Option Nat
  /-- Slot of the last emitted MARK (R124). -/
  lastMark : Option Nat
  markSeq : Half
  timers : Tbl TimerDyn
  /-- Time at which each counter reached LIMIT (Table 5.1). -/
  cntTime : Tbl Time
  /-- Forced MARKs that wait for their slot and the 16-slot spacing: earliest slot, MARK_ID, mailbox (R127). -/
  forced : List (Nat × Byte × Nat)
  deriving DecidableEq, Repr

/-- A TRIG_OUT pin (R135): requests on their way, each with the slot decided and the slot in which it reaches the hub, oldest
first; the slot decided of the last one taken (R120); and the slot at which the pulse in progress ends. -/
structure ToutDyn where
  requests : List (Nat × Nat)
  served : Option Nat
  activeUntil : Option Nat
  deriving DecidableEq, Repr

/-! ### References and compare (chapter 6) -/

inductive RefPhase where
  | empty | loading | ready | lost
  deriving DecidableEq, Repr

/-- A reference in the library (R144 to R146). -/
structure RefDyn where
  phase : RefPhase
  format : Nat
  /-- Compressed bytes held, for the 8 GiB limit. -/
  bytes : Nat
  /-- Decompressed members in order, as words, and the compressed bytes up to the end of each. -/
  members : List (List DWord)
  ends : List Nat
  demand : Nat
  digest : List Byte
  /-- Library pages, MA[36:21]. -/
  pages : List Nat
  /-- A channel froze while the reference was loading: the next LOAD_REFERENCE answers MEMORY_FAULT with it (Table 12.4). -/
  fault : Option Nat
  deriving DecidableEq, Repr

/-- An expected edge or a level check of a running step (R150 to R156). -/
structure CmpItem where
  cin : Nat
  level : Bool
  time : Time
  early : Nat
  late : Nat
  check : Bool
  deriving DecidableEq, Repr

/-- A don't-care span: input (none for ALL), start and end. -/
structure CmpDc where
  cin : Option Nat
  from_ : Time
  upTo : Time
  deriving DecidableEq, Repr

/-- A deviation as decided (Table 6.5). -/
structure Deviation where
  kind : Nat
  cin : Nat
  time : Time
  error : Int
  flags : EvFlags
  deriving DecidableEq, Repr

structure StepDyn where
  index : Nat
  stepId : Half
  anchor : Time
  endT : Time
  settle : Nat
  decision : Time
  margin : Nat
  maxEarly : Nat
  items : List CmpItem
  dcs : List CmpDc
  devCount : Nat
  recorded : Nat
  first : Option Deviation
  unjudged : Nat
  truncated : Bool
  devCut : Bool
  /-- Spans of unjudged items: actual edges there are no EXTRA (R156). -/
  blind : List CmpDc
  /-- A station annotation anchored it (R149). -/
  byStation : Bool
  deriving DecidableEq, Repr

/-- An event in a compare unit's buffer (R157): an edge of an input to `level`, or a level taken without an edge (R62, R138). -/
structure CmpEv where
  at_ : Time
  cin : Nat
  level : Bool
  flags : EvFlags
  edge : Bool
  /-- The slot in which it entered. -/
  entry : Nat
  /-- The running step has classified it. -/
  seen : Bool
  deriving DecidableEq, Repr

/-- A step that an anchor has chosen and that waits for the verdict of the one before it (R151): step, anchor, whether by a
station annotation, the oldest instant the buffer then held, and a COMPARE_END that has reached it. -/
structure NextStep where
  index : Nat
  anchor : Time
  byStation : Bool
  horizon : Time
  endAt : Option Time
  deriving DecidableEq, Repr

structure CmpDyn where
  /-- Step that the next sequencer anchor starts. -/
  nextStep : Nat
  step : Option StepDyn
  /-- Steps anchored after the running one, oldest first. -/
  queue : List NextStep
  /-- Time of the last station anchor (R149). -/
  stationAt : Option Time
  /-- Events of the inputs in order of time, equal times in CIN order (R152, R157). -/
  events : List CmpEv
  /-- Loss spans of inputs: CIN, start, and end unless the loss goes on (R156). -/
  losses : List (Nat × Time × Option Time)
  /-- Inputs that lost events in the buffer, with the time of the loss. -/
  dropped : List (Nat × Time)
  lastRecordSlot : Option Nat
  /-- Anchors that wait for their step to start (R149). -/
  anchors : List AnchorSrc
  /-- Levels before the first event held in the buffer, by CIN; an input without one has none yet. -/
  base : Tbl Bool
  /-- The buffer holds every event from this instant on (R156). -/
  horizon : Time
  deriving DecidableEq, Repr

/-! ### Histograms (chapter 7) -/

structure HistValue where
  region : Nat
  x : Int
  te : Time
  flagged : Bool
  deriving DecidableEq, Repr

/-- A sweep of a persistence map: its reference time, the next column, and the settings under which it started: HU_RG_CFG, LO,
columns and lanes. -/
structure Sweep where
  tr : Time
  column : Nat
  cfg : Word
  lo : Nat
  cols : Nat
  mask : Nat
  deriving DecidableEq, Repr

/-- An accumulation that a swap has closed and that waits for its spill: its object and definition, T_OPEN, T, bank,
counters and flags. -/
structure Closing where
  obj : Nat
  cfg : Word
  bins : Nat
  rows : Nat
  lo : Int
  epoch : Word
  tOpen : Time
  tClose : Time
  bank : Bool
  counters : List Nat
  sat : Bool
  cleared : Bool
  parity : Bool
  fault : Bool
  missed : Nat
  /-- Where its spill buffer stands (R281). -/
  place : Nat
  /-- The spill buffer is gone: with its object, or with its channel. -/
  gone : Bool
  deriving DecidableEq, Repr

structure RegionDyn where
  bankA : Tbl Nat
  bankB : Tbl Nat
  /-- Banks with a parity error that no spill has followed yet (Table 7.3). -/
  suspect : List Bool
  tOpen : Time
  /-- The ARM or the start of the epoch from which the object measures (R169). -/
  since : Time
  /-- Instants of the swaps that this accumulation has missed (R177, R178). -/
  missed : List Time
  closing : Option Closing
  /-- Accumulations closed by automatic swaps that wait for a bank, oldest first (R178). -/
  deferred : List Closing
  /-- Instants of HISTOGRAM_CLEARs whose values are still held (R177, R181). -/
  clears : List Time
  /-- Counts whose accumulation a swap may still move: time and counter (R176, R177). -/
  recent : List (Time × Nat)
  sweeps : List Sweep
  /-- Pairing state: pending edge of A, its polarity and flag. -/
  startT : Option Time
  startRise : Bool
  startFlag : Bool
  /-- Edges of B (SKEW) or reference events (EDGE_REL), and edges of A that wait for theirs: time, rising, flagged; by time. -/
  bEdges : List (Time × Bool × Bool)
  aEdges : List (Time × Bool × Bool)
  deriving DecidableEq, Repr

structure HistUnit where
  regions : Tbl RegionDyn
  /-- The 64-entry value queue (R174). -/
  values : List HistValue
  /-- Values that a deferred swap keeps waiting for their bank (R178). -/
  held : List HistValue
  /-- Values and column endings binned in the slot in progress (R174). -/
  valueOps : Nat
  columnOps : Nat
  /-- Regions in the order of their swaps, waiting for the spill engine (R179). -/
  spillOrder : List Nat
  deriving DecidableEq, Repr

/-- Images of a histogram object (R180): bytes, oldest first, and the next SNAP_SEQ. -/
structure HistImages where
  images : List (Nat × List Byte)
  /-- Memory address of each image's spill buffer (R281). -/
  places : List Nat
  nextSeq : Nat
  deriving DecidableEq, Repr

/-! ### Interval units (chapter 8) -/

/-- An event for an interval unit. -/
inductive IvEv where
  | a (rise : Bool)
  | b (rise : Bool)
  /-- One event that is both source A and source B of a TI job. -/
  | ab (rise : Bool)
  | gateOpen
  | gateClose
  | reset
  /-- A loss of source A begins (R198). -/
  | lossA
  deriving DecidableEq, Repr

structure IvTimed where
  at_ : Time
  flags : EvFlags
  ev : IvEv
  deriving DecidableEq, Repr

structure IvalDyn where
  events : List IvTimed
  /-- Pending start (TI, PERIOD, WIDTH): time, polarity and flags. -/
  start : Option Time
  startRise : Bool
  flags : EvFlags
  /-- Open window: its opening time. -/
  window : Option Time
  /-- First and last edge of the window, edges counted, and partial flag. -/
  first : Option Time
  last : Time
  count : Nat
  partial_ : Bool
  /-- Loss spans of the sources since the job started: of source A, start, end (R198). -/
  losses : List (Bool × Time × Option Time)
  /-- ARM or restart instant from which free windows run (R190). -/
  origin : Time
  /-- Edges since ARM (free TOTALISE); index of the next free window. -/
  total : Nat
  windowIdx : Nat
  /-- Periods completed in the measurement in progress. -/
  periods : Nat
  /-- A events of a TI job since its previous result (Table 8.4). -/
  starts : Nat
  /-- Flags of the edge that opened the gate: it makes the VALUE of a gated TOTALISE (R186). -/
  gateFlags : EvFlags
  /-- Wraps of the measurement in progress that IU_OVF_CNT has counted (R196). -/
  counted : Nat
  /-- Wraps of abandoned measurements since the last result (R196, R199). -/
  wraps : Nat
  orphans : Nat
  abandoned : Nat
  skipped : Nat
  /-- TIME of the last emitted result (R195). -/
  lastTime : Option Time
  rseq : Byte
  /-- Result registers latched by a read of IU_RES_VALUE_LO (Table 8.8). -/
  latched : Option (List Word)
  deriving DecidableEq, Repr

/-! ### Streams (chapter 9) -/

/-- A closed segment in a stream's ring. -/
structure Segment where
  seq : Nat
  words : List DWord
  channel : Nat
  /-- Position in words of its first word, counted from the stream's creation. -/
  pos : Nat
  hasLoss : Bool
  flushPoint : Bool
  /-- Time of its BASE, of its last record, of its MARK if it holds one, and instant of its close. -/
  time : Time
  last : Time
  markTime : Option Time
  closed : Time
  /-- Its bursts have been asked for: it leaves the DRAM once all have been read (R280). -/
  asked : Bool := false
  /-- A member ends at its close: DISARM or new settings (R225, R248). -/
  memberEnd : Bool
  deriving DecidableEq, Repr

/-- A loss that is open on a stream (R20, R216). -/
structure OpenLoss where
  cause : BitVec 4
  scope : BitVec 2
  index : Nat
  start : Time
  upto : Time
  count : Nat
  deriving DecidableEq, Repr

/-- A run of missing segments that delivery must replace by a loss segment (R218, R219). -/
structure Missing where
  firstSeq : Nat
  segs : Nat
  cause : BitVec 4
  count : Nat
  from_ : Time
  upTo : Time
  /-- Start of the ring that the run is of (R218). -/
  ringStart : Time
  deriving DecidableEq, Repr

/-- A descriptor taken (Table 9.19). -/
structure Desc where
  num : Nat
  addr : Nat
  len : Nat
  bufId : Half
  interrupt : Bool
  /-- It breaks Table 9.19. -/
  bad : Bool
  deriving DecidableEq, Repr

/-- Bytes on their way from a compressor engine into host buffers, and what they carry (R223 to R225): the MARK's SEG_SEQ
and TIME, whether a LOSS is in them, the first segment that begins in them, how many begin, the segment in progress, and
whether the buffer ends after them, and with which member flags. -/
structure OutChunk where
  bytes : List Byte
  mark : Option (Nat × Time)
  loss : Bool
  first : Option Nat
  starts : Nat
  inSeq : Nat
  close : Bool
  memberEnd : Bool
  memberAbort : Bool
  deriving DecidableEq, Repr

/-- A segment on its way through a compressor engine: whether it carries a MARK or a LOSS, and whether its first byte is still
to leave the engine (R223 to R225). -/
structure SegTag where
  seq : Nat
  mark : Option Time
  loss : Bool
  fresh : Bool
  deriving DecidableEq, Repr

structure StreamDyn where
  segSeq : Nat
  /-- Words of the open segment, oldest first; empty when none is open. -/
  open_ : List DWord
  openPos : Nat
  /-- TIME of the latest BASE in the open segment, and of its opening BASE. -/
  baseTime : Time
  openTime : Time
  /-- TIME of the MARK in the open segment. -/
  openMark : Option Time
  openLoss : Bool
  /-- Time of the segment's first record after its opening BASE. -/
  firstRecord : Option Time
  lastRecord : Time
  ringStartTime : Time
  ringStartPos : Nat
  ringStartFlag : Bool
  ring : List Segment
  losses : List OpenLoss
  missing : List Missing
  marks : List Mark
  /-- Windows in words of stream position: from, to; an open window ends at none (R130 to R133). -/
  windows : List (Nat × Option Nat)
  /-- Sequencers that hold the stream's window open. -/
  openers : List Nat
  /-- Next SEG_SEQ to deliver, and time of the last record delivered. -/
  nextDeliver : Nat
  deliveredTime : Time
  wordsLost : Nat
  /-- DESC_TAIL, CPL_HEAD, descriptors taken, completions written (R222). -/
  descTail : Nat
  cplHead : Nat
  descTaken : Nat
  cplWritten : Nat
  descs : List Desc
  /-- Number of the next descriptor to read: descTaken, or behind it while descriptors are read again (Table 15.13 step 7). -/
  descFetched : Nat
  /-- Loss segments that delivery has put in the place of missing ones and not yet moved on (R218). -/
  taken : List Segment
  /-- Output of the compressor engine not yet in a buffer (R254). -/
  outq : List OutChunk
  /-- The buffer in progress: bytes placed, its MARK, a LOSS in it, first segment begun, segments begun, segment in
  progress (Table 9.20). -/
  fillLen : Nat
  fillMark : Option (Nat × Time)
  fillLoss : Bool
  fillFirst : Option Nat
  fillStarts : Nat
  fillSeq : Nat
  /-- The session has ended: once nothing waits, the buffer in progress is completed and a member ends (R223). -/
  fillClose : Bool
  /-- The member in progress: bits that do not yet form a byte (R254), input bytes, pending stored run (R252), CRC-32 register
  and Adler-32 sums. -/
  memberOpen : Bool
  acc : List Bool
  memberBytes : Nat
  storedRun : List Byte
  /-- The segments of the pending run with the bytes of each, and the segments of the bits in `acc` (R225). -/
  runTags : List (SegTag × Nat)
  accTags : List SegTag
  /-- Format and effort of the member in progress (R248). -/
  memberFormat : Nat
  /-- Bindings that COMMITs have replaced, each with the SEG_SEQ of the last segment it holds for (R248). -/
  oldBinds : List (Nat × List Byte)
  crcReg : Word
  adlerA : Nat
  adlerB : Nat
  /-- The last 32 KiB of the member's input, newest byte first (R249, Table 11.4). -/
  window : List Byte
  /-- Where the stream's context stands while no slot holds it: the channel of its saved copy, and whether a freeze has taken it
  (R256, R259). -/
  ctxChan : Option Nat
  ctxLost : Bool
  dmaFailed : Bool
  /-- Stream position after the last delivered segment of the ring (R130). -/
  deliveredEnd : Nat
  /-- The ring's queue, in words from the start of its oldest segment: MARK, READ and RELEASE; items skipped that the next read
  reports; a stalled read (R227, R234, R235, R237). -/
  qMark : Option Nat
  qRead : Nat
  qRel : Nat
  qMarkLost : Bool
  qSkip : Nat
  qStalled : Option (Nat × Bool)
  skipState : Bool
  /-- A segment's staging bank is full, or drains into the ring's store (R229). -/
  bankFull : Bool
  draining : Bool
  /-- A record that arrives by QUEUE_WRITE: words still to come, those that have come, and the TIME that its offset counts from. -/
  recLeft : Nat
  recPart : List DWord
  recBase : Time
  /-- Words the last read of the ring's queue returned, its V and SKIP; how its last operation failed, as in QueueDyn. -/
  qLast : List DWord
  qLastV : Nat
  qLastSkip : Option Nat
  qFail : Nat
  deriving DecidableEq, Repr

/-! ### On-chip queues and stake queues (chapter 10) -/

/-- An item of a queue: the word and its last-word or end mark. -/
structure QItem where
  word : DWord
  last : Bool
  deriving DecidableEq, Repr

/-- A queue of Table 10.1. `items` are the held items from RELEASE; READ, VISIBLE and MARK are offsets from RELEASE. -/
structure QueueDyn where
  items : List QItem
  released : Word
  read : Nat
  visible : Nat
  mark : Option Nat
  markLost : Bool
  /-- Items skipped that the next read reports (R235). -/
  skip : Option Nat
  /-- A stalled read: items asked for, and whether it is a POP (R237). -/
  stalled : Option (Nat × Bool)
  /-- The producer discards words up to the end of an item after a flush (R243). -/
  skipState : Bool
  /-- The device discards the rest of a rejected packet (R232). -/
  rejecting : Bool
  /-- Items that the filling staging bank holds, and items of the bank that drains (R229). -/
  filling : Nat
  draining : Nat
  /-- Commit times and lengths of the packets in the queue, oldest first (queue 0: the commit edges of R401). -/
  times : List (Time × Nat)
  /-- Of a stake queue: the header of the record being written and its words still to come; the released words of a record
  that its consumer has not yet taken whole (R226, R235). -/
  recHead : DWord
  recLeft : Nat
  popped : List DWord
  /-- Item count the last read returned, V in bytes, END, SKIP (R231). -/
  lastV : Nat
  lastEnd : Bool
  lastItems : List DWord
  /-- SKIP count that came with it. -/
  lastSkip : Option Nat
  /-- How the last operation failed: 0 not at all, 1 NO_MARK, 2 MARK_LOST. -/
  lastFail : Nat
  deriving DecidableEq, Repr

/-! ### Engines (chapter 11) -/

/-- A member that an engine has found CORRUPT and that waits for its rerun (R264): what the first engine reported, and what a
sound engine finds in diagnostic mode. -/
structure Corrupt where
  ref : Nat
  member : Nat
  offset : Nat
  rerun : Rerun
  deriving DecidableEq, Repr

structure EngineDyn where
  /-- Self-test of the engine running (R266). -/
  testing : Bool
  /-- Latched _HI halves of the _LO counters (Table 11.8). -/
  inHi : Option Word
  outHi : Option Word
  /-- Slot served least recently comes first. -/
  lru : List Nat
  /-- A decompressor engine that has left its job for other work, in diagnostic mode or not, where its job's context is saved, and
  the members whose reruns are due (R256, R261, R264). -/
  away : Bool
  diag : Bool
  ctxChan : Option Nat
  ctxLost : Bool
  corrupt : List Corrupt
  deriving DecidableEq, Repr

/-! ### Memory (chapter 12) -/

structure ChanDyn where
  /-- Corrected errors in this operating hour and MA of the first (R273). -/
  ceHour : Nat
  ceFirst : Nat
  /-- Total drift adjustment since training, 1/64 UI steps. -/
  drift : Int
  /-- Sweep step gathering data; rate change that waits for its end (R292). -/
  sweeping : Bool
  rateReq : Option (BitVec 2)
  /-- Saved settings: last working delays are in the training registers. -/
  deferPosted : Bool
  deriving DecidableEq, Repr

/-- A request of a port at a channel's scheduler (R276): bursts that it still asks for, from one on. -/
structure MemReq where
  port : Nat
  burst : Nat
  left : Nat
  deriving DecidableEq, Repr

/-- A channel's scheduler (R276, R277): reads and writes that wait, the write queue, and whether a drain runs. -/
structure ChanSched where
  reads : List MemReq
  writes : List MemReq
  queue : List Nat
  drain : Bool
  /-- A segment of a ring has been written on the channel: which of its pages rings lie in is not given (R274; log entry 105). -/
  ring : Bool
  deriving DecidableEq, Repr

/-- The training area of a channel after training has written it (R271, R285): its first address, the free value that its
first byte reads as (the others follow), and the addresses that something else has written since. -/
structure TrainArea where
  from_ : Nat
  base : Nat
  rewritten : List Nat
  deriving DecidableEq, Repr

structure MemState where
  /-- DRAM bytes by memory address; unlisted reads zero (R274). -/
  dram : List Host.Cell
  /-- Written pages, MA[36:21] (R274). -/
  written : List Nat
  train : List TrainArea
  chans : Tbl ChanDyn
  deriving DecidableEq, Repr

/-! ### Ledger (chapter 16) -/

/-- A record that waits for CC2 to create it (R373, R378). -/
structure LedgerReq where
  type : Half
  severity : BitVec 3
  unit : Word
  trigger : Byte
  body : List Byte
  /-- It stands in the 256-entry list of sequencer requests, and the slot in which its sequencer asked (R120). -/
  fromSeq : Bool
  slot : Nat := 0
  deriving DecidableEq, Repr

/-- A created record: SEQ and all its bytes (Table 16.3). -/
structure LedgerRec where
  seq : Nat
  bytes : List Byte
  tail : Bool
  deriving DecidableEq, Repr

/-- A copy of the metadata (Tables 16.1 and 16.2): what stands in MRAM for each item, and the items whose CRC-32 fails there (R371). -/
structure MetaCopy where
  opSeconds : Word
  powerCycles : Word
  generation : Word
  firstSeq : Nat
  pendingClear : Option LedgerRec
  refused : Word
  wallTime : Option DWord
  key : Option (List Byte)
  keyId : Word
  rollback : Word
  transients : List (Word × Nat)
  retired : List Word
  snaps : Tbl (List Word)
  scrub : Word
  scrubPasses : Word
  bad : List MetaItem
  deriving DecidableEq, Repr

structure LedgerState where
  reqs : List LedgerReq
  bank0 : List LedgerRec
  bank1 : List LedgerRec
  /-- SEQs of records that failed in both banks and stay in place (R395). -/
  lost : List Nat
  wallTime : Option DWord
  /-- Station key (32 bytes) and identifier (R389). -/
  key : Option (List Byte)
  keyId : Word
  /-- Both copies of the key failed: no clear and no new key for the rest of the device's life (R371). -/
  keyLost : Bool
  /-- Challenge in force and the operating second of its issue (R390). -/
  challenge : Option (List Byte × Nat)
  rollback : Word
  /-- Snapshot lists, by trigger source; unlisted takes the default of Table 16.5. -/
  snaps : Tbl (List Word)
  /-- The pending clear (Table 16.7 step 3): the CLEARED record that it writes. -/
  pendingClear : Option LedgerRec
  /-- Copies A and B in `hd.mr02` (R370). -/
  metaA : MetaCopy
  metaB : MetaCopy
  deriving DecidableEq, Repr

/-! ### Station port (chapter 17) -/

structure StationState where
  /-- Port read that waits: STN_A. -/
  pendingRead : Option (BitVec 2)
  /-- Words read of the verdict packet in progress. -/
  partRead : Nat
  lastEnd : Bool
  skipped : Bool
  lostVerdicts : Nat
  lostAnnotations : Nat
  /-- Value of the last completed port read, as driven on STN_D. -/
  dataOut : Half
  wait : Bool
  hold : Bool
  /-- Latched event bits of STN_ALERT: RETIRED, SPARE_DAC (R408). -/
  retiredEvt : Bool
  spareEvt : Bool
  wakeN : Bool
  deriving DecidableEq, Repr

/-- Instructions of the test access port (R413). -/
inductive TapInstr where
  | bypass
  | idcode
  | samplePreload
  | extest
  | clamp
  | highz
  deriving DecidableEq, Repr

/-- The test access port: its instruction and its boundary register. -/
structure TapState where
  instr : TapInstr
  boundary : List Bool
  deriving DecidableEq, Repr

/-- What the device shows outside besides DMA: the last bus read, the last SMBus transfer. -/
structure OutState where
  readData : DWord
  readOk : Bool
  readUr : Bool
  readPoisoned : Bool
  readBytes : List Byte
  /-- Attributes of the completion: those of its request (R361). -/
  readAttr : BitVec 3
  smbus : List Byte
  /-- The board holds TRST_N low in operation, so that the port stays in its reset state (R413). -/
  tap : TapState
  deriving DecidableEq, Repr

/-! ### The whole state -/

structure State where
  /-- Commands that wait, first in, first out. -/
  pending : List Instr
  /-- The register file by BAR 0 address; unlisted registers read as their reset values. -/
  regs : Tbl Word
  /-- RW register values as firmware last wrote them (R317, R445); unlisted is the reset value. -/
  fwRegs : Tbl Word
  mbx : MailboxState
  pcie : PcieState
  time : TimeState
  power : PowerState
  weaver : WeaverState
  lanes : Tbl LaneDyn
  stakes : Tbl StakeDyn
  ports : Tbl PortDyn
  trig : TrigState
  seqs : Tbl SeqDyn
  touts : Tbl ToutDyn
  refs : Tbl RefDyn
  cmps : Tbl CmpDyn
  hists : Tbl HistUnit
  images : Tbl HistImages
  ivals : Tbl IvalDyn
  streams : Tbl StreamDyn
  queues : Tbl QueueDyn
  ces : Tbl EngineDyn
  des : Tbl EngineDyn
  mem : MemState
  scheds : Tbl ChanSched
  ledger : LedgerState
  station : StationState
  out : OutState
  /-- MODEL'S OWN: how many free values have been drawn (Config.free applies to it); no field of the spec. -/
  drawn : Nat
  deriving DecidableEq, Repr

/-! ### Initial values -/

def EvFlags.none : EvFlags := { unstamped := false, coarse := false, pod := false }

def Intent.empty : Intent := { lanes := [], pods := [], defs := [], constraints := [] }

def Placement.empty : Placement :=
  { seqs := [], terms := [], cmps := [], ivals := [], hists := [], refs := [], streams := [], trig := [], slots := [] }

/-- Defaults that apply when the board configuration block is absent (R268, R347, R368, R401, R404, R412); the serial
number is chosen (log entry 4). -/
def Board.default : Board :=
  { ordering := .zs192c, serial := 0, channelGib := 8, smbAddr := 0x5A, linkHold := 10, syncPreload := 4096
    stnTimeoutUs := 1000, subsysVid := 0x1F3C, subsysId := 0x2C19 }

def Mailbox.init : Mailbox :=
  { image := none, owner := false, taken := none, started := false, ready := none, status := 0, detail := 0
    rlength := 0, epoch := 0, health := 0, rtag := 0, respUs := 0, payload := [] }

def QueueDyn.init : QueueDyn :=
  { items := [], released := 0, read := 0, visible := 0, mark := none, markLost := false, skip := none
    stalled := none, skipState := false, rejecting := false, filling := 0, draining := 0, times := []
    recHead := 0, recLeft := 0, popped := []
    lastV := 0, lastEnd := false, lastItems := [], lastSkip := none, lastFail := 0 }

def StreamDyn.init : StreamDyn :=
  { segSeq := 0, open_ := [], openPos := 0, baseTime := 0, openTime := 0, openMark := none, openLoss := false, firstRecord := none
    lastRecord := 0, ringStartTime := 0, ringStartPos := 0, ringStartFlag := false, ring := [], losses := []
    missing := [], marks := [], windows := [], openers := [], nextDeliver := 0, deliveredTime := 0, wordsLost := 0
    descTail := 0, cplHead := 0, descTaken := 0, cplWritten := 0, descs := [], descFetched := 0, taken := [], outq := []
    fillLen := 0, fillMark := none, fillLoss := false, fillFirst := none, fillStarts := 0, fillSeq := 0
    fillClose := false, memberOpen := false, acc := [], memberBytes := 0, storedRun := []
    runTags := [], accTags := [], memberFormat := 0, oldBinds := [], crcReg := 0xFFFFFFFF, adlerA := 1
    adlerB := 0, window := [], ctxChan := none, ctxLost := false, dmaFailed := false, deliveredEnd := 0
    qMark := none, qRead := 0, qRel := 0, qMarkLost := false, qSkip := 0, qStalled := none, skipState := false
    bankFull := false, draining := false, recLeft := 0, recPart := [], recBase := 0, qLast := [], qLastV := 0
    qLastSkip := none, qFail := 0 }

def CompDyn.init : CompDyn :=
  { high := false, from_ := 0, e := 0, burst := none, coarse := false, onSpare := false }

def LaneDyn.init : LaneDyn :=
  { l := CompDyn.init, u := CompDyn.init, lastRecord := 0, block := none, full := [], levelDue := none, pairFrom := 0
    lastClock := none, history := [], baseL := false, baseU := false, pendL := none, pendU := none, returning := false
    logical := false, calTemp := 0, calTime := 0 }

def StakeDyn.init : StakeDyn := { waiting := [], sweeping := false }

/-- A pod as enumerated. The spec gives no starting value of the frame sequence number that the port expects: 0 (DESIGN CHOICE,
log entry 98). -/
def PodDyn.init : PodDyn :=
  { serial := 0, fsn := 0, drop := none, info := [], dig := [], digBad := 0, digHold := false, pending := []
    lastQ := none, lastFrame := none, linkLoss := false, broken := false, lossClosed := false, mgmtSeen := false, absent := 0, image := []
    adding := none }

/-- A port at reset: its link-up, and so link time 0, falls at session timestamp 0 (DESIGN CHOICE, log entry 98: R71 counts link
time from the port's link-up and no command sets it). -/
def PortDyn.init : PortDyn :=
  { beacon := none, cBase := 0, pods := [], nextSlots := [], levels := [], nextSeq := 0, passed := [], unlocked := false
    tested := none, outbox := [], down := 0, bad := [] }

def TrigState.init : TrigState := { inputs := [], meas := [], since := [], results := [], dets := [], later := [], confirmed := [] }

def SeqDyn.init : SeqDyn :=
  { next := 0, deadEnd := none, lastMark := none, markSeq := 0, timers := [], cntTime := [], forced := [] }

def ToutDyn.init : ToutDyn := { requests := [], served := none, activeUntil := none }

def RefDyn.init : RefDyn :=
  { phase := .empty, format := 0, bytes := 0, members := [], ends := [], demand := 0, digest := [], pages := [], fault := none }

def CmpDyn.init : CmpDyn :=
  { nextStep := 0, step := none, queue := [], stationAt := none, events := [], losses := [], dropped := []
    lastRecordSlot := none, anchors := [], base := [], horizon := 0 }

def RegionDyn.init : RegionDyn :=
  { bankA := [], bankB := [], suspect := [], tOpen := 0, since := 0, missed := [], closing := none, deferred := [], clears := [], recent := [], sweeps := []
    startT := none, startRise := false, startFlag := false, bEdges := [], aEdges := [] }

def HistUnit.init : HistUnit := { regions := [], values := [], held := [], valueOps := 0, columnOps := 0, spillOrder := [] }

def HistImages.init : HistImages := { images := [], places := [], nextSeq := 0 }

def IvalDyn.init : IvalDyn :=
  { events := [], start := none, startRise := false, flags := EvFlags.none, window := none, first := none, last := 0
    count := 0, partial_ := false, losses := [], origin := 0, total := 0, windowIdx := 0, periods := 0, starts := 0
    gateFlags := EvFlags.none, counted := 0, wraps := 0, orphans := 0
    abandoned := 0, skipped := 0, lastTime := none, rseq := 0, latched := none }

def EngineDyn.init : EngineDyn :=
  { testing := false, inHi := none, outHi := none, lru := [], away := false, diag := false, ctxChan := none, ctxLost := false
    corrupt := [] }

def ChanDyn.init : ChanDyn :=
  { ceHour := 0, ceFirst := 0, drift := 0, sweeping := false, rateReq := none, deferPosted := false }

def ChanSched.init : ChanSched := { reads := [], writes := [], queue := [], drain := false, ring := false }

def MailboxState.init : MailboxState :=
  { boxes := [], order := [], ringAddr := 0, ringEntries := 0, ringVector := none, noticesLost := 0 }

/-- Device Control after reset as PCI Express gives it: 128-byte payloads, 512-byte reads, relaxed ordering and
extended tags enabled; Bus Master Enable clear (log entry 4). -/
def PcieState.init : PcieState :=
  { memSpace := false, bar0 := 0, bar2 := 0, romBar := 0, rom := { ordering := .zs192c, manifest := [], running := 0, pending := 0xFF }
    busMaster := false, d3hot := false, linkUp := true, maxPayload := 128, maxReadRequest := 512, extendedTag := true
    tenBitTag := false, relaxedOrdering := true, completionTimeout := 0, pmeEn := false, pmeStatus := false
    outstanding := [], nextTag := 0, queued := [], parts := [], delivered := [], held := [], sent := [], pba := [], msix := [], abandoned := [], entries := []
    stagedWindows := [], aer := 0, aerCor := 0, headerLog := [], aerFirst := 0, devStatus := 0, msixEnable := false, msixMask := false, cfg := []
    flr := false, bar2Logged := [], bar2Waits := [] }

def TimeState.init : TimeState :=
  { tsCd0 := 0, tsCd1 := 0, tsHd := 0, tsEpoch := 0, armed := false, armTime := 0, syncWait := none
    newEpoch := false, syncOuts := 0, tbHist := [(0, 2)] }

def FwState.init : FwState :=
  { staging := none, programming := none, running := 0, version := 0x0204, pending := none, slot0 := [], slot1 := [], image0 := [], image1 := [], bad := []
    keyX := Config.firmwareKeyX, keyY := Config.firmwareKeyY }

def PowerState.init : PowerState :=
  { board := Board.default, boardA := [], boardB := [], perst := false, powered := true, pwrFail := false, stopped := false, outputsOff := false
    hotDie := none, tempHd := 0, tempCd0 := 0, tempCd1 := 0, holdCause := none, fw := FwState.init }

def WeaverState.init : WeaverState :=
  { gens := [], created := [], staged := Intent.empty, committed := Intent.empty, place := Placement.empty, shed := []
    heldRseq := [], heldCmps := [], healthDig := [], retired := [], transients := [], tests := [], hostTests := [], nextTestId := 0, calibrating := []
    replaceDue := false, egress := 1000, mismatches := [], digSecs := [] }

def MemState.init : MemState := { dram := [], written := [], train := [], chans := [] }

/-- The START_UP record that step 10 of Table 18.6 asks for: running slot 0, version 4.2, no unit returned. -/
def LedgerReq.startUp : LedgerReq :=
  { type := 0x0001, severity := 1, unit := 0x81000000, trigger := 0x12
    body := [0, 0, 0, 0, 4, 2, 0, 0, 0, 0, 0, 0, 0, 0, 0, 0], fromSeq := false }

def MetaCopy.init : MetaCopy :=
  { opSeconds := 0, powerCycles := 0, generation := 0, firstSeq := 0, pendingClear := none, refused := 0, wallTime := none, key := none
    keyId := 0, rollback := 0, transients := [], retired := [], snaps := [], scrub := 0, scrubPasses := 0, bad := [] }

def LedgerState.init : LedgerState :=
  { reqs := [], bank0 := [], bank1 := [], lost := [], wallTime := none, key := none, keyId := 0, keyLost := false, challenge := none, rollback := 0
    snaps := [], pendingClear := none, metaA := MetaCopy.init, metaB := MetaCopy.init }

def StationState.init : StationState :=
  { pendingRead := none, partRead := 0, lastEnd := false, skipped := false, lostVerdicts := 0, lostAnnotations := 0
    dataOut := 0, wait := false, hold := false, retiredEvt := false, spareEvt := false, wakeN := false }

def OutState.init : OutState :=
  { readData := 0, readOk := false, readUr := false, readPoisoned := false, readBytes := [], readAttr := 0, smbus := []
    tap := { instr := .idcode, boundary := [] } }

/-- The machine after PERST_N deasserts and start-up completes (R12): READY, disarmed, epoch 0, no object, nothing
staged or committed, every queue empty, memory with nothing written. START_UP leaves one ledger record to create
(Table 18.6 step 10). -/
def State.reset : State :=
  { pending := [], regs := [], fwRegs := [], mbx := MailboxState.init, pcie := PcieState.init, time := TimeState.init
    power := PowerState.init, weaver := WeaverState.init, lanes := [], stakes := [], ports := []
    trig := TrigState.init, seqs := [], touts := [], refs := [], cmps := [], hists := [], images := [], ivals := []
    streams := [], queues := [], ces := [], des := [], mem := MemState.init, scheds := []
    ledger := { LedgerState.init with reqs := [LedgerReq.startUp] }
    station := StationState.init, out := OutState.init, drawn := 0 }

/-- Why the machine stops. No command of this model stops it: every row of the table has an effect in the spec. -/
inductive Fault where
  /-- Not raised by any command; safe. -/
  | none_
  deriving DecidableEq, Repr

/-- Why a command has no meaning. -/
inductive Refusal where
  /-- The command's meaning is not written yet; safe. -/
  | notModelled (mnemonic : String)
  deriving DecidableEq, Repr

end Sys2Proof.Machine
end

