-- ==== Sys2Proof/Machine/Queue.lean ====
section
/-!
DEFINITION. The queue discipline (chapter 10) on one queue, as plain functions. `items` runs from RELEASE to WRITE;
`read`, `visible` and `mark` are offsets from RELEASE (R227).
-/
namespace Sys2Proof.Machine

/-- How a queue holds packets (Table 10.1). -/
inductive PacketKind where
  | none | ordinary | privileged
  deriving DecidableEq, Repr

structure QKind where
  cap : Nat
  itemBytes : Nat
  packets : PacketKind
  /-- Most items of a packet; 0 where there are no packets. -/
  limit : Nat
  deriving DecidableEq, Repr

/-- Capacity of a stake queue: the spec gives hub staging as a whole (R32), not a stake queue's share of it. -/
opaque stakeQueueItems : Nat

/-- Table 10.1. Numbers 0 to 4 are the on-chip queues; 5 to 16 the stake queues. -/
def qKind : Nat → QKind
  | 0 => { cap := 8192, itemBytes := 2, packets := .ordinary, limit := 2048 }
  | 1 => { cap := 2048, itemBytes := 2, packets := .privileged, limit := 8 }
  | 2 => { cap := 8192, itemBytes := 8, packets := .privileged, limit := 8 }
  | 3 => { cap := 32768, itemBytes := 8, packets := .privileged, limit := 64 }
  | 4 => { cap := 4096, itemBytes := 8, packets := .privileged, limit := 2 }
  | _ => { cap := stakeQueueItems, itemBytes := 8, packets := .none, limit := 0 }

/-- Words of a record, from its first word (Table 9.3). -/
def recordWords (w : DWord) : Nat :=
  match fld w 60 4 with
  | 0x3 => 2
  | 0x4 => 2
  | 0x5 => 1 + fld w 46 6
  | 0x6 => 4
  | 0x7 => 1 + ceilDiv (fld w 50 8) 8
  | 0x8 => 2
  | 0x9 => 5
  | 0xB => 2
  | 0xC => 3
  | 0xD => 2
  | 0xE => 1 + fld w 46 6
  | _ => 1

/-- Items up to and with the first last-marked one. -/
def firstPacket : List QItem → Nat
  | [] => 0
  | i :: t => if i.last then 1 else 1 + firstPacket t

/-- Positions in one queue. -/
def QueueDyn.occ (q : QueueDyn) : Nat := q.items.length
def QueueDyn.depth (q : QueueDyn) : Nat := q.visible - q.read

/-- Whole packets that wait: visible, with their end-marked word unread (R233). -/
def QueueDyn.pkts (k : QKind) (q : QueueDyn) : Nat :=
  match k.packets with
  | .privileged => ((q.items.take q.visible).drop q.read).countP (·.last)
  | _ => 0

/-- Items of the oldest overwrite unit (Table 10.1); 0 when nothing committed can be removed. Of a record that the consumer
has taken in part, the rest. -/
def oldestUnit (k : QKind) (q : QueueDyn) : Nat :=
  match k.packets with
  | .none =>
    match q.popped, q.items with
    | _, [] => 0
    | [], i :: _ => min (recordWords i.word) q.items.length
    | w :: t, _ => min (max 1 (recordWords w - (t.length + 1))) q.items.length
  | _ => if q.visible = 0 then 0 else firstPacket q.items

/-- The result of a producer's operation: the queue, items newly lost, packets aborted or rejected, the items of the removed
unit, how many of them had not been read, the unit's commit times and lengths, and whether the item was discarded at the
staging. -/
structure QOut where
  q : QueueDyn
  lost : Nat := 0
  bad : Nat := 0
  gone : List QItem := []
  unread : Nat := 0
  goneTimes : List (Time × Nat) := []
  staged : Bool := false
  deriving DecidableEq, Repr

/-- Remove the first `n` items, counting the unread as lost and destroying a mark or moving READ within them (R235). -/
def QueueDyn.removeOldest (q : QueueDyn) (n : Nat) : QueueDyn × Nat :=
  let lost := n - min n q.read
  let packets := (q.items.take n).countP (·.last)
  ({ q with
      items := q.items.drop n
      released := q.released + BitVec.ofNat 32 n
      read := q.read - n
      visible := q.visible - n
      mark := match q.mark with | some m => if m < n then none else some (m - n) | none => none
      markLost := q.markLost || (match q.mark with | some m => decide (m < n) | none => false)
      skip := if lost = 0 then q.skip else some (q.skip.getD 0 + lost)
      times := q.times.drop packets
      popped := [] }, lost)

/-- Rewind the packet being written: its words vanish (R232). -/
def QueueDyn.rewindPacket (q : QueueDyn) : QueueDyn := { q with items := q.items.take q.visible }

/-- Count an item in the filling staging bank (R229): a full bank hands over when the other has drained. -/
def QueueDyn.stage (k : QKind) (q : QueueDyn) : QueueDyn :=
  let f := min (q.filling + 1) (4096 / k.itemBytes)
  if f * k.itemBytes = 4096 && q.draining == 0 then { q with filling := 0, draining := f }
  else { q with filling := f }

/-- Room for one more item: remove the oldest unit of a full queue; none when only an uncommitted packet fills it. -/
def QueueDyn.makeRoom (k : QKind) (q : QueueDyn) : Option (QueueDyn × Nat × List QItem × List (Time × Nat)) :=
  if q.occ < k.cap then some (q, 0, [], [])
  else
    let n := oldestUnit k q
    if n = 0 then none
    else
      let r := q.removeOldest n
      some (r.1, r.2, q.items.take n, q.times.take ((q.items.take n).countP (·.last)))

/-- The producer's place in a record of a stake queue: its header gives the words to come. -/
def QueueDyn.track (q : QueueDyn) (w : DWord) : QueueDyn :=
  if q.recLeft = 0 then { q with recHead := w, recLeft := recordWords w - 1 } else { q with recLeft := q.recLeft - 1 }

/-- Both staging banks are full: the drain has stopped (R229). -/
def QueueDyn.stagingFull (k : QKind) (q : QueueDyn) : Bool := decide (q.filling * k.itemBytes = 4096) && q.draining != 0

/-- An item arrives (R229, R232, R233, R235): the skip state and a rejected packet swallow it; a parity error or a packet over
its limit rejects the packet; a stopped drain loses the item, and the rest of its packet with it; a full queue loses its oldest
unit. -/
def QueueDyn.push (k : QKind) (q : QueueDyn) (w : DWord) (last parity : Bool) (t : Time) : QOut :=
  let w := if k.itemBytes = 2 then w &&& 0xFFFF else w
  let bare := k.packets == PacketKind.none
  let q := if bare then q.track w else q
  let ends := if bare then decide (q.recLeft = 0) else last
  if q.skipState then { q := { q with skipState := !ends }, lost := 1 }
  else if q.rejecting then { q := { q with rejecting := !last } }
  else if !bare && (parity || decide (k.limit ≤ q.occ - q.visible)) then { q := { q.rewindPacket with rejecting := !last }, bad := 1 }
  else if q.stagingFull k then
    if bare then { q := q, lost := 1, staged := true }
    else { q := { q.rewindPacket with skipState := !last }, lost := q.occ - q.visible + 1, staged := true }
  else
    match q.makeRoom k with
    | none => { q := { q.rewindPacket with rejecting := !last }, bad := 1 }
    | some (q1, lost, gone, goneTimes) =>
      let items := q1.items ++ [{ word := w, last := last }]
      let q2 := { q1 with
        items := items
        visible := if bare || last then items.length else q1.visible
        times := if last then q1.times ++ [(t, items.length - q1.visible)] else q1.times }
      { q := q2.stage k, lost := lost, gone := gone, unread := lost, goneTimes := goneTimes }

/-- The producer aborts the packet it has open (R232): it is rewound and counted; an abort also ends a rejected packet's
discarding and the skip state. -/
def QueueDyn.abort (q : QueueDyn) : QOut :=
  if q.skipState || q.rejecting then
    { q := { q with skipState := false, rejecting := false } }
  else if q.visible < q.occ then { q := q.rewindPacket, bad := 1 }
  else { q := q }

/-- A flush (R243): every item goes, the mark is cleared, and a producer inside an item enters the skip state. -/
def QueueDyn.flush (k : QKind) (q : QueueDyn) : QueueDyn × Nat :=
  ({ q with
      items := []
      released := q.released + BitVec.ofNat 32 q.occ
      read := 0, visible := 0, mark := none, markLost := false, skip := none, times := []
      popped := []
      skipState := q.skipState || (if k.packets == PacketKind.none then decide (0 < q.recLeft) else decide (q.visible < q.occ)) },
   q.occ - q.read)

/-- How many items a READ of at most `n` returns (R231). -/
def QueueDyn.readCount (k : QKind) (q : QueueDyn) (n : Nat) : Nat :=
  let most := min (min n (64 / k.itemBytes)) q.depth
  match k.packets with
  | .privileged => min most (firstPacket ((q.items.take q.visible).drop q.read))
  | _ => most

/-- READ (R231, R234): items from READ, their V, END and SKIP; a read at depth 0 stalls (R237). -/
def QueueDyn.doRead (k : QKind) (q : QueueDyn) (n : Nat) (pop : Bool) : QueueDyn :=
  if q.depth = 0 then { q with stalled := some (n, pop), lastFail := 0 }
  else
    let c := q.readCount k n
    let got := (q.items.drop q.read).take c
    { q with
      read := q.read + c
      stalled := none
      skip := none
      lastSkip := q.skip
      lastItems := got.map (·.word)
      lastV := c * k.itemBytes
      lastEnd := k.packets == PacketKind.privileged && (match got.getLast? with | some i => i.last | none => false)
      lastFail := 0 }

/-- The 512-bit word of a read: its items packed from byte 0, zeros beyond V (R231). -/
def readWord (itemBytes : Nat) (items : List DWord) : BitVec 512 :=
  BitVec.ofNat 512 (items.zipIdx.foldl (fun a x => a + x.1.toNat * 2 ^ (8 * itemBytes * x.2)) 0)

/-- RELEASE := READ, and the mark is cleared (R234). -/
def QueueDyn.release (q : QueueDyn) : QueueDyn :=
  { q with
    items := q.items.drop q.read
    released := q.released + BitVec.ofNat 32 q.read
    visible := q.visible - q.read
    read := 0
    mark := none
    times := q.times.drop ((q.items.take q.read).countP (·.last))
    lastFail := 0 }

/-- POP: READ, then RELEASE up to the new READ; a POP that stalls releases nothing. -/
def QueueDyn.doPop (k : QKind) (q : QueueDyn) (n : Nat) : QueueDyn :=
  if q.depth = 0 then q.doRead k n true else (q.doRead k n true).release

/-- SET_MARK: MARK := READ. -/
def QueueDyn.setMark (q : QueueDyn) : QueueDyn := { q with mark := some q.read, markLost := false, lastFail := 0 }

/-- REWIND: READ := MARK, or NO_MARK (1) or MARK_LOST (2). -/
def QueueDyn.rewind (q : QueueDyn) : QueueDyn :=
  match q.mark with
  | some m => { q with read := m, lastFail := 0 }
  | none => { q with markLost := false, lastFail := if q.markLost then 2 else 1 }

/-- RELEASE_TO_MARK: RELEASE := MARK; the mark stays set. -/
def QueueDyn.releaseToMark (q : QueueDyn) : QueueDyn :=
  match q.mark with
  | some m =>
    { q with
      items := q.items.drop m
      released := q.released + BitVec.ofNat 32 m
      visible := q.visible - m
      read := q.read - m
      mark := some 0
      times := q.times.drop ((q.items.take m).countP (·.last))
      lastFail := 0 }
  | none => { q with lastFail := 1 }

/-- A stalled read completes once something is visible (R237). -/
def QueueDyn.completeStalled (k : QKind) (q : QueueDyn) : QueueDyn :=
  match q.stalled with
  | some (n, pop) => if q.depth = 0 then q else if pop then q.doPop k n else q.doRead k n false
  | none => q

/-- A stalled read is withdrawn: it returns nothing and changes no position (R237). -/
def QueueDyn.withdraw (q : QueueDyn) : QueueDyn := { q with stalled := none }

/-- The filling bank hands over (R229): only when it holds an item and the other bank has drained. -/
def QueueDyn.handover (q : QueueDyn) : QueueDyn :=
  if q.filling = 0 || q.draining != 0 then q else { q with filling := 0, draining := q.filling }

/-- The draining bank is empty; a full filling bank then hands over. -/
def QueueDyn.drainDone (k : QKind) (q : QueueDyn) : QueueDyn :=
  if q.filling * k.itemBytes = 4096 then { q with filling := 0, draining := q.filling }
  else { q with draining := 0 }

end Sys2Proof.Machine
end

