-- ==== Sys2Proof/Machine/Regs.lean ====
section
/-!
DEFINITION. The register file (chapter 19): block bases (Tables 19.2 and 19.3), what each register's bits are
(Tables 2.5 to 19.5), and the addresses of the registers by name. Masks and resets are numbers.
A reset value marked `-- chosen` is one the spec leaves to start-up and this model names (log entry 4).
-/
namespace Sys2Proof.Machine

/-- Access masks of a register (Table 0.5) and its value after start-up (R12). Bits in no mask are RSV. -/
structure RegSpec where
  rw : Nat
  ro : Nat
  w1c : Nat
  wo : Nat
  rc : Nat
  reset : Nat
  deriving DecidableEq, Repr

/-- A row of a block: `count` registers from `off`, `stride` apart. `ix`: Table 19.7 counts each of them. -/
structure RegRow where
  off : Nat
  count : Nat
  stride : Nat
  ix : Bool
  spec : RegSpec
  deriving DecidableEq, Repr

/-- One bit mask of bits [hi:lo]. -/
def bits (hi lo : Nat) : Nat := 2 ^ (hi + 1) - 2 ^ lo

def rowOf (off : Nat) (sp : RegSpec) : RegRow := { off := off, count := 1, stride := 4, ix := true, spec := sp }
def rows (off count stride : Nat) (ix : Bool) (sp : RegSpec) : RegRow :=
  { off := off, count := count, stride := stride, ix := ix, spec := sp }

def specRw (m r : Nat) : RegSpec := { rw := m, ro := 0, w1c := 0, wo := 0, rc := 0, reset := r }
def specRo (m r : Nat) : RegSpec := { rw := 0, ro := m, w1c := 0, wo := 0, rc := 0, reset := r }
def specRc (m : Nat) : RegSpec := { rw := 0, ro := 0, w1c := 0, wo := 0, rc := m, reset := 0 }
/-- A 32-bit RC counter. -/
def cnt : RegSpec := specRc 0xFFFFFFFF
/-- A 32-bit RW word that resets to 0. -/
def rw32 : RegSpec := specRw 0xFFFFFFFF 0
/-- A 32-bit RO word that resets to 0. -/
def ro32 : RegSpec := specRo 0xFFFFFFFF 0

/-- Lanes, Tables 2.5 to 2.13. -/
def lnRows : List RegRow :=
  [ rowOf 0x00 (specRw (bits 5 0 + bits 21 8) 0x00108001)
  , rowOf 0x04 (specRw (bits 11 0 + bits 27 16) 0x0BD00720)
  , rowOf 0x08 (specRw (bits 20 0) 40)
  , rowOf 0x0C (specRw (bits 15 0) 40)
  , rowOf 0x10 { specRw (bits 31 16) 0 with ro := bits 15 0 }          -- CAL 0 chosen
  , rowOf 0x14 (specRw (bits 11 0) 0)
  , rowOf 0x18 (specRo (bits 9 0) 3)                                   -- both locked; STATE chosen
  , rowOf 0x1C { specRo 0 0 with w1c := bits 3 0 }
  , rowOf 0x20 cnt ]

/-- Stakes, Tables 2.14 to 2.17 and 4.7 to 4.12. -/
def stkRows : List RegRow :=
  [ rowOf 0x00 (specRo (bits 15 0) 0)                                  -- chosen
  , rowOf 0x04 ro32                                                    -- chosen
  , rowOf 0x08 (specRo (bits 6 0) 0)
  , rowOf 0x0C ro32
  , rows 0x100 16 0x10 false (specRw (bits 2 0) 0)
  , rows 0x104 16 0x10 false rw32
  , rows 0x108 16 0x10 false rw32
  , rows 0x10C 16 0x10 false cnt
  , rows 0x200 8 0x20 false (specRw (bits 20 0) 0xA0)
  , rows 0x204 8 0x20 false rw32
  , rows 0x208 8 0x20 false (specRw (bits 15 0) 0)
  , rows 0x20C 8 0x20 false rw32
  , rows 0x210 8 0x20 false (specRw (bits 15 0) 0)
  , rows 0x214 8 0x20 false ro32
  , rows 0x218 8 0x20 false (specRo (bits 16 0) 0)
  , rows 0x21C 8 0x20 false cnt
  , rows 0x300 4 0x20 false (specRw (bits 9 0) 0xC)
  , rows 0x304 4 0x20 false (specRw (bits 19 0) 0)
  , rows 0x308 4 0x20 false (specRw (bits 19 0) 0)
  , rows 0x30C 4 0x20 false (specRo (bits 19 0) 0)
  , rows 0x310 4 0x20 false (specRo (bits 15 0) 0)
  , rows 0x314 4 0x20 false cnt
  , rows 0x380 2 0x08 false (specRw (bits 6 0 + bits 31 16) 0)
  , rows 0x384 2 0x08 false cnt ]

/-- Weaves, Table 4.12. -/
def wvRows : List RegRow := [ rows 0x40 4 4 true (specRw 3 0) ]

/-- Pod ports, Tables 3.9 to 3.12, 4.11 and 4.12. -/
def ppRows : List RegRow :=
  [ rowOf 0x00 (specRo (bits 20 0) 0)                                  -- no pods: chosen
  , rowOf 0x04 (specRo (bits 15 0) 0)
  , rowOf 0x08 ro32
  , rowOf 0x0C ro32
  , rowOf 0x10 cnt
  , rowOf 0x14 cnt
  , rowOf 0x18 cnt
  , rowOf 0x1C cnt
  , rowOf 0x20 (specRo (bits 16 0) 0)                                  -- chosen
  , rows 0x80 32 4 false (specRo (bits 16 0) 0)
  , rows 0x100 62 4 false (specRo (bits 5 0) 0)
  , rowOf 0x1F8 (specRo (bits 16 0) 0)
  , rows 0x200 16 0x40 false (specRw 7 0)
  , rows 0x204 16 0x40 false rw32
  , rows 0x208 16 0x40 false rw32
  , rows 0x20C 16 0x40 false rw32
  , rows 0x210 16 0x40 false rw32
  , rows 0x214 16 0x40 false rw32
  , rows 0x218 16 0x40 false rw32
  , rows 0x21C 16 0x40 false rw32
  , rows 0x220 16 0x40 false rw32
  , rows 0x224 16 0x40 false cnt
  , rows 0x600 8 0x20 false (specRw (bits 2 0 + bits 24 5) 0xA0)
  , rows 0x604 8 0x20 false rw32
  , rows 0x608 8 0x20 false (specRw (bits 15 0) 0)
  , rows 0x60C 8 0x20 false rw32
  , rows 0x610 8 0x20 false (specRw (bits 15 0) 0)
  , rows 0x614 8 0x20 false ro32
  , rows 0x618 8 0x20 false (specRo (bits 16 0) 0)
  , rows 0x61C 8 0x20 false cnt
  , rowOf 0x700 (specRw (bits 13 0) 2)
  , rowOf 0x704 rw32
  , rowOf 0x708 cnt ]

/-- Sequencers, Tables 5.9 to 5.12. The four actions and level tables repeat every 0x80. -/
def sqRows : List RegRow :=
  [ rowOf 0x000 (specRw 7 0)
  , rowOf 0x004 (specRw (bits 23 0) 0)
  , rowOf 0x008 (specRo (bits 5 0) 0)
  , rowOf 0x00C (specRo (bits 23 0) 0)
  , rowOf 0x010 ro32
  , rowOf 0x014 (specRo (bits 7 0) 0)
  , rowOf 0x018 (specRo (bits 15 0) 0)
  , rowOf 0x01C cnt
  , rows 0x040 16 4 false (specRw (bits 19 0) 0)
  , rows 0x080 4 0x10 true ro32
  , rows 0x084 4 0x10 true (specRo (bits 15 0) 0)
  , rows 0x088 4 0x10 true rw32
  , rows 0x08C 4 0x10 true (specRw (bits 15 0) 0)
  , rows 0x0C0 4 0x10 true ro32
  , rows 0x0C4 4 0x10 true (specRo (bits 16 0) 0)
  , rows 0x0C8 4 0x10 true rw32
  , rows 0x0CC 4 0x10 true (specRw (bits 15 0) 0) ]

/-- Level-table rows of a sequencer: the offset within one level (0x00 to 0x7F), Table 5.12. -/
def sqLevelRows : List RegRow :=
  [ rows 0x00 8 4 false (specRw (bits 10 0) 0)
  , rows 0x20 4 0x10 false rw32
  , rows 0x24 4 0x10 false (specRw (bits 5 0) 0)
  , rows 0x28 4 0x10 false rw32
  , rows 0x2C 4 0x10 false rw32 ]

/-- Histogram units, Tables 7.4 and 7.5. -/
def huRows : List RegRow :=
  [ rowOf 0x000 (specRo (bits 12 0) 0)
  , rowOf 0x004 cnt
  , rowOf 0x008 cnt
  , rowOf 0x00C cnt
  , rowOf 0x010 cnt
  , rows 0x100 16 0x40 false { specRw (bits 26 0) 0x80 with ro := bits 28 27 }
  , rows 0x104 16 0x40 false { specRw (bits 16 0) 0 with ro := bits 24 17 }
  , rows 0x108 16 0x40 false rw32
  , rows 0x10C 16 0x40 false rw32
  , rows 0x110 16 0x40 false rw32
  , rows 0x114 16 0x40 false (specRw (bits 15 0) 0)
  , rows 0x118 16 0x40 false rw32
  , rows 0x11C 16 0x40 false (specRw (bits 24 0) 0)
  , rows 0x120 16 0x40 false ro32
  , rows 0x124 16 0x40 false ro32
  , rows 0x128 16 0x40 false ro32
  , rows 0x12C 16 0x40 false ro32
  , rows 0x130 16 0x40 false ro32
  , rows 0x134 16 0x40 false ro32
  , rows 0x138 16 0x40 false ro32
  , rows 0x13C 16 0x40 false (specRo (bits 2 0 + bits 31 16) 0) ]

/-- Compare units, Table 6.9. -/
def cuRows : List RegRow :=
  [ rowOf 0x00 (specRw (bits 1 0 + bits 31 16) 0)
  , rowOf 0x04 (specRw (bits 11 0) 0)
  , rowOf 0x08 (specRw (bits 2 0) 0)
  , rowOf 0x0C (specRo (bits 5 0 + bits 31 16) 0)
  , rowOf 0x10 ro32
  , rowOf 0x14 ro32
  , rowOf 0x18 (specRo (bits 15 0) 0)
  , rowOf 0x1C cnt
  , rowOf 0x20 cnt
  , rowOf 0x24 cnt
  , rowOf 0x28 cnt
  , rowOf 0x2C cnt ]

/-- Interval units, Tables 8.7 and 8.8. -/
def iuRows : List RegRow :=
  [ rowOf 0x00 (specRw (bits 11 0 + bits 31 16) 0xA0)
  , rowOf 0x04 rw32
  , rowOf 0x08 rw32
  , rowOf 0x0C (specRw (bits 15 0) 1)
  , rowOf 0x10 (specRo (bits 3 0) 0)
  , rowOf 0x20 ro32
  , rowOf 0x24 (specRo (bits 22 0) 0)
  , rowOf 0x28 ro32
  , rowOf 0x2C (specRo (bits 15 0) 0)
  , rowOf 0x30 ro32
  , rowOf 0x34 ro32
  , rowOf 0x38 ro32
  , rowOf 0x3C ro32
  , rowOf 0x40 (specRo (bits 23 0) 0)
  , rowOf 0x44 (specRo (bits 27 0) 0)
  , rowOf 0x50 cnt
  , rowOf 0x54 cnt
  , rowOf 0x58 cnt
  , rowOf 0x5C cnt ]

/-- Register file control, Table 19.5. -/
def rfRows : List RegRow := [ rowOf 0x00 (specRo (bits 0 0 + bits 31 16) 0), rowOf 0x04 ro32 ]

/-- Endpoint, Table 15.16. The link after start-up is chosen: 64 GT/s, 16 lanes, Flit mode, up (log entry 4). -/
def pciRows : List RegRow :=
  [ rowOf 0x000 (specRo (bits 10 0) 0x706)
  , rowOf 0x004 cnt
  , rowOf 0x008 cnt
  , rowOf 0x00C ro32
  , rowOf 0x010 cnt
  , rowOf 0x014 cnt
  , rowOf 0x018 (specRo (bits 11 0) 10)
  , rowOf 0x01C (specRo (bits 9 0) 0)
  , rowOf 0x020 cnt
  , rowOf 0x024 ro32
  , rowOf 0x028 (specRo (bits 3 0) 0)
  , rowOf 0x02C cnt
  , rowOf 0x030 cnt
  , rowOf 0x034 ro32
  , rows 0x100 64 4 true ro32 ]

/-- Mailboxes, Table 14.16, with the class of each mailbox (Table 14.3). -/
def mbRows : List RegRow :=
  [ rows 0x000 4 0x10 true (specRo (bits 3 0 + bits 31 16) 0)
  , rows 0x040 4 0x10 true (specRo (bits 3 0 + bits 31 16) 0x4)
  , rows 0x080 16 0x10 true (specRo (bits 3 0 + bits 31 16) 0x8)
  , rows 0x180 8 0x10 true (specRo (bits 3 0 + bits 31 16) 0xC)
  , rows 0x004 32 0x10 true cnt
  , rows 0x008 32 0x10 true cnt
  , rows 0x00C 32 0x10 true cnt
  , rowOf 0x200 ro32
  , rowOf 0x204 ro32
  , rowOf 0x208 (specRo 3 2)
  , rowOf 0x20C (specRo (bits 15 0) 0) ]

/-- Health, Table 13.8. -/
def healthRows : List RegRow :=
  [ rowOf 0x000 ro32
  , rowOf 0x004 (specRo (bits 8 0) 0)
  , rowOf 0x008 (specRo (bits 15 0) 0)                                 -- nothing retired: chosen
  , rowOf 0x00C (specRo (bits 17 0) 192000)
  , rowOf 0x010 cnt
  , rowOf 0x014 cnt
  , rowOf 0x018 cnt
  , rows 0x020 8 4 false ro32
  , rows 0x040 8 4 false ro32
  , rows 0x060 24 4 false ro32
  , rows 0x0C0 24 4 false ro32
  , rowOf 0x120 (specRo (bits 3 0) 0) ]

/-- On-chip queues, Tables 10.5, 10.6 and 10.1: watermark reset and capacity of queue q. -/
def queueRows (q wm cap : Nat) : List RegRow :=
  [ rowOf (0x20 * q + 0x00) (specRw 0xFFFFFFFF wm)
  , rowOf (0x20 * q + 0x04) (specRo (bits 16 0) 0)
  , rowOf (0x20 * q + 0x08) (specRo (bits 16 0) 0)
  , rowOf (0x20 * q + 0x0C) (specRo (bits 15 0) 0)
  , rowOf (0x20 * q + 0x10) cnt
  , rowOf (0x20 * q + 0x14) (specRo (bits 6 0) 0)
  , rowOf (0x20 * q + 0x18) cnt
  , rowOf (0x20 * q + 0x1C) (specRo (bits 16 0) cap) ]

def qRows : List RegRow :=
  queueRows 0 (6144 + 4096 * 65536) 8192 ++ queueRows 1 (1536 + 1024 * 65536) 2048 ++
  queueRows 2 (6144 + 4096 * 65536) 8192 ++ queueRows 3 (24576 + 8192 * 65536) 32768 ++
  queueRows 4 (3072 + 2048 * 65536) 4096

/-- Trigger outputs, Table 5.13. -/
def toutRows : List RegRow := [ rows 0x00 4 8 true (specRw (bits 17 0) 80), rows 0x04 4 8 true cnt ]

/-- Station, Table 17.8. -/
def stnRows : List RegRow :=
  [ rowOf 0x000 (specRo (bits 16 0) 0)
  , rowOf 0x004 cnt
  , rowOf 0x008 cnt
  , rowOf 0x00C cnt
  , rowOf 0x010 cnt
  , rowOf 0x014 { specRc (bits 15 0) with ro := bits 16 16 }
  , rowOf 0x018 (specRo (bits 4 0) 0)
  , rowOf 0x01C ro32 ]

/-- Power, Table 18.8: READY, every rail in tolerance. PWR_DOM_ON is computed (Machine/View.lean). -/
def pwrRows : List RegRow :=
  [ rowOf 0x000 (specRo (bits 11 0) 1)
  , rowOf 0x004 (specRo (bits 8 0) 0x1FF)
  , rowOf 0x008 cnt
  , rowOf 0x00C ro32                                                   -- chosen
  , rows 0x010 9 4 false ro32 ]

/-- Clock, Table 18.9: crystal, no reference, root PLL locked (log entry 4). -/
def clkRows : List RegRow :=
  [ rowOf 0x000 (specRo (bits 7 0) 0x82)
  , rowOf 0x004 (specRo 0xFFFFFFFF 0x80000000)
  , rowOf 0x008 (specRo (bits 13 0) 0)
  , rowOf 0x00C cnt
  , rowOf 0x010 cnt
  , rowOf 0x014 cnt ]

/-- Ledger, Table 16.8: both banks in service and empty, no key (log entry 4). -/
def lgRows : List RegRow :=
  [ rowOf 0x000 (specRo (bits 8 0) 3)
  , rowOf 0x004 ro32
  , rowOf 0x008 ro32
  , rowOf 0x00C ro32
  , rowOf 0x010 ro32
  , rowOf 0x014 ro32
  , rowOf 0x018 (specRo (bits 21 0) 0)
  , rowOf 0x01C ro32
  , rowOf 0x020 ro32
  , rowOf 0x024 ro32
  , rowOf 0x028 ro32
  , rowOf 0x02C cnt
  , rowOf 0x030 cnt
  , rowOf 0x034 (specRo (bits 6 0) 0)
  , rowOf 0x038 ro32 ]

/-- Compressor engines, Table 11.8. -/
def ceRows : List RegRow :=
  [ rowOf 0x00 (specRo (bits 9 0) 0)
  , rowOf 0x04 ro32, rowOf 0x08 ro32, rowOf 0x0C ro32, rowOf 0x10 ro32
  , rowOf 0x14 cnt, rowOf 0x18 cnt, rowOf 0x1C cnt, rowOf 0x20 cnt, rowOf 0x24 cnt, rowOf 0x28 cnt
  , rows 0x40 8 4 true (specRo (bits 21 0) 0) ]

/-- Decompressor engines, Table 11.9. -/
def deRows : List RegRow :=
  [ rowOf 0x00 (specRo (bits 4 0 + bits 31 16) 0)
  , rowOf 0x04 ro32, rowOf 0x08 ro32
  , rowOf 0x0C cnt, rowOf 0x10 cnt
  , rowOf 0x14 (specRo (bits 7 0) 0)
  , rowOf 0x18 ro32, rowOf 0x1C (specRo (bits 15 0) 0)
  , rowOf 0x20 ro32, rowOf 0x24 (specRo (bits 15 0) 0)
  , rowOf 0x28 cnt, rowOf 0x2C cnt ]

/-- Memory channels, Tables 12.8 to 12.10: active at 12.8 Gb/s with 8 GiB fitted (log entry 4). -/
def mcRows : List RegRow :=
  [ rowOf 0x000 (specRo (bits 16 0) 0x41)
  , rowOf 0x004 cnt, rowOf 0x008 cnt, rowOf 0x00C cnt
  , rowOf 0x010 ro32, rowOf 0x014 (specRo (bits 9 0) 0), rowOf 0x018 ro32
  , rowOf 0x01C (specRo (bits 7 0) 0)
  , rowOf 0x020 (specRc (bits 15 0))
  , rowOf 0x024 ro32                                                   -- chosen
  , rowOf 0x028 (specRo (bits 23 0) 0)                                 -- chosen
  , rowOf 0x02C cnt
  , rowOf 0x030 (specRo 3 0)
  , rowOf 0x034 cnt
  , rowOf 0x038 ro32
  , rowOf 0x100 { specRw (bits 4 1) 0 with wo := 1, ro := bits 6 5 }
  , rowOf 0x104 (specRw (bits 23 0) 0)
  , rowOf 0x108 (specRw (bits 30 0) 1)
  , rows 0x140 24 4 true (specRw (bits 6 0 + bits 14 8) 0)             -- chosen
  , rowOf 0x1A0 (specRw (bits 6 0 + bits 14 8) 0)                      -- chosen
  , rowOf 0x1A4 (specRw (bits 6 0 + bits 14 8) 0)                      -- chosen
  , rows 0x200 24 4 true ro32
  , rowOf 0x260 ro32
  , rows 0x400 288 4 false rw32 ]

/-- A register block: code, base (the die offset for a capture block), stride and instances (per die). -/
structure Block where
  code : Nat
  base : Nat
  stride : Nat
  count : Nat
  rows : List RegRow
  deriving DecidableEq, Repr

/-- Table 19.2. -/
def capBlocks : List Block :=
  [ ⟨0x20, 0x000000, 0x40, 96, lnRows⟩, ⟨0x21, 0x010000, 0x400, 6, stkRows⟩, ⟨0x22, 0x020000, 0x100, 2, wvRows⟩
  , ⟨0x23, 0x030000, 0x800, 8, ppRows⟩, ⟨0x24, 0x040000, 0x1000, 16, sqRows⟩, ⟨0x25, 0x050000, 0x1000, 2, huRows⟩
  , ⟨0x26, 0x060000, 0x100, 4, cuRows⟩, ⟨0x27, 0x070000, 0x100, 8, iuRows⟩ ]

/-- Table 19.3. -/
def hubBlocks : List Block :=
  [ ⟨0x01, 0x100000, 0x100, 1, rfRows⟩, ⟨0x02, 0x101000, 0x200, 1, pciRows⟩, ⟨0x03, 0x102000, 0x400, 1, mbRows⟩
  , ⟨0x04, 0x103000, 0x200, 1, healthRows⟩, ⟨0x05, 0x104000, 0x100, 1, qRows⟩, ⟨0x06, 0x105000, 0x100, 1, toutRows⟩
  , ⟨0x07, 0x106000, 0x100, 1, stnRows⟩, ⟨0x08, 0x107000, 0x100, 1, pwrRows⟩, ⟨0x09, 0x108000, 0x100, 1, clkRows⟩
  , ⟨0x0A, 0x109000, 0x100, 1, lgRows⟩, ⟨0x10, 0x110000, 0x100, 16, ceRows⟩, ⟨0x11, 0x120000, 0x100, 8, deRows⟩
  , ⟨0x12, 0x200000, 0x1000, 16, mcRows⟩ ]

/-- The spec of the register at offset `o` of a block, if a row holds it. -/
def RegRow.holds (r : RegRow) (o : Nat) : Bool :=
  r.off ≤ o && (o - r.off) % r.stride == 0 && (o - r.off) / r.stride < r.count

def findRow (rs : List RegRow) (o : Nat) : Option RegSpec := (rs.find? (·.holds o)).map (·.spec)

/-- The register at offset `o` of block `b`; a sequencer's level tables repeat every 0x80 from 0x100 (Table 5.12). -/
def Block.spec (b : Block) (o : Nat) : Option RegSpec :=
  if b.code = 0x24 ∧ 0x100 ≤ o ∧ o < 0x900 then findRow sqLevelRows ((o - 0x100) % 0x80) else findRow b.rows o

def findBlock (bs : List Block) (o : Nat) : Option RegSpec :=
  match bs.find? (fun b => b.base ≤ o && o < b.base + b.stride * b.count) with
  | some b => b.spec ((o - b.base) % b.stride)
  | none => none

/-- The word at BAR 0 address `a` (R435, R436): the register there, or ALIVE (Table 15.8, READY after start-up); none
where the address is reserved. -/
def regSpec (a : Nat) : Option RegSpec :=
  if a % 4 ≠ 0 then none
  else if a = 0 then some (specRo 0xFFFFFFFF 0x4B5A1000)
  else if a < 0x1000000 then findBlock hubBlocks a
  else if a < 0x3000000 then findBlock capBlocks (a % 0x1000000)
  else none

/-- What a register holds when it is not listed in the register file: its value after start-up; reserved space 0. -/
def regDefault (a : Nat) : Word :=
  match regSpec a with
  | some sp => BitVec.ofNat 32 sp.reset
  | none => 0

/-! ### Addresses by name (R435, R436) -/

def capAddr (off stride per n o : Nat) : Nat := 0x1000000 * (n / per + 1) + off + stride * (n % per) + o

def LN (n o : Nat) : Nat := capAddr 0x000000 0x40 96 n o
def STK (n o : Nat) : Nat := capAddr 0x010000 0x400 6 n o
def WV (n o : Nat) : Nat := capAddr 0x020000 0x100 2 n o
def PP (n o : Nat) : Nat := capAddr 0x030000 0x800 8 n o
def SQ (n o : Nat) : Nat := capAddr 0x040000 0x1000 16 n o
def HU (n o : Nat) : Nat := capAddr 0x050000 0x1000 2 n o
def CU (n o : Nat) : Nat := capAddr 0x060000 0x100 4 n o
def IU (n o : Nat) : Nat := capAddr 0x070000 0x100 8 n o
def CE (n o : Nat) : Nat := 0x110000 + 0x100 * n + o
def DE (n o : Nat) : Nat := 0x120000 + 0x100 * n + o
def MC (n o : Nat) : Nat := 0x200000 + 0x1000 * n + o

def ALIVE : Nat := 0
def LN_CFG (n : Nat) : Nat := LN n 0x00
def LN_THR (n : Nat) : Nat := LN n 0x04
def LN_FOLLOW (n : Nat) : Nat := LN n 0x08
def LN_FOLLOW_U (n : Nat) : Nat := LN n 0x0C
def LN_DESKEW (n : Nat) : Nat := LN n 0x10
def LN_STATE_DLY (n : Nat) : Nat := LN n 0x14
def LN_STATUS (n : Nat) : Nat := LN n 0x18
def LN_EVT (n : Nat) : Nat := LN n 0x1C
def LN_BURSTS (n : Nat) : Nat := LN n 0x20
def STK_CAL_TEMP (n : Nat) : Nat := STK n 0x00
def STK_CAL_TIME (n : Nat) : Nat := STK n 0x04
def STK_SPARE (n : Nat) : Nat := STK n 0x08
def STK_PACK_LOST (n : Nat) : Nat := STK n 0x0C
def PP_STATUS (n : Nat) : Nat := PP n 0x00
def PP_SFN (n : Nat) : Nat := PP n 0x04
def PP_PRESENT (n : Nat) : Nat := PP n 0x08
def PP_MISMATCH (n : Nat) : Nat := PP n 0x0C
def PP_BAD_FRAMES (n : Nat) : Nat := PP n 0x10
def PP_LOST_LINK (n : Nat) : Nat := PP n 0x14
def PP_LOST_BUDGET (n : Nat) : Nat := PP n 0x18
def PP_BREAKS (n : Nat) : Nat := PP n 0x1C
def PP_RDEV (n : Nat) : Nat := PP n 0x20
def PP_DELAY (n p : Nat) : Nat := PP n (0x80 + 4 * p)
def PP_SLOT (n f : Nat) : Nat := PP n (0x100 + 4 * f)
def PP_SWITCH (n : Nat) : Nat := PP n 0x1F8
def SQ_CFG (n : Nat) : Nat := SQ n 0x000
def SQ_HOLDOFF (n : Nat) : Nat := SQ n 0x004
def SQ_STATUS (n : Nat) : Nat := SQ n 0x008
def SQ_MISSED (n : Nat) : Nat := SQ n 0x00C
def SQ_DEAD_LO (n : Nat) : Nat := SQ n 0x010
def SQ_FOLDED (n : Nat) : Nat := SQ n 0x018
def SQ_MARKS (n : Nat) : Nat := SQ n 0x01C
def SQ_BIND (n k : Nat) : Nat := SQ n (0x040 + 4 * k)
def SQ_CNT_LO (n i : Nat) : Nat := SQ n (0x080 + 0x10 * i)
def SQ_CNT_LIMIT_LO (n i : Nat) : Nat := SQ n (0x088 + 0x10 * i)
def SQ_TMR_LO (n i : Nat) : Nat := SQ n (0x0C0 + 0x10 * i)
def SQ_TMR_HI (n i : Nat) : Nat := SQ n (0x0C4 + 0x10 * i)
def SQ_TMR_LIMIT_LO (n i : Nat) : Nat := SQ n (0x0C8 + 0x10 * i)
def SQ_TSEL (n j t : Nat) : Nat := SQ n (0x100 + 0x80 * j + 4 * t)
def SQ_BR_COND (n j b : Nat) : Nat := SQ n (0x120 + 0x80 * j + 0x10 * b)
def SQ_BR_CTL (n j b : Nat) : Nat := SQ n (0x124 + 0x80 * j + 0x10 * b)
def SQ_BR_ACT_LO (n j b : Nat) : Nat := SQ n (0x128 + 0x80 * j + 0x10 * b)
def SQ_BR_ACT_HI (n j b : Nat) : Nat := SQ n (0x12C + 0x80 * j + 0x10 * b)
def HU_STATUS (n : Nat) : Nat := HU n 0x000
def HU_OVERFLOW (n : Nat) : Nat := HU n 0x004
def HU_SPILLS (n : Nat) : Nat := HU n 0x008
def HU_PARITY (n : Nat) : Nat := HU n 0x00C
def HU_IMG_LOST (n : Nat) : Nat := HU n 0x010
/-- Region register `o` of region `r` (Table 7.5). -/
def HU_RG (n r o : Nat) : Nat := HU n (0x100 + 0x40 * r + o)
def HUB_RF_STATE : Nat := 0x100000
def HUB_RF_LAPSE : Nat := 0x100004
def PCI (o : Nat) : Nat := 0x101000 + o
def PCI_LINK : Nat := PCI 0x000
def PCI_LINK_DOWNS : Nat := PCI 0x004
def PCI_BME_CLEARS : Nat := PCI 0x008
def PCI_FLRS : Nat := PCI 0x00C
def PCI_CTO : Nat := PCI 0x010
def PCI_LATE_CPL : Nat := PCI 0x014
def PCI_LINK_HOLD : Nat := PCI 0x018
def PCI_OUTSTANDING : Nat := PCI 0x01C
def PCI_BAR2_UR : Nat := PCI 0x020
def PCI_BAR2_UR_ADDR_LO : Nat := PCI 0x024
def PCI_BAR2_UR_ADDR_HI : Nat := PCI 0x028
def PCI_BAR2_WDROP : Nat := PCI 0x02C
def PCI_BAR2_POISON : Nat := PCI 0x030
def PCI_BAR2_GEN_NEXT : Nat := PCI 0x034
def PCI_BAR2_GEN (w : Nat) : Nat := PCI (0x100 + 4 * w)
def MB_STATE (m : Nat) : Nat := 0x102000 + 0x10 * m
def MB_CMDS (m : Nat) : Nat := 0x102004 + 0x10 * m
def MB_IGNORED (m : Nat) : Nat := 0x102008 + 0x10 * m
def MB_RESP_MAX (m : Nat) : Nat := 0x10200C + 0x10 * m
def MB_NTF_TAIL : Nat := 0x102200
def MB_NTF_HEAD : Nat := 0x102204
def MB_NTF_CFG : Nat := 0x102208
def MB_NTF_NSEQ : Nat := 0x10220C
def HUB_EPOCH : Nat := 0x103000
def HUB_HEALTH : Nat := 0x103004
def HUB_RETIRED : Nat := 0x103008
def HUB_GUAR_INGEST : Nat := 0x10300C
def HUB_REPLACEMENTS : Nat := 0x103010
def HUB_TRANSIENTS : Nat := 0x103014
def HUB_LASTING : Nat := 0x103018
def HUB_CDIG (i : Nat) : Nat := 0x103020 + 4 * i
def HUB_PDIG (i : Nat) : Nat := 0x103040 + 4 * i
def HUB_DDIG_EXP (d i : Nat) : Nat := 0x103060 + 0x20 * d + 4 * i
def HUB_DDIG_RPT (d i : Nat) : Nat := 0x1030C0 + 0x20 * d + 4 * i
def HUB_DIG_MATCH : Nat := 0x103120
def HUB_Q (q o : Nat) : Nat := 0x104000 + 0x20 * q + o
def HUB_TOUT_CTL (i : Nat) : Nat := 0x105000 + 8 * i
def HUB_TOUT_COUNT (i : Nat) : Nat := 0x105004 + 8 * i
def STN (o : Nat) : Nat := 0x106000 + o
def STN_ERR : Nat := STN 0x004
def STN_TIMEOUTS : Nat := STN 0x008
def STN_DISCARDED : Nat := STN 0x00C
def STN_WITHDRAWN : Nat := STN 0x010
def STN_SYNC : Nat := STN 0x014
def STN_ALERT : Nat := STN 0x018
def STN_PRELOAD : Nat := STN 0x01C
def PWR_STATE : Nat := 0x107000
def PWR_RAIL : Nat := 0x107004
def PWR_FAILS : Nat := 0x107008
def PWR_STARTUP_US : Nat := 0x10700C
def PWR_DOM_ON (i : Nat) : Nat := 0x107010 + 4 * i
def CLK_STATUS : Nat := 0x108000
def CLK_REF_PPB : Nat := 0x108004
def CLK_HOLDOVER : Nat := 0x108008
def CLK_EVENTS : Nat := 0x10800C
def CLK_REF_LOSTS : Nat := 0x108010
def CLK_REF_BADS : Nat := 0x108014
def LG (o : Nat) : Nat := 0x109000 + o
def LG_STATUS : Nat := LG 0x000
def LG_GENERATION : Nat := LG 0x004
def LG_FIRST_SEQ_LO : Nat := LG 0x008
def LG_NEXT_SEQ_LO : Nat := LG 0x010
def LG_USED : Nat := LG 0x018
def LG_REFUSED : Nat := LG 0x01C
def LG_OP_SECONDS : Nat := LG 0x020
def LG_POWER_CYCLES : Nat := LG 0x024
def LG_KEY_ID : Nat := LG 0x028
def LG_FLUSHES : Nat := LG 0x02C
def LG_VERIFY_FAIL : Nat := LG 0x030
def LG_SCRUB : Nat := LG 0x034
def LG_SCRUB_PASSES : Nat := LG 0x038
def MC_STATUS (n : Nat) : Nat := MC n 0x000
def MC_CE_COUNT (n : Nat) : Nat := MC n 0x004
def MC_UE_COUNT (n : Nat) : Nat := MC n 0x008
def MC_CMD_ERR (n : Nat) : Nat := MC n 0x00C
def MC_TRAIN_TIME (n : Nat) : Nat := MC n 0x024
def MC_TRAIN_TEMP (n : Nat) : Nat := MC n 0x028
def MC_RETRAINS (n : Nat) : Nat := MC n 0x02C
def MC_STEPDOWNS (n : Nat) : Nat := MC n 0x030
def MC_SR_ENTRIES (n : Nat) : Nat := MC n 0x034
def MC_SCRUB_PASSES (n : Nat) : Nat := MC n 0x038
def MC_TRN_CTL (n : Nat) : Nat := MC n 0x100
def MC_TRN_CA (n : Nat) : Nat := MC n 0x1A0
def MC_TRN_VREF (n : Nat) : Nat := MC n 0x1A4
def MC_TRN_FAIL_BITS (n : Nat) : Nat := MC n 0x260
/-- Registers of the 24 pins of a channel, and of the 8 slots of an engine. -/
def MC_TRN_DELAY (n p : Nat) : Nat := MC n (0x140 + 4 * (p % 24))
def MC_TRN_ERR (n p : Nat) : Nat := MC n (0x200 + 4 * (p % 24))
def CE_SLOT (n k : Nat) : Nat := CE n (0x40 + 4 * (k % 8))

/-! ### Reading and writing the stored value -/

/-- The stored value of the register at `a`. -/
def State.reg (s : State) (a : Nat) : Word := Tbl.getD s.regs a (regDefault a)

/-- Store `v` in the register at `a`, keeping the register file in canonical form. -/
def State.setReg (s : State) (a : Nat) (v : Word) : State := { s with regs := Tbl.set s.regs a v (regDefault a) }

/-- A field of a register. -/
def State.regF (s : State) (a lo len : Nat) : Nat := fld (s.reg a) lo len

/-- Set one field of a register. -/
def State.setRegF (s : State) (a lo len v : Nat) : State := s.setReg a (setFld (s.reg a) lo len v)

/-- A bit of a register. -/
def State.regBit (s : State) (a i : Nat) : Bool := bit (s.reg a) i

/-- Set one bit of a register. -/
def State.setRegBit (s : State) (a i : Nat) (b : Bool) : State := s.setRegF a i 1 b.toNat

/-- Add to a 32-bit counter that saturates. -/
def State.addReg (s : State) (a n : Nat) : State := s.setReg a (BitVec.ofNat 32 (sat 0xFFFFFFFF ((s.reg a).toNat + n)))

/-- Count one event in a 32-bit counter that saturates. -/
def State.incReg (s : State) (a : Nat) : State := s.addReg a 1

/-- Count in a counter of `len` bits at `lo` that saturates. -/
def State.addRegF (s : State) (a lo len n : Nat) : State := s.setRegF a lo len (sat (2 ^ len - 1) (s.regF a lo len + n))

/-- The RW bits of a register (R10). -/
def rwMask (a : Nat) : Nat := match regSpec a with | some sp => sp.rw | none => 0

/-- The value that firmware last wrote to the RW bits of the register at `a` (R445). -/
def State.fwReg (s : State) (a : Nat) : Word := Tbl.getD s.fwRegs a (regDefault a)

/-- Firmware writes a register: the RW bits become both the value and what firmware last wrote (R317, R445). -/
def State.fwWrite (s : State) (a : Nat) (v : Word) : State :=
  let m := BitVec.ofNat 32 (rwMask a)
  { s.setReg a ((s.reg a &&& ~~~m) ||| (v &&& m)) with
    fwRegs := Tbl.set s.fwRegs a ((regDefault a &&& ~~~m) ||| (v &&& m)) (regDefault a) }

/-- Firmware writes one field of a register beside what it last wrote there. -/
def State.fwSetF (s : State) (a lo len v : Nat) : State := s.fwWrite a (setFld (s.fwReg a) lo len v)

/-- Firmware writes a pair of registers of a 64-bit value. -/
def State.setReg64 (s : State) (a v : Nat) : State :=
  (s.setReg a (BitVec.ofNat 32 v)).setReg (a + 4) (BitVec.ofNat 32 (v / 2 ^ 32))

/-- The 64-bit value of a pair of registers. -/
def State.reg64 (s : State) (a : Nat) : Nat := (s.reg a).toNat + 2 ^ 32 * (s.reg (a + 4)).toNat

end Sys2Proof.Machine
end

