-- ==== Sys2Proof/Machine/Units.lean ====
section
/-!
DEFINITION. Binary unit addresses (R304), register blocks of units (R376), and handles (R202).
-/
namespace Sys2Proof.Machine

/-- Unit address from DIE, KIND and the field bits (R304). -/
def unitAddr (die kind fields : Nat) : Word := BitVec.ofNat 32 (die * 2 ^ 30 + kind * 2 ^ 24 + fields)

def uDie (d : Nat) : Word := unitAddr d 0x01 0
/-- The hub die, `hd`. -/
def uHd : Word := unitAddr 2 0x01 0
def uWeave (w : Nat) : Word := unitAddr (w / 2) 0x02 ((w % 2) * 2 ^ 23)
def uStake (s : Nat) : Word := unitAddr (s / 6) 0x03 ((s % 6 / 3) * 2 ^ 23 + (s % 3) * 2 ^ 21)
def uLane (n : Nat) : Word :=
  unitAddr (n / 96) 0x04 ((n % 96 / 48) * 2 ^ 23 + (n % 48 / 16) * 2 ^ 21 + (n % 16) * 2 ^ 17)
def uSq (q : Nat) : Word := unitAddr (q / 16) 0x05 ((q % 16 / 8) * 2 ^ 23 + (q % 8) * 2 ^ 16)
def uHu (h : Nat) : Word := unitAddr (h / 2) 0x06 ((h % 2) * 2 ^ 23)
def uCu (c : Nat) : Word := unitAddr (c / 4) 0x07 ((c % 4 / 2) * 2 ^ 23 + (c % 2) * 2 ^ 16)
def uIu (i : Nat) : Word := unitAddr (i / 8) 0x08 ((i % 8 / 4) * 2 ^ 23 + (i % 4) * 2 ^ 16)
def uPort (p : Nat) : Word := unitAddr (p / 8) 0x09 ((p % 8 / 4) * 2 ^ 23 + (p % 4) * 2 ^ 16)
def uPod (p pos : Nat) : Word := unitAddr (p / 8) 0x0A ((p % 8 / 4) * 2 ^ 23 + (p % 4) * 2 ^ 16 + pos * 2 ^ 8)
def uSegment (p seg : Nat) : Word := unitAddr (p / 8) 0x0B ((p % 8 / 4) * 2 ^ 23 + (p % 4) * 2 ^ 16 + seg * 2 ^ 8)
def uModule (d m : Nat) : Word := unitAddr d 0x0C (m * 2 ^ 16)
/-- Hub units of KIND 0x10 to 0x17: channel, compressor, decompressor, core, mailbox, MRAM bank, SRAM bank, queue. -/
def uHub (kind i : Nat) : Word := unitAddr 2 kind (i * 2 ^ 16)
def uMc (i : Nat) : Word := uHub 0x10 i
def uCe (i : Nat) : Word := uHub 0x11 i
def uDe (i : Nat) : Word := uHub 0x12 i
def uMram (i : Nat) : Word := uHub 0x15 i
/-- The slice X of a unit: KIND bit 5 set, [7:0] X. -/
def uSlice (u : Word) (x : Nat) : Word := BitVec.ofNat 32 (u.toNat + 0x20 * 2 ^ 24 + x % 256)

/-- DIE, KIND (slice bit apart), and the fields of an address. -/
def uaDie (u : Word) : Nat := fld u 30 2
def uaKind (u : Word) : Nat := fld u 24 5
def uaIsSlice (u : Word) : Bool := bit u 29
/-- The unit that contains a slice. -/
def uaUnit (u : Word) : Word := if uaIsSlice u then BitVec.ofNat 32 (u.toNat - 0x20 * 2 ^ 24 - fld u 0 8) else u
def uaWeave (u : Word) : Nat := 2 * uaDie u + fld u 23 1
def uaStake (u : Word) : Nat := 6 * uaDie u + 3 * fld u 23 1 + fld u 21 2
def uaLane (u : Word) : Nat := 96 * uaDie u + 48 * fld u 23 1 + 16 * fld u 21 2 + fld u 17 4
def uaSq (u : Word) : Nat := 16 * uaDie u + 8 * fld u 23 1 + fld u 16 3
def uaHu (u : Word) : Nat := uaWeave u
def uaCu (u : Word) : Nat := 2 * uaWeave u + fld u 16 1
def uaIu (u : Word) : Nat := 4 * uaWeave u + fld u 16 2
def uaPort (u : Word) : Nat := 4 * uaWeave u + fld u 16 2
def uaPos (u : Word) : Nat := fld u 8 5
def uaHub (u : Word) : Nat := fld u 16 5

/-- The bits an address of the kind may set below bit 24 (Table 13.4); none for a reserved kind. -/
def uaFields : Nat → Option Nat
  | 0x01 => some 0
  | 0x02 => some (bits 23 23)
  | 0x03 => some (bits 23 21)
  | 0x04 => some (bits 23 17)
  | 0x05 => some (bits 23 23 + bits 18 16)
  | 0x06 => some (bits 23 23)
  | 0x07 => some (bits 23 23 + bits 16 16)
  | 0x08 => some (bits 23 23 + bits 17 16)
  | 0x09 => some (bits 23 23 + bits 17 16)
  | 0x0A => some (bits 23 23 + bits 17 16 + bits 12 8)
  | 0x0B => some (bits 23 23 + bits 17 16 + bits 12 8)
  | 0x0C => some (bits 17 16)
  | 0x10 => some (bits 20 16)
  | 0x11 => some (bits 20 16)
  | 0x12 => some (bits 20 16)
  | 0x13 => some (bits 20 16)
  | 0x14 => some (bits 20 16)
  | 0x15 => some (bits 20 16)
  | 0x16 => some (bits 20 16)
  | 0x17 => some (bits 20 16)
  | _ => none

/-- Hub kinds lie on HD, capture kinds on a capture die; a die address may name any die. -/
def uaDieOk (u : Word) : Bool :=
  if uaKind u = 0x01 then decide (uaDie u < 3)
  else if uaKind u ≥ 0x10 then decide (uaDie u = 2)
  else decide (uaDie u < 2)

/-- The address has a KIND of Table 13.4, only its bits set, and S below 3 (R304). -/
def uaValid (u : Word) : Bool :=
  match uaFields (uaKind u) with
  | none => false
  | some m =>
    uaDieOk u && decide ((fld u 0 24) &&& (2 ^ 24 - 1 - (m + if uaIsSlice u then 255 else 0)) = 0) &&
      (if uaKind u = 0x03 || uaKind u = 0x04 then decide (fld u 21 2 < 3) else true)

/-- The first offending bit of an address that is not sound (R323): of a reserved KIND or DIE the field's lowest bit, else
the first non-zero bit that is not listed, or the lowest of a reserved S. -/
def uaBad (u : Word) : Option Nat :=
  if uaValid u then none
  else
    let low : List Nat := match uaFields (uaKind u) with
      | none => [24]
      | some m => ((List.range 24).find? fun k => bit u k && !(BitVec.ofNat 24 (m + if uaIsSlice u then 255 else 0)).getLsbD k).toList
    let s := if (uaKind u = 0x03 || uaKind u = 0x04) && decide (fld u 21 2 = 3) then [21] else []
    some ((low ++ s).foldl min 30)

/-- How many instances a hub kind has. -/
def uaHubCount : Nat → Nat
  | 0x10 => 16
  | 0x11 => 16
  | 0x12 => 8
  | 0x13 => 4
  | 0x14 => 32
  | 0x15 => 3
  | 0x16 => 6
  | 0x17 => 5
  | _ => 0

/-- The unit exists on a ZS-192 (R304, Table 13.4) or, with `half`, on a ZS-096-C (R4). -/
def uaPresent (half : Bool) (u : Word) : Bool :=
  if uaDie u = 2 then (if uaKind u = 0x01 then true else decide (uaHub u < uaHubCount (uaKind u)))
  else !(half && uaDie u == 1)

/-- The register block that RELATIVE snapshot entries use (R376, Table 16.5a): its base and size. -/
def uaBlock (u : Word) : Option (Nat × Nat) :=
  match uaKind u with
  | 0x02 => some (WV (uaWeave u) 0, 0x100)
  | 0x03 => some (STK (uaStake u) 0, 0x400)
  | 0x04 => some (LN (uaLane u) 0, 0x40)
  | 0x05 => some (SQ (uaSq u) 0, 0x1000)
  | 0x06 => some (HU (uaHu u) 0, 0x1000)
  | 0x07 => some (CU (uaCu u) 0, 0x100)
  | 0x08 => some (IU (uaIu u) 0, 0x100)
  | 0x09 => some (PP (uaPort u) 0, 0x800)
  | 0x0A => some (PP (uaPort u) 0, 0x800)
  | 0x0B => some (PP (uaPort u) 0, 0x800)
  | 0x0C => some (0x103000, 0x200)
  | 0x10 => some (MC (uaHub u) 0, 0x1000)
  | 0x11 => some (CE (uaHub u) 0, 0x100)
  | 0x12 => some (DE (uaHub u) 0, 0x100)
  | 0x13 => some (0x103000, 0x200)
  | 0x14 => some (0x102000, 0x400)
  | 0x15 => some (0x109000, 0x100)
  | 0x16 => some (0x103000, 0x200)
  | 0x17 => some (0x104000, 0x100)
  | _ => none

/-! ### Handles -/

/-- The key under which tables hold an object: type times 65536 plus index. -/
def objKey (type idx : Nat) : Nat := type * 65536 + idx

def hType (h : Word) : Nat := fld h 28 4
def hGen (h : Word) : Nat := fld h 16 12
def hIdx (h : Word) : Nat := fld h 0 16
def hKey (h : Word) : Nat := objKey (hType h) (hIdx h)

/-- Index range of a type (Table 9.1); 0 for a reserved type. -/
def typeCount : Nat → Nat
  | 1 => 4096
  | 2 => 256
  | 3 => 1024
  | 4 => 64
  | 5 => 64
  | 6 => 64
  | _ => 0

end Sys2Proof.Machine
end

