-- ==== Sys2Proof/Machine/Ops.lean ====
section
/-!
DEFINITION. Named operations that every family of commands shares: the parts of the state by number, time, free values,
queues of the hub die with their registers, notices (R337 to R339), ledger requests (R373), messages to the host.
-/
namespace Sys2Proof.Machine

/-! ### Parts of the state by number -/

def State.lane (s : State) (i : Nat) : LaneDyn := Tbl.getD s.lanes i LaneDyn.init
def State.setLane (s : State) (i : Nat) (v : LaneDyn) : State := { s with lanes := Tbl.set s.lanes i v LaneDyn.init }
def State.modLane (s : State) (i : Nat) (f : LaneDyn → LaneDyn) : State := s.setLane i (f (s.lane i))
def State.stake (s : State) (i : Nat) : StakeDyn := Tbl.getD s.stakes i StakeDyn.init
def State.setStake (s : State) (i : Nat) (v : StakeDyn) : State := { s with stakes := Tbl.set s.stakes i v StakeDyn.init }
def State.modStake (s : State) (i : Nat) (f : StakeDyn → StakeDyn) : State := s.setStake i (f (s.stake i))
def State.port (s : State) (i : Nat) : PortDyn := Tbl.getD s.ports i PortDyn.init
def State.setPort (s : State) (i : Nat) (v : PortDyn) : State := { s with ports := Tbl.set s.ports i v PortDyn.init }
def State.modPort (s : State) (i : Nat) (f : PortDyn → PortDyn) : State := s.setPort i (f (s.port i))
def State.seq (s : State) (i : Nat) : SeqDyn := Tbl.getD s.seqs i SeqDyn.init
def State.setSeq (s : State) (i : Nat) (v : SeqDyn) : State := { s with seqs := Tbl.set s.seqs i v SeqDyn.init }
def State.modSeq (s : State) (i : Nat) (f : SeqDyn → SeqDyn) : State := s.setSeq i (f (s.seq i))
def State.tout (s : State) (i : Nat) : ToutDyn := Tbl.getD s.touts i ToutDyn.init
def State.setTout (s : State) (i : Nat) (v : ToutDyn) : State := { s with touts := Tbl.set s.touts i v ToutDyn.init }
def State.modTout (s : State) (i : Nat) (f : ToutDyn → ToutDyn) : State := s.setTout i (f (s.tout i))
def State.ref (s : State) (i : Nat) : RefDyn := Tbl.getD s.refs i RefDyn.init
def State.setRef (s : State) (i : Nat) (v : RefDyn) : State := { s with refs := Tbl.set s.refs i v RefDyn.init }
def State.modRef (s : State) (i : Nat) (f : RefDyn → RefDyn) : State := s.setRef i (f (s.ref i))
def State.cmp (s : State) (i : Nat) : CmpDyn := Tbl.getD s.cmps i CmpDyn.init
def State.setCmp (s : State) (i : Nat) (v : CmpDyn) : State := { s with cmps := Tbl.set s.cmps i v CmpDyn.init }
def State.modCmp (s : State) (i : Nat) (f : CmpDyn → CmpDyn) : State := s.setCmp i (f (s.cmp i))
def State.hist (s : State) (i : Nat) : HistUnit := Tbl.getD s.hists i HistUnit.init
def State.setHist (s : State) (i : Nat) (v : HistUnit) : State := { s with hists := Tbl.set s.hists i v HistUnit.init }
def State.modHist (s : State) (i : Nat) (f : HistUnit → HistUnit) : State := s.setHist i (f (s.hist i))
def State.image (s : State) (i : Nat) : HistImages := Tbl.getD s.images i HistImages.init
def State.setImage (s : State) (i : Nat) (v : HistImages) : State := { s with images := Tbl.set s.images i v HistImages.init }
def State.modImage (s : State) (i : Nat) (f : HistImages → HistImages) : State := s.setImage i (f (s.image i))
def State.ival (s : State) (i : Nat) : IvalDyn := Tbl.getD s.ivals i IvalDyn.init
def State.setIval (s : State) (i : Nat) (v : IvalDyn) : State := { s with ivals := Tbl.set s.ivals i v IvalDyn.init }
def State.modIval (s : State) (i : Nat) (f : IvalDyn → IvalDyn) : State := s.setIval i (f (s.ival i))
def State.queue (s : State) (i : Nat) : QueueDyn := Tbl.getD s.queues i QueueDyn.init
def State.setQueue (s : State) (i : Nat) (v : QueueDyn) : State := { s with queues := Tbl.set s.queues i v QueueDyn.init }
def State.modQueue (s : State) (i : Nat) (f : QueueDyn → QueueDyn) : State := s.setQueue i (f (s.queue i))
def State.ce (s : State) (i : Nat) : EngineDyn := Tbl.getD s.ces i EngineDyn.init
def State.setCe (s : State) (i : Nat) (v : EngineDyn) : State := { s with ces := Tbl.set s.ces i v EngineDyn.init }
def State.modCe (s : State) (i : Nat) (f : EngineDyn → EngineDyn) : State := s.setCe i (f (s.ce i))
def State.de (s : State) (i : Nat) : EngineDyn := Tbl.getD s.des i EngineDyn.init
def State.setDe (s : State) (i : Nat) (v : EngineDyn) : State := { s with des := Tbl.set s.des i v EngineDyn.init }
def State.modDe (s : State) (i : Nat) (f : EngineDyn → EngineDyn) : State := s.setDe i (f (s.de i))

/-- A stream's dynamic state; a stream exists while its handle does. -/
def State.stream (s : State) (i : Nat) : StreamDyn := Tbl.getD s.streams i StreamDyn.init
def State.setStream (s : State) (i : Nat) (v : StreamDyn) : State := { s with streams := Tbl.put s.streams i v }
def State.modStream (s : State) (i : Nat) (f : StreamDyn → StreamDyn) : State := s.setStream i (f (s.stream i))

/-- Nothing is left of a stream, of a reference, of a histogram's images. -/
def State.delStream (s : State) (i : Nat) : State := { s with streams := Tbl.del s.streams i }
def State.delRef (s : State) (i : Nat) : State := { s with refs := Tbl.del s.refs i }
def State.delImage (s : State) (i : Nat) : State := { s with images := Tbl.del s.images i }

def State.box (s : State) (m : Nat) : Mailbox := Tbl.getD s.mbx.boxes m Mailbox.init
def State.setBox (s : State) (m : Nat) (b : Mailbox) : State :=
  { s with mbx := { s.mbx with boxes := Tbl.set s.mbx.boxes m b Mailbox.init } }
def State.modBox (s : State) (m : Nat) (f : Mailbox → Mailbox) : State := s.setBox m (f (s.box m))

def State.pod (s : State) (p pos : Nat) : PodDyn := Tbl.getD (s.port p).pods pos PodDyn.init
def State.setPod (s : State) (p pos : Nat) (v : PodDyn) : State :=
  s.modPort p fun d => { d with pods := Tbl.put d.pods pos v }
def State.modPod (s : State) (p pos : Nat) (f : PodDyn → PodDyn) : State := s.setPod p pos (f (s.pod p pos))

def State.chan (s : State) (c : Nat) : ChanDyn := Tbl.getD s.mem.chans c ChanDyn.init
def State.setChan (s : State) (c : Nat) (v : ChanDyn) : State :=
  { s with mem := { s.mem with chans := Tbl.set s.mem.chans c v ChanDyn.init } }
def State.modChan (s : State) (c : Nat) (f : ChanDyn → ChanDyn) : State := s.setChan c (f (s.chan c))

def State.sched (s : State) (c : Nat) : ChanSched := Tbl.getD s.scheds c ChanSched.init
def State.setSched (s : State) (c : Nat) (v : ChanSched) : State := { s with scheds := Tbl.set s.scheds c v ChanSched.init }
def State.modSched (s : State) (c : Nat) (f : ChanSched → ChanSched) : State := s.setSched c (f (s.sched c))

def State.region (s : State) (hu r : Nat) : RegionDyn := Tbl.getD (s.hist hu).regions r RegionDyn.init
def State.setRegion (s : State) (hu r : Nat) (v : RegionDyn) : State :=
  s.modHist hu fun h => { h with regions := Tbl.set h.regions r v RegionDyn.init }
def State.modRegion (s : State) (hu r : Nat) (f : RegionDyn → RegionDyn) : State := s.setRegion hu r (f (s.region hu r))

def State.modTrig (s : State) (f : TrigState → TrigState) : State := { s with trig := f s.trig }
def State.modTime (s : State) (f : TimeState → TimeState) : State := { s with time := f s.time }
def State.modPcie (s : State) (f : PcieState → PcieState) : State := { s with pcie := f s.pcie }
def State.modMbx (s : State) (f : MailboxState → MailboxState) : State := { s with mbx := f s.mbx }
def State.modPower (s : State) (f : PowerState → PowerState) : State := { s with power := f s.power }
def State.modFw (s : State) (f : FwState → FwState) : State := s.modPower fun p => { p with fw := f p.fw }
def State.modWeaver (s : State) (f : WeaverState → WeaverState) : State := { s with weaver := f s.weaver }
def State.modMem (s : State) (f : MemState → MemState) : State := { s with mem := f s.mem }
def State.modLedger (s : State) (f : LedgerState → LedgerState) : State := { s with ledger := f s.ledger }
def State.modStation (s : State) (f : StationState → StationState) : State := { s with station := f s.station }
def State.modOut (s : State) (f : OutState → OutState) : State := { s with out := f s.out }

/-- Apply an operation for each element of a list, in order. -/
def State.each {α : Type} (s : State) (l : List α) (f : State → α → State) : State := l.foldl f s

/-- Apply an operation when a condition holds. -/
def State.when (s : State) (c : Bool) (f : State → State) : State := if c then f s else s

/-- Insert a number in an ascending list. -/
def insertNat (n : Nat) : List Nat → List Nat
  | [] => [n]
  | x :: t => if n < x then n :: x :: t else if n = x then x :: t else x :: insertNat n t

/-- The numbers of a list in ascending order, each once. -/
def ascending (l : List Nat) : List Nat := l.foldr insertNat []

/-! ### Free values -/

/-- A free value of width `w` (log entry 2): the spec leaves it open. -/
def State.draw (s : State) (w : Nat) : BitVec w × State := (Config.free w s.drawn, { s with drawn := s.drawn + 1 })

/-- `n` free bytes. -/
def State.drawBytes (s : State) (n : Nat) : List Byte × State :=
  ((List.range n).map fun k => Config.free 8 (s.drawn + k), { s with drawn := s.drawn + n })

/-- `n` free bits. -/
def State.drawBits (s : State) (n : Nat) : List Bool × State :=
  ((List.range n).map fun k => (Config.free 1 (s.drawn + k)).getLsbD 0, { s with drawn := s.drawn + n })

/-! ### Time (R7, R8) -/

def State.now (s : State) : Time := s.time.tsEpoch * 2 ^ 64 + s.time.tsHd.toNat
/-- An instant of the present session, counted in ft since the session epoch (R209), on the model's time line (log entry 22). -/
def State.sessionTime (s : State) (t : Time) : Time := s.time.tsEpoch / 2 ^ 32 * 2 ^ 96 + t
/-- One microsecond in ft (R7). -/
def usFt : Nat := 204800

/-- The number of the slot in progress. -/
def State.slot (s : State) : Nat := s.now / slotFt
/-- The start of the slot in progress. -/
def State.slotStart (s : State) : Time := s.now / slotFt * slotFt
/-- End of the slot in progress: what has an instant before it is due. -/
def State.slotEnd (s : State) : Time := s.slotStart + slotFt
def State.opSeconds (s : State) : Word := s.reg LG_OP_SECONDS

/-! ### Metadata in MRAM (R371, Table 16.2) -/

def MetaItem.all : List MetaItem :=
  [.opSeconds, .powerCycles, .log, .refused, .wallTime, .key, .rollback, .transients, .retired, .snapshots, .scrub]

/-- Item `i` as `c` holds it, written into `m` with its CRC-32. -/
def MetaCopy.put (m c : MetaCopy) (i : MetaItem) : MetaCopy :=
  let m := { m with bad := m.bad.filter (· ≠ i) }
  match i with
  | .opSeconds => { m with opSeconds := c.opSeconds }
  | .powerCycles => { m with powerCycles := c.powerCycles }
  | .log => { m with generation := c.generation, firstSeq := c.firstSeq, pendingClear := c.pendingClear }
  | .refused => { m with refused := c.refused }
  | .wallTime => { m with wallTime := c.wallTime }
  | .key => { m with key := c.key, keyId := c.keyId }
  | .rollback => { m with rollback := c.rollback }
  | .transients => { m with transients := c.transients }
  | .retired => { m with retired := c.retired }
  | .snapshots => { m with snaps := c.snaps }
  | .scrub => { m with scrub := c.scrub, scrubPasses := c.scrubPasses }

/-- The items as firmware holds them. -/
def State.metaNow (s : State) : MetaCopy :=
  { opSeconds := s.opSeconds, powerCycles := s.reg LG_POWER_CYCLES, generation := s.reg LG_GENERATION, firstSeq := s.reg64 LG_FIRST_SEQ_LO
    pendingClear := s.ledger.pendingClear, refused := s.reg LG_REFUSED, wallTime := s.ledger.wallTime, key := s.ledger.key
    keyId := s.ledger.keyId, rollback := s.ledger.rollback, transients := s.weaver.transients, retired := s.weaver.retired
    snaps := s.ledger.snaps, scrub := s.reg LG_SCRUB, scrubPasses := s.reg LG_SCRUB_PASSES, bad := [] }

/-- Firmware writes and verifies an item in copy A, then in copy B. -/
def State.storeMeta (s : State) (i : MetaItem) : State :=
  s.modLedger fun l => { l with metaA := l.metaA.put s.metaNow i, metaB := l.metaB.put s.metaNow i }

/-- The operating seconds go to the two copies in turn (R387): even counts to A (log entry 108). -/
def State.commitSeconds (s : State) : State :=
  s.modLedger fun l =>
    if s.opSeconds.toNat % 2 = 0 then { l with metaA := l.metaA.put s.metaNow .opSeconds }
    else { l with metaB := l.metaB.put s.metaNow .opSeconds }

/-- One more refused record (R384); an unknown count, all ones, stays unknown (R371, log entry 108). -/
def State.countRefused (s : State) : State :=
  let n := (s.reg LG_REFUSED).toNat
  (s.setReg LG_REFUSED (BitVec.ofNat 32 (if n = 0xFFFFFFFF then n else min 0xFFFFFFFE (n + 1)))).storeMeta .refused

/-! ### How far histories are complete (R108, R177, R188, R462) -/

def State.lnMode (s : State) (n : Nat) : Nat := s.regF (LN_CFG n) 0 3

/-- Threshold state of two outputs in a mode (Table 2.1). -/
def threshState (mode : Nat) (l u : Bool) : BitVec 2 := if u then 3 else if mode != 2 && l then 1 else 0

/-- The states that a history goes through from outputs `l` and `u` on, each with the instant from which it holds. -/
def statesFrom (mode : Nat) : Bool → Bool → List LaneEv → List (Time × BitVec 2)
  | _, _, [] => []
  | l, u, e :: h =>
    let l := e.l.getD l
    let u := e.u.getD u
    (e.at_, threshState mode l u) :: statesFrom mode l u h

/-- The lane's states in order of time; the first is that before its history. -/
def LaneDyn.states (d : LaneDyn) (mode : Nat) : List (Time × BitVec 2) :=
  (0, threshState mode d.baseL d.baseU) :: statesFrom mode d.baseL d.baseU d.history
def State.lnStates (s : State) (n : Nat) : List (Time × BitVec 2) := (s.lane n).states (s.lnMode n)

/-- The deskew terms of a lane (R41). -/
def State.deskew (s : State) (l : Nat) : Int :=
  sint 16 (s.regF (LN_DESKEW l) 0 16) + sint 16 (s.regF (LN_DESKEW l) 16 16)

/-- D_neg over lanes, in slots, rounded up. -/
def State.dNeg (s : State) (lanes : List Nat) : Nat :=
  ceilDiv (lanes.foldl (fun a l => max a (-(s.deskew l)).toNat) 0) slotFt

/-- The history of lanes is complete at an instant: its slot lies more than 32 slots and D_neg before the slot in progress. -/
def State.laneDone (s : State) (lanes : List Nat) (t : Time) : Bool := decide (t / slotFt + 32 + s.dNeg lanes < s.slot)

/-- Link time now, in quanta since the port's link-up (R71, R73). -/
def State.linkNow (s : State) (p : Nat) : Int := ((s.now : Int) - (s.port p).cBase) / 512

/-- The history of a pod is complete at an instant: link time L − (80 + 17·position) has reached it (R108). -/
def State.podDone (s : State) (p pos : Nat) (t : Time) : Bool :=
  decide ((t : Int) ≤ 512 * (s.linkNow p - (80 + 17 * pos : Nat)) + (s.port p).cBase)

/-! ### Device state (R419) -/

/-- PWR_STATE.STATE: 0 start-up, 1 READY, 2 RUN, 3 STANDBY, 4 SLEEP, 7 FAILED. -/
def State.pwr (s : State) : Nat := s.regF PWR_STATE 0 3
def State.setPwr (s : State) (v : Nat) : State := s.setRegF PWR_STATE 0 3 v
def State.asleep (s : State) : Bool := s.pwr == 3 || s.pwr == 4
def State.failed (s : State) : Bool := s.pwr == 7
/-- STATE as HEALTH reports it (Table 14.2): 0 RUN, 1 READY, 2 STANDBY or SLEEP, 3 FAILED. -/
def State.healthState (s : State) : Nat :=
  match s.pwr with
  | 2 => 0
  | 3 => 2
  | 4 => 2
  | 7 => 3
  | _ => 1
/-- Time-base state (Table 18.5). -/
def State.tb (s : State) : Nat := s.regF CLK_STATUS 0 2
def State.halfPart (s : State) : Bool := s.power.board.ordering == .zs096c
def State.unlocked (s : State) : Bool := s.regBit HUB_RF_STATE 0
def State.epochNo (s : State) : Word := s.reg HUB_EPOCH

def State.isRetired (s : State) (u : Word) : Bool := s.weaver.retired.contains u

/-- STN_ALERT state: event bits, VOLATILE, FAILED, and ALERT_N (R408). The pin is released while the device starts up. -/
def State.alertBits (s : State) : Nat :=
  let v := s.regBit LG_STATUS 3
  let any := s.station.retiredEvt || s.station.spareEvt || v || s.failed
  s.station.retiredEvt.toNat + 2 * s.station.spareEvt.toNat + 4 * v.toNat + 8 * s.failed.toNat + 16 * any.toNat

/-- The HEALTH field (Table 14.2). -/
def State.health (s : State) : Word :=
  BitVec.ofNat 32 (
    s.time.armed.toNat + 2 * s.tb + 8 * s.healthState + 32 * (s.regBit HUB_HEALTH 0).toNat +
    64 * (s.regBit HUB_HEALTH 1).toNat + 128 * (s.regBit HUB_HEALTH 2).toNat + 256 * (s.regBit HUB_HEALTH 3).toNat +
    512 * (s.regBit LG_STATUS 2).toNat + 1024 * (s.regBit LG_STATUS 3).toNat + 2048 * (s.alertBits / 16) +
    4096 * s.unlocked.toNat + 8192 * (decide (s.mbx.noticesLost ≠ 0)).toNat +
    16384 * s.power.fw.pending.isSome.toNat)

/-! ### Handles -/

def State.gen (s : State) (key : Nat) : Nat := Tbl.getD s.weaver.gens key 1
/-- The handle of an object, with its index's current generation (R202). -/
def State.handleOf (s : State) (type idx : Nat) : Word :=
  BitVec.ofNat 32 (type * 2 ^ 28 + s.gen (objKey type idx) * 2 ^ 16 + idx)
def State.handleOfKey (s : State) (key : Nat) : Word := s.handleOf (key / 65536) (key % 65536)

/-! ### On-chip and stake queues -/

/-- Key of a stake queue. -/
def stakeQ (s : Nat) : Nat := 5 + s

/-- A flush of the ledger becomes due (R379); under LEDGER_VOLATILE nothing is flushed. -/
def State.dueFlush (s : State) : State := if s.regBit LG_STATUS 3 then s else s.setRegBit LG_STATUS 6 true

/-- Follow the watermarks and STN_HOLD of queue `n` (R238, R239). -/
def State.followWater (s : State) (n : Nat) : State :=
  if n < 5 then
    let occ := (s.queue n).occ
    let high := if s.regF (HUB_Q n 0) 0 16 ≤ occ then true
      else if occ ≤ s.regF (HUB_Q n 0) 16 16 then false else s.regBit (HUB_Q n 0x14) 1
    let s := s.setRegBit (HUB_Q n 0x14) 1 high
    if n = 0 then s.modStation fun st => { st with hold := high }
    else s
  else s

/-- Take a queue's new value and count what it lost and rejected (Table 10.5); rejected annotation packets count for the
station too (Table 17.2). -/
def State.settleQueue (s : State) (n : Nat) (q : QueueDyn) (lost bad : Nat) : State :=
  let s := s.setQueue n q
  let s := if n = 0 then s.modStation fun st => { st with lostAnnotations := st.lostAnnotations + bad } else s
  let s := if n < 5 then (s.addReg (HUB_Q n 0x10) lost).addReg (HUB_Q n 0x18) bad else s
  s.followWater n

/-- Write the words of one whole privileged packet (R233); answers the state and the packets lost by it: those it overwrote,
and itself where the staging is full (R229). -/
def State.pushPacket (s : State) (n : Nat) (words : List DWord) (t : Time) : State × Nat :=
  let k := qKind n
  let last := words.length - 1
  let r := (words.zipIdx).foldl (fun (acc : QueueDyn × Nat × Nat × Nat) wi =>
    let o := acc.1.push k wi.1 (wi.2 == last) false t
    (o.q, acc.2.1 + o.lost, acc.2.2.1 + o.bad, acc.2.2.2 + o.gone.countP (·.last) + o.staged.toNat)) (s.queue n, 0, 0, 0)
  (s.settleQueue n r.1 r.2.1 r.2.2.1, r.2.2.2)

/-! ### Notices (R337 to R339) -/

/-- A field of a notice (R338): 4 bytes, 8 bytes, or a semicolon, which starts the next word. -/
inductive NField where
  | f4 (v : Nat)
  | f8 (v : Nat)
  | semi
  deriving DecidableEq, Repr

/-- Pack fields from bit 0 of a word upward; `half` holds a low half that waits for its high half. -/
def packNotice : List NField → Option Nat → List DWord
  | [], none => []
  | [], some lo => [BitVec.ofNat 64 lo]
  | .f4 v :: t, none => packNotice t (some (v % 2 ^ 32))
  | .f4 v :: t, some lo => BitVec.ofNat 64 (lo + (v % 2 ^ 32) * 2 ^ 32) :: packNotice t none
  | .f8 v :: t, none => BitVec.ofNat 64 v :: packNotice t none
  | .f8 v :: t, some lo => BitVec.ofNat 64 lo :: BitVec.ofNat 64 v :: packNotice t none
  | .semi :: t, none => packNotice t none
  | .semi :: t, some lo => BitVec.ofNat 64 lo :: packNotice t none

/-- Create a notice of words already packed: word 0 with NSEQ, CODE, WORDS and operating seconds (R338). PHASE is set
when the entry is written. A packet that queue 2 loses counts as a lost notice (R339). -/
def State.noticeWords (s : State) (code : Nat) (words : List DWord) : State :=
  let nseq := s.regF MB_NTF_NSEQ 0 16
  let w0 : DWord := BitVec.ofNat 64 (nseq + code * 2 ^ 16 + (words.length + 1) * 2 ^ 24 + s.opSeconds.toNat * 2 ^ 32)
  let r := s.pushPacket 2 (w0 :: words) s.now
  let s := r.1.setRegF MB_NTF_NSEQ 0 16 (nseq + 1)
  if r.2 = 0 then s else s.modMbx fun m => { m with noticesLost := m.noticesLost + r.2 }

def State.notice (s : State) (code : Nat) (fs : List NField) : State := s.noticeWords code (packNotice fs none)

/-! ### Ledger requests (R373, R378) -/

/-- Ask for a ledger record; LEDGER_RECORD_CREATE makes it. -/
def State.ledgerReq (s : State) (type sev : Nat) (unit : Word) (trigger : Nat) (body : List Byte) : State :=
  s.modLedger fun l => { l with
    reqs := l.reqs ++ [{ type := BitVec.ofNat 16 type, severity := BitVec.ofNat 3 sev, unit := unit
                         trigger := BitVec.ofNat 8 trigger, body := body, fromSeq := false }] }

/-! ### To the host (R361, R366) -/

/-- Send DMA writes and messages: at once with Bus Master Enable set, else they are held (R366). -/
def State.emit (s : State) (o : List DmaOut) : State :=
  s.modPcie fun p =>
    if p.busMaster && p.linkUp && !p.d3hot then { p with sent := p.sent ++ o }
    else
      let ms := o.filterMap fun x => match x with | .msix v => some v | .write _ _ _ => none | .error _ => none
      { p with
        held := p.held ++ o.filter fun x => match x with | .write _ _ _ => true | .msix _ => false | .error _ => false
        pba := p.pba ++ ms.filter fun v => !p.pba.contains v }

/-- Write requests that carry the bytes: each within Max Payload Size and within 4 KiB (R360). -/
def splitWrite (mps : Nat) (relaxed : Bool) : Nat → Nat → List Byte → List DmaOut
  | 0, _, _ => []
  | fuel + 1, addr, bytes =>
    if bytes.isEmpty then []
    else
      let n := min (max 1 mps) (4096 - addr % 4096)
      .write addr (bytes.take n) relaxed :: splitWrite mps relaxed fuel (addr + n) (bytes.drop n)

/-- Write to host memory. `relaxed`: the class of Table 15.10 sets Relaxed Ordering, if it is enabled (R361). -/
def State.dmaWrite (s : State) (addr : Nat) (bytes : List Byte) (relaxed : Bool) : State :=
  s.emit (splitWrite s.pcie.maxPayload (relaxed && s.pcie.relaxedOrdering) bytes.length addr bytes)

/-- Most outstanding reads (R360). -/
def PcieState.readLimit (p : PcieState) : Nat := if p.tenBitTag then 768 else if p.extendedTag then 256 else 32

/-- Requests of a read: each within Max Read Request Size and within 4 KiB (R360): address, length and offset. -/
def splitRead (mrrs : Nat) : Nat → Nat → Nat → Nat → List (Nat × Nat × Nat)
  | 0, _, _, _ => []
  | fuel + 1, addr, len, off =>
    if len = 0 then []
    else
      let n := min len (min (max 1 mrrs) (4096 - addr % 4096))
      (addr, n, off) :: splitRead mrrs fuel (addr + n) (len - n) (off + n)

/-- The first tag from `t` on that no outstanding read and none given up has; which tags the device takes is not stated (log
entry 63). -/
def PcieState.freeTag (p : PcieState) : Nat → Nat → Nat
  | 0, t => t
  | fuel + 1, t => if p.outstanding.any (·.tag == t) || p.abandoned.contains t then p.freeTag fuel ((t + 1) % 1024) else t

/-- Requests that wait leave, while fewer than the limit are outstanding. -/
def PcieState.sendReads (now : Time) : List DevRead → PcieState → PcieState
  | [], p => p
  | r :: rest, p =>
    if p.readLimit ≤ p.outstanding.length then p
    else
      let t := p.freeTag 1024 p.nextTag
      PcieState.sendReads now rest { p with
        outstanding := p.outstanding ++ [{ r with tag := t, since := now }], nextTag := (t + 1) % 1024, queued := rest }

def State.sendReads (s : State) : State := s.modPcie fun p => PcieState.sendReads s.now p.queued p

/-- Read host memory for a command or a stream: requests of the class Reads (Table 15.10). -/
def State.issueRead (s : State) (owner : ReadOwner) (addr len : Nat) : State :=
  (s.modPcie fun p => { p with
    queued := p.queued ++ (splitRead p.maxReadRequest len addr len 0).map fun x =>
      { tag := 0, owner := owner, addr := x.1, len := x.2.1, off := x.2.2, relaxed := p.relaxedOrdering, since := 0 } }).sendReads

/-- A dword of the MSI-X table; every vector is masked until the host unmasks it (log entry 69). -/
def PcieState.msixWord (p : PcieState) (i : Nat) : Word := Tbl.getD p.msix i (if i % 4 = 3 then 1 else 0)
/-- A vector is masked by its own bit or by Function Mask; one is held as pending also while MSI-X is not enabled (PRESUMED,
log entry 69). -/
def PcieState.vectorMasked (p : PcieState) (v : Nat) : Bool := !p.msixEnable || p.msixMask || bit (p.msixWord (4 * v + 3)) 0

/-- Pending messages of unmasked vectors are sent (Table 15.13 step 7). -/
def State.sendPending (s : State) : State :=
  let go := s.pcie.pba.filter fun v => !s.pcie.vectorMasked v
  (s.modPcie fun p => { p with pba := p.pba.filter fun v => p.vectorMasked v }).emit (go.map .msix)

/-- Host-written bits of a configuration register, and their reset value (PRESUMED, the PCI Express specification's; log entry 106). -/
def cfgRw : Nat → Nat
  | 0x04 => 0x140
  | 0x78 => 0x80F
  | 0x80 => 0x1CB
  | 0x98 => 0x400
  | 0x108 => 0x4577010
  | 0x10C => 0x4577010
  | 0x114 => 0x31C1
  | 0x268 => 0xF
  | 0x274 => 0x1FFF1FFF
  | _ => 0

def cfgReset : Nat → Word
  | 0x78 => 0x800
  | 0x108 => 0x4400000
  | 0x10C => 0x462010
  | 0x114 => 0x2000
  | _ => 0

def PcieState.cfgReg (p : PcieState) (a : Nat) : Word := Tbl.getD p.cfg a (cfgReset a)

/-- An error message leaves if the host has enabled messages of its severity, or SERR for one that is not correctable; an
Unsupported Request also asks for its own enable (R365; PRESUMED, log entry 69). -/
def PcieState.signals (p : PcieState) (kind : ErrKind) (unsupported : Bool) : Bool :=
  let ctl := p.cfgReg 0x78
  let serr := bit (p.cfgReg 0x04) 8
  match kind with
  | .correctable => bit ctl 0 && (!unsupported || bit ctl 3)
  | .nonFatal => (bit ctl 1 && (!unsupported || bit ctl 3)) || serr
  | .fatal => bit ctl 2 || serr

def PcieState.signal (p : PcieState) (kind : ErrKind) (unsupported : Bool) : PcieState :=
  if p.linkUp && p.signals kind unsupported then { p with sent := p.sent ++ [.error kind] } else p

/-- An error `i` with the header of its request is reported through AER (R365, Table 15.12): an advisory one that is
non-fatal as a correctable error, any other by its severity. A masked error sets its status bit alone; of the others the
first leaves its header. -/
def PcieState.report (p : PcieState) (i : Nat) (header : Option (List Byte)) (advisory : Bool) : PcieState :=
  let fatal := bit (p.cfgReg 0x10C) i
  let adv := advisory && !fatal
  let masked := if adv then bit (p.cfgReg 0x114) 13 else bit (p.cfgReg 0x108) i
  let first := !masked && (p.aer &&& ~~~(p.cfgReg 0x108)) = 0
  let p := { p with
    headerLog := if first then header.getD p.headerLog else p.headerLog, aerFirst := if first then i else p.aerFirst
    aer := setBit p.aer i true, aerCor := if adv then setBit p.aerCor 13 true else p.aerCor
    devStatus := p.devStatus ||| (if adv then 1 else if fatal then 4 else 2) ||| (if i = 20 then 8 else 0) }
  if masked then p else p.signal (if adv then .correctable else if fatal then .fatal else .nonFatal) (i == 20)

/-- An error whose header, if it has one, no row gives (free; log entry 69). -/
def State.aerError (s : State) (i : Nat) (header advisory : Bool) : State :=
  if header then
    let r := s.draw 128
    r.2.modPcie fun p => p.report i (some (leBytes 16 r.1.toNat)) advisory
  else s.modPcie fun p => p.report i none advisory

/-- What AER sees of a write that arrives: Poisoned TLP Received, or Unsupported Request in D3hot (Table 15.12). -/
def State.seeWrite (s : State) (poisoned : Bool) : State :=
  if s.pcie.d3hot then s.aerError 20 true false else if poisoned then s.aerError 12 true false else s

/-- Signal an MSI-X vector; a masked vector sets its pending bit instead (R366). -/
def State.msix (s : State) (v : Nat) : State :=
  if s.pcie.vectorMasked v then s.modPcie fun p => { p with pba := if p.pba.contains v then p.pba else p.pba ++ [v] }
  else s.emit [.msix v]

end Sys2Proof.Machine
end

