-- ==== Sys2Proof/Machine/Intent.lean ====
section
/-!
DEFINITION. Reading the intent: payloads of the defining commands (Tables 14.9 and 14.10, R333) by field, and which
streams carry what (R205, R206).
-/
namespace Sys2Proof.Machine

/-- Kinds of definitions in `Intent.defs`: BIND_STREAM 1, DEFINE_SEQUENCE part 0 2, DEFINE_HISTOGRAM 4,
DEFINE_INTERVAL 5, START_COMPARE 6, DEFINE_SEQUENCE part 1 7, SET_WINDOW 8. -/
def Intent.def? (i : Intent) (kind idx : Nat) : Option (List Byte) := Tbl.find? i.defs (objKey kind idx)

/-- Indexes that have a definition of a kind, ascending. -/
def Intent.defined (i : Intent) (kind : Nat) : List Nat :=
  i.defs.filterMap fun e => if e.1 / 65536 = kind then some (e.1 % 65536) else none

/-! ### BIND_STREAM (R333) -/

def bWindowed (p : List Byte) : Bool := getLe p 0 4 % 2 == 1
def bAnnotations (p : List Byte) : Bool := getLe p 0 4 / 2 % 2 == 1
def bVectorValid (p : List Byte) : Bool := getLe p 0 4 / 4 % 2 == 1
def bFormat (p : List Byte) : Nat := getLe p 4 4 % 4
def bTables (p : List Byte) : Nat := getLe p 4 4 / 4 % 2
def bEffort (p : List Byte) : Nat := getLe p 4 4 / 8 % 4
def bBlock (p : List Byte) : Nat := getLe p 4 4 / 32 % 8
def bMemberMib (p : List Byte) : Nat := if getLe p 6 2 = 0 then 256 else getLe p 6 2
/-- FLUSH_US; 0 selects 100 (Table 9.4). -/
def bFlushUs (p : List Byte) : Nat := if getLe p 8 2 = 0 then 100 else getLe p 8 2
def bVector (p : List Byte) : Nat := getLe p 0x0A 2
def bRetention (p : List Byte) : Nat := getLe p 0x10 8
def bDescAddr (p : List Byte) : Nat := getLe p 0x18 8
def bCplAddr (p : List Byte) : Nat := getLe p 0x20 8
def bDescN (p : List Byte) : Nat := getLe p 0x28 4
def bCplN (p : List Byte) : Nat := getLe p 0x2C 4
def bLaneN (p : List Byte) : Nat := getLe p 0x30 2
def bPodN (p : List Byte) : Nat := getLe p 0x32 2
def bSeqN (p : List Byte) : Nat := getLe p 0x34 2
def pad4 (n : Nat) : Nat := ceilDiv n 4 * 4
def bLanes (p : List Byte) : List Nat := (slice p 0x40 (bLaneN p)).map (·.toNat)
def bPodOff (p : List Byte) : Nat := 0x40 + pad4 (bLaneN p)
def bPods (p : List Byte) : List Nat := (List.range (bPodN p)).map fun k => getLe p (bPodOff p + 2 * k) 2
def bSeqOff (p : List Byte) : Nat := bPodOff p + pad4 (2 * bPodN p)
def bSeqs (p : List Byte) : List Word :=
  (List.range (bSeqN p)).map fun k => BitVec.ofNat 32 (getLe p (bSeqOff p + 4 * k) 4)
def bLength (p : List Byte) : Nat := bSeqOff p + 4 * bSeqN p

/-! ### SET_WINDOW: rounded up to 4 KiB (R129) -/

def roundUp (n m : Nat) : Nat := ceilDiv n m * m
def wPre (p : List Byte) : Nat := roundUp (getLe p 0 4) 4096
def wPost (p : List Byte) : Nat := roundUp (getLe p 4 4) 4096

/-! ### DEFINE_SEQUENCE (Table 14.10) -/

def qHoldoff (p : List Byte) : Nat := getLe p 4 4
def qCntLimit (p : List Byte) (i : Nat) : Nat := getLe p (0x08 + 8 * i) 8
def qTmrLimit (p : List Byte) (i : Nat) : Nat := getLe p (0x28 + 8 * i) 8
def qBinding (p : List Byte) (k : Nat) : Word := BitVec.ofNat 32 (getLe p (0x48 + 4 * k) 4)
def qSel (p : List Byte) (j t : Nat) : Nat := getLe p (0x88 + 0x50 * j + 2 * t) 2
def qBr (p : List Byte) (j b o len : Nat) : Nat := getLe p (0x88 + 0x50 * j + 0x10 + 0x10 * b + o) len
def qTermN (p : List Byte) : Nat := getLe p 1 1
/-- The 48-byte entry of term `i`. -/
def qTerm (p : List Byte) (i : Nat) : List Byte := slice p (0x08 + 48 * i) 48
def tKind (e : List Byte) : Nat := getLe e 0 1
def tPos (e : List Byte) : Nat := getLe e 1 1
def tWhere (e : List Byte) : Nat := getLe e 2 2
def tCtl (e : List Byte) : Nat := getLe e 4 4

/-! ### DEFINE_HISTOGRAM, DEFINE_INTERVAL, START_COMPARE (Table 14.9) -/

def hCfg (p : List Byte) : Nat := getLe p 0 4
def hWeave (p : List Byte) : Nat := getLe p 4 1
def hBins (p : List Byte) : Nat := getLe p 8 4
def hLo (p : List Byte) : Nat := getLe p 0x10 8
def hSpan (p : List Byte) : Nat := getLe p 0x18 4
def hMask (p : List Byte) : Nat := getLe p 0x20 8
def hRefSeq (p : List Byte) : Word := BitVec.ofNat 32 (getLe p 0x28 4)
def hRefTerm (p : List Byte) : Nat := getLe p 0x2C 1
def iCfg (p : List Byte) : Nat := getLe p 0 4
def iSrc (p : List Byte) : Nat := getLe p 4 4
def iGateTime (p : List Byte) : Nat := getLe p 8 4
def iN (p : List Byte) : Nat := getLe p 0x0C 2
def iWeave (p : List Byte) : Nat := getLe p 0x0E 1
def iStreamN (p : List Byte) : Nat := getLe p 0x0F 1
def iStreams (p : List Byte) : List Word :=
  (List.range (iStreamN p)).map fun k => BitVec.ofNat 32 (getLe p (0x10 + 4 * k) 4)
def cRef (p : List Byte) : Word := BitVec.ofNat 32 (getLe p 0 4)
def cWeave (p : List Byte) : Nat := getLe p 4 1
def cStn (p : List Byte) : Bool := getLe p 5 1 % 2 == 1
def cDevLimit (p : List Byte) : Nat := getLe p 6 2
def cStretch (p : List Byte) : Int := sint 32 (getLe p 8 4)
def cStreamN (p : List Byte) : Nat := getLe p 0x0C 1
def cStreams (p : List Byte) : List Word :=
  (List.range (cStreamN p)).map fun k => BitVec.ofNat 32 (getLe p (0x10 + 4 * k) 4)

/-! ### The committed configuration -/

def State.def? (s : State) (kind idx : Nat) : Option (List Byte) := s.weaver.committed.def? kind idx

/-- The streams of the committed configuration, ascending. -/
def State.streamIds (s : State) : List Nat := s.weaver.committed.defined 1

/-- The stream of which a lane is a data source. -/
def State.laneStream (s : State) (n : Nat) : Option Nat :=
  s.streamIds.find? fun i => match s.def? 1 i with | some p => (bLanes p).contains n | none => false

/-- The stream of which a pod, by pod index 32·port + position, is a data source. -/
def State.podStream (s : State) (pod : Nat) : Option Nat :=
  s.streamIds.find? fun i => match s.def? 1 i with | some p => (bPods p).contains pod | none => false

/-- Streams bound to a sequence (R123). -/
def State.seqStreams (s : State) (idx : Nat) : List Nat :=
  s.streamIds.filter fun i => match s.def? 1 i with
    | some p => (bSeqs p).any fun h => hType h == 2 && hIdx h == idx
    | none => false

/-- Streams bound to station annotations. -/
def State.annStreams (s : State) : List Nat :=
  s.streamIds.filter fun i => match s.def? 1 i with | some p => bAnnotations p | none => false

def State.isShed (s : State) (key : Nat) : Bool := s.weaver.shed.contains key

def State.streamPlace (s : State) (i : Nat) : Option StreamPlace := s.weaver.place.streams.find? (·.obj == i)

/-- MC_STATUS.STATE of a channel. -/
def State.mcState (s : State) (c : Nat) : Nat := s.regF (MC_STATUS c) 0 3

/-- A channel takes ring writes: it is neither frozen nor retired. -/
def State.chanOk (s : State) (c : Nat) : Bool := s.mcState c != 3 && s.mcState c != 6

end Sys2Proof.Machine
end

