-- ==== Sys2Proof/Machine/Sched.lean ====
section
/-!
DEFINITION. The scheduler of a memory channel (R276 to R278): port requests, the write queue and its drain. The data of a write stand
in the memory at once, as R278 lets every read return them; the queues hold what the channel has still to carry out.
-/
namespace Sys2Proof.Machine

/-! ### Ports (Table 12.9: 0 A, 1 B, 2 C, 3 D, 4 E) -/

/-- Order of service: among reads B, C, E; among writes A, D, E (R276). -/
def readPorts : List Nat := [1, 2, 4]
def writePorts : List Nat := [0, 3, 4]

/-- The first request of the foremost port that has one. -/
def firstRequest (rs : List MemReq) : List Nat → Option MemReq
  | [] => none
  | p :: ps => match rs.find? (·.port == p) with | some r => some r | none => firstRequest rs ps

/-- One burst of a request has been served. -/
def takeBurst (r : MemReq) (rs : List MemReq) : List MemReq :=
  match rs with
  | [] => []
  | x :: t => if x = r then (if r.left ≤ 1 then t else { r with burst := r.burst + 1, left := r.left - 1 } :: t) else x :: takeBurst r t

/-! ### The write queue (R277, R278) -/

def writeQueueBursts : Nat := 64

/-- Writes enter the queue from hub staging while it has room; one to an address that waits replaces the waiting burst in place. -/
def ChanSched.enter : Nat → ChanSched → ChanSched
  | 0, d => d
  | fuel + 1, d =>
    match firstRequest d.writes writePorts with
    | none => d
    | some r =>
      let d' := { d with writes := takeBurst r d.writes }
      if d.queue.contains r.burst then ChanSched.enter fuel d'
      else if d.queue.length < writeQueueBursts then ChanSched.enter fuel { d' with queue := d.queue ++ [r.burst] }
      else d

/-- A drain starts at 48 bursts and goes on until 16 are left. -/
def ChanSched.drainState (d : ChanSched) : ChanSched :=
  { d with drain := if 48 ≤ d.queue.length then true else if d.queue.length ≤ 16 then false else d.drain }

/-- One turn of the scheduler: while a drain runs it issues a write and reads wait; otherwise a read, by port; and with none
waiting, a write. A read of an address that waits in the queue is served from there. -/
def ChanSched.turn (d : ChanSched) : ChanSched :=
  let d := (d.enter writeQueueBursts).drainState
  if d.drain then ({ d with queue := d.queue.drop 1 } : ChanSched).drainState
  else
    match firstRequest d.reads readPorts with
    | some r => { d with reads := takeBurst r d.reads }
    | none => ({ d with queue := d.queue.drop 1 } : ChanSched).drainState

def ChanSched.idle (d : ChanSched) : Bool := d.reads.isEmpty && d.writes.isEmpty && d.queue.isEmpty

/-! ### Requests -/

/-- A port asks for bursts from `burst` on. A frozen channel takes none: writes bound for it are discarded in the staging and
reads end in error (Table 12.3). -/
def State.askWrite (s : State) (ch port burst n : Nat) : State :=
  if !s.chanOk ch || n = 0 then s
  else s.modSched ch fun d => { d with writes := d.writes ++ [{ port := port, burst := burst, left := n }] }
def State.askRead (s : State) (ch port burst n : Nat) : State :=
  if !s.chanOk ch || n = 0 then s
  else s.modSched ch fun d => { d with reads := d.reads ++ [{ port := port, burst := burst, left := n }] }

/-- Bursts of the bytes at a memory address. -/
def burstOf (ma : Nat) : Nat := ma % 2 ^ 33 / 64
def burstsOf (ma len : Nat) : Nat := if len = 0 then 0 else (ma + len - 1) / 64 - ma / 64 + 1

/-- Requests for bytes at a memory address: its channel, from its burst on. -/
def State.askWriteAt (s : State) (port ma len : Nat) : State := s.askWrite (ma / 2 ^ 33 % 16) port (burstOf ma) (burstsOf ma len)
def State.askReadAt (s : State) (port ma len : Nat) : State := s.askRead (ma / 2 ^ 33 % 16) port (burstOf ma) (burstsOf ma len)

/-- Requests for the pages that hold bytes `off` to `off + len` of a list of pages. -/
def State.askPages (s : State) (ask : State → Nat → Nat → State) (pages : List Nat) (off len : Nat) : State :=
  let first := off / 2 ^ 21
  let n := if len = 0 then 0 else (off + len - 1) / 2 ^ 21 - first + 1
  s.each (List.range n) fun s k =>
    let a := max off ((first + k) * 2 ^ 21)
    let b := min (off + len) ((first + k + 1) * 2 ^ 21)
    ask s (pages.getD (first + k) 0 * 2 ^ 21 + a % 2 ^ 21) (b - a)

/-- Burst number of a segment of a stream's ring. Where the ring lies in the channel is not given: its bursts have numbers of
their own, above those of every address (log entry 105). -/
def ringBurst (i seq : Nat) : Nat := 2 ^ 27 + (i * 2 ^ 48 + seq) * 64

/-- A turn of every channel that serves requests; in self-refresh, training or a freeze they wait (R276, R290, R294). -/
def State.schedule (s : State) : State :=
  s.each (s.scheds.keys.filter fun c => s.mcState c == 1 || s.mcState c == 4) fun s c => s.modSched c (·.turn)

/-- What a freeze leaves of the requests: the write queue is held, the rest is gone (Table 12.3). -/
def State.freezeSched (s : State) (ch : Nat) : State := s.modSched ch fun d => { d with reads := [], writes := [] }

end Sys2Proof.Machine
end

