-- ==== Sys2Proof/Machine/Records.lean ====
section
/-!
DEFINITION. Records (Tables 9.5 to 9.16), the segments of a stream (R207 to R211), and losses (R215 to R219).
-/
namespace Sys2Proof.Machine

/-- A record before it is placed: its words with a zero offset, the width of the offset field in the low bits of word 0
(0 for none), and the time that the offset stands for (R209, R212). -/
structure Rec where
  width : Nat
  time : Time
  words : List DWord
  deriving DecidableEq, Repr

/-! ### Record words -/

def fineEdge (lane : Nat) (u rise coarse : Bool) (t : Time) : Rec :=
  { width := 48, time := t
    words := [pack64 [(60, 4, 0x1), (52, 8, lane), (51, 1, u.toNat), (50, 1, rise.toNat), (49, 1, coarse.toNat)]] }

def levelRec (lane state reason : Nat) (t : Time) : Rec :=
  { width := 48, time := t, words := [pack64 [(60, 4, 0xA), (52, 8, lane), (50, 2, state), (48, 2, reason)]] }

def burstRec (lane : Nat) (u : Bool) (state : Nat) (coarse : Bool) (first : Time) (count span : Nat) : Rec :=
  { width := 48, time := first
    words := [pack64 [(60, 4, 0x4), (52, 8, lane), (51, 1, u.toNat), (49, 2, state), (48, 1, coarse.toNat)],
              pack64 [(40, 24, count), (0, 40, span)]] }

/-- Data words of a block: 32 samples of two bits a word, the first in the low bits (R213). -/
def sampleWords (samples : List (BitVec 2)) : List DWord :=
  (chunks 32 samples).map fun c => BitVec.ofNat 64 (c.zipIdx.foldl (fun a x => a + x.1.toNat * 4 ^ x.2) 0)

def rawBlock (lane rate : Nat) (samples : List (BitVec 2)) (t : Time) : Rec :=
  let ws := sampleWords samples
  { width := 39, time := t
    words := pack64 [(60, 4, 0x5), (52, 8, lane), (46, 6, ws.length), (44, 2, rate), (39, 5, (samples.length - 1) % 32)]
      :: ws }

def stateBlock (lane skipped : Nat) (samples : List (BitVec 2)) (t : Time) : Rec :=
  let ws := sampleWords samples
  { width := 31, time := t
    words := pack64 [(60, 4, 0xE), (52, 8, lane), (46, 6, ws.length), (41, 5, (samples.length - 1) % 32),
                     (31, 10, sat 1023 skipped)] :: ws }

def podEdge (pod ch : Nat) (level dropout : Bool) (width : Nat) (t : Time) : Rec :=
  { width := 30, time := t
    words := [pack64 [(60, 4, 0x2), (51, 9, pod), (45, 6, ch), (44, 1, level.toNat), (43, 1, dropout.toNat),
                      (30, 13, width)]] }

def evBits (f : EvFlags) : Nat := f.coarse.toNat + 2 * f.unstamped.toNat + 4 * f.pod.toNat

/-- MARK (Table 9.10); PRE_DEPTH and SHORT_PRE are the stream's own. -/
def markRec (m : Mark) (preDepth : Nat) (short : Bool) : Rec :=
  { width := 0, time := m.time
    words :=
      [ pack64 [(60, 4, 0x6), (55, 5, m.sq), (47, 8, m.id.toNat), (31, 16, m.seq.toNat), (27, 4, m.fromLevel.toNat),
          (23, 4, m.toLevel.toNat), (21, 2, m.branch.toNat), (17, 4, m.satisfied.toNat), (9, 1, m.forced.toNat),
          (10, 1, m.summary.toNat), (11, 1, short.toNat), (12, 1, m.flags.coarse.toNat),
          (13, 1, m.flags.unstamped.toNat), (14, 1, m.flags.pod.toNat), (15, 1, (decide (m.missed = 2 ^ 24 - 1 ∨ m.dead = 2 ^ 40 - 1)).toNat)],
        BitVec.ofNat 64 m.time,
        pack64 [(40, 24, m.missed), (0, 40, m.dead)],
        pack64 [(48, 16, m.inputs.toNat), (32, 16, m.folded), (0, 31, preDepth)] ] }

def deviationRec (cu stepId devNo : Nat) (d : Deviation) : Rec :=
  { width := 37, time := d.time
    words :=
      [ pack64 [(60, 4, 0xB), (57, 3, d.kind), (54, 3, cu), (51, 3, evBits d.flags), (37, 14, d.cin)],
        pack64 [(48, 16, stepId), (32, 16, devNo), (0, 24, unint 24 d.error)] ] }

/-- ANNOTATION records of a payload in pieces of at most 248 bytes, CONT on all but the last (Table 9.13). -/
def annotationRecs (source : Nat) (payload : List Byte) (t : Time) : List Rec :=
  let ps := match chunks 248 payload with | [] => [[]] | l => l
  (ps.zipIdx).map fun x =>
    { width := 40, time := t
      words := pack64 [(60, 4, 0x7), (58, 2, source), (50, 8, x.1.length),
                       (49, 1, (decide (x.2 + 1 < ps.length)).toNat)] :: (chunks 8 x.1).map wordOf }

def digestRec (kind : Nat) (periodic : Bool) (stream epoch : Nat) (dig : List Byte) : Rec :=
  { width := 0, time := 0
    words := pack64 [(60, 4, 0x9), (56, 4, kind), (55, 1, periodic.toNat), (32, 16, stream), (0, 32, epoch)]
      :: (chunks 8 (padTo 32 dig)).map wordOf }

/-- The two words of a TIMEBASE_EVENT with a zero offset (Table 9.15). -/
def timebaseWords (old new cause ppb mhz : Nat) : List DWord :=
  [ pack64 [(60, 4, 0xD), (58, 2, old), (56, 2, new), (52, 4, cause)], pack64 [(32, 32, ppb), (24, 8, mhz)] ]

def lossRec (cause scope index : Nat) (more : Bool) (start : Time) (count span : Nat) : Rec :=
  { width := 44, time := start
    words := [pack64 [(60, 4, 0x8), (56, 4, cause), (54, 2, scope), (45, 9, index), (44, 1, more.toNat)],
              pack64 [(36, 28, count), (0, 36, span)]] }

/-! ### Framing -/

/-- BASE (Table 9.5). -/
def baseRec (segStart windowStart ringStart lossSeg : Bool) (seq : Nat) (t : Time) : List DWord :=
  [ pack64 [(60, 4, 0x3), (59, 1, segStart.toNat), (58, 1, windowStart.toNat), (57, 1, ringStart.toNat),
            (56, 1, lossSeg.toNat), (48, 8, t / 2 ^ 64), (0, 48, seq)], BitVec.ofNat 64 t ]

def segWords : Nat := 512

/-! ### SEG_SEQ, modulo 2^48 (R208) -/

def segAdd (a n : Nat) : Nat := (a + n) % 2 ^ 48
/-- Segments from `a` on to `b`. -/
def segDist (a b : Nat) : Nat := (b + 2 ^ 48 - a) % 2 ^ 48
/-- `a` comes before `b`. -/
def segBefore (a b : Nat) : Bool := segDist a b != 0 && decide (segDist a b < 2 ^ 47)
/-- Stream position of the segment `seq`. -/
def StreamDyn.posOf (sd : StreamDyn) (seq : Nat) : Nat := sd.openPos - segWords * segDist seq sd.segSeq

/-- The record's offset from the latest BASE does not fit its field, or its epoch is a later one (R209). -/
def needBase (base : Time) (r : Rec) : Bool :=
  let off : Int := (r.time : Int) - base
  (decide (base / 2 ^ 64 < r.time / 2 ^ 64) && r.words.length != 0 && decide (r.time ≠ 0)) ||
    (r.width != 0 && !(decide (-(2 ^ (r.width - 1) : Int) ≤ off) && decide (off < 2 ^ (r.width - 1))))

/-- A DIGEST: it carries no time, and stands where it is written (R214). -/
def Rec.isDigest (r : Rec) : Bool := fld (r.words.headD 0) 60 4 == 9

/-- Width of a record type's offset field in the low bits of its first word (Table 9.3). -/
def offsetWidth : Nat → Nat
  | 0x1 => 48
  | 0x2 => 30
  | 0x4 => 48
  | 0x5 => 39
  | 0x7 => 40
  | 0x8 => 44
  | 0xA => 48
  | 0xB => 37
  | 0xC => 26
  | 0xD => 44
  | 0xE => 31
  | _ => 0

/-- The time that a record's first word gives, its offset counted from `base`. -/
def recordTime (base : Time) (w : DWord) : Time :=
  let n := offsetWidth (fld w 60 4)
  if n = 0 then 0 else ((base : Int) + sint n (fld w 0 n)).toNat

/-- A record from its words: the time of a MARK stands in its second word. -/
def recordOf (base : Time) (ws : List DWord) : Rec :=
  let w := ws.headD 0
  let n := offsetWidth (fld w 60 4)
  { width := n
    time := if fld w 60 4 = 0x6 then base / 2 ^ 64 * 2 ^ 64 + (ws.getD 1 0).toNat else recordTime base w
    words := (w - BitVec.ofNat 64 (fld w 0 n)) :: ws.drop 1 }

/-- A LOSS record. -/
def Rec.isLoss (r : Rec) : Bool := fld (r.words.headD 0) 60 4 == 8

/-- The record's words with its offset from `base` in place. -/
def Rec.placed (r : Rec) (base : Time) : List DWord :=
  match r.words with
  | [] => []
  | w :: t => (w + BitVec.ofNat 64 (unint r.width ((r.time : Int) - base))) :: t

/-- Words kept free at the end of the open segment for the pieces of open losses (R216), but never so many that a record
could not follow the opening BASE (log entry 103). -/
def StreamDyn.reserve (sd : StreamDyn) : Nat := min (4 * sd.losses.length) 444

/-- Open a segment (R208): its BASE carries the start of the slot in which it is written. -/
def StreamDyn.openSegment (sd : StreamDyn) (slotStart : Time) : StreamDyn :=
  { sd with
    open_ := baseRec true false sd.ringStartFlag false sd.segSeq slotStart
    baseTime := slotStart
    openTime := slotStart
    ringStartFlag := false
    openMark := none
    openLoss := false
    firstRecord := none }

/-- The record fits the words that remain. -/
def StreamDyn.fits (sd : StreamDyn) (r : Rec) : Bool :=
  decide (sd.open_.length + r.words.length + (if needBase sd.baseTime r then 2 else 0) + sd.reserve ≤ segWords)

/-- Write the record in the open segment, after a further BASE where its offset needs one (R209). -/
def StreamDyn.append (sd : StreamDyn) (r : Rec) (now : Time) : StreamDyn :=
  let b := if needBase sd.baseTime r then baseRec false false false false sd.segSeq r.time else []
  let base := if needBase sd.baseTime r then r.time else sd.baseTime
  { sd with
    open_ := sd.open_ ++ b ++ r.placed base
    baseTime := base
    openLoss := sd.openLoss || r.isLoss
    firstRecord := match sd.firstRecord with | some t => some t | none => some now
    lastRecord := if r.isDigest then now else r.time }

/-! ### Closing a segment (R211) -/

/-- Longest span of one LOSS piece. -/
def maxSpan : Nat := 2 ^ 36 - 1
def maxCount : Nat := 2 ^ 28 - 1

/-- Write an open loss as pieces with OPEN set, as far as they fit the open segment, at most `fuel` of them; the loss goes on
from the end of the last (R216). A second piece follows where SPAN or COUNT would overflow. -/
def StreamDyn.openPieces (now : Time) : Nat → StreamDyn → OpenLoss → StreamDyn × OpenLoss
  | 0, sd, l => (sd, l)
  | fuel + 1, sd, l =>
    let stop := min (max now l.start) (l.start + maxSpan)
    let r := lossRec l.cause.toNat l.scope.toNat l.index true l.start (min l.count maxCount) (stop - l.start)
    if segWords < sd.open_.length + 2 + (if needBase sd.baseTime r then 2 else 0) then (sd, l)
    else
      let sd := sd.append r now
      let l := { l with start := stop, upto := max now l.upto, count := l.count - min l.count maxCount }
      if now ≤ l.start && l.count = 0 then (sd, l) else StreamDyn.openPieces now fuel sd l

/-- At a close, every open loss writes one piece where there is room, then the losses that need more write further ones. Those
without room for a piece come first in the next segment (log entry 103). -/
def StreamDyn.writePieces (sd : StreamDyn) (now : Time) : StreamDyn :=
  let step := fun (fuel : Nat) (x : StreamDyn × List OpenLoss × List OpenLoss) (l : OpenLoss) =>
    let r := StreamDyn.openPieces now fuel x.1 l
    if r.2 = l then (r.1, x.2.1 ++ [l], x.2.2) else (r.1, x.2.1, x.2.2 ++ [r.2])
  let one := sd.losses.foldl (step 1) (sd, [], [])
  let more := (one.2.2.filter fun l => l.start < now || l.count ≠ 0).foldl (fun d l =>
    let r := StreamDyn.openPieces now segWords d.1 l
    (r.1, d.2 ++ [r.2])) (one.1, ([] : List OpenLoss))
  { more.1 with losses := one.2.1 ++ more.2 ++ one.2.2.filter fun l => !(l.start < now || l.count ≠ 0) }

/-- Add a segment to the runs of missing segments (R218). -/
def addMissing (ms : List Missing) (m : Missing) : List Missing :=
  match ms.reverse with
  | [] => [m]
  | l :: rest =>
    if l.cause = m.cause && segAdd l.firstSeq l.segs == m.firstSeq then
      (({ l with segs := l.segs + m.segs, count := l.count + m.count, upTo := m.upTo } : Missing) :: rest).reverse
    else ms ++ [m]

/-- The segment touches a window of the stream (R130 to R132). -/
def inWindows (ws : List (Nat × Option Nat)) (pos : Nat) : Bool :=
  ws.any fun w => decide (w.1 < pos + segWords) && (match w.2 with | some e => decide (pos < e) | none => true)

/-- Segments that a ring holds. -/
def StreamPlace.segments (p : StreamPlace) : Nat := p.perChannel * p.stripe.length / 4096

/-- Drop the oldest segments over the ring's size: OVERWRITE (R30, R235), but no loss for a segment of a windowed stream
outside every window (R218) nor for words that the consumer has read (R235). -/
def overwriteRing (windowed : Bool) (cap : Nat) : Nat → StreamDyn → StreamDyn
  | 0, sd => sd
  | fuel + 1, sd =>
    if sd.ring.length ≤ cap then sd
    else
      match sd.ring with
      | [] => sd
      | g :: rest =>
        let unread := segWords - min segWords sd.qRead
        let sd' := { sd with
          ring := rest
          qRead := sd.qRead - segWords
          qRel := 0
          qSkip := sd.qSkip + unread
          qMark := match sd.qMark with | some m => if m < segWords then none else some (m - segWords) | none => none
          qMarkLost := sd.qMarkLost || (match sd.qMark with | some m => decide (m < segWords) | none => false) }
        if unread = 0 || (windowed && !inWindows sd.windows g.pos) then overwriteRing windowed cap fuel sd'
        else
          overwriteRing windowed cap fuel { sd' with
            wordsLost := sd.wordsLost + unread
            missing := addMissing sd.missing
              { firstSeq := g.seq, segs := 1, cause := 1, count := unread, from_ := g.time, upTo := g.closed
                ringStart := sd.ringStartTime } }

/-- First position of the pre-window of the write position: it begins with its segment, and no earlier than the ring (R130, R131). -/
def StreamDyn.preFrom (sd : StreamDyn) (pre : Nat) : Nat :=
  max sd.ringStartPos ((sd.openPos + sd.open_.length - pre / 8) / segWords * segWords)

/-- The consumer mark of a windowed stream's ring stands at the start of the pre-window (R130), but never beyond READ, which
segments that wait for delivery hold back (R227). -/
def StreamDyn.markPre (sd : StreamDyn) (pre : Nat) : StreamDyn :=
  { sd with
    qMark := some (min sd.qRead (segWords * (sd.ring.takeWhile fun g => decide (g.pos + segWords ≤ sd.preFrom pre)).length))
    qMarkLost := false }

/-- Ring data has been written on a channel (log entry 70). -/
def State.markRing (s : State) (ch : Nat) : State := s.modSched ch fun d => { d with ring := true }

/-- Close the open segment and hand it to delivery. On a channel out of service it is missing under MEM_FREEZE. -/
def State.closeSegment (s : State) (i : Nat) (flush memberEnd : Bool) : State :=
  let sd := s.stream i
  if sd.open_.isEmpty then s
  else
    let sd := sd.writePieces s.now
    let stripe := match s.streamPlace i with | some p => p.stripe | none => []
    let ch := stripe.getD (sd.segSeq % max 1 stripe.length) 0
    let seg : Segment :=
      { seq := sd.segSeq % 2 ^ 48, words := (sd.open_ ++ List.replicate (segWords - sd.open_.length) 0)
        channel := ch, pos := sd.openPos, hasLoss := sd.openLoss, flushPoint := flush
        time := sd.openTime, last := sd.lastRecord, markTime := sd.openMark, closed := s.now, memberEnd := memberEnd }
    let cap := match s.streamPlace i with | some p => p.segments | none => 0
    let windowed := match s.def? 1 i with | some p => bWindowed p | none => false
    let sd := { sd with
      open_ := [], openMark := none, openLoss := false, firstRecord := none, segSeq := (sd.segSeq + 1) % 2 ^ 48
      openPos := sd.openPos + segWords, bankFull := true }
    let sd :=
      if s.chanOk ch then overwriteRing windowed cap (sd.ring.length + 1) { sd with ring := sd.ring ++ [seg] }
      else { sd with
        wordsLost := sd.wordsLost + segWords
        missing := addMissing sd.missing
          { firstSeq := seg.seq, segs := 1, cause := 5, count := segWords, from_ := seg.time, upTo := s.now
            ringStart := sd.ringStartTime } }
    (s.when (s.chanOk ch) fun s => (s.askWrite ch 0 (ringBurst i seg.seq) 64).markRing ch).setStream i (if windowed then sd.markPre (match s.def? 8 i with | some p => wPre p | none => 0) else sd)

/-! ### Writing a record -/

/-- The stream is written: it is in the committed configuration. -/
def State.hasStream (s : State) (i : Nat) : Bool := (s.def? 1 i).isSome

/-- Member interval that a binding sets, in bytes (Table 11.2); none with format NONE. -/
def bindMember (p : List Byte) : Nat := if bFormat p = 0 then 0 else 1048576 * bMemberMib p

/-- Input of the member that the open segment enters: what its engine has taken, and the segments that wait (R225). -/
def StreamDyn.memberInput (sd : StreamDyn) (interval : Nat) (windowed : Bool) : Nat :=
  (sd.taken ++ sd.ring.filter fun g => !windowed || inWindows sd.windows g.pos).foldl
    (fun n g => if g.memberEnd || interval ≤ n + 8 * segWords then 0 else n + 8 * segWords) sd.memberBytes

/-- The record just written fills its segment and brings the member to its interval: the segment closes after it (Table 9.4). -/
def State.memberClose (s : State) (i : Nat) : State :=
  let sd := s.stream i
  match s.def? 1 i with
  | none => s
  | some p =>
    if bindMember p = 0 || sd.open_.length < segWords || sd.memberInput (bindMember p) (bWindowed p) + 8 * segWords < bindMember p then s
    else s.closeSegment i false true

/-- Write a record into a stream (R207). A shed stream is not written: its open loss counts the words (R313). -/
def State.writeRec (s : State) (i : Nat) (r : Rec) : State :=
  if !s.hasStream i then s
  else if s.isShed (objKey 1 i) then
    s.modStream i fun sd => { sd with
      wordsLost := sd.wordsLost + r.words.length
      losses := sd.losses.map fun l =>
        if l.cause = 6 && l.scope = 0 then { l with count := l.count + r.words.length, upto := max l.upto s.now } else l }
  else
    let s := if (s.stream i).open_.isEmpty then s.modStream i (·.openSegment s.slotStart) else s
    let s := if (s.stream i).fits r then s else (s.closeSegment i false false).modStream i (·.openSegment s.slotStart)
    (s.modStream i (·.append r s.now)).memberClose i

def State.writeRecs (s : State) (i : Nat) (rs : List Rec) : State := s.each rs fun s r => s.writeRec i r

/-- Write a record into each of several streams. -/
def State.writeAll (s : State) (is : List Nat) (r : Rec) : State := s.each is fun s i => s.writeRec i r

/-! ### Losses (R20, R216, R217) -/

/-- The segment in which a further loss begins: one is open, with room for the loss's piece (R207, R216). -/
def State.lossSegmentOpen (s : State) (i : Nat) : State :=
  let sd := s.stream i
  if sd.open_.isEmpty then s.modStream i (·.openSegment s.slotStart)
  else if segWords < sd.open_.length + min (4 * (sd.losses.length + 1)) 444 then
    (s.closeSegment i false false).modStream i (·.openSegment s.slotStart)
  else s

/-- A loss of `count` words from `start` to `stop`, kept open: it widens an open loss of the same cause and source. -/
def State.openLoss (s : State) (i cause scope index : Nat) (start stop : Time) (count : Nat) : State :=
  if !s.hasStream i then s
  else
    let same := fun (l : OpenLoss) => l.cause.toNat == cause && l.scope.toNat == scope && l.index == index
    let s := if s.isShed (objKey 1 i) || (s.stream i).losses.any same then s else s.lossSegmentOpen i
    s.modStream i fun sd =>
      if sd.losses.any same then
        { sd with
          wordsLost := sd.wordsLost + count
          losses := sd.losses.map fun l => if same l then { l with count := l.count + count, upto := max l.upto stop } else l }
      else
        { sd with
          wordsLost := sd.wordsLost + count
          losses := sd.losses ++ [{ cause := BitVec.ofNat 4 cause, scope := BitVec.ofNat 2 scope, index := index
                                    start := start, upto := max start stop, count := count }] }

/-- The pieces of a loss that ends: each within COUNT and SPAN, OPEN set on all but the last (R216); the one that `fuel`
leaves last takes what its fields hold. -/
def lossPieces (cause scope index : Nat) (stop : Time) : Nat → Time → Nat → List Rec
  | 0, start, count => [lossRec cause scope index false start (min count maxCount) (min (stop - start) maxSpan)]
  | fuel + 1, start, count =>
    if stop - start ≤ maxSpan && count ≤ maxCount then [lossRec cause scope index false start count (stop - start)]
    else
      let e := min stop (start + maxSpan)
      lossRec cause scope index true start (min count maxCount) (e - start) ::
        lossPieces cause scope index stop fuel e (count - min count maxCount)

/-- End the open losses of a source: the last pieces are written with OPEN clear. -/
def State.closeLosses (s : State) (i : Nat) (which : OpenLoss → Bool) (stop : Time) : State :=
  let ended := (s.stream i).losses.filter which
  let s := if ended.isEmpty then s else s.modStream i fun sd => { sd with losses := sd.losses.filter fun l => !which l }
  s.each ended fun s l =>
    let last := max stop (max l.start l.upto)
    let ps := lossPieces l.cause.toNat l.scope.toNat l.index last
      ((last - l.start) / maxSpan + l.count / maxCount + 1) l.start l.count
    s.writeRecs i ps

/-- End the loss of one cause, scope and index. -/
def State.closeLoss (s : State) (i cause scope index : Nat) (stop : Time) : State :=
  s.closeLosses i (fun l => l.cause.toNat == cause && l.scope.toNat == scope && l.index == index) stop

/-- A loss that is over at once: opened and closed. -/
def State.wholeLoss (s : State) (i cause scope index : Nat) (start stop : Time) (count : Nat) : State :=
  (s.openLoss i cause scope index start stop count).closeLoss i cause scope index stop

/-! ### Digests and time-base events in every stream -/

/-- The bytes that eight registers from `f` hold. -/
def State.digestRegs (s : State) (f : Nat → Nat) : List Byte :=
  (List.range 8).flatMap fun k => leBytes 4 (s.reg (f k)).toNat

/-- DIGEST of KIND 0 followed at once by one of KIND 1 in every stream (R214, R312). -/
def State.writeDigests (s : State) (periodic : Bool) : State :=
  s.each s.streamIds fun s i =>
    s.writeRecs i [ digestRec 0 periodic i s.epochNo.toNat (s.digestRegs HUB_CDIG)
                  , digestRec 1 periodic i s.epochNo.toNat (s.digestRegs HUB_PDIG) ]

end Sys2Proof.Machine
end

