-- ==== Sys2Proof/Machine/Mailbox.lean ====
section
/-!
DEFINITION. Mailbox commands in common (chapter 14): responses, classes, lengths and field checks (R323), and how the
step of a command finds the mailbox that holds it. Doorbells and completions are in Machine/Doorbell.lean.
-/
namespace Sys2Proof.Machine

/-! ### Responses (Table 14.5) -/

def Response.ok (bytes : List Byte) : Response := { status := 0, detail := 0, bytes := bytes }
def Response.fail (status detail : Nat) : Response :=
  { status := BitVec.ofNat 16 status, detail := BitVec.ofNat 16 detail, bytes := [] }

def stUnknown : Nat := 0x01
def stWrongClass : Nat := 0x02
def stBadLength : Nat := 0x03
def stInvalid : Nat := 0x04
def stStale : Nat := 0x05
def stNoUnit : Nat := 0x06
def stRetired : Nat := 0x07
def stNoResource : Nat := 0x08
def stAdmission : Nat := 0x09
def stConstraint : Nat := 0x0A
def stBusy : Nat := 0x0B
def stNotReady : Nat := 0x0C
def stNoConfig : Nat := 0x0D
def stCorrupt : Nat := 0x0E
def stMemFault : Nat := 0x0F
def stDmaTimeout : Nat := 0x10
def stDmaError : Nat := 0x11
def stAuth : Nat := 0x12
def stNotPermitted : Nat := 0x13
def stBadSig : Nat := 0x14
def stRollback : Nat := 0x15
def stMismatch : Nat := 0x16
def stCancelled : Nat := 0x17
def stLedgerFull : Nat := 0x18
def stDeviceFault : Nat := 0x19

/-- The refusal detail (Table 14.7). -/
structure Refuse where
  status : Nat
  code : Nat
  resource : Nat
  type : Nat
  unit : Word
  handle : Word
  demand : Nat
  limit : Nat
  deriving DecidableEq, Repr

def Refuse.response (r : Refuse) : Response :=
  { status := BitVec.ofNat 16 r.status, detail := 0
    bytes := leBytes 1 r.code ++ leBytes 1 r.resource ++ leBytes 1 r.type ++ [0] ++ leBytes 4 r.unit.toNat ++
      leBytes 4 r.handle.toNat ++ leBytes 4 0 ++ leBytes 8 r.demand ++ leBytes 8 r.limit }

/-! ### Codes, classes and lengths (Table 14.6) -/

/-- Class of a command code; none for a code not in Table 14.6. -/
def cmdClass : Nat → Option Nat
  | 0x0001 => some 2 | 0x0002 => some 0 | 0x0003 => some 0 | 0x0004 => some 2 | 0x0010 => some 2 | 0x0011 => some 2
  | 0x0020 => some 2 | 0x0021 => some 2 | 0x0022 => some 2 | 0x0023 => some 2 | 0x0024 => some 2 | 0x0025 => some 2
  | 0x0026 => some 2 | 0x0027 => some 2 | 0x0030 => some 2 | 0x0031 => some 2 | 0x0040 => some 1 | 0x0041 => some 1
  | 0x0042 => some 0 | 0x0043 => some 0 | 0x0050 => some 3 | 0x0051 => some 2 | 0x0052 => some 2 | 0x0053 => some 1
  | 0x0054 => some 2 | 0x0060 => some 3 | 0x0061 => some 2 | 0x0062 => some 2 | 0x0063 => some 2 | 0x0064 => some 2
  | 0x0070 => some 2 | 0x0071 => some 3 | 0x0072 => some 2 | 0x0080 => some 2 | 0x0081 => some 2 | 0x0090 => some 3
  | 0x0091 => some 3 | 0x0092 => some 3
  | _ => none

/-- Class of a mailbox (Table 14.3). -/
def boxClass (m : Nat) : Nat := if m < 4 then 0 else if m < 8 then 1 else if m < 24 then 2 else 3

/-- The length that a command's layout defines; none for DEFINE_SEQUENCE with a reserved PART, which has no layout. -/
def cmdLength (code : Nat) (p : List Byte) : Option Nat :=
  match code with
  | 0x0004 => some 16
  | 0x0010 => some 4
  | 0x0020 => some (8 + 32 * getLe p 0 2)
  | 0x0021 => some (8 + 1048 * getLe p 0 1)
  | 0x0022 => match getLe p 0 1 with
    | 0 => some 1416
    | 1 => some (8 + 48 * getLe p 1 1)
    | _ => none
  | 0x0023 => some 48
  | 0x0024 => some 48
  | 0x0025 => some (bLength p)
  | 0x0026 => some 8
  | 0x0027 => some 48
  | 0x0030 => some (8 + 16 * getLe p 0 2)
  | 0x0031 => some 16
  | 0x0040 => some 4
  | 0x0042 => some 4
  | 0x0043 => some 4
  | 0x0050 => some 16
  | 0x0051 => some 16
  | 0x0053 => some (pad4 (4 + 4 * getLe p 0 1 + getLe p 1 1))
  | 0x0054 => some 16
  | 0x0060 => some 24
  | 0x0062 => some 68
  | 0x0063 => some (4 + 4 * getLe p 2 1)
  | 0x0064 => some 36
  | 0x0070 => some (4 + 4 * getLe p 0 2)
  | 0x0071 => some 40
  | 0x0072 => some 8
  | 0x0080 => some (8 + 4 * getLe p 4 2)
  | 0x0081 => some 4
  | 0x0090 => some 160
  | 0x0091 => some 16
  | _ => some 0

/-! ### Field checks (R323 step 4): each answers the bit position 8·byte + bit of its first offending bit -/

/-- Lowest set bit of a number of at most `n` bits. -/
def lowestBit (v : Nat) : Nat → Option Nat
  | 0 => none
  | n + 1 => if v % 2 = 1 then some 0 else (lowestBit (v / 2) n).map (· + 1)

/-- Reserved bits `mask` of the `len`-byte field at `off` must be zero. -/
def ckRsv (p : List Byte) (off len mask : Nat) : Option Nat :=
  (lowestBit (getLe p off len &&& mask) (8 * len)).map (· + 8 * off)

/-- All of `len` bytes at `off` must be zero. -/
def ckZero (p : List Byte) (off len : Nat) : Option Nat :=
  ((slice p off len).zipIdx.findSome? fun b => (lowestBit b.1.toNat 8).map (· + 8 * b.2)).map (· + 8 * off)

/-- The field of `bits` bits at bit `lo` of the 8-byte field at `off` must pass. -/
def ckFld (p : List Byte) (off lo bits : Nat) (ok : Nat → Bool) : Option Nat :=
  if ok (getLe p off 8 / 2 ^ lo % 2 ^ bits) then none else some (8 * off + lo)

/-- The least of the offending bits. -/
def firstBad (l : List (Option Nat)) : Option Nat :=
  l.foldl (fun a x => match a, x with
    | some i, some j => some (min i j)
    | some i, none => some i
    | none, x => x) none

/-! ### Handles (R204) -/

/-- A handle that a command names: where it stands (none for the header), the types accepted, and whether 0 is allowed. -/
structure HandleUse where
  handle : Word
  at_ : Option Nat
  types : List Nat
  optional : Bool
  deriving DecidableEq, Repr

/-- The handle names an allocated index with its current generation and, but for GET_STATUS, no DESTROY of it waits. -/
def State.handleLive (s : State) (h : Word) (evenPending : Bool) : Bool :=
  match Tbl.find? s.weaver.created (hKey h) with
  | some pending => hGen h == s.gen (hKey h) && (evenPending || !pending)
  | none => false

def State.checkHandle (s : State) (evenPending : Bool) (u : HandleUse) : Option Response :=
  if u.handle = 0 && u.optional then none
  else if !u.types.contains (hType u.handle) then some (Response.fail stInvalid (u.at_.getD 0xFFFF))
  else if !s.handleLive u.handle evenPending then some (Response.fail stStale 0)
  else none

/-! ### The step of a command -/

/-- The command that a mailbox has started and not yet answered, if it has this code. After a power failure stopped the
cores nothing runs (R327). -/
def State.runnable (s : State) (m code : Nat) : Option MbImage :=
  match (s.box m).taken with
  | some img =>
    if img.code.toNat = code && (s.box m).started && (s.box m).ready.isNone && !s.power.stopped then some img else none
  | none => none

/-- The result of a command waits for its completion. -/
def State.respond (s : State) (m : Nat) (r : Response) : State := s.modBox m fun b => { b with ready := some r }

/-- Run the command of a mailbox: nothing happens unless the mailbox holds a started command with this code whose
selector passes (log entry 6). The body answers the new state and, unless the answer comes later, the response. -/
def State.runCommand (s : State) (m code : Nat) (sel : MbImage → Bool)
    (body : MbImage → State → State × Option Response) : State :=
  match s.runnable m code with
  | none => s
  | some img =>
    if sel img then
      let r := body img s
      match r.2 with
      | some x => r.1.respond m x
      | none => r.1
    else s

/-- A refused command changes nothing (R323). -/
def refuse (s : State) (status detail : Nat) : State × Option Response := (s, some (Response.fail status detail))

def done (s : State) (bytes : List Byte) : State × Option Response := (s, some (Response.ok bytes))

/-- The first refusal in a list of checks. -/
def firstRefusal (l : List (Option Response)) : Option Response := l.findSome? id

/-- The bytes that arrived for the command in mailbox `m`. -/
def State.hostData (s : State) (m : Nat) : Option (List Byte) :=
  s.pcie.delivered.findSome? fun d => if d.1 = .command m then some d.2 else none

/-- The data of a command are used up. -/
def State.dropData (s : State) (m : Nat) : State :=
  s.modPcie fun p => { p with delivered := p.delivered.filter fun d => d.1 ≠ .command m }

/-- The stream that a handle names. -/
def hStream (h : Word) : Nat := hIdx h

/-- The object's part of the committed placement. -/
def Placement.seqSq (p : Placement) (idx : Nat) : Option Nat := (p.seqs.find? (·.obj == idx)).map (·.sq)
def Placement.sqSeq (p : Placement) (sq : Nat) : Option Nat := (p.seqs.find? (·.sq == sq)).map (·.obj)
def Placement.cmpCu (p : Placement) (idx : Nat) : Option Nat := (p.cmps.find? (·.obj == idx)).map (·.cu)
def Placement.cuCmp (p : Placement) (cu : Nat) : Option Nat := (p.cmps.find? (·.cu == cu)).map (·.obj)
def Placement.ivalIu (p : Placement) (idx : Nat) : Option Nat := (p.ivals.find? (·.obj == idx)).map (·.iu)
def Placement.histPlace (p : Placement) (idx : Nat) : Option HistPlace := p.hists.find? (·.obj == idx)
def Placement.histAt (p : Placement) (hu r : Nat) : Option HistPlace :=
  p.hists.find? fun h => h.hu == hu && h.region == r

end Sys2Proof.Machine
end

