-- ==== Sys2Proof/Machine/Reports.lean ====
section
/-!
DEFINITION. Ledger record requests by type (Table 16.4) and notices by code (Table 14.15) that several families make, and
the staging of definitions (R331).
-/
namespace Sys2Proof.Machine

/-- The unit of a record that has none: `hd` (Table 16.3). -/
def noUnit : Word := uHd

def State.ledFault (s : State) (unit : Word) (cls : Nat) (detail : List Byte) : State :=
  s.ledgerReq 0x0010 3 unit cls (leBytes 8 cls ++ padTo 16 detail)
def State.ledVerdict (s : State) (unit : Word) (cls : Nat) (lasting : Bool) (window : Nat) (result : Word) : State :=
  s.ledgerReq 0x0011 (if lasting then 3 else 2) unit cls
    (leBytes 1 cls ++ leBytes 1 lasting.toNat ++ leBytes 2 window ++ leBytes 4 result.toNat)
def State.ledRetired (s : State) (unit : Word) (cls : Nat) : State :=
  s.ledgerReq 0x0012 3 unit cls (leBytes 4 cls ++ leBytes 4 (s.regF HUB_GUAR_INGEST 0 18))
def State.ledReturned (s : State) (unit : Word) : State := s.ledgerReq 0x0013 1 unit 0x13 []
def State.ledMemRate (s : State) (ch rate : Nat) : State := s.ledgerReq 0x0015 2 (uMc ch) 0x13 (leBytes 8 rate)
def State.ledShed (s : State) (key : Nat) (restored : Bool) : State :=
  s.ledgerReq 0x0016 2 noUnit 0x13 (leBytes 4 (s.handleOfKey key).toNat ++ leBytes 4 restored.toNat)
def State.ledMismatch (s : State) (unit : Word) (kind : Nat) (restored : Bool) (expected reported : List Byte) : State :=
  s.ledgerReq 0x0017 3 unit 0x13 (leBytes 1 kind ++ leBytes 7 restored.toNat ++ padTo 32 expected ++ padTo 32 reported)
/-- REFERENCE: RESULT 0 DATA, 1 ENGINE, 2 DIFFER, 3 CONTENT, 4 LOST. -/
def State.ledReference (s : State) (ref member offset result code bitNo byte out : Nat) : State :=
  s.ledgerReq 0x0019 3 noUnit 0x13
    (leBytes 4 (s.handleOf 3 ref).toNat ++ leBytes 4 member ++ leBytes 8 offset ++ leBytes 1 result ++ leBytes 1 code ++
      leBytes 1 bitNo ++ leBytes 5 0 ++ leBytes 8 byte ++ leBytes 8 out)
/-- POD: event 0 fault, 1 removed, 2 added, 3 chain break. -/
def State.ledPod (s : State) (unit : Word) (event : Nat) (serial : BitVec 48) : State :=
  s.ledgerReq 0x001A 2 unit 0x13 (leBytes 8 event ++ leBytes 8 serial.toNat)
def State.ledLink (s : State) (action : Nat) : State :=
  s.ledgerReq 0x0007 2 noUnit 0x12 (leBytes 4 (s.reg PCI_LINK).toNat ++ leBytes 4 action)
def State.ledStateChange (s : State) (old new : Nat) : State :=
  s.ledgerReq 0x0006 0 noUnit 0x12 (leBytes 1 old ++ leBytes 1 new ++ leBytes 6 0)

def State.noticeMark (s : State) (stream seg time : Nat) : State :=
  s.notice 0x01 [.f4 (s.handleOf 1 stream).toNat, .f4 0, .semi, .f8 seg, .semi, .f8 time]
def State.noticeRingFault (s : State) (stream value cause : Nat) : State :=
  s.notice 0x02 [.f4 (s.handleOf 1 stream).toNat, .f4 value, .semi, .f4 cause]
def State.noticeReady (s : State) (hist seq : Nat) : State :=
  s.notice 0x03 [.f4 (s.handleOf 4 hist).toNat, .f4 seq]
def State.noticeRetired (s : State) (unit : Word) (cls : Nat) : State := s.notice 0x0C [.f4 unit.toNat, .f4 cls]
def State.noticeShed (s : State) (key : Nat) (restored : Bool) : State :=
  s.notice 0x0D [.f4 (s.handleOfKey key).toNat, .f4 restored.toNat]
def State.noticeMismatch (s : State) (unit : Word) (kind : Nat) (restored : Bool) : State :=
  s.notice 0x0E [.f4 unit.toNat, .f4 kind, .semi, .f4 restored.toNat]
def State.noticeSelftest (s : State) (id : Nat) (unit : Word) (result : Nat) : State :=
  s.notice 0x13 [.f4 id, .f4 unit.toNat, .semi, .f4 result]
def State.noticePower (s : State) (st : Nat) : State := s.notice 0x14 [.f4 st]
def State.noticeStreamFault (s : State) (stream status : Nat) : State :=
  s.notice 0x15 [.f4 (s.handleOf 1 stream).toNat, .f4 status]

/-- An event bit of STN_ALERT latches: SPARE_DAC or RETIRED (R408). A bit that was clear also wakes the host from D3hot with
PME_En set (R409). -/
def State.alertEvent (s : State) (spare : Bool) : State :=
  let new := if spare then !s.station.spareEvt else !s.station.retiredEvt
  let wake := new && s.pcie.d3hot && s.pcie.pmeEn
  let s := s.modStation fun st => { st with
    spareEvt := st.spareEvt || spare, retiredEvt := st.retiredEvt || !spare, wakeN := st.wakeN || wake }
  s.modPcie fun p => { p with pmeStatus := p.pmeStatus || wake }

/-- Change the staged intent. -/
def State.modStaged (s : State) (f : Intent → Intent) : State := s.modWeaver fun w => { w with staged := f w.staged }

/-- Stage the definition of an object, replacing the one it had (R331). -/
def State.stageDef (s : State) (kind idx : Nat) (p : List Byte) : State :=
  s.modStaged fun i => { i with defs := Tbl.put i.defs (objKey kind idx) p }

/-- Lanes and units of CD1 are absent on a ZS-096-C (R4). -/
def State.weaveAbsent (s : State) (w : Nat) : Bool := s.halfPart && decide (2 ≤ w)
def State.laneAbsent (s : State) (l : Nat) : Bool := s.halfPart && decide (96 ≤ l)
def State.portAbsent (s : State) (p : Nat) : Bool := s.halfPart && decide (8 ≤ p)
def State.stakeAbsent (s : State) (k : Nat) : Bool := s.halfPart && decide (6 ≤ k)

/-- Refuse unless every check passes; then the body runs. -/
def checked (s : State) (l : List (Option Response)) (body : State × Option Response) : State × Option Response :=
  match firstRefusal l with
  | some r => (s, some r)
  | none => body

def refusalIf (c : Bool) (status detail : Nat) : Option Response := if c then some (Response.fail status detail) else none

/-- A detected error of a class of Table 13.5 starts the targeted self-test of its unit, or joins the one that runs
(R305, R307). A retired unit's errors are ignored. -/
def State.raiseFault (s : State) (unit : Word) (cls : Nat) (detail : List Byte) : State :=
  if s.isRetired unit || s.isRetired (uaUnit unit) then s
  else
    let s := s.ledFault unit cls detail
    s.modWeaver fun w => { w with
      tests :=
        if w.tests.any (·.unit = unit) then
          w.tests.map fun t => if t.unit = unit then { t with classes := if t.classes.contains (BitVec.ofNat 8 cls)
            then t.classes else t.classes ++ [BitVec.ofNat 8 cls] } else t
        else w.tests ++ [{ unit := unit, classes := [BitVec.ofNat 8 cls], byError := true }] }

def State.underTest (s : State) (unit : Word) : Bool := s.weaver.tests.any (·.unit = unit)

end Sys2Proof.Machine
end

