-- ==== Sys2Proof/Machine/Compare.lean ====
section
/-!
DEFINITION. Reference compare and verdicts (chapter 6): the events of a compare unit, its steps, deviations and verdicts,
and the commands of the family.
-/
namespace Sys2Proof.Machine

/-! ### Compare input numbers (Table 6.1) -/

def cinPod (k pos ch : Nat) : Nat := 0x2000 + k * 0x800 + pos * 0x40 + ch
def cinIsPod (c : Nat) : Bool := decide (0x2000 ≤ c)
def cinLane (c : Nat) : Nat := c % 64
def cinPort (c : Nat) : Nat := c / 0x800 % 4
def cinPos (c : Nat) : Nat := c / 0x40 % 32
def cinValid (c : Nat) : Bool := if cinIsPod c then decide (c < 0x4000) else decide (c < 48)

/-! ### Words of a step member (Table 6.3) -/

def wType (w : DWord) : Nat := fld w 60 4
def wCin (w : DWord) : Nat := fld w 46 14
def wBit45 (w : DWord) : Bool := bit w 45
def wOffset (w : DWord) : Nat := fld w 0 44
def wBeginLen (w : DWord) : Nat := fld w 0 44
def wStepId (w : DWord) : Nat := fld w 44 16

/-- Tolerances in ft from a unit bit (Table 6.2). -/
def tolFt (slots : Bool) (v : Nat) : Nat := if slots then v * 256 else v

/-- τ(o) of R150: an exact half rounds to the later time. -/
def stretchTime (a o : Nat) (ppm : Int) : Nat :=
  a + (2 * o * (1000000 + ppm).toNat + 1000000) / 2000000

/-- What is in force while the words of a step are read (R142, R143). -/
structure StepScan where
  early : Nat
  late : Nat
  tols : Tbl (Nat × Nat)
  openAll : Option Time
  openCin : Tbl Time
  items : List CmpItem
  dcs : List CmpDc
  maxEarly : Nat
  maxLate : Nat
  deriving DecidableEq, Repr

def StepScan.word (a : Nat) (ppm : Int) (sc : StepScan) (w : DWord) : StepScan :=
  let c := wCin w
  let t := stretchTime a (wOffset w) ppm
  match wType w with
  | 0x2 =>
    let (e, l) := (Tbl.find? sc.tols c).getD (sc.early, sc.late)
    { sc with
      items := sc.items ++ [{ cin := c, level := wBit45 w, time := t, early := e, late := l, check := false }]
      maxEarly := max sc.maxEarly e, maxLate := max sc.maxLate l }
  | 0x3 =>
    { sc with items := sc.items ++ [{ cin := c, level := wBit45 w, time := t, early := 0, late := 0, check := true }] }
  | 0x4 =>
    let e := tolFt (bit w 44) (fld w 22 22)
    let l := tolFt (bit w 44) (fld w 0 22)
    if wBit45 w then { sc with early := e, late := l } else { sc with tols := Tbl.put sc.tols c (e, l) }
  | 0x5 => if wBit45 w then { sc with openAll := some t } else { sc with openCin := Tbl.put sc.openCin c t }
  | 0x6 =>
    if wBit45 w then
      { sc with
        dcs := match sc.openAll with | some f => sc.dcs ++ [{ cin := none, from_ := f, upTo := t }] | none => sc.dcs
        openAll := none }
    else
      { sc with
        dcs := match Tbl.find? sc.openCin c with
          | some f => sc.dcs ++ [{ cin := some c, from_ := f, upTo := t }]
          | none => sc.dcs
        openCin := Tbl.del sc.openCin c }
  | _ => sc

/-- The input is in a span of the list at an instant. The spec does not say whether the instant of DC_END lies in the span:
it does not (DESIGN CHOICE, log entry 114). -/
def inSpan (l : List CmpDc) (cin : Nat) (t : Time) : Bool :=
  l.any fun d => (match d.cin with | none => true | some c => c == cin) && decide (d.from_ ≤ t) && decide (t < d.upTo)

/-- Build a step from the header and its member, anchored at `a` (R142, R143, R150). Skipped items are left out. -/
def buildStep (hdr words : List DWord) (index : Nat) (a : Time) (ppm : Int) : StepDyn :=
  let w1 := hdr.getD 1 0
  let w2 := hdr.getD 2 0
  let m := tolFt (bit w2 22) (fld w2 0 22)
  let sc0 : StepScan :=
    { early := tolFt (bit w1 44) (fld w1 0 22), late := tolFt (bit w1 44) (fld w1 22 22), tols := [], openAll := none
      openCin := [], items := [], dcs := [], maxEarly := 0, maxLate := 0 }
  let sc := words.foldl (StepScan.word a ppm) sc0
  let e := stretchTime a (wBeginLen (words.getD 0 0)) ppm
  { index := index, stepId := BitVec.ofNat 16 (wStepId (words.getD 0 0)), anchor := a, endT := e
    settle := m + sc.maxLate, decision := e + m + sc.maxLate, margin := m, maxEarly := sc.maxEarly
    items := sc.items.filter fun i => !inSpan sc.dcs i.cin i.time
    dcs := sc.dcs, devCount := 0, recorded := 0, first := none, unjudged := 0, truncated := false, devCut := false
    blind := [], byStation := false }

/-! ### The job of a compare unit -/

def State.cuDef (s : State) (cu : Nat) : Option (List Byte) :=
  match s.weaver.place.cuCmp cu with
  | some j => s.def? 6 j
  | none => none

def State.cuJob (s : State) (cu : Nat) : Nat := (s.weaver.place.cuCmp cu).getD 0
def State.cuStreams (s : State) (cu : Nat) : List Nat :=
  match s.cuDef cu with | some p => (cStreams p).map hStream | none => []
def State.cuRef (s : State) (cu : Nat) : Nat := match s.cuDef cu with | some p => hIdx (cRef p) | none => 0
def State.cuEnabled (s : State) (cu : Nat) : Bool := s.regBit (CU cu 0x00) 0
/-- The compare units of a weave that serve a job. -/
def State.weaveCus (s : State) (w : Nat) : List Nat := [2 * w, 2 * w + 1].filter s.cuEnabled

def State.modStep (s : State) (cu : Nat) (f : StepDyn → StepDyn) : State :=
  s.modCmp cu fun c => { c with step := c.step.map f }

/-- CU_STATUS.STATE: 0 idle, 1 awaiting anchor, 2 in step, 3 settling. -/
def State.cuState (s : State) (cu v : Nat) : State := s.setRegF (CU cu 0x0C) 0 2 v

/-! ### Deviations (R154, R158, R159) -/

/-- DEV_LIMIT in effect (R147). -/
def devLimit (p : List Byte) : Nat :=
  match cDevLimit p with
  | 0 => 1024
  | 0xFFFF => 0
  | n => n

/-- Report a deviation: count it, record it within the limits of R158, and hand it to the deviation inputs. The queue of 64
holds the record that is being written too, four slots each: a record is admitted while its own write slot lies less than 256
slots ahead (DESIGN CHOICE, log entry 114). -/
def State.deviate (s : State) (cu : Nat) (d : Deviation) : State :=
  match (s.cmp cu).step with
  | none => s
  | some st =>
    let limit := match s.cuDef cu with | some p => devLimit p | none => 0
    let free := match (s.cmp cu).lastRecordSlot with | some n => max s.slot (n + 4) | none => s.slot
    let rec_ := decide (st.recorded < limit) && decide (free - s.slot < 4 * 64)
    let s := s.modStep cu fun x => { x with
      devCount := x.devCount + 1
      recorded := if rec_ then x.recorded + 1 else x.recorded
      devCut := x.devCut || !rec_
      first := match x.first with | some f => some f | none => some d }
    let s := s.setReg (CU cu 0x18) (BitVec.ofNat 32 (sat 0xFFFF (st.devCount + 1)))
    let s := if rec_ then
        (s.modCmp cu fun c => { c with lastRecordSlot := some free }).writeAll (s.cuStreams cu)
          (deviationRec cu st.stepId.toNat (sat 0xFFFF st.devCount)
            { d with error := max (-(2 ^ 23 - 1)) (min (2 ^ 23 - 1) d.error) })
      else s
    s.modTrig fun t => { t with
      inputs := t.inputs ++ [{ at_ := d.time, flags := d.flags, ev := .deviation cu d.kind d.cin }] }

/-- The span of an item: [t - e - M, t + l + M] of an edge, the instant of a check (R156). -/
def CmpItem.blind (m : Nat) (i : CmpItem) : CmpDc :=
  if i.check then { cin := some i.cin, from_ := i.time, upTo := i.time + 1 }
  else { cin := some i.cin, from_ := i.time - i.early - m, upTo := i.time + i.late + m + 1 }

/-- An item becomes unjudged (R156): counted, and its span excuses actual edges. -/
def State.unjudge (s : State) (cu : Nat) (i : CmpItem) : State :=
  let s := s.modStep cu fun x => { x with unjudged := x.unjudged + 1, blind := x.blind ++ [i.blind x.margin] }
  s.incReg (CU cu 0x24)

def CmpItem.start (m : Nat) (i : CmpItem) : Time := if i.check then i.time else i.time - i.early - m
/-- The instant at which an item is decided when nothing matches it (R153). -/
def CmpItem.due (m : Nat) (i : CmpItem) : Time := if i.check then i.time else i.time + i.late + m

/-- The pod position behind a CIN is enumerated (R156). -/
def State.cinEnumerated (s : State) (cu cin : Nat) : Bool :=
  !cinIsPod cin || bit (s.reg (PP_PRESENT (4 * (cu / 2) + cinPort cin))) (cinPos cin)

/-- A loss span touches [`a`, `b`]. -/
def lossTouches (l : Nat × Time × Option Time) (cin : Nat) (a b : Time) : Bool :=
  l.1 == cin && decide (l.2.1 ≤ b) && (match l.2.2 with | some e => decide (a ≤ e) | none => true)

/-- The item rests on history that the unit does not have (R156). -/
def State.itemUnjudged (s : State) (cu : Nat) (m : Nat) (i : CmpItem) : Bool :=
  let c := s.cmp cu
  c.losses.any (lossTouches · i.cin (i.start m) (i.due m)) ||
    c.dropped.any (fun d => d.1 == i.cin && decide (i.start m ≤ d.2) && decide (d.2 ≤ i.due m)) ||
    !s.cinEnumerated cu i.cin

/-- The level of an input at an instant: after its last edge at or before it (R138). A pod channel of which no word has
come has no level in the spec: a free value. -/
def State.cmpLevel (s : State) (cu cin : Nat) (t : Time) : Bool × State :=
  let c := s.cmp cu
  match (c.events.filter fun e => e.cin == cin && decide (e.at_ ≤ t)).getLast? with
  | some e => (e.level, s)
  | none =>
    match Tbl.find? c.base cin with
    | some b => (b, s)
    | none => if cinIsPod cin then let d := s.draw 1; (d.1 == 1, d.2) else (false, s)

/-- Remove one item of the running step. -/
def State.dropItem (s : State) (cu : Nat) (i : CmpItem) : State :=
  s.modStep cu fun x => { x with items := x.items.erase i }

/-- An edge meets an item, which takes no further part; the span of an item that an anchor has cut excuses edges no more. -/
def State.matchItem (s : State) (cu : Nat) (i : CmpItem) : State :=
  s.modStep cu fun x => { x with
    items := x.items.erase i, blind := if x.decision < i.due x.margin then x.blind.erase (i.blind x.margin) else x.blind }

/-- Decide one due item: MISSING, WRONG_LEVEL, nothing, or unjudged. -/
def State.decideItem (s : State) (cu : Nat) (i : CmpItem) : State :=
  let m := match (s.cmp cu).step with | some st => st.margin | none => 0
  let s1 := s.dropItem cu i
  if s.itemUnjudged cu m i then s1.unjudge cu i
  else if i.check then
    let l := s1.cmpLevel cu i.cin i.time
    if l.1 = i.level then l.2
    else l.2.deviate cu { kind := 5, cin := i.cin, time := i.time, error := 0, flags := EvFlags.none }
  else s1.deviate cu { kind := 1, cin := i.cin, time := i.time, error := 0, flags := EvFlags.none }

/-- Items of an input that [`a`, `b`] touches become unjudged at once (R156). -/
def State.unjudgeSpan (s : State) (cu cin : Nat) (a b : Time) : State :=
  match (s.cmp cu).step with
  | none => s
  | some (st : StepDyn) =>
    s.each (st.items.filter fun (i : CmpItem) => i.cin == cin && decide (i.start st.margin ≤ b) && decide (a ≤ i.due st.margin))
      fun s i => (s.dropItem cu i).unjudge cu i

/-! ### Classifying an edge (R152) -/

def earliest (l : List CmpItem) : Option CmpItem :=
  l.foldl (fun a i => match a with
    | some b => if i.time < b.time then some i else some b
    | none => some i) none

def State.classify (s : State) (cu cin : Nat) (a : Time) (v : Bool) (f : EvFlags) : State :=
  match (s.cmp cu).step with
  | none => s
  | some st =>
    if !(decide (st.anchor ≤ a + st.maxEarly + st.margin) && decide (a ≤ st.decision)) || inSpan st.dcs cin a then s
    else
      let mine := st.items.filter fun i => !i.check && i.cin == cin && i.level == v
      match earliest (mine.filter fun i => decide (i.time ≤ a + i.early) && decide (a ≤ i.time + i.late)) with
      | some i => s.matchItem cu i
      | none =>
        match earliest (mine.filter fun i => decide (i.time + i.late < a) && decide (a ≤ i.time + i.late + st.margin)) with
        | some i => (s.matchItem cu i).deviate cu
            { kind := 4, cin := cin, time := a, error := (a : Int) - i.time, flags := f }
        | none =>
          match earliest (mine.filter fun i =>
              decide (i.time ≤ a + i.early + st.margin) && decide (a + i.early < i.time)) with
          | some i => (s.matchItem cu i).deviate cu
              { kind := 3, cin := cin, time := a, error := (a : Int) - i.time, flags := f }
          | none =>
            if st.anchor ≤ a && a < st.endT && !inSpan st.blind cin a then
              s.deviate cu { kind := 2, cin := cin, time := a, error := 0, flags := f }
            else s

/-! ### Order of time (R152, R153, R155) -/

/-- The item that is decided first: by its instant, then its CIN. -/
def firstDue (m : Nat) (l : List CmpItem) : Option CmpItem :=
  l.foldl (fun a i => match a with
    | some b => if i.due m < b.due m || (i.due m == b.due m && decide (i.cin < b.cin)) then some i else some b
    | none => some i) none

/-- Every input of the unit is complete up to an instant: the lanes of its weave, and the pods that have frame slots (R155). -/
def State.cmpDone (s : State) (cu : Nat) (t : Time) : Bool :=
  let w := cu / 2
  s.laneDone ((List.range 48).map (48 * w + ·)) t &&
    ((List.range 4).map (4 * w + ·)).all fun p =>
      (filterRange 32 fun pos => bit (s.reg (PP_PRESENT p)) pos &&
        (List.range 62).any fun f => s.regBit (PP_SLOT p f) 5 && s.regF (PP_SLOT p f) 0 5 == pos).all fun pos => s.podDone p pos t

/-- The first edge that the running step has not classified, up to an instant and within the step. -/
def State.nextEdge (s : State) (cu : Nat) (upTo : Time) : Option CmpEv :=
  match (s.cmp cu).step with
  | none => none
  | some (st : StepDyn) => (s.cmp cu).events.find? fun e => e.edge && !e.seen && decide (e.at_ ≤ upTo) && decide (e.at_ ≤ st.decision)

/-- The first item whose instant lies up to an instant and within the step. -/
def State.nextItem (s : State) (cu : Nat) (upTo : Time) : Option CmpItem :=
  match (s.cmp cu).step with
  | none => none
  | some (st : StepDyn) => firstDue st.margin (st.items.filter fun i => decide (i.due st.margin ≤ min upTo st.decision))

def State.stepMargin (s : State) (cu : Nat) : Nat := match (s.cmp cu).step with | some (st : StepDyn) => st.margin | none => 0

/-- The step classifies one edge. -/
def State.takeEdge (s : State) (cu : Nat) (e : CmpEv) : State :=
  (s.modCmp cu fun c => { c with events := c.events.map fun x => if x = e then { x with seen := true } else x }).classify
    cu e.cin e.at_ e.level e.flags

/-- Edges and items up to an instant, in order of time; edges at an item's instant come before it (R153). -/
def State.advanceAll (cu : Nat) (upTo : Time) : Nat → State → State
  | 0, s => s
  | fuel + 1, s =>
    match s.nextEdge cu upTo, s.nextItem cu upTo with
    | none, none => s
    | some e, none => State.advanceAll cu upTo fuel (s.takeEdge cu e)
    | none, some i => State.advanceAll cu upTo fuel (s.decideItem cu i)
    | some e, some i =>
      if e.at_ ≤ i.due (s.stepMargin cu) then State.advanceAll cu upTo fuel (s.takeEdge cu e)
      else State.advanceAll cu upTo fuel (s.decideItem cu i)

def State.advanceTo (s : State) (cu : Nat) (upTo : Time) : State :=
  State.advanceAll cu upTo ((s.cmp cu).events.length + (match (s.cmp cu).step with | some st => st.items.length | none => 0)) s

/-- The edges that the unit's complete history holds are classified, with the items that lie before them (R152, R155). -/
def State.cmpSlot (s : State) (cu : Nat) : State :=
  match ((s.cmp cu).events.filter fun e => e.edge && !e.seen && s.cmpDone cu e.at_).getLast? with
  | none => s
  | some e => s.advanceTo cu e.at_

/-- Microseconds in ft: 204,800 ft each. -/
def ftPerUs : Nat := 204800

/-- An expected edge of the running step can still claim the event, or a check waits for the level before it. -/
def StepDyn.claims (st : StepDyn) (e : CmpEv) : Bool :=
  st.items.any fun i => i.cin == e.cin && decide (i.start st.margin ≤ e.at_) && (i.check || decide (e.at_ ≤ i.due st.margin))

/-- Split a buffer into the events that stay and those that go: of each input the oldest ones that nothing keeps. -/
def splitEvents (keep : CmpEv → Bool) : List CmpEv → List Nat → List CmpEv × List CmpEv
  | [], _ => ([], [])
  | e :: l, held =>
    if keep e || held.contains e.cin then
      let r := splitEvents keep l (e.cin :: held)
      (e :: r.1, r.2)
    else
      let r := splitEvents keep l held
      (r.1, e :: r.2)

/-- The longest span before an anchor that a step can look at: an early tolerance and a margin of 2^22 − 1 slots each. -/
def longestLook : Nat := 2 ^ 31

/-- Events older than 20 µs that no expected edge can claim leave the buffer (R157). -/
def State.pruneEvents (s : State) (cu : Nat) : State :=
  let c := s.cmp cu
  let keepFrom := s.now - 20 * ftPerUs
  let r := splitEvents (fun e => decide (keepFrom ≤ e.at_) ||
    (match c.step with | some st => st.claims e || (e.edge && !e.seen && decide (e.at_ ≤ st.decision)) | none => false) ||
    c.queue.any fun q => decide (q.anchor ≤ e.at_ + longestLook)) c.events []
  if r.2.isEmpty then s
  else s.setCmp cu { c with
    events := r.1
    base := r.2.foldl (fun b e => Tbl.put b e.cin e.level) c.base
    horizon := r.2.foldl (fun h e => max h (e.at_ + 1)) c.horizon
    losses := c.losses.filter fun l => match l.2.2 with | some e => decide (s.now ≤ e + longestLook) | none => true
    dropped := c.dropped.filter fun d => decide (s.now ≤ d.2 + longestLook) }

/-- Insert an event in order of time and CIN; a level taken at an instant stands before the edges at it. -/
def insertEv (e : CmpEv) : List CmpEv → List CmpEv
  | [] => [e]
  | x :: l =>
    if e.at_ < x.at_ || (e.at_ == x.at_ && (if e.edge then x.edge && decide (e.cin < x.cin) else x.edge)) then e :: x :: l
    else x :: insertEv e l

/-- An event reaches a compare unit (R138, R152, R157): at most 4 in a slot and 32,768 in the buffer; the excess is
discarded and counted, and the items that it could have met are unjudged. An event whose stamp lies in a later slot enters then
(R462). -/
def State.cmpEvent (s : State) (cu cin : Nat) (t : Time) (v : Bool) (f : EvFlags) : State :=
  let s := s.pruneEvents cu
  let c := s.cmp cu
  let slot := max s.slot (t / slotFt)
  if 4 ≤ c.events.countP (fun e => e.edge && e.entry == slot) || 32768 ≤ c.events.length then
    ((s.setCmp cu { c with dropped := c.dropped ++ [(cin, t)] }).incReg (CU cu 0x28)).unjudgeSpan cu cin t t
  else
    s.setCmp cu { c with
      events := insertEv { at_ := t, cin := cin, level := v, flags := f, edge := true, entry := slot, seen := false } c.events }

/-- An input has a level from an instant on without an edge (R62, R138). -/
def State.setLevel (s : State) (cu cin : Nat) (t : Time) (v : Bool) : State :=
  s.modCmp cu fun c => { c with
    events := insertEv { at_ := t, cin := cin, level := v, flags := EvFlags.none, edge := false, entry := 0, seen := true }
      (c.events.filter fun e => !(!e.edge && e.cin == cin && e.at_ == t)) }

/-! ### Verdicts (R160 to R162) -/

/-- Word 0 of the verdict packet and the fields that the stream copy shares with it. -/
structure Verdict where
  result : Nat
  firstKind : Nat
  truncated : Bool
  unjudged : Bool
  devCut : Bool
  flagged : Bool
  stepId : Nat
  devCount : Nat
  firstCin : Nat
  firstTime : Int
  deriving DecidableEq, Repr

def verdictWords (v : Verdict) (cu vseq job : Nat) : List DWord :=
  let ft := unint 48 v.firstTime
  [ pack64 [(0, 2, v.result), (2, 3, v.firstKind), (5, 3, cu), (8, 1, v.truncated.toNat), (9, 1, v.unjudged.toNat),
      (10, 1, v.devCut.toNat), (11, 1, v.flagged.toNat), (12, 4, vseq)],
    BitVec.ofNat 64 v.stepId, BitVec.ofNat 64 job, BitVec.ofNat 64 (sat 0xFFFF v.devCount),
    pack64 [(0, 14, v.firstCin)], pack64 [(0, 16, ft)], pack64 [(0, 16, ft / 2 ^ 16)], pack64 [(0, 16, ft / 2 ^ 32)] ]

def verdictCopy (v : Verdict) (cu vseq : Nat) (at_ : Time) : Rec :=
  { width := 37, time := at_
    words :=
      [ pack64 [(60, 4, 0xB), (57, 3, 7), (54, 3, cu), (37, 14, v.firstCin)],
        pack64 [(48, 16, v.stepId), (32, 16, sat 0xFFFF v.devCount), (30, 2, v.result), (29, 1, v.truncated.toNat),
          (28, 1, v.unjudged.toNat), (27, 1, v.devCut.toNat), (23, 4, vseq), (20, 3, v.firstKind),
          (19, 1, v.flagged.toNat)] ] }

/-- Issue a verdict of a job under the number of a compare unit: the packet in the station verdict queue, the copies, VSEQ
and the counters. A verdict packet that the queue overwrites is one lost to the station (R402). -/
def State.issueVerdictOf (s : State) (cu job : Nat) (streams : List Nat) (v : Verdict) (at_ : Time) : State :=
  let vseq := s.regF (CU cu 0x0C) 2 4
  let r := s.pushPacket 1 (verdictWords v cu vseq job) at_
  let s := r.1.modStation fun st => { st with
    lostVerdicts := st.lostVerdicts + r.2, partRead := if r.2 = 0 then st.partRead else 0 }
  let s := s.writeAll streams (verdictCopy v cu vseq at_)
  let s := (s.setRegF (CU cu 0x0C) 2 4 (vseq + 1)).incReg (CU cu 0x1C)
  if v.result = 1 then s.incReg (CU cu 0x20) else s

/-- The verdict of the job that a compare unit serves. -/
def State.issueVerdict (s : State) (cu : Nat) (v : Verdict) (at_ : Time) : State :=
  s.issueVerdictOf cu (s.cuJob cu) (s.cuStreams cu) v at_

def evFlagged (f : EvFlags) : Bool := f.coarse || f.unstamped || f.pod

/-- The verdict of a finished step. -/
def StepDyn.verdict (st : StepDyn) : Verdict :=
  let result := if 0 < st.devCount then 1 else if 0 < st.unjudged then 2 else 0
  let d := if result = 1 then st.first else none
  { result := result, firstKind := match d with | some d => d.kind | none => 0
    truncated := st.truncated, unjudged := decide (0 < st.unjudged), devCut := st.devCut
    flagged := match d with | some d => evFlagged d.flags | none => false
    stepId := st.stepId.toNat, devCount := st.devCount, firstCin := match d with | some d => d.cin | none => 0
    firstTime := match d with | some d => (d.time : Int) - st.anchor | none => 0 }

/-- The verdict of an aborted step: words 4 to 7 are zero (R161). -/
def StepDyn.aborted (st : StepDyn) (cause : Nat) : Verdict :=
  { result := 3, firstKind := cause, truncated := st.truncated, unjudged := decide (0 < st.unjudged)
    devCut := st.devCut, flagged := match st.first with | some d => evFlagged d.flags | none => false
    stepId := st.stepId.toNat, devCount := st.devCount, firstCin := 0, firstTime := 0 }

def refSteps (r : RefDyn) : Nat := fld ((r.members.getD 0 []).getD 0 0) 48 16
def refStepId (r : RefDyn) (i : Nat) : Nat := fld ((r.members.getD 0 []).getD (4 + i) 0) 0 16
def refStepOf (r : RefDyn) (id : Nat) : Option Nat := (List.range (refSteps r)).find? fun i => refStepId r i == id

/-- An ABORTED verdict that no step stands behind: NO_STEP, a LOST reference, or a shed job (R149, R313). -/
def Verdict.lone (stepId cause : Nat) : Verdict :=
  { result := 3, firstKind := cause, truncated := false, unjudged := false, devCut := false, flagged := false
    stepId := stepId, devCount := 0, firstCin := 0, firstTime := 0 }

def State.loneVerdict (s : State) (cu stepId cause : Nat) (at_ : Time) : State := s.issueVerdict cu (.lone stepId cause) at_

/-- End the running step, and the steps anchored after it, with ABORTED verdicts (Tables 6.7 and 6.8). -/
def State.abortStep (s : State) (cu cause : Nat) (at_ : Time) : State :=
  match (s.cmp cu).step with
  | none => s
  | some st =>
    let s := s.issueVerdict cu (st.aborted cause) at_
    let q := (s.cmp cu).queue
    let s := s.each q fun s n => s.loneVerdict cu (refStepId (s.ref (s.cuRef cu)) n.index) cause at_
    (s.modCmp cu fun c => { c with step := none, queue := [] }).cuState cu (if s.cuEnabled cu then 1 else 0)

/-- COMPARE_END at T (R151). -/
def StepDyn.endAt (st : StepDyn) (t : Time) : StepDyn :=
  if t < st.endT then
    { st with
      endT := t, decision := min st.decision (t + st.settle), truncated := true
      items := st.items.filter fun i => decide (i.time < t) }
  else st

/-- A new anchor at `a` ends a step that awaits its decision instant (R151). Items that need time after `a` can still be met
up to `a`; unmet they are unjudged, and their spans excuse actual edges from now on (R156). -/
def StepDyn.cutAt (st : StepDyn) (a : Time) : StepDyn :=
  if st.decision ≤ a then st
  else { st with
    endT := min st.endT a, truncated := st.truncated || decide (a < st.endT), decision := a
    blind := st.blind ++ (st.items.filter fun i => decide (a < i.due st.margin)).map (·.blind st.margin) }

/-- A member of a reference is read from the library through port B (R276). -/
def State.askMember (s : State) (r m : Nat) : State :=
  let d := s.ref r
  let from_ := if m = 0 then 0 else d.ends.getD (m - 1) 0
  s.askPages (fun s a n => s.askReadAt 1 a n) d.pages from_ (d.ends.getD m from_ - from_)

/-- A step begins (R149, R150): its items that rest on history the unit lacks are unjudged (R156), and the events in its span
are for it to classify. -/
def State.beginStep (s : State) (cu : Nat) (n : NextStep) : State :=
  let s := s.askMember (s.cuRef cu) (n.index + 1)
  let r := s.ref (s.cuRef cu)
  let ppm := match s.cuDef cu with | some p => cStretch p | none => 0
  let st := { buildStep (r.members.getD 0 []) (r.members.getD (n.index + 1) []) n.index n.anchor ppm with byStation := n.byStation }
  let st := match n.endAt with | some t => st.endAt t | none => st
  let st := match (s.cmp cu).queue.head? with | some x => st.cutAt x.anchor | none => st
  let s := s.modCmp cu fun c => { c with
    step := some st
    events := c.events.map fun e => { e with seen := decide (e.at_ + st.maxEarly + st.margin < st.anchor) } }
  let s := s.setReg64 (CU cu 0x10) (n.anchor % 2 ^ 64)
  let s := s.setReg (CU cu 0x18) 0
  let s := (s.setRegF (CU cu 0x0C) 16 16 st.stepId.toNat).cuState cu 2
  s.each (st.items.filter fun x => decide (x.start st.margin < n.horizon) || s.itemUnjudged cu st.margin x) fun s x =>
    (s.dropItem cu x).unjudge cu x

/-- The next anchored step begins, if no step runs. -/
def State.nextBegin (s : State) (cu : Nat) : State :=
  let c := s.cmp cu
  match c.step, c.queue with
  | none, n :: rest => (s.setCmp cu { c with queue := rest }).beginStep cu n
  | _, _ => s

/-- The step is over at `at_`: items left are decided or unjudged, and the verdict is issued. -/
def State.finishStep (s : State) (cu : Nat) (at_ : Time) : State :=
  let s := s.advanceTo cu at_
  match (s.cmp cu).step with
  | none => s
  | some st =>
    let s := s.each st.items fun s i => (s.dropItem cu i).unjudge cu i
    match (s.cmp cu).step with
    | none => s
    | some st =>
      let s := s.issueVerdict cu st.verdict at_
      ((s.modCmp cu fun c => { c with step := none }).cuState cu (if s.cuEnabled cu then 1 else 0)).nextBegin cu

/-! ### References (R145) -/

/-- Jobs placed on compare units that use a reference. -/
def State.refCus (s : State) (r : Nat) : List Nat :=
  (s.weaver.place.cmps.filter fun c => match s.def? 6 c.obj with | some p => hIdx (cRef p) == r | none => false).map (·.cu)

/-- A reference enters LOST (R145): notice, ledger record, and the running steps of its jobs end with cause 5; those whose own
member failed, `failed`, end with cause 4 (Tables 6.7 and 6.8). -/
def State.loseReference (s : State) (r : Nat) (cause : RefLossCause) (failed : List Nat) : State :=
  if (s.ref r).phase ≠ .ready then s
  else
    let s := s.modRef r fun d => { d with phase := .lost }
    let code := match cause with | .memberCheck _ _ => 4 | .channel _ => 5
    let s := s.notice 0x08 [.f4 (s.handleOf 3 r).toNat, .f4 code]
    let s := match cause with
      | .memberCheck m off => s.ledReference r m off 4 4 0 0 0
      | .channel ma => s.ledReference r 0xFFFFFFFF ma.toNat 4 5 0 0 0
    s.each (s.refCus r) fun s cu => s.abortStep cu (if failed.contains cu then 4 else 5) s.now

/-- Compare units whose running step plays a member of a reference. -/
def State.playing (s : State) (r member : Nat) : List Nat :=
  (s.refCus r).filter fun cu => match (s.cmp cu).step with | some (st : StepDyn) => st.index + 1 == member | none => false

/-! ### Anchors (R149) -/

/-- The step that a sequencer anchor at `a` has anchored last, running or waiting, gives way to a station anchor at the same
time: answers its index. -/
def State.sameTime (s : State) (cu : Nat) (a : Time) : Option Nat :=
  match (s.cmp cu).queue.getLast?, (s.cmp cu).step with
  | some (n : NextStep), _ => if n.anchor = a && !n.byStation then some n.index else none
  | none, some (st : StepDyn) => if st.anchor = a && !st.byStation then some st.index else none
  | none, none => none

/-- Take back the step anchored last, of index `i`: the next sequencer anchor starts it. -/
def State.takeBack (s : State) (cu i : Nat) : State :=
  let s := (s.incReg (CU cu 0x2C)).modCmp cu fun c =>
    if c.queue.isEmpty then { c with step := none, nextStep := i } else { c with queue := c.queue.dropLast, nextStep := i }
  if (s.cmp cu).step.isNone then s.cuState cu 1 else s

/-- The time of the oldest event that the buffer holds (R156); of an empty buffer, the instant from which it holds every event. -/
def CmpDyn.oldest (c : CmpDyn) : Time :=
  match c.events.find? (·.edge) with
  | some e => max c.horizon e.at_
  | none => c.horizon

/-- Anchor step `i` at `a`: the running step is cut there if it awaits its decision instant, and the new step begins once that
one has its verdict. -/
def State.anchorStep (s : State) (cu i : Nat) (a : Time) (byStation : Bool) : State :=
  let s := s.pruneEvents cu
  let c := s.cmp cu
  let n : NextStep := { index := i, anchor := a, byStation := byStation, horizon := c.oldest, endAt := none }
  let s := s.setCmp cu { c with
    nextStep := (i + 1) % max 1 (refSteps (s.ref (s.cuRef cu))), queue := c.queue ++ [n]
    step := if c.queue.isEmpty then c.step.map fun (st : StepDyn) => st.cutAt a else c.step }
  s.nextBegin cu

/-- An anchor at `a`, of a station if `id?` gives the step it names, starts its step: the job's next one, or the one it names. -/
def State.anchorOf (s : State) (cu : Nat) (a : Time) (id? : Option Nat) : State :=
  let r := s.ref (s.cuRef cu)
  let idx? := match id? with
    | none => some ((s.cmp cu).nextStep % max 1 (refSteps r))
    | some i => refStepOf r i
  let id := match id? with | some i => i | none => refStepId r (idx?.getD 0)
  if r.phase ≠ .ready then s.loneVerdict cu id 5 a
  else match idx? with
    | none => s.loneVerdict cu id 6 a
    | some i => s.anchorStep cu i a id?.isSome

/-- An anchor reaches a compare unit. -/
def State.anchor (s : State) (cu : Nat) (src : AnchorSrc) : State :=
  if !s.time.armed || !s.cuEnabled cu then s
  else
    let (a, id?) := match src with | .sequencer t => (t, none) | .station t i => (t, some i.toNat)
    if id?.isNone && (s.cmp cu).stationAt == some a then s.incReg (CU cu 0x2C)
    else
      let s := match id?, s.sameTime cu a with
        | some _, some i => s.takeBack cu i
        | _, _ => s
      (if id?.isSome then s.modCmp cu fun c => { c with stationAt := some a } else s).anchorOf cu a id?

/-- An anchor reaches a job that is shed (R313): the verdict ABORTED with cause 3 under the unit it last held, and its step
position advances as R149 says. -/
def State.shedAnchor (s : State) (j : Nat) (h : HeldJob) (src : AnchorSrc) : State :=
  let p := (s.def? 6 j).getD []
  let r := s.ref (hIdx (cRef p))
  let n := max 1 (refSteps r)
  let (a, id?) := match src with | .sequencer t => (t, none) | .station t i => (t, some i.toNat)
  let station := h.stationAt == some a || h.anchors.any fun x => match x with | .station t _ => t == a | .sequencer _ => false
  if !s.time.armed then s
  else if id?.isNone && station then s.incReg (CU h.cu 0x2C)
  else
    let idx? := match id? with | none => some (h.nextStep % n) | some i => refStepOf r i
    let id := match id? with | some i => i | none => refStepId r (idx?.getD 0)
    let s := s.issueVerdictOf h.cu j ((cStreams p).map hStream) (.lone id 3) a
    s.modWeaver fun w => { w with heldCmps := Tbl.put w.heldCmps j { h with
      nextStep := match idx? with | some i => (i + 1) % n | none => h.nextStep
      stationAt := if id?.isSome then some a else h.stationAt } }

/-- The shed job that last held a unit and has an anchor waiting takes it. -/
def State.takeShed (s : State) (cu : Nat) (src : AnchorSrc) : State :=
  match List.find? (fun e : Nat × HeldJob => e.2.cu == cu && e.2.anchors.contains src) s.weaver.heldCmps with
  | some e =>
    let h := { e.2 with anchors := e.2.anchors.erase src }
    (s.modWeaver fun w => { w with heldCmps := Tbl.put w.heldCmps e.1 h }).shedAnchor e.1 h src
  | none => s

/-- Every anchor of a shed job that waits has its verdict. -/
def State.takeAllShed (s : State) : State :=
  s.each s.weaver.heldCmps fun s e => s.each e.2.anchors fun s a => s.takeShed e.2.cu a

/-- An anchor of a job waits for its step to start: at its unit, or with the job while it is shed. -/
def State.queueAnchor (s : State) (j : Nat) (src : AnchorSrc) : State :=
  match s.weaver.place.cmpCu j, Tbl.find? s.weaver.heldCmps j with
  | some cu, _ => s.modCmp cu fun d => { d with anchors := d.anchors ++ [src] }
  | none, some h => s.modWeaver fun w => { w with heldCmps := Tbl.put w.heldCmps j { h with anchors := h.anchors ++ [src] } }
  | none, none => s

/-- Anchors that wait take effect. -/
def State.takeAnchors (s : State) (cu : Nat) : State :=
  (s.each (s.cmp cu).anchors fun s a => s.anchor cu a).modCmp cu fun c => { c with anchors := [] }

/-- COMPARE_END reaches the step anchored last. -/
def State.compareEnd (s : State) (cu : Nat) (t : Time) : State :=
  let s := s.takeAnchors cu
  match (s.cmp cu).queue.getLast? with
  | none => s.modStep cu fun st => st.endAt t
  | some n => s.modCmp cu fun c => { c with
      queue := c.queue.dropLast ++ [{ n with endAt := match n.endAt with | some e => some (min e t) | none => some t }] }

/-! ### Commands -/

/-- An anchor with its time in the session's time. -/
def State.anchorAt (s : State) : AnchorSrc → AnchorSrc
  | .sequencer t => .sequencer (s.sessionTime t)
  | .station t k => .station (s.sessionTime t) k

/-- The anchor that the operand names, once a sequence's action or the annotation router has queued it. -/
def execStepAnchor (cu : Fin 8) (src : AnchorSrc) (s : State) : Host.Outcome State Fault Refusal :=
  .next (
    let src := s.anchorAt src
    if (s.cmp cu).anchors.contains src then
      (s.modCmp cu fun c => { c with anchors := c.anchors.erase src }).anchor cu src
    else s.takeShed cu src)

/-- The first item of a kind whose instant has passed in the unit's complete history is decided, after what lies before it. -/
def State.decideFirst (s : State) (cu : Nat) (check : Bool) : State :=
  match (s.cmp cu).step with
  | none => s
  | some (st : StepDyn) =>
    match firstDue st.margin (st.items.filter fun i =>
        i.check == check && decide (i.due st.margin ≤ st.decision) && s.cmpDone cu (i.due st.margin)) with
    | some i => s.advanceTo cu (i.due st.margin)
    | none => s

/-- The first expected edge whose t + l + M has passed is decided (R153, R155). -/
def execExpectedEdgeTimeout (cu : Fin 8) (s : State) : Host.Outcome State Fault Refusal := .next (s.decideFirst cu false)

/-- The first CHECK_LEVEL whose instant has come is decided (R153, R155). -/
def execCheckLevel (cu : Fin 8) (s : State) : Host.Outcome State Fault Refusal := .next (s.decideFirst cu true)

/-- The step's member has been played to its end: its decompressor engine counts it (Table 11.9). -/
def State.playedMember (s : State) (cu : Nat) (st : StepDyn) : State :=
  match s.weaver.place.cmps.find? (·.cu == cu) with
  | some c =>
    let n := 8 * ((s.ref (s.cuRef cu)).members.getD (st.index + 1) []).length
    let a := DE c.de 0x04
    (s.setReg64 a ((s.reg64 a + n) % 2 ^ 64)).incReg (DE c.de 0x0C)
  | none => s

def execReferenceLost (ref : Fin 1024) (cause : RefLossCause) (s : State) : Host.Outcome State Fault Refusal :=
  .next (s.loseReference ref cause (match cause with | .memberCheck m _ => s.playing ref m | .channel _ => []))

/-! ### START_COMPARE (R147) -/

def checkStartCompare (p : List Byte) : List (Option Nat) :=
  [ ckFld p 0x04 0 8 (· < 4), ckRsv p 0x05 1 0xFE,
    (let v := cStretch p; if -2000 ≤ v ∧ v ≤ 2000 then none else some (8 * 8)),
    ckFld p 0x0C 0 8 (· ≤ 8), ckZero p 0x0D 3,
    ckZero p (0x10 + 4 * min 8 (cStreamN p)) (4 * (8 - min 8 (cStreamN p))) ]

/-- The handles that START_COMPARE names in its payload. -/
def handlesStartCompare (p : List Byte) : List HandleUse :=
  { handle := cRef p, at_ := some 0, types := [3], optional := false } ::
    (cStreams p).zipIdx.map fun x => { handle := x.1, at_ := some (0x10 + 4 * x.2), types := [1], optional := false }

def startCompareCmd (img : MbImage) (s : State) : State × Option Response :=
  checked s [refusalIf (s.weaveAbsent (cWeave img.payload)) stNoUnit 4]
    (done (s.stageDef 6 (hIdx img.handle) (padTo 48 img.payload)) [])

def execStartCompare (m : Fin 32) (s : State) : Host.Outcome State Fault Refusal :=
  .next (s.runCommand m 0x0027 (fun _ => true) startCompareCmd)

/-- ABORT naming a compare job ends its running step (Table 6.8). -/
def abortCompareCmd (img : MbImage) (s : State) : State × Option Response :=
  match s.weaver.place.cmpCu (hIdx img.handle) with
  | some cu => if (s.cmp cu).step.isSome then done (s.abortStep cu 1 s.now) (leBytes 4 0) else done s (leBytes 4 2)
  | none => done s (leBytes 4 2)

def execAbortCompareJob (m : Fin 32) (s : State) : Host.Outcome State Fault Refusal :=
  .next (s.runCommand m 0x0043 (fun img => hType img.handle == 6) abortCompareCmd)

end Sys2Proof.Machine
end

