-- ==== Sys2Proof/Machine/Hist.lean ====
section
/-!
DEFINITION. Histograms and persistence maps (chapter 7): values, binning, sweeps, swaps, spills, and the commands of the
family.
-/
namespace Sys2Proof.Machine

/-! ### Region configuration (Table 7.5) -/

def State.rgCfg (s : State) (hu r : Nat) : Word := s.reg (HU_RG hu r 0x00)
def rgEnable (c : Word) : Bool := bit c 0
def rgMap (c : Word) : Bool := bit c 1
def rgMeas (c : Word) : Nat := fld c 2 3
def rgEdge (c : Word) : Nat := fld c 5 2
def rgPol (c : Word) : Nat := fld c 7 2
def rgLaneA (c : Word) : Nat := fld c 9 6
def rgLaneB (c : Word) : Nat := fld c 15 6
def rgShift (c : Word) : Nat := fld c 21 6
def State.rgBins (s : State) (hu r : Nat) : Nat := s.regF (HU_RG hu r 0x04) 0 17
def State.rgLo (s : State) (hu r : Nat) : Int := sint 64 (s.reg64 (HU_RG hu r 0x08))
def State.rgSpan (s : State) (hu r : Nat) : Nat := (s.reg (HU_RG hu r 0x10)).toNat
def State.rgMask (s : State) (hu r : Nat) : Nat :=
  (s.reg (HU_RG hu r 0x18)).toNat + 2 ^ 32 * s.regF (HU_RG hu r 0x1C) 0 16
def State.rgRef (s : State) (hu r : Nat) : Option Nat :=
  if s.regBit (HU_RG hu r 0x1C) 24 then some (s.regF (HU_RG hu r 0x1C) 16 8) else none

/-- The regions of a unit that are in use. -/
def State.rgActive (s : State) (hu : Nat) : List Nat := filterRange 16 fun r => rgEnable (s.rgCfg hu r)

/-- Lanes in weave that a mask selects. -/
def maskLanes (m : Nat) : List Nat := filterRange 48 fun k => m / 2 ^ k % 2 == 1

def State.rgLanes (s : State) (hu r : Nat) : List Nat :=
  let c := s.rgCfg hu r
  if rgMap c then (maskLanes (s.rgMask hu r)).map (48 * hu + ·)
  else if rgMeas c = 4 then [48 * hu + rgLaneA c, 48 * hu + rgLaneB c]
  else if rgMeas c = 6 then []
  else [48 * hu + rgLaneA c]

/-- A time has been held long enough to be binned: its slot lies more than 32 slots and D_neg behind (R177). -/
def State.histHeld (s : State) (hu : Nat) (t : Time) : Bool := s.laneDone ((s.rgActive hu).flatMap (s.rgLanes hu)) t

/-! ### Counters of an accumulation: EVENTS, DISCARD, UNDER, OVER, AUX1, AUX2 -/

/-- Accumulations that swaps have closed and whose images are still to come, oldest first. -/
def RegionDyn.closings (d : RegionDyn) : List Closing := d.closing.toList ++ d.deferred

/-- The closed accumulation that a time belongs to, if it is before a swap (R176). -/
def State.closingOf (s : State) (hu r : Nat) (t : Time) : Option Closing :=
  (s.region hu r).closings.find? fun c => decide (t < c.tClose)

def State.modClosing (s : State) (hu r : Nat) (t : Time) (f : Closing → Closing) : State :=
  let g := fun (c : Closing) => if c.tClose = t then f c else c
  s.modRegion hu r fun d => { d with closing := d.closing.map g, deferred := d.deferred.map g }

/-- Count in counter `i` of the accumulation that `t` belongs to; 32 bits, saturating (R175). -/
def State.rgCount (s : State) (hu r : Nat) (t : Time) (i : Nat) : State :=
  match s.closingOf hu r t with
  | some k => s.modClosing hu r k.tClose fun c => { c with
      counters := c.counters.zipIdx.map fun x => if x.2 = i then sat 0xFFFFFFFF (x.1 + 1) else x.1 }
  | none => s.incReg (HU_RG hu r (0x24 + 4 * i))

/-- Count at a time that is not yet held: a swap still to come may move it to the next accumulation (R176, R177). -/
def State.rgCountLate (s : State) (hu r : Nat) (t : Time) (i : Nat) : State :=
  (s.rgCount hu r t i).modRegion hu r fun d => { d with recent := d.recent ++ [(t, i)] }

def State.rgSat (s : State) (hu r : Nat) (t : Time) : State :=
  match s.closingOf hu r t with
  | some k => s.modClosing hu r k.tClose fun c => { c with sat := true }
  | none => s.setRegBit (HU_RG hu r 0x3C) 0 true

def State.rgParity (s : State) (hu r : Nat) (t : Time) : State :=
  match s.closingOf hu r t with
  | some k => s.modClosing hu r k.tClose fun c => { c with parity := true, sat := true }
  | none => (s.setRegBit (HU_RG hu r 0x3C) 1 true).setRegBit (HU_RG hu r 0x3C) 0 true

/-- A bank of the region has had a parity error: the march test follows its next spill (Table 7.3). -/
def State.suspectBank (s : State) (hu r : Nat) (bank : Bool) : State :=
  s.modRegion hu r fun d => { d with suspect := bank :: d.suspect.filter (· != bank) }

/-- Bank of the accumulation in progress: false A, true B. -/
def State.activeBank (s : State) (hu r : Nat) : Bool :=
  match (s.region hu r).deferred.getLast? with
  | some c => !c.bank
  | none => bit (s.rgCfg hu r) 27

/-- The bank that a time's accumulation counts in. -/
def State.rgBank (s : State) (hu r : Nat) (t : Time) : Bool :=
  match s.closingOf hu r t with
  | some c => c.bank
  | none => s.activeBank hu r

/-- A time belongs to an accumulation that still waits for its bank (R178). -/
def RegionDyn.blocked (d : RegionDyn) (t : Time) : Bool :=
  match d.deferred with
  | c :: _ => decide (c.tClose ≤ t)
  | [] => false

/-- A time belongs to the accumulation in progress. -/
def RegionDyn.active (d : RegionDyn) (t : Time) : Bool := d.closings.all fun c => decide (c.tClose ≤ t)

def RegionDyn.bank (d : RegionDyn) (b : Bool) : Tbl Nat := if b then d.bankB else d.bankA
def RegionDyn.setBank (d : RegionDyn) (b : Bool) (t : Tbl Nat) : RegionDyn :=
  if b then { d with bankB := t } else { d with bankA := t }

/-- Count in counter `k` of a bank, up to `top`; a parity error of the read sets it to `top` (Table 7.3). -/
def State.binAt (s : State) (hu r : Nat) (t : Time) (k top : Nat) (parity : Bool) : State :=
  let bank := s.rgBank hu r t
  let d := s.region hu r
  let v := Tbl.getD (d.bank bank) k 0
  let s := if parity then ((s.rgParity hu r t).incReg (HU_PARITY hu)).suspectBank hu r bank else s
  let s := s.modRegion hu r fun d => d.setBank bank (Tbl.set (d.bank bank) k (if parity then top else sat top (v + 1)) 0)
  if !parity && top ≤ v + 1 then s.rgSat hu r t else s

/-! ### Values (R167, R168, R170, R174) -/

/-- Insert in order of t_e, equal times in region order. -/
def insertValue (v : HistValue) : List HistValue → List HistValue
  | [] => [v]
  | x :: t => if v.te < x.te || (v.te == x.te && decide (v.region < x.region)) then v :: x :: t else x :: insertValue v t

/-- A value is produced: it waits in the unit's queue of 64, whose oldest value a full queue loses (R174). A value whose bank
still spills waits beside the queue (R178). -/
def State.histValue (s : State) (hu : Nat) (v : HistValue) : State :=
  if (s.region hu v.region).blocked v.te then s.modHist hu fun h => { h with held := insertValue v h.held }
  else
    let q := (s.hist hu).values
    let (s, q) := if 64 ≤ q.length then
        match q with
        | x :: t => ((s.rgCountLate hu x.region x.te 1).incReg (HU_OVERFLOW hu), t)
        | [] => (s, q)
      else (s, q)
    s.modHist hu fun h => { h with values := insertValue v q }

/-- A polarity code takes an edge (Table 4.8). -/
def polTakes (pol : Nat) (rise : Bool) : Bool := if rise then pol % 2 == 1 else pol / 2 == 1

/-- An edge of lane `l` from the source that EDGE selects: its polarity. -/
def laneEdge (edge l : Nat) : InEv → Option Bool
  | .edge lane comp rise _ =>
    if lane = l ∧ ((edge = 1 ∧ comp = .l) ∨ (edge = 2 ∧ comp = .u)) then some rise else none
  | .crossing lane rise _ _ => if lane = l ∧ edge = 0 then some rise else none
  | _ => none

def max48 : Nat := 2 ^ 48 - 1

/-- Entries from `t` on, with the latest one before. -/
def pruneBefore (l : List (Time × Bool × Bool)) (t : Time) : List (Time × Bool × Bool) :=
  let old := l.filter fun e => decide (e.1 < t)
  (match old.getLast? with | some e => [e] | none => []) ++ l.filter fun e => !decide (e.1 < t)

/-- Insert in order of time, equal times in order of arrival. -/
def insertEdge (e : Time × Bool × Bool) : List (Time × Bool × Bool) → List (Time × Bool × Bool)
  | [] => [e]
  | x :: t => if e.1 < x.1 then e :: x :: t else x :: insertEdge e t

/-- An input event reaches region `r` of a unit (R167); an edge of before the ARM or epoch starts nothing (R169). -/
def State.histEvent (s : State) (hu r : Nat) (e : TimedEv) : State :=
  let c := s.rgCfg hu r
  let a := 48 * hu + rgLaneA c
  let f := evFlagged { e.flags with pod := false }
  let d := s.region hu r
  if !s.time.armed || rgMap c || (rgMeas c != 6 && decide (e.at_ < d.since)) then s
  else match rgMeas c with
  | 1 =>
    match laneEdge (rgEdge c) a e.ev with
    | none => s
    | some rise =>
      let s1 := match d.startT with
        | some t0 => if d.startRise ≠ rise && polTakes (rgPol c) d.startRise then
            s.histValue hu { region := r, x := (min (e.at_ - t0) max48 : Nat), te := e.at_, flagged := f || d.startFlag } else s
        | none => s
      s1.modRegion hu r fun d => { d with startT := some e.at_, startRise := rise, startFlag := f }
  | 2 =>
    match laneEdge (rgEdge c) a e.ev with
    | none => s
    | some rise =>
      if !polTakes (rgPol c) rise then s
      else
        let s1 := match d.startT with
          | some t0 => s.histValue hu { region := r, x := (e.at_ - t0 : Nat), te := e.at_, flagged := f || d.startFlag }
          | none => s
        s1.modRegion hu r fun d => { d with startT := some e.at_, startRise := rise, startFlag := f }
  | 3 =>
    match e.ev with
    | .crossing l rise (some dt) later =>
      if l = a && polTakes (rgPol c) rise then
        s.histValue hu { region := r, x := (dt : Nat), te := later, flagged := f } else s
    | _ => s
  | 4 =>
    let s := match laneEdge (rgEdge c) a e.ev with
      | some rise => if polTakes (rgPol c) rise then
          s.modRegion hu r fun d => { d with aEdges := insertEdge (e.at_, rise, f) d.aEdges } else s
      | none => s
    match laneEdge (rgEdge c) (48 * hu + rgLaneB c) e.ev with
    | some rise => s.modRegion hu r fun d => { d with bEdges := insertEdge (e.at_, rise, f) d.bEdges }
    | none => s
  | 5 =>
    match laneEdge (rgEdge c) a e.ev with
    | some rise => if polTakes (rgPol c) rise then
        s.modRegion hu r fun d => { d with aEdges := insertEdge (e.at_, rise, f) d.aEdges } else s
    | none => s
  | 6 =>
    match e.ev with
    | .dropout pod _ _ w =>
      let m := s.rgMask hu r
      if pod / 128 = hu && m / 2 ^ (32 + pod / 32 % 4) % 2 == 1 && m / 2 ^ (pod % 32) % 2 == 1 then
        s.histValue hu { region := r, x := (512 * w : Nat), te := s.slotEnd - 1, flagged := false } else s
    | _ => s
  | _ => s

/-- The edge of the list nearest to `t` within `span` and of its polarity; on a tie the earlier one. -/
def nearest (l : List (Time × Bool × Bool)) (t : Time) (rise : Bool) (span : Nat) : Option (Time × Bool × Bool) :=
  l.foldl (fun best e =>
    let dist := fun (x : Time) => if x < t then t - x else x - t
    if e.2.1 ≠ rise || span < dist e.1 then best
    else match best with
      | some b => if dist e.1 < dist b.1 || (dist e.1 == dist b.1 && decide (e.1 < b.1)) then some e else some b
      | none => some e) none

/-- Resolve the edges of A that are due: SKEW and EDGE_REL (Table 7.1). -/
def State.histPair (s : State) (hu r : Nat) (due : List (Time × Bool × Bool)) : State :=
  let c := s.rgCfg hu r
  let d := s.region hu r
  let span := if rgMeas c = 4 then s.rgSpan hu r else 0
  let s := s.each due fun s e =>
    if rgMeas c = 4 then
      match nearest d.bEdges e.1 e.2.1 span with
      | some b => s.histValue hu { region := r, x := (b.1 : Int) - e.1, te := e.1 + span, flagged := e.2.2 || b.2.2 }
      | none => s.rgCountLate hu r (e.1 + span) 4
    else
      match (d.bEdges.filter fun b => decide (b.1 ≤ e.1)).getLast? with
      | some b =>
        let x : Int := (e.1 : Int) - b.1
        if x < s.rgLo hu r + s.rgBins hu r * 2 ^ rgShift c then
          s.histValue hu { region := r, x := x, te := e.1, flagged := e.2.2 || b.2.2 } else s
      | none => s
  s.modRegion hu r fun d => { d with aEdges := d.aEdges.filter fun e => !due.contains e }

/-- The instant from which the value of an edge of A is known (Table 7.1). -/
def State.edgeDue (s : State) (hu r : Nat) (e : Time × Bool × Bool) : Time :=
  e.1 + if rgMeas (s.rgCfg hu r) = 4 then s.rgSpan hu r else 0

/-- Edges of A whose partners must have come are resolved; edges of B that no later edge of A can need leave. A reference
event that is detected later than that (a late crossing, a pod or deviation term) changes no edge already resolved: the spec
does not say whether it does (DESIGN CHOICE, log entry 115). -/
def State.histResolve (s : State) (hu r : Nat) : State :=
  let s := s.histPair hu r ((s.region hu r).aEdges.filter fun e => s.histHeld hu (s.edgeDue hu r e))
  let span := if rgMeas (s.rgCfg hu r) = 4 then s.rgSpan hu r else 0
  let back := (64 + s.dNeg ((s.rgActive hu).flatMap (s.rgLanes hu))) * slotFt
  s.modRegion hu r fun d =>
    let from_ := d.aEdges.foldl (fun m e => min m e.1) (s.now - back - span)
    { d with bEdges := pruneBefore d.bEdges (from_ - span) }

/-- The window of a sweep ends here (R172). -/
def Sweep.stop (x : Sweep) : Time := x.tr + x.lo + x.cols * 2 ^ rgShift x.cfg

/-- Reference events of a slot reach a region: times for EDGE_REL, sweeps for a map (R168, R172, R173). -/
def State.histRef (s : State) (hu r : Nat) (ts : List (Time × EvFlags)) : State :=
  let ts := ts.filter fun t => decide ((s.region hu r).since ≤ t.1)
  if rgMap (s.rgCfg hu r) then
    s.each ts fun s t =>
      if 2 ≤ (s.region hu r).sweeps.countP (fun x => decide (t.1 < x.stop)) then s.rgCountLate hu r t.1 5
      else s.modRegion hu r fun d => { d with
        sweeps := d.sweeps ++ [{ tr := t.1, column := 0, cfg := s.rgCfg hu r, lo := (s.rgLo hu r).toNat, cols := s.rgBins hu r
                                 mask := s.rgMask hu r }] }
  else if rgMeas (s.rgCfg hu r) = 5 then
    s.modRegion hu r fun d => { d with
      bEdges := ts.foldl (fun l t => insertEdge (t.1, true, evFlagged { t.2 with pod := false }) l) d.bEdges }
  else s

/-! ### Swaps (R176 to R178) -/

/-- The accumulation in progress as it stands at its close. -/
def State.makeClosing (s : State) (hu r : Nat) (t : Time) (fault : Bool) : Closing :=
  let c := s.rgCfg hu r
  let fl := s.reg (HU_RG hu r 0x3C)
  let later := (s.region hu r).recent.filter fun x => decide (t ≤ x.1)
  { obj := match s.weaver.place.histAt hu r with | some h => h.obj | none => 0
    cfg := c, bins := s.rgBins hu r, rows := s.regF (HU_RG hu r 0x04) 17 8, lo := s.rgLo hu r, epoch := s.epochNo
    tOpen := (s.region hu r).tOpen, tClose := t, bank := s.activeBank hu r
    counters := (List.range 6).map fun i => (s.reg (HU_RG hu r (0x24 + 4 * i))).toNat - later.countP (fun x => x.2 == i)
    sat := bit fl 0, cleared := bit fl 2, parity := bit fl 1, fault := fault, missed := fld fl 16 16, place := 0, gone := false }

/-- The registers of the accumulation in progress start from zero at `t`, with the counts that have come since (R176). -/
def State.openAccum (s : State) (hu r : Nat) (t : Time) (flags : Word) : State :=
  let later := (s.region hu r).recent.filter fun x => decide (t ≤ x.1)
  let s := s.modRegion hu r fun d => { d with tOpen := t, missed := d.missed.filter fun m => decide (t < m) }
  let s := s.each (List.range 6) fun s i =>
    s.setReg (HU_RG hu r (0x24 + 4 * i)) (BitVec.ofNat 32 (later.countP fun x => x.2 == i))
  s.setReg (HU_RG hu r 0x3C) flags

/-- A HISTOGRAM_CLEAR at `t` restarts the accumulation in progress: values, edges and sweeps before it go (R181). -/
def State.histClear (s : State) (hu r : Nat) (t : Time) : State :=
  let d := s.region hu r
  let mine := fun (te : Time) => decide (te < t) && d.active te
  let keep := fun (v : HistValue) => !(v.region == r && mine v.te)
  let s := s.modHist hu fun x => { x with values := x.values.filter keep, held := x.held.filter keep }
  let b := s.activeBank hu r
  let s := s.modRegion hu r fun d => { (if d.deferred.isEmpty then d.setBank b [] else d) with
    sweeps := d.sweeps.filter fun w => !mine w.tr, aEdges := d.aEdges.filter fun e => !mine (s.edgeDue hu r e)
    clears := d.clears.filter fun c => decide (t < c) }
  s.openAccum hu r t (BitVec.ofNat 32 (4 + s.regF (HU_RG hu r 0x3C) 16 16 * 2 ^ 16))

/-- Where a spill buffer stands is not given: it is a free burst of a free channel in service (log entry 105). -/
def State.spillPlace (s : State) : Nat × State :=
  let d := s.draw 31
  let cs := filterRange 16 fun c => s.mcState c == 1
  (cs.getD (d.1.toNat % 16 % max 1 cs.length) 0 * 2 ^ 33 + d.1.toNat / 16 * 64, d.2)

/-- A closed accumulation's bank awaits its spill, and the other bank is active. -/
def State.startSpill (s : State) (hu r : Nat) (c : Closing) : State :=
  let d := s.spillPlace
  let s := d.2.modRegion hu r fun x => { x with closing := some { c with place := d.1 } }
  let s := (s.setRegBit (HU_RG hu r 0) 27 (!c.bank)).setRegBit (HU_RG hu r 0) 28 true
  s.modHist hu fun h => { h with spillOrder := h.spillOrder ++ [r] }

/-- The region's other bank takes an accumulation: it neither spills nor is under self-test. -/
def State.otherBankFree (s : State) (hu r : Nat) : Bool :=
  (s.region hu r).closing.isNone && !s.underTest (uSlice (uHu hu) (!(bit (s.rgCfg hu r) 27)).toNat)

/-- Close the active accumulation of a region at `t`; it goes on from zero in the other bank, at once, or once that bank is
free (R178). A HISTOGRAM_CLEAR that still waits takes effect before it; one at the same instant is void (R177). A trigger
time further back than the hold of R177 (a pod or deviation term, a late crossing) moves no value that is binned: the spec
gives no order for those (DESIGN CHOICE, log entry 115). -/
def State.closeAccum (s : State) (hu r : Nat) (t : Time) (fault : Bool) : State :=
  let s := match ((s.region hu r).clears.filter fun c => decide (c < t)).getLast? with
    | some c => s.histClear hu r c
    | none => s
  let cl := s.makeClosing hu r t fault
  let now := s.otherBankFree hu r && (s.region hu r).deferred.isEmpty
  let s := s.openAccum hu r t 0
  let s := s.modRegion hu r fun d => { d with
    clears := d.clears.filter fun c => decide (t < c), recent := d.recent.filter fun x => decide (t ≤ x.1) }
  if now then s.startSpill hu r cl
  else
    let s := s.modRegion hu r fun d => { d with deferred := d.deferred ++ [cl] }
    let waits := fun (v : HistValue) => v.region == r && decide (t ≤ v.te)
    s.modHist hu fun h => { h with
      values := h.values.filter fun v => !waits v, held := (h.values.filter waits).foldl (fun l v => insertValue v l) h.held }

/-- A requested swap (R176, R178): answers false when the other bank still spills or is under test. Requests of one instant
are one, also one that is missed. Of two requests of different instants in one slot, the first decided swaps; the other finds
the other bank spilling (DESIGN CHOICE, log entry 111). -/
def State.histSwap (s : State) (hu r : Nat) (t : Time) : State × Bool :=
  if (s.region hu r).closings.any fun c => c.tClose == t then (s, true)
  else if (s.region hu r).missed.contains t then (s, false)
  else if !s.otherBankFree hu r || !(s.region hu r).deferred.isEmpty then
    ((s.addRegF (HU_RG hu r 0x3C) 16 16 1).modRegion hu r fun d => { d with missed := d.missed ++ [t] }, false)
  else (s.closeAccum hu r t false, true)

/-- An automatic swap (Table 7.3), deferred while the other bank spills or is under test. -/
def State.histAutoSwap (s : State) (hu r : Nat) (t : Time) (fault : Bool) : State :=
  if (s.region hu r).closings.any fun c => c.tClose == t then s else s.closeAccum hu r t fault

/-- The accumulation has any value or sweep since its last swap (Table 7.3). -/
def State.histTouched (s : State) (hu r : Nat) : Bool :=
  let d := s.region hu r
  (List.range 6).any (fun i => s.reg (HU_RG hu r (0x24 + 4 * i)) != 0) ||
    ((s.hist hu).values ++ (s.hist hu).held).any (fun v => v.region == r && d.active v.te) ||
    d.sweeps.any (fun w => d.active w.tr) || d.aEdges.any fun e => d.active (s.edgeDue hu r e)

/-- The old definition of a region ends at `t` (Table 7.3): edges of A that are due before it meet the partners that have
come, and the accumulation is swapped out. -/
def State.histEnd (s : State) (hu r : Nat) (t : Time) : State :=
  (s.histPair hu r ((s.region hu r).aEdges.filter fun e => decide (s.edgeDue hu r e < t))).histAutoSwap hu r t false

/-- A sample slot of a region: clears that are no longer held take effect, and edges of A meet their partners. -/
def State.histSlot (s : State) (hu r : Nat) : State :=
  let s := s.each (s.region hu r).clears fun s c => if s.histHeld hu c then s.histClear hu r c else s
  let s := s.modRegion hu r fun d => { d with recent := d.recent.filter fun x => !s.histHeld hu x.1 }
  s.histResolve hu r

/-! ### Spill and image (R179 to R182, Table 7.2) -/

/-- Counter bytes of an image, padded to a multiple of 8 (R182). -/
def imageCounters (c : Closing) (bank : Tbl Nat) : List Byte :=
  let p := if rgMap c.cfg then (List.range (c.rows * c.bins)).flatMap fun k => leBytes 2 (Tbl.getD bank k 0)
    else (List.range c.bins).flatMap fun k => leBytes 4 (Tbl.getD bank k 0)
  padTo (ceilDiv p.length 8 * 8) p

def imageBytes (c : Closing) (seq : Nat) (bank : Tbl Nat) : List Byte :=
  let body := imageCounters c bank
  let k := fun i => c.counters.getD i 0
  let head := bytesOf
    [ pack64 [(0, 32, 0x4D48535A), (32, 1, (rgMap c.cfg).toNat), (33, 3, if rgMap c.cfg then 0 else rgMeas c.cfg),
        (36, 1, c.sat.toNat), (37, 1, c.cleared.toNat), (38, 1, c.parity.toNat), (39, 1, c.fault.toNat), (48, 16, c.obj)],
      pack64 [(0, 32, seq), (32, 32, c.epoch.toNat)], BitVec.ofNat 64 c.tOpen, BitVec.ofNat 64 c.tClose,
      pack64 [(0, 32, k 0), (32, 32, k 1)], pack64 [(0, 32, k 2), (32, 32, k 3)], pack64 [(0, 32, k 4), (32, 32, k 5)],
      BitVec.ofNat 64 (unint 64 c.lo),
      pack64 [(0, 17, c.bins), (17, 6, rgShift c.cfg), (23, 8, if rgMap c.cfg then c.rows else 0), (48, 16, c.missed)] ] ++
    leBytes 4 (80 + body.length)
  head ++ leBytes 4 (crc32 (head ++ body)).toNat ++ body

/-- Region `r` may be spilled: no value can still come for its closing accumulation, and none, no edge and no sweep of it
remains (R179). -/
def State.spillReady (s : State) (hu r : Nat) : Bool :=
  match (s.region hu r).closing with
  | none => false
  | some c =>
    s.histHeld hu c.tClose &&
      !(((s.hist hu).values ++ (s.hist hu).held).any fun v => v.region == r && decide (v.te < c.tClose)) &&
      !((s.region hu r).sweeps.any fun w => decide (w.tr < c.tClose)) &&
      !((s.region hu r).aEdges.any fun e => decide (s.edgeDue hu r e < c.tClose))

/-- Counters of a closed accumulation, and the value at which they saturate. -/
def Closing.bins_ (c : Closing) : Nat := if rgMap c.cfg then c.rows * c.bins else c.bins
def Closing.top (c : Closing) : Nat := if rgMap c.cfg then 0xFFFF else 0xFFFFFFFF

/-- The counters that the spill reads with a parity error are set to their saturated value (Table 7.3). -/
def State.spillParity (s : State) (hu r : Nat) (c : Closing) (bad : List Nat) : State :=
  s.each bad fun s k =>
    let s := s.modRegion hu r fun d => d.setBank c.bank (Tbl.set (d.bank c.bank) k c.top 0)
    ((s.modClosing hu r c.tClose fun c => { c with parity := true, sat := true }).incReg (HU_PARITY hu)).suspectBank hu r c.bank

/-- An image joins its object's, the fifth overwriting the oldest (R180). A destroyed object has no spill buffer left (DESIGN
CHOICE, log entry 115). -/
def State.storeImage (s : State) (hu r : Nat) (c : Closing) : State :=
  if c.gone then s
  else
    let im := s.image c.obj
    let img := imageBytes c im.nextSeq ((s.region hu r).bank c.bank)
    let evict := decide (4 ≤ im.images.length)
    let s := s.setImage c.obj
      { images := (if evict then im.images.drop 1 else im.images) ++ [(im.nextSeq, img)]
        places := (if evict then im.places.drop 1 else im.places) ++ [c.place]
        nextSeq := (im.nextSeq + 1) % 2 ^ 32 }
    let s := if evict then s.incReg (HU_IMG_LOST hu) else s
    let s := (s.askWriteAt 3 c.place img.length).incReg (HU_SPILLS hu)
    let s := match s.weaver.place.histAt hu r with
      | some h => if h.obj = c.obj then s.setReg (HU_RG hu r 0x20) (BitVec.ofNat 32 (im.nextSeq + 1)) else s
      | none => s
    s.noticeReady c.obj im.nextSeq

/-- The first region in swap order is spilled and its bank region is empty; `parity` names the counters that are read with an
error. A bank that has had one is tested after its spill (Table 7.3). -/
def State.spillOne (s : State) (hu : Nat) (parity : List Nat) : State :=
  match (s.hist hu).spillOrder with
  | [] => s
  | r :: rest =>
    if !s.spillReady hu r then s
    else
      match (s.region hu r).closing with
      | none => s
      | some c =>
        let s := s.spillParity hu r c (parity.eraseDups.filter fun k => decide (k < c.bins_))
        let s := s.storeImage hu r (((s.region hu r).closing).getD c)
        let test := (s.region hu r).suspect.contains c.bank
        let s := s.modRegion hu r fun d => { d.setBank c.bank [] with closing := none, suspect := d.suspect.filter (· != c.bank) }
        let s := s.modHist hu fun h => { h with spillOrder := rest }
        let s := s.setRegBit (HU_RG hu r 0) 28 false
        if test then s.raiseFault (uSlice (uHu hu) c.bank.toNat) 0x06 [] else s

/-- A histogram object is destroyed: its images go, and so do those still to come. -/
def State.destroyHist (s : State) (idx : Nat) : State :=
  let g := fun (c : Closing) => if c.obj = idx then { c with gone := true } else c
  (s.each (List.range 4) fun s hu => s.each (s.hist hu).regions.keys fun s r =>
    s.modRegion hu r fun d => { d with closing := d.closing.map g, deferred := d.deferred.map g }).delImage idx

/-- Zero both regions, but what still waits for its spill, and start an accumulation at `t` with no measurement in progress
(R169, Table 7.3). -/
def State.histStart (s : State) (hu r : Nat) (t : Time) : State :=
  let s := s.modRegion hu r fun d =>
    let keep := fun (b : Bool) => d.closings.any fun c => c.bank == b
    { d with
      bankA := if keep false then d.bankA else [], bankB := if keep true then d.bankB else []
      sweeps := d.sweeps.filter fun w => !d.active w.tr
      startT := none, bEdges := [], aEdges := [], clears := [], recent := [], missed := [], since := t }
  s.openAccum hu r t 0

/-! ### Commands -/

/-- A map is placed on the unit, or one is still ending. -/
def State.huMap (s : State) (hu : Nat) : Bool :=
  ((s.rgActive hu).any fun r => rgMap (s.rgCfg hu r)) || (List.range 16).any fun r => !(s.region hu r).sweeps.isEmpty

/-- Bin a value (R170). -/
def State.binValue (s : State) (hu : Nat) (v : HistValue) (parity : Bool) : State :=
  let r := v.region
  let (c, lo, bins) := match s.closingOf hu r v.te with
    | some k => (k.cfg, k.lo, k.bins)
    | none => (s.rgCfg hu r, s.rgLo hu r, s.rgBins hu r)
  let s := if v.flagged then s.rgCount hu r v.te 5 else s
  if v.x < lo then s.rgCount hu r v.te 2
  else
    let i := (v.x - lo).toNat / 2 ^ rgShift c
    if bins ≤ i then s.rgCount hu r v.te 3
    else (s.binAt hu r v.te i 0xFFFFFFFF parity).rgCount hu r v.te 0

/-- A HISTOGRAM_CLEAR that has not taken effect yet goes before what belongs to `t`. -/
def RegionDyn.waitsClear (d : RegionDyn) (t : Time) : Bool := d.clears.any fun c => decide (c ≤ t)

/-- The first value whose holding delay is over is binned; values whose bank is still spilling wait (R177, R178), and values
at or after a CLEAR come after it (R181). A unit bins four values in a slot, two when it holds a map (R174). -/
def execHistValue (hu : Fin 4) (parity : Bool) (s : State) : Host.Outcome State Fault Refusal :=
  .next (
    let h := s.hist hu
    let ready := fun (v : HistValue) =>
      !(s.region hu v.region).blocked v.te && !(s.region hu v.region).waitsClear v.te && s.histHeld hu v.te
    if (if s.huMap hu then 2 else 4) ≤ h.valueOps then s
    else match (h.held ++ h.values).find? ready with
      | none => s
      | some v =>
        (s.modHist hu fun h => { h with
          held := h.held.erase v, values := if h.held.contains v then h.values else h.values.erase v
          valueOps := h.valueOps + 1 }).binValue hu v parity)

/-- Threshold states that a lane held for at least 1 ft in [a, b) (R172). -/
def statesIn (h : List (Time × BitVec 2)) (a b : Time) : List (BitVec 2) :=
  let ts := h.map (·.1)
  let start := match (h.filter fun e => decide (e.1 ≤ a)).getLast? with | some e => e.2 | none => 0
  let firstAfter := ts.find? fun t => decide (a < t)
  let held := (h.zipIdx.filter fun x =>
    let next := match ts.drop (x.2 + 1) with | t :: _ => t | [] => b
    decide (a < x.1.1) && decide (x.1.1 < b) && decide (x.1.1 < next)).map (·.1.2)
  if firstAfter = some a then held else start :: held

/-- Row of a state: 0b00, 0b01, 0b11. -/
def stateRow (st : BitVec 2) : Nat := match st.toNat with | 0 => 0 | 1 => 1 | _ => 2

/-- End of the next column of a sweep. -/
def Sweep.columnEnd (x : Sweep) : Time := x.tr + x.lo + (x.column + 1) * 2 ^ rgShift x.cfg

/-- A column of a sweep in region `r` ends: each selected lane counts in every row whose state it held. `parity` names the
rows whose counter was read with an error. -/
def State.endColumn (s : State) (hu r : Nat) (x : Sweep) (parity : List (Fin 144)) : State :=
  let s := s.each (maskLanes x.mask).zipIdx fun s l =>
    let n := 48 * hu + l.1
    if s.regBit (LN_STATUS n) 8 then s
    else
      let sts := ((statesIn (s.lnStates n) (x.columnEnd - 2 ^ rgShift x.cfg) x.columnEnd).map stateRow).eraseDups
      s.each sts fun s row =>
        s.binAt hu r x.tr ((3 * l.2 + row) * x.cols + x.column) 0xFFFF (parity.any fun k => k.val == 3 * l.2 + row)
  let last := decide (x.cols ≤ x.column + 1)
  let s := s.modRegion hu r fun d => { d with
    sweeps := if last then d.sweeps.erase x
      else d.sweeps.map fun y => if y = x then { y with column := y.column + 1 } else y }
  if last then s.rgCount hu r x.tr 4 else s

/-- The next column of the oldest due sweep of a unit's map ends (R172); two columns may end in a slot (R174). -/
def execSweepColumnEnd (column : ColumnRead) (s : State) : Host.Outcome State Fault Refusal :=
  .next (
    let hu := column.hu
    let due := fun (r : Nat) => (s.region hu r).sweeps.find? fun x =>
      !(s.region hu r).blocked x.tr && !(s.region hu r).waitsClear x.tr && s.histHeld hu x.columnEnd
    if 2 ≤ (s.hist hu).columnOps then s
    else match (List.range 16).find? fun r => (due r).isSome with
      | none => s
      | some r => match due r with
        | some x => (s.modHist hu fun h => { h with columnOps := h.columnOps + 1 }).endColumn hu r x column.parity
        | none => s)

/-- A deferred automatic swap takes effect, at its own instant, once the other bank is free (R178). -/
def execDeferredSwap (hu : Fin 4) (region : Fin 16) (s : State) : Host.Outcome State Fault Refusal :=
  .next (
    match (s.region hu region).deferred with
    | c :: rest =>
      if s.otherBankFree hu region then (s.modRegion hu region fun d => { d with deferred := rest }).startSpill hu region c
      else s
    | [] => s)

def execSpillDone (read : SpillRead) (s : State) : Host.Outcome State Fault Refusal :=
  .next (s.spillOne read.hu (read.parity.map (·.val)))

/-! ### DEFINE_HISTOGRAM (R165 to R171) -/

/-- A reference term's entry in the sequence it names: a level term is no reference (R168). -/
def regionWords (p : List Byte) : Nat :=
  if hCfg p / 2 % 2 = 1 then
    let n := (maskLanes (hMask p % 2 ^ 48)).length
    ceilDiv (3 * n * hBins p) 2
  else hBins p

def checkDefineHistogram (p : List Byte) : List (Option Nat) :=
  let map := hCfg p / 2 % 2 == 1
  let meas := hCfg p / 4 % 8
  let pol := hCfg p / 2 ^ 7 % 4
  let shift := hCfg p / 2 ^ 21 % 64
  [ ckRsv p 0 4 (2 ^ 32 - 2 ^ 27),
    (if map then none else ckFld p 0 2 3 fun v => 1 ≤ v ∧ v ≤ 6),
    (if map ∨ meas = 6 ∨ meas = 3 then none else ckFld p 0 5 2 (· < 3)),
    (if map ∨ meas = 6 then none else if pol = 0 ∨ (meas = 2 ∧ pol = 3) then some 7 else none),
    (if map ∨ meas = 6 then none else ckFld p 0 9 6 (· < 48)),
    (if map ∨ meas ≠ 4 then none else ckFld p 0 15 6 (· < 48)),
    (if map then (if 8 ≤ shift ∧ shift ≤ 24 then none else some 21) else ckFld p 0 21 6 (· ≤ 32)),
    ckFld p 4 0 8 (· < 4), ckZero p 5 3,
    (if map then (if 16 ≤ hBins p ∧ hBins p ≤ 1024 ∧ hBins p * 2 ^ shift ≤ 2 ^ 34 then none else some 64)
      else if 1 ≤ hBins p ∧ hBins p ≤ 65536 then none else some 64),
    ckZero p 0x0C 4,
    (if (map ∨ meas = 5) ∧ sint 64 (hLo p) < 0 then some (8 * 0x10) else none),
    ckZero p 0x1C 4, ckRsv p 0x20 8 (2 ^ 64 - 2 ^ 48),
    (if map ∧ hMask p % 2 ^ 48 = 0 then some (8 * 0x20) else none),
    (if (map ∨ meas = 5) ∧ hRefSeq p = 0 then some (8 * 0x28) else none), ckZero p 0x2D 3 ]

def handlesDefineHistogram (p : List Byte) : List HandleUse :=
  [{ handle := hRefSeq p, at_ := some 0x28, types := [2], optional := true }]

def defineHistogramCmd (img : MbImage) (s : State) : State × Option Response :=
  checked s [refusalIf (s.weaveAbsent (hWeave img.payload)) stNoUnit 4]
    (done (s.stageDef 4 (hIdx img.handle) (padTo 48 img.payload)) (leBytes 4 (regionWords img.payload)))

def execDefineHistogram (m : Fin 32) (s : State) : Host.Outcome State Fault Refusal :=
  .next (s.runCommand m 0x0023 (fun _ => true) defineHistogramCmd)

/-! ### HISTOGRAM_SNAPSHOT and HISTOGRAM_CLEAR (R176, R180, R181) -/

/-- Flags: [0] SWAP, [1] FETCH; at least one. -/
def checkSnapshot (p : List Byte) : List (Option Nat) := [ckRsv p 0 4 0xFFFFFFFC, ckFld p 0 0 2 (· ≠ 0)]

/-- The channel of the oldest image is neither retrained nor in self-refresh: a FETCH of it does not wait (R290, R294). -/
def State.imageServes (s : State) (idx : Nat) : Bool :=
  match (s.image idx).places with
  | p :: _ => s.mcState (p / 2 ^ 33) != 5 && s.mcState (p / 2 ^ 33) != 2
  | [] => true

/-- FETCH: the oldest image is written to the host buffer and freed. The response's swap instant has no value in the
spec when no swap was asked for, nor its SNAP_SEQ when none was fetched: free values. -/
def fetchImage (idx : Nat) (p : List Byte) (swapT : Nat) (s : State) : State × Option Response :=
  let im := s.image idx
  match im.images with
  | [] => refuse s stNotReady 0
  | x :: rest =>
    if getLe p 4 4 < x.2.length then refuse s stInvalid 4
    else if !s.imageServes idx then (s, none)
    else
      let s := match im.places with | a :: _ => s.askReadAt 2 a x.2.length | [] => s
      let s := (s.dmaWrite (getLe p 8 8) x.2 true).setImage idx { im with images := rest, places := im.places.drop 1 }
      done s (leBytes 8 swapT ++ leBytes 4 x.1 ++ leBytes 4 x.2.length ++ leBytes 4 rest.length ++ leBytes 4 0)

/-- SWAP, alone or with FETCH. What FETCH refuses is looked at before the swap, so that a refused command changes nothing
(R323). A unit that has been retired since the command started refuses too (Table 7.3). -/
def snapshotSwapCmd (img : MbImage) (s : State) : State × Option Response :=
  match s.weaver.place.histPlace (hIdx img.handle) with
  | none => refuse s stNotReady 0
  | some h =>
    let fetch := getLe img.payload 0 4 / 2 % 2 == 1
    if s.isRetired (uHu h.hu) then refuse s stRetired 0xFFFF
    else if !s.time.armed || (fetch && (s.image (hIdx img.handle)).images.isEmpty) then refuse s stNotReady 0
    else if fetch && ((s.image (hIdx img.handle)).images.head?.any fun x => decide (getLe img.payload 4 4 < x.2.length)) then
      refuse s stInvalid 4
    else if fetch && !s.imageServes (hIdx img.handle) then (s, none)
    else
      let r := s.histSwap h.hu h.region s.slotStart
      if !r.2 then refuse r.1 stBusy 0
      else if fetch then fetchImage (hIdx img.handle) img.payload s.slotStart r.1
      else
        let f := r.1.draw 32
        done f.2 (leBytes 8 s.slotStart ++ leBytes 4 f.1.toNat ++ leBytes 4 0 ++
          leBytes 4 (f.2.image (hIdx img.handle)).images.length ++ leBytes 4 0)

/-- HISTOGRAM_SNAPSHOT with SWAP, alone or with FETCH. -/
def execHistogramSnapshotSwap (m : Fin 32) (s : State) : Host.Outcome State Fault Refusal :=
  .next (s.runCommand m 0x0051 (fun img => getLe img.payload 0 4 % 2 == 1) snapshotSwapCmd)

def snapshotFetchCmd (img : MbImage) (s : State) : State × Option Response :=
  if (s.weaver.place.histPlace (hIdx img.handle)).any fun h => s.isRetired (uHu h.hu) then refuse s stRetired 0xFFFF
  else fetchImage (hIdx img.handle) img.payload (s.draw 64).1.toNat (s.draw 64).2

/-- HISTOGRAM_SNAPSHOT with FETCH alone. -/
def execHistogramSnapshotFetch (m : Fin 32) (s : State) : Host.Outcome State Fault Refusal :=
  .next (s.runCommand m 0x0051 (fun img => getLe img.payload 0 4 % 2 == 0) snapshotFetchCmd)

/-- CLEAR at the start of the slot: it takes effect once no swap of the same instant can come, before any value at or after
it is binned (R177, R181; DESIGN CHOICE, log entry 101: until then the registers show the old counts). -/
def histogramClearCmd (img : MbImage) (s : State) : State × Option Response :=
  match s.weaver.place.histPlace (hIdx img.handle) with
  | none => refuse s stNotReady 0
  | some h =>
    if s.isRetired (uHu h.hu) then refuse s stRetired 0xFFFF
    else if !s.time.armed then refuse s stNotReady 0
    else
      let t := s.slotStart
      if (s.region h.hu h.region).closings.any fun c => c.tClose == t then done s (leBytes 8 t)
      else done (s.modRegion h.hu h.region fun d => { d with clears := d.clears ++ [t] }) (leBytes 8 t)

def execHistogramClear (m : Fin 32) (s : State) : Host.Outcome State Fault Refusal :=
  .next (s.runCommand m 0x0052 (fun _ => true) histogramClearCmd)

end Sys2Proof.Machine
end

