-- ==== Sys2Proof/Machine/Interval.lean ====
section
/-!
DEFINITION. Time-interval and frequency measurement (chapter 8): events of a unit, modes, results, and the commands of
the family.
-/
namespace Sys2Proof.Machine

/-! ### Configuration (Table 8.7) -/

def State.iuCfg (s : State) (iu : Nat) : Word := s.reg (IU iu 0x00)
def iuEnable (c : Word) : Bool := bit c 0
def iuGated (c : Word) : Bool := bit c 1
def iuMode (c : Word) : Nat := fld c 2 3
def iuPolA (c : Word) : Nat := fld c 5 2
def iuPolB (c : Word) : Nat := fld c 7 2
def iuGate (c : Word) : Nat := fld c 9 2
def iuGateLow (c : Word) : Bool := bit c 11
def iuJob (c : Word) : Nat := fld c 16 16
def State.iuSrcA (s : State) (iu : Nat) : Nat := s.regF (IU iu 0x04) 0 16
def State.iuSrcB (s : State) (iu : Nat) : Nat := s.regF (IU iu 0x04) 16 16
def State.iuWindow (s : State) (iu : Nat) : Nat := (s.reg (IU iu 0x08)).toNat * slotFt
def State.iuN (s : State) (iu : Nat) : Nat := s.regF (IU iu 0x0C) 0 16
def State.iuStreams (s : State) (iu : Nat) : List Nat :=
  match s.def? 5 (iuJob (s.iuCfg iu)) with | some p => (iStreams p).map hStream | none => []

/-- The interval units that serve a job, by weave. -/
def State.weaveIus (s : State) (w : Nat) : List Nat :=
  ([4 * w, 4 * w + 1, 4 * w + 2, 4 * w + 3]).filter fun i => iuEnable (s.iuCfg i)

/-- An event from the source that a code names (Table 8.2), on weave `w`: its polarity. -/
def sourceEdge (w code : Nat) (e : InEv) : Option Bool :=
  match code / 2 ^ 13 with
  | 1 => laneEdge (code / 64 % 4) (48 * w + code % 64) e
  | 2 => match e with
    | .podEdge pod ch level =>
      if pod = 32 * (4 * w + code / 2048 % 4) + code / 64 % 32 ∧ ch = code % 64 then some level else none
    | _ => none
  | 3 => match e with | .trigIn pin rise => if pin = code % 4 then some rise else none | _ => none
  | 4 => match e with | .gateIn pin rise => if pin = code % 4 then some rise else none | _ => none
  | _ => none

/-- The last instant up to which what comes slot by slot, `late` slots behind at most, is complete (R188). -/
def State.slotBound (s : State) (late : Nat) : Int := slotFt * ((s.slot : Int) - late) - 1

/-- The last instant up to which a source is complete (R188). -/
def State.srcBound (s : State) (w code : Nat) : Int :=
  match code / 2 ^ 13 with
  | 0 => s.now
  | 1 => s.slotBound (32 + s.dNeg [48 * w + code % 64])
  | 2 =>
    let p := 4 * w + code / 2048 % 4
    512 * (s.linkNow p - (80 + 17 * (code / 64 % 32) : Nat)) + (s.port p).cBase
  | _ => s.slotBound 32

/-- The instant up to which a unit may take events. -/
def State.iuBound (s : State) (iu : Nat) : Int :=
  let b := min (s.srcBound (iu / 4) (s.iuSrcA iu)) (s.srcBound (iu / 4) (s.iuSrcB iu))
  if iuGated (s.iuCfg iu) then min b (s.slotBound 32) else b

/-! ### The waiting events, in the order of R189 -/

/-- Its step in R189: an end edge of PERIOD both stops and starts; an edge of WIDTH starts, stops, or does both, as POL_A
says. The begin of a loss comes after the events of its instant. -/
def IvEv.rank (mode polA : Nat) : IvEv → Nat
  | .gateClose => 1
  | .gateOpen => 2
  | .a rise => if mode = 2 || (mode = 3 && polA = 3) then 4 else if mode = 3 && !polTakes polA rise then 5 else 3
  | .ab _ => 4
  | .b _ => 5
  | .reset => 6
  | .lossA => 7

def insertIv (mode polA : Nat) (e : IvTimed) : List IvTimed → List IvTimed
  | [] => [e]
  | x :: t =>
    if e.at_ < x.at_ || (e.at_ == x.at_ && decide (e.ev.rank mode polA < x.ev.rank mode polA)) then e :: x :: t
    else x :: insertIv mode polA e t

/-- An event waits for its turn; one from before the job's start is not of this run (R200; log entry 102). -/
def State.ivPush (s : State) (iu : Nat) (e : IvTimed) : State :=
  if e.at_ < (s.ival iu).origin then s
  else s.modIval iu fun d => { d with events := insertIv (iuMode (s.iuCfg iu)) (iuPolA (s.iuCfg iu)) e d.events }

/-- An input event reaches a unit: as source A, source B, or both. -/
def State.ivalEvent (s : State) (iu : Nat) (e : TimedEv) : State :=
  let c := s.iuCfg iu
  if !s.time.armed || s.isShed (objKey 5 (iuJob c)) then s
  else
    let takes := fun (pol : Nat) (r : Option Bool) => match r with | some rise => polTakes pol rise | none => false
    let a := sourceEdge (iu / 4) (s.iuSrcA iu) e.ev
    let b := sourceEdge (iu / 4) (s.iuSrcB iu) e.ev
    let isA := if iuMode c = 3 then a.isSome else takes (iuPolA c) a
    let isB := iuMode c == 1 && takes (iuPolB c) b
    if isA && isB then s.ivPush iu { at_ := e.at_, flags := e.flags, ev := .ab (a.getD true) }
    else if isA then s.ivPush iu { at_ := e.at_, flags := e.flags, ev := .a (a.getD true) }
    else if isB then s.ivPush iu { at_ := e.at_, flags := e.flags, ev := .b (b.getD true) }
    else s

/-! ### Results (R192 to R197, R201, Table 8.6) -/

structure IvResult where
  value : Nat
  count : Nat
  start : Time
  time : Time
  high : Bool
  partial_ : Bool
  summary : Bool
  loss : Bool
  flags : EvFlags
  deriving DecidableEq, Repr

def wrap55 : Nat := 2 ^ 55

/-- Time-base state in force at an instant. -/
def State.tbAt (s : State) (t : Time) : Nat :=
  match (s.time.tbHist.filter fun e => decide (e.1 ≤ t)).getLast? with
  | some e => e.2.toNat
  | none => 2

/-- Worst time base from `a` to `b`, and whether it changed (R197). -/
def State.tbSpan (s : State) (a b : Time) : Nat × Bool :=
  let ch := s.time.tbHist.filter fun e => decide (a < e.1) && decide (e.1 ≤ b)
  (ch.foldl (fun m e => max m e.2.toNat) (s.tbAt a), !ch.isEmpty)

def EvFlags.or (a b : EvFlags) : EvFlags :=
  { unstamped := a.unstamped || b.unstamped, coarse := a.coarse || b.coarse, pod := a.pod || b.pod }

/-- Flags in the order of Table 8.6, bit 0 first. -/
def resultFlags (unresolved overflow : Bool) (r : IvResult) (tbChanged gated : Bool) : Nat :=
  unresolved.toNat + 2 * overflow.toNat + 4 * r.partial_.toNat + 8 * r.summary.toNat + 16 * r.loss.toNat +
    32 * r.high.toNat + 64 * r.flags.coarse.toNat + 128 * r.flags.unstamped.toNat + 256 * r.flags.pod.toNat +
    512 * tbChanged.toNat + 1024 * gated.toNat

def intervalRec (iu mode rseq tb flags orphans abandoned skipped ovf value count : Nat) (t : Time) : Rec :=
  { width := 26, time := t
    words :=
      [ pack64 [(60, 4, 0xC), (56, 4, iu), (53, 3, mode), (45, 8, rseq), (43, 2, tb), (32, 11, flags), (26, 6, orphans)],
        pack64 [(58, 6, abandoned), (0, 55, value)], pack64 [(54, 10, skipped), (48, 6, ovf), (0, 48, count)] ] }

/-- A window of the free class: never skipped (R195), also not the short one that DISARM closes (log entry 112). -/
def iuFreeWindow (c : Word) : Bool := !iuGated c && (iuMode c == 4 || iuMode c == 5)

/-- A result is complete: emitted, or skipped when less than 16,384 ft after the last one (R195). A SUMMARY is always
emitted. A value of equal times is UNRESOLVED and not UNSTAMPED (R102, R193); that of a FREQ window with a single edge is 0
because n < 2, and not UNRESOLVED (DESIGN CHOICE, log entry 112). -/
def State.ivResult (s : State) (iu : Nat) (r : IvResult) : State :=
  let d := s.ival iu
  let c := s.iuCfg iu
  let skip := match d.lastTime with | some l => decide (r.time < l + 16384) && !r.summary && !iuFreeWindow c | none => false
  if skip then s.modIval iu fun d => { d with skipped := d.skipped + 1 }
  else
    let tb := s.tbSpan r.start r.time
    let ovf := sat 63 (r.value / wrap55 + d.wraps)
    let value := r.value % wrap55
    let unresolved := !r.summary && r.value == 0 && (iuMode c != 4 || decide (2 ≤ r.count))
    let r := if unresolved then { r with flags := { r.flags with unstamped := false } } else r
    let fl := resultFlags unresolved (decide (wrap55 ≤ r.value)) r tb.2 (iuGated c)
    let count := sat max48 r.count
    let o := sat 63 d.orphans
    let a := sat 63 d.abandoned
    let k := sat 1023 d.skipped
    let s := s.setReg64 (IU iu 0x20) value
    let s := s.setReg64 (IU iu 0x28) count
    let s := s.setReg64 (IU iu 0x30) (r.start % 2 ^ 64)
    let s := s.setReg64 (IU iu 0x38) (r.time % 2 ^ 64)
    let s := s.setReg (IU iu 0x40) (BitVec.ofNat 32 (d.rseq.toNat + iuMode c * 2 ^ 8 + tb.1 * 2 ^ 11 + fl * 2 ^ 13))
    let s := s.setReg (IU iu 0x44) (BitVec.ofNat 32 (o + a * 2 ^ 6 + ovf * 2 ^ 12 + k * 2 ^ 18))
    let s := s.incReg (IU iu 0x50)
    let s := s.writeAll (s.iuStreams iu) (intervalRec iu (iuMode c) d.rseq.toNat tb.1 fl o a k ovf value count r.time)
    s.modIval iu fun d => { d with
      rseq := d.rseq + 1, lastTime := some r.time, orphans := 0, abandoned := 0, skipped := 0, wraps := 0 }

/-- How often the value of the measurement in progress has reached 2^55 ft at `t` (R196). Free TOTALISE goes on from ARM. -/
def IvalDyn.reached (d : IvalDyn) (c : Word) (t : Time) : Nat :=
  match iuMode c with
  | 4 => match d.first with | some f => (d.last - f) / wrap55 | none => 0
  | 5 => match d.window with
    | some g0 => (t - if iuGated c then g0 else d.origin) / wrap55
    | none => 0
  | _ => match d.start with | some t0 => (t - t0) / wrap55 | none => 0

/-- IU_OVF_CNT counts each wrap when the value reaches it (R196). -/
def State.ivCount (s : State) (iu : Nat) (t : Time) : State :=
  let d := s.ival iu
  let w := d.reached (s.iuCfg iu) t
  if w ≤ d.counted then s
  else (s.addReg (IU iu 0x58) (w - d.counted)).modIval iu fun d => { d with counted := w }

/-- A measurement is abandoned at `t` and counted, with its wraps (R196, R199; log entry 102). -/
def State.ivAbandon (s : State) (iu t : Nat) : State :=
  let s := s.ivCount iu t
  let w := (s.ival iu).reached (s.iuCfg iu) t
  (s.modIval iu fun d => { d with
    start := none, periods := 0, counted := 0, abandoned := d.abandoned + 1, wraps := d.wraps + w }).incReg (IU iu 0x5C)

/-- The span touches a loss span of one of the job's sources (R198). -/
def IvalDyn.touched (d : IvalDyn) (a b : Time) : Bool :=
  d.losses.any fun l => decide (l.2.1 ≤ b) && (match l.2.2 with | some e => decide (a ≤ e) | none => true)

/-- A measured value: abandoned when its span touches a loss, else a result; its wraps are counted (R196). -/
def State.ivValue (s : State) (iu : Nat) (start time count : Nat) (high : Bool) (f : EvFlags) : State :=
  if (s.ival iu).touched start time then s.ivAbandon iu time
  else ((s.ivCount iu time).modIval iu fun d => { d with starts := 0, counted := 0 }).ivResult iu
    { value := time - start, count := count, start := start, time := time, high := high, partial_ := false
      summary := false, loss := false, flags := f }

/-- A window ends at `t` (FREQ and TOTALISE, R190 to R192), `f` being the flags of a gate edge that closes it. With no edge
in a FREQ window there is no t_f: START is a free value. -/
def State.ivWindowEnd (s : State) (iu : Nat) (t : Time) (partial_ loss : Bool) (f : EvFlags) : State :=
  let s := s.ivCount iu t
  let d := s.ival iu
  let c := s.iuCfg iu
  match d.window with
  | none => s
  | some g0 =>
    let lost := loss || d.touched g0 t
    if iuMode c = 4 then
      let free := s.draw 64
      let (start, s) := match d.first with | some f => (f, s) | none => (free.1.toNat, free.2)
      let v := if d.count < 2 then 0 else d.last - start
      s.ivResult iu
        { value := v, count := d.count, start := start, time := t, high := false, partial_ := partial_ || d.partial_
          summary := false, loss := lost, flags := d.flags }
    else if iuMode c = 5 then
      let v := if iuGated c then t - g0 else t - d.origin
      s.ivResult iu
        { value := v, count := if iuGated c then d.count else d.total, start := if iuGated c then g0 else d.origin
          time := t, high := false, partial_ := partial_ || d.partial_, summary := false, loss := lost
          flags := if iuGated c then (d.flags.or d.gateFlags).or f else d.flags }
    else s

/-- A window opens, at a gate edge with flags `f`. -/
def IvalDyn.openWindow (d : IvalDyn) (t : Time) (f : EvFlags) : IvalDyn :=
  { d with
    window := some t, count := 0, first := none, last := 0, partial_ := false, flags := EvFlags.none, gateFlags := f, counted := 0 }

/-- One edge of source A. In WIDTH, an edge of the same polarity as the pending start supersedes it (DESIGN CHOICE, log entry 112). -/
def State.ivA (s : State) (iu : Nat) (t : Time) (rise : Bool) (f : EvFlags) : State :=
  let d := s.ival iu
  match iuMode (s.iuCfg iu) with
  | 1 => s.modIval iu fun d => { d with start := some t, flags := f, starts := d.starts + 1, counted := 0 }
  | 2 =>
    match d.start with
    | none => s.modIval iu fun d => { d with start := some t, periods := 0, flags := f, counted := 0 }
    | some t0 =>
      if d.periods + 1 < s.iuN iu then s.modIval iu fun d => { d with periods := d.periods + 1, flags := d.flags.or f }
      else
        let s := s.ivValue iu t0 t (s.iuN iu) false (d.flags.or f)
        s.modIval iu fun d => { d with start := some t, periods := 0, flags := f, counted := 0 }
  | 3 =>
    let s := match d.start with
      | some t0 => if d.startRise ≠ rise then s.ivValue iu t0 t 1 d.startRise (d.flags.or f) else s
      | none => s
    s.modIval iu fun d => { d with
      start := if polTakes (iuPolA (s.iuCfg iu)) rise then some t else none, startRise := rise, flags := f, counted := 0 }
  | 4 => s.modIval iu fun d => { d with
      count := d.count + 1, first := match d.first with | some x => some x | none => some t, last := t
      flags := d.flags.or f }
  | 5 => s.modIval iu fun d => { d with count := d.count + 1, total := d.total + 1, flags := d.flags.or f }
  | _ => s

/-- One stop event of a TI job: an orphan when no start is pending (R194). -/
def State.ivB (s : State) (iu : Nat) (t : Time) (f : EvFlags) : State :=
  let d := s.ival iu
  match d.start with
  | none => (s.modIval iu fun d => { d with orphans := d.orphans + 1 }).incReg (IU iu 0x54)
  | some t0 =>
    let s := s.ivValue iu t0 t d.starts false (d.flags.or f)
    s.modIval iu fun d => { d with start := none }

/-- A measurement is in progress. -/
def State.ivPending (s : State) (iu : Nat) : Bool :=
  let c := s.iuCfg iu
  (s.ival iu).start.isSome && (iuMode c == 1 || iuMode c == 2 || iuMode c == 3)

/-- Take one event (R188 to R194, R199). In the gated class an event outside a window is not counted (R191). -/
def State.ivTake (s : State) (iu : Nat) (e : IvTimed) : State :=
  let c := s.iuCfg iu
  let inside := !iuGated c || (s.ival iu).window.isSome
  match e.ev with
  | .gateOpen => if (s.ival iu).window.isSome then s else s.modIval iu fun d => d.openWindow e.at_ e.flags
  | .gateClose =>
    let s := if s.ivPending iu then s.ivAbandon iu e.at_ else s
    let s := s.ivWindowEnd iu e.at_ false false e.flags
    s.modIval iu fun d => { d with window := none, start := none }
  | .a rise => if inside then s.ivA iu e.at_ rise e.flags else s
  | .b _ => if inside then s.ivB iu e.at_ e.flags else s
  | .ab rise => if inside then (s.ivB iu e.at_ e.flags).ivA iu e.at_ rise e.flags else s
  | .reset =>
    let s := if s.ivPending iu then s.ivAbandon iu e.at_ else s
    if (iuMode c = 4 || iuMode c = 5) && (s.ival iu).window.isSome then
      let s := s.ivCount iu e.at_
      let w := if iuMode c = 4 then (s.ival iu).reached c e.at_ else 0
      s.modIval iu fun d => { d with
        count := 0, first := none, last := 0, total := 0, partial_ := true, flags := EvFlags.none
        counted := if iuMode c = 4 then 0 else d.counted, wraps := d.wraps + w }
    else s
  | .lossA => if s.ivPending iu then s.ivAbandon iu e.at_ else s

/-- The end of the free window in progress, if the job has free windows (R190). -/
def State.freeEnd (s : State) (iu : Nat) : Option Time :=
  let c := s.iuCfg iu
  if !iuGated c && (iuMode c == 4 || iuMode c == 5) then
    match (s.ival iu).window with
    | some g0 => some (g0 + s.iuWindow iu)
    | none => none
  else none

/-- A free window ends and the next begins; TOTALISE goes on from ARM. -/
def State.freeNext (s : State) (iu : Nat) (t : Time) : State :=
  let tot := iuMode (s.iuCfg iu) == 5
  (s.ivWindowEnd iu t false false EvFlags.none).modIval iu fun d => { d.openWindow t EvFlags.none with
    windowIdx := d.windowIdx + 1
    flags := if tot then d.flags else EvFlags.none
    counted := if tot then d.counted else 0 }

/-- Take the first waiting event whose instant every source has passed; a free window that ends first goes first. -/
def State.ivStep (s : State) (iu : Nat) (bound : Int) : Option State :=
  match (s.ival iu).events with
  | [] => none
  | e :: rest =>
    let early := match s.freeEnd iu with | some w => decide (w ≤ e.at_) | none => false
    if early || bound < (e.at_ : Int) then none
    else some ((s.modIval iu fun d => { d with events := rest }).ivTake iu e)

/-- Take every event before an instant and end every free window up to it. -/
def State.ivDrain (iu : Nat) (upTo : Time) : Nat → State → State
  | 0, s => s
  | fuel + 1, s =>
    match s.ivStep iu ((upTo : Int) - 1) with
    | some s' => State.ivDrain iu upTo fuel s'
    | none =>
      match s.freeEnd iu with
      | some w => if w ≤ upTo && s.iuWindow iu ≠ 0 then State.ivDrain iu upTo fuel (s.freeNext iu w) else s
      | none => s

/-- A source of weave `w` is in a loss now: a lane out of service, a pod with an open loss (R198). -/
def State.srcLost (s : State) (w code : Nat) : Bool :=
  match code / 2 ^ 13 with
  | 1 =>
    let n := 48 * w + code % 64
    s.regBit (LN_STATUS n) 8 || (s.lane n).returning
  | 2 =>
    let d := s.pod (4 * w + code / 2048 % 4) (code / 64 % 32)
    d.linkLoss || d.broken
  | _ => false

/-- Start a job as at ARM (Table 8.5); losses of its sources that go on are its losses from the start. -/
def State.ivStart (s : State) (iu : Nat) (t : Time) (keepSeq : Bool) : State :=
  let d := s.ival iu
  let lost := fun (a : Bool) (code : Nat) => if s.srcLost (iu / 4) code then [(a, t, (none : Option Time))] else []
  let s := s.setIval iu { IvalDyn.init with
    rseq := if keepSeq then d.rseq else 0, origin := t, latched := d.latched
    losses := lost true (s.iuSrcA iu) ++ if iuMode (s.iuCfg iu) = 1 then lost false (s.iuSrcB iu) else []
    window := if !iuGated (s.iuCfg iu) && (iuMode (s.iuCfg iu) == 4 || iuMode (s.iuCfg iu) == 5) then some t else none }
  s.each [0x50, 0x54, 0x58, 0x5C] fun s o => s.setReg (IU iu o) 0

/-- End a job's work at `t` as DISARM does (Table 8.5); `loss` for a re-placement. -/
def State.ivStop (s : State) (iu : Nat) (t : Time) (loss : Bool) : State :=
  let w := s.iuWindow iu
  let d := s.ival iu
  let fuel := d.events.length + (if w = 0 then 0 else match d.window with | some g => (t - g) / w + 1 | none => 0) + 1
  let s := State.ivDrain iu t fuel s
  let s := if s.ivPending iu then s.ivAbandon iu t else s
  let s := if (s.ival iu).window = some t then s else s.ivWindowEnd iu t true loss EvFlags.none
  let d := s.ival iu
  let s := if d.wraps != 0 || d.orphans != 0 || d.abandoned != 0 || d.skipped != 0 then
      s.ivResult iu { value := 0, count := 0, start := t, time := t, high := false, partial_ := false, summary := true
                      loss := loss, flags := EvFlags.none }
    else s
  s.modIval iu fun d => { d with events := [], start := none, window := none, count := 0, starts := 0 }

/-! ### Losses of sources (R198) -/

/-- A loss of a source begins: the measurement pending at `t`, once earlier events are taken, is abandoned; a TI start is
kept across a loss of source B alone. -/
def State.ivLossBegin (s : State) (iu : Nat) (isA : Bool) (t : Time) : State :=
  let s := if isA then s.ivPush iu { at_ := t, flags := EvFlags.none, ev := .lossA } else s
  s.modIval iu fun d => { d with losses := d.losses ++ [(isA, t, none)] }

def State.ivLossEnd (s : State) (iu : Nat) (isA : Bool) (t : Time) : State :=
  s.modIval iu fun d => { d with
    losses := d.losses.map fun l => if l.1 = isA && l.2.2.isNone then (l.1, l.2.1, some t) else l }

/-- A source was in a loss from `t0` to `t1`. -/
def State.ivLossSpan (s : State) (iu : Nat) (isA : Bool) (t0 t1 : Time) : State :=
  let s := if isA then s.ivPush iu { at_ := t0, flags := EvFlags.none, ev := .lossA } else s
  s.modIval iu fun d => { d with losses := d.losses ++ [(isA, t0, some t1)] }

/-! ### Commands -/

def execIntervalEvent (iu : Fin 16) (s : State) : Host.Outcome State Fault Refusal :=
  .next ((s.ivStep iu (s.iuBound iu)).getD s)

/-- A free window ends once every source is complete up to its end and no earlier event waits. -/
def execFreeWindowEnd (iu : Fin 16) (s : State) : Host.Outcome State Fault Refusal :=
  .next (
    match s.freeEnd iu with
    | none => s
    | some w =>
      let waits := match (s.ival iu).events with | e :: _ => decide (e.at_ < w) | [] => false
      if waits || s.iuBound iu + 1 < (w : Int) || !s.time.armed then s else s.freeNext iu w)

/-- Stamp and flags of an edge at a pin's TDC, which locks and folds as a lane's does (R42, R45, R187, R403): a second edge
of an SCLK period takes the period's end and is unstamped; without lock an edge takes the period's middle and is coarse. -/
def pinStamp (x : PinEdge) : Time × EvFlags :=
  let e := ceilDiv x.at_ coarseTick * coarseTick
  (if x.second then e else if x.coarse then e - coarseTick / 2 else x.at_
  , { unstamped := x.second, coarse := x.coarse && !x.second, pod := false })

/-- A GATE_IN edge is a source event (Table 8.2) and opens or closes the windows of the units it gates (R191). -/
def execGateInEdge (pin : Fin 4) (rise : Bool) (edge : PinEdge) (s : State) : Host.Outcome State Fault Refusal :=
  .next (
    let x := pinStamp edge
    let at_ := s.sessionTime x.1
    if !s.time.armed || at_ < s.time.armTime then s
    else s.each ((List.range 16).filter fun i => iuEnable (s.iuCfg i)) fun s iu =>
    let c := s.iuCfg iu
    let s := s.ivalEvent iu { at_ := at_, flags := x.2, ev := .gateIn pin rise }
    if iuGated c && iuGate c == pin.val && !s.isShed (objKey 5 (iuJob c)) then
      s.ivPush iu { at_ := at_, flags := x.2, ev := if rise != iuGateLow c then .gateOpen else .gateClose }
    else s)

/-! ### DEFINE_INTERVAL (R184, R186, R192) -/

/-- A source code's bits are legal: bit position of the first offending bit from `base`. -/
def checkSource (code base : Nat) : Option Nat :=
  let bad := fun (lo hi : Nat) => (lowestBit (code % 2 ^ hi / 2 ^ lo) (hi - lo)).map (· + lo + base)
  match code / 2 ^ 13 with
  | 0 => bad 0 13
  | 1 => firstBad [if code % 64 < 48 then none else some base, if code / 64 % 4 < 3 then none else some (base + 6), bad 8 13]
  | 2 => none
  | 3 => bad 2 13
  | 4 => bad 2 13
  | 5 => bad 0 13
  | _ => some (base + 13)

def checkDefineInterval (p : List Byte) : List (Option Nat) :=
  let mode := iCfg p / 4 % 8
  let gated := iCfg p / 2 % 2
  [ ckRsv p 0 4 (2 ^ 32 - 2 ^ 12),
    (if 6 ≤ mode then some 2 else none),
    (let pol := iCfg p / 32 % 4
     if (pol = 0 ∨ (mode = 2 ∧ pol = 3)) ∧ iSrc p % 2 ^ 16 / 2 ^ 13 ≠ 5 then some 5 else none),
    (if mode = 1 ∧ iCfg p / 128 % 4 = 0 ∧ iSrc p / 2 ^ 29 ≠ 5 then some 7 else none),
    checkSource (iSrc p % 2 ^ 16) 32, checkSource (iSrc p / 2 ^ 16) 48,
    (if mode ≠ 1 ∧ iSrc p / 2 ^ 16 ≠ 0 then some 48 else none),
    (if gated = 1 then (if iGateTime p = 0 then none else some 64)
     else if mode = 4 ∨ mode = 5 then (if 64 ≤ iGateTime p then none else some 64) else none),
    (if mode = 2 ∧ iN p = 0 then some (8 * 0x0C) else none),
    ckFld p 0x0E 0 8 (· < 4), ckFld p 0x0F 0 8 (· ≤ 8),
    ckZero p (0x10 + 4 * min 8 (iStreamN p)) (4 * (8 - min 8 (iStreamN p))) ]

def handlesDefineInterval (p : List Byte) : List HandleUse :=
  (iStreams p).zipIdx.map fun x => { handle := x.1, at_ := some (0x10 + 4 * x.2), types := [1], optional := false }

def srcOnWeave (code : Nat) : Bool := code / 2 ^ 13 == 1 || code / 2 ^ 13 == 2

def defineIntervalCmd (img : MbImage) (s : State) : State × Option Response :=
  let p := img.payload
  checked s [refusalIf (s.weaveAbsent (iWeave p) && (srcOnWeave (iSrc p % 2 ^ 16) || srcOnWeave (iSrc p / 2 ^ 16)))
      stNoUnit 0x0E]
    (done (s.stageDef 5 (hIdx img.handle) (padTo 48 p)) [])

def execDefineInterval (m : Fin 32) (s : State) : Host.Outcome State Fault Refusal :=
  .next (s.runCommand m 0x0024 (fun _ => true) defineIntervalCmd)

end Sys2Proof.Machine
end

