-- ==== Sys2Proof/Machine/LaneOps.lean ====
section
/-!
DEFINITION. Fine lanes (chapter 2), the operations: configuration fields, the edge encoder of R51, blocks, logical crossings,
the feed of the live units, and retirement.
-/
namespace Sys2Proof.Machine

/-! ### Fields (Tables 2.5 to 2.10) -/

def State.lnRate (s : State) (n : Nat) : Nat := s.regF (LN_CFG n) 3 2
def State.lnK (s : State) (n : Nat) : Nat := s.regF (LN_CFG n) 8 8
def State.lnClkLane (s : State) (n : Nat) : Nat := 16 * (n / 16) + s.regF (LN_CFG n) 16 4
def State.lnClkEdge (s : State) (n : Nat) : Nat := s.regF (LN_CFG n) 20 2
/-- Follow interval of a comparator in ft. -/
def State.lnFollow (s : State) (n : Nat) (c : Comp) : Nat :=
  coarseTick * (match c with | .l => s.regF (LN_FOLLOW n) 0 16 | .u => s.regF (LN_FOLLOW_U n) 0 16)
def State.lnDelay (s : State) (n : Nat) : Int := sint 12 (s.regF (LN_STATE_DLY n) 0 12)
def State.lnRetired (s : State) (n : Nat) : Bool := s.regBit (LN_STATUS n) 8
/-- The lane is out of service: retired, or back from retirement but not yet in an epoch (R48). -/
def State.lnGone (s : State) (n : Nat) : Bool := s.lnRetired n || (s.lane n).returning
/-- The lane's front end runs: not off, in service, fitted, and the capture dies powered. -/
def State.lnLive (s : State) (n : Nat) : Bool :=
  s.lnMode n != 0 && !s.lnGone n && !s.laneAbsent n && !s.asleep

def LaneDyn.comp (d : LaneDyn) : Comp → CompDyn
  | .l => d.l
  | .u => d.u
def LaneDyn.setComp (d : LaneDyn) (c : Comp) (v : CompDyn) : LaneDyn :=
  match c with
  | .l => { d with l := v }
  | .u => { d with u := v }
def State.modComp (s : State) (n : Nat) (c : Comp) (f : CompDyn → CompDyn) : State :=
  s.modLane n fun d => d.setComp c (f (d.comp c))

def isU : Comp → Bool
  | .l => false
  | .u => true

def laneState (mode : Nat) (d : LaneDyn) : BitVec 2 := threshState mode d.l.high d.u.high
def State.lnState (s : State) (n : Nat) : BitVec 2 := laneState (s.lnMode n) (s.lane n)

/-- State in force after the last edge stamped at or before `t` (R60, R138); the earliest known state before that. -/
def stateAt (h : List (Time × BitVec 2)) (t : Int) : BitVec 2 :=
  match (h.filter fun e => decide ((e.1 : Int) ≤ t)).getLast? with
  | some e => e.2
  | none => match h.head? with | some e => e.2 | none => 0

/-- An entry joins a lane's history in order of time; one at the same instant as others comes after them. -/
def insertState (e : LaneEv) : List LaneEv → List LaneEv
  | [] => [e]
  | x :: l => if e.at_ < x.at_ then e :: x :: l else x :: insertState e l

/-- The history is forgotten: what the outputs are now is what they were. -/
def LaneDyn.forget (d : LaneDyn) : LaneDyn := { d with history := [], baseL := d.l.high, baseU := d.u.high }

/-- The stream that receives the lane's records while armed. -/
def State.lnStream (s : State) (n : Nat) : Option Nat := if s.time.armed then s.laneStream n else none

/-- A record's words pass the queue of the lane's stake (R226): its consumer, the hub staging, takes them as they come (log entry 104). -/
def State.passStake (s : State) (n words : Nat) : State :=
  s.modQueue (stakeQ (n / 16)) fun d => { d with released := d.released + BitVec.ofNat 32 words }

/-- Write a record of a lane; it restarts the keepalive count (R56). -/
def State.putLaneRec (s : State) (n : Nat) (r : Rec) (t : Time) : State :=
  match s.lnStream n with
  | none => s
  | some i => ((s.passStake n r.words.length).writeRec i r).modLane n fun d => { d with lastRecord := max d.lastRecord t }

/-- A LEVEL that waits is written, with the state that the edges up to now have left (R51, log entry 96). -/
def State.flushLevel (s : State) (n : Nat) : State :=
  match (s.lane n).levelDue with
  | none => s
  | some x => (s.modLane n fun d => { d with levelDue := none }).putLaneRec n (levelRec n (s.lnState n).toNat x.1 x.2) x.2

/-- Write a record of a lane, after the LEVEL that waits. -/
def State.laneRec (s : State) (n : Nat) (r : Rec) (t : Time) : State := (s.flushLevel n).putLaneRec n r t

/-- LEVEL with a reason (Table 9.6). -/
def State.laneLevel (s : State) (n reason : Nat) (t : Time) : State :=
  s.laneRec n (levelRec n (s.lnState n).toNat reason t) t

/-- A LEVEL for an instant before which edges may still arrive (R51): at ARM, at an epoch, after a loss. -/
def State.levelLater (s : State) (n reason : Nat) (t : Time) : State :=
  if (s.lnStream n).isSome then (s.flushLevel n).modLane n fun d => { d with levelDue := some (reason, t) } else s

/-! ### The encoder of R51 -/

/-- Close an open burst at T and set E := T + 2F. -/
def State.closeBurst (s : State) (n : Nat) (c : Comp) (t : Time) : State :=
  match ((s.lane n).comp c).burst with
  | none => s
  | some b =>
    let s := s.laneRec n (burstRec n (isU c) (s.lnState n).toNat (b.coarse || b.lastCoarse) b.first b.count (b.last - b.first)) t
    let s := s.modComp n c fun d => { d with burst := none, e := t + 2 * s.lnFollow n c }
    s.incReg (LN_BURSTS n)

/-- The close conditions of R51 at the SCLK edge T. -/
def burstDue (f : Nat) (d : CompDyn) (t : Time) : Bool :=
  match d.burst with
  | none => false
  | some b => (decide (b.last + f ≤ t) && decide (d.e ≤ t)) || decide (b.first + 2 ^ 24 ≤ t)

/-- An edge at `t` of a recording comparator (R51). -/
def State.encodeEdge (s : State) (n : Nat) (c : Comp) (rise stamped coarse : Bool) (t : Time) : State :=
  let d := (s.lane n).comp c
  match d.burst with
  | some b =>
    s.modComp n c fun d => { d with burst := some { b with count := b.count + 1, last := max b.last t, lastCoarse := coarse } }
  | none =>
    if d.e ≤ t && stamped then
      let s := s.laneRec n (fineEdge n (isU c) rise coarse t) t
      s.modComp n c fun d => { d with e := t + s.lnFollow n c }
    else s.modComp n c fun d => { d with burst := some { first := t, count := 1, last := t, coarse := coarse, lastCoarse := coarse } }

/-! ### Blocks (R59, R60, R213) -/

/-- 63 words of 32 samples. -/
def blockSamples : Nat := 2016

/-- Resolve the waiting instants of a state block that pass. -/
def BlockDyn.resolve (b : BlockDyn) (h : List (Time × BitVec 2)) (p : Time → Bool) : BlockDyn :=
  { b with
    samples := b.samples ++ (b.waiting.takeWhile p).map fun (t : Time) => stateAt h (t : Int)
    waiting := b.waiting.dropWhile p }

/-- The RAW_BLOCK or STATE_BLOCK record of a block; one without samples has none. -/
def State.writeBlk (s : State) (n : Nat) (b : BlockDyn) (t : Time) : State :=
  if b.samples.isEmpty then s
  else if s.lnMode n = 4 then s.laneRec n (stateBlock n b.skipped b.samples b.start) t
  else s.laneRec n (rawBlock n (s.lnRate n) b.samples b.start) t

/-- What a close leaves open: sampling instants that it has not reached begin the next block, which takes over the skipped
clocks of blocks without a sample (log entry 97). -/
def restBlock (bs : List BlockDyn) : Option BlockDyn :=
  let w := bs.flatMap (·.waiting)
  match w with
  | [] => none
  | t :: _ => some { start := t, samples := [], waiting := w, skipped := sumOn (bs.filter (·.samples.isEmpty)) (·.skipped) }

/-- No edge of the lane stamped at or before `t` can come any more at the end of the slot in progress (R60, R462). -/
def State.sampleKnown (s : State) (n : Nat) (t : Time) : Bool :=
  decide (t + 32 * slotFt + slotFt * s.dNeg [n] ≤ s.slotEnd)

/-- Close a lane's blocks at `t` (R59, R60): the instants that `known` passes take their samples. -/
def State.closeBlocks (s : State) (n : Nat) (t : Time) (known : Time → Bool) : State :=
  let d := s.lane n
  let bs := (d.full ++ d.block.toList).map (·.resolve (s.lnStates n) known)
  let s := s.modLane n fun d => { d with full := [], block := restBlock bs }
  s.each bs fun s b => s.writeBlk n b t

/-- An early close while the lane goes on: an instant that a later edge may still precede begins the next block (R60). -/
def State.closeBlock (s : State) (n : Nat) (t : Time) : State := s.closeBlocks n t (s.sampleKnown n)

/-- The lane's blocks end at `t`: instants up to `t` take their samples from the edges that have come, and what they have not
reached is not sampled (DESIGN CHOICE, log entry 97). -/
def State.endBlock (s : State) (n : Nat) (t : Time) : State :=
  (s.closeBlocks n t fun x => decide (x ≤ t)).modLane n fun d => { d with block := none, full := [] }

/-- Full state blocks whose samples are all taken are written. -/
def State.writeFull (s : State) (n : Nat) (t : Time) : State :=
  let bs := (s.lane n).full
  let s := s.modLane n fun d => { d with full := d.full.filter fun b => !b.waiting.isEmpty }
  s.each (bs.filter (·.waiting.isEmpty)) fun s b => s.writeBlk n b t

/-- One sample joins a raw block, which closes when full. -/
def State.rawSample (s : State) (n : Nat) (t : Time) (v : BitVec 2) : State :=
  let s := match (s.lane n).block with
    | some b => if blockSamples ≤ b.samples.length then s.closeBlock n t else s
    | none => s
  s.modLane n fun d => { d with
    block := match d.block with
      | some b => some { b with samples := b.samples ++ [v] }
      | none => some { start := t, samples := [v], waiting := [], skipped := 0 } }

/-- A clock edge at `t` reaches a state-mode lane: a sample, or a skipped clock when less than 256 ft after the last
accepted one (R60). The spec names only the current block's count of skipped clocks: one skipped while no block is open counts
nowhere (DESIGN CHOICE, log entry 97). -/
def State.stateClock (s : State) (n : Nat) (t : Time) : State :=
  let d := s.lane n
  let soon := match d.lastClock with | some l => decide (t < l + 256) | none => false
  if soon then
    s.modLane n fun d => { d with block := d.block.map fun b => { b with skipped := b.skipped + 1 } }
  else
    let at_ := ((t : Int) + s.lnDelay n).toNat
    let s := match d.block with
      | some b => if blockSamples ≤ b.samples.length + b.waiting.length then
          s.modLane n fun d => { d with block := none, full := d.full ++ [b] } else s
      | none => s
    s.modLane n fun d => { d with
      lastClock := some t
      block := match d.block with
        | some b => some { b with waiting := b.waiting ++ [at_] }
        | none => some { start := at_, samples := [], waiting := [at_], skipped := 0 } }

/-! ### Feeding the live units -/

/-- A compare unit's level event. -/
def State.feedCompare (s : State) (w cin : Nat) (t : Time) (v : Bool) (f : EvFlags) : State :=
  if s.time.armed then s.each (s.weaveCus w) fun s cu => s.cmpEvent cu cin t v f else s

/-- An event reaches the interval units of a weave. -/
def State.feedInterval (s : State) (w : Nat) (e : TimedEv) : State :=
  s.each (s.weaveIus w) fun s iu => s.ivalEvent iu e

/-- An input event reaches the terms, the histogram unit and the interval units of weave `w` (R54, R166, R186). -/
def State.feed (s : State) (w : Nat) (e : TimedEv) : State :=
  if !s.time.armed || e.at_ < s.time.armTime then s
  else
    let s := s.modTrig fun t => { t with inputs := t.inputs ++ [e] }
    let s := s.each (s.rgActive w) fun s r => s.histEvent w r e
    s.feedInterval w e

/-- A logical crossing of a lane (R61, R62). -/
def State.crossing (s : State) (n : Nat) (rise : Bool) (t later : Time) (pair : Option Nat) (f : EvFlags) : State :=
  let s := s.modLane n fun d => { d with logical := rise }
  let s := s.feed (n / 48) { at_ := t, flags := f, ev := .crossing n rise pair later }
  if s.time.armTime ≤ t then s.feedCompare (n / 48) (n % 48) t rise f else s

/-- The level that the units following the lane take at the instant from which it pairs, until its first crossing after that
(R62, R138). -/
def State.takeLevel (s : State) (n : Nat) : State :=
  let d := s.lane n
  let v := stateAt (s.lnStates n) (d.pairFrom : Int) == 3
  let crossed := d.history.any fun e => e.edge && decide (d.pairFrom < e.at_)
  (s.modLane n fun d => { d with logical := if crossed then d.logical else v }).each (s.weaveCus (n / 48)) fun s cu =>
    s.setLevel cu (n % 48) d.pairFrom v

/-- Longest pairing of R62: 2^20 ft. -/
def pairLimit : Nat := 2 ^ 20

/-- The crossing that an edge of a dual-threshold lane makes, with the edges that wait for a partner. -/
def State.pairEdge (s : State) (n : Nat) (c : Comp) (rise : Bool) (t : Time) (f : EvFlags) : State :=
  let k := s.lnK n
  let d := s.lane n
  match c, rise with
  | .l, true => s.modLane n fun d => { d with pendL := some (t, f) }
  | .u, false => s.modLane n fun d => { d with pendU := some (t, f) }
  | .u, true =>
    let s := s.modLane n fun d => { d with pendU := none }
    match d.pendL with
    | some (tl, fl) =>
      if t - tl ≤ pairLimit && tl ≤ t then
        s.crossing n true (tl + (2 * k * (t - tl) + 256) / 512) t (some (t - tl)) (f.or fl)
      else s.crossing n true t t none f
    | none => s.crossing n true t t none f
  | .l, false =>
    let s := s.modLane n fun d => { d with pendL := none }
    match d.pendU with
    | some (tu, fu) =>
      if t - tu ≤ pairLimit && tu ≤ t && k != 0 then
        s.crossing n false (tu + (2 * (256 - k) * (t - tu) + 256) / 512) t (some (t - tu)) (f.or fu)
      else s.crossing n false t t none f
    | none => s.crossing n false t t none f

/-! ### Losses of a lane for compares and intervals (R156, R198) -/

/-- Items of an input whose span reaches `t` become unjudged. -/
def State.cmpLossBegin (s : State) (cu cin : Nat) (t : Time) : State :=
  if (s.cmp cu).losses.any fun l => l.1 == cin && l.2.2.isNone then s
  else (s.modCmp cu fun c => { c with losses := c.losses ++ [(cin, t, none)] }).unjudgeSpan cu cin t t

/-- The loss ends at `t`: items whose span touches it are unjudged. -/
def State.cmpLossEnd (s : State) (cu cin : Nat) (t : Time) : State :=
  match (s.cmp cu).losses.find? fun l => l.1 == cin && l.2.2.isNone with
  | none => s
  | some l =>
    (s.modCmp cu fun c => { c with
      losses := c.losses.map fun x => if x = l then (cin, l.2.1, some t) else x }).unjudgeSpan cu cin l.2.1 t

/-- The unit's sources that pass: whether A, whether B. -/
def State.iuUses (s : State) (iu : Nat) (p : Nat → Bool) : Bool × Bool :=
  (p (s.iuSrcA iu), iuMode (s.iuCfg iu) == 1 && p (s.iuSrcB iu))

def State.srcLoss (s : State) (w : Nat) (p : Nat → Bool) (begin_ : Bool) (t : Time) : State :=
  if !s.time.armed then s
  else s.each (s.weaveIus w) fun s iu =>
    let u := s.iuUses iu p
    let s := if u.1 then (if begin_ then s.ivLossBegin iu true t else s.ivLossEnd iu true t) else s
    if u.2 then (if begin_ then s.ivLossBegin iu false t else s.ivLossEnd iu false t) else s

/-- A loss span of a source, for the interval units that use it. -/
def State.srcLossSpan (s : State) (w : Nat) (p : Nat → Bool) (t0 t1 : Time) : State :=
  if !s.time.armed then s
  else s.each (s.weaveIus w) fun s iu =>
    let u := s.iuUses iu p
    let s := if u.1 then s.ivLossSpan iu true t0 t1 else s
    if u.2 then s.ivLossSpan iu false t0 t1 else s

/-- A loss span of a compare input: items that it touches are unjudged (R156). -/
def State.cmpLossSpan (s : State) (cu cin : Nat) (t0 t1 : Time) : State :=
  (s.modCmp cu fun c => { c with losses := c.losses ++ [(cin, t0, some t1)] }).unjudgeSpan cu cin t0 t1

def srcIsLane (n code : Nat) : Bool := code / 2 ^ 13 == 1 && code % 64 == n % 48

/-! ### Retirement (R48) -/

/-- LOSS cause REPLACE (Table 9.17). -/
def causeReplace : Nat := 6

/-- The lane is in service again at `t`: what its loss was for the units that take it in is over (R156, R198). -/
def State.laneBack (s : State) (n : Nat) (t : Time) : State :=
  let s := if s.time.armed then s.each (s.weaveCus (n / 48)) fun s cu => s.cmpLossEnd cu (n % 48) t else s
  s.srcLoss (n / 48) (srcIsLane n) false t

/-- State-mode lanes clocked by lane `n`. -/
def State.clockedBy (s : State) (n : Nat) : List Nat :=
  ((List.range 16).map (16 * (n / 16) + ·)).filter fun d => s.lnMode d == 4 && s.lnClkLane d == n && d != n

/-- A unit joins the retired ones (R309), ascending. -/
def State.addRetired (s : State) (u : Word) : State :=
  let s := s.modWeaver fun w => { w with
    retired := (w.retired.filter (·.toNat < u.toNat)) ++ u :: (w.retired.filter (u.toNat < ·.toNat)) }
  (s.storeMeta .retired).setReg HUB_RETIRED (BitVec.ofNat 32 s.weaver.retired.length)

/-- The lane stops at `t` (R48): bursts and blocks close, the losses open, the notice and record follow, ALERT_N asserts. -/
def State.retireLane (s : State) (n cls : Nat) (t : Time) : State :=
  if s.lnRetired n then s
  else
    let s := (s.closeBurst n .l t).closeBurst n .u t
    let s := s.endBlock n t
    let s := (s.setRegBit (LN_STATUS n) 8 true).addRetired (uLane n)
    let s := s.modLane n fun d => { d with pendL := none, pendU := none }
    let s := match s.laneStream n with
      | some i => s.openLoss i causeReplace 1 n t t 0
      | none => s
    let s := s.each (s.clockedBy n) fun s d =>
      let s := s.endBlock d t
      match s.laneStream d with | some i => s.openLoss i causeReplace 1 d t t 0 | none => s
    let s := if s.time.armed then s.each (s.weaveCus (n / 48)) fun s cu => s.cmpLossBegin cu (n % 48) t else s
    let s := s.srcLoss (n / 48) (srcIsLane n) true t
    let s := (s.ledRetired (uLane n) cls).noticeRetired (uLane n) cls
    s.alertEvent false

end Sys2Proof.Machine
end

