-- ==== Sys2Proof/Machine/PodOps.lean ====
section
/-!
DEFINITION. Osier pod ports (chapter 3), the operations: frames and their check, pod words, losses of pods, enumeration,
chain breaks, and configuration mismatches (R318).
-/
namespace Sys2Proof.Machine

/-! ### Ports and pods -/

def superframeQ : Nat := 1056
def superframeFt : Nat := 540672
def podIndex (p pos : Nat) : Nat := 32 * p + pos
def State.ppPods (s : State) (p : Nat) : Nat := s.regF (PP_STATUS p) 1 6
def State.ppLock (s : State) (p : Nat) : Bool := s.regBit (PP_STATUS p) 0
def State.ppRetired (s : State) (p : Nat) : Bool := s.regBit (PP_STATUS p) 20
/-- The trigger pod's position (R75). -/
def State.ppTrig (s : State) (p : Nat) : Option Nat :=
  if s.regBit (PP_STATUS p) 14 then some (s.regF (PP_STATUS p) 15 5) else none
def State.podHere (s : State) (p pos : Nat) : Bool := bit (s.reg (PP_PRESENT p)) pos
def State.podsHere (s : State) (p : Nat) : List Nat := filterRange 32 (s.podHere p)
/-- Position that owns a frame slot in the active table. -/
def State.slotOwner (s : State) (p f : Nat) : Option Nat :=
  if s.regBit (PP_SLOT p f) 5 then some (s.regF (PP_SLOT p f) 0 5) else none
def State.slotsOf (s : State) (p pos : Nat) : Nat := ((List.range 62).filter fun f => s.slotOwner p f == some pos).length

/-- Session time of a link time. -/
def State.linkTime (s : State) (p : Nat) (q : Nat) : Time := (512 * (q : Int) + (s.port p).cBase).toNat
/-- The full link time of a 40-bit pod time (R73); a pod time outside the range of R73 has none in the spec: free. -/
def State.extendQ (s : State) (p q : Nat) : Nat × State :=
  let l := s.linkNow p
  let back := ((l - (q : Int)) % (2 ^ 40 : Int)).toNat
  if back < 2 ^ 39 ∧ (back : Int) ≤ l then ((l - back).toNat, s)
  else let d := s.draw 40; (d.1.toNat, d.2)

/-! ### Losses of pods (Table 3.7) -/

def causeLinkCheck : Nat := 2
def causeBudget : Nat := 3
def causeBreak : Nat := 4

/-- Last TIME that a pod delivered, or now where there is none. -/
def State.podLast (s : State) (p pos : Nat) : Time :=
  match (s.pod p pos).lastQ with
  | some q => s.linkTime p q
  | none => s.now

/-- Where a LINK_CHECK loss of a pod begins (Table 3.7). -/
def State.podFrom (s : State) (p pos : Nat) : Time :=
  match (s.pod p pos).lastFrame with
  | some t => (t + (s.port p).cBase).toNat
  | none => s.now

/-- The stream that takes a pod's words: the intent names the pod that stands at the position (R81). -/
def State.podSink (s : State) (p pos : Nat) : Option Nat :=
  match Tbl.find? s.weaver.committed.pods (podIndex p pos) with
  | some c => if c.serial = (s.pod p pos).serial then s.podStream (podIndex p pos) else none
  | none => none

def srcIsPod (p pos code : Nat) : Bool := code / 2 ^ 13 == 2 && code / 2048 % 4 == p % 4 && code / 64 % 32 == pos

/-- The pod's channels are in a loss from `t`, for the compare and interval units of its weave (R156, R198). -/
def State.podUnitLoss (s : State) (p pos : Nat) (begin_ : Bool) (t : Time) : State :=
  if !s.time.armed then s
  else
    let s := s.srcLoss (p / 4) (srcIsPod p pos) begin_ t
    s.each (s.weaveCus (p / 4)) fun s cu => s.each (List.range 64) fun s ch =>
      if begin_ then s.cmpLossBegin cu (cinPod (p % 4) pos ch) t else s.cmpLossEnd cu (cinPod (p % 4) pos ch) t

/-- The pod's channels were in a loss from `t0` to `t1`. -/
def State.podUnitSpan (s : State) (p pos : Nat) (t0 t1 : Time) : State :=
  if !s.time.armed then s
  else
    let s := s.srcLossSpan (p / 4) (srcIsPod p pos) t0 t1
    s.each (s.weaveCus (p / 4)) fun s cu => s.each (List.range 64) fun s ch => s.cmpLossSpan cu (cinPod (p % 4) pos ch) t0 t1

/-- A compare unit begins to follow its inputs at `t`: their present levels, and the losses in force (R62, R156). -/
def State.freshCompare (s : State) (cu : Nat) (t : Time) : State :=
  let w := cu / 2
  let lanes := (List.range 48).filter fun k => s.lnGone (48 * w + k)
  let pods := (List.range 4).flatMap fun k => ((s.port (4 * w + k)).pods.keys.filter fun pos =>
    (s.pod (4 * w + k) pos).linkLoss || (s.pod (4 * w + k) pos).broken).flatMap fun pos =>
      (List.range 64).map fun ch => cinPod k pos ch
  s.setCmp cu { CmpDyn.init with
    base := (List.range 48).foldl (fun b k => Tbl.put b k (s.lane (48 * w + k)).logical) ([] : Tbl Bool)
    horizon := t, losses := (lanes ++ pods).map fun c => (c, t, none) }

/-- Levels of the trigger pod's channels become unknown (R106). -/
def State.forgetLevels (s : State) (p pos : Nat) : State :=
  if s.ppTrig p = some pos then s.modPort p fun d => { d with levels := [] } else s

/-- Pod duration measurements of the trigger pod end with a loss; a timeout restarts from the end of the span (R108).
The key is that of `TrigState.meas`. -/
def State.podMeasLoss (s : State) (p pos : Nat) (begin_ : Bool) (t : Time) : State :=
  if s.ppTrig p = some pos then
    s.each (List.range 8) fun s u =>
      let key := 256 * (p / 4) + 0xA0 + 8 * (p % 4) + u
      let kind := s.regF (PP p (0x600 + 0x20 * u)) 0 3
      if kind = 0 then s
      else if begin_ then s.modTrig fun g => { g with meas := Tbl.del g.meas key }
      else if kind = 4 then s.modTrig fun g => { g with
        meas := Tbl.put g.meas key { start := some t, flags := EvFlags.none, fired := 0, start2 := none } }
      else s
  else s

/-- A pod's words are lost on the link: `words` more under LINK_CHECK. -/
def State.linkLossAdd (s : State) (p pos words : Nat) : State :=
  if (s.pod p pos).broken then s
  else
    let from_ := s.podFrom p pos
    let s := s.addReg (PP_LOST_LINK p) words
    let s := match (if s.time.armed then s.podStream (podIndex p pos) else none) with
      | some i => s.openLoss i causeLinkCheck 2 (podIndex p pos) from_ s.now words
      | none => s
    let s := if (s.pod p pos).linkLoss then s else (s.podUnitLoss p pos true from_).podMeasLoss p pos true from_
    (s.modPod p pos fun d => { d with linkLoss := true }).forgetLevels p pos

/-- A LINK_CHECK loss ends at `t`. -/
def State.linkLossEnd (s : State) (p pos : Nat) (t : Time) : State :=
  if !(s.pod p pos).linkLoss then s
  else
    let s := match s.podStream (podIndex p pos) with
      | some i => s.closeLoss i causeLinkCheck 2 (podIndex p pos) t
      | none => s
    ((s.podUnitLoss p pos false t).podMeasLoss p pos false t).modPod p pos fun d => { d with linkLoss := false }

/-- A pod is lost for good: CHAIN_BREAK or, with the port retired, REPLACE (Table 3.7). -/
def State.podBreak (s : State) (p pos cause : Nat) : State :=
  if (s.pod p pos).broken then s
  else
    let from_ := s.podLast p pos
    let s := s.linkLossEnd p pos s.now
    let s := match (if s.time.armed then s.podStream (podIndex p pos) else none) with
      | some i => s.openLoss i cause 2 (podIndex p pos) from_ s.now 0
      | none => s
    let s := (s.podUnitLoss p pos true from_).forgetLevels p pos
    s.modPod p pos fun d => { d with broken := true, lossClosed := false, pending := [] }

/-- A pod is back: its CHAIN_BREAK loss ends. -/
def State.podRestored (s : State) (p pos : Nat) : State :=
  if !(s.pod p pos).broken then s
  else
    let s := match s.podStream (podIndex p pos) with
      | some i => s.closeLoss i causeBreak 2 (podIndex p pos) s.now
      | none => s
    (s.podUnitLoss p pos false s.now).modPod p pos fun d => { d with broken := false }

/-! ### Frames (R68 to R70) -/

/-- CRC of a frame: the pod words and bytes 1 to 3 of the CHECK block (R68). -/
def frameCrc (f : PodFrame) : Nat :=
  (crc32 (bytesOf f.words ++ slice (leBytes 8 f.check.toNat) 1 3)).toNat

/-- Everything of R69 but the sequence number. -/
def frameSound (f : PodFrame) (owner : Nat) : Bool :=
  f.headersValid && f.words.length == 15 && f.checkType == 0xC3 && frameCrc f == fld f.check 32 32 &&
    fld f.check 8 5 == owner

/-- A pod word reaches the terms in the slot after the frame's CHECK block (R75). -/
def State.laterTerm (s : State) (e : TimedEv) : State := s.modTrig fun g => { g with later := g.later ++ [e] }

/-- A TRANSITION or DROPOUT word of an accepted frame becomes a record and reaches the live units (R70, R75, R138). -/
def State.podWord (s : State) (p pos : Nat) (w : DWord) : State :=
  let kind := fld w 60 4
  if kind = 0 then s
  else if kind ≠ 1 ∧ kind ≠ 2 then s.addReg (PP_LOST_LINK p) 1
  else
    let ch := fld w 54 6
    let level := bit w 53
    let width := if kind = 2 then fld w 40 13 else 0
    let x := s.extendQ p (fld w 0 40)
    let s := x.2
    let t := s.linkTime p x.1
    let s := s.modPod p pos fun d => { d with lastQ := some x.1, lastFrame := some (512 * (x.1 : Int)) }
    let fl : EvFlags := { unstamped := false, coarse := false, pod := true }
    let pod := podIndex p pos
    let wv := p / 4
    let cin := cinPod (p % 4) pos ch
    if !s.time.armed || t < s.time.armTime then
      if s.ppTrig p = some pos then s.modPort p fun d => { d with levels := Tbl.put d.levels ch level } else s
    else
      let s := match s.podSink p pos with
        | some i => s.writeRec i (podEdge pod ch level (kind == 2) width t)
        | none => s
      if kind = 1 then
        let s := s.laterTerm { at_ := t, flags := fl, ev := .podEdge pod ch level }
        (s.feedInterval wv { at_ := t, flags := fl, ev := .podEdge pod ch level }).feedCompare wv cin t level fl
      else
        let t2 := t + 512 * width
        let s := s.laterTerm { at_ := t, flags := fl, ev := .dropout pod ch level width }
        let s := s.each (s.rgActive wv) fun s r => s.histEvent wv r { at_ := t, flags := fl, ev := .dropout pod ch level width }
        let s := s.feedInterval wv { at_ := t, flags := fl, ev := .podEdge pod ch (!level) }
        let s := s.feedInterval wv { at_ := t2, flags := fl, ev := .podEdge pod ch level }
        (s.feedCompare wv cin t (!level) fl).feedCompare wv cin t2 level fl

/-- The first time that the words of a frame carry. -/
def State.firstWordTime (s : State) (p : Nat) (ws : List DWord) : Time :=
  match ws.find? fun w => fld w 60 4 == 1 || fld w 60 4 == 2 with
  | some w => s.linkTime p (s.extendQ p (fld w 0 40)).1
  | none => s.now

/-- Frames that failed at the receiver of segment `seg`, as seen now; older than 1 ms they no longer count (R85). -/
def State.badFrames (s : State) (p seg n : Nat) : State :=
  let l := (s.linkNow p).toNat
  s.modPort p fun d => { d with bad := (d.bad.filter fun e => decide (l < e.1 + 400000)) ++ [(l, seg, n)] }

/-- Frames failed on a segment alone within 1 ms: B_s − B_(s+1). -/
def State.segFails (s : State) (p seg : Nat) : Nat :=
  let l := (s.linkNow p).toNat
  let b := fun (k : Nat) => sumOn ((s.port p).bad.filter fun e => decide (l < e.1 + 400000) && e.2.1 == k) (·.2.2)
  b seg - b (seg + 1)

/-- A frame arrives in a slot (R69, R82). -/
def State.frame (s : State) (p f : Nat) (fr : PodFrame) : State :=
  if !s.ppLock p || s.ppRetired p then s
  else
    match s.slotOwner p f with
    | none => (s.incReg (PP_BAD_FRAMES p)).badFrames p 0 1
    | some pos =>
      let fsn := (s.pod p pos).fsn
      let got : Half := BitVec.ofNat 16 (fld fr.check 16 16)
      if frameSound fr pos && got == fsn then
        let s := s.linkLossEnd p pos (s.firstWordTime p fr.words)
        let s := s.modPod p pos fun d => { d with fsn := fsn + 1, lastFrame := some ((s.now : Int) - (s.port p).cBase) }
        s.each fr.words fun s w => s.podWord p pos w
      else
        let next := if frameSound fr pos then got + 1 else fsn + 1
        let s := ((s.incReg (PP_BAD_FRAMES p)).badFrames p 0 1).modPod p pos fun d => { d with fsn := next }
        s.linkLossAdd p pos 15

/-! ### Pod images and commands -/

/-- The 1,024 bytes that firmware last wrote to a pod; the idle image is zero (R79). -/
def PodDyn.imageBytes (d : PodDyn) : List Byte := padTo 1024 d.image

/-- One address of a pod as firmware writes it. -/
def PodDyn.write (d : PodDyn) (addr : Nat) (v : Nat) : PodDyn :=
  let im := d.imageBytes
  { d with image := im.take (4 * addr) ++ leBytes 4 v ++ im.drop (4 * addr + 4), digHold := true, dig := [] }

/-- Bitmaps of a position's slots in a table of 62 owners. -/
def slotBits (tbl : List Nat) (pos lo n : Nat) : Nat :=
  sumOn ((List.range n).filter fun k => tbl.getD (lo + k) 32 == pos) fun k => 2 ^ k

/-- A command joins those that wait for a downstream block, with the next SEQ (R67, R80). -/
def State.sendPod (s : State) (p pos : Nat) (bcast : Bool) (op addr data : Nat) : State :=
  s.modPort p fun d => { d with
    nextSeq := d.nextSeq + 1
    outbox := d.outbox ++ [{ pos := Fin.ofNat 32 pos, bcast := bcast, op := BitVec.ofNat 2 op, seq := d.nextSeq
                             addr := BitVec.ofNat 8 addr, data := BitVec.ofNat 32 data }] }

/-- Write one address of a pod. -/
def State.writePod (s : State) (p pos addr v : Nat) : State :=
  (s.sendPod p pos false 0 addr v).modPod p pos fun d => d.write addr v

/-- An action for one pod or, with `bcast`, for every pod (Table 3.6). -/
def State.podAction (s : State) (p pos : Nat) (bcast : Bool) (code data : Nat) : State := s.sendPod p pos bcast 1 code data

/-- Write all 256 addresses of a pod as `d` holds them, and its delay (R72, R79). -/
def State.writeAddresses (s : State) (p pos : Nat) (d : PodDyn) : State :=
  let d := d.write 0xFA (s.regF (PP_DELAY p pos) 0 17)
  (s.setPod p pos d).each (List.range 256) fun s a => s.sendPod p pos false 0 a (getLe d.image (4 * a) 4)

/-- A pod that the intent names takes its image, with its slot bitmaps (R77, R79). -/
def State.writeImage (s : State) (p pos : Nat) (im : List Byte) : State :=
  let tbl := Tbl.getD s.weaver.place.slots p []
  let d := { s.pod p pos with image := padTo 1024 im }
  s.writeAddresses p pos ((d.write 0xF8 (slotBits tbl pos 0 32)).write 0xF9 (slotBits tbl pos 32 30))

/-- A pod that no intent names takes the idle image: zero but for 0xFA (R79). -/
def State.writeIdle (s : State) (p pos : Nat) : State := s.writeAddresses p pos { s.pod p pos with image := [] }

/-- The intent expects the pod that stands at the position, by its serial number (R79, R81). -/
def State.podNamed (s : State) (i : Intent) (p pos : Nat) : Bool :=
  match Tbl.find? i.pods (podIndex p pos) with
  | some c => c.serial == (s.pod p pos).serial
  | none => false

/-- A write to a pod waits to be sent or to be acknowledged. -/
def State.writesOpen (s : State) (p pos : Nat) (which : Nat → Bool) : Bool :=
  (s.pod p pos).pending.any (fun c => c.cmd.op == 0 && which c.cmd.addr.toNat) ||
    (s.port p).outbox.any fun c => c.op == 0 && c.pos.val == pos && which c.addr.toNat

/-! ### Configuration mismatch (R318) -/

/-- A mismatch of a unit (kind 0 die, 1 pod, 2 serial) is raised once for as long as it lasts. -/
def State.raiseMismatch (s : State) (u : Word) (kind : Nat) (expected reported : List Byte) : State :=
  if s.weaver.mismatches.contains (u, kind) then s
  else
    let s := s.modWeaver fun w => { w with mismatches := w.mismatches ++ [(u, kind)] }
    let s := (s.noticeMismatch u kind false).ledMismatch u kind false expected reported
    s.setRegBit HUB_HEALTH 2 true

/-- A later check matches: the state clears, with the flag RESTORED. -/
def State.clearMismatch (s : State) (u : Word) (kind : Nat) (expected reported : List Byte) : State :=
  if !s.weaver.mismatches.contains (u, kind) then s
  else
    let s := s.modWeaver fun w => { w with mismatches := w.mismatches.erase (u, kind) }
    let s := (s.noticeMismatch u kind true).ledMismatch u kind true expected reported
    s.setRegBit HUB_HEALTH 2 (!s.weaver.mismatches.isEmpty)

/-! ### Chain breaks (R84) and port retirement -/

/-- The chain ends at `pos`: the pods there and above are gone. `event`: 1 removed, 3 chain break. -/
def State.chainBreak (s : State) (p pos event : Nat) : State :=
  let gone := (s.podsHere p).filter fun q => decide (pos ≤ q)
  let serial := (s.pod p pos).serial
  let s := s.incReg (PP_BREAKS p)
  let s := s.each gone fun s q => s.podBreak p q causeBreak
  let s := s.each gone fun s q => s.setRegBit (PP_PRESENT p) q false
  let s := s.setRegF (PP_STATUS p) 1 6 (min pos (s.ppPods p))
  let s := s.modPort p fun d => { d with outbox := d.outbox.filter fun c => c.bcast || decide (c.pos.val < pos) }
  let s := s.podAction p 0 true 0x01 0
  (s.notice 0x06 [.f4 (uPort p).toNat, .f4 pos]).ledPod (uPod p pos) event serial

/-- A lasting fault on segment 0 retires the port (R85): REPLACE for every pod. -/
def State.retirePort (s : State) (p cls : Nat) : State :=
  let s := s.each (s.podsHere p) fun s q => s.podBreak p q causeReplace
  let s := ((s.setRegBit (PP_STATUS p) 20 true).setReg (PP_PRESENT p) 0).setRegF (PP_STATUS p) 1 6 0
  let s := s.addRetired (uPort p)
  let s := (s.ledRetired (uPort p) cls).noticeRetired (uPort p) cls
  s.alertEvent false

/-! ### Enumeration (R81) -/

/-- A pod takes a position: a known serial number there keeps its state, another one starts anew with the idle image, the pod
that stood there being lost (R82), and one that the intent does not expect raises CONFIG_MISMATCH, whose record has no
digests to give: free (log entry 62). -/
def State.enumPod (s : State) (p pos : Nat) (serial : BitVec 48) : State :=
  let known := match Tbl.find? (s.port p).pods pos with | some d => d.serial == serial | none => false
  let s := if !known && s.podHere p pos then s.podBreak p pos causeBreak else s
  let s := s.setRegBit (PP_PRESENT p) pos true
  let s := if known then s
    else s.setPod p pos { PodDyn.init with serial := serial, broken := (s.pod p pos).broken }
  match Tbl.find? s.weaver.committed.pods (podIndex p pos) with
  | some c =>
    let d := s.draw 512
    let b := leBytes 64 d.1.toNat
    if c.serial = serial then d.2.clearMismatch (uPod p pos) 2 (b.take 32) (b.drop 32)
    else d.2.raiseMismatch (uPod p pos) 2 (b.take 32) (b.drop 32)
  | none => s

end Sys2Proof.Machine
end

