-- ==== Sys2Proof/Machine/StreamOps.lean ====
section
/-!
DEFINITION. Streams (chapter 9), the operations: ring starts, MARKs and windows (R126 to R133), loss segments (R218, R219),
descriptors, buffers and completions (R221 to R225), members (R244 to R252), flushes (R243).
-/
namespace Sys2Proof.Machine

/-! ### Settings of a stream -/

def State.strWindowed (s : State) (i : Nat) : Bool := match s.def? 1 i with | some p => bWindowed p | none => false
/-- The binding whose compression settings hold for the next segment to be delivered: one that a COMMIT has replaced still holds
for the segments written under it (R248). -/
def State.strBind (s : State) (i : Nat) : List Byte :=
  match (s.stream i).oldBinds with
  | (_, p) :: _ => p
  | [] => (s.def? 1 i).getD []
def State.strFormat (s : State) (i : Nat) : Nat := bFormat (s.strBind i)
def State.strEffort (s : State) (i : Nat) : Nat := bEffort (s.strBind i) + 1
def State.strBlock (s : State) (i : Nat) : Nat := 16384 * 2 ^ bBlock (s.strBind i)
def State.strMember (s : State) (i : Nat) : Nat := bindMember (s.strBind i)
/-- PRE and POST of a stream in bytes; zero where no SET_WINDOW has been accepted. -/
def State.strPre (s : State) (i : Nat) : Nat := match s.def? 8 i with | some p => wPre p | none => 0
def State.strPost (s : State) (i : Nat) : Nat := match s.def? 8 i with | some p => wPost p | none => 0

/-! ### Ring start (R131, R311) -/

/-- The stream's ring starts: at ARM, after ABORT, or anew after re-placement. -/
def StreamDyn.startRing (sd : StreamDyn) (t : Time) : StreamDyn :=
  { sd with ringStartTime := t, ringStartPos := sd.openPos, ringStartFlag := true }

/-! ### Windows (R130 to R133), in words of stream position -/

/-- A window joins the list; one that begins at or before the end of the last one merges with it (R132), unless the ring has
started anew at that end. -/
def addWindow (ringStart : Nat) (ws : List (Nat × Option Nat)) (w : Nat × Option Nat) : List (Nat × Option Nat) :=
  match ws.getLast? with
  | none => [w]
  | some l =>
    let stop := match l.2, w.2 with
      | some a, some b => some (max a b)
      | _, _ => none
    match l.2 with
    | some e => if w.1 ≤ e && ringStart < e then ws.dropLast ++ [(min l.1 w.1, stop)] else ws ++ [w]
    | none => ws.dropLast ++ [(min l.1 w.1, none)]

/-- First word of the segment that holds the position `p` less PRE, no earlier than the ring start (R130, R131). -/
def StreamDyn.windowFrom (sd : StreamDyn) (p pre : Nat) : Nat := max sd.ringStartPos ((p - pre / 8) / segWords * segWords)
/-- End of the segment that holds the position `p` plus POST. -/
def windowTo (p post : Nat) : Nat := ceilDiv (p + post / 8) segWords * segWords

/-- Position of the next word to be written. -/
def StreamDyn.pos (sd : StreamDyn) : Nat := sd.openPos + sd.open_.length

/-- WINDOW_OPEN by a sequencer (R133). -/
def State.windowOpen (s : State) (i sq : Nat) : State :=
  if !s.strWindowed i || !s.hasStream i then s
  else s.modStream i fun sd =>
    if sd.openers.contains sq then sd
    else { sd with
      openers := sd.openers ++ [sq]
      windows := addWindow sd.ringStartPos sd.windows (sd.windowFrom sd.pos (s.strPre i), none) }

/-- An open window ends at `stop`. -/
def closeWindow (ws : List (Nat × Option Nat)) (stop : Nat) : List (Nat × Option Nat) :=
  ws.map fun w => match w.2 with | some _ => w | none => (w.1, some stop)

/-- No window goes on past `stop` (R133). -/
def cutWindows (ws : List (Nat × Option Nat)) (stop : Nat) : List (Nat × Option Nat) :=
  (ws.filter fun w => decide (w.1 < stop)).map fun w => match w.2 with | some e => (w.1, some (min e stop)) | none => (w.1, some stop)

/-- WINDOW_CLOSE by a sequencer that opened the window (R133). -/
def State.windowClose (s : State) (i sq : Nat) : State :=
  s.modStream i fun sd =>
    if !sd.openers.contains sq then sd
    else
      let os := sd.openers.erase sq
      { sd with
        openers := os
        windows := if os.isEmpty then closeWindow sd.windows (windowTo sd.pos (s.strPost i)) else sd.windows }

/-! ### MARKs (R123, R126, R131) -/

/-- Insert a MARK in order of TIME, then sequencer (R126). -/
def insertMark (m : Mark) : List Mark → List Mark
  | [] => [m]
  | x :: t => if m.time < x.time || (m.time == x.time && decide (m.sq < x.sq)) then m :: x :: t else x :: insertMark m t

/-- Make room for a record: open a segment, or close a full one first. A BURST and other records stay as they are. -/
def State.roomFor (s : State) (i : Nat) (r : Rec) : State :=
  let s := if (s.stream i).open_.isEmpty then s.modStream i (·.openSegment s.slotStart) else s
  if (s.stream i).fits r then s else (s.closeSegment i false false).modStream i (·.openSegment s.slotStart)

/-- Raw and state blocks of the lanes bound to a stream close (R59, R60). -/
def State.closeStreamBlocks (s : State) (i : Nat) (t : Time) : State :=
  match s.def? 1 i with
  | some p => s.each (bLanes p) fun s n => s.closeBlock n t
  | none => s

/-- Write a MARK's record where there is room, open its window unless it is a SUMMARY MARK, and close its segment (R126,
R128, R130, Table 9.4). -/
def State.putMark (s : State) (i : Nat) (r : Rec) (summary : Bool) : State :=
  let p := (s.stream i).pos
  let sd := (s.stream i).append r s.now
  let sd := { sd with
    openMark := match sd.openMark with | some t => some t | none => some r.time
    windows := if s.strWindowed i && !summary then
        addWindow sd.ringStartPos sd.windows (sd.windowFrom p (s.strPre i), some (windowTo p (s.strPost i))) else sd.windows }
  (s.setStream i sd).closeSegment i true false

/-- Write a MARK into a stream (R123, R131). A SUMMARY MARK's PRE_DEPTH and SHORT_PRE are computed as for any MARK (DESIGN
CHOICE, log entry 100). -/
def State.writeMark (s : State) (i : Nat) (m : Mark) : State :=
  if !s.hasStream i then s
  else if s.isShed (objKey 1 i) then s.writeRec i (markRec m 0 false)
  else
    let s := s.closeStreamBlocks i s.now
    let s := s.roomFor i (markRec m 0 false)
    let sd := s.stream i
    let win := s.strWindowed i
    let have_ := 8 * (sd.pos - sd.ringStartPos)
    let short := win && decide (have_ < s.strPre i)
    s.putMark i (markRec m (if !win then 0 else if short then have_ else s.strPre i) short) m.summary

/-- The MARKs of a stream that wait, in order, all written. -/
def State.writeMarks (s : State) (i : Nat) : State :=
  let ms := (s.stream i).marks
  s.each ms fun s m => (s.modStream i fun sd => { sd with marks := sd.marks.erase m }).writeMark i m

/-- A MARK enters every stream bound to its sequence (R123). -/
def State.sendMark (s : State) (idx : Nat) (m : Mark) : State :=
  s.each (s.seqStreams idx) fun s i => s.modStream i fun sd => { sd with marks := insertMark m sd.marks }

/-! ### What delivery takes next (R129, R130, R218) -/

/-- The segment at `pos` can never come into a window: it ends before the pre-window of the write position. -/
def State.pastWindow (s : State) (i pos : Nat) : Bool :=
  let sd := s.stream i
  decide (pos + segWords ≤ sd.preFrom (s.strPre i)) || !s.time.armed

def State.keepPre (s : State) (i : Nat) : State := if s.strWindowed i then s.modStream i (·.markPre (s.strPre i)) else s

/-- Remove the segment at the front of the ring. -/
def StreamDyn.dropFront (sd : StreamDyn) : StreamDyn :=
  { sd with
    ring := sd.ring.drop 1
    qRead := sd.qRead - segWords
    qRel := 0
    qMark := match sd.qMark with | some m => if m < segWords then none else some (m - segWords) | none => none }

/-- Segments of a windowed stream outside every window leave the ring undelivered (R218). -/
def State.skipOutside (i : Nat) : Nat → State → State
  | 0, s => s
  | fuel + 1, s =>
    let sd := s.stream i
    match sd.ring with
    | [] => s
    | g :: _ =>
      if s.strWindowed i && !inWindows sd.windows g.pos && s.pastWindow i g.pos then
        State.skipOutside i fuel ((s.setStream i { sd.dropFront with nextDeliver := segAdd g.seq 1 }).keepPre i)
      else s

/-- The next segment to deliver: a loss segment in place, or the front of the ring when no missing run comes first and,
in a windowed stream, it lies in a window. The channel must not be frozen. -/
def State.nextSegment (s : State) (i : Nat) : Option Segment :=
  let sd := s.stream i
  match sd.taken with
  | g :: _ => some g
  | [] =>
    match sd.ring with
    | [] => none
    | g :: _ =>
      let late := match sd.missing with | m :: _ => segBefore m.firstSeq g.seq | [] => false
      if late || (s.strWindowed i && !inWindows sd.windows g.pos) then none else some g

/-- A segment is the first of its window to be delivered: nothing of the window has been, in this ring (R130). -/
def StreamDyn.firstOfWindow (sd : StreamDyn) (g : Segment) : Bool :=
  sd.windows.any fun w => decide (w.1 < g.pos + segWords) && (match w.2 with | some e => decide (g.pos < e) | none => true) &&
    (decide (sd.deliveredEnd < w.1) || (decide (sd.deliveredEnd ≤ sd.ringStartPos) && decide (sd.ringStartPos ≤ w.1)))

/-- All 64 bursts of a segment have been read: asked for, and none of them waits any more (R280). -/
def State.segRead (s : State) (i : Nat) (g : Segment) : Bool :=
  let b := ringBurst i g.seq
  g.asked && !(s.sched g.channel).reads.any fun r => r.port == 2 && decide (b ≤ r.burst) && decide (r.burst < b + 64)

/-- Port C asks for the bursts of a segment, once. -/
def State.askSegment (s : State) (i : Nat) (g : Segment) : State :=
  if g.asked then s
  else (s.askRead g.channel 2 (ringBurst i g.seq) 64).modStream i fun sd => { sd with
    ring := sd.ring.map fun x => if x.seq = g.seq then { x with asked := true } else x }

/-- Take the next segment: WINDOW_START marks the first one of a window (R130). -/
def State.takeSegment (s : State) (i : Nat) (g : Segment) : State × Segment :=
  let sd := s.stream i
  match sd.taken with
  | _ :: rest => (s.setStream i { sd with taken := rest }, g)
  | [] =>
    let first := s.strWindowed i && sd.firstOfWindow g
    let ws := match g.words with
      | w :: t => (if first then setBit w 58 true else w) :: t
      | [] => []
    ((s.setStream i { sd.dropFront with
      deliveredEnd := g.pos + segWords, nextDeliver := segAdd g.seq 1, deliveredTime := g.last
      windows := sd.windows.filter fun w => match w.2 with | some e => decide (g.pos + segWords ≤ e) | none => true }).keepPre i,
     { g with words := ws })

/-! ### Loss segments (R218, R219) -/

def segLossBase (seq : Nat) (t : Time) : List DWord := baseRec true false false true seq t

/-- Records one after the other from a BASE of TIME `base` on, with a further BASE where an offset does not fit (R209). -/
def placeRecs (seq : Nat) (base : Time) : List Rec → List DWord
  | [] => []
  | r :: t =>
    if needBase base r then baseRec false false false false seq r.time ++ r.placed r.time ++ placeRecs seq r.time t
    else r.placed base ++ placeRecs seq base t

/-- The loss segment of a run of missing segments, from `t` to `stop`, at stream position `pos`: one LOSS, or as many pieces
as SPAN and COUNT need and the segment holds (R216; log entry 103). -/
def lossSegment (m : Missing) (t stop : Time) (pos : Nat) : Segment :=
  let ws := segLossBase m.firstSeq t ++ placeRecs m.firstSeq t (lossPieces m.cause.toNat 0 0 stop 253 t m.count)
  { seq := m.firstSeq, words := ws ++ List.replicate (segWords - ws.length) 0, channel := 0
    pos := pos, hasLoss := true, flushPoint := false, time := t, last := t
    markTime := none, closed := stop, asked := true, memberEnd := false }

/-- Segments of a run at its start that no window can take. -/
def State.trimRun (s : State) (i : Nat) : Nat → Missing → Missing
  | 0, m => m
  | fuel + 1, m =>
    let pos := (s.stream i).posOf m.firstSeq
    if m.segs ≠ 0 && s.strWindowed i && m.cause = 5 && !inWindows (s.stream i).windows pos && s.pastWindow i pos then
      s.trimRun i fuel { m with firstSeq := segAdd m.firstSeq 1, segs := m.segs - 1, count := m.count - segWords }
    else m

/-- Where the span of the first run ends: at the next run or segment to be delivered, after a FLUSH also at the new segment
that is open; none as long as one can follow (R218, R219). -/
def State.runEnd (s : State) (i : Nat) (m : Missing) (rest : List Missing) : Option Time :=
  let sd := s.stream i
  match rest, sd.ring with
  | r :: _, g :: _ => if segBefore r.firstSeq g.seq then some r.from_ else some g.time
  | [], g :: _ => some g.time
  | r :: _, [] => some r.from_
  | [], [] =>
    if !s.time.armed || !s.hasStream i then some m.upTo
    else if m.cause = 7 && !s.strWindowed i && !sd.open_.isEmpty then some sd.openTime else none

/-- Delivery replaces the first run of missing segments, when it is next in order and its end is known, with one loss segment
(R218), whose TIME is that of the last record delivered from the run's ring, or the start of that ring. A FLUSH run waits for
the end of the skip state (R219). Two runs side by side join: the first LOSS counts as delivered up to its end. -/
def State.presentLoss (s : State) (i : Nat) : State :=
  let s := State.skipOutside i ((s.stream i).ring.length + 1) s
  let sd := s.stream i
  match sd.missing with
  | [] => s
  | m0 :: rest =>
    let m := s.trimRun i (m0.segs + 1) m0
    if m.segs = 0 && m0.segs ≠ 0 then s.setStream i { sd with missing := rest }
    else
      let inOrder := match sd.ring.head? with | some g => segBefore m.firstSeq g.seq | none => true
      let pos := sd.posOf m.firstSeq
      match s.runEnd i m rest with
      | none => s
      | some stop =>
        if !inOrder || sd.skipState || (s.strWindowed i && m.cause = 5 && !inWindows sd.windows pos) then s
        else
          let t := max sd.deliveredTime m.ringStart
          s.setStream i { sd with
            missing := rest
            taken := sd.taken ++ [lossSegment m t (max t stop) pos]
            deliveredTime := max t stop
            nextDeliver := segAdd m.firstSeq m.segs }

/-! ### Members (R244 to R252) -/

/-- Header that the device writes (Table 11.1). -/
def memberHeader (format effort : Nat) : List Byte :=
  match format with
  | 2 => [0x78, match effort with | 1 => 0x01 | 2 => 0x5E | 3 => 0x9C | _ => 0xDA]
  | 3 => [0x1F, 0x8B, 0x08, 0x00, 0, 0, 0, 0, match effort with | 1 => 0x04 | 4 => 0x02 | _ => 0x00, 0xFF]
  | _ => []

def StreamDyn.adler (sd : StreamDyn) : Nat := sd.adlerB * 65536 + sd.adlerA

/-- Trailer: zlib Adler-32 most significant byte first, gzip CRC-32 and ISIZE least significant first (R245). -/
def StreamDyn.trailer (sd : StreamDyn) (format : Nat) : List Byte :=
  match format with
  | 2 => beBytes 4 sd.adler
  | 3 => leBytes 4 (sd.crcReg ^^^ 0xFFFFFFFF).toNat ++ leBytes 4 sd.memberBytes
  | _ => []

/-- Input bytes enter the member's check. -/
def StreamDyn.checkInput (sd : StreamDyn) (p : List Byte) : StreamDyn :=
  let ab := p.foldl (fun x b => let a := (x.1 + b.toNat) % 65521; (a, (x.2 + a) % 65521)) (sd.adlerA, sd.adlerB)
  { sd with
    window := (p.reverse ++ sd.window).take 32768
    memberBytes := sd.memberBytes + p.length
    crcReg := p.foldl crc32Byte sd.crcReg
    adlerA := ab.1, adlerB := ab.2 }

/-- A chunk of output: its bytes and the segments that they are of (Table 9.20). -/
def StreamDyn.chunkOf (sd : StreamDyn) (bytes : List Byte) (tags : List SegTag) : OutChunk :=
  { bytes := bytes
    mark := tags.findSome? fun g => g.mark.map fun t => (g.seq, t)
    loss := tags.any (·.loss)
    first := (tags.find? (·.fresh)).map (·.seq)
    starts := tags.countP (·.fresh)
    inSeq := match tags.getLast? with | some g => g.seq | none => segAdd sd.nextDeliver (2 ^ 48 - 1)
    close := false, memberEnd := false, memberAbort := false }

def SegTag.begun (g : SegTag) : SegTag := { g with fresh := false }

/-- Bytes of a segment enter the output on a byte boundary. -/
def StreamDyn.emitBytes (sd : StreamDyn) (tags : List SegTag) (bytes : List Byte) : StreamDyn :=
  if bytes.isEmpty then sd else { sd with outq := sd.outq ++ [sd.chunkOf bytes tags] }

def byteOfBits (bs : List Bool) : Byte := BitVec.ofNat 8 (bs.zipIdx.foldl (fun a b => a + b.1.toNat * 2 ^ b.2) 0)

/-- Bits of segments enter the output; whole bytes leave the accumulator (R245, R254). A byte that holds bits of several
segments is a byte of each of them. -/
def StreamDyn.emitBits (sd : StreamDyn) (tags : List SegTag) (bs : List Bool) : StreamDyn :=
  let bytes := (chunks 8 (sd.acc ++ bs)).map byteOfBits
  let n := (sd.acc ++ bs).length / 8
  let rest := (sd.acc ++ bs).drop (8 * n)
  if n = 0 then { sd with acc := rest, accTags := sd.accTags ++ tags }
  else if sd.accTags.isEmpty then
    { (sd.emitBytes tags (bytes.take n)) with acc := rest, accTags := if rest.isEmpty then [] else tags.map (·.begun) }
  else
    { ((sd.emitBytes (sd.accTags ++ tags) (bytes.take 1)).emitBytes (tags.map (·.begun)) ((bytes.take n).drop 1)) with
      acc := rest, accTags := if rest.isEmpty then [] else tags.map (·.begun) }

/-- Zero bits to the byte after `n` bits. -/
def padBits (n : Nat) : List Bool := List.replicate ((8 - n % 8) % 8) false

/-- One stored block, not final, of the data of `tags`: BFINAL 0, BTYPE 00, padding, LEN, NLEN and the data. An empty one is
a flush point (R250). The block's header counts as bytes of its first segment. -/
def StreamDyn.storedBlock (sd : StreamDyn) (p : List Byte) (tags : List (SegTag × Nat)) : StreamDyn :=
  let head := (tags.take 1).map (·.1)
  let sd := sd.emitBits head ([false, false, false] ++ padBits (sd.acc.length + 3))
  let sd := sd.emitBytes (head.map (·.begun)) (leBytes 2 p.length ++ leBytes 2 (65535 - p.length))
  (tags.zipIdx.foldl (fun (x : StreamDyn × List Byte) (t : (SegTag × Nat) × Nat) =>
    (x.1.emitBytes [if t.2 = 0 then t.1.1.begun else t.1.1] (x.2.take t.1.2), x.2.drop t.1.2)) (sd, p)).1

/-- The segments of the first `n` bytes of a run, and of the rest. -/
def splitTags : List (SegTag × Nat) → Nat → List (SegTag × Nat) × List (SegTag × Nat)
  | [], _ => ([], [])
  | (g, k) :: t, n =>
    if n = 0 then ([], (g, k) :: t)
    else if k ≤ n then let r := splitTags t (n - k); ((g, k) :: r.1, r.2)
    else ([(g, n)], (g.begun, k - n) :: t)

/-- The run ends: its shorter last stored block is written (R252). -/
def StreamDyn.endRun (sd : StreamDyn) : StreamDyn :=
  if sd.storedRun.isEmpty then sd else { sd with storedRun := [], runTags := [] }.storedBlock sd.storedRun sd.runTags

/-- Whole stored blocks of 65,535 bytes leave the run. -/
def StreamDyn.wholeBlocks : Nat → StreamDyn → StreamDyn
  | 0, sd => sd
  | fuel + 1, sd =>
    if sd.storedRun.length < 65535 then sd
    else
      let t := splitTags sd.runTags 65535
      StreamDyn.wholeBlocks fuel
        ({ sd with storedRun := sd.storedRun.drop 65535, runTags := t.2 }.storedBlock (sd.storedRun.take 65535) t.1)

/-- The empty final block with the fixed codes, padded to the byte (R251). -/
def StreamDyn.finalBlock (sd : StreamDyn) : StreamDyn :=
  sd.emitBits [] ([true, true] ++ List.replicate 8 false ++ padBits (sd.acc.length + 10))

/-- The output so far closes its buffer (R223). -/
def StreamDyn.closeChunk (sd : StreamDyn) (memberEnd : Bool) : StreamDyn :=
  match sd.outq.reverse with
  | [] => sd
  | c :: rest => { sd with outq := (({ c with close := true, memberEnd := memberEnd } : OutChunk) :: rest).reverse }

/-- Nothing of a member is left: the next one starts with empty history (R249). -/
def StreamDyn.noMember (sd : StreamDyn) : StreamDyn :=
  { sd with
    memberOpen := false, acc := [], accTags := [], memberBytes := 0, storedRun := [], runTags := []
    crcReg := 0xFFFFFFFF, adlerA := 1, adlerB := 0, window := [], ctxChan := none, ctxLost := false }

/-- A member in progress ends: run, empty final block and trailer, and the next one starts with nothing (R251). -/
def StreamDyn.endMember (sd : StreamDyn) : StreamDyn :=
  if !sd.memberOpen then sd
  else ((sd.endRun.finalBlock.emitBytes [] (sd.trailer sd.memberFormat)).closeChunk true).noMember

/-- Segments that the member has taken and not fully emitted: with data in the run, or bits in the accumulator (R225). -/
def StreamDyn.unemitted (sd : StreamDyn) : Nat := ((sd.runTags.map (·.1.seq)) ++ sd.accTags.map (·.seq)).eraseDups.length

/-- A member is destroyed: no trailer; its last buffer carries MEMBER_END and MEMBER_ABORT (R225, R259). Answers the words
of the segments not fully emitted. -/
def StreamDyn.abortMember (sd : StreamDyn) : StreamDyn × Nat :=
  if !sd.memberOpen then (sd, 0)
  else ({ sd.noMember with
    outq := sd.outq ++ [{ sd.chunkOf [] [] with close := true, memberEnd := true, memberAbort := true }] }, segWords * sd.unemitted)

/-! ### Counters of the engine that serves a stream (Table 11.8) -/

/-- Add to a 64-bit counter pair. -/
def State.addReg64 (s : State) (a n : Nat) : State :=
  s.setReg64 a (((s.reg a).toNat + (s.reg (a + 4)).toNat * 2 ^ 32 + n) % 2 ^ 64)

/-- The slot whose register names a stream (Table 11.8): engine and slot. -/
def State.heldSlot (s : State) (i : Nat) : Option (Nat × Nat) :=
  (List.range 128).findSome? fun x =>
    let r := s.reg (CE_SLOT (x / 8) x)
    if bit r 12 && fld r 0 12 == i then some (x / 8, x % 8) else none

/-- The engine that a stream is placed on. -/
def State.placedCe (s : State) (i : Nat) : Option Nat := (s.streamPlace i).bind (·.engine)

/-- The engine that serves a stream: the one it is placed on, or, for segments under settings that a COMMIT has replaced by
format NONE, the one whose slot it still holds (R248). -/
def State.streamCe (s : State) (i : Nat) : Option Nat :=
  match s.placedCe i with
  | some n => some n
  | none => if (s.stream i).oldBinds.isEmpty then none else (s.heldSlot i).map (·.1)

/-- CE_STATUS.SLOTS_USED follows the slots. -/
def State.countSlots (s : State) (e : Nat) : State :=
  s.setRegF (CE e 0) 1 4 ((List.range 8).countP fun k => bit (s.reg (CE_SLOT e k)) 12)

/-- A stream that is placed on no engine gives up its slot. -/
def State.freeSlot (s : State) (i : Nat) : State :=
  match s.placedCe i, s.heldSlot i with
  | none, some x => (s.setReg (CE_SLOT x.1 x.2) 0).countSlots x.1
  | _, _ => s

/-- Output bytes and stored blocks of the engine. -/
def State.countOut (s : State) (i bytes stored : Nat) : State :=
  match s.streamCe i with
  | some n => (s.addReg64 (CE n 0x0C) bytes).addReg (CE n 0x14) stored
  | none => s

/-- Bytes that wait in the output of a stream. -/
def StreamDyn.outBytes (sd : StreamDyn) : Nat := sumOn sd.outq fun (c : OutChunk) => c.bytes.length

/-- The engine leaves a stream: its stored run ends (R252). -/
def State.breakRun (s : State) (i : Nat) : State :=
  let sd := s.stream i
  if sd.storedRun.isEmpty then s else (s.setStream i sd.endRun).countOut i (sd.endRun.outBytes - sd.outBytes) 1

/-- The stream's member ends, counted on its engine. -/
def State.endMember (s : State) (i : Nat) : State :=
  let sd := s.stream i
  let sd' := sd.endMember
  (s.setStream i sd').countOut i (sd'.outBytes - sd.outBytes) (if sd.memberOpen && !sd.storedRun.isEmpty then 1 else 0)

/-- The settings that a COMMIT has replaced end with the last segment written under them, and so does their member (R248). -/
def State.passBinds (s : State) (i : Nat) : State :=
  match (s.stream i).oldBinds with
  | [] => s
  | (upTo, _) :: rest =>
    if segBefore upTo (s.stream i).nextDeliver then
      let s := (s.endMember i).modStream i fun sd => { sd with oldBinds := rest }
      if rest.isEmpty then s.freeSlot i else s
    else s

/-- A stream's member ends with MEMBER_ABORT; what it had not emitted is lost under REPLACE (R225). -/
def State.abortStreamMember (s : State) (i : Nat) : State :=
  let r := (s.stream i).abortMember
  let s := s.setStream i r.1
  if r.2 = 0 then s else s.wholeLoss i causeReplace 0 0 r.1.deliveredTime s.now r.2

/-! ### Saved contexts (R256, R259) -/

/-- Bursts of a context of 40 KiB, and their numbers: where a context lies in its channel is not given (log entry 105). -/
def ctxBursts : Nat := 640
def streamCtxBurst (i : Nat) : Nat := 2 ^ 80 + i * ctxBursts
def deCtxBurst (e : Nat) : Nat := 2 ^ 81 + e * ctxBursts

/-- A channel that serves, for a context that is saved; which one is not given, so it is free (log entry 117). -/
def State.contextChan (s : State) : Option Nat × State :=
  let d := s.draw 4
  let cs := filterRange 16 fun c => s.mcState c == 1
  (cs[d.1.toNat % max 1 cs.length]?, d.2)

/-- A stream's context leaves its slot for the DRAM. -/
def State.saveContext (s : State) (i : Nat) : State :=
  let r := s.contextChan
  match r.1 with
  | some ch => (r.2.askWrite ch 4 (streamCtxBurst i) ctxBursts).modStream i fun sd => { sd with ctxChan := some ch, ctxLost := false }
  | none => r.2.modStream i fun sd => { sd with ctxChan := none, ctxLost := true }

/-- It comes back into a slot. Answers whether a freeze has taken it. -/
def State.loadContext (s : State) (i : Nat) : State × Bool :=
  let sd := s.stream i
  let s := match sd.ctxChan with | some ch => s.askRead ch 4 (streamCtxBurst i) ctxBursts | none => s
  (s.modStream i fun sd => { sd with ctxChan := none, ctxLost := false }, sd.ctxLost)

/-! ### Buffers and completions (R221 to R224) -/

/-- The device may issue requests (R360). -/
def State.canDma (s : State) : Bool :=
  s.pcie.busMaster && s.pcie.linkUp && !s.pcie.d3hot && !s.asleep && !s.failed && !s.power.pwrFail

def State.cplFree (s : State) (i : Nat) (sd : StreamDyn) : Bool :=
  match s.def? 1 i with
  | some p => decide ((sd.cplWritten + 2 ^ 32 - sd.cplHead) % 2 ^ 32 < bCplN p)
  | none => false

/-- Write completion entry n (R222, Table 9.20). -/
def State.writeCompletion (s : State) (i : Nat) (bufId : Half) (flags bytes first starts : Nat) : State :=
  match s.def? 1 i with
  | none => s
  | some p =>
    let n := (s.stream i).cplWritten
    let size := max 1 (bCplN p)
    let phase := if n / size % 2 = 0 then 2 ^ 15 else 0
    let e := leBytes 2 bufId.toNat ++ leBytes 2 (flags + phase) ++ leBytes 4 bytes ++ leBytes 6 first ++
      leBytes 2 (sat 0xFFFF starts)
    (s.dmaWrite (bCplAddr p + 16 * (n % size)) e false).modStream i fun sd => { sd with cplWritten := (n + 1) % 2 ^ 32 }

/-- A completion signals the stream's vector, if it has one (R224). -/
def State.signalStream (s : State) (i : Nat) : State :=
  match s.def? 1 i with
  | some p => if bVectorValid p then s.msix (bVector p) else s
  | none => s

/-- A bad descriptor is completed without data, and its INTERRUPT holds as for any other (R221, R224). -/
def State.completeWithoutData (s : State) (i : Nat) (d : Desc) : State :=
  let s := s.writeCompletion i d.bufId (32 + 16) 0 (s.stream i).fillSeq 0
  if d.interrupt then s.signalStream i else s

/-- A bad descriptor at the front is completed at once, without data (R221). -/
def State.completeBad (i : Nat) : Nat → State → State
  | 0, s => s
  | fuel + 1, s =>
    match (s.stream i).descs with
    | d :: rest =>
      if d.bad && s.cplFree i (s.stream i) then
        State.completeBad i fuel ((s.modStream i fun sd => { sd with descs := rest }).completeWithoutData i d)
      else s
    | [] => s

/-- Complete the buffer in progress with the bytes written so far. -/
def State.completeBuffer (s : State) (i : Nat) (memberEnd memberAbort : Bool) : State :=
  let sd := s.stream i
  match sd.descs with
  | [] => s
  | d :: rest =>
    let flags := sd.fillMark.isSome.toNat + 2 * sd.fillLoss.toNat + 4 * memberEnd.toNat + 8 * memberAbort.toNat +
      16 * (decide (sd.fillLen < d.len)).toNat
    let s := s.writeCompletion i d.bufId flags sd.fillLen (sd.fillFirst.getD sd.fillSeq) sd.fillStarts
    let s := s.modStream i fun x => { x with
      descs := rest, fillLen := 0, fillMark := none, fillLoss := false, fillFirst := none, fillStarts := 0 }
    let vec := match s.def? 1 i with | some p => if bVectorValid p then some (bVector p) else none | none => none
    match vec with
    | some v => if sd.fillMark.isSome || sd.fillLoss || memberEnd || d.interrupt then s.msix v else s
    | none => match sd.fillMark with
      | some m => s.noticeMark i m.1 m.2
      | none => s

/-- A buffer in progress that holds bytes is completed with them. -/
def State.completePart (s : State) (i : Nat) : State :=
  if (s.stream i).fillLen = 0 || !s.cplFree i (s.stream i) then s else s.completeBuffer i false false

/-- New rings start at their first entries: counts from 0, first pass (R221, R222; log entry 64). -/
def StreamDyn.newRings (sd : StreamDyn) : StreamDyn :=
  { sd with
    descTail := 0, cplHead := 0, descTaken := 0, cplWritten := 0, descs := [], descFetched := 0
    fillLen := 0, fillMark := none, fillLoss := false, fillFirst := none, fillStarts := 0 }

/-- Place bytes in the buffer in progress. -/
def State.fillBytes (s : State) (i : Nat) (bytes : List Byte) (c : OutChunk) (starts : Nat) : State :=
  match (s.stream i).descs with
  | [] => s
  | d :: _ =>
    let s := if bytes.isEmpty then s else s.dmaWrite (d.addr + (s.stream i).fillLen) bytes true
    s.modStream i fun sd => { sd with
      fillLen := sd.fillLen + bytes.length
      fillMark := match sd.fillMark with | some m => some m | none => c.mark
      fillLoss := sd.fillLoss || c.loss
      fillFirst := match sd.fillFirst with | some f => some f | none => if starts = 0 then none else c.first
      fillStarts := sd.fillStarts + starts
      fillSeq := c.inSeq }

/-- The chunk that a segment of a stream with format NONE is. -/
def segmentChunk (g : Segment) : OutChunk :=
  { bytes := bytesOf g.words, mark := g.markTime.map fun t => (g.seq, t), loss := g.hasLoss, first := some g.seq
    starts := 1, inSeq := g.seq, close := g.flushPoint, memberEnd := false, memberAbort := false }

/-- Nothing of the stream waits for delivery. -/
def StreamDyn.drained (sd : StreamDyn) : Bool :=
  sd.taken.isEmpty && sd.ring.isEmpty && sd.missing.isEmpty && sd.outq.isEmpty && sd.open_.isEmpty

/-- One move of delivery: answers whether it completed a buffer or could do nothing more. -/
def State.deliverOne (s : State) (i : Nat) : State × Bool :=
  let s := (State.completeBad i ((s.stream i).descs.length + 1) s).passBinds i
  let sd := s.stream i
  match sd.descs with
  | [] => (s, true)
  | d :: _ =>
    if d.bad || sd.dmaFailed || sd.descFetched != sd.descTaken || !s.cplFree i sd then (s, true)
    else if d.len ≤ sd.fillLen then (s.completeBuffer i false false, true)
    else if s.strFormat i = 0 && sd.outq.isEmpty then
      let s := State.skipOutside i (sd.ring.length + 1) s
      match s.nextSegment i with
      | some g =>
        if d.len < sd.fillLen + 4096 then (s.completeBuffer i false false, true)
        else if !s.segRead i g then (s.askSegment i g, true)
        else
          let r := s.takeSegment i g
          let s := r.1.fillBytes i (bytesOf r.2.words) (segmentChunk r.2) 1
          if (segmentChunk r.2).close then (s.completeBuffer i false false, true) else (s, false)
      | none =>
        if sd.fillClose && (s.stream i).drained then
          let s := s.modStream i fun x => { x with fillClose := false }
          if sd.fillLen = 0 then (s, true) else (s.completeBuffer i false false, true)
        else (s, true)
    else
      match sd.outq with
      | [] => (s, true)
      | c :: rest =>
        let n := min c.bytes.length (d.len - sd.fillLen)
        let s := s.fillBytes i (c.bytes.take n) c c.starts
        if n < c.bytes.length then
          let s := s.modStream i fun x => { x with outq := { c with bytes := c.bytes.drop n, starts := 0, first := none } :: rest }
          (s.completeBuffer i false false, true)
        else
          let s := s.modStream i fun x => { x with outq := rest }
          if c.close then (s.completeBuffer i c.memberEnd c.memberAbort, true) else (s, false)

def State.deliverLoop (i : Nat) : Nat → State → State
  | 0, s => s
  | fuel + 1, s =>
    let r := s.deliverOne i
    if r.2 then r.1 else State.deliverLoop i fuel r.1

/-- Delivery fills the buffer in progress with what waits and completes it where R223 says so. -/
def State.deliver (s : State) (i : Nat) : State :=
  if !s.canDma || !s.hasStream i then s
  else State.deliverLoop i ((s.stream i).ring.length + (s.stream i).taken.length + (s.stream i).outq.length + 4) s

/-! ### Flush (R219, R243) -/

/-- The run that stands for everything discarded: undelivered segments and the open one, with the words of a record that is
being written. Words that the consumer has read do not count; segments between them that were lost before keep the count they
had (R243; DESIGN CHOICE, log entry 116: they lie within the run). -/
def StreamDyn.flushed (sd : StreamDyn) (now : Time) : Missing :=
  let first := match sd.ring with | g :: _ => g.seq | [] => sd.segSeq
  let isOpen := !sd.open_.isEmpty || !sd.recPart.isEmpty
  { firstSeq := first, segs := segDist first sd.segSeq + isOpen.toNat, cause := 7
    count := segWords * sd.ring.length - sd.qRead + sd.open_.length + sd.recPart.length
    from_ := match sd.ring with | g :: _ => g.time | [] => if sd.open_.isEmpty then now else sd.openTime
    upTo := now, ringStart := sd.ringStartTime }

/-- The ring is flushed: everything undelivered goes; a record that is being written is skipped to its end; the stream
continues with a new segment that has RING_START set. A flush of nothing leaves no loss. -/
def StreamDyn.flushRing (sd : StreamDyn) (now : Time) : StreamDyn :=
  let m := sd.flushed now
  let isOpen := !sd.open_.isEmpty || !sd.recPart.isEmpty
  let sd1 := { sd with
    ring := [], open_ := [], openMark := none, openLoss := false, firstRecord := none, recPart := []
    segSeq := segAdd sd.segSeq isOpen.toNat, openPos := sd.openPos + if isOpen then segWords else 0
    missing := (sd.missing.filter fun (x : Missing) => segBefore x.firstSeq m.firstSeq) ++ (if m.segs = 0 then [] else [m])
    wordsLost := sd.wordsLost + m.count
    qRead := 0, qRel := 0, qMark := none, qMarkLost := false, qSkip := 0, skipState := decide (0 < sd.recLeft)
    windows := closeWindow sd.windows sd.openPos }
  sd1.startRing now

/-- The buffer in progress ends after what is on its way to it. -/
def StreamDyn.closeBuffer (sd : StreamDyn) : StreamDyn :=
  if sd.fillLen = 0 && sd.outq.isEmpty then sd
  else { sd with
    outq := sd.outq ++ [{ bytes := [], mark := none, loss := false, first := none, starts := 0, inSeq := sd.fillSeq
                          close := true, memberEnd := false, memberAbort := false }] }

/-- ABORT naming a stream (R219, R223, R243, Table 11.6): the member in progress ends, the buffer in progress is completed. -/
def State.flushStream (s : State) (i : Nat) : State :=
  let s := if s.strFormat i = 0 then s.modStream i StreamDyn.closeBuffer else s.endMember i
  s.modStream i fun sd => { sd.flushRing s.now with oldBinds := [] }

/-- Delivery as far as it goes. -/
def State.deliverAll (s : State) (i : Nat) : State :=
  s.each (List.range ((s.stream i).descs.length + 1)) fun s _ => s.deliver i

/-! ### Sessions -/

/-- DISARM: MARKs, blocks and open windows end, the last segment closes, and a member ends (Table 9.4, R133). A segment that
holds only its BASE is not written. -/
def State.closeStream (s : State) (i : Nat) : State :=
  let s := s.writeMarks i
  let s := s.modStream i fun sd => { sd with windows := cutWindows sd.windows (ceilDiv sd.pos segWords * segWords), openers := [] }
  let s := if (s.stream i).open_.length ≤ 2 && (s.stream i).losses.isEmpty then
      s.modStream i fun sd => { sd with open_ := [], openMark := none, openLoss := false, firstRecord := none }
    else s.closeSegment i false true
  s.modStream i fun sd => { sd with fillClose := true }

/-- Insert a run in the order of the segments. -/
def insertMissing (m : Missing) : List Missing → List Missing
  | [] => [m]
  | x :: t => if segBefore m.firstSeq x.firstSeq then m :: x :: t else x :: insertMissing m t

/-- A segment on a channel that froze is lost (Table 12.4): missing under MEM_FREEZE. The positions of the ring's queue that lay
within it move to the segment that follows (R227, R235). -/
def StreamDyn.loseChannel (sd : StreamDyn) (ch : Nat) : StreamDyn :=
  let gone := sd.ring.filter fun g => g.channel == ch
  let add := gone.map fun g =>
    ({ firstSeq := g.seq, segs := 1, cause := 5, count := segWords, from_ := g.time, upTo := g.closed
       ringStart := sd.ringStartTime } : Missing)
  let all := add.foldl (fun l m => insertMissing m l) sd.missing
  let ks := (sd.ring.zipIdx.filter fun x => x.1.channel == ch).map (·.2)
  let shift := fun (p : Nat) => p - segWords * (ks.countP fun k => decide (segWords * (k + 1) ≤ p)) -
    (if ks.contains (p / segWords) then p % segWords else 0)
  { sd with
    ring := sd.ring.filter fun g => g.channel != ch
    wordsLost := sd.wordsLost + segWords * gone.length
    qRead := shift sd.qRead
    qRel := if ks.contains 0 then 0 else sd.qRel
    qSkip := sd.qSkip + (if ks.contains (sd.qRead / segWords) then segWords - sd.qRead % segWords else 0)
    qMark := match sd.qMark with | some m => if ks.contains (m / segWords) then none else some (shift m) | none => none
    qMarkLost := sd.qMarkLost || (match sd.qMark with | some m => ks.contains (m / segWords) | none => false)
    missing := all.foldl addMissing [] }

end Sys2Proof.Machine
end

