-- ==== Sys2Proof/Machine/Queues.lean ====
section
/-!
DEFINITION. The queue commands (chapter 10): arrivals, packets, consumer operations, staging banks; for the on-chip
queues, the stake queues and the stream rings.
-/
namespace Sys2Proof.Machine

/-- Number of a queue that is not a stream ring. -/
def qNumber : QRef → Nat
  | .onChip q => q
  | .stake k => stakeQ k
  | .stream _ => 0

/-! ### Losses by overwrite (R236) -/

/-- Record words that a station packet of `n` words would have occupied (Table 9.13). -/
def annWords (n : Nat) : Nat := sumOn (annotationRecs 0 (List.replicate (2 * n) 0) 0) fun r => r.words.length

/-- Cause of a loss at a queue (Table 9.17): OVERWRITE, or of items discarded at the staging, whose drain has stopped,
MEM_FREEZE: the table gives no other cause to a fault of a store (R229; DESIGN CHOICE, log entry 104). -/
def queueCause (staged : Bool) : Nat := if staged then 5 else 1

/-- Annotation packets are lost, each with its commit edge and its length: LOSS of SCOPE 0 in the streams that receive them
(R236). With none lost the losses that are open end. -/
def State.annotationLoss (s : State) (staged : Bool) (gone : List (Time × Nat)) : State :=
  match gone with
  | [] => s.each s.annStreams fun s i => (s.closeLoss i 1 0 0 0).closeLoss i 5 0 0 0
  | a :: _ =>
    let b := gone.getLastD a
    s.each s.annStreams fun s i => s.openLoss i (queueCause staged) 0 0 a.1 b.1 (sumOn (gone.map (·.2)) annWords)

/-- TIME that a record written into the stream now counts its offset from. -/
def State.streamBase (s : State) (i : Nat) : Time :=
  if (s.stream i).open_.isEmpty then s.slotStart else (s.stream i).baseTime

/-- A stake packer loses `lost` words of the record of header `w`: STK_PACK_LOST, and a LOSS of SCOPE 3 in the stream that
was to carry the record, at the record's time (R20, Table 9.2). When the loss ends, a LEVEL follows for each armed lane of
the stake (R217). -/
def State.packerLoss (s : State) (k : Nat) (staged : Bool) (w : DWord) (lost : Nat) : State :=
  if lost = 0 then
    s.each s.streamIds fun s i =>
      if (s.stream i).losses.any fun (l : OpenLoss) => (l.cause = 1 || l.cause = 5) && l.scope = 3 && l.index == k then
        let s := (s.closeLoss i 1 3 k 0).closeLoss i 5 3 k 0
        s.each ((List.range 16).map (16 * k + ·)) fun s n =>
          if s.laneStream n = some i && s.lnMode n != 0 && !s.lnGone n then s.laneLevel n 3 s.now else s
      else s
  else
    let s := s.addReg (STK_PACK_LOST k) lost
    match s.laneStream (fld w 52 8) with
    | some i => s.openLoss i (queueCause staged) 3 k (recordTime (s.streamBase i) w) (recordTime (s.streamBase i) w) lost
    | none => s

/-! ### Producer operations -/

/-- An item arrives, at time `t`, at a queue that is not a stream ring. -/
def State.queueArriveAt (s : State) (n : Nat) (w : DWord) (last parity : Bool) (t : Time) : State :=
  let o := (s.queue n).push (qKind n) w last parity t
  let head := if o.staged then o.q.recHead else ((s.queue n).popped ++ o.gone.map (·.word)).headD 0
  let s := s.settleQueue n o.q o.lost o.bad
  if n = 0 then
    if o.staged then s.annotationLoss true [(t, o.lost)]
    else if o.unread ≠ 0 then s.annotationLoss false o.goneTimes
    else if last && o.lost = 0 && o.bad = 0 then s.annotationLoss false [] else s
  else if n = 1 then
    let k := o.gone.countP (·.last) + o.staged.toNat
    s.modStation fun st => { st with
      lostVerdicts := st.lostVerdicts + k, partRead := if o.gone.isEmpty then st.partRead else 0 }
  else if n = 2 then s.modMbx fun m => { m with noticesLost := m.noticesLost + o.gone.countP (·.last) + o.staged.toNat }
  else if 5 ≤ n then s.packerLoss (n - 5) o.staged head o.lost
  else s

def State.queueArrive (s : State) (n : Nat) (w : DWord) (last parity : Bool) : State := s.queueArriveAt n w last parity s.now

/-- A whole record has arrived at a stream's ring. A MARK closes its segment, a FILL word ends it, and offsets after a BASE
count from its TIME (R209, R211, R212). -/
def State.ringRecord (s : State) (i : Nat) (ws : List DWord) (base : Time) : State :=
  let r := recordOf base ws
  match fld (ws.headD 0) 60 4 with
  | 0x0 => s.closeSegment i false false
  | 0x3 => (s.writeRec i r).modStream i fun sd => { sd with baseTime := base / 2 ^ 64 * 2 ^ 64 + (ws.getD 1 0).toNat }
  | 0x6 => if s.isShed (objKey 1 i) then s.writeRec i r else (s.roomFor i r).putMark i r (bit (ws.headD 0) 10)
  | _ => s.writeRec i r

/-- A record word arrives at a stream's ring (R207, R243): in the skip state it is discarded and counted in the FLUSH loss;
the words of a record stand together, so they enter the segment once the last has come, with the record's offset counted from
the BASE there. -/
def State.ringWord (s : State) (i : Nat) (w : DWord) : State :=
  if !s.hasStream i then s
  else
    let sd := s.stream i
    if sd.skipState then
      s.setStream i { sd with
        recLeft := sd.recLeft - 1
        skipState := decide (1 < sd.recLeft)
        wordsLost := sd.wordsLost + 1
        missing := match sd.missing.reverse with
          | m :: rest => if m.cause = 7 then (({ m with count := m.count + 1 } : Missing) :: rest).reverse else sd.missing
          | [] => [] }
    else
      let ws := sd.recPart ++ [w]
      let base := if sd.recPart.isEmpty then s.streamBase i else sd.recBase
      let left := recordWords (ws.headD 0) - ws.length
      if left = 0 then (s.setStream i { sd with recLeft := 0, recPart := [] }).ringRecord i ws base
      else s.setStream i { sd with recLeft := left, recPart := ws, recBase := base }

/-- The write of one item to a queue. -/
def State.queueWrite (s : State) (q : QRef) (w : DWord) (last parity : Bool) : State :=
  match q with
  | .stream i => s.ringWord i w
  | _ => s.queueArrive (qNumber q) w last parity

/-- Only an ordinary queue's producer aborts (R232, R233). -/
def execPacketAbort (q : QRef) (s : State) : Host.Outcome State Fault Refusal :=
  .next (match q with
    | .onChip n =>
      if (qKind n).packets = .ordinary then
        let o := (s.queue n).abort
        s.settleQueue n o.q o.lost o.bad
      else s
    | _ => s)

/-! ### Consumer operations (R234) -/

def StreamDyn.ringWords (sd : StreamDyn) : List DWord := sd.ring.flatMap (·.words)
def StreamDyn.ringDepth (sd : StreamDyn) : Nat := segWords * sd.ring.length - sd.qRead

/-- A READ or POP of a stream ring returns 64 bytes, or fewer items if the consumer asks for fewer, with V and SKIP (R231,
R235); it stalls at depth 0. -/
def StreamDyn.ringRead (sd : StreamDyn) (n : Nat) (pop : Bool) : StreamDyn :=
  if sd.ringDepth = 0 then { sd with qStalled := some (n, pop), qFail := 0 }
  else
    let c := min (min n 8) sd.ringDepth
    { sd with
      qRead := sd.qRead + c, qStalled := none, qSkip := 0, qFail := 0
      qLast := (sd.ringWords.drop sd.qRead).take c, qLastV := 8 * c
      qLastSkip := if sd.qSkip = 0 then none else some sd.qSkip }

/-- RELEASE on a stream ring up to `p`: every segment wholly before it leaves. -/
def StreamDyn.ringRelease (sd : StreamDyn) (p : Nat) (keepMark : Bool) : StreamDyn :=
  let k := p / segWords
  { sd with
    ring := sd.ring.drop k
    qRead := sd.qRead - k * segWords
    qRel := p % segWords
    qMark := if keepMark then sd.qMark.map (· - k * segWords) else none
    nextDeliver := match (sd.ring.take k).getLast? with | some g => segAdd g.seq 1 | none => sd.nextDeliver
    qFail := 0 }

/-- POP on a stream ring. -/
def StreamDyn.ringPop (sd : StreamDyn) (n : Nat) : StreamDyn :=
  let r := sd.ringRead n true
  if sd.ringDepth = 0 then r else r.ringRelease r.qRead false

/-- REWIND on a stream ring. -/
def StreamDyn.ringRewind (sd : StreamDyn) : StreamDyn :=
  match sd.qMark with
  | some m => { sd with qRead := m, qFail := 0 }
  | none => { sd with qMarkLost := false, qFail := if sd.qMarkLost then 2 else 1 }

/-- A stalled read of a stream ring completes as it was asked for (R237). -/
def StreamDyn.ringComplete (sd : StreamDyn) : StreamDyn :=
  match sd.qStalled with
  | some (n, pop) => if sd.ringDepth = 0 then sd else if pop then sd.ringPop n else sd.ringRead n false
  | none => sd

/-- A consumer operation on a queue (Table 10.2). -/
def QueueDyn.consume (k : QKind) (q : QueueDyn) : ConsumerOp → QueueDyn
  | .read n => q.doRead k n false
  | .pop n => q.doPop k n
  | .setMark => q.setMark
  | .rewind => q.rewind
  | .release => q.release
  | .releaseToMark => q.releaseToMark

/-- A consumer operation on a stream ring (Table 10.2). -/
def StreamDyn.consume (sd : StreamDyn) : ConsumerOp → StreamDyn
  | .read n => sd.ringRead n false
  | .pop n => sd.ringPop n
  | .setMark => { sd with qMark := some sd.qRead, qMarkLost := false, qFail := 0 }
  | .rewind => sd.ringRewind
  | .release => sd.ringRelease sd.qRead false
  | .releaseToMark => match sd.qMark with | some m => sd.ringRelease m true | none => { sd with qFail := 1 }

/-- A word that the consumer of a stake queue has taken: a whole record goes into the stream of its lane (Table 9.2, R226). -/
def State.stakeWord (s : State) (k : Nat) (w : DWord) : State :=
  let ws := (s.queue (stakeQ k)).popped ++ [w]
  if ws.length < recordWords (ws.headD 0) then s.modQueue (stakeQ k) fun d => { d with popped := ws }
  else
    let s := s.modQueue (stakeQ k) fun d => { d with popped := [] }
    match s.laneStream (fld (ws.headD 0) 52 8) with
    | some i => s.each ws fun s w => s.ringWord i w
    | none => s

/-- Apply a consumer's operation to a queue or to a stream ring. The words that a stake queue releases go on into streams. -/
def State.consume (s : State) (q : QRef) (f : QKind → QueueDyn → QueueDyn) (g : StreamDyn → StreamDyn) : State :=
  match q with
  | .stream i => if s.hasStream i then s.modStream i g else s
  | .onChip n => s.modQueue n (f (qKind n))
  | .stake k =>
    let old := s.queue (stakeQ k)
    let s := s.modQueue (stakeQ k) (f (qKind (stakeQ k)))
    s.each ((old.items.take (old.items.length - (s.queue (stakeQ k)).items.length)).map (·.word)) fun s w => s.stakeWord k w

/-- The end of a queue's cycle (R242): its watermarks and pins. -/
def State.endCycle (s : State) (q : QRef) : State :=
  match q with
  | .onChip n => s.followWater n
  | _ => s

def State.consumeOp (s : State) (q : QRef) (op : ConsumerOp) : State := s.consume q (fun k d => d.consume k op) (·.consume op)

def execQueueRead (q : QRef) (n : Nat) (s : State) : Host.Outcome State Fault Refusal := .next ((s.consumeOp q (.read n)).endCycle q)
def execPop (q : QRef) (n : Nat) (s : State) : Host.Outcome State Fault Refusal := .next ((s.consumeOp q (.pop n)).endCycle q)
def execSetMark (q : QRef) (s : State) : Host.Outcome State Fault Refusal := .next ((s.consumeOp q .setMark).endCycle q)
def execRewind (q : QRef) (s : State) : Host.Outcome State Fault Refusal := .next ((s.consumeOp q .rewind).endCycle q)
def execRelease (q : QRef) (s : State) : Host.Outcome State Fault Refusal := .next ((s.consumeOp q .release).endCycle q)
def execReleaseToMark (q : QRef) (s : State) : Host.Outcome State Fault Refusal :=
  .next ((s.consumeOp q .releaseToMark).endCycle q)

/-! ### One cycle: the consumer's operations, then the producer's (R242) -/

def execQueueWrite (q : QRef) (item : QueueItem) (last parity : Bool) (s : State) : Host.Outcome State Fault Refusal :=
  .next (((s.each item.same fun s op => s.consumeOp q op).queueWrite q item.word last parity).endCycle q)

/-- The last word of a packet: the packet becomes visible at once (R232). A stream ring has no packets that a producer
commits; there it is a record's word. -/
def execPacketCommit (q : QRef) (item : QueueItem) (s : State) : Host.Outcome State Fault Refusal :=
  .next (((s.each item.same fun s op => s.consumeOp q op).queueWrite q item.word true false).endCycle q)

/-- A VWORD read of the station port that queue 1 has answered completes: the word, END, SKIPPED (R402, Table 17.3). -/
def State.finishVword (s : State) : State :=
  let q := s.queue 1
  s.modStation fun st => { st with
    pendingRead := none, wait := false, dataOut := (q.lastItems.headD 0).setWidth 16, lastEnd := q.lastEnd
    partRead := if q.lastEnd then 0 else st.partRead + 1, skipped := q.lastSkip.isSome }

def execStalledReadComplete (q : QRef) (s : State) : Host.Outcome State Fault Refusal :=
  .next (
    let t := (s.consume q (fun k d => d.completeStalled k) (·.ringComplete)).endCycle q
    match q with
    | .onChip 1 =>
      if s.station.pendingRead.isSome && (s.queue 1).stalled.isSome && (t.queue 1).stalled.isNone then t.finishVword else t
    | _ => t)

def execReadWithdrawn (q : QRef) (s : State) : Host.Outcome State Fault Refusal :=
  .next (
    let s := s.consume q (fun _ d => d.withdraw) fun sd => { sd with qStalled := none }
    match q with
    | .onChip 1 =>
      if s.station.pendingRead = some 0 then
        (s.modStation fun st => { st with pendingRead := none, wait := false }).incReg STN_WITHDRAWN else s
    | _ => s)

/-! ### Staging banks (R229) -/

def execBankHandover (q : QRef) (s : State) : Host.Outcome State Fault Refusal :=
  .next (match q with
    | .stream i => s.modStream i fun sd =>
        if sd.bankFull && !sd.draining then { sd with bankFull := false, draining := true } else sd
    | _ => s.modQueue (qNumber q) (·.handover))

def execBankDrainDone (q : QRef) (s : State) : Host.Outcome State Fault Refusal :=
  .next (match q with
    | .stream i => s.modStream i fun sd => { sd with draining := sd.bankFull, bankFull := false }
    | _ => s.modQueue (qNumber q) fun d => d.drainDone (qKind (qNumber q)))

end Sys2Proof.Machine
end

