-- ==== Sys2Proof/Machine/SeqOps.lean ====
section
/-!
DEFINITION. Sequencers (chapter 5), the operations: branch inputs and conditions (R113 to R115), the decision of a slot
(R116, R117), counters and timers (R118), actions (R119, R120), restart and dead time (R121, R122), MARKs (R123 to R128).
-/
namespace Sys2Proof.Machine

/-! ### Registers -/

def State.sqEnabled (s : State) (q : Nat) : Bool := s.regBit (SQ_CFG q) 0
def State.sqPath (s : State) (q : Nat) : Nat := s.regF (SQ_CFG q) 1 2
def State.sqLevel (s : State) (q : Nat) : Nat := s.regF (SQ_STATUS q) 0 4
def State.sqCount (s : State) (q i : Nat) : Nat := s.reg64 (SQ_CNT_LO q i) % 2 ^ 48
def State.sqCountLimit (s : State) (q i : Nat) : Nat := s.reg64 (SQ_CNT_LIMIT_LO q i) % 2 ^ 48
def State.sqTimerLimit (s : State) (q i : Nat) : Nat := s.reg64 (SQ_TMR_LIMIT_LO q i) % 2 ^ 48
def State.sqTimerRun (s : State) (q i : Nat) : Bool := s.regBit (SQ_TMR_HI q i) 16
/-- Store a timer's VALUE and RUN. -/
def State.setTimer (s : State) (q i value : Nat) (run : Bool) : State :=
  (s.setReg (SQ_TMR_LO q i) (BitVec.ofNat 32 value)).setReg (SQ_TMR_HI q i)
    (BitVec.ofNat 32 (value / 2 ^ 32 % 2 ^ 16 + run.toNat * 2 ^ 16))

/-- Added delay of a path class in slots (Table 5.2). -/
def pathDelay : Nat → Nat
  | 0 => 0
  | 1 => 3
  | 2 => 6
  | _ => 19

/-- The sequence placed on a sequencer. -/
def State.sqSeq (s : State) (q : Nat) : Option Nat := s.weaver.place.sqSeq q

/-! ### Branch inputs (Table 5.1) -/

/-- A true input: its time and flags. -/
structure SeqInput where
  time : Time
  flags : EvFlags
  deriving DecidableEq, Repr

/-- The instant at which a running timer expires, or has expired and waits to be presented (R118). -/
def State.timerExpiry (s : State) (q i : Nat) : Option Time :=
  match Tbl.find? (s.seq q).timers i with
  | some t =>
    match t.due with
    | some e => some e
    | none => if s.sqTimerRun q i then some (t.start + slotFt * s.sqTimerLimit q i) else none
  | none => none

/-- Input `k` of the current level in slot `n`, when it is true. -/
def State.seqInput (s : State) (q n k : Nat) : Option SeqInput :=
  if k < 8 then
    let sel := s.reg (SQ_TSEL q (s.sqLevel q) k)
    if !bit sel 10 then none
    else
      (s.trig.results.find? fun r => r.slot == n && r.weave == fld sel 8 2 && r.number == fld sel 0 8).map fun r =>
        { time := r.res.time, flags := r.res.flags }
  else if k < 12 then
    let i := k - 8
    if s.sqCountLimit q i ≤ s.sqCount q i then
      some { time := if s.sqCountLimit q i = 0 then 0 else Tbl.getD (s.seq q).cntTime i 0, flags := EvFlags.none }
    else none
  else
    match s.timerExpiry q (k - 12) with
    | some e => if e / slotFt ≤ n then some { time := e, flags := EvFlags.none } else none
    | none => none

/-- The 16 inputs. -/
def State.seqInputs (s : State) (q n : Nat) : List (Option SeqInput) := (List.range 16).map (s.seqInput q n)

/-! ### Conditions (R114, R115) -/

def condHolds (cond : Word) (or_ : Bool) (ins : List (Option SeqInput)) : Bool :=
  let vals := (ins.zipIdx.filter fun x => bit cond x.2).map fun x => x.1.isSome != bit cond (16 + x.2)
  if or_ then vals.any id else vals.all id

/-- Trigger time and flags of a satisfied branch in slot `n`. R115 gives no rule for the flags when two contributing inputs
have the trigger time: those of the lowest-numbered one pass (DESIGN CHOICE, log entry 100). -/
def triggerOf (cond : Word) (or_ : Bool) (ins : List (Option SeqInput)) (n : Nat) : SeqInput :=
  let cs := (ins.zipIdx.filter fun x => bit cond x.2 && !bit cond (16 + x.2)).filterMap (·.1)
  match cs with
  | [] => { time := slotFt * n, flags := EvFlags.none }
  | c :: t => t.foldl (fun a b => if or_ then (if b.time < a.time then b else a) else (if a.time < b.time then b else a)) c

/-- Branch `b` of level `j` exists and its condition holds. -/
def State.branchHolds (s : State) (q j b : Nat) (ins : List (Option SeqInput)) : Bool :=
  bit (s.reg (SQ_BR_CTL q j b)) 0 && condHolds (s.reg (SQ_BR_COND q j b)) (bit (s.reg (SQ_BR_CTL q j b)) 1) ins

/-! ### MARKs (R123, R124, R127, R128) -/

/-- Emit a MARK: it takes the next MARK_SEQ and the accumulated missed count, dead time and folded count. -/
def State.emitMark (s : State) (q n : Nat) (m : Mark) : State :=
  let d := s.seq q
  let dead := s.reg64 (SQ_DEAD_LO q) % 2 ^ 40
  let missed := s.regF (SQ_MISSED q) 0 24
  let mk := { m with sq := q, seq := d.markSeq, dead := dead, missed := missed, folded := s.regF (SQ_FOLDED q) 0 16 }
  let s := s.setSeq q { d with lastMark := some n, markSeq := d.markSeq + 1 }
  let s := ((s.setReg64 (SQ_DEAD_LO q) 0).setReg (SQ_MISSED q) 0).setReg (SQ_FOLDED q) 0
  let s := s.incReg (SQ_MARKS q)
  match s.sqSeq q with
  | some idx => s.sendMark idx mk
  | none => s

def Mark.plain (t : Time) (level : Nat) (id : Byte) : Mark :=
  { time := t, sq := 0, seq := 0, id := id, fromLevel := BitVec.ofNat 4 level, toLevel := BitVec.ofNat 4 level, branch := 0
    satisfied := 0, inputs := 0, dead := 0, missed := 0, folded := 0, forced := false, summary := false
    flags := EvFlags.none }

/-- A MARK may be emitted in slot `n` (R124). -/
def SeqDyn.markFree (d : SeqDyn) (n : Nat) : Bool :=
  match d.lastMark with
  | some l => decide (l + 16 ≤ n)
  | none => true

/-- SUMMARY MARK at `t`, when anything has accumulated (R128). It is emitted at once, also less than 16 slots after the
sequencer's previous MARK (DESIGN CHOICE, log entry 100: R124 and R128 do not say which gives way). -/
def State.summaryMark (s : State) (q : Nat) (t : Time) : State :=
  if s.reg64 (SQ_DEAD_LO q) % 2 ^ 40 = 0 && s.regF (SQ_MISSED q) 0 24 == 0 && s.regF (SQ_FOLDED q) 0 16 == 0 then s
  else s.emitMark q (t / slotFt) { Mark.plain t (s.sqLevel q) 0 with summary := true }

/-- A forced MARK whose slot has come is emitted in the first slot that R124 allows, and its command is answered (R127). -/
def State.forcedMark (s : State) (q n : Nat) : State :=
  match (s.seq q).forced with
  | [] => s
  | (at_, id, m) :: rest =>
    if at_ ≤ n && (s.seq q).markFree n then
      let seq := (s.seq q).markSeq
      let s := s.modSeq q fun d => { d with forced := rest }
      let s := s.emitMark q n { Mark.plain (slotFt * n) (s.sqLevel q) id with forced := true }
      s.respond m (Response.ok (leBytes 8 (slotFt * n) ++ leBytes 4 (uSq q).toNat ++ leBytes 2 seq.toNat ++ leBytes 2 0))
    else s

/-! ### Actions (Table 5.3) -/

/-- Index of the object that binding `k` holds, if it has the type. -/
def State.sqBind (s : State) (q k type : Nat) : Option Nat :=
  if s.regF (SQ_BIND q k) 16 4 = type then some (s.regF (SQ_BIND q k) 0 16) else none

/-- An interval event from a sequencer reaches unit `iu`: firmware has put the unit's number into the action (R119, R185,
R186). -/
def State.iuEvent (s : State) (iu : Nat) (ev : IvEv) (b : Bool) (t : SeqInput) : State :=
  let src := if b then s.iuSrcB iu else s.iuSrcA iu
  if !iuEnable (s.iuCfg iu) || s.isShed (objKey 5 (iuJob (s.iuCfg iu))) || (ev ≠ .reset && src / 2 ^ 13 ≠ 5) then s
  else s.ivPush iu { at_ := t.time, flags := t.flags, ev := ev }

/-- A sequencer's request joins the list: those of one slot stand in order of sequencer (R120). -/
def insertReq (r : LedgerReq) : List LedgerReq → List LedgerReq
  | [] => [r]
  | x :: t =>
    if x.fromSeq && (decide (r.slot < x.slot) || (r.slot == x.slot && decide (r.unit.toNat < x.unit.toNat))) then r :: x :: t
    else x :: insertReq r t

/-- A SNAPSHOT request of slot `n` (R378): the list of 256 refuses more. -/
def State.snapshotRequest (s : State) (q n : Nat) (t : Time) : State :=
  if 256 ≤ s.ledger.reqs.countP (·.fromSeq) then
    s.countRefused
  else s.modLedger fun l => { l with
    reqs := insertReq { type := 0x0020, severity := 0, unit := uSq q, trigger := 0x10
                        body := leBytes 8 (t % 2 ^ 64) ++ leBytes 2 (s.seq q).markSeq.toNat ++ leBytes 6 0
                        fromSeq := true, slot := n } l.reqs }

/-- A TRIG_OUT request of slot `n`: it reaches the hub once the slot is decided. Requests of several sequencers in one slot
produce one pulse (R120), and a pin that is not enabled ignores them (R135). -/
def State.requestPulse (s : State) (q n pin : Nat) : State :=
  if !s.regBit (HUB_TOUT_CTL pin) 17 then s
  else s.modTout pin fun d =>
    if d.served = some n || d.requests.any (·.1 == n) then d
    else { d with requests := d.requests ++ [(n, n + 7 + pathDelay (s.sqPath q))] }

/-- One action of a branch taken in slot `n`. `sat` is the SATISFIED field, `ins` the true inputs. -/
def State.seqAction (s : State) (q n j next b sat ins : Nat) (t : SeqInput) (code : Nat) : State :=
  let arg := code / 32
  match code % 32 with
  | 0x01 =>
    if (s.seq q).markFree n then
      s.emitMark q n { Mark.plain t.time j (BitVec.ofNat 8 arg) with
        toLevel := BitVec.ofNat 4 next, branch := BitVec.ofNat 2 b, satisfied := BitVec.ofNat 4 sat
        inputs := BitVec.ofNat 16 ins, flags := t.flags }
    else s.addRegF (SQ_FOLDED q) 0 16 1
  | 0x02 =>
    let i := arg % 4
    let c := s.sqCount q i
    let s := s.setReg64 (SQ_CNT_LO q i) (min (c + 1) (2 ^ 48 - 1))
    if c + 1 = s.sqCountLimit q i then s.modSeq q fun d => { d with cntTime := Tbl.put d.cntTime i t.time } else s
  | 0x03 => s.setReg64 (SQ_CNT_LO q (arg % 4)) 0
  | 0x04 =>
    (s.modSeq q fun d => { d with timers := Tbl.put d.timers (arg % 4) { start := t.time, due := none } }).setTimer q
      (arg % 4) 0 true
  | 0x05 =>
    let i := arg % 4
    match Tbl.find? (s.seq q).timers i with
    | some tm =>
      let running := s.sqTimerRun q i || tm.due.isSome
      let s := s.modSeq q fun d => { d with timers := Tbl.put d.timers i { tm with due := none } }
      if running then s.setTimer q i (min (s.sqTimerLimit q i) ((slotFt * (n + 1) - tm.start) / slotFt)) false else s
    | none => s
  | 0x06 => (s.modSeq q fun d => { d with timers := Tbl.del d.timers (arg % 4) }).setTimer q (arg % 4) 0 false
  | 0x07 => s.iuEvent (arg % 16) (.a true) false t
  | 0x08 => s.iuEvent (arg % 16) (.b true) true t
  | 0x09 => s.iuEvent (arg % 16) .reset false t
  | 0x0A => s.requestPulse q n (arg % 4)
  | 0x0B => match s.sqBind q (arg % 16) 1 with | some i => s.windowOpen i q | none => s
  | 0x0C => match s.sqBind q (arg % 16) 1 with | some i => s.windowClose i q | none => s
  | 0x0D =>
    match s.sqBind q (arg % 16) 6 with
    | some c => s.queueAnchor c (.sequencer t.time)
    | none => s
  | 0x0E =>
    match s.sqBind q (arg % 16) 6 with
    | some c => match s.weaver.place.cmpCu c with
      | some cu => s.compareEnd cu t.time
      | none => s
    | none => s
  | 0x0F =>
    match s.sqBind q (arg % 16) 4 with
    | some h => match s.weaver.place.histPlace h with
      | some p => (s.histSwap p.hu p.region t.time).1
      | none => s
    | none => s
  | 0x10 => s.snapshotRequest q n t.time
  | _ => s

/-- The four action codes of a branch. -/
def State.seqActions (s : State) (q j b : Nat) : List Nat :=
  let lo := (s.reg (SQ_BR_ACT_LO q j b)).toNat
  let hi := (s.reg (SQ_BR_ACT_HI q j b)).toNat
  [lo % 65536, lo / 65536, hi % 65536, hi / 65536]

/-! ### The decision of a slot (R116, R117, R121, R122) -/

/-- Timers whose expiry is presented in slot `n` stop with VALUE = LIMIT; the slot's branch may start them again (R118). -/
def State.expireTimers (s : State) (q n : Nat) : State :=
  s.each (List.range 4) fun s i =>
    match s.timerExpiry q i with
    | some e =>
      if e / slotFt ≤ n then
        (s.modSeq q fun d => { d with timers := Tbl.del d.timers i }).setTimer q i (s.sqTimerLimit q i) false
      else s
    | none => s

/-- Take branch `b` of level `j` in slot `n`. -/
def State.takeBranch (s : State) (q n j b sat ins : Nat) (t : SeqInput) : State :=
  let next := s.regF (SQ_BR_CTL q j b) 2 4
  let s := s.each (s.seqActions q j b) fun s c => s.seqAction q n j next b sat ins t c
  let s := s.setRegF (SQ_STATUS q) 0 4 next
  if next = 0 then
    (s.modSeq q fun d => { d with deadEnd := some (n + 5 + s.regF (SQ_HOLDOFF q) 0 24) }).setRegBit (SQ_STATUS q) 5 true
  else s

/-- The sequencer decides slot `n`. A forced MARK of the slot comes after the branch, so that its FROM and TO are the level
that the branch leads to, and its TIME may lie before that of a MARK action that it folds (DESIGN CHOICE, log entry 111). -/
def State.decideSlot (s : State) (q n : Nat) : State :=
  let shed := match s.sqSeq q with | some i => s.isShed (objKey 2 i) | none => true
  if !s.sqEnabled q || shed then s
  else
    let ins := s.seqInputs q n
    let j := s.sqLevel q
    let holds := (List.range 4).filter fun b => s.branchHolds q j b ins
    let dead := match (s.seq q).deadEnd with | some e => decide (n < e) | none => false
    let s := s.expireTimers q n
    let s :=
      if dead then
        let s := s.setReg64 (SQ_DEAD_LO q) (min (2 ^ 40 - 1) (s.reg64 (SQ_DEAD_LO q) % 2 ^ 40 + slotFt))
        if holds.isEmpty then s else s.addRegF (SQ_MISSED q) 0 24 1
      else
        let s := (s.modSeq q fun d => { d with deadEnd := none }).setRegBit (SQ_STATUS q) 5 false
        match holds with
        | [] => s
        | b :: _ =>
          let t := triggerOf (s.reg (SQ_BR_COND q j b)) (bit (s.reg (SQ_BR_CTL q j b)) 1) ins n
          s.takeBranch q n j b (sumOn holds fun h => 2 ^ h)
            (sumOn (ins.zipIdx.filter (·.1.isSome)) fun x => 2 ^ x.2) t
    s.forcedMark q n

/-- Results that no placed sequencer still needs leave (R116). -/
def State.pruneResults (s : State) : State :=
  let qs := (List.range 32).filter fun q => s.sqEnabled q
  let low := qs.foldl (fun m q => min m (s.seq q).next) s.slot
  s.modTrig fun t => { t with results := t.results.filter fun r => decide (low ≤ r.slot) }

/-- Decide the next slot of a sequencer. -/
def State.decideNext (s : State) (q : Nat) : State :=
  let n := (s.seq q).next
  ((s.decideSlot q n).modSeq q fun d => { d with next := n + 1 })

/-- Decide every slot up to and with `upTo`: slot by slot, and within a slot in order of sequencer (R120, R136). -/
def State.decideThrough (qs : List Nat) (upTo : Nat) : Nat → State → State
  | 0, s => s
  | fuel + 1, s =>
    let low := qs.foldl (fun m q => min m (s.seq q).next) (upTo + 1)
    if upTo < low then s
    else State.decideThrough qs upTo fuel (s.each qs fun s q => if (s.seq q).next = low then s.decideNext q else s)

/-- Slots that the slowest of some sequencers has still to decide. -/
def State.slotsLeft (s : State) (qs : List Nat) (upTo : Nat) : Nat :=
  upTo + 1 - qs.foldl (fun m q => min m (s.seq q).next) (upTo + 1)

/-- Forced MARKs for which no slot is left, at DISARM and at a COMMIT that changes or removes their sequence, are answered
NOT_READY (DESIGN CHOICE, log entry 23). -/
def State.dropForced (s : State) (q : Nat) : State :=
  let s := s.each (s.seq q).forced fun s f => s.respond f.2.2 (Response.fail stNotReady 0)
  s.modSeq q fun d => { d with forced := [] }

/-- A sequencer starts as at ARM from slot `n` (R136). -/
def State.startSequencer (s : State) (q n : Nat) (keepMarks : Bool) : State :=
  let s := s.dropForced q
  let d := s.seq q
  let s := s.setSeq q { SeqDyn.init with
    next := n, markSeq := if keepMarks then d.markSeq else 0, lastMark := if keepMarks then d.lastMark else none }
  let s := s.setReg (SQ_STATUS q) (BitVec.ofNat 32 (16 * s.time.armed.toNat))
  let s := ((s.setReg64 (SQ_DEAD_LO q) 0).setReg (SQ_MISSED q) 0).setReg (SQ_FOLDED q) 0
  s.each (List.range 4) fun s i => (s.setReg64 (SQ_CNT_LO q i) 0).setTimer q i 0 false

/-- Sequencers that serve a sequence. -/
def State.sqsInUse (s : State) : List Nat := (List.range 32).filter s.sqEnabled

end Sys2Proof.Machine
end

