-- ==== Sys2Proof/Machine/TermOps.lean ====
section
/-!
DEFINITION. Trigger terms (chapter 4), the operations: the units in use, pattern, duration and signal-quality units,
deviation inputs, pod-port terms, TRIG_IN terms, and the results of a slot (R89 to R92).
-/
namespace Sys2Proof.Machine

/-! ### Units and their numbers (Tables 4.1 and 4.2) -/

/-- A term unit: stake or port, then unit; weave and pin for TRIG_IN. -/
inductive TermUnit where
  | pt (stake u : Nat)
  | du (stake u : Nat)
  | qu (stake u : Nat)
  | dv (stake u : Nat)
  | ppt (port u : Nat)
  | pdu (port u : Nat)
  | drop (port : Nat)
  | tin (weave i : Nat)
  deriving DecidableEq, Repr

def TermUnit.weave : TermUnit → Nat
  | .pt k _ => k / 3
  | .du k _ => k / 3
  | .qu k _ => k / 3
  | .dv k _ => k / 3
  | .ppt p _ => p / 4
  | .pdu p _ => p / 4
  | .drop p => p / 4
  | .tin w _ => w

def TermUnit.number : TermUnit → Nat
  | .pt k u => 16 * (k % 3) + u
  | .du k u => 0x30 + 8 * (k % 3) + u
  | .qu k u => 0x48 + 4 * (k % 3) + u
  | .dv k u => 0x54 + 2 * (k % 3) + u
  | .ppt p u => 0x60 + 16 * (p % 4) + u
  | .pdu p u => 0xA0 + 8 * (p % 4) + u
  | .drop p => 0xC0 + p % 4
  | .tin _ i => 0xC4 + i

/-- Key of a unit in the tables of TrigState. -/
def TermUnit.key (t : TermUnit) : Nat := 256 * t.weave + t.number

/-- Address of the unit's CTL register. -/
def TermUnit.ctl : TermUnit → Nat
  | .pt k u => STK k (0x100 + 0x10 * u)
  | .du k u => STK k (0x200 + 0x20 * u)
  | .qu k u => STK k (0x300 + 0x20 * u)
  | .dv k u => STK k (0x380 + 0x08 * u)
  | .ppt p u => PP p (0x200 + 0x40 * u)
  | .pdu p u => PP p (0x600 + 0x20 * u)
  | .drop p => PP p 0x700
  | .tin w i => WV w (0x40 + 4 * i)

/-- Address of the unit's HITS counter; a TRIG_IN term has none. -/
def TermUnit.hits : TermUnit → Option Nat
  | .pt k u => some (STK k (0x10C + 0x10 * u))
  | .du k u => some (STK k (0x21C + 0x20 * u))
  | .qu k u => some (STK k (0x314 + 0x20 * u))
  | .dv k u => some (STK k (0x384 + 0x08 * u))
  | .ppt p u => some (PP p (0x224 + 0x40 * u))
  | .pdu p u => some (PP p (0x61C + 0x20 * u))
  | .drop p => some (PP p 0x708)
  | .tin _ _ => none

/-- The unit of a term number on a weave. -/
def termAt (w n : Nat) : Option TermUnit :=
  if n < 0x30 then some (.pt (3 * w + n / 16) (n % 16))
  else if n < 0x48 then some (.du (3 * w + (n - 0x30) / 8) (n % 8))
  else if n < 0x54 then some (.qu (3 * w + (n - 0x48) / 4) (n % 4))
  else if n < 0x5A then some (.dv (3 * w + (n - 0x54) / 2) (n % 2))
  else if n < 0x60 then none
  else if n < 0xA0 then some (.ppt (4 * w + (n - 0x60) / 16) (n % 16))
  else if n < 0xC0 then some (.pdu (4 * w + (n - 0xA0) / 8) (n % 8))
  else if n < 0xC4 then some (.drop (4 * w + n % 4))
  else if n < 0xC8 then some (.tin w (n % 4))
  else none

/-- The unit whose CTL register has BAR 0 address `a`. -/
def termOfAddr (a : Nat) : Option TermUnit :=
  let d := a / 0x1000000 - 1
  let o := a % 0x1000000
  if a < 0x1000000 ∨ 0x3000000 ≤ a then none
  else if 0x010000 ≤ o ∧ o < 0x010000 + 0x400 * 6 then
    let k := 6 * d + (o - 0x010000) / 0x400
    let r := o % 0x400
    if 0x100 ≤ r ∧ r < 0x200 ∧ r % 0x10 = 0 then some (.pt k (r / 0x10 % 16))
    else if 0x200 ≤ r ∧ r < 0x300 ∧ r % 0x20 = 0 then some (.du k (r / 0x20 % 8))
    else if 0x300 ≤ r ∧ r < 0x380 ∧ r % 0x20 = 0 then some (.qu k (r / 0x20 % 4))
    else if r = 0x380 ∨ r = 0x388 then some (.dv k (r / 8 % 2))
    else none
  else if 0x020000 ≤ o ∧ o < 0x020200 then
    let r := o % 0x100
    if 0x40 ≤ r ∧ r < 0x50 then some (.tin (2 * d + (o - 0x020000) / 0x100) (r / 4 % 4)) else none
  else if 0x030000 ≤ o ∧ o < 0x030000 + 0x800 * 8 then
    let p := 8 * d + (o - 0x030000) / 0x800
    let r := o % 0x800
    if 0x200 ≤ r ∧ r < 0x600 ∧ r % 0x40 = 0 then some (.ppt p (r / 0x40 - 8))
    else if 0x600 ≤ r ∧ r < 0x700 ∧ r % 0x20 = 0 then some (.pdu p (r / 0x20 % 8))
    else if r = 0x700 then some (.drop p)
    else none
  else none

/-- The unit is in use, by its CTL register. -/
def State.termOn (s : State) (t : TermUnit) : Bool :=
  let c := s.reg t.ctl
  match t with
  | .pt _ _ => bit c 0
  | .du _ _ => fld c 0 3 != 0
  | .qu _ _ => fld c 0 2 != 0
  | .dv _ _ => bit c 0
  | .ppt _ _ => bit c 0
  | .pdu _ _ => fld c 0 3 != 0
  | .drop _ => bit c 13
  | .tin _ _ => fld c 0 2 != 0

/-- Every unit in use; an unlisted CTL register is at reset, and off. -/
def State.termsOn (s : State) : List TermUnit := (s.regs.keys.filterMap termOfAddr).filter s.termOn

/-! ### Results and detections -/

def State.unitMeas (s : State) (t : TermUnit) : MeasDyn :=
  Tbl.getD s.trig.meas t.key { start := none, flags := EvFlags.none, fired := 0, start2 := none }
def State.setMeas (s : State) (t : TermUnit) (m : MeasDyn) : State :=
  s.modTrig fun g => { g with meas := Tbl.put g.meas t.key m }

/-- Merge a detection into a result: the earliest TIME with its flags, COUNT up to 15 (Table 4.3). -/
def TermResult.merge (a b : TermResult) : TermResult :=
  { time := min a.time b.time, count := sat 15 (a.count + b.count), flags := if b.time < a.time then b.flags else a.flags }

def mergeResult (l : List SlotResult) (r : SlotResult) : List SlotResult :=
  match l with
  | [] => [r]
  | x :: t =>
    if x.slot = r.slot && x.weave == r.weave && x.number == r.number then { x with res := x.res.merge r.res } :: t
    else x :: mergeResult t r

def State.addResult (s : State) (t : TermUnit) (res : TermResult) : State :=
  let s := s.modTrig fun g => { g with
    results := mergeResult g.results { slot := s.slot, weave := t.weave, number := t.number, res := res } }
  s

/-- One detection of an event term in the slot in progress. -/
def State.detect (s : State) (t : TermUnit) (time : Time) (f : EvFlags) : State :=
  let s := s.addResult t { time := time, count := 1, flags := f }
  let s := s.modTrig fun g => { g with dets := g.dets ++ [(t.key, time, f)] }
  match t.hits with
  | some a => s.incReg a
  | none => s

/-! ### Pattern/edge units (R96 to R98) -/

def State.ptCode (s : State) (k u l : Nat) : Nat :=
  if l < 8 then s.regF (STK k (0x104 + 0x10 * u)) (4 * l) 4 else s.regF (STK k (0x108 + 0x10 * u)) (4 * (l - 8)) 4

def ptIsLevel (c : Nat) : Bool := 1 ≤ c && c ≤ 5
def ptIsEdge (c : Nat) : Bool := 8 ≤ c

/-- A level code holds in a threshold state (Table 4.4). -/
def ptLevel (c : Nat) (st : BitVec 2) : Bool :=
  match c with
  | 1 => st == 0
  | 2 => st == 1
  | 3 => st == 3
  | 4 => st == 1 || st == 3
  | 5 => st == 0 || st == 1
  | _ => true

/-- An edge code takes an event of its lane (Table 4.4). -/
def ptEdge (c lane : Nat) : InEv → Bool
  | .edge n comp rise _ =>
    n == lane && (match c with
      | 0xB => comp == .l && rise
      | 0xC => comp == .l && !rise
      | 0xD => comp == .u && rise
      | 0xE => comp == .u && !rise
      | 0xF => true
      | _ => false)
  | .crossing n rise _ _ =>
    n == lane && (match c with
      | 0x8 => rise
      | 0x9 => !rise
      | 0xA => true
      | _ => false)
  | _ => false

/-- P of a unit at an instant (R97); a lane that is off or retired fails its level conditions (R95). -/
def State.ptHolds (s : State) (k u : Nat) (t : Time) : Bool :=
  let ls := (List.range 16).filter fun l => ptIsLevel (s.ptCode k u l)
  let vals := ls.map fun l =>
    s.lnLive (16 * k + l) && ptLevel (s.ptCode k u l) (stateAt (s.lnStates (16 * k + l)) t)
  let c := s.reg (STK k (0x100 + 0x10 * u))
  let p := if vals.isEmpty then true else if bit c 1 then vals.any id else vals.all id
  if bit c 2 then !p else p

def State.ptHasEdge (s : State) (k u : Nat) : Bool := (List.range 16).any fun l => ptIsEdge (s.ptCode k u l)

/-- Insert an instant in a rising list without repeats. -/
def insertTime (t : Time) : List Time → List Time
  | [] => [t]
  | x :: l => if t < x then t :: x :: l else if t = x then x :: l else x :: insertTime t l

/-- Follow a level condition over instants: when it last became true, when the last of the spans in which it held began, and how
often it became true. -/
def levelWalk (p : Time → Bool) (fl : Time → EvFlags) (since : Option (Time × EvFlags)) :
    List Time → Option (Time × EvFlags) × Option (Time × EvFlags) × Nat
  | [] => (since, none, 0)
  | t :: rest =>
    let cur := if p t then (match since with | some x => some x | none => some (t, fl t)) else none
    let r := levelWalk p fl cur rest
    (r.1, (match r.2.1 with | some x => some x | none => cur), r.2.2 + (p t && since.isNone).toNat)

/-- Present a level term for the slot (R90, R91). Edges that enter late, with stamps before the slot, change the condition from
this slot on and TIME carries their stamps (R462): `late` holds the instants before the slot to follow again, `ins` those of
the slot after its start. -/
def State.levelTerm (s : State) (t : TermUnit) (p : Time → Bool) (fl : Time → EvFlags) (late ins : List Time) : State :=
  let old := Tbl.find? s.trig.since t.key
  let first := match late.head?, old with
    | some e, some x => if x.1 < e then some x else none
    | _, _ => old
  let before := (levelWalk p fl first late).1
  let r := levelWalk p fl before (s.slotStart :: ins)
  let s := s.modTrig fun g => { g with
    since := match r.1 with | some x => Tbl.put g.since t.key x | none => Tbl.del g.since t.key }
  let hits := r.2.2 + (p s.slotStart && before.isSome && old.isNone).toNat
  let s := match t.hits with | some a => s.addReg a hits | none => s
  match r.2.1 with
  | some x => s.addResult t { time := x.1, count := 1, flags := x.2 }
  | none => s

/-- Flags of the edges at an instant that made a level condition true, among the events of the slot; those of an earlier slot
are in `old`. -/
def flagsAt (old : Option (Time × EvFlags)) (evs : List TimedEv) (t : Time) : EvFlags :=
  let f := (evs.filter fun e => e.at_ == t).foldl (fun f e => f.or e.flags) EvFlags.none
  match old with
  | some x => if x.1 = t then f.or x.2 else f
  | none => f

/-- A pattern/edge unit in the slot. -/
def State.runPattern (s : State) (k u : Nat) (evs : List TimedEv) : State :=
  let t := TermUnit.pt k u
  if s.ptHasEdge k u then
    s.each (evs.filter fun e => (List.range 16).any fun l =>
        ptIsEdge (s.ptCode k u l) && ptEdge (s.ptCode k u l) (16 * k + l) e.ev && s.lnLive (16 * k + l))
      fun s e => if s.ptHolds k u e.at_ then s.detect t e.at_ e.flags else s
  else
    let ls := (List.range 16).filter fun l => ptIsLevel (s.ptCode k u l)
    let mine := evs.filter fun e => match e.ev with | .edge n _ _ _ => n / 16 == k && ls.contains (n % 16) | _ => false
    let ins := mine.foldl (fun l e => if s.slotStart < e.at_ then insertTime e.at_ l else l) []
    let late := mine.foldl (fun l e => if e.at_ ≤ s.slotStart then insertTime e.at_ l else l) []
    let late := match late with
      | [] => []
      | e :: _ => (ls.flatMap fun l => (s.lane (16 * k + l)).history.map (·.at_)).foldl (fun l t =>
          if e ≤ t && t ≤ s.slotStart then insertTime t l else l) late
    s.levelTerm t (s.ptHolds k u) (flagsAt (Tbl.find? s.trig.since t.key) mine) late ins

/-! ### Duration units (R99 to R102, R108) -/

/-- The settings that stake and pod duration units share. -/
structure DurCfg where
  kind : Nat
  polA : Nat
  polB : Nat
  rel : Nat
  early : Bool
  repeat_ : Bool
  min : Nat
  max : Nat
  deriving DecidableEq, Repr

def State.durCfg (s : State) (t : TermUnit) : DurCfg :=
  let c := s.reg t.ctl
  let hi := match t with | .pdu _ _ => 21 | _ => 17
  { kind := fld c 0 3, polA := fld c 5 2, polB := fld c 7 2, rel := fld c hi 2, early := bit c (hi + 2)
    repeat_ := bit c (hi + 3), min := s.reg64 (t.ctl + 4) % 2 ^ 48, max := s.reg64 (t.ctl + 0x0C) % 2 ^ 48 }

/-- D meets the relation (Table 4.6). -/
def DurCfg.fires (c : DurCfg) (d : Nat) : Bool :=
  match c.rel with
  | 0 => decide (d < c.min)
  | 1 => decide (c.max < d)
  | 2 => decide (c.min ≤ d) && decide (d ≤ c.max)
  | _ => decide (d < c.min) || decide (c.max < d)

/-- The instant at which a measurement fires without an edge: an early decision or a timeout. -/
def DurCfg.deadline (c : DurCfg) (m : MeasDyn) : Option Time :=
  match m.start with
  | none => none
  | some t0 =>
    if c.kind = 4 then (if m.fired = 0 || c.repeat_ then some (t0 + c.max * (m.fired + 1)) else none)
    else if c.early && (c.rel = 1 || c.rel = 3) && m.fired = 0 then some (t0 + c.max + 1)
    else none

/-- The instant up to which deadlines of a unit are settled at the end of the slot: a pod unit needs its pod's history (R108). -/
def State.deadlineBound (s : State) (t : TermUnit) : Time :=
  match t with
  | .pdu p _ =>
    match s.ppTrig p with
    | some pos => (512 * (s.linkNow p - (80 + 17 * pos : Nat)) + (s.port p).cBase + 1).toNat
    | none => 0
  | _ => s.slotEnd

/-- A unit decides without an edge: a pod unit detects it once its pod's history is complete up to it (R108). -/
def State.detectDue (s : State) (t : TermUnit) (x : Time) (f : EvFlags) : State :=
  if x < s.deadlineBound t then s.detect t x f else s.modTrig fun g => { g with confirmed := g.confirmed ++ [(t.key, x, f)] }

/-- Fire every deadline before `upTo`. -/
def State.fireDeadlines (t : TermUnit) (upTo : Time) : Nat → State → State
  | 0, s => s
  | fuel + 1, s =>
    let c := s.durCfg t
    let m := s.unitMeas t
    match c.deadline m with
    | none => s
    | some x =>
      if x < upTo && (c.kind != 4 || c.max != 0) then
        State.fireDeadlines t upTo fuel ((s.setMeas t { m with fired := m.fired + 1 }).detectDue t x m.flags)
      else s

def deadlineFuel : Nat := 512

/-- A measurement ends at `te` with duration D: LAST is written, and the unit fires unless it has fired (R100). An interval
of D = 0 is UNRESOLVED and not UNSTAMPED (R102). -/
def State.endMeasure (s : State) (t : TermUnit) (t0 te : Time) (f : EvFlags) : State :=
  let c := s.durCfg t
  let d := min (te - t0) (2 ^ 48 - 1)
  let s := s.setReg (t.ctl + 0x14) (BitVec.ofNat 32 d)
  let s := s.setReg (t.ctl + 0x18) (BitVec.ofNat 32 (d / 2 ^ 32 + if c.kind = 5 ∧ te = t0 then 2 ^ 16 else 0))
  if (s.unitMeas t).fired = 0 && c.fires d then s.detect t te (if c.kind = 5 ∧ te = t0 then { f with unstamped := false } else f)
  else s

/-- One edge for a duration unit: whether it is an edge of A or of B, and its polarity. -/
structure DurEdge where
  at_ : Time
  flags : EvFlags
  isA : Bool
  isB : Bool
  rise : Bool
  deriving DecidableEq, Repr

/-- At one time, an edge of A comes before an edge of B alone; one that is both ends a measurement before it starts one. -/
def insertDur (e : DurEdge) : List DurEdge → List DurEdge
  | [] => [e]
  | x :: t => if e.at_ < x.at_ || (e.at_ == x.at_ && e.isA && !x.isA) then e :: x :: t else x :: insertDur e t

def State.startMeasure (s : State) (t : TermUnit) (e : DurEdge) : State :=
  s.setMeas t { start := some e.at_, flags := e.flags, fired := 0, start2 := none }
def State.stopMeasure (s : State) (t : TermUnit) : State :=
  s.setMeas t { start := none, flags := EvFlags.none, fired := 0, start2 := none }

/-- A duration unit meets an edge (Table 4.5), after the deadlines before it. -/
def State.durEdge (s : State) (t : TermUnit) (e : DurEdge) : State :=
  let s := State.fireDeadlines t e.at_ deadlineFuel s
  let c := s.durCfg t
  let m := s.unitMeas t
  match c.kind with
  | 1 | 2 =>
    if !e.isA then s
    else if e.rise == (c.kind == 1) then s.startMeasure t e
    else match m.start with
      | some t0 => (s.endMeasure t t0 e.at_ (m.flags.or e.flags)).stopMeasure t
      | none => s
  | 3 =>
    if !(e.isA && polTakes c.polA e.rise) then s
    else
      let s := match m.start with | some t0 => s.endMeasure t t0 e.at_ (m.flags.or e.flags) | none => s
      s.startMeasure t e
  | 4 => if e.isA && polTakes c.polA e.rise then s.startMeasure t e else s
  | 5 =>
    let s := if e.isB && polTakes c.polB e.rise then
        match m.start with
        | some t0 => if t0 ≤ e.at_ then (s.endMeasure t t0 e.at_ (m.flags.or e.flags)).stopMeasure t else s
        | none => s
      else s
    if e.isA && polTakes c.polA e.rise then s.startMeasure t e else s
  | _ => s

/-- Edges of a duration unit among the events of a slot, in order of time. -/
def State.durEdges (s : State) (t : TermUnit) (evs : List TimedEv) : List DurEdge :=
  let c := s.reg t.ctl
  let pick : InEv → Option (Bool × Bool × Bool) := fun ev => match t with
    | .du k _ =>
      let a := laneEdge (fld c 3 2) (16 * k + fld c 9 4) ev
      let b := laneEdge (fld c 3 2) (16 * k + fld c 13 4) ev
      match a, b with
      | some r, some _ => some (r, true, true)
      | some r, none => some (r, true, false)
      | none, some r => some (r, false, true)
      | none, none => none
    | .pdu p _ => match ev with
      | .podEdge pod ch level =>
        if s.ppTrig p = some (pod % 32) ∧ pod / 32 = p then
          (if ch = fld c 9 6 ∨ ch = fld c 15 6 then some (level, ch == fld c 9 6, ch == fld c 15 6) else none)
        else none
      | _ => none
    | _ => none
  evs.foldl (fun l e => match pick e.ev with
    | some (r, a, b) => insertDur { at_ := e.at_, flags := e.flags, isA := a, isB := b, rise := r } l
    | none => l) []

/-- Decisions of a pod unit that the pod's history now reaches are detected (R108). -/
def State.takeConfirmed (s : State) (t : TermUnit) : State :=
  let now := fun (x : Nat × Time × EvFlags) => x.1 == t.key && decide (x.2.1 < s.deadlineBound t)
  (s.modTrig fun g => { g with confirmed := g.confirmed.filter fun x => !now x }).each (s.trig.confirmed.filter now) fun s x =>
    s.detect t x.2.1 x.2.2

def State.runDuration (s : State) (t : TermUnit) (evs : List TimedEv) : State :=
  let s := (s.takeConfirmed t).each (s.durEdges t evs) fun s e => s.durEdge t e
  State.fireDeadlines t (s.deadlineBound t) deadlineFuel s

/-! ### Signal-quality units (R103, R104) -/

def State.quLane (s : State) (k u : Nat) : Nat := 16 * k + s.regF (STK k (0x300 + 0x20 * u)) 4 4

/-- Slew in 0.01 V/ns from a code difference and Δt (R104). The spec names no rounding of an exact half: it goes up (DESIGN
CHOICE, log entry 99). -/
def slewOf (codes dt : Nat) : Nat := if dt = 0 then 0xFFFF else sat 0xFFFF ((1024 * codes + 25 * dt) / (50 * dt))

/-- A signal-quality unit. STK_QU_LAST holds 20 bits: a longer t2 − t1 saturates there, and it is written for each return,
also one that POL does not select or that lies outside the window (DESIGN CHOICE, log entry 99). -/
def State.runQuality (s : State) (k u : Nat) (evs : List TimedEv) : State :=
  let t := TermUnit.qu k u
  let lo := s.regF (STK k (0x304 + 0x20 * u)) 0 20
  let hi := s.regF (STK k (0x308 + 0x20 * u)) 0 20
  let n := s.quLane k u
  let c := s.reg t.ctl
  let pol := fld c 2 2
  let last := fun (s : State) (d : Nat) => s.setReg (STK k (0x30C + 0x20 * u)) (BitVec.ofNat 32 (sat 0xFFFFF d))
  s.each evs fun s e =>
    let m := s.unitMeas t
    match e.ev with
    | .edge l comp rise _ =>
      if l ≠ n || fld c 0 2 ≠ 1 then s
      else match comp, rise with
      | .l, true => s.setMeas t { m with start := some e.at_, flags := e.flags }
      | .u, true =>
        let s := match m.start2 with
          | some t1 =>
            let s := last s (e.at_ - t1)
            if pol / 2 = 1 && lo ≤ e.at_ - t1 && decide (e.at_ - t1 ≤ hi) then s.detect t e.at_ (m.flags.or e.flags) else s
          | none => s
        s.setMeas t { m with start := none, start2 := none }
      | .l, false =>
        let s := match m.start with
          | some t1 =>
            let s := last s (e.at_ - t1)
            if pol % 2 = 1 && lo ≤ e.at_ - t1 && decide (e.at_ - t1 ≤ hi) then s.detect t e.at_ (m.flags.or e.flags) else s
          | none => s
        s.setMeas t { m with start := none, start2 := none }
      | .u, false => s.setMeas t { m with start2 := some e.at_, flags := e.flags }
    | .crossing l rise (some dt) later =>
      if l ≠ n || fld c 0 2 ≠ 2 then s
      else
        let s := last s dt
        let codes := s.regF (LN_THR n) 16 12 - s.regF (LN_THR n) 0 12
        let s := s.setReg (STK k (0x310 + 0x20 * u)) (BitVec.ofNat 32 (slewOf codes dt))
        let cfg : DurCfg := { kind := 0, polA := 0, polB := 0, rel := fld c 8 2, early := false, repeat_ := false, min := lo, max := hi }
        if polTakes pol rise && cfg.fires dt then s.detect t later e.flags else s
    | _ => s

/-! ### Deviation inputs (R105) -/

def State.runDeviation (s : State) (k u : Nat) (evs : List TimedEv) : State :=
  let c := s.reg (TermUnit.dv k u).ctl
  s.each evs fun s e => match e.ev with
    | .deviation cu kind cin =>
      let inScope := if bit c 1 then cinIsPod cin
        else !cinIsPod cin && cin / 16 == k % 3 && bit c (16 + cin % 16)
      if cu = 2 * (k / 3) + u && bit c (1 + kind) && inScope then s.detect (.dv k u) e.at_ e.flags else s
    | _ => s

/-! ### Pod-port terms (R106, R107, R109) -/

def State.pptMask (s : State) (p u i : Nat) : Nat := s.reg64 (PP p (0x204 + 0x40 * u + 8 * i))

/-- Level changes that words of the trigger pod make: time, channel, level. -/
def State.podLevelEvents (s : State) (p : Nat) (evs : List TimedEv) : List (Time × Nat × Bool) :=
  match s.ppTrig p with
  | none => []
  | some pos => evs.filterMap fun e => match e.ev with
    | .podEdge pod ch level => if pod = podIndex p pos then some (e.at_, ch, level) else none
    | .dropout pod ch level _ => if pod = podIndex p pos then some (e.at_, ch, level) else none
    | _ => none

/-- The known levels of the trigger pod at an instant, from those at the slot's start. -/
def levelsAt (start : Tbl Bool) (ls : List (Time × Nat × Bool)) (t : Time) : Tbl Bool :=
  ls.foldl (fun m e => if e.1 ≤ t then Tbl.put m e.2.1 e.2.2 else m) start

/-- P of a pod pattern unit with known levels `m`; an unknown level makes it false (R106). -/
def State.pptHolds (s : State) (p u : Nat) (m : Tbl Bool) : Bool :=
  let care := s.pptMask p u 0
  let value := s.pptMask p u 1
  let chs := filterRange 64 fun c => care / 2 ^ c % 2 == 1
  if chs.any fun c => (Tbl.find? m c).isNone then false
  else
    let vals := chs.map fun c => Tbl.getD m c false == (value / 2 ^ c % 2 == 1)
    let ctl := s.reg (TermUnit.ppt p u).ctl
    let h := if vals.isEmpty then true else if bit ctl 1 then vals.any id else vals.all id
    if bit ctl 2 then !h else h

def State.runPodPattern (s : State) (p u : Nat) (evs : List TimedEv) : State :=
  let t := TermUnit.ppt p u
  let ls := s.podLevelEvents p evs
  let start := (s.port p).levels
  let fl := fun (_ : Time) => ({ unstamped := false, coarse := false, pod := true } : EvFlags)
  let rise := s.pptMask p u 2
  let fall := s.pptMask p u 3
  if rise = 0 ∧ fall = 0 then
    let late := ls.foldl (fun l e => if e.1 ≤ s.slotStart then insertTime e.1 l else l) []
    let ins := ls.foldl (fun l e => if s.slotStart < e.1 then insertTime e.1 l else l) []
    s.levelTerm t (fun x => s.pptHolds p u (levelsAt start ls x)) fl late ins
  else
    s.each evs fun s e => match e.ev with
      | .podEdge pod ch level =>
        if s.ppTrig p = some (pod % 32) && pod / 32 == p && ((if level then rise else fall) / 2 ^ ch % 2 == 1) &&
            s.pptHolds p u (levelsAt start ls e.at_) then s.detect t e.at_ e.flags else s
      | _ => s

def State.runDropout (s : State) (p : Nat) (evs : List TimedEv) : State :=
  let c := s.reg (TermUnit.drop p).ctl
  s.each evs fun s e => match e.ev with
    | .dropout pod _ _ w =>
      if pod / 32 = p && bit (s.reg (PP p 0x704)) (pod % 32) && decide (fld c 0 13 ≤ w) then s.detect (.drop p) e.at_ e.flags else s
    | _ => s

/-! ### TRIG_IN terms (R110) -/

def State.runTrigIn (s : State) (w i : Nat) (evs : List TimedEv) : State :=
  let pol := fld (s.reg (TermUnit.tin w i).ctl) 0 2
  s.each evs fun s e => match e.ev with
    | .trigIn pin rise => if pin = i && polTakes pol rise then s.detect (.tin w i) e.at_ e.flags else s
    | _ => s

/-! ### A slot (R89 to R92) -/

def State.runTerm (s : State) (evs : List TimedEv) (t : TermUnit) : State :=
  match t with
  | .pt k u => s.runPattern k u evs
  | .du _ _ => s.runDuration t evs
  | .pdu _ _ => s.runDuration t evs
  | .qu k u => s.runQuality k u evs
  | .dv k u => s.runDeviation k u evs
  | .ppt p u => s.runPodPattern p u evs
  | .drop p => s.runDropout p evs
  | .tin w i => s.runTrigIn w i evs

/-- An event enters the terms in the slot that holds its last stamp (R91, R462). An unstamped edge whose SCLK period ends
exactly with a slot has its time in the next one and enters there (DESIGN CHOICE, log entry 99: R54 says in its sample slot).
-/
def TimedEv.ready (e : TimedEv) : Time :=
  match e.ev with
  | .crossing _ _ _ later => max e.at_ later
  | _ => e.at_

/-- The ports keep the levels that words of their trigger pods give (R106). -/
def State.keepLevels (s : State) (evs : List TimedEv) : State :=
  s.each (List.range 16) fun s p =>
    let ls := s.podLevelEvents p evs
    if ls.isEmpty then s else s.modPort p fun d => { d with levels := levelsAt d.levels ls (ls.foldl (fun m e => max m e.1) 0) }

/-- Evaluate every term in use over the events of the slot in progress; the histogram units take their reference events
(R168), and the ports keep the levels of their trigger pods. -/
def State.evalTerms (s : State) : State :=
  let evs := s.trig.inputs.filter fun e => decide (e.ready < s.slotEnd)
  let s := s.modTrig fun g => { g with inputs := g.inputs.filter fun e => !decide (e.ready < s.slotEnd) }
  let s := s.each s.termsOn fun s t => s.runTerm evs t
  let s := s.keepLevels evs
  let ds := s.trig.dets
  let s := s.modTrig fun g => { g with dets := [], inputs := g.inputs ++ g.later, later := [] }
  s.each (List.range 4) fun s hu => s.each (s.rgActive hu) fun s r =>
    match s.rgRef hu r with
    | none => s
    | some n => s.histRef hu r ((ds.filter fun d => d.1 == 256 * hu + n).map (·.2))

/-- A LINK_CHECK span of a port's trigger pod is open. -/
def State.trigLost (s : State) (p : Nat) : Bool := match s.ppTrig p with | some pos => (s.pod p pos).linkLoss | none => false

/-- Terms start at `t` as at ARM (R94): no measurement in progress, timeouts count from `t`; a pod timeout within an open
LINK_CHECK span counts from its end (R108). -/
def State.startTerm (s : State) (u : TermUnit) (t : Time) : State :=
  let s := s.modTrig fun g => { g with
    meas := Tbl.del g.meas u.key, since := Tbl.del g.since u.key, confirmed := g.confirmed.filter (·.1 ≠ u.key) }
  match u with
  | .du _ _ => if (s.durCfg u).kind = 4 then s.setMeas u { start := some t, flags := EvFlags.none, fired := 0, start2 := none } else s
  | .pdu p _ => if (s.durCfg u).kind = 4 && !s.trigLost p then s.setMeas u { start := some t, flags := EvFlags.none, fired := 0, start2 := none } else s
  | _ => s

end Sys2Proof.Machine
end

