-- ==== Sys2Proof/Machine/Terms.lean ====
section
/-!
DEFINITION. The commands of chapter 4: SAMPLE_SLOT with the sampling of raw and state lanes, DURATION_DEADLINE, TRIG_IN_EDGE,
and DEFINE_SEQUENCE part 1.
-/
namespace Sys2Proof.Machine

/-! ### The sample slot -/

/-- Lanes in a mode that are data sources of a stream. -/
def State.recordingLanes (s : State) (mode : Nat) : List Nat :=
  filterRange 192 fun n => s.lnMode n == mode && s.lnLive n && (s.lnStream n).isSome

/-- Raw samples of a lane at the two SCLK edges of the slot, at every `2 ^ RAW_RATE`-th edge (R59). The deskew moves stamps,
not the SCLK edge, so the sample is the state after the edges whose stamps less the deskew lie at or before it. -/
def State.rawSlot (s : State) (n : Nat) : State :=
  s.each [s.slotStart, s.slotStart + coarseTick] fun s t =>
    if t < s.time.armTime || t / coarseTick % 2 ^ s.lnRate n != 0 then s
    else
      s.rawSample n t (stateAt (s.lnStates n) ((t : Int) + s.deskew n))

/-- Samples of a state lane whose instant the lane's history covers (R60, R462). -/
def State.stateSlot (s : State) (n : Nat) : State :=
  let h := s.lnStates n
  let ready := fun (b : BlockDyn) => b.resolve h (s.sampleKnown n)
  (s.modLane n fun d => { d with block := d.block.map ready, full := d.full.map ready }).writeFull n s.now

/-- A LEVEL that waits is written once no edge before its instant can arrive (R462). -/
def State.levelSlot (s : State) (n : Nat) : State :=
  match (s.lane n).levelDue with
  | none => s
  | some x => if x.2 + slotFt * (1 + s.dNeg [n]) ≤ s.slotEnd then s.flushLevel n else s

/-- Entries of a history before `t` go: the outputs that they leave are those before the rest. -/
def LaneDyn.prune (d : LaneDyn) (t : Time) : LaneDyn :=
  let old := d.history.takeWhile fun e => decide (e.at_ < t)
  { d with
    history := d.history.drop old.length
    baseL := old.foldl (fun v e => e.l.getD v) d.baseL
    baseU := old.foldl (fun v e => e.u.getD v) d.baseU }

/-- The longest time for which a unit looks back at a lane: a burst, a compare tolerance and a sweep fit in it. -/
def historySpan : Nat := 2 ^ 27

def State.pruneLanes (s : State) : State :=
  { s with lanes := s.lanes.mapVals fun _ d => d.prune (s.now - historySpan) }

/-- The three timestamp counters count one FCLK period (R7, R23). At the last slot before the wrap they wait for
TIMESTAMP_WRAP. -/
def State.advance (s : State) : State :=
  if s.time.tsHd.toNat + slotFt < 2 ^ 64 then
    s.modTime fun t => { t with tsCd0 := t.tsCd0 + 256, tsCd1 := t.tsCd1 + 256, tsHd := t.tsHd + 256 }
  else s

/-- A sample slot ends (R89 to R92). -/
def State.sampleSlot (s : State) : State :=
  let s :=
    if s.time.armed then
      let s := s.each (s.recordingLanes 3) State.rawSlot
      let s := s.each (s.recordingLanes 4) State.stateSlot
      let s := s.each s.lanes.keys State.levelSlot
      let s := s.each (filterRange 8 s.cuEnabled) State.cmpSlot
      let s := s.each (filterRange 16 fun iu => iuEnable (s.iuCfg iu)) fun s iu => s.ivCount iu s.now
      s.evalTerms
    else s
  let s := s.each (List.range 4) fun s hu =>
    (s.modHist hu fun h => { h with valueOps := 0, columnOps := 0 }).each (s.rgActive hu) fun s r => s.histSlot hu r
  s.schedule.pruneLanes.advance

/-- The clocks run unless the device sleeps, is held in reset or has no power. -/
def State.clocked (s : State) : Bool := s.power.powered && !s.power.perst && !s.asleep && s.power.hotDie.isNone

/-- In STANDBY and SLEEP only the hub's counter goes on (R22, R423). -/
def State.hubSlot (s : State) : State :=
  if s.power.powered && !s.power.perst && s.power.hotDie.isNone && decide (s.time.tsHd.toNat + slotFt < 2 ^ 64) then
    s.modTime fun t => { t with tsHd := t.tsHd + 256 }
  else s

def execSampleSlot (s : State) : Host.Outcome State Fault Refusal :=
  .next (if s.clocked then s.sampleSlot else s.hubSlot)

/-! ### Deadlines and TRIG_IN -/

def durTerm : DurUnit → TermUnit
  | .stake k u => .du k u
  | .port p u => .pdu p u

/-- The first edge that waits for a unit: a deadline at or after it is for that edge to meet first (R100, R101). -/
def State.firstEdge (s : State) (t : TermUnit) (upTo : Time) : Time :=
  match s.durEdges t (s.trig.inputs ++ s.trig.later) with
  | [] => upTo
  | e :: _ => min upTo e.at_

/-- The deadlines of a duration unit that have passed, with no edge before them, fire in the slot in progress (R100, R101, R108). -/
def execDurationDeadline (u : DurUnit) (s : State) : Host.Outcome State Fault Refusal :=
  .next (
    let t := durTerm u
    if s.time.armed && s.termOn t then State.fireDeadlines t (s.firstEdge t (s.deadlineBound t)) deadlineFuel s else s)

/-- An edge on TRIG_IN[i]: every weave sees it with the same time (R110), terms and interval units (R186). -/
def execTrigInEdge (pin : Fin 4) (rise : Bool) (edge : PinEdge) (s : State) : Host.Outcome State Fault Refusal :=
  .next (
    let x := pinStamp edge
    let at_ := s.sessionTime x.1
    if !s.time.armed || at_ < s.time.armTime then s
    else
      let e : TimedEv := { at_ := at_, flags := x.2, ev := .trigIn pin rise }
      let s := s.modTrig fun t => { t with inputs := t.inputs ++ [e] }
      s.each (List.range 4) fun s w => s.feedInterval w e)

/-! ### DEFINE_SEQUENCE part 1 (R332, Table 14.10) -/

/-- Lowest code 6 or 7 among the codes of lanes. -/
def badCode (p : List Byte) (off : Nat) : Option Nat :=
  ((List.range 16).find? fun l => let c := getLe p off 8 / 16 ^ l % 16; c == 6 || c == 7).map fun l => 8 * off + 4 * l

def anyEdgeCode (codes : Nat) : Bool := (List.range 16).any fun l => 8 ≤ codes / 16 ^ l % 16

/-- A duration entry: kinds, polarities, relation, MIN and MAX; `hi` is the place of REL (Tables 4.5 to 4.8 and 4.11). -/
def checkDuration (p : List Byte) (off : Nat) (rsv : Nat) (lanes : Bool) : List (Option Nat) :=
  let c := getLe p (off + 4) 4
  let kind := c % 8
  [ ckRsv p (off + 4) 4 rsv, ckFld p (off + 4) 0 3 (· < 6),
    if lanes then ckFld p (off + 4) 3 2 (· < 3) else none,
    ckFld p (off + 4) 5 2 fun v => v ≠ 0 ∧ (kind ≠ 3 ∨ v ≠ 3),
    if kind = 5 then ckFld p (off + 4) 7 2 (· ≠ 0) else none,
    ckRsv p (off + 8) 8 (0xFFFF * 2 ^ 48), ckRsv p (off + 16) 8 (0xFFFF * 2 ^ 48),
    ckFld p (off + 16) 0 48 fun v => v ≠ 2 ^ 48 - 1 ∧ (kind ≠ 4 ∨ v ≠ 0),
    ckZero p (off + 24) 24 ]

def checkTerm (p : List Byte) (i : Nat) : List (Option Nat) :=
  let off := 8 + 48 * i
  let kind := getLe p off 1
  let c := getLe p (off + 4) 4
  [ ckFld p off 0 8 fun v => 1 ≤ v ∧ v ≤ 8,
    if kind = 5 ∨ kind = 6 then ckFld p (off + 1) 0 8 (· < 32) else ckZero p (off + 1) 1,
    ckFld p (off + 2) 0 16 fun v => if kind ≤ 4 then v < 12 else if kind ≤ 7 then v < 16 else v < 4 ] ++
  (match kind with
   | 1 => [ ckRsv p (off + 4) 4 0xFFFFFFF8,
            if anyEdgeCode (getLe p (off + 8) 8) then ckFld p (off + 4) 2 1 (· = 0) else none,
            badCode p (off + 8), ckZero p (off + 16) 32 ]
   | 2 => checkDuration p off (bits 31 21) true
   | 3 => [ ckRsv p (off + 4) 4 0xFFFFFC00, ckFld p (off + 4) 0 2 (· ≠ 3), ckFld p (off + 4) 2 2 (· ≠ 0),
            ckRsv p (off + 8) 4 0xFFF00000, ckRsv p (off + 12) 4 0xFFF00000, ckZero p (off + 16) 32 ]
   | 4 => [ ckRsv p (off + 4) 4 0xFF80, ckZero p (off + 12) 36 ]
   | 5 => [ ckRsv p (off + 4) 4 0xFFFFFFF8,
            if getLe p (off + 0x18) 16 = 0 then none else ckFld p (off + 4) 2 1 (· = 0),
            ckRsv p (off + 8) 8 (getLe p (off + 0x18) 8 ||| getLe p (off + 0x20) 8), ckZero p (off + 0x28) 8 ]
   | 6 => checkDuration p off (bits 4 3 + bits 31 25) false
   | 7 => [ ckRsv p (off + 4) 4 0xFFFFC000, ckFld p (off + 4) 0 13 (2 ≤ ·), ckZero p (off + 12) 36 ]
   | 8 => [ if c < 4 then none else ckRsv p (off + 4) 4 0xFFFFFFFC, ckZero p (off + 8) 40 ]
   | _ => [])

def checkSequenceTerms (p : List Byte) : List (Option Nat) :=
  [ckFld p 1 0 8 fun v => 1 ≤ v ∧ v ≤ 80, ckZero p 2 6] ++ (List.range (qTermN p)).flatMap (checkTerm p)

/-- The compare jobs that deviation terms name. -/
def handlesSequenceTerms (p : List Byte) : List HandleUse :=
  (List.range (qTermN p)).filterMap fun i =>
    if getLe p (8 + 48 * i) 1 = 4 then
      some { handle := BitVec.ofNat 32 (getLe p (8 + 48 * i + 8) 4), at_ := some (8 + 48 * i + 8), types := [6], optional := false }
    else none

/-- The stake or port of a term is absent (R4). -/
def State.termAbsent (s : State) (e : List Byte) : Bool :=
  if tKind e ≤ 4 then s.stakeAbsent (tWhere e) else if tKind e ≤ 7 then s.portAbsent (tWhere e) else false

def defineSequenceTermsCmd (img : MbImage) (s : State) : State × Option Response :=
  checked s ((List.range (qTermN img.payload)).map fun i =>
      refusalIf (s.termAbsent (qTerm img.payload i)) stNoUnit (8 + 48 * i + 2))
    (done (s.stageDef 7 (hIdx img.handle) img.payload) [])

def execDefineSequenceTerms (m : Fin 32) (s : State) : Host.Outcome State Fault Refusal :=
  .next (s.runCommand m 0x0022 (fun img => getLe img.payload 0 1 == 1) defineSequenceTermsCmd)

end Sys2Proof.Machine
end

