-- ==== Sys2Proof/Machine/Budgets.lean ====
section
/-!
DEFINITION. Demands and admission budgets (R27 to R33, Tables 1.4, 1.7, 1.8, 11.3, 12.1), over exact fractions.
-/
namespace Sys2Proof.Machine

/-! ### Fractions of bytes per second -/

structure Frac where
  num : Nat
  den : Nat
  deriving DecidableEq, Repr

def frac (n : Nat) : Frac := { num := n, den := 1 }
/-- In lowest terms; a zero denominator stands for 1. -/
def mkFrac (n d : Nat) : Frac :=
  let g := max 1 (Nat.gcd n d)
  { num := n / g, den := max 1 (d / g) }
def Frac.add (a b : Frac) : Frac := mkFrac (a.num * b.den + b.num * a.den) (a.den * b.den)
/-- Difference, no lower than zero. -/
def Frac.sub (a b : Frac) : Frac := mkFrac (a.num * b.den - b.num * a.den) (a.den * b.den)
def Frac.mul (a b : Frac) : Frac := mkFrac (a.num * b.num) (a.den * b.den)
def Frac.divNat (a : Frac) (n : Nat) : Frac := mkFrac a.num (a.den * max 1 n)
def Frac.div (a b : Frac) : Frac := if b.num = 0 then frac 0 else mkFrac (a.num * b.den) (a.den * b.num)
def Frac.lt (a b : Frac) : Bool := decide (a.num * b.den < b.num * a.den)
def Frac.le (a b : Frac) : Bool := decide (a.num * b.den ≤ b.num * a.den)
def Frac.ceil (a : Frac) : Nat := ceilDiv a.num a.den
def Frac.floor (a : Frac) : Nat := a.num / a.den
def fracSum (l : List Frac) : Frac := l.foldl Frac.add (frac 0)

/-! ### Demands of sources (Table 1.7) -/

def giga : Nat := 1000000000
def mebi : Nat := 1048576

/-- The register images of a lane that no CONFIGURE_LANES has named: the reset values of Tables 2.5 to 2.10. -/
def LaneCfg.default : LaneCfg :=
  { cfg := 0x00108001, thr := 0x0BD00720, follow := 40, followU := 40, stateDly := 0, user := 0 }

def Intent.lane (i : Intent) (n : Nat) : LaneCfg := Tbl.getD i.lanes n LaneCfg.default
def LaneCfg.mode (c : LaneCfg) : Nat := fld c.cfg 0 3
def Intent.laneMode (i : Intent) (n : Nat) : Nat := (i.lane n).mode

/-- One 8-byte word each follow interval of `f` coarse ticks. -/
def comparatorDemand (f : Nat) : Frac := mkFrac 12800000000 (max 1 f)

/-- Demand of a lane by its mode. A state lane counts at the highest clock rate, 800 MHz: no field of the intent gives
another (log entry 21). -/
def LaneCfg.demand (c : LaneCfg) : Frac :=
  match c.mode with
  | 1 => (comparatorDemand (fld c.follow 0 16)).add (comparatorDemand (fld c.followU 0 16))
  | 2 => comparatorDemand (fld c.followU 0 16)
  | 3 => mkFrac (400000000 * 64) (63 * 2 ^ fld c.cfg 3 2)
  | 4 => mkFrac (200000000 * 64) 63
  | _ => frac 0

/-- A retired lane counts as off (R48). -/
def State.laneDemand (s : State) (i : Intent) (n : Nat) : Frac :=
  if s.isRetired (uLane n) || s.laneAbsent n then frac 0 else (i.lane n).demand

def Intent.grant (i : Intent) (pod : Nat) : Nat := match Tbl.find? i.pods pod with | some c => c.grant | none => 0

/-- Demand of a stream: the sum of its sources. -/
def State.streamDemand (s : State) (i : Intent) (p : List Byte) : Frac :=
  (fracSum ((bLanes p).map (s.laneDemand i))).add (frac (sumOn (bPods p) i.grant))

/-- Ring size in bytes: the retention depth, or PRE + POST + 1 MiB (R129). -/
def ringBytes (i : Intent) (idx : Nat) (p : List Byte) : Nat :=
  if bWindowed p then
    (match i.def? 8 idx with | some w => wPre w + wPost w | none => 0) + mebi
  else bRetention p

/-- Ring bytes on each of `n` channels: whole 2 MiB pages, at least one (R129, R300). -/
def perChannel (size n : Nat) : Nat := max (2 * mebi) (roundUp (ceilDiv size (max 1 n)) (2 * mebi))

/-! ### Limits -/

/-- Port A ceiling of a rate code in GB/s (Table 12.1). -/
def portA : Nat → Nat
  | 0 => 12
  | 1 => 10
  | _ => 8

def State.chanRate (s : State) (c : Nat) : Nat := s.regF (MC_STATUS c) 3 2
def State.chanDensity (s : State) (c : Nat) : Nat := s.regF (MC_STATUS c) 5 2
def State.chanBytes (s : State) (c : Nat) : Nat := 2 ^ 31 * 2 ^ s.chanDensity c
def State.chanRetired (s : State) (c : Nat) : Bool := s.mcState c == 6
def State.healthyChans (s : State) : List Nat := filterRange 16 fun c => !s.chanRetired c
/-- Budget 0x05 in GB/s. -/
def State.ingestLimit (s : State) : Nat := sumOn s.healthyChans fun c => portA (s.chanRate c)
/-- Budget 0x0A in bytes: capacity less 32 MiB reserved on each channel (R31). -/
def State.capacityLimit (s : State) : Nat := sumOn s.healthyChans fun c => s.chanBytes c - 32 * mebi

/-- Healthy die-to-die modules of a capture die. -/
def State.modules (s : State) (d : Nat) : Nat := ((List.range 4).filter fun m => !s.isRetired (uModule d m)).length
/-- Ceilings of Table 1.4 in units of 0.1 GB/s. -/
def dieIngest : Nat → Nat
  | 0 => 0 | 1 => 160 | 2 => 480 | _ => 960
def diePlayback : Nat → Nat
  | 0 => 0 | 1 => 64 | _ => 320

def tenth (n : Nat) : Frac := frac (100000000 * n)

/-- Compressor rate at an effort (Table 11.3). -/
def engineRate (effort : Nat) : Frac := if effort ≤ 2 then tenth 64 else tenth 32

/-- A retirement has lowered a limit of R33: of a channel, or of modules down to two (Table 1.4). -/
def State.reduced (s : State) : Bool :=
  decide (s.healthyChans.length < 16) || decide (s.modules 0 < 3) || (!s.halfPart && decide (s.modules 1 < 3))

/-- Report the limits that retirements and step-downs have lowered (R33). -/
def State.updateLimits (s : State) : State :=
  (s.setReg HUB_GUAR_INGEST (BitVec.ofNat 32 (1000 * s.ingestLimit))).setRegBit HUB_HEALTH 3 s.reduced

/-! ### Admission -/

/-- One entry of the budget part of the placement report. -/
structure Budget where
  code : Nat
  unit : Word
  demand : Nat
  limit : Nat
  deriving DecidableEq, Repr

/-- A refusal with detail (Table 14.7). -/
def refusal (status code resource : Nat) (unit handle : Word) (demand limit : Nat) : Response :=
  ({ status := status, code := code, resource := resource, type := 0, unit := unit, handle := handle
     demand := demand, limit := limit } : Refuse).response

/-- One sum against its limit. -/
structure Sum where
  code : Nat
  unit : Word
  handle : Word
  demand : Frac
  limit : Frac
  deriving DecidableEq, Repr

def Sum.check (x : Sum) : Option Response :=
  if x.demand.le x.limit then none
  else some (refusal stAdmission x.code 0 x.unit x.handle x.demand.ceil x.limit.floor)

def Sum.budget (x : Sum) : Budget := { code := x.code, unit := x.unit, demand := x.demand.ceil, limit := x.limit.floor }

def sumOf (code : Nat) (unit : Word) (demand limit : Frac) : Sum :=
  { code := code, unit := unit, handle := 0, demand := demand, limit := limit }

/-- The streams of an intent that a shed list leaves, with their definitions. -/
def Intent.streams (i : Intent) (shed : List Nat) : List (Nat × List Byte) :=
  (i.defined 1).filterMap fun k => if shed.contains (objKey 1 k) then none else (i.def? 1 k).map fun p => (k, p)

/-- Lanes that write records: data sources of the streams. -/
def Intent.sourceLanes (i : Intent) (shed : List Nat) : List Nat := (i.streams shed).flatMap fun x => bLanes x.2

/-- A pod that the intent names is a source (R27), but not one whose streams are all shed: they are not written (R313). -/
def Intent.podCounts (i : Intent) (shed : List Nat) (q : Nat) : Bool :=
  let bound := fun (l : List (Nat × List Byte)) => l.any fun x => (bPods x.2).contains q
  shed.isEmpty || !bound (i.streams []) || bound (i.streams shed)

def State.weaveDemand (s : State) (i : Intent) (shed : List Nat) (w : Nat) : Frac :=
  let ls := (i.sourceLanes shed).filter fun n => n / 48 == w
  (fracSum (ls.map (s.laneDemand i))).add
    (frac (sumOn (i.pods.keys.filter fun q => q / 128 == w && i.podCounts shed q) i.grant))

/-- Trigger pod position that the pod terms of a port name: the first (R75). -/
def Intent.trigPod (i : Intent) (shed : List Nat) (port : Nat) : Option Nat :=
  ((i.defined 7).filter fun q => !shed.contains (objKey 2 q)).findSome? fun q =>
    match i.def? 7 q with
    | some p => (List.range (qTermN p)).findSome? fun k =>
        let e := qTerm p k
        if (tKind e = 5 ∨ tKind e = 6) ∧ tWhere e = port then some (tPos e) else none
    | none => none

/-- One frame slot carries 120 bytes each superframe of 2.64 µs: 45.4545… MB/s (R74). -/
def slotRate : Frac := mkFrac 120000000000 2640

/-- Grant of a pod, raised for the trigger pod to 31 slots (R75). -/
def Intent.podGrant (i : Intent) (trig : Option Nat) (port pos : Nat) : Frac :=
  let g := frac (i.grant (32 * port + pos))
  if trig = some pos then (if g.lt (slotRate.mul (frac 31)) then slotRate.mul (frac 31) else g) else g

/-- Positions of a port that the intent names. -/
def Intent.positions (i : Intent) (port : Nat) : List Nat :=
  filterRange 32 fun q => (Tbl.find? i.pods (32 * port + q)).isSome

/-- Slots a grant needs. -/
def slotsFor (g : Frac) : Nat := (g.div slotRate).ceil

def Intent.portSums (i : Intent) (shed : List Nat) (port : Nat) : List Sum :=
  let trig := i.trigPod shed port
  let gs := (i.positions port).map fun q => i.podGrant trig port q
  [ sumOf 0x04 (uPort port) (fracSum gs) (tenth 28),
    sumOf 0x04 (uPort port) (slotRate.mul (frac (sumOn gs slotsFor))) (slotRate.mul (frac 62)) ]

/-- Playback demand of the reference of a job. -/
def State.jobDemand (s : State) (p : List Byte) : Nat := (s.ref (hIdx (cRef p))).demand

def Intent.jobs (i : Intent) (kind : Nat) (shed : List Nat) : List (Nat × List Byte) :=
  (i.defined kind).filterMap fun k => if shed.contains (objKey kind k) then none else (i.def? kind k).map fun p => (k, p)

/-- Channels that a ring needs at least (R300). -/
def minChannels (d : Frac) (least : Nat) : Nat := max (max 2 least) (d.divNat (6 * giga)).ceil

/-- References that hold members and that no DESTROY has left to the next epoch. -/
def State.heldRefs (s : State) : List (Nat × RefDyn) :=
  s.refs.filter fun e => (e.2.phase == .ready || e.2.phase == .loading) &&
    Tbl.find? s.weaver.created (objKey 3 e.1) != some true

/-- Library bytes of the references, in whole pages. -/
def State.libraryBytes (s : State) : Nat := sumOn s.heldRefs fun e => roundUp e.2.bytes (2 * mebi)

/-- The sums that do not depend on placement, in the order of R299 step 2. `least` gives MIN_STRIPE. -/
def State.sums (s : State) (i : Intent) (shed : List Nat) (least : Nat → Nat) : List Sum :=
  let lanes := i.sourceLanes shed
  let strs := i.streams shed
  let ds := strs.map fun x => (x, s.streamDemand i x.2)
  let jobs := i.jobs 6 shed
  let ws := (List.range 4).filter fun w => !s.weaveAbsent w
  let dies := if s.halfPart then [0] else [0, 1]
  ((List.range 12).filter fun k => !s.stakeAbsent k).map (fun k =>
    sumOf 0x01 (uStake k) (fracSum ((lanes.filter fun n => n / 16 == k).map (s.laneDemand i))) (tenth 160)) ++
  ws.map (fun w => sumOf 0x02 (uWeave w) (s.weaveDemand i shed w) (tenth 480)) ++
  dies.map (fun d => sumOf 0x03 (uDie d) ((s.weaveDemand i shed (2 * d)).add (s.weaveDemand i shed (2 * d + 1)))
    (tenth (dieIngest (s.modules d)))) ++
  ((List.range 16).filter fun p => !s.portAbsent p).flatMap (fun p => i.portSums shed p) ++
  [ sumOf 0x05 0 (fracSum ((List.range 4).map (s.weaveDemand i shed))) (frac (giga * s.ingestLimit)) ] ++
  (ds.filter fun x => bFormat x.1.2 != 0).map (fun x =>
    { sumOf 0x07 0 x.2 (engineRate (bEffort x.1.2 + 1)) with handle := s.handleOf 1 x.1.1 }) ++
  [ sumOf 0x08 0 (fracSum ((ds.filter fun x => !bWindowed x.1.2).map (·.2))) (tenth s.weaver.egress) ] ++
  jobs.map (fun x => { sumOf 0x09 0 (frac (s.jobDemand x.2)) (tenth 64) with handle := s.handleOf 6 x.1 }) ++
  [ sumOf 0x09 0 (frac (sumOn jobs fun x => s.jobDemand x.2)) (tenth 320),
    sumOf 0x0A 0 (frac (s.libraryBytes + sumOn ds fun x =>
      let n := minChannels x.2 (least x.1.1)
      n * perChannel (ringBytes i x.1.1 x.1.2) n)) (frac s.capacityLimit) ]

end Sys2Proof.Machine
end

