-- ==== Sys2Proof/Machine/Place.lean ====
section
/-!
DEFINITION. Placement (Table 13.2): the steps that the Weaver takes at COMMIT and at re-placement (R299 to R301, R310).
Every function takes the intent, the objects that are shed, and the placements that are kept.
-/
namespace Sys2Proof.Machine

/-- What placement works with. `keep` holds the placements whose units stay in service; at COMMIT it is empty. -/
structure PlaceCtx where
  it : Intent
  shed : List Nat
  keep : Placement
  /-- At COMMIT every term must find a unit; at re-placement a moved deviation term may wait (R105). -/
  strict : Bool
  /-- The sums of R27 to R31 are made; not while re-placement can shed nothing more that bears on one (R313). -/
  sums : Bool := true
  deriving DecidableEq, Repr

/-- A unit takes new work: fitted, in service, not under test (R300, R307). -/
def State.unitFree (s : State) (u : Word) : Bool :=
  !s.isRetired u && !s.underTest u && uaPresent s.halfPart u

/-! ### Constraints (Table 13.1, R334) -/

def kCode (r : List Byte) : Nat := getLe r 0 1
def kA (r : List Byte) : Word := BitVec.ofNat 32 (getLe r 4 4)
def kB (r : List Byte) : Word := BitVec.ofNat 32 (getLe r 8 4)
def kValue (r : List Byte) : Nat := getLe r 12 4

/-- Value of the last constraint of a code on an object. -/
def Intent.constraint (i : Intent) (code type idx : Nat) : Option Nat :=
  ((i.constraints.filter fun r => kCode r == code && hType (kA r) == type && hIdx (kA r) == idx).getLast?).map kValue

def Intent.pathMax (i : Intent) (seq : Nat) : Nat := (i.constraint 1 2 seq).getD 3
def Intent.priority (i : Intent) (key : Nat) : Nat := (i.constraint 2 (key / 65536) (key % 65536)).getD 1
def Intent.minStripe (i : Intent) (stream : Nat) : Nat := (i.constraint 3 1 stream).getD 2
/-- Streams that must share no channel with a stream. -/
def Intent.disjointFrom (i : Intent) (stream : Nat) : List Nat :=
  i.constraints.filterMap fun r =>
    if kCode r ≠ 4 then none
    else if hIdx (kA r) = stream then some (hIdx (kB r))
    else if hIdx (kB r) = stream then some (hIdx (kA r))
    else none

/-! ### Step 1: sequences -/

def Intent.terms (i : Intent) (seq : Nat) : List (List Byte) :=
  match i.def? 7 seq with
  | some p => (List.range (qTermN p)).map (qTerm p)
  | none => []

/-- Indexes of the terms that valid selectors name. -/
def Intent.selected (i : Intent) (seq : Nat) : List Nat :=
  match i.def? 2 seq with
  | some p => (List.range 16).flatMap fun j => (List.range 8).filterMap fun t =>
      let v := qSel p j t
      if v / 2 ^ 15 = 1 then some (v % 128) else none
  | none => []

/-- Weave on which a term lies; none for a TRIG_IN term, which goes with its sequencer. -/
def termWeave (e : List Byte) : Option Nat :=
  if tKind e = 8 then none else if tKind e ≤ 4 then some (tWhere e / 3) else some (tWhere e / 4)

/-- Path class of one selected term for a sequencer on weave `w`, apart from the several-stakes rule (Table 5.2). -/
def termClass (w : Nat) (e : List Byte) : Nat :=
  match termWeave e with
  | none => 1
  | some v => if v = w then (if tKind e ≤ 3 then 0 else 1) else if v / 2 = w / 2 then 2 else 3

/-- Path class of a sequence on a weave (R116). -/
def Intent.pathClass (i : Intent) (seq w : Nat) : Nat :=
  let es := (i.selected seq).map fun k => (i.terms seq).getD k []
  let stakes := (es.filter fun e => tKind e ≤ 3 && termWeave e == some w).map tWhere
  let several := match stakes with | [] => false | x :: t => t.any (· != x)
  es.foldl (fun m e => max m (termClass w e)) (if several then 1 else 0)

/-- Weaves in the order of step 1: lowest path class, then lowest weave. -/
def weaveOrder (cls : Nat → Nat) (ws : List Nat) : List Nat :=
  (List.range 4).flatMap fun c => ws.filter fun w => cls w == c

def State.weaves (s : State) : List Nat := (List.range 4).filter fun w => !s.weaveAbsent w

/-- Unit that a sequence with PATH_MAX is confined to: a weave, a die, or 0 (Table 14.7a). -/
def confined (ws : List Nat) : Word :=
  match ws with
  | [] => 0
  | [w] => uWeave w
  | w :: t => if t.all fun v => v / 2 == w / 2 then uDie (w / 2) else 0

def State.placeSeqs (s : State) (c : PlaceCtx) : Except Response (List SeqPlace) :=
  let order := (c.it.jobs 2 c.shed).map (·.1)
  let kept := c.keep.seqs.filter fun p => order.contains p.obj
  let todo := order.filter fun q => !kept.any (·.obj == q)
  todo.foldlM (fun (acc : List SeqPlace) q =>
    let ws := weaveOrder (c.it.pathClass q) s.weaves
    let free := fun (l : List SeqPlace) (w : Nat) =>
      ((List.range 8).map (8 * w + ·)).filter fun k => !l.any (·.sq == k) && s.unitFree (uSq k)
    let okWs := ws.filter fun w => decide (c.it.pathClass q w ≤ c.it.pathMax q)
    match okWs.findSome? fun w => (free acc w).head? with
    | some k => .ok (acc ++ [{ obj := q, sq := k, path := c.it.pathClass q (k / 8) }])
    | none =>
      if ws.any fun w => !(free acc w).isEmpty then
        .error (refusal stConstraint 1 0 0 (s.handleOf 2 q) 0 0)
      else
        let u := if c.it.pathMax q < 3 then confined okWs else 0
        let ins := if u = 0 then ws else okWs
        let bound := fun (x : Nat) => c.it.pathMax x < 3 && ws.all fun w => decide (c.it.pathMax x < c.it.pathClass x w) || ins.contains w
        .error (refusal stNoResource 0x05 0 u (s.handleOf 2 q)
          (if u = 0 then order.length else order.countP bound + acc.countP fun p => ins.contains (p.sq / 8) && !bound p.obj)
          (sumOn ins fun w => ((List.range 8).filter fun k => s.unitFree (uSq (8 * w + k))).length))) kept

/-! ### Step 2: term units -/

/-- Where units of a kind stand: first number, numbers per stake or port, units, resource code (Tables 4.1, 4.2, 14.7a). -/
structure TermBank where
  base : Nat
  stride : Nat
  count : Nat
  resource : Nat
  deriving DecidableEq, Repr

def termBank : Nat → TermBank
  | 1 => { base := 0x00, stride := 16, count := 16, resource := 0x01 }
  | 2 => { base := 0x30, stride := 8, count := 8, resource := 0x02 }
  | 3 => { base := 0x48, stride := 4, count := 4, resource := 0x03 }
  | 4 => { base := 0x54, stride := 2, count := 2, resource := 0x04 }
  | 5 => { base := 0x60, stride := 16, count := 16, resource := 0x05 }
  | 6 => { base := 0xA0, stride := 8, count := 8, resource := 0x06 }
  | _ => { base := 0xC0, stride := 1, count := 1, resource := 0x0D }

/-- Stake or port within its weave. -/
def termLoc (e : List Byte) : Nat := if tKind e ≤ 4 then tWhere e % 3 else tWhere e % 4
def termNumber (e : List Byte) (u : Nat) : Nat :=
  (termBank (tKind e)).base + (termBank (tKind e)).stride * termLoc e + u

def termHome (e : List Byte) : Word := if tKind e ≤ 4 then uStake (tWhere e) else uPort (tWhere e)
def termHomeKind (e : List Byte) : Nat := if tKind e ≤ 4 then 0x03 else 0x09

/-- Terms of the placed sequences in order: sequence, index, entry. -/
def Intent.termList (i : Intent) (seqs : List Nat) : List (Nat × Nat × List Byte) :=
  seqs.flatMap fun q => (i.terms q).zipIdx.map fun x => (q, x.2, x.1)

/-- Terms of a kind that the intent needs on a stake or port. -/
def needed (ts : List (Nat × Nat × List Byte)) (e : List Byte) : Nat :=
  ts.countP fun t => tKind t.2.2 == tKind e && tWhere t.2.2 == tWhere e

/-- Place one term that is not a deviation input. -/
def State.placeTerm (s : State) (c : PlaceCtx) (ts : List (Nat × Nat × List Byte)) (seqs : List SeqPlace)
    (acc : List TermPlace) (t : Nat × Nat × List Byte) : Except Response (List TermPlace) :=
  let e := t.2.2
  if acc.any fun p => p.seq == t.1 && p.term == t.2.1 then .ok acc
  else if tKind e = 8 then
    let w := match seqs.find? (·.obj == t.1) with | some p => p.sq / 8 | none => 0
    let clash := acc.any fun p => p.weave == w && p.number == 0xC4 + tWhere e &&
      (match (c.it.terms p.seq)[p.term]? with | some x => tCtl x != tCtl e | none => false)
    if clash then .error (refusal stNoResource 0x02 0x0C (uWeave w) (s.handleOf 2 t.1) 2 1)
    else .ok (acc ++ [{ seq := t.1, term := t.2.1, weave := w, number := 0xC4 + tWhere e }])
  else
    let w := (termWeave e).getD 0
    let other := (tKind e = 5 ∨ tKind e = 6) && (match c.it.trigPod c.shed (tWhere e) with
      | some pos => pos != tPos e
      | none => false)
    if other then .error (refusal stNoResource 0x09 0x07 (uPort (tWhere e)) (s.handleOf 2 t.1) 2 1)
    else
      let free := (List.range (termBank (tKind e)).count).find? fun u =>
        !acc.any fun p => p.weave == w && p.number == termNumber e u
      match free with
      | some u => .ok (acc ++ [{ seq := t.1, term := t.2.1, weave := w, number := termNumber e u }])
      | none => .error (refusal stNoResource (termHomeKind e) (termBank (tKind e)).resource (termHome e)
          (s.handleOf 2 t.1) (needed ts e) (termBank (tKind e)).count)

def State.placeTerms (s : State) (c : PlaceCtx) (seqs : List SeqPlace) (kept : List TermPlace) :
    Except Response (List TermPlace) :=
  let ts := c.it.termList (c.it.jobs 2 c.shed |>.map (·.1))
  (ts.filter fun t => tKind t.2.2 != 4).foldlM (s.placeTerm c ts seqs) kept

/-! ### Step 3: compare jobs and deviation inputs -/

def State.placeCmps (s : State) (c : PlaceCtx) : Except Response (List CmpPlace) :=
  let jobs := c.it.jobs 6 c.shed
  let dies := if s.halfPart then [0] else [0, 1]
  let bad := dies.findSome? fun d =>
    (sumOf 0x09 (uDie d) (frac (sumOn (jobs.filter fun j => cWeave j.2 / 2 == d) fun j => s.jobDemand j.2))
      (tenth (diePlayback (s.modules d)))).check
  match bad with
  | some r => .error r
  | none =>
    let kept := c.keep.cmps.filter fun p => jobs.any (·.1 == p.obj)
    (jobs.filter fun j => !kept.any (·.obj == j.1)).foldlM (fun (acc : List CmpPlace) j =>
      let w := cWeave j.2
      match [2 * w, 2 * w + 1].find? fun k => !acc.any (·.cu == k) && s.unitFree (uCu k) with
      | none => .error (refusal stNoResource 0x07 0 (uWeave w) (s.handleOf 6 j.1)
          (jobs.countP fun x => cWeave x.2 == w) ([2 * w, 2 * w + 1].countP fun k => s.unitFree (uCu k)))
      | some cu =>
        match (List.range 8).find? fun k => !acc.any (·.de == k) && s.unitFree (uDe k) with
        | none => .error (refusal stNoResource 0x12 0 0 (s.handleOf 6 j.1) jobs.length
            ((List.range 8).countP fun k => s.unitFree (uDe k)))
        | some de => .ok (acc ++ [{ obj := j.1, cu := cu, de := de }])) kept

/-- The compare job that a deviation term names. -/
def tJob (e : List Byte) : Nat := getLe e 8 4 % 65536

/-- Deviation terms that re-placement leaves on their input: of a job that stays on its unit, and of a shed job. -/
def keptDevs (c : PlaceCtx) (seqs : List SeqPlace) (cmps : List CmpPlace) : List TermPlace :=
  c.keep.terms.filter fun t => c.keep.seqs.any (fun q => q.obj == t.seq && seqs.contains q) &&
    (match (c.it.terms t.seq)[t.term]? with
     | some e => tKind e == 4 && (match cmps.find? (·.obj == tJob e) with
        | some p => t.number == termNumber e (p.cu % 2)
        | none => true)
     | none => false)

/-- Re-placement finds a deviation term that receives nothing since an earlier one: it waits for the next COMMIT (R105). -/
def State.devWaits (s : State) (c : PlaceCtx) (t : Nat × Nat × List Byte) : Bool :=
  !c.strict && !(c.keep.terms.any fun p => p.seq == t.1 && p.term == t.2.1) &&
    !s.weaver.shed.contains (objKey 2 t.1) && !s.weaver.shed.contains (objKey 6 (tJob t.2.2))

/-- Deviation terms go to input k of their stake, where 2·W + k is their job's compare unit (R105). -/
def State.placeDevs (s : State) (c : PlaceCtx) (cmps : List CmpPlace) (terms : List TermPlace) :
    Except Response (List TermPlace) :=
  let ts := c.it.termList (c.it.jobs 2 c.shed |>.map (·.1))
  (ts.filter fun t => tKind t.2.2 == 4).foldlM (fun (acc : List TermPlace) t =>
    if (acc.any fun p => p.seq == t.1 && p.term == t.2.1) || s.devWaits c t then .ok acc
    else
      let e := t.2.2
      let w := tWhere e / 3
      match cmps.find? (·.obj == tJob e) with
      | none => .ok acc
      | some p =>
        let n := termNumber e (p.cu % 2)
        if acc.any fun x => x.weave == w && x.number == n then
          if c.strict then .error (refusal stNoResource 0x03 0x04 (uStake (tWhere e)) (s.handleOf 2 t.1) (needed ts e) 2)
          else .ok acc
        else .ok (acc ++ [{ seq := t.1, term := t.2.1, weave := w, number := n }])) terms

/-! ### Step 4: interval jobs -/

/-- The job has a lane or pod source. -/
def iLocal (p : List Byte) : Bool :=
  let k := fun (v : Nat) => v / 2 ^ 13 % 8
  [iSrc p % 65536, iSrc p / 65536].any fun v => k v == 1 || k v == 2

def State.placeIvals (s : State) (c : PlaceCtx) : Except Response (List IvalPlace) :=
  let jobs := c.it.jobs 5 c.shed
  let kept := c.keep.ivals.filter fun p => jobs.any (·.1 == p.obj)
  (jobs.filter fun j => !kept.any (·.obj == j.1)).foldlM (fun (acc : List IvalPlace) j =>
    let loc := iLocal j.2
    let w := iWeave j.2
    let cands := if loc then (List.range 4).map (4 * w + ·) else List.range 16
    match cands.find? fun k => !acc.any (·.iu == k) && s.unitFree (uIu k) with
    | some k => .ok (acc ++ [{ obj := j.1, iu := k }])
    | none => .error (refusal stNoResource 0x08 0 (if loc then uWeave w else 0) (s.handleOf 5 j.1)
        (if loc then jobs.countP fun x => iLocal x.2 && iWeave x.2 == w else jobs.length)
        (cands.countP fun k => s.unitFree (uIu k)))) kept

/-! ### Step 5: histograms -/

/-- First word of a region is even (Table 7.5). -/
def evenUp (n : Nat) : Nat := n + n % 2

def State.placeHists (s : State) (c : PlaceCtx) : Except Response (List HistPlace) :=
  let jobs := c.it.jobs 4 c.shed
  let kept := c.keep.hists.filter fun p => jobs.any (·.1 == p.obj)
  (jobs.filter fun j => !kept.any (·.obj == j.1)).foldlM (fun (acc : List HistPlace) j =>
    let w := hWeave j.2
    let here := acc.filter (·.hu == w)
    let all := jobs.filter fun x => hWeave x.2 == w
    let maps := all.countP fun x => hCfg x.2 / 2 % 2 == 1
    let base := here.foldl (fun m p => max m (evenUp (p.base + p.words))) 0
    let words := regionWords j.2
    let isMap := hCfg j.2 / 2 % 2 == 1
    let mapHere := here.any fun p => match c.it.def? 4 p.obj with | some d => hCfg d / 2 % 2 == 1 | none => false
    if isMap && mapHere then .error (refusal stNoResource 0x06 0x09 (uHu w) (s.handleOf 4 j.1) maps 1)
    else if !s.unitFree (uHu w) then .error (refusal stNoResource 0x06 0x08 (uHu w) (s.handleOf 4 j.1) all.length 0)
    else if 16 ≤ here.length then .error (refusal stNoResource 0x06 0x08 (uHu w) (s.handleOf 4 j.1) all.length 16)
    else if 65536 < base + words then
      .error (refusal stNoResource 0x06 0x08 (uHu w) (s.handleOf 4 j.1) (sumOn all fun x => evenUp (regionWords x.2)) 65536)
    else
      match (List.range 16).find? fun r => !here.any (·.region == r) with
      | some r => .ok (acc ++ [{ obj := j.1, hu := w, region := r, base := base, words := words }])
      | none => .ok acc) kept

/-! ### Step 6: pod slot tables (R75, R76) -/

/-- Assign `n` slots to position `p`: floor(j·62/n), then the next free one. -/
def nextFree (tbl : List Nat) : Nat → Nat → Nat
  | 0, f => f
  | fuel + 1, f => if tbl.getD f 32 = 32 then f else nextFree tbl fuel ((f + 1) % 62)

def assignSlots (p n : Nat) (tbl : List Nat) : List Nat :=
  (List.range n).foldl (fun t j => t.set (nextFree t 62 (j * 62 / n)) p) tbl

def Intent.slotTable (i : Intent) (shed : List Nat) (port : Nat) : List Nat :=
  let trig := (i.trigPod shed port).filter fun q => (i.positions port).contains q
  let t0 := (List.range 62).map fun f => match trig with | some q => if f % 2 = 0 then q else 32 | none => 32
  (i.positions port).foldl (fun t q =>
    let n := slotsFor (i.podGrant trig port q) - if trig = some q then 31 else 0
    assignSlots q n t) t0

def State.placePods (s : State) (c : PlaceCtx) : Tbl Nat × Tbl (List Nat) :=
  let ports := (List.range 16).filter fun p => !s.portAbsent p && !(c.it.positions p).isEmpty
  (ports.filterMap (fun p => ((c.it.trigPod c.shed p).filter fun q => (c.it.positions p).contains q).map fun q => (p, q)),
   ports.map fun p => (p, c.it.slotTable c.shed p))

/-! ### Step 7: the reference library -/

/-- A channel that placement may use: active or in self-refresh, and not under test (R300). -/
def State.chanUsable (s : State) (ch : Nat) : Bool :=
  (s.mcState ch == 1 || s.mcState ch == 2) && s.unitFree (uMc ch)

/-- A channel that a stripe set already uses stays in it while it is active or in self-refresh, under a test too (R307). -/
def State.chanStays (s : State) (ch : Nat) : Bool := (s.mcState ch == 1 || s.mcState ch == 2) && !s.isRetired (uMc ch)

/-- Channel fill order: by rate, then index. -/
def State.fillOrder (s : State) : List Nat :=
  (List.range 3).flatMap fun r => filterRange 16 fun c => s.chanUsable c && s.chanRate c == r

/-- Free 2 MiB pages of a channel, with its present placements. -/
def State.chanPages (s : State) (ch : Nat) : Nat := (s.chanBytes ch - 32 * mebi) / (2 * mebi)

/-- Pages of MA[36:21] that a channel's first `n` pages are. -/
def pageNo (ch k : Nat) : Nat := ch * 4096 + k

/-- Take `n` pages in first fit: channels in fill order, each with the pages already taken. -/
def takePages (order : List Nat) (size : Nat → Nat) : Nat → Tbl Nat → Option (List Nat × Tbl Nat)
  | 0, used => some ([], used)
  | n + 1, used =>
    match order.find? fun c => decide (Tbl.getD used c 0 < size c) with
    | none => none
    | some c =>
      let k := Tbl.getD used c 0
      match takePages order size n (Tbl.put used c (k + 1)) with
      | some (ps, u) => some (pageNo c k :: ps, u)
      | none => none

def refPagesNeeded (r : RefDyn) : Nat := ceilDiv r.bytes (2 * mebi)

/-- A compare job of the intent names the reference, so that the configuration digest covers it (R315). -/
def Intent.usesRef (i : Intent) (r : Nat) : Bool := (i.jobs 6 []).any fun j => hIdx (cRef j.2) == r

/-- Pages for references in handle order, after what each channel has given. -/
def State.packRefs (s : State) (rs : List (Nat × RefDyn)) (used : Tbl Nat) : Except Response (List RefPlace × Tbl Nat) :=
  rs.foldlM
    (fun (acc : List RefPlace × Tbl Nat) e =>
      match takePages s.fillOrder s.chanPages (refPagesNeeded e.2) acc.2 with
      | some (ps, u) => .ok (acc.1 ++ [{ obj := e.1, pages := ps }], u)
      | none => .error (refusal stAdmission 0x0A 0 0 (s.handleOf 3 e.1) e.2.bytes
          (2 * mebi * sumOn s.fillOrder fun ch => s.chanPages ch - Tbl.getD acc.2 ch 0))) ([], used)

/-- The references that hold members and that the configuration uses, in handle order, with their pages and what each channel
has taken; re-placement leaves all where they are (R310). -/
def State.placeRefs (s : State) (c : PlaceCtx) : Except Response (List RefPlace × Tbl Nat) :=
  if !c.strict then
    .ok (s.heldRefs.map fun e => { obj := e.1, pages := e.2.pages },
      (s.heldRefs.flatMap fun e => e.2.pages).foldl (fun u k => Tbl.put u (k / 4096) (Tbl.getD u (k / 4096) 0 + 1)) [])
  else s.packRefs (s.heldRefs.filter fun e => c.it.usesRef e.1) []

/-- The references that the configuration does not use take pages that its rings leave, so that no ring rests on them (R303;
DEDUCED, log entry 118). -/
def State.restRefs (s : State) (c : PlaceCtx) (used : Tbl Nat) : Except Response (List RefPlace) :=
  if !c.strict then .ok []
  else (s.packRefs (s.heldRefs.filter fun e => !c.it.usesRef e.1) used).map (·.1)

/-! ### Step 8: stream rings (R300) -/

/-- What streams have taken: port A share and pages of each channel. -/
structure RingAcc where
  streams : List StreamPlace
  load : Tbl Frac
  pages : Tbl Nat
  deriving DecidableEq, Repr

def State.headroom (s : State) (a : RingAcc) (ch : Nat) : Frac :=
  (frac (giga * portA (s.chanRate ch))).sub (Tbl.getD a.load ch (frac 0))
def State.freeBytes (s : State) (a : RingAcc) (ch : Nat) : Nat := 2 * mebi * (s.chanPages ch - Tbl.getD a.pages ch 0)

/-- The first set of at least `n` channels that holds the stream. -/
def State.findStripe (s : State) (a : RingAcc) (d : Frac) (size : Nat) (avoid : List Nat) : Nat → Nat → Option (List Nat)
  | 0, _ => none
  | fuel + 1, n =>
    if s.fillOrder.length < n then none
    else
      let ok := s.fillOrder.filter fun ch => !avoid.contains ch && (d.divNat n).le (s.headroom a ch) &&
        decide (perChannel size n ≤ s.freeBytes a ch)
      if n ≤ ok.length then some (ok.take n) else s.findStripe a d size avoid fuel (n + 1)

/-- Take the share of one stream. -/
def RingAcc.take (a : RingAcc) (idx : Nat) (d : Frac) (size : Nat) (stripe : List Nat) (old : Option StreamPlace) : RingAcc :=
  let n := stripe.length
  let per := perChannel size n
  { streams := a.streams ++ [{ obj := idx, demand := d.ceil, stripe := stripe, perChannel := per
                               engine := old.bind (·.engine), slot := old.bind (·.slot) }]
    load := stripe.foldl (fun l ch => Tbl.put l ch ((Tbl.getD l ch (frac 0)).add (d.divNat n))) a.load
    pages := stripe.foldl (fun l ch => Tbl.put l ch (Tbl.getD l ch 0 + per / (2 * mebi))) a.pages }

/-- Insert by descending demand; equal demands stay in handle order. -/
def insertDemand (x : Nat × List Byte × Frac) : List (Nat × List Byte × Frac) → List (Nat × List Byte × Frac)
  | [] => [x]
  | y :: t => if y.2.2.lt x.2.2 then x :: y :: t else y :: insertDemand x t

/-- The streams of the intent by descending demand. -/
def State.byDemand (s : State) (c : PlaceCtx) : List (Nat × List Byte × Frac) :=
  (c.it.streams c.shed).foldl (fun l x => insertDemand (x.1, x.2, s.streamDemand c.it x.2) l) []

/-- Why a stream finds no set (R299, R300). -/
def State.stripeRefusal (s : State) (c : PlaceCtx) (a : RingAcc) (idx : Nat) (d : Frac) (size : Nat) : Response :=
  let h := s.handleOf 1 idx
  let n0 := minChannels d 2
  let least := max n0 (c.it.minStripe idx)
  if (s.findStripe a d size [] 17 n0).isSome then
    refusal stConstraint (if (s.findStripe a d size [] 17 least).isSome then 4 else 3) 0 0 h 0 0
  else
    match s.fillOrder.find? fun ch => !(d.divNat n0).le (s.headroom a ch) with
    | some ch =>
      let lim := frac (giga * portA (s.chanRate ch))
      refusal stAdmission 0x06 0 (uMc ch) h ((lim.sub (s.headroom a ch)).add (d.divNat n0)).ceil lim.floor
    | none => refusal stAdmission 0x0A 0 0 h size (sumOn s.fillOrder fun ch => s.freeBytes a ch)

/-- Place the rings of streams in order, those kept first with their own sets. -/
def State.placeRings (s : State) (c : PlaceCtx) (kept : List StreamPlace) (used : Tbl Nat) : Except Response RingAcc :=
  let all := s.byDemand c
  let isKept := fun (x : Nat × List Byte × Frac) => kept.any (·.obj == x.1)
  ((all.filter isKept) ++ (all.filter fun x => !isKept x)).foldlM (fun (a : RingAcc) x =>
    let idx := x.1
    let d := x.2.2
    let size := ringBytes c.it idx x.2.1
    let old := kept.find? (·.obj == idx)
    let avoid := ((c.it.disjointFrom idx).filterMap fun o => a.streams.find? (·.obj == o)).flatMap (·.stripe)
    let same := match old with
      | some p =>
        let n := p.stripe.length
        if p.stripe.all fun ch => s.chanStays ch && !avoid.contains ch && (d.divNat n).le (s.headroom a ch) &&
            decide (perChannel size n ≤ s.freeBytes a ch) then some p.stripe else none
      | none => none
    let got := match same with
      | some st => some st
      | none => s.findStripe a d size avoid 17 (minChannels d (c.it.minStripe idx))
    match got with
    | some st => .ok (a.take idx d size st (if same.isSome then old else none))
    | none => .error (s.stripeRefusal c a idx d size)) { streams := [], load := [], pages := used }

/-! ### Step 9: compressor engines (R257, R301) -/

structure CeAcc where
  load : Tbl Frac
  resident : Tbl Nat
  windowed : Tbl Nat
  place : List (Nat × Nat × Option Nat)
  deriving DecidableEq, Repr

def CeAcc.left (a : CeAcc) (e : Nat) : Frac := (frac 1).sub (Tbl.getD a.load e (frac 0))

/-- Context slots that the continuous and windowed compressed streams of the intent need: a resident one each, and a rotating
one for the others (R257). -/
def State.slotsNeeded (s : State) (c : PlaceCtx) : Nat :=
  let comp := (c.it.streams c.shed).filter fun x => bFormat x.2 != 0
  comp.countP (fun x => !bWindowed x.2) + (if comp.any fun x => bWindowed x.2 then 1 else 0)

/-- No engine has a slot for a stream: a slot that is free on an engine without room for the load names the first engine with
that room, else no engine has the slots (Table 14.7a). -/
def State.slotRefusal (s : State) (c : PlaceCtx) (engines : List Nat) (a : CeAcc) (idx : Nat) (room : Option Nat) : Response :=
  match room with
  | some e => if engines.any fun x => decide (Tbl.getD a.resident x 0 < 8) then
      refusal stNoResource 0x11 0x0B (uCe e) (s.handleOf 1 idx) (Tbl.getD a.resident e 0 + 1) 8
    else refusal stNoResource 0 0x0B 0 (s.handleOf 1 idx) (s.slotsNeeded c) (8 * engines.length)
  | none => refusal stNoResource 0 0x0B 0 (s.handleOf 1 idx) (s.slotsNeeded c) (8 * engines.length)

/-- The engine, among those in order, with the largest value; the first of equals. -/
def bestBy (l : List Nat) (better : Nat → Nat → Bool) : Option Nat :=
  match l with
  | [] => none
  | x :: t => some (t.foldl (fun b e => if better e b then e else b) x)

def State.placeContinuous (s : State) (c : PlaceCtx) (engines : List Nat) (a : CeAcc) (x : Nat × List Byte × Frac)
    (old : Option (Nat × Nat)) : Except Response CeAcc :=
  let rate := engineRate (bEffort x.2.1 + 1)
  let need := x.2.2.div rate
  let fits := fun e => need.le (a.left e)
  let slotOf := fun e => (List.range 8).find? fun k => !a.place.any fun p => p.2.1 == e && p.2.2 == some k
  let same := match old with
    | some o => if !s.isRetired (uCe o.1) && fits o.1 && !(a.place.any fun p => p.2.1 == o.1 && p.2.2 == some o.2) then some o else none
    | none => none
  let pick := match same with
    | some o => some o
    | none => (engines.find? fun e => fits e && (slotOf e).isSome).bind fun e => (slotOf e).map fun k => (e, k)
  match pick with
  | some (e, k) => .ok { a with
      load := Tbl.put a.load e ((Tbl.getD a.load e (frac 0)).add need)
      resident := Tbl.put a.resident e (Tbl.getD a.resident e 0 + 1)
      place := a.place ++ [(x.1, e, some k)] }
  | none =>
    if engines.any fits then .error (s.slotRefusal c engines a x.1 (engines.find? fits))
    else
      match bestBy engines fun e b => (a.left b).lt (a.left e) with
      | some e => .error (refusal stAdmission 0x07 0 (uCe e) (s.handleOf 1 x.1) x.2.2.ceil ((a.left e).mul rate).floor)
      | none => .error (refusal stAdmission 0x07 0 0 (s.handleOf 1 x.1) x.2.2.ceil 0)

def State.placeWindowed (s : State) (c : PlaceCtx) (engines : List Nat) (a : CeAcc) (idx : Nat) (old : Option Nat) : Except Response CeAcc :=
  let cands := engines.filter fun e => decide (Tbl.getD a.resident e 0 < 8)
  let less := fun e b =>
    let le := Tbl.getD a.load e (frac 0)
    let lb := Tbl.getD a.load b (frac 0)
    le.lt lb || (!lb.lt le && decide (Tbl.getD a.windowed e 0 < Tbl.getD a.windowed b 0))
  let pick := match old with
    | some e => if !s.isRetired (uCe e) && decide (Tbl.getD a.resident e 0 < 8) then some e else bestBy cands less
    | none => bestBy cands less
  match pick with
  | some e => .ok { a with windowed := Tbl.put a.windowed e (Tbl.getD a.windowed e 0 + 1), place := a.place ++ [(idx, e, none)] }
  | none => .error (s.slotRefusal c engines a idx none)

/-- Compressor engines: continuous streams that keep their engine come first (R310), then the others in their order, then the
windowed ones. -/
def State.placeEngines (s : State) (c : PlaceCtx) (kept : List StreamPlace) : Except Response CeAcc := do
  let engines := (List.range 16).filter fun e => s.unitFree (uCe e)
  let comp := (s.byDemand c).filter fun x => bFormat x.2.1 != 0
  let cont := comp.filter fun x => !bWindowed x.2.1
  let oldOf := fun (i : Nat) => kept.find? (·.obj == i)
  let stays := fun (x : Nat × List Byte × Frac) =>
    (oldOf x.1).any fun p => p.slot.isSome && p.engine.any fun e => !s.isRetired (uCe e)
  let a ← (cont.filter stays ++ cont.filter fun x => !stays x).foldlM (fun (a : CeAcc) x =>
      s.placeContinuous c engines a x ((oldOf x.1).bind fun p => p.engine.bind fun e => p.slot.map fun k => (e, k)))
    { load := [], resident := [], windowed := [], place := [] }
  ((c.it.streams c.shed).filter fun x => bFormat x.2 != 0 && bWindowed x.2).foldlM (fun (a : CeAcc) x =>
    s.placeWindowed c engines a x.1 ((oldOf x.1).bind (·.engine))) a

/-- Put the engines into the stream placements. -/
def withEngines (ss : List StreamPlace) (a : CeAcc) : List StreamPlace :=
  ss.map fun p => match a.place.find? (·.1 == p.obj) with
    | some x => { p with engine := some x.2.1, slot := x.2.2 }
    | none => { p with engine := none, slot := none }

/-- Steps 8 and 9; where kept places stand in the way, both are done again for all streams (R310). -/
def State.placeStreams (s : State) (c : PlaceCtx) (used : Tbl Nat) : Except Response (List StreamPlace × CeAcc × RingAcc) :=
  let try_ := fun (kept : List StreamPlace) => do
    let r ← s.placeRings c kept used
    let e ← s.placeEngines c kept
    .ok (withEngines r.streams e, e, r)
  match try_ c.keep.streams with
  | .ok x => .ok x
  | .error m => if c.keep.streams.isEmpty then .error m else try_ []

/-! ### Mark rates (R460) -/

/-- The windowed mark rate of a placed stream. -/
def State.markRate (s : State) (c : PlaceCtx) (ss : List StreamPlace) (idx : Nat) : Nat :=
  let strs := c.it.streams c.shed
  let cont := strs.filter fun x => !bWindowed x.2
  let wins := strs.filter fun x => bWindowed x.2
  let egress := ((tenth s.weaver.egress).sub (fracSum (cont.map fun x => s.streamDemand c.it x.2))).divNat wins.length
  match c.it.def? 1 idx, ss.find? (·.obj == idx) with
  | some p, some pl =>
    let w := (match c.it.def? 8 idx with | some x => wPre x + wPost x | none => 0) + 8192
    let share : Frac := match pl.engine with
      | none => egress
      | some e =>
        let load := fracSum ((cont.filter fun x => match ss.find? (·.obj == x.1) with
          | some q => q.engine == some e
          | none => false).map fun x => (s.streamDemand c.it x.2).div (engineRate (bEffort x.2 + 1)))
        let n := wins.countP fun x => match ss.find? (·.obj == x.1) with | some q => q.engine == some e | none => false
        let es := (((frac 1).sub load).mul (engineRate (bEffort p + 1))).divNat n
        if es.lt egress then es else egress
    if share.num = 0 then 0
    else
      let t := ((frac w).div share).add (if pl.engine.isSome then mkFrac 6 1000000 else frac 0)
      min 0xFFFFFFFF ((frac 1).div t).floor
  | _, _ => 0

/-! ### The whole placement -/

/-- Terms whose sequence and unit are kept. -/
def keptTerms (c : PlaceCtx) (seqs : List SeqPlace) : List TermPlace :=
  c.keep.terms.filter fun t => c.keep.seqs.any (fun q => q.obj == t.seq && seqs.contains q) &&
    (match (c.it.terms t.seq)[t.term]? with | some e => tKind e != 4 | none => false)

def State.placeAll (s : State) (c : PlaceCtx) : Except Response Placement := do
  match (if c.sums then s.sums c.it c.shed c.it.minStripe else []).findSome? Sum.check with
  | some r => .error r
  | none =>
    let seqs ← s.placeSeqs c
    let terms ← s.placeTerms c seqs (keptTerms c seqs)
    let cmps ← s.placeCmps c
    let terms ← s.placeDevs c cmps (terms ++ keptDevs c seqs cmps)
    let ivals ← s.placeIvals c
    let hists ← s.placeHists c
    let pods := s.placePods c
    let refs ← s.placeRefs c
    let st ← s.placeStreams c refs.2
    let rest ← s.restRefs c st.2.2.pages
    let p : Placement :=
      { seqs := seqs, terms := terms, cmps := cmps, ivals := ivals, hists := hists, refs := refs.1 ++ rest, streams := st.1
        trig := pods.1, slots := pods.2 }
    let slow := if !c.strict then none else (c.it.streams c.shed).findSome? fun x =>
      match c.it.constraint 5 1 x.1 with
      | some v => if bWindowed x.2 && decide (s.markRate c p.streams x.1 < v) then some x.1 else none
      | none => none
    match slow with
    | some i => .error (refusal stConstraint 5 0 0 (s.handleOf 1 i) 0 0)
    | none => .ok p

end Sys2Proof.Machine
end

