-- ==== Sys2Proof/Machine/Digests.lean ====
section
/-!
DEFINITION. The objects that a configuration uses (R204), the canonical intent and the configuration digest (R315), the
placement and health digests (R316), and the digests of a die (R317).
-/
namespace Sys2Proof.Machine

/-! ### Objects that a configuration uses (R204) -/

/-- Type and index of the object that a handle names. -/
def named (h : Word) : Nat := hKey h

/-- Objects that a sequence's definition names: its bindings and the compare jobs of its deviation terms. -/
def Intent.seqNames (i : Intent) (seq : Nat) : List Nat :=
  (match i.def? 2 seq with
   | some p => ((List.range 16).map (qBinding p)).filter (· ≠ 0) |>.map named
   | none => []) ++
  ((i.terms seq).filter fun e => tKind e == 4).map fun e => named (BitVec.ofNat 32 (getLe e 8 4))

/-- Both parts of the sequence have been accepted (R332). -/
def Intent.seqComplete (i : Intent) (seq : Nat) : Bool := (i.def? 2 seq).isSome && (i.def? 7 seq).isSome

/-- Objects that an object's definition names. -/
def Intent.names (i : Intent) (key : Nat) : List Nat :=
  let idx := key % 65536
  match key / 65536 with
  | 1 => match i.def? 1 idx with | some p => (bSeqs p).map named | none => []
  | 2 => i.seqNames idx
  | 4 => match i.def? 4 idx with | some p => if hRefSeq p = 0 then [] else [named (hRefSeq p)] | none => []
  | 5 => match i.def? 5 idx with | some p => (iStreams p).map named | none => []
  | 6 => match i.def? 6 idx with | some p => named (cRef p) :: (cStreams p).map named | none => []
  | _ => []

/-- Objects that hold a whole definition. -/
def Intent.holders (i : Intent) : List Nat :=
  ([1, 4, 5, 6].flatMap fun k => (i.defined k).map (objKey k)) ++
    ((i.defined 2).filter i.seqComplete).map (objKey 2)

/-- Add what the listed objects name, and so on. -/
def Intent.closure (i : Intent) : Nat → List Nat → List Nat
  | 0, l => l
  | fuel + 1, l =>
    let new := (l.flatMap i.names).eraseDups.filter fun k => !l.contains k
    if new.isEmpty then l else i.closure fuel (l ++ new)

/-- The objects that an intent uses, ascending by type and index. -/
def Intent.used (i : Intent) : List Nat := ascending (i.closure (6 * 65536) i.holders.eraseDups)

/-- The intent without the parts of sequences that it does not use (log entry 40). -/
def Intent.effective (i : Intent) : Intent :=
  let u := i.used
  { i with defs := i.defs.filter fun e =>
      let k := e.1 / 65536
      if k = 2 ∨ k = 7 then u.contains (objKey 2 (e.1 % 65536))
      else if k = 8 then (i.def? 1 (e.1 % 65536)).isSome || u.contains (objKey 1 (e.1 % 65536))
      else true }

/-! ### The canonical intent (R315) -/

/-- One entry: header and body padded to a multiple of 8 bytes. -/
def digEntry (kind idx : Nat) (body : List Byte) : List Byte :=
  leBytes 1 kind ++ [0] ++ leBytes 2 idx ++ leBytes 4 body.length ++ padTo (roundUp body.length 8) body

/-- Write zero over `len` bytes at `off`. -/
def blank (p : List Byte) (off len : Nat) : List Byte :=
  p.take off ++ List.replicate (min len (p.length - off)) 0 ++ p.drop (off + len)

/-- The handle at `off` with generation zero. -/
def noGen (p : List Byte) (off : Nat) : List Byte :=
  if p.length < off + 4 then p
  else
    let h := getLe p off 4
    p.take off ++ leBytes 4 (h / 2 ^ 28 * 2 ^ 28 + h % 2 ^ 16) ++ p.drop (off + 4)

def noGens (p : List Byte) (offs : List Nat) : List Byte := offs.foldl noGen p

/-- BIND_STREAM without ring addresses, ring sizes and vector (R315). -/
def canonBind (p : List Byte) : List Byte :=
  let f := getLe p 0 4
  let p := leBytes 4 (f - f / 4 % 2 * 4) ++ p.drop 4
  let p := blank (blank (blank p 0x0A 2) 0x10 8) 0x18 24
  noGens p ((List.range (bSeqN p)).map fun k => bSeqOff p + 4 * k)

def canonLevels (p : List Byte) : List Byte := noGens p ((List.range 16).map fun k => 0x48 + 4 * k)
def canonTerms (p : List Byte) : List Byte :=
  noGens p (((List.range (qTermN p)).filter fun t => tKind (qTerm p t) == 4).map fun t => 0x10 + 48 * t)

/-- The pod image with address 0xFA taken as zero (Table 13.7). -/
def canonImage (c : PodCfg) : List Byte := blank (padTo 1024 c.image) (4 * 0xFA) 4

/-- Entries of an object that an intent uses. -/
def State.objEntry (s : State) (i : Intent) (key : Nat) : List Byte :=
  let idx := key % 65536
  let d := fun k => (i.def? k idx).getD []
  match key / 65536 with
  | 1 => digEntry 0x11 idx ((if (i.def? 1 idx).isSome then canonBind (d 1) else []) ++ padTo 8 (d 8))
  | 2 => digEntry 0x12 idx (canonLevels (d 2) ++ canonTerms (d 7))
  | 3 => digEntry 0x13 idx (s.ref idx).digest
  | 4 => digEntry 0x14 idx (noGen (d 4) 0x28)
  | 5 => digEntry 0x15 idx (noGens (d 5) ((List.range 8).map fun k => 0x10 + 4 * k))
  | 6 => digEntry 0x16 idx (noGens (d 6) (0 :: (List.range 8).map fun k => 0x10 + 4 * k))
  | _ => []

def State.canonical (s : State) (i : Intent) : List Byte :=
  ((List.range 192).filter fun n => !s.laneAbsent n).flatMap (fun n =>
    let c := i.lane n
    digEntry 0x01 n ([c.cfg, c.thr, c.follow, c.followU, c.stateDly].flatMap fun w => leBytes 4 w.toNat)) ++
  i.pods.flatMap (fun e => digEntry 0x02 e.1 (leBytes 8 e.2.grant ++ sha256 (canonImage e.2))) ++
  i.used.flatMap (s.objEntry i) ++
  i.constraints.zipIdx.flatMap (fun x => digEntry 0x20 x.2 (noGens x.1 [4, 8]))

def State.configDigest (s : State) (i : Intent) : List Byte := sha256 (s.canonical i)

/-! ### The placement digest (R316) -/

/-- Unit that holds a term unit. -/
def TermUnit.holder : TermUnit → Word
  | .pt k _ => uStake k
  | .du k _ => uStake k
  | .qu k _ => uStake k
  | .dv k _ => uStake k
  | .ppt p _ => uPort p
  | .pdu p _ => uPort p
  | .drop p => uPort p
  | .tin w _ => uWeave w

def addrBytes (u : Word) : List Byte := leBytes 4 u.toNat

def Placement.seqTerms (p : Placement) (seq : Nat) : List Word :=
  let l := (p.terms.filter (·.seq == seq)).filterMap fun t => (termAt t.weave t.number).map fun u => (uSlice u.holder t.number).toNat
  (ascending l).map (BitVec.ofNat 32)

def placeEntry (i : Intent) (p : Placement) (shed : List Nat) (key : Nat) : List Byte :=
  let idx := key % 65536
  let type := key / 65536
  if shed.contains key then digEntry (0x10 + type) idx []
  else
    match type with
    | 1 => match p.streams.find? (·.obj == idx) with
      | none => []
      | some x => digEntry 0x11 idx
          (x.stripe.flatMap (fun ch => addrBytes (uMc ch) ++ leBytes 8 x.perChannel) ++
            match x.engine, x.slot with
            | some e, some k => addrBytes (uSlice (uCe e) k)
            | some e, none => addrBytes (uCe e)
            | none, _ => [])
    | 2 => match p.seqSq idx with
      | none => []
      | some q => digEntry 0x12 idx (addrBytes (uSq q) ++ (p.seqTerms idx).flatMap addrBytes)
    | 4 => match p.histPlace idx with
      | none => []
      | some h => digEntry 0x14 idx (addrBytes (uHu h.hu) ++ leBytes 4 h.base)
    | 5 => match p.ivalIu idx with
      | none => []
      | some u => digEntry 0x15 idx (addrBytes (uIu u))
    | 6 => match p.cmps.find? (·.obj == idx) with
      | none => []
      | some c => digEntry 0x16 idx (addrBytes (uCu c.cu) ++ addrBytes (uDe c.de))
    | _ => let _ := i; []

/-- PP_SLOT of an owner: OWNER, and VALID for an owned slot. -/
def slotByte (o : Nat) : Nat := if o < 32 then 32 + o else 0

def State.placementDigest (s : State) (i : Intent) (p : Placement) (shed : List Nat) : List Byte :=
  sha256 (i.used.flatMap (placeEntry i p shed) ++
    ((List.range 16).filter fun k => !s.portAbsent k).flatMap (fun k =>
      digEntry 0x30 k ((List.range 62).flatMap fun f => leBytes 1 (slotByte ((Tbl.getD p.slots k []).getD f 32)))))

/-! ### The health digest (R316) -/

/-- Units held out of placement now: frozen, evacuating and retraining channels, and units under test. -/
def State.heldOut (s : State) : List Word :=
  let chans := (filterRange 16 fun c => s.mcState c == 3 || s.mcState c == 4 || s.mcState c == 5).map fun c => (uMc c).toNat
  let tests := s.weaver.tests.map fun t => t.unit.toNat
  (ascending (chans ++ tests)).map (BitVec.ofNat 32)

def State.healthDigest (s : State) : List Byte :=
  sha256 (s.weaver.retired.flatMap addrBytes ++ leBytes 4 0xFFFFFFFF ++ s.heldOut.flatMap addrBytes ++
    (List.range 16).flatMap (fun c => leBytes 1 (s.chanRate c)) ++ (List.range 16).flatMap (fun c => leBytes 1 (s.chanDensity c)))

/-! ### The digest of a die (R317) -/

/-- RW registers of a block in ascending offset, with the address `base` of the block's instance. -/
def Block.rwOffsets (b : Block) : List Nat :=
  ((List.range (b.stride / 4)).map (4 * ·)).filter fun o => match b.spec o with
    | some sp => sp.rw != 0 && !(b.code == 0x12 && decide (0x100 ≤ o))
    | none => false

def blocksRw (bs : List Block) (die : Nat) : List Nat :=
  bs.flatMap fun b => (List.range b.count).flatMap fun n => b.rwOffsets.map fun o => die + b.base + b.stride * n + o

/-- RW registers of a die: CD0 is 0, CD1 is 1, HD is 2. The training helper registers are left out. -/
def dieRw (d : Nat) : List Nat := if d = 2 then blocksRw hubBlocks 0 else blocksRw capBlocks (0x1000000 * (d + 1))

/-- The digest that a die's hash unit reports: over the values its registers hold. -/
def State.reportedDigest (s : State) (d : Nat) : List Byte :=
  sha256 ((dieRw d).flatMap fun a => leBytes 4 (s.reg a &&& BitVec.ofNat 32 (rwMask a)).toNat)

/-- The digest that firmware expects: over the values it wrote. -/
def State.expectedDigest (s : State) (d : Nat) : List Byte :=
  sha256 ((dieRw d).flatMap fun a => leBytes 4 (s.fwReg a &&& BitVec.ofNat 32 (rwMask a)).toNat)

/-- Firmware writes the 32 bytes of a digest in eight registers. -/
def State.putDigest (s : State) (f : Nat → Nat) (dig : List Byte) : State :=
  s.each (List.range 8) fun s i => s.setReg (f i) (BitVec.ofNat 32 (getLe dig (4 * i) 4))

end Sys2Proof.Machine
end

