-- ==== Sys2Proof/Machine/ConfigCheck.lean ====
section
/-!
DEFINITION. The checks of an intent's own fields and objects at COMMIT (R299, list item 1), in the order of the rules that
state them. Each answers the status of a refusal. The spec gives no DETAIL for them: it is free (log entry 41).
-/
namespace Sys2Proof.Machine

def badIf (c : Bool) (status : Nat) : Option Nat := if c then some status else none

/-! ### Lanes (R60) -/

/-- Lane that clocks a state-mode lane under the intent. -/
def Intent.clkLane (i : Intent) (n : Nat) : Nat := 16 * (n / 16) + fld (i.lane n).cfg 16 4

def State.checkClocks (s : State) (i : Intent) : Option Nat :=
  badIf ((filterRange 192 fun n => !s.laneAbsent n && i.laneMode n == 4).any fun n =>
    i.clkLane n == n || i.laneMode (i.clkLane n) == 0) stInvalid

/-! ### Terms (R75, R96, R99, R103, R105) -/

/-- The terms of the sequences that the intent uses, with their sequence. -/
def Intent.usedTerms (i : Intent) : List (Nat × List Byte) :=
  (i.defined 7).flatMap fun q => (i.terms q).map fun e => (q, e)

def uOnly (m : Nat) : Bool := m == 2

/-- R75: a pod pattern or pod duration term's position holds a pod of the intent. -/
def Intent.checkTrigPod (i : Intent) (e : List Byte) : Option Nat :=
  badIf ((tKind e == 5 || tKind e == 6) && (Tbl.find? i.pods (32 * tWhere e + tPos e)).isNone) stInvalid

/-- R96: codes against the modes of the lanes. -/
def Intent.checkCodes (i : Intent) (e : List Byte) : Option Nat :=
  badIf (tKind e == 1 && (List.range 16).any fun l =>
    let c := getLe e 8 8 / 16 ^ l % 16
    let m := i.laneMode (16 * tWhere e + l)
    c != 0 && (m == 0 || (uOnly m && [0x2, 0x4, 0xB, 0xC].contains c))) stInvalid

/-- R99: EDGE selects the L comparator of a U-only lane. -/
def Intent.checkDurLanes (i : Intent) (e : List Byte) : Option Nat :=
  let c := tCtl e
  let lane := fun (lo : Nat) => i.laneMode (16 * tWhere e + c / 2 ^ lo % 16)
  badIf (tKind e == 2 && c / 8 % 4 == 1 && (uOnly (lane 9) || (c % 8 == 5 && uOnly (lane 13)))) stInvalid

/-- R103: a signal-quality unit names a U-only lane. -/
def Intent.checkQuLane (i : Intent) (e : List Byte) : Option Nat :=
  badIf (tKind e == 3 && uOnly (i.laneMode (16 * tWhere e + tCtl e / 16 % 16))) stInvalid

/-- R105: the job is one that the intent places on the stake's weave. -/
def Intent.checkDevJob (i : Intent) (e : List Byte) : Option Nat :=
  badIf (tKind e == 4 && (match i.def? 6 (tJob e) with
    | some p => cWeave p != tWhere e / 3
    | none => true)) stInvalid

def Intent.overTerms (i : Intent) (f : List Byte → Option Nat) : Option Nat := i.usedTerms.findSome? fun x => f x.2

/-! ### Sequences (R114, R120, R332) -/

/-- R114 and R332: a valid selector names a term of part 1. -/
def Intent.checkSelectors (i : Intent) : Option Nat :=
  badIf ((i.defined 2).any fun q => (i.selected q).any fun k => decide ((i.terms q).length ≤ k)) stInvalid

/-- Compare jobs that a sequence binds. -/
def Intent.boundJobs (i : Intent) (q : Nat) : List Nat :=
  match i.def? 2 q with
  | some p => (((List.range 16).map (qBinding p)).filter (hType · == 6)).map hIdx
  | none => []

/-- R120: a compare job is bound to one sequence only. -/
def Intent.checkBindings (i : Intent) : Option Nat :=
  let qs := i.defined 2
  badIf (qs.any fun q => (i.boundJobs q).any fun j => qs.any fun r => r != q && (i.boundJobs r).contains j) stInvalid

/-- R332: a sequence that the intent uses has both parts. -/
def Intent.checkComplete (i : Intent) : Option Nat :=
  badIf (i.used.any fun k => k / 65536 == 2 && !i.seqComplete (k % 65536)) stInvalid

/-! ### Compare jobs (R147) -/

/-- Inputs that the words of a reference name. -/
def refCins (r : RefDyn) : List Nat :=
  ((r.members.drop 1).flatMap fun ws => ws.filterMap fun w =>
    let t := wType w
    if t = 2 ∨ t = 3 ∨ ((t = 4 ∨ t = 5 ∨ t = 6) ∧ !wBit45 w) then some (wCin w) else none).eraseDups

def State.checkJob (s : State) (i : Intent) (p : List Byte) : Option Nat :=
  let r := s.ref (hIdx (cRef p))
  if s.weaveAbsent (cWeave p) then some stNoUnit
  else if r.phase ≠ .ready then some stInvalid
  else badIf ((refCins r).any fun c => !cinIsPod c && i.laneMode (48 * cWeave p + cinLane c) == 0) stInvalid

/-! ### Histograms (R165, R167, R168) -/

/-- Lanes of a histogram's definition (log entry 41: DROPOUT has none). -/
def histLanes (p : List Byte) : List Nat :=
  let w := 48 * hWeave p
  let meas := hCfg p / 4 % 8
  if hCfg p / 2 % 2 = 1 then (maskLanes (hMask p % 2 ^ 48)).map (w + ·)
  else if meas = 6 then []
  else if meas = 4 then [w + hCfg p / 2 ^ 9 % 64, w + hCfg p / 2 ^ 15 % 64]
  else [w + hCfg p / 2 ^ 9 % 64]

/-- An event term, by its entry (R91). -/
def termIsEvent (e : List Byte) : Bool :=
  match tKind e with
  | 1 => anyEdgeCode (getLe e 8 8)
  | 5 => getLe e 0x18 16 != 0
  | _ => true

/-- A histogram that has a reference event: EDGE_REL and maps. -/
def histHasRef (p : List Byte) : Bool := hCfg p / 2 % 2 == 1 || hCfg p / 4 % 8 == 5

def State.checkHist (s : State) (i : Intent) (p : List Byte) : Option Nat :=
  let meas := hCfg p / 4 % 8
  let edge := hCfg p / 32 % 4
  let map := hCfg p / 2 % 2 == 1
  let lanes := histLanes p
  let badRef := histHasRef p && (match (i.terms (hIdx (hRefSeq p)))[hRefTerm p]? with
    | none => true
    | some e => !termIsEvent e || (match termWeave e with | some w => w != hWeave p | none => false))
  if s.weaveAbsent (hWeave p) then some stNoUnit
  else badIf (lanes.any (fun n => i.laneMode n == 0) ||
    (!map && meas != 3 && meas != 6 && edge == 1 && lanes.any fun n => uOnly (i.laneMode n)) ||
    (!map && meas == 3 && lanes.any fun n => uOnly (i.laneMode n)) || badRef) stInvalid |>.or
      (badIf (s.isRetired (uHu (hWeave p))) stRetired)

/-- A TRIG_IN reference lies on the weave on which placement puts its sequence's sequencer (R168, R110). -/
def checkHistRefs (i : Intent) (seqs : List SeqPlace) : Option Nat :=
  (i.jobs 4 []).findSome? fun j =>
    let p := j.2
    let seq := hIdx (hRefSeq p)
    match (i.terms seq)[hRefTerm p]?, seqs.find? (·.obj == seq) with
    | some e, some q => badIf (histHasRef p && tKind e == 8 && q.sq / 8 != hWeave p) stInvalid
    | _, _ => none

/-! ### Interval jobs (Table 8.1, R186) -/

/-- Actions of a sequence's valid branches. -/
def seqActionsOf (p : List Byte) : List Nat :=
  (List.range 16).flatMap fun j => (List.range 4).flatMap fun b =>
    if qBr p j b 4 1 % 2 = 1 then (List.range 4).map fun a => qBr p j b (8 + 2 * a) 2 else []

/-- A sequence names the job in IU_START (or IU_STOP) while the source is not a sequencer. -/
def Intent.iuMisused (i : Intent) (job : Nat) (p : List Byte) : Bool :=
  (i.defined 2).any fun q => match i.def? 2 q with
    | none => false
    | some d => (seqActionsOf d).any fun a =>
        let h := qBinding d (a / 32 % 16)
        hType h == 5 && hIdx h == job &&
          ((a % 32 == 0x07 && iSrc p % 2 ^ 16 / 2 ^ 13 != 5) || (a % 32 == 0x08 && iSrc p / 2 ^ 29 != 5))

def State.checkIval (s : State) (i : Intent) (job : Nat) (p : List Byte) : Option Nat :=
  let codes := [iSrc p % 2 ^ 16, iSrc p / 2 ^ 16]
  let badLane := codes.any fun c => c / 2 ^ 13 == 1 &&
    (let m := i.laneMode (48 * iWeave p + c % 64)
     m == 0 || (c / 64 % 4 == 1 && uOnly m))
  if badLane || i.iuMisused job p then some stInvalid
  else badIf (iLocal p && s.weaveAbsent (iWeave p)) stNoUnit

/-! ### All of them -/

def State.checkIntent (s : State) (i : Intent) : Option Nat :=
  [ s.checkClocks i, i.overTerms i.checkTrigPod, i.overTerms i.checkCodes, i.overTerms i.checkDurLanes,
    i.overTerms i.checkQuLane, i.overTerms i.checkDevJob, i.checkSelectors, i.checkBindings,
    (i.jobs 6 []).findSome? (fun j => s.checkJob i j.2), (i.jobs 4 []).findSome? (fun j => s.checkHist i j.2),
    (i.jobs 5 []).findSome? (fun j => s.checkIval i j.1 j.2), i.checkComplete ].findSome? id

end Sys2Proof.Machine
end

