-- ==== Sys2Proof/Machine/ConfigImage.lean ====
section
/-!
DEFINITION. The register image of a configuration: what firmware writes into the RW registers of the capture dies and of the
trigger outputs for an intent and its placement (chapters 2, 4 to 8), and the RO registers that name what is served.
-/
namespace Sys2Proof.Machine

abbrev Image := List (Nat × Word)

def w32 (n : Nat) : Word := BitVec.ofNat 32 n

/-- A 64-bit value in a pair of registers. -/
def pair64 (a v : Nat) : Image := [(a, w32 v), (a + 4, w32 (v / 2 ^ 32))]

/-! ### Lanes (Tables 2.5 to 2.10) -/

def laneImage (n : Nat) (c : LaneCfg) : Image :=
  [ (LN_CFG n, c.cfg), (LN_THR n, c.thr), (LN_FOLLOW n, c.follow), (LN_FOLLOW_U n, c.followU)
  , (LN_STATE_DLY n, c.stateDly), (LN_DESKEW n, w32 (c.user.toNat * 65536)) ]

/-! ### Terms (Tables 4.7 to 4.12) -/

/-- CTL of a term's unit: units of the kinds that have an ENABLE bit are enabled. -/
def termCtl (e : List Byte) : Nat :=
  match tKind e with
  | 1 => tCtl e ||| 1
  | 4 => tCtl e ||| 1
  | 5 => tCtl e ||| 1
  | 7 => tCtl e ||| 2 ^ 13
  | _ => tCtl e

/-- Parameter words of a term, by offset from its CTL register. -/
def termParams (e : List Byte) : List (Nat × Nat) :=
  let p := fun (k : Nat) => getLe e (8 + 4 * k) 4
  let n := match tKind e with | 1 => 2 | 2 => 4 | 3 => 2 | 5 => 8 | 6 => 4 | 7 => 1 | _ => 0
  (List.range n).map fun k => (4 + 4 * k, p k)

def termImage (e : List Byte) (u : TermUnit) : Image :=
  (u.ctl, w32 (termCtl e)) :: (termParams e).map fun x => (u.ctl + x.1, w32 x.2)

def Intent.termEntry (i : Intent) (t : TermPlace) : List Byte := (i.terms t.seq).getD t.term []

def termsImage (i : Intent) (pl : Placement) : Image :=
  pl.terms.flatMap fun t => match termAt t.weave t.number with
    | some u => termImage (i.termEntry t) u
    | none => []

/-! ### Sequencers (Tables 5.9 to 5.12) -/

def Placement.termOf (pl : Placement) (seq term : Nat) : Option TermPlace :=
  pl.terms.find? fun t => t.seq == seq && t.term == term

/-- SQ_TSEL of a selector: the unit that serves its term; 0 while no unit does. -/
def selImage (pl : Placement) (seq v : Nat) : Nat :=
  if v / 2 ^ 15 = 0 then 0
  else match pl.termOf seq (v % 128) with
    | some t => t.number + t.weave * 256 + 1024
    | none => 0

/-- An action as firmware writes it: the unit number in place of the binding of an interval action (R185). While the job has
no unit, being shed, the action is NONE (DESIGN CHOICE, log entry 112). -/
def actImage (pl : Placement) (p : List Byte) (a : Nat) : Nat :=
  if a % 32 = 0x07 ∨ a % 32 = 0x08 ∨ a % 32 = 0x09 then
    match pl.ivalIu (hIdx (qBinding p (a / 32 % 16))) with
    | some iu => a % 32 + 32 * iu
    | none => 0
  else a

def seqImage (pl : Placement) (seq sq path : Nat) (p : List Byte) : Image :=
  let act := fun (j b k : Nat) => actImage pl p (qBr p j b (8 + 2 * k) 2)
  [(SQ_CFG sq, w32 (1 + 2 * path)), (SQ_HOLDOFF sq, w32 (qHoldoff p))] ++
  (List.range 16).map (fun k => let h := qBinding p k; (SQ_BIND sq k, w32 (if h = 0 then 0 else hIdx h + 65536 * hType h))) ++
  (List.range 4).flatMap (fun i => pair64 (SQ_CNT_LIMIT_LO sq i) (qCntLimit p i)) ++
  (List.range 4).flatMap (fun i => pair64 (SQ_TMR_LIMIT_LO sq i) (qTmrLimit p i)) ++
  (List.range 16).flatMap fun j =>
    (List.range 8).map (fun t => (SQ_TSEL sq j t, w32 (selImage pl seq (qSel p j t)))) ++
    (List.range 4).flatMap fun b =>
      [ (SQ_BR_COND sq j b, w32 (qBr p j b 0 4)), (SQ_BR_CTL sq j b, w32 (qBr p j b 4 4))
      , (SQ_BR_ACT_LO sq j b, w32 (act j b 0 + 65536 * act j b 1))
      , (SQ_BR_ACT_HI sq j b, w32 (act j b 2 + 65536 * act j b 3)) ]

def seqsImage (i : Intent) (pl : Placement) : Image :=
  pl.seqs.flatMap fun q => match i.def? 2 q.obj with
    | some p => seqImage pl q.obj q.sq q.path p
    | none => []

/-! ### Histogram, compare and interval units (Tables 6.9, 7.5, 8.7) -/

def histImage (pl : Placement) (h : HistPlace) (p : List Byte) : Image :=
  let o := fun (k : Nat) => HU_RG h.hu h.region k
  let ref := if histHasRef p then
      match pl.termOf (hIdx (hRefSeq p)) (hRefTerm p) with
      | some t => if t.weave = h.hu then t.number * 65536 + 2 ^ 24 else 0
      | none => 0
    else 0
  [ (o 0x00, w32 (hCfg p % 2 ^ 27 ||| 1)), (o 0x04, w32 (hBins p)) ] ++ pair64 (o 0x08) (hLo p) ++
  [ (o 0x10, w32 (hSpan p)), (o 0x14, w32 h.base), (o 0x18, w32 (hMask p)),
    (o 0x1C, w32 (hMask p / 2 ^ 32 % 2 ^ 16 + ref)) ]

def cmpImage (c : CmpPlace) (p : List Byte) : Image :=
  [ (CU c.cu 0x00, w32 (1 + 2 * (cStn p).toNat + 65536 * c.obj)), (CU c.cu 0x04, w32 (getLe p 8 4 % 2 ^ 12))
  , (CU c.cu 0x08, w32 c.de) ]

def ivalImage (u : IvalPlace) (p : List Byte) : Image :=
  [ (IU u.iu 0x00, w32 ((iCfg p % 2 ^ 12 ||| 1) + 65536 * u.obj)), (IU u.iu 0x04, w32 (iSrc p))
  , (IU u.iu 0x08, w32 (iGateTime p)), (IU u.iu 0x0C, w32 (if iCfg p / 4 % 8 = 2 then iN p else 1)) ]

/-- Pins that valid branches of the placed sequences name in TRIG_OUT (R135). -/
def toutPins (i : Intent) (pl : Placement) : List Nat :=
  (pl.seqs.flatMap fun q => match i.def? 2 q.obj with
    | some p => (seqActionsOf p).filterMap fun a => if a % 32 = 0x0A then some (a / 32 % 4) else none
    | none => []).eraseDups

/-! ### The whole image of the capture dies -/

def State.configImage (s : State) (i : Intent) (pl : Placement) : Image :=
  let def_ := fun (k j : Nat) => (i.def? k j).getD []
  ((List.range 192).filter fun n => !s.laneAbsent n).flatMap (fun n => laneImage n (i.lane n)) ++
  termsImage i pl ++ seqsImage i pl ++
  (pl.hists.filter fun h => !s.isRetired (uHu h.hu)).flatMap (fun h => histImage pl h (def_ 4 h.obj)) ++
  pl.cmps.flatMap (fun c => cmpImage c (def_ 6 c.obj)) ++
  pl.ivals.flatMap fun u => ivalImage u (def_ 5 u.obj)

/-- Firmware writes the image: every capture-die register that the image does not name takes its reset value. -/
def State.writeConfig (s : State) (img : Image) : State :=
  let old := (s.fwRegs.keys ++ s.regs.keys).filter fun a =>
    decide (0x1000000 ≤ a) && rwMask a != 0 && !img.any (·.1 == a)
  let s := s.each old fun s a => s.fwWrite a (regDefault a)
  s.each img fun s x => s.fwWrite x.1 x.2

/-- TRIG_OUT ENABLE follows the sequences; a pin whose pulse is in progress is disabled when it completes (R135). -/
def State.writeTout (s : State) (pins : List Nat) : State :=
  s.each (List.range 4) fun s k =>
    if pins.contains k then s.fwWrite (HUB_TOUT_CTL k) (setBit (s.reg (HUB_TOUT_CTL k)) 17 true)
    else if (s.tout k).activeUntil.isSome then s
    else s.fwWrite (HUB_TOUT_CTL k) (setBit (s.reg (HUB_TOUT_CTL k)) 17 false)

/-- RO registers that firmware sets from the placement: map rows, the next SNAP_SEQ, slot tables, trigger pods, engine slots.
A windowed stream's rotating slot is filled when its context enters one (R258); a stream that has turned to format NONE keeps
its slot until the segments under its old settings are delivered (R248). -/
def State.writePlaceRo (s : State) (i : Intent) (pl : Placement) : State :=
  let s := s.each pl.hists fun s h => match i.def? 4 h.obj with
    | some p => (s.setReg (HU_RG h.hu h.region 0x20) (w32 (s.image h.obj).nextSeq)).setRegF (HU_RG h.hu h.region 0x04) 17 8
        (if hCfg p / 2 % 2 = 1 then 3 * (maskLanes (hMask p % 2 ^ 48)).length else 0)
    | none => s
  let s := s.each (List.range 16) fun s k =>
    let s := if Tbl.find? pl.trig k = s.ppTrig k then s else s.modPort k fun d => { d with levels := [] }
    let s := match Tbl.find? pl.trig k with
      | some q => (s.setRegBit (PP_STATUS k) 14 true).setRegF (PP_STATUS k) 15 5 q
      | none => (s.setRegBit (PP_STATUS k) 14 false).setRegF (PP_STATUS k) 15 5 0
    s
  let s := s.each (List.range 16) fun s e =>
    let s := s.each (List.range 8) fun s k =>
      match pl.streams.find? fun p => p.engine == some e && p.slot == some k with
      | some p =>
        let d := (i.def? 1 p.obj).getD []
        s.setReg (CE_SLOT e k) (w32 (p.obj + 2 ^ 12 + 2 ^ 13 + bFormat d * 2 ^ 14 + bTables d * 2 ^ 16 +
          bEffort d * 2 ^ 17 + bBlock d * 2 ^ 19))
      | none =>
        let r := s.reg (CE_SLOT e k)
        let i := fld r 0 12
        let old := !(s.stream i).oldBinds.isEmpty && !pl.streams.any fun p => p.obj == i && p.engine.isSome
        let keep := bit r 12 && (old || !bit r 13 && pl.streams.any fun p => p.engine == some e && p.slot == none && p.obj == i)
        if keep then s else s.setReg (CE_SLOT e k) 0
    s.countSlots e
  s.each (List.range 8) fun s e =>
    let job := match pl.cmps.find? (·.de == e) with | some c => c.obj | none => 0
    let s := if s.regF (DE e 0) 16 16 = job then s
      else s.modDe e fun d => { d with away := false, diag := false, ctxChan := none, ctxLost := false }
    s.setRegF (DE e 0) 16 16 job

end Sys2Proof.Machine
end

