-- ==== Sys2Proof/Machine/MemOps.lean ====
section
/-!
DEFINITION. DRAM by memory address (R270, R274): reading and writing bytes, pages that are declared gone or moved, and the
libraries of references.
-/
namespace Sys2Proof.Machine

/-! ### Bytes -/

/-- The byte at an address; an unlisted address reads zero (R274). -/
def memRead (m : List Host.Cell) (a : Nat) : Byte := Tbl.getD m a 0

/-- Write one byte, keeping the canonical form: addresses rising, no zero listed. -/
def memWrite (m : List Host.Cell) (a : Nat) (b : Byte) : List Host.Cell := Tbl.set m a b 0

/-- The canonical form of DRAM: addresses rise strictly, and no entry holds the zero that an unlisted address reads as. -/
def Memory.wf (m : MemState) : Bool := Tbl.sorted m.dram && Tbl.lean m.dram fun _ => 0

/-- Page MA[36:21] of an address. -/
def pageOf (a : Nat) : Nat := a / 2 ^ 21

def trainBytes : Nat := 2 ^ 20

/-- The training area that an address lies in. -/
def MemState.trainAt (m : MemState) (a : Nat) : Option TrainArea :=
  m.train.find? fun t => decide (t.from_ ≤ a) && decide (a < t.from_ + trainBytes)

/-- The byte at an address: what training has left in its area is free (R285), as long as nothing else has been written there. -/
def MemState.byte (m : MemState) (a : Nat) : Byte :=
  match m.trainAt a with
  | some t => if t.rewritten.contains a then memRead m.dram a else Config.free 8 (t.base + (a - t.from_))
  | none => memRead m.dram a

/-- A write has gone over bytes of a training area. -/
def TrainArea.overwrite (a len : Nat) (t : TrainArea) : TrainArea :=
  if a + len ≤ t.from_ || t.from_ + trainBytes ≤ a then t
  else { t with rewritten := ((List.range len).map (a + ·)).foldl (fun l x => insertNat x l) t.rewritten }

/-- Write bytes from an address on; their pages become written (R274). -/
def MemState.write (m : MemState) (a : Nat) (bytes : List Byte) : MemState :=
  if bytes.isEmpty then m
  else
    { m with
      train := m.train.map (TrainArea.overwrite a bytes.length)
      dram := bytes.zipIdx.foldl (fun d x => memWrite d (a + x.2) x.1) m.dram
      written := (List.range (pageOf (a + bytes.length - 1) - pageOf a + 1)).foldl (fun w k => insertNat (pageOf a + k) w) m.written }

def State.memBytes (s : State) (a len : Nat) : List Byte := (List.range len).map fun k => s.mem.byte (a + k)
def State.memPut (s : State) (a : Nat) (bytes : List Byte) : State := s.modMem fun m => m.write a bytes

/-- The contents of pages are gone: they read zero and are no longer written (R274). -/
def MemState.forget (m : MemState) (p : Nat → Bool) : MemState :=
  { m with dram := m.dram.filter fun c => !p (pageOf c.1), written := m.written.filter fun k => !p k }

def State.forgetPages (s : State) (p : Nat → Bool) : State := s.modMem fun m => m.forget p

/-- The training area from `a` on holds the free bytes from `base` on. -/
def MemState.retrain (m : MemState) (a base : Nat) : MemState :=
  { m with
    dram := m.dram.filter fun c => !(decide (a ≤ c.1) && decide (c.1 < a + trainBytes))
    train := (m.train.filter fun t => t.from_ != a) ++ [{ from_ := a, base := base, rewritten := [] }] }

/-- Training writes the training area of a channel, the top 1 MiB (R271, R285): what its bytes then hold is free. Its traffic
bypasses the error-correcting code, and sets no page's bit (log entry 117). -/
def State.writeTraining (s : State) (ch : Nat) : State :=
  (s.drawBytes trainBytes).2.modMem fun m => m.retrain (ch * 2 ^ 33 + s.chanBytes ch - trainBytes) s.drawn

/-- Neither ring data nor what training wrote is left on a channel. -/
def State.forgetAreas (s : State) (ch : Nat) : State :=
  (s.modMem fun m => { m with train := m.train.filter fun t => t.from_ / 2 ^ 33 != ch }).modSched ch fun d => { d with ring := false }

/-- A page may hold bytes that the model does not: it may lie in a stream's ring, once one has been written on its channel,
or in the reserved region (log entries 70 and 105). -/
def State.pageOpen (s : State) (k : Nat) : Bool :=
  let ch := k / 4096
  !s.mem.written.contains k &&
    (((s.sched ch).ring && decide (k % 4096 < s.chanPages ch)) ||
      (decide (s.chanPages ch ≤ k % 4096) && decide (k % 4096 * 2 ^ 21 < s.chanBytes ch)))

/-- A page whose bit may be set: its reads are checked (R274). -/
def State.pageChecked (s : State) (k : Nat) : Bool := s.mem.written.contains k || s.pageOpen k

/-! ### Channels at work (R288, R294, R295) -/

def State.setMcState (s : State) (ch v : Nat) : State := s.setRegF (MC_STATUS ch) 0 3 v

/-- Signed temperature of a reading in 0.125 °C units. -/
def tempOf (t : Half) : Int := t.toInt
/-- More than 10 °C apart. -/
def tempMoved (a b : Half) : Bool := decide (80 < (tempOf a - tempOf b).natAbs)

/-- One drift-tracking run (R288): it adjusts the delays by the shift it measures, the total adjustment moves, and the
channel may fall due. -/
def State.trackDrift (s : State) (ch : Nat) (steps : Int) (temp : Half) : State :=
  let moved := fun (v : Nat) => (max 0 (min 127 ((v : Int) + steps))).toNat
  let s := if steps = 0 then s else s.each (List.range 24) fun s p =>
    let a := MC_TRN_DELAY ch p
    (s.fwSetF a 0 7 (moved (fld (s.fwReg a) 0 7))).fwSetF a 8 7 (moved (fld (s.fwReg a) 8 7))
  let s := s.modChan ch fun c => { c with drift := c.drift + steps }
  let d := (s.chan ch).drift.natAbs
  let s := s.setRegF (MC_TRAIN_TEMP ch) 16 8 (max (s.regF (MC_TRAIN_TEMP ch) 16 8) (sat 255 d))
  let due := decide (8 ≤ d) || tempMoved temp (BitVec.ofNat 16 (s.regF (MC_TRAIN_TEMP ch) 0 16)) ||
    decide ((s.reg (MC_TRAIN_TIME ch)).toNat + 86400 ≤ s.opSeconds.toNat)
  if due then s.setRegBit (MC_STATUS ch) 7 true else s

/-- A channel leaves self-refresh or retention for work that is placed on it: one drift-tracking run, whose shift and
temperature no command carries (free; R294, R295). -/
def State.wakeChannel (s : State) (ch : Nat) : State :=
  let d := s.draw 8
  let t := d.2.draw 16
  ((t.2.setMcState ch 1).setRegF (MC_STATUS ch) 9 8 0).trackDrift ch d.1.toInt t.1

/-! ### Pages of references -/

/-- The bytes of `n` bytes kept in a list of pages. -/
def State.pagesBytes (s : State) (pages : List Nat) (n : Nat) : List Byte :=
  ((pages.flatMap fun k => s.mem.dram.filter fun c => pageOf c.1 == k).isEmpty |> fun empty =>
    if empty then List.replicate n 0
    else (List.range n).map fun i => memRead s.mem.dram ((pages.getD (i / 2 ^ 21) 0) * 2 ^ 21 + i % 2 ^ 21))

/-- Store bytes at byte offset `off` of a list of pages. -/
def MemState.put (m : MemState) (pages : List Nat) (off : Nat) (bytes : List Byte) : MemState :=
  { m with
    dram := bytes.zipIdx.foldl (fun d x =>
      memWrite d ((pages.getD ((off + x.2) / 2 ^ 21) 0) * 2 ^ 21 + (off + x.2) % 2 ^ 21) x.1) m.dram
    written := (bytes.zipIdx.map fun x => pages.getD ((off + x.2) / 2 ^ 21) 0).eraseDups.foldl (fun w k => insertNat k w) m.written }

def State.putPages (s : State) (pages : List Nat) (off : Nat) (bytes : List Byte) : State :=
  s.modMem fun m => m.put pages off bytes

/-- A cell moves with its page. -/
def movedCell (mv : List (Nat × Nat)) (c : Host.Cell) : Host.Cell :=
  match mv.find? (·.1 == pageOf c.1) with
  | some m => (m.2 * 2 ^ 21 + c.1 % 2 ^ 21, c.2)
  | none => c

/-- Pages change places: `mv` lists from and to. What stood in the pages that are taken is gone. -/
def MemState.move (m : MemState) (mv : List (Nat × Nat)) : MemState :=
  let from_ := mv.map (·.1)
  let dest := mv.map (·.2)
  let stay := fun (k : Nat) => !from_.contains k && !dest.contains k
  let moved := (m.dram.filter fun c => from_.contains (pageOf c.1)).map (movedCell mv)
  { m with
    dram := moved.foldl (fun d c => memWrite d c.1 c.2) (m.dram.filter fun c => stay (pageOf c.1))
    written := (mv.filterMap fun x => if m.written.contains x.1 then some x.2 else none).foldl (fun w k => insertNat k w)
      (m.written.filter stay) }

/-- The references move to the pages of a placement (R283, R303). -/
def State.moveRefs (s : State) (refs : List RefPlace) : State :=
  let mv := refs.flatMap fun r => ((s.ref r.obj).pages.zip r.pages).filter fun x => x.1 != x.2
  let s := if mv.isEmpty then s else s.modMem fun m => m.move mv
  s.each refs fun s r => s.modRef r.obj fun d => { d with pages := r.pages }

/-- A reference's pages become free: its contents are gone (R144, R145). -/
def State.freeRef (s : State) (r : Nat) : State :=
  let ps := (s.ref r).pages
  if ps.isEmpty then s else s.forgetPages ps.contains

end Sys2Proof.Machine
end

