-- ==== Sys2Proof/Machine/Epoch.lean ====
section
/-!
DEFINITION. The start of a configuration epoch (R40, R53, R94, R128, R136, R248, Tables 6.8, 7.3 and 8.5): what the change
from the committed configuration to a new one does at the instant T0.
-/
namespace Sys2Proof.Machine

/-- What a COMMIT changes. -/
structure Change where
  old : Intent
  new : Intent
  oldPl : Placement
  newPl : Placement
  /-- Objects shed before it (R313). -/
  shed : List Nat
  t0 : Time
  deriving DecidableEq, Repr

/-! ### What changed -/

/-- Mode, thresholds, hysteresis or a follow interval of a lane (R53). -/
def Change.laneRec (c : Change) (n : Nat) : Bool :=
  let a := c.old.lane n
  let b := c.new.lane n
  fld a.cfg 0 3 != fld b.cfg 0 3 || a.thr != b.thr || a.follow != b.follow || a.followU != b.followU

/-- Mode, thresholds or hysteresis: the comparators may switch (R40). -/
def Change.laneThr (c : Change) (n : Nat) : Bool :=
  let a := c.old.lane n
  let b := c.new.lane n
  fld a.cfg 0 3 != fld b.cfg 0 3 || a.thr != b.thr || fld a.follow 16 5 != fld b.follow 16 5

/-- Mode, thresholds, hysteresis or k (R62, R94). -/
def Change.laneLogic (c : Change) (n : Nat) : Bool :=
  c.laneThr n || fld (c.old.lane n).cfg 8 8 != fld (c.new.lane n).cfg 8 8

/-- A setting that the header of a lane's open block depends on: the block ends at T0 (DESIGN CHOICE, log entry 97; R59 and R60
name DISARM, a MARK's segment close and the flush timer only). -/
def Change.laneBlock (c : Change) (n : Nat) : Bool :=
  (c.old.lane n).cfg != (c.new.lane n).cfg || (c.old.lane n).stateDly != (c.new.lane n).stateDly || c.laneThr n

def sameDef (a b : Intent) (kind idx : Nat) : Bool := a.def? kind idx == b.def? kind idx

def Change.seqSame (c : Change) (q : Nat) : Bool :=
  sameDef c.old c.new 2 q && sameDef c.old c.new 7 q && (c.oldPl.seqs.find? (·.obj == q)) == (c.newPl.seqs.find? (·.obj == q))
/-- The COMMIT leaves an interval job unchanged (Table 8.5). One that it places on another unit is unchanged too: its
measurement goes on there (DESIGN CHOICE, log entry 112). -/
def Change.ivalSame (c : Change) (j : Nat) : Bool :=
  sameDef c.old c.new 5 j && (c.oldPl.ivalIu j).isSome && !c.shed.contains (objKey 5 j)
def Change.histSame (c : Change) (h : Nat) : Bool :=
  sameDef c.old c.new 4 h && c.oldPl.histPlace h == c.newPl.histPlace h
/-- The COMMIT leaves a compare job, its reference and its stretch unchanged: its step goes on, on the unit and engine that
the job now has (Table 6.8; log entry 113). -/
def Change.cmpSame (c : Change) (j : Nat) : Bool :=
  sameDef c.old c.new 6 j && (c.oldPl.cmpCu j).isSome && !c.shed.contains (objKey 6 j)

/-- Streams whose settings change; a move to another engine is no change (R248). -/
def Change.strSame (c : Change) (i : Nat) : Bool := sameDef c.old c.new 1 i && sameDef c.old c.new 8 i

/-! ### Before the switch: the old settings end -/

/-- A lane's bursts and block close at T0 under the old settings (R53). -/
def Change.endLane (c : Change) (s : State) (n : Nat) : State :=
  let s := if c.laneRec n then (s.closeBurst n .l c.t0).closeBurst n .u c.t0 else s
  if c.laneBlock n then s.endBlock n c.t0 else s

/-- Changed sequences decide the slots before the epoch, then write their SUMMARY MARKs (R128, R136). -/
def Change.endSeqs (c : Change) (s : State) : State :=
  let qs := ascending ((c.oldPl.seqs.filter fun p => !c.seqSame p.obj).map (·.sq))
  let s := if s.slot = 0 then s else State.decideThrough qs (s.slot - 1) (s.slotsLeft qs (s.slot - 1)) s
  s.each qs fun s q => (s.dropForced q).summaryMark q c.t0

def Change.endUnits (c : Change) (s : State) : State :=
  let s := c.endSeqs s
  let s := s.each c.oldPl.ivals fun s u => if c.ivalSame u.obj then s else s.ivStop u.iu c.t0 false
  let s := s.each c.oldPl.hists fun s h =>
    if c.histSame h.obj then s else s.histEnd h.hu h.region c.t0
  s.each c.oldPl.cmps fun s j => if c.cmpSame j.obj then s else s.abortStep j.cu 2 c.t0

/-- The stream keeps its descriptor and completion rings. -/
def Change.ringSame (c : Change) (i : Nat) : Bool :=
  slice ((c.old.def? 1 i).getD []) 0x18 24 == slice ((c.new.def? 1 i).getD []) 0x18 24

/-- The slot that a stream holds stays its own under the new placement: no stream is placed in it. -/
def Change.slotStays (c : Change) (s : State) (i : Nat) : Bool :=
  match s.heldSlot i with
  | some x => !c.newPl.streams.any fun p => p.engine == some x.1 && p.slot == some x.2
  | none => false

/-- The settings that a stream has had go on for the segments written under them, and the member ends with the last of these
(R248). A stream that turns to format NONE keeps its slot for as long; where the new placement gives the slot to another
stream, or it holds none, its member ends at once, and what waits is delivered unchanged (log entry 103). -/
def Change.keepBind (c : Change) (s : State) (i : Nat) : State :=
  let sd := s.stream i
  if !segBefore sd.nextDeliver sd.segSeq ||
      (bFormat ((c.new.def? 1 i).getD []) = 0 && s.strFormat i != 0 && !c.slotStays s i) then
    (s.endMember i).modStream i fun d => { d with oldBinds := [] }
  else s.modStream i fun d => { d with oldBinds := d.oldBinds ++ [(segAdd d.segSeq (2 ^ 48 - 1), (c.old.def? 1 i).getD [])] }

/-- A stream that the new placement moves between two engines in service takes its context with it: its block and its stored
run end on the old engine, which saves it; the new one restores it, and the member goes on (R252, R260). A windowed stream's
is saved only, until it enters a slot there. -/
def Change.moveContexts (c : Change) (s : State) : State :=
  s.each c.newPl.streams fun s p =>
    match (c.oldPl.streams.find? (·.obj == p.obj)).bind (·.engine), p.engine, s.heldSlot p.obj with
    | some a, some b, some x =>
      if a = b || x.1 ≠ a || s.isRetired (uCe a) || s.isRetired (uCe b) then s
      else
        let s := ((s.breakRun p.obj).addReg (CE a 0x20) 1)
        if p.slot.isSome then s.addReg (CE b 0x20) 1 else s.saveContext p.obj
    | _, _, _ => s

/-- The open segment of a stream whose settings change closes, and a member ends there (R248); a stream that leaves the
configuration ends as at DISARM. -/
def Change.endStreams (c : Change) (s : State) : State :=
  s.each s.streamIds fun s i =>
    if (c.new.def? 1 i).isNone then
      if Tbl.find? s.weaver.created (objKey 1 i) = some true then ((s.closeStream i).flushStream i).deliverAll i
      else (s.closeStream i).deliver i
    else if c.strSame i then s
    else
      let s := s.writeMarks i
      let s := if (s.stream i).open_.length ≤ 2 && (s.stream i).losses.isEmpty then s else s.closeSegment i false true
      let s := c.keepBind s i
      if c.ringSame i then s else (s.completePart i).modStream i StreamDyn.newRings

/-- Lanes that stay lost in a stream: retired, or clocked by a retired lane, and still bound to it (R48, R60). -/
def State.stillLost (s : State) (i : Intent) (n : Nat) : Bool :=
  s.lnRetired n || (i.laneMode n == 4 && s.lnRetired (i.clkLane n))

/-- Pods whose CHAIN_BREAK or REPLACE loss a COMMIT ends: those that it removes, and those of a retired port (Table 3.7). -/
def Change.endPods (c : Change) (s : State) : State :=
  s.each (List.range 16) fun s p => s.each (s.port p).pods.keys fun s q =>
    if (s.pod p q).broken && (s.ppRetired p || (Tbl.find? c.new.pods (podIndex p q)).isNone) then
      s.modPod p q fun d => { d with lossClosed := true }
    else s

/-- REPLACE losses of lanes, and losses of pods, end in the streams that no longer carry the source (R48, R60, Table 3.7); a
pod's also when the intent names it no more, and a retired port's with every COMMIT. Shed streams come back (R313). -/
def Change.endLosses (c : Change) (s : State) : State :=
  (c.endPods s).each s.streamIds fun s i =>
    let p := (c.new.def? 1 i).getD []
    let bound := (c.new.def? 1 i).isSome
    let s := s.closeLosses i (fun l => l.scope == 1 && l.cause == 6 &&
      !(bound && (bLanes p).contains l.index && s.stillLost c.new l.index &&
        (s.lnRetired l.index || c.old.clkLane l.index == c.new.clkLane l.index))) c.t0
    let s := s.closeLosses i (fun l => l.scope == 2 && (!(bound && (bPods p).contains l.index && (Tbl.find? c.new.pods l.index).isSome) ||
      l.cause == 6)) c.t0
    if s.isShed (objKey 1 i) then
      let s := s.modWeaver fun w => { w with shed := w.shed.erase (objKey 1 i) }
      let s := s.closeLoss i 6 0 0 c.t0
      s.modStream i fun sd => sd.startRing c.t0
    else s

/-! ### After the switch: the new settings start -/

/-- A comparator runs in a mode: U in every mode but off, L also not in U-only (Table 2.4). -/
def compRuns (c : Comp) (mode : Nat) : Bool := mode != 0 && (mode != 2 || isU c)

/-- A comparator gets a new threshold or hysteresis, or is powered up or down (R37, R40). -/
def Change.compFresh (c : Change) (n : Nat) (k : Comp) : Bool :=
  let a := c.old.lane n
  let b := c.new.lane n
  let code := match k with | .l => 0 | .u => 16
  compRuns k (fld a.cfg 0 3) != compRuns k (fld b.cfg 0 3) || fld a.thr code 12 != fld b.thr code 12 ||
    fld a.follow 16 5 != fld b.follow 16 5

/-- The outputs of comparators under new settings: the spec gives them by the pin, which the model does not hold (log entry 20),
so they are free, but that U is high only with L, whose threshold is lower (R38). The other comparator keeps its output. -/
def State.newState (s : State) (n : Nat) (freshL freshU : Bool) (t : Time) : State :=
  let d := s.draw 2
  let m := d.2.lnMode n
  let x := d.2.lane n
  let lOn := compRuns .l m
  let u := compRuns .u m && (if freshU then bit d.1 1 && (freshL || !lOn || x.l.high) else x.u.high)
  let l := lOn && (if freshL then u || bit d.1 0 else x.l.high)
  d.2.modLane n fun x => { x with
    l := { x.l with high := l, from_ := if freshL then t else x.l.from_ }
    u := { x.u with high := u, from_ := if freshU then t else x.u.from_ }
    history := insertState { at_ := t, l := if freshL || !lOn then some l else none, u := if freshU then some u else none, edge := false }
      x.history
    lastClock := none }

/-- Lanes with an open REPLACE loss. -/
def State.lossLanes (s : State) : List Nat :=
  s.streams.flatMap fun e => (e.2.losses.filter fun (l : OpenLoss) => l.scope == 1 && l.cause == 6).map (·.index)

/-- A changed lane starts anew at T0: states, E, logical level, pairing (R40, R53, R62). A lane back from retirement starts with
it, and a lane in `back`, whose loss has ended, writes its LEVEL with REASON 3 (R217). -/
def Change.startLane (c : Change) (back : List Nat) (s : State) (n : Nat) : State :=
  let fresh := c.laneThr n || (s.lane n).returning
  let back_ := (s.lane n).returning
  let s := if back_ then (s.modLane n fun d => { d with returning := false }).laneBack n c.t0 else s
  let s := if fresh then s.newState n (back_ || c.compFresh n .l) (back_ || c.compFresh n .u) c.t0 else s
  let s := if c.laneLogic n || fresh then
      (s.modLane n fun d => { d with pendL := none, pendU := none, pairFrom := c.t0 }).takeLevel n
    else s
  let wasSource := s.time.armed && (c.old.defined 1).any fun i => match c.old.def? 1 i with
    | some p => (bLanes p).contains n
    | none => false
  let isSource := s.time.armed && (s.laneStream n).isSome && s.lnLive n
  let rec_ := c.laneRec n || fresh
  if isSource && (rec_ || !wasSource) then
    let e := fun (k : Comp) (d : CompDyn) => { d with burst := none, e := c.t0 + s.lnFollow n k }
    let e0 := fun (d : CompDyn) => { d with burst := none, e := c.t0 }
    let s := s.modLane n fun d =>
      if rec_ && wasSource then { d with l := e .l d.l, u := e .u d.u } else { d with l := e0 d.l, u := e0 d.u }
    s.levelLater n (if back.contains n then 3 else 2) c.t0
  else if isSource && back.contains n then s.levelLater n 3 c.t0
  else s

/-- Lanes that a term's unit reads. -/
def TermUnit.lanes : TermUnit → List Nat
  | .pt k _ => (List.range 16).map (16 * k + ·)
  | .du k _ => (List.range 16).map (16 * k + ·)
  | .qu k _ => (List.range 16).map (16 * k + ·)
  | _ => []

/-- Lanes of a term that its configuration names. -/
def termLanes (e : List Byte) : List Nat :=
  let b := 16 * tWhere e
  match tKind e with
  | 1 => (filterRange 16 fun l => getLe e 8 8 / 16 ^ l % 16 != 0).map (b + ·)
  | 2 => if tCtl e % 8 = 5 then [b + tCtl e / 2 ^ 9 % 16, b + tCtl e / 2 ^ 13 % 16] else [b + tCtl e / 2 ^ 9 % 16]
  | 3 => [b + tCtl e / 16 % 16]
  | _ => []

/-- A term that the COMMIT leaves unchanged, on the same unit and with unchanged inputs (R94). -/
def Change.termSame (c : Change) (t : TermPlace) : Bool :=
  c.oldPl.terms.contains t && c.old.termEntry t == c.new.termEntry t && (termLanes (c.new.termEntry t)).all fun n => !c.laneLogic n

def Change.startTerms (c : Change) (s : State) : State :=
  let keep := (c.newPl.terms.filter c.termSame).map fun t => 256 * t.weave + t.number
  let s := s.modTrig fun g => { g with meas := g.meas.filterKeys keep.contains, since := g.since.filterKeys keep.contains }
  if !s.time.armed then s
  else
    s.each (c.newPl.terms.filter fun t => !c.termSame t) fun s t => match termAt t.weave t.number with
      | some u => s.startTerm u c.t0
      | none => s

/-- Registers of a unit show what those of another showed in `s0`. -/
def State.copyRegs (s s0 : State) (src dst : Nat → Nat) (offs : List Nat) : State :=
  s.each offs fun s o => s.setReg (dst o) (s0.reg (src o))

/-- Unchanged jobs that have another unit now take their step or measurement with them. -/
def Change.moveJobs (c : Change) (s0 s : State) : State :=
  let s := s.each c.newPl.ivals fun s u =>
    match c.oldPl.ivalIu u.obj with
    | some o => if c.ivalSame u.obj && o != u.iu then
        (s.setIval u.iu (s0.ival o)).copyRegs s0 (IU o) (IU u.iu) ((List.range 15).map (0x20 + 4 * ·))
      else s
    | none => s
  s.each c.newPl.cmps fun s j =>
    match c.oldPl.cmpCu j.obj with
    | some o => if c.cmpSame j.obj && o != j.cu then
        ((s.setCmp j.cu (s0.cmp o)).copyRegs s0 (CU o) (CU j.cu) [0x10, 0x14, 0x18]).setReg (CU j.cu 0x0C)
          ((s0.reg (CU o 0x0C) &&& 0xFFFF0003) ||| (s0.reg (CU j.cu 0x0C) &&& 0x3C))
      else s
    | none => s

def Change.startUnits (c : Change) (s : State) : State :=
  let s := c.moveJobs s s
  let s := s.each c.newPl.hists fun s h => if c.histSame h.obj || !s.time.armed then s else s.histStart h.hu h.region c.t0
  let s := s.each c.newPl.ivals fun s u => if c.ivalSame u.obj || !s.time.armed then s else s.ivStart u.iu c.t0 false
  let s := s.each c.newPl.cmps fun s j =>
    if c.cmpSame j.obj then s
    else
      let s := if c.oldPl.cmps.any (·.cu == j.cu) then
          s.modCmp j.cu fun d => { d with nextStep := 0, step := none, anchors := [], queue := [], stationAt := none }
        else s.freshCompare j.cu c.t0
      s.cuState j.cu (if s.time.armed then 1 else 0)
  let s := s.each (c.oldPl.cmps.filter fun j => !c.newPl.cmps.any (·.cu == j.cu)) fun s j => s.cuState j.cu 0
  let s := s.each (c.oldPl.seqs.filter fun q => !c.newPl.seqs.any (·.sq == q.sq)) fun s q =>
    s.setReg (SQ_STATUS q.sq) 0
  s.each c.newPl.seqs fun s q => if c.seqSame q.obj then s else s.startSequencer q.sq s.slot true

/-- Streams that join the configuration. -/
def Change.startStreams (c : Change) (s : State) : State :=
  s.each ((c.new.defined 1).filter fun i => (c.old.def? 1 i).isNone) fun s i =>
    let s := if (Tbl.find? s.streams i).isNone then s.setStream i StreamDyn.init else s
    if s.time.armed then s.modStream i fun sd => sd.startRing c.t0 else s

/-! ### Pods (R72, R77, R79) -/

/-- Announce the switch of a port's slot table (R77): a superframe at least 16 ahead of the one in which the command leaves,
as far beyond as `ahead` says. -/
def State.announceSwitch (s : State) (p ahead : Nat) : State :=
  let n := (s.regF (PP_SFN p) 0 16 + 17 + (s.port p).outbox.length / 1023 + ahead) % 2 ^ 16
  (s.podAction p 0 true 0x02 n).setReg (PP_SWITCH p) (BitVec.ofNat 32 (n + 2 ^ 16))

/-- A present pod takes what the configuration gives it: the whole image where its settings change, its slot bitmaps where only
those do. A pod that the intent now names by its serial number is back (Table 3.7). -/
def Change.startPod (c : Change) (s : State) (p q : Nat) : State :=
  let k := podIndex p q
  let oldT := Tbl.getD c.oldPl.slots p []
  let newT := Tbl.getD c.newPl.slots p []
  let s := match Tbl.find? c.new.pods k with
    | some d => if d.serial = (s.pod p q).serial && (s.pod p q).adding.isNone then s.podRestored p q else s
    | none => s
  if Tbl.find? c.old.pods k != Tbl.find? c.new.pods k then
    match Tbl.find? c.new.pods k with
    | some d => if s.podNamed c.new p q then s.writeImage p q d.image else s.writeIdle p q
    | none => s.writeIdle p q
  else if !s.podNamed c.new p q then s
  else
    let lo := slotBits newT q 0 32
    let hi := slotBits newT q 32 30
    if lo = slotBits oldT q 0 32 && hi = slotBits oldT q 32 30 then s else (s.writePod p q 0xF8 lo).writePod p q 0xF9 hi

/-- Pods whose image or slots change are written; a port whose table changes prepares a switch (R77), at a superframe that is
free beyond 16 ahead. -/
def State.startPods (s : State) (c : Change) : State :=
  let s := s.each (List.range 16) fun s p => s.each (s.podsHere p) fun s q => c.startPod s p q
  s.each (List.range 16) fun s p =>
    let old := Tbl.getD c.oldPl.slots p []
    let new := Tbl.getD c.newPl.slots p []
    if old = new then s
    else
      let d := s.draw 4
      (d.2.modPort p fun d => { d with nextSlots := if new.isEmpty then List.replicate 62 32 else new }).announceSwitch p d.1.toNat

/-! ### Objects that a DESTROY has left to this epoch (R203, R204) -/

/-- 0xFFF is followed by 0x001 (R203). -/
def nextGen (g : Nat) : Nat := if g = 0xFFF then 1 else g + 1

/-- Destroy an object: its index is free, its generation moves on, and what it held is gone. -/
def State.destroyObject (s : State) (key : Nat) : State :=
  let idx := key % 65536
  let s := if key / 65536 = 3 then s.freeRef idx else s
  let s := s.modWeaver fun w => { w with
    created := Tbl.del w.created key
    gens := Tbl.set w.gens key (nextGen (Tbl.getD w.gens key 1)) 1 }
  match key / 65536 with
  | 1 => s.delStream idx
  | 3 => s.delRef idx
  | 4 => s.destroyHist idx
  | _ => s

def State.destroyPending (s : State) : State :=
  s.each ((s.weaver.created.filter (·.2)).map (·.1)) State.destroyObject

/-! ### The epoch -/

/-- 0xFFFF_FFFF is followed by 1 (R314). -/
def nextEpoch (e : Word) : Word := if e = 0xFFFFFFFF then 1 else e + 1

/-- Channels in self-refresh on which a placement puts work are awake before it starts (R294). -/
def State.wakePlaced (s : State) (pl : Placement) : State :=
  let refs := pl.cmps.flatMap fun c => match s.def? 6 c.obj with | some p => (s.ref (hIdx (cRef p))).pages | none => []
  s.each ((List.range 16).filter fun ch => s.mcState ch == 2 &&
    (pl.streams.any (fun p => p.stripe.contains ch) || refs.any fun k => k / 4096 == ch)) State.wakeChannel

/-- An admitted configuration takes effect (R40): `pl` is its placement and `health` the health digest when placement began. -/
def State.startEpoch (s : State) (new : Intent) (pl : Placement) (health : List Byte) : State :=
  let c : Change := { old := s.weaver.committed, new := new, oldPl := s.weaver.place, newPl := pl, shed := s.weaver.shed, t0 := s.now }
  let lanes := (List.range 192).filter fun n => !s.laneAbsent n
  let s := if s.time.armed then
      let s := s.each lanes c.endLane
      c.endUnits s
    else s
  let s := c.endStreams s
  let lost := s.lossLanes
  let s := c.endLosses s
  let s := if s.time.armed then s else s.each s.streamIds fun s i => s.closeSegment i false true
  let back := lost.filter fun n => !s.lossLanes.contains n
  let s := s.modWeaver fun w => { w with
    committed := new, place := pl, shed := [], heldRseq := [], heldCmps := [], healthDig := health, replaceDue := false }
  let s := (s.writeConfig (s.configImage new pl)).writeTout (toutPins new pl)
  let s := (c.moveContexts s).writePlaceRo new pl
  let s := s.wakePlaced pl
  let s := c.startStreams s
  let s := s.each (lanes.filter fun n => c.laneLogic n || c.laneRec n || s.time.armed || (s.lane n).returning) (c.startLane back)
  let s := c.startUnits (c.startTerms s)
  let s := s.startPods c
  let s := s.setReg HUB_EPOCH (nextEpoch s.epochNo)
  let s := s.putDigest HUB_CDIG (s.configDigest new)
  let s := s.putDigest HUB_PDIG (s.placementDigest new pl [])
  let s := ((s.setRegBit HUB_HEALTH 0 false).setRegBit HUB_HEALTH 1 false).destroyPending
  let s := s.moveRefs pl.refs
  (s.modTime fun t => { t with newEpoch := true }).writeDigests false

end Sys2Proof.Machine
end

