-- ==== Sys2Proof/Machine/Report.lean ====
section
/-!
DEFINITION. The placement report (R302, Table 14.12) and the budgets that it lists.
-/
namespace Sys2Proof.Machine

/-! ### Budgets per instance (Table 1.8) -/

/-- Demand placed on a channel's port A. -/
def State.portDemand (s : State) (i : Intent) (pl : Placement) (shed : List Nat) (ch : Nat) : Frac :=
  fracSum ((i.streams shed).filterMap fun x => match pl.streams.find? (·.obj == x.1) with
    | some p => if p.stripe.contains ch then some ((s.streamDemand i x.2).divNat p.stripe.length) else none
    | none => none)

/-- Continuous streams that an engine serves. -/
def engineStreams (i : Intent) (pl : Placement) (shed : List Nat) (e : Nat) : List (Nat × List Byte) :=
  (i.streams shed).filter fun x => !bWindowed x.2 && (match pl.streams.find? (·.obj == x.1) with
    | some p => p.engine == some e
    | none => false)

/-- An entry for each instance of each code, in ascending code and instance. The limit of an engine is the lowest rate of the
streams it serves, 6.4 GB/s with none (log entry 42). -/
def State.budgets (s : State) (i : Intent) (pl : Placement) (shed : List Nat) : List Budget :=
  let all := s.sums i shed i.minStripe
  let pick := fun (code : Nat) => (all.filter fun x => x.code == code && x.handle == 0).map Sum.budget
  let ports := (((List.range 16).filter fun p => !s.portAbsent p).filterMap fun p => (i.portSums shed p).head?).map Sum.budget
  let chans := s.healthyChans.map fun ch =>
    (sumOf 0x06 (uMc ch) (s.portDemand i pl shed ch) (frac (giga * portA (s.chanRate ch)))).budget
  let engines := ((List.range 16).filter fun e => !s.isRetired (uCe e)).map fun e =>
    let xs := engineStreams i pl shed e
    let lim := if xs.any fun x => 2 < bEffort x.2 + 1 then tenth 32 else tenth 64
    (sumOf 0x07 (uCe e) (fracSum (xs.map fun x => s.streamDemand i x.2)) lim).budget
  let jobs := i.jobs 6 shed
  let dies := (if s.halfPart then [0] else [0, 1]).map fun d =>
    (sumOf 0x09 (uDie d) (frac (sumOn (jobs.filter fun j => cWeave j.2 / 2 == d) fun j => s.jobDemand j.2))
      (tenth (diePlayback (s.modules d)))).budget
  let des := ((List.range 8).filter fun e => !s.isRetired (uDe e)).map fun e =>
    let d := match pl.cmps.find? (·.de == e) with
      | some c => (i.def? 6 c.obj).elim 0 s.jobDemand
      | none => 0
    (sumOf 0x09 (uDe e) (frac d) (tenth 64)).budget
  pick 0x01 ++ pick 0x02 ++ pick 0x03 ++ ports ++ pick 0x05 ++ chans ++ engines ++ pick 0x08 ++ pick 0x09 ++ dies ++ des ++
    pick 0x0A

/-! ### Sections -/

def section_ (kind size : Nat) (entries : List (List Byte)) : List Byte :=
  leBytes 1 kind ++ [0] ++ leBytes 2 size ++ leBytes 4 entries.length ++ entries.flatMap (padTo size)

/-- Maximum latency of a sequence in ns (Table 5.5). -/
def Intent.latency (i : Intent) (seq path : Nat) : Nat :=
  let base := match path with | 0 => 34 | 1 => 38 | 2 => 42 | _ => 58
  let add := match path with | 2 => 4 | 3 => 20 | _ => 0
  ((i.selected seq).map fun k => (i.terms seq).getD k []).foldl
    (fun m e => if tKind e = 5 ∨ tKind e = 6 then max m (190 + 42 * tPos e + add) else m) base

/-- Stripe channels, 4 bits each, unused 0xF. -/
def stripeNibbles (l : List Nat) : Nat := sumOn ((List.range 16).map fun k => (l.getD k 15) * 16 ^ k) id

/-- One stream. `open_` is a free value: the slot of a stream without a resident slot, and the retention of a stream without
demand (log entry 42). -/
def State.streamEntry (s : State) (pl : Placement) (open_ : Nat) (p : StreamPlace) : List Byte :=
  let i := s.weaver.committed
  let d := (i.def? 1 p.obj).getD []
  let total := p.perChannel * p.stripe.length
  let flags := (bWindowed d).toNat + 2 * p.slot.isSome.toNat + 4 * (s.isShed (objKey 1 p.obj)).toNat
  leBytes 4 (s.handleOf 1 p.obj).toNat ++ leBytes 1 flags ++ leBytes 1 (p.engine.getD 0xFF) ++ leBytes 1 (p.slot.getD open_) ++
    leBytes 1 p.stripe.length ++ leBytes 8 p.demand ++ leBytes 8 p.perChannel ++
    leBytes 4 (if p.demand = 0 then open_ else sat 0xFFFFFFFF (1000 * total / p.demand)) ++
    leBytes 4 (if bWindowed d then s.markRate { it := i, shed := s.weaver.shed, keep := Placement.empty, strict := false } pl.streams p.obj
      else 0) ++
    leBytes 8 (stripeNibbles p.stripe)

def State.portEntry (s : State) (pl : Placement) (k : Nat) : List Byte :=
  let i := s.weaver.committed
  let trig := Tbl.find? pl.trig k
  let tbl := Tbl.getD pl.slots k []
  leBytes 1 k ++ leBytes 1 (trig.getD 0xFF) ++ leBytes 6 0 ++
    leBytes 8 (fracSum ((i.positions k).map fun q => i.podGrant trig k q)).ceil ++
    (List.range 32).flatMap fun q => leBytes 1 (tbl.countP (· == q))

/-- The report of the committed configuration. -/
def State.placementReport (s : State) (open_ : Nat) : List Byte :=
  let i := s.weaver.committed
  let pl := s.weaver.place
  let secs :=
    [ section_ 1 24 ((s.budgets i pl s.weaver.shed).map fun b =>
        leBytes 1 b.code ++ leBytes 3 0 ++ leBytes 4 b.unit.toNat ++ leBytes 8 b.demand ++ leBytes 8 b.limit)
    , section_ 2 16 (pl.seqs.map fun q =>
        leBytes 4 (s.handleOf 2 q.obj).toNat ++ leBytes 4 (uSq q.sq).toNat ++ leBytes 1 q.path ++ leBytes 3 0 ++
          leBytes 4 (i.latency q.obj q.path))
    , section_ 3 40 (pl.streams.map (s.streamEntry pl open_))
    , section_ 4 24 (pl.cmps.map fun c =>
        leBytes 4 (s.handleOf 6 c.obj).toNat ++ leBytes 4 (uCu c.cu).toNat ++ leBytes 4 (uDe c.de).toNat ++ leBytes 4 0 ++
          leBytes 8 ((i.def? 6 c.obj).elim 0 s.jobDemand))
    , section_ 5 8 (pl.ivals.map fun u => leBytes 4 (s.handleOf 5 u.obj).toNat ++ leBytes 4 (uIu u.iu).toNat)
    , section_ 6 12 (pl.hists.map fun h =>
        leBytes 4 (s.handleOf 4 h.obj).toNat ++ leBytes 4 (uHu h.hu).toNat ++ leBytes 1 h.region ++ [0] ++ leBytes 2 h.base)
    , section_ 7 48 (((List.range 16).filter fun k => !s.portAbsent k).map (s.portEntry pl))
    , section_ 8 4 (s.weaver.retired.map addrBytes ++ [leBytes 4 (1000 * s.ingestLimit)]) ]
  let body := secs.flatMap id
  leBytes 4 0x5052535A ++ leBytes 4 s.epochNo.toNat ++ leBytes 4 (128 + body.length) ++ leBytes 4 secs.length ++
    s.digestRegs HUB_CDIG ++ s.digestRegs HUB_PDIG ++ padTo 32 s.weaver.healthDig ++
    leBytes 4 (s.regF HUB_HEALTH 0 2) ++ leBytes 12 0 ++ body

end Sys2Proof.Machine
end

