-- ==== Sys2Proof/Machine/Commit.lean ====
section
/-!
DEFINITION. Objects and configuration epochs from the host's side: CREATE, DESTROY (R203, R204), COMMIT and its REVERT (R297,
R299, R334), QUERY_PLACEMENT (R302).
-/
namespace Sys2Proof.Machine

/-! ### CREATE and DESTROY -/

def checkCreate (p : List Byte) : List (Option Nat) := [ckFld p 0 0 8 (fun t => 1 ≤ t && t ≤ 6), ckZero p 1 3]

/-- Indexes of a type that are allocated. -/
def State.inUse (s : State) (type : Nat) : List Nat :=
  s.weaver.created.filterMap fun e => if e.1 / 65536 = type then some (e.1 % 65536) else none

/-- The lowest number not in an ascending list. -/
def lowestFree : List Nat → Nat → Nat
  | [], n => n
  | x :: t, n => if x = n then lowestFree t (n + 1) else n

/-- CREATE allocates the lowest free index of the type (R203). -/
def createCmd (img : MbImage) (s : State) : State × Option Response :=
  let type := getLe img.payload 0 1
  let used := s.inUse type
  let idx := lowestFree used 0
  if typeCount type ≤ idx then
    (s, some (Refuse.response { status := stNoResource, code := 0, resource := 0x0A, type := type, unit := 0, handle := 0
                                demand := used.length + 1, limit := typeCount type }))
  else
    let s := s.modWeaver fun w => { w with created := Tbl.put w.created (objKey type idx) false }
    let s := if type = 1 then s.setStream idx StreamDyn.init else s
    done s (leBytes 4 (s.handleOf type idx).toNat)

def execCreate (m : Fin 32) (s : State) : Host.Outcome State Fault Refusal :=
  .next (s.runCommand m 0x0010 (fun _ => true) createCmd)

/-- Kinds of definitions that an object of a type holds. -/
def defKinds : Nat → List Nat
  | 1 => [1, 8]
  | 2 => [2, 7]
  | t => [t]

/-- The intent without an object's definition. -/
def Intent.drop (i : Intent) (key : Nat) : Intent :=
  { i with defs := (defKinds (key / 65536)).foldl (fun d k => Tbl.del d (objKey k (key % 65536))) i.defs }

/-- DESTROY (R204). -/
def destroyCmd (img : MbImage) (s : State) : State × Option Response :=
  let key := hKey img.handle
  let others := s.weaver.staged.used.filter (· != key)
  if others.any fun k => (s.weaver.staged.names k).contains key then refuse s stBusy 0
  else
    let s' := s.modStaged fun i => i.drop key
    if s.weaver.committed.used.contains key then
      done (s'.modWeaver fun w => { w with created := Tbl.put w.created key true }) []
    else done (s'.destroyObject key) []

def execDestroy (m : Fin 32) (s : State) : Host.Outcome State Fault Refusal :=
  .next (s.runCommand m 0x0011 (fun _ => true) destroyCmd)

/-! ### COMMIT -/

/-- The constraint records of a COMMIT. -/
def commitRecords (p : List Byte) : List (List Byte) := (List.range (getLe p 0 2)).map fun k => slice p (8 + 16 * k) 16
def commitRevert (p : List Byte) : Bool := getLe p 2 1 % 2 == 1

/-- Types that a constraint applies to (Table 13.1). -/
def constraintTypes : Nat → List Nat
  | 1 => [2]
  | 2 => [1, 2, 5, 6]
  | _ => [1]

/-- One constraint record at `o`. -/
def checkConstraint (p : List Byte) (o : Nat) : List (Option Nat) :=
  let code := getLe p o 1
  [ ckFld p o 0 8 (fun c => 1 ≤ c && c ≤ 5), ckZero p (o + 1) 3
  , if code = 4 then none else ckZero p (o + 8) 4
  , match code with
    | 1 => ckFld p (o + 12) 0 32 (· ≤ 3)
    | 2 => ckFld p (o + 12) 0 32 (· ≤ 3)
    | 3 => ckFld p (o + 12) 0 32 (fun v => 2 ≤ v && v ≤ 16)
    | 4 => ckZero p (o + 12) 4
    | _ => none ]

def checkCommit (p : List Byte) : List (Option Nat) :=
  ckRsv p 2 1 0xFE :: ckZero p 3 5 :: (List.range (getLe p 0 2)).flatMap fun k => checkConstraint p (8 + 16 * k)

def handlesCommit (p : List Byte) : List HandleUse :=
  (commitRecords p).zipIdx.flatMap fun r =>
    let o := 8 + 16 * r.2
    { handle := kA r.1, at_ := some (o + 4), types := constraintTypes (kCode r.1), optional := false } ::
      if kCode r.1 = 4 then [{ handle := kB r.1, at_ := some (o + 8), types := [1], optional := false }] else []

/-- Objects that placement serves (R316). -/
def Placement.objects (p : Placement) : Nat :=
  p.seqs.length + p.cmps.length + p.ivals.length + p.hists.length + p.streams.length

/-- The response of an admitted COMMIT (R334). -/
def State.commitResponse (s : State) : List Byte :=
  leBytes 4 s.epochNo.toNat ++ leBytes 4 s.weaver.place.objects ++ s.digestRegs HUB_CDIG ++ s.digestRegs HUB_PDIG ++
    padTo 32 s.weaver.healthDig ++ leBytes 8 (if s.time.armed then s.now else 0)

/-- Twice the rate in GT/s of a link rate code (Table 15.16). -/
def twiceGt : Nat → Nat
  | 1 => 5
  | 2 => 10
  | 3 => 16
  | 4 => 32
  | 5 => 64
  | 6 => 128
  | _ => 0

/-- The host egress limit in units of 0.1 GB/s, for the link as negotiated (R345). -/
def State.linkEgress (s : State) : Nat := 1000 * (twiceGt (s.regF PCI_LINK 0 4) * s.regF PCI_LINK 4 5) / 2048

/-- COMMIT: the checks of the intent, the sums and the placement (R299), then the new epoch. -/
def commitCmd (img : MbImage) (s : State) : State × Option Response :=
  if s.unlocked then refuse s stBusy 0
  else
    let it : Intent := { s.weaver.staged.effective with constraints := commitRecords img.payload }
    let drawn := s.draw 16
    match s.checkIntent it with
    | some st => refuse drawn.2 st drawn.1.toNat
    | none =>
      let s1 := s.modWeaver fun w => { w with egress := s.linkEgress }
      let c : PlaceCtx := { it := it, shed := [], keep := Placement.empty, strict := true }
      match (match s1.placeSeqs c with | .ok qs => checkHistRefs it qs | .error _ => none) with
      | some st => refuse drawn.2 st drawn.1.toNat
      | none =>
        match s1.placeAll c with
        | .error r => (s, some r)
        | .ok pl =>
          let s := s1.startEpoch it pl s.healthDigest
          done s s.commitResponse

def execCommit (m : Fin 32) (s : State) : Host.Outcome State Fault Refusal :=
  .next (s.runCommand m 0x0030 (fun img => !commitRevert img.payload) commitCmd)

/-- REVERT resets the staged intent to the committed configuration; objects whose DESTROY waits come back (R204, R334). -/
def commitRevertCmd (_ : MbImage) (s : State) : State × Option Response :=
  if s.unlocked then refuse s stBusy 0
  else done (s.modWeaver fun w => { w with staged := w.committed, created := w.created.map fun e => (e.1, false) }) []

def execCommitRevert (m : Fin 32) (s : State) : Host.Outcome State Fault Refusal :=
  .next (s.runCommand m 0x0030 (fun img => commitRevert img.payload) commitRevertCmd)

/-! ### QUERY_PLACEMENT -/

def checkQuery (p : List Byte) : List (Option Nat) := [ckZero p 12 4]

/-- The report goes to host memory; a buffer shorter than REQUIRED is refused with REQUIRED (R334). -/
def queryPlacementCmd (img : MbImage) (s : State) : State × Option Response :=
  let o := s.draw 8
  let report := o.2.placementReport o.1.toNat
  let required := report.length
  if getLe img.payload 8 4 < required then
    (s, some { status := BitVec.ofNat 16 stInvalid, detail := 8, bytes := leBytes 4 required ++ leBytes 4 0 })
  else done (o.2.dmaWrite (getLe img.payload 0 8) report true) (leBytes 4 required ++ leBytes 4 required)

def execQueryPlacement (m : Fin 32) (s : State) : Host.Outcome State Fault Refusal :=
  .next (s.runCommand m 0x0031 (fun _ => true) queryPlacementCmd)

end Sys2Proof.Machine
end

