-- ==== Sys2Proof/Machine/Session.lean ====
section
/-!
DEFINITION. Sessions: the session-epoch pulse (R23, R404, R405), what ARM and DISARM do (R136 and the tables of each unit),
and their commands.
-/
namespace Sys2Proof.Machine

/-! ### The session epoch -/

/-- All three counters load a value (R23): link times and pulses in progress keep their distance to the present (R73), and
SYNC_OUT pulses (R405). A new session epoch starts its timestamps at epoch 0 (log entry 22). -/
def State.loadEpoch (s : State) (value : DWord) : State :=
  let old := s.now
  let oldSlot := s.slot
  let s := s.modTime fun t => { t with
    tsCd0 := value, tsCd1 := value, tsHd := value, tsEpoch := (t.tsEpoch / 2 ^ 32 + 1) * 2 ^ 32
    syncOuts := t.syncOuts + 1 }
  let s := s.each ((List.range 16).filter fun p => !s.portAbsent p) fun s p =>
    s.modPort p fun d => { d with cBase := d.cBase + ((s.now : Int) - old) }
  s.each (List.range 4) fun s i => s.modTout i fun d => { d with
    requests := d.requests.map fun r => (r.1, s.slot + (r.2 - oldSlot)), served := none
    activeUntil := d.activeUntil.map fun e => s.slot + (e - oldSlot) }

/-- A pulse outside ARM and SYNC_IN comes only while disarmed (log entry 24). -/
def execSessionEpochPulse (value : DWord) (s : State) : Host.Outcome State Fault Refusal :=
  .next (if s.time.armed then s else s.loadEpoch value)

/-! ### Device states (R419, R420) -/

/-- Enter a state; a change that HEALTH shows writes STATE_CHANGE (log entry 25). -/
def State.enterState (s : State) (v : Nat) : State :=
  let old := s.healthState
  let s := s.setPwr v
  if s.healthState = old then s else s.ledStateChange old s.healthState

/-! ### ARM -/

/-- A lane at ARM (R51, R56, R62). -/
def State.armLane (s : State) (n : Nat) : State :=
  let t := s.time.armTime
  let s := s.modLane n fun d => { d with
    l := { d.l with e := t, burst := none }, u := { d.u with e := t, burst := none }
    block := none, full := [], levelDue := none, lastClock := none, pendL := none, pendU := none, pairFrom := t
    logical := laneState (s.lnMode n) d == 3, lastRecord := t }
  if s.lnLive n then s.levelLater n 0 t else s

/-- A compare unit at ARM: inputs start at their present level (R62), VSEQ and the step position are zero (R160). -/
def State.armCompare (s : State) (cu : Nat) : State :=
  let s := s.freshCompare cu s.time.armTime
  (s.setRegF (CU cu 0x0C) 2 4 0).cuState cu 1

/-- Inputs that are lost when the session begins stay lost in it (R156, R198, Table 3.7). -/
def State.armLosses (s : State) : State :=
  let t := s.time.armTime
  let s := s.each (filterRange 192 fun n => s.lnGone n) fun s n =>
    let s := s.each (s.weaveCus (n / 48)) fun s cu => s.cmpLossBegin cu (n % 48) t
    s.srcLoss (n / 48) (srcIsLane n) true t
  s.each (List.range 16) fun s p => s.each (s.port p).pods.keys fun s q =>
    if (s.pod p q).linkLoss || (s.pod p q).broken then
      let s := match (if (s.pod p q).broken && (s.pod p q).lossClosed then none else s.podStream (podIndex p q)) with
        | some i => s.openLoss i (if s.ppRetired p then causeReplace else if (s.pod p q).broken then causeBreak else causeLinkCheck)
            2 (podIndex p q) t t 0
        | none => s
      s.podUnitLoss p q true t
    else s

/-- Every open segment closes. -/
def State.closeAll (s : State) : State := s.each s.streamIds fun s i => s.closeSegment i false false

/-- The session starts now (R136 and what each unit does at ARM). A segment that is open closes, so that the first one after
ARM begins with RING_START (Table 9.5; DESIGN CHOICE, log entry 116). A loss of before the session epoch goes on from its
ARM: its old start has no session timestamp (log entry 22). -/
def State.startSession (s : State) : State :=
  let t := s.now
  let s := (s.modTime fun x => { x with armed := true, armTime := t, newEpoch := false, syncWait := none }).enterState 2
  let s := s.setRegBit STN_SYNC 16 false
  let s := s.modTrig fun _ => TrigState.init
  let s := s.closeAll
  let s := s.each s.streamIds fun s i => s.modStream i fun sd =>
    { sd.startRing t with
      losses := sd.losses.map fun (l : OpenLoss) => if l.start < s.sessionTime 0 then { l with start := t, upto := t } else l
      fillClose := false, openers := [] }
  let s := s.writeDigests false
  let s := s.each ((List.range 192).filter fun n => !s.laneAbsent n) State.armLane
  let s := s.each s.weaver.place.terms fun s p => match termAt p.weave p.number with
    | some u => s.startTerm u t
    | none => s
  let s := s.each s.seqs.keys fun s q => s.modSeq q fun d => { d with markSeq := 0 }
  let s := s.each s.weaver.place.seqs fun s p => s.startSequencer p.sq s.slot false
  let s := s.each s.weaver.place.hists fun s h => s.histStart h.hu h.region t
  let s := s.each s.weaver.place.ivals fun s u => s.ivStart u.iu t false
  let s := s.each s.weaver.place.cmps fun s c => s.armCompare c.cu
  let s := (s.each s.weaver.heldCmps.vals fun s h => s.setRegF (CU h.cu 0x0C) 2 4 0).modWeaver fun w => { w with
    heldCmps := w.heldCmps.mapVals fun _ h => { h with nextStep := 0, stationAt := none, anchors := [] } }
  s.armLosses

/-- ARM time, timestamp epoch, zero (Table 14.13). -/
def State.armBytes (s : State) : List Byte := leBytes 8 s.time.armTime ++ leBytes 4 s.time.tsEpoch ++ leBytes 4 0

/-- Checks of ARM in the order of R335: a lane being calibrated makes it BUSY (R50), as does an ARM that waits. -/
def State.armRefusal (s : State) : Option Response :=
  firstRefusal
    [ refusalIf (s.epochNo == 0) stNoConfig 0
    , refusalIf (s.time.armed || s.time.syncWait.isSome || s.unlocked || !s.weaver.calibrating.isEmpty) stBusy 0
    , refusalIf (s.pwr != 1) stNotReady 0 ]

def checkArm (p : List Byte) : List (Option Nat) := [ckRsv p 0 4 0xFFFFFFFE]

/-- ARM: the first one after a COMMIT begins a session epoch at 0 (R8). -/
def armCmd (_ : MbImage) (s : State) : State × Option Response :=
  match s.armRefusal with
  | some r => (s, some r)
  | none =>
    let s := (if s.time.newEpoch then s.closeAll.loadEpoch 0 else s).startSession
    done s s.armBytes

def execArm (m : Fin 32) (s : State) : Host.Outcome State Fault Refusal :=
  .next (s.runCommand m 0x0040 (fun img => getLe img.payload 0 1 % 2 == 0) armCmd)

/-- ARM with SYNC waits; its response holds all ones until the epoch starts. -/
def armSyncCmd (m : Nat) (_ : MbImage) (s : State) : State × Option Response :=
  match s.armRefusal with
  | some r => (s, some r)
  | none =>
    let s := (s.modTime fun t => { t with syncWait := some m }).setRegBit STN_SYNC 16 true
    done s (leBytes 8 (2 ^ 64 - 1) ++ leBytes 8 0)

def execArmSync (m : Fin 32) (s : State) : Host.Outcome State Fault Refusal :=
  .next (s.runCommand m 0x0040 (fun img => getLe img.payload 0 1 % 2 == 1) (armSyncCmd m))

/-- The response of the ARM that waited becomes valid, if its mailbox still holds it (log entry 26). -/
def State.syncResponse (s : State) (m : Nat) : State :=
  let b := s.box m
  if s.regF (MB_STATE m) 16 16 != 0x40 then s
  else s.setBox m { b with
    ready := b.ready.map fun r => if r.status = 0 then { r with bytes := s.armBytes } else r
    payload := if b.owner || b.status ≠ 0 then b.payload else s.armBytes ++ b.payload.drop 16 }

/-- SYNC_IN (R404): the counters load SYNC_PRELOAD and the waiting ARM takes effect; any other edge is counted. -/
def execSyncInEdge (s : State) : Host.Outcome State Fault Refusal :=
  .next (
    match s.time.syncWait with
    | some m =>
      if s.pwr = 1 then ((s.closeAll.loadEpoch (BitVec.ofNat 64 s.power.board.syncPreload)).startSession).syncResponse m
      else s.addRegF STN_SYNC 0 16 1
    | none => if s.clocked then s.addRegF STN_SYNC 0 16 1 else s)

/-! ### Annotation packets (R401) -/

/-- The first committed packet of queue 0, with its commit time. -/
def State.nextAnnotation (s : State) : Option (List Half × Time) :=
  let q := s.queue 0
  let n := firstPacket (q.items.take q.visible)
  if n = 0 then none else some ((q.items.take n).map (·.word.setWidth 16), (q.times.headD (s.now, 0)).1)

/-- A compare job that takes station anchors and that is placed, or shed (R149, R313). -/
def State.stationJob (s : State) (job : Nat) : Bool :=
  (s.weaver.place.cmps.any (·.obj == job) || (Tbl.find? s.weaver.heldCmps job).isSome) && (s.def? 6 job).any cStn

/-- The router passes a packet on: ANNOTATION records, and an anchor where it is one (R149, R401). -/
def State.routePacket (s : State) (ws : List Half) (t : Time) : State :=
  let s := s.each s.annStreams fun s i => s.writeRecs i (annotationRecs 0 (ws.flatMap fun w => leBytes 2 w.toNat) t)
  if ws.headD 0 = 0x5354 && decide (3 ≤ ws.length) then
    let job := (ws.getD 2 0).toNat
    if s.stationJob job then s.queueAnchor job (.station t (ws.getD 1 0)) else s.incReg STN_ERR
  else s

/-- The router takes the oldest committed packet; one committed while disarmed is discarded. -/
def State.routeNext (s : State) : State :=
  match s.nextAnnotation with
  | none => s
  | some (ws, t) =>
    let s := s.settleQueue 0 { s.queue 0 with read := ws.length, skip := none }.release 0 0
    if s.time.armed && decide (s.time.armTime ≤ t) then s.routePacket ws t else s.incReg STN_DISCARDED

/-- Every packet committed by now goes through the router: the ones of a session are its records, not discards (R401). -/
def State.routeWaiting (s : State) : State := s.each (List.range (s.queue 0).visible) fun s _ => s.routeNext

/-! ### DISARM -/

/-- The sequencers decide through the slot that contains the instant, then their SUMMARY MARKs (R136, R128). -/
def State.endSequencers (s : State) : State :=
  let t := s.now
  let s := s.evalTerms
  let s := State.decideThrough s.sqsInUse s.slot (s.slotsLeft s.sqsInUse s.slot) s
  let s := s.each s.sqsInUse fun s q => (s.dropForced q).summaryMark q t
  s.each s.sqsInUse fun s q => s.setRegF (SQ_STATUS q) 4 2 0

/-- Anchors that wait take effect, then the step ends with cause 0 (Table 6.8). -/
def State.endCompare (s : State) (cu : Nat) : State :=
  ((s.takeAnchors cu).abortStep cu 0 s.now).cuState cu 0

/-- The session ends (R136, R51, R59, R133, Tables 6.8, 7.3, 8.5, 9.4). -/
def State.disarm (s : State) : State :=
  if !s.time.armed then s.modTime (fun t => { t with syncWait := none }) |>.setRegBit STN_SYNC 16 false
  else
    let t := s.now
    let s := s.routeWaiting.endSequencers
    let s := s.takeAllShed.each s.weaver.place.cmps fun s c => s.endCompare c.cu
    let s := s.each s.weaver.place.ivals fun s u => s.ivStop u.iu t false
    let s := s.each ((List.range 192).filter fun n => !s.laneAbsent n) fun s n =>
      ((((s.flushLevel n).closeBurst n .l t).closeBurst n .u t).endBlock n t)
    let s := s.each s.weaver.place.hists fun s h =>
      if s.histTouched h.hu h.region then s.histAutoSwap h.hu h.region t false else s
    let s := s.each s.streamIds State.closeStream
    let s := (s.keepLevels (s.trig.inputs ++ s.trig.later)).modTrig fun _ => TrigState.init
    let s := (s.modTime fun x => { x with armed := false }).enterState 1
    s.each s.streamIds State.deliver

def disarmCmd (_ : MbImage) (s : State) : State × Option Response :=
  done s.disarm (leBytes 8 (if s.time.armed then s.now else 0))

def execDisarm (m : Fin 32) (s : State) : Host.Outcome State Fault Refusal :=
  .next (s.runCommand m 0x0041 (fun _ => true) disarmCmd)

end Sys2Proof.Machine
end

