-- ==== Sys2Proof/Machine/Channels.lean ====
section
/-!
DEFINITION. BAR 2 translation windows (R357 to R359), and the loss of a memory channel's contents: freeze (R281 to R284,
Tables 12.3 and 12.4).
-/
namespace Sys2Proof.Machine

/-! ### Translation windows -/

def entryValid (v : Word) : Bool := bit v 31
/-- Page MA[36:21] of an entry. -/
def entryPage (v : Word) : Nat := fld v 0 16
def entryChan (v : Word) : Nat := fld v 12 4

/-- Entry `e` of window `w`. -/
def State.winEntry (s : State) (w e : Nat) : Word := Tbl.getD s.pcie.entries (512 * w + e) 0

/-- Windows that hold an entry that passes. -/
def Tbl.windows (t : Tbl Word) (p : Word → Bool) : List Nat :=
  ((t.filter fun e => entryValid e.2 && p e.2).map fun e => e.1 / 512).eraseDups

/-- A swap of window tables takes the next mapping generation. -/
def State.bumpWindows (s : State) (ws : List Nat) : State :=
  let g := s.reg PCI_BAR2_GEN_NEXT + 1
  (s.setReg PCI_BAR2_GEN_NEXT g).each ws fun s w => s.setReg (PCI_BAR2_GEN w) g

/-- Firmware invalidates every entry that passes, in one swap (R359); staged copies lose it too. -/
def State.invalidateWindows (s : State) (p : Word → Bool) : State :=
  let ws := Tbl.windows s.pcie.entries p
  let s := s.modPcie fun c => { c with
    entries := c.entries.filter fun e => !(entryValid e.2 && p e.2)
    stagedWindows := c.stagedWindows.map fun x => (x.1, x.2.1, x.2.2.filter fun e => !(entryValid e.2 && p e.2)) }
  if ws.isEmpty then s else s.bumpWindows ws

/-! ### What is lost with a channel (Table 12.4) -/

/-- The channel of a page MA[36:21]. -/
def pageChan (k : Nat) : Nat := k / 4096

/-- References with a byte on the channel: a ready one is lost, one that loads goes back to EMPTY. -/
def State.loseRefs (s : State) (ch : Nat) (ma : BitVec 37) : State :=
  s.each s.refs.keys fun s r =>
    let d := s.ref r
    if !(d.pages.any fun k => pageChan k == ch) then s
    else if d.phase = .ready then s.loseReference r (.channel ma) []
    else if d.phase = .loading then (s.freeRef r).setRef r { RefDyn.init with fault := some ch }
    else s

/-- Images in spill buffers on the channel, and spills to them, are discarded; HU_IMG_LOST counts each, and a spill that is
cut short leaves its gap in SNAP_SEQ (Table 12.4). -/
def State.loseImages (s : State) (ch : Nat) : State :=
  let here := fun (a : Nat) => a / 2 ^ 33 == ch
  let s := s.each s.images.keys fun s i =>
    let im := s.image i
    let lost := im.places.countP here
    let keep := (im.images.zip im.places).filter fun x => !here x.2
    let s := if lost = 0 then s else s.setImage i { im with images := keep.map (·.1), places := keep.map (·.2) }
    match s.weaver.place.histPlace i with
    | some h => s.addReg (HU_IMG_LOST h.hu) lost
    | none => s
  s.each (List.range 4) fun s hu => s.each (s.hist hu).regions.keys fun s r =>
    match (s.region hu r).closing with
    | some c =>
      if c.gone || !here c.place then s
      else
        let s := (s.modRegion hu r fun d => { d with closing := some { c with gone := true } }).incReg (HU_IMG_LOST hu)
        s.modImage c.obj fun im => { im with nextSeq := (im.nextSeq + 1) % 2 ^ 32 }
    | none => s

/-- Saved contexts on the channel fail when they are restored (R259, Table 11.6). -/
def State.loseContexts (s : State) (ch : Nat) : State :=
  let s := s.each s.streams.keys fun s i => s.modStream i fun sd =>
    if sd.ctxChan = some ch then { sd with ctxChan := none, ctxLost := true } else sd
  s.each (List.range 8) fun s e => s.modDe e fun d =>
    if d.ctxChan = some ch then { d with ctxChan := none, ctxLost := true } else d

/-- The channel's contents are gone for its users. -/
def State.loseContents (s : State) (ch : Nat) (ma : BitVec 37) : State :=
  let s := s.each s.streams.keys fun s i => s.modStream i (·.loseChannel ch)
  ((s.loseContexts ch).loseRefs ch ma).loseImages ch

/-- Pages of a channel. -/
def State.forgetChannel (s : State) (ch : Nat) : State :=
  (s.forgetPages fun k => pageChan k == ch).forgetAreas ch

/-- A fault freezes the channel (R281, Table 12.3): its registers hold the error; the notice and the FAULT record follow; an
evacuation is cancelled; re-placement and the targeted self-test are due. In training nothing freezes: a command error is
counted and the command path tested (Table 12.7), also at start-up, whose training bypasses the error-correcting code (R285).
`kind`: MC_ERR_ADDR_HI.KIND; `port`: PORT. -/
def State.freezeChannel (s : State) (ch : Nat) (off : BitVec 33) (port kind : Nat) (synd : Word) : State :=
  let st := s.mcState ch
  let ma : BitVec 37 := BitVec.ofNat 37 (ch * 2 ^ 33 + off.toNat)
  let cls := if kind < 2 then 0x01 else 0x02
  if st = 6 || (st = 0 && decide (kind < 2)) then s
  else
    let s := s.incReg (if kind < 2 then MC_UE_COUNT ch else MC_CMD_ERR ch)
    if st = 0 || st = 5 || st = 3 then s.raiseFault (uMc ch) cls (leBytes 8 ma.toNat)
    else
      let s := ((s.setReg (MC ch 0x010) (BitVec.ofNat 32 ma.toNat)).setReg (MC ch 0x014)
        (BitVec.ofNat 32 (ma.toNat / 2 ^ 32 + port * 32 + kind * 256))).setReg (MC ch 0x018) synd
      let s := (s.setMcState ch 3).setRegBit (MC_STATUS ch) 8 false
      let s := (s.loseContents ch ma).freezeSched ch
      let s := s.notice 0x09 [.f4 (uMc ch).toNat, .f4 kind, .semi, .f8 ma.toNat]
      (s.raiseFault (uMc ch) cls (leBytes 8 ma.toNat)).modWeaver fun w => { w with replaceDue := true }

/-- The channel leaves the freeze empty (R284); if it was due for retraining it still is (Table 12.7). -/
def State.thawChannel (s : State) (ch : Nat) : State :=
  if s.mcState ch = 3 then ((s.setMcState ch 1).forgetChannel ch).modSched ch (fun _ => ChanSched.init) else s

end Sys2Proof.Machine
end

