-- ==== Sys2Proof/Machine/LedgerOps.lean ====
section
/-!
DEFINITION. The ledger's buffer and banks (chapter 16): what waits in queue 3, the log, a bank that leaves service (R392,
R393), and the flush (R379, R380).
-/
namespace Sys2Proof.Machine

/-! ### Records in the buffer and in the log -/

/-- Cut items into packets at their last marks. -/
def packetsOf : List QItem → List DWord → List (List DWord)
  | [], _ => []
  | i :: t, acc => if i.last then (acc ++ [i.word]) :: packetsOf t [] else packetsOf t (acc ++ [i.word])

/-- A record from the words of its packet (Table 16.3): SEQ in word 0, TAIL in FLAGS [5]. -/
def ledgerRecOf (ws : List DWord) : LedgerRec :=
  { seq := (ws.headD 0).toNat, bytes := bytesOf ws, tail := bit (ws.getD 2 0) 53 }

/-- Records that wait in the buffer, oldest first. -/
def State.ledgerBuffer (s : State) : List LedgerRec :=
  (packetsOf ((s.queue 3).items.take (s.queue 3).visible) []).map ledgerRecOf

def insertLedgerRec (r : LedgerRec) : List LedgerRec → List LedgerRec
  | [] => [r]
  | x :: t => if r.seq < x.seq then r :: x :: t else if r.seq = x.seq then x :: t else x :: insertLedgerRec r t

/-- The log: every record that a bank holds, in SEQ order; a record stands at one offset in both banks (R370). -/
def State.ledgerLog (s : State) : List LedgerRec := s.ledger.bank1.foldl (fun l r => insertLedgerRec r l) s.ledger.bank0

/-- Bytes of the records area (or of the tail) that records take, written or reserved (R383). -/
def State.ledgerBytes (s : State) (tail : Bool) : Nat :=
  sumOn ((s.ledgerLog ++ s.ledgerBuffer).filter fun r => r.tail == tail) fun r => r.bytes.length

/-- Bank offset of a record (Table 16.1): records are packed one after another (R372). -/
def State.ledgerOffset (s : State) (r : LedgerRec) : Nat :=
  (if r.tail then 0x370000 else 0) +
    sumOn ((s.ledgerLog ++ s.ledgerBuffer).filter fun x => x.tail == r.tail && decide (x.seq < r.seq)) fun x => x.bytes.length

def State.bankIn (s : State) (b : Nat) : Bool := s.regBit LG_STATUS b
def State.ledgerVolatile (s : State) : Bool := s.regBit LG_STATUS 3

/-! ### LEDGER_VOLATILE (R393) -/

/-- LEDGER_RECORD notices of a record (Table 14.15): fragments of 40 bytes. -/
def State.recordNotices (s : State) (r : LedgerRec) : State :=
  let fs := chunks 5 ((chunks 8 r.bytes).map wordOf)
  s.each fs.zipIdx fun s f => s.noticeWords 0x12
    ([BitVec.ofNat 64 r.seq, BitVec.ofNat 64 (f.2 + 2 ^ 16 * fs.length)] ++ f.1)

/-- No bank is in service: the buffer keeps its records from here on, and they go to the host. -/
def State.enterVolatile (s : State) : State :=
  if s.ledgerVolatile then s
  else
    let first := match s.ledgerBuffer with | r :: _ => r.seq | [] => s.reg64 LG_NEXT_SEQ_LO
    let s := ((s.setRegBit LG_STATUS 3 true).setRegBit LG_STATUS 6 false).notice 0x11 [.f8 first]
    s.each s.ledgerBuffer State.recordNotices

/-- A bank leaves service (R392, R393): the other bank goes on alone, or the ledger becomes volatile. -/
def State.bankOut (s : State) (b : Nat) : State :=
  if !s.bankIn b then s
  else
    let s := s.setRegBit LG_STATUS b false
    if s.bankIn (1 - b) then (s.setRegBit LG_STATUS 2 true).notice 0x10 [.f4 (uMram b).toNat]
    else s.enterVolatile

/-- A write-verify fails in a bank at a record's offset: the bank leaves service, its region test begins, and the record of
it follows. -/
def State.verifyFail (s : State) (b offset : Nat) : State :=
  let alone := !s.bankIn (1 - b)
  let mram := 0x380000 * b + offset
  let s := ((s.incReg LG_VERIFY_FAIL).bankOut b).raiseFault (uMram b) 0x08 (leBytes 8 mram)
  s.ledgerReq (if alone then 0x0041 else 0x0040) 3 (uMram b) 0x08
    (leBytes 4 (uMram b).toNat ++ leBytes 4 0 ++ leBytes 8 mram)

/-! ### The flush (R379, R380) -/

/-- The record at the front of the buffer is released. -/
def State.popLedger (s : State) : State :=
  let q := s.queue 3
  let n := firstPacket q.items
  s.settleQueue 3 { q with
    items := q.items.drop n, released := q.released + BitVec.ofNat 32 n, read := q.read - n, visible := q.visible - n
    mark := none, times := q.times.drop 1 } 0 0

def State.bankWrite (s : State) (b : Nat) (r : LedgerRec) : State :=
  s.modLedger fun l => if b = 0 then { l with bank0 := insertLedgerRec r l.bank0 }
    else { l with bank1 := insertLedgerRec r l.bank1 }

/-- Write records from the front of the buffer to the banks in service; `fail` names a bank and the record, counted from the
first of this flush, whose verification fails there. -/
def State.flushRecords (fail : Option (Nat × Nat)) : List LedgerRec → Nat → State → State
  | [], _, s => s
  | r :: rest, k, s =>
    if s.ledgerVolatile then s
    else
      let bad := fun (b : Nat) => decide (fail = some (b, k)) && s.bankIn b
      let offset := s.ledgerOffset r
      if (bad 0 && !s.bankIn 1) || (bad 1 && !s.bankIn 0) then s.verifyFail (if bad 0 then 0 else 1) offset
      else
        let put := fun (s : State) (b : Nat) => if s.bankIn b && !bad b then s.bankWrite b r else s
        let s := (put (put s 0) 1).popLedger
        let s := if bad 0 then s.verifyFail 0 offset else if bad 1 then s.verifyFail 1 offset else s
        State.flushRecords fail rest (k + 1) s

/-- A flush writes every buffered record; under LEDGER_VOLATILE it writes nothing. -/
def State.flushLedger (s : State) (fail : Option (Nat × Nat)) : State :=
  if s.ledgerVolatile then s
  else (State.flushRecords fail s.ledgerBuffer 0 (s.incReg LG_FLUSHES)).setRegBit LG_STATUS 6 false

end Sys2Proof.Machine
end

