-- ==== Sys2Proof/Machine/Health.lean ====
section
/-!
DEFINITION. Verdicts of targeted self-tests and what retirement does to each kind of unit (R305 to R309, Table 13.6), units
that return to service, and the host's SELFTEST (R308, R336).
-/
namespace Sys2Proof.Machine

/-! ### The device stops (R309) -/

/-- Commands under way that a stopped device does not complete end with DEVICE_FAULT and the fault's class (Table 14.5;
DEDUCED, log entry 119). -/
def State.faultCommands (s : State) (cls : Nat) : State :=
  s.each (List.range 32) fun s m =>
    let b := s.box m
    match b.taken with
    | some img =>
      if b.started && b.ready.isNone && !([0x0001, 0x0002, 0x0060, 0x0090, 0x0091, 0x0092].contains img.code.toNat) then
        s.respond m (Response.fail stDeviceFault cls)
      else s
    | none => s

/-- A unit whose work no other can take has failed for good: a FATAL record, DISARM, ALIVE STATE 0xF. -/
def State.stopDevice (s : State) (u : Word) (cls : Nat) : State :=
  let s := s.ledgerReq 0x0010 4 u cls (leBytes 8 cls ++ padTo 16 [])
  (s.faultCommands cls).disarm.enterState 7

/-! ### Retirement, by kind of unit (Table 13.6) -/

def State.dueReplacement (s : State) : State := s.modWeaver fun w => { w with replaceDue := true }

/-- Limits fall, the record and the notice follow, ALERT_N asserts (R309). -/
def State.announceRetired (s : State) (u : Word) (cls : Nat) : State :=
  ((s.updateLimits.ledRetired u cls).noticeRetired u cls).alertEvent false

def State.retireSequencer (s : State) (q : Nat) : State :=
  (((s.dropForced q).summaryMark q s.now).fwWrite (SQ_CFG q) 0).setReg (SQ_STATUS q) 0

/-- The running step of a job ends ABORTED with cause 3, and the job starts again at its first step (Table 6.8). -/
def State.stopJob (s : State) (cu : Nat) : State :=
  (s.abortStep cu 3 s.now).modCmp cu fun c => { c with nextStep := 0 }

def State.retireCompare (s : State) (cu : Nat) : State :=
  let s := s.stopJob cu
  (s.fwWrite (CU cu 0x00) (setBit (s.reg (CU cu 0x00)) 0 false)).cuState cu 0

/-- Compare unit that a decompressor engine feeds. -/
def State.deCus (s : State) (de : Nat) : List Nat := (s.weaver.place.cmps.filter fun c => c.de == de).map (·.cu)

def State.retireInterval (s : State) (iu : Nat) : State :=
  let s := if s.time.armed then s.ivStop iu s.now true else s
  s.fwWrite (IU iu 0x00) (setBit (s.reg (IU iu 0x00)) 0 false)

/-- A histogram unit (Table 7.3): its accumulations close, and those in a bank that did not fail are spilled with FAULT; the
others are gone. Sweeps and pending edges end. -/
def State.retireHist (s : State) (hu : Nat) (badBank : Option Bool) : State :=
  let s := s.each (s.rgActive hu) fun s r =>
    let s := s.modRegion hu r fun d => { d with sweeps := [], aEdges := [] }
    let s := if s.time.armed || s.histTouched hu r then s.histAutoSwap hu r s.now true else s
    let bad := fun (c : Closing) => badBank == some c.bank
    let lost := match (s.region hu r).closing with | some c => bad c | none => false
    let s := s.modRegion hu r fun d => { (match badBank with | some b => d.setBank b [] | none => d) with
      closing := if lost then none else d.closing, deferred := d.deferred.filter fun c => !bad c }
    let s := if lost then s.modHist hu fun h => { h with spillOrder := h.spillOrder.erase r } else s
    s.fwWrite (HU_RG hu r 0) (setBit (s.reg (HU_RG hu r 0)) 0 false)
  s.setRegBit (HU_STATUS hu) 12 true

/-- An engine's members end with MEMBER_ABORT, and what they had not emitted is lost under REPLACE (R225, Table 11.6). -/
def State.abortMembers (s : State) (ce : Nat) : State :=
  s.each (s.weaver.place.streams.filter fun p => p.engine == some ce) fun s p => s.abortStreamMember p.obj

/-- A channel is retired (R284, R359): what it held is gone, and no window names it. -/
def State.retireChannel (s : State) (ch : Nat) : State :=
  let s := if s.mcState ch = 3 then s else s.loseContents ch (BitVec.ofNat 37 (ch * 2 ^ 33))
  let s := ((s.setMcState ch 6).setRegF (MC_STATUS ch) 7 2 0).setRegF (MC_STATUS ch) 9 8 0
  ((s.modSched ch fun d => { ChanSched.init with ring := d.ring }).forgetChannel ch).invalidateWindows fun v => entryChan v == ch

/-- A pod segment (R85): segment 0 retires its port, any other breaks the chain there. -/
def State.retireSegment (s : State) (p seg cls : Nat) : State :=
  if seg = 0 then s.retirePort p cls
  else ((s.addRetired (uSegment p seg)).chainBreak p seg 3).announceRetired (uSegment p seg) cls

/-- Retire a unit: its own effect, then the announcement of R309. A slice retires the unit that contains it, but a threshold
DAC, whose spare stays in service. -/
def State.retireUnit (s : State) (slice : Word) (cls : Nat) : State :=
  let u := uaUnit slice
  if s.isRetired u then s
  else
    let plain := fun (f : State → State) => (f (s.addRetired u)).announceRetired u cls
    match uaKind u with
    | 0x03 => s.each ((List.range 16).map (16 * uaStake u + ·)) (fun s n => s.retireLane n cls s.now) |>.addRetired u
        |>.announceRetired u cls
    | 0x04 => s.retireLane (uaLane u) cls s.now
    | 0x05 => plain fun s => (s.retireSequencer (uaSq u)).dueReplacement
    | 0x06 => plain fun s => s.retireHist (uaHu u) (if uaIsSlice slice then some (bit slice 0) else none)
    | 0x07 => plain fun s => (s.retireCompare (uaCu u)).dueReplacement
    | 0x08 => plain fun s => (s.retireInterval (uaIu u)).dueReplacement
    | 0x09 => (s.retirePort (uaPort u) cls).dueReplacement
    | 0x0B => (s.retireSegment (uaPort u) (uaPos u) cls).dueReplacement
    | 0x10 => plain fun s => (s.retireChannel (uaHub u)).dueReplacement
    | 0x11 => plain fun s => (s.abortMembers (uaHub u)).dueReplacement
    | 0x12 => plain fun s => (s.each (s.deCus (uaHub u)) State.stopJob).dueReplacement
    | 0x13 => s.stopDevice u cls
    | 0x14 => s.stopDevice u cls
    | 0x15 => plain fun s => if uaHub u < 2 then s.bankOut (uaHub u) else s
    | 0x16 => s.stopDevice u cls
    | _ => plain id

/-- A unit comes back to service (R308): the next re-placement restores work. -/
def State.returnUnit (s : State) (u : Word) : State :=
  let s := (s.modWeaver fun w => { w with retired := w.retired.filter (· ≠ u) }).storeMeta .retired
  let s := s.setReg HUB_RETIRED (BitVec.ofNat 32 s.weaver.retired.length)
  let s := match uaKind u with
    | 0x04 => (s.setRegBit (LN_STATUS (uaLane u)) 8 false).modLane (uaLane u) fun d => { d with returning := true }
    | 0x06 => s.setRegBit (HU_STATUS (uaHu u)) 12 false
    | 0x09 => s.setRegBit (PP_STATUS (uaPort u)) 20 false
    | 0x10 => s.setMcState (uaHub u) 1
    | _ => s
  (s.updateLimits.ledReturned u).dueReplacement

/-! ### The spare threshold DAC of a stake (R47) -/

/-- The comparator `t` (2·lane + comparator) of a stake as a lane and a DAC slice. -/
def dacLane (k t : Nat) : Nat := 16 * k + t / 2
/-- Slice of a comparator's DAC within its lane: L 0, U 1 (log entry 51). -/
def uDac (k t : Nat) : Word := uSlice (uLane (dacLane k t)) (t % 2)

/-- Retire the lane of a comparator that waits for the spare: its test, which the spare's sweep would be, is over. -/
def State.retireDacLane (s : State) (k t : Nat) : State :=
  (s.modWeaver fun w => { w with tests := w.tests.filter (·.unit ≠ uDac k t) }).retireLane (dacLane k t) 0x04 s.now

/-- The spare takes the comparator's place and the suspect DAC is swept, which is its targeted self-test. -/
def State.useSpare (s : State) (k t : Nat) : State :=
  let s := s.setReg (STK_SPARE k) (BitVec.ofNat 32 (1 + 4 * t))
  let s := s.setRegBit (LN_STATUS (dacLane k t)) 9 true
  s.modStake k fun d => { d with sweeping := true }

/-- The first waiting comparator whose lane is in service takes the free spare. -/
def State.nextSpare (s : State) (k : Nat) : List Nat → State
  | [] => s.modStake k fun d => { d with waiting := [] }
  | t :: rest =>
    if s.lnRetired (dacLane k t) then s.nextSpare k rest
    else (s.modStake k fun d => { d with waiting := rest }).useSpare k t

/-- The sweep ends well: the comparator goes back to its own DAC and the spare is free. -/
def State.dacPass (s : State) (k : Nat) : State :=
  let t := s.regF (STK_SPARE k) 2 5
  let s := (s.setReg (STK_SPARE k) 0).setRegBit (LN_STATUS (dacLane k t)) 9 false
  let s := s.modStake k fun d => { d with sweeping := false }
  s.nextSpare k (s.stake k).waiting

/-- The sweep fails: the spare stays for good, ALERT_N asserts, and the lanes of waiting comparators are retired. -/
def State.dacFail (s : State) (k : Nat) : State :=
  let t := s.regF (STK_SPARE k) 2 5
  let s := s.setRegBit (STK_SPARE k) 1 true
  let s := s.modLane (dacLane k t) fun d => if t % 2 = 0 then { d with l := { d.l with onSpare := true } }
    else { d with u := { d.u with onSpare := true } }
  let s := s.alertEvent true
  let ws := (s.stake k).waiting
  let s := s.modStake k fun _ => StakeDyn.init
  s.each ws fun s t => s.retireDacLane k t

/-! ### Verdicts (R305 to R307, R309) -/

/-- Firmware empties a queue (R243). Notices that go with queue 2 are lost notices (R339). -/
def State.flushQueue (s : State) (n : Nat) : State :=
  let k := qKind n
  let r := (s.queue n).flush k
  let gone := ((s.queue n).items.drop (s.queue n).read).countP (·.last)
  let s := s.settleQueue n r.1 r.2 0
  if n = 2 then s.modMbx fun m => { m with noticesLost := m.noticesLost + gone } else s

/-- What a passed test gives back: the unit resumes. A hub queue, whose own memory was tested, is flushed (R243). -/
def State.resumeUnit (s : State) (u : Word) : State :=
  if uaKind u = 0x17 then (if uaHub u < 5 then s.flushQueue (uaHub u) else s)
  else if uaIsSlice u then
    if uaKind u = 0x04 && u == uDac (uaStake u) (s.regF (STK_SPARE (uaStake u)) 2 5) && (s.stake (uaStake u)).sweeping then
      s.dacPass (uaStake u)
    else s
  else match uaKind u with
    | 0x04 => ((s.setRegBit (LN_STATUS (uaLane u)) 6 false).setRegF (LN_STATUS (uaLane u)) 0 2 3).modLane (uaLane u) fun d => { d with
        l := { d.l with coarse := false }, u := { d.u with coarse := false } }
    | 0x10 => s.thawChannel (uaHub u)
    | 0x11 => s.modCe (uaHub u) fun e => { e with testing := false }
    | 0x12 => s.modDe (uaHub u) fun e => { e with testing := false }
    | _ => s

/-- The effect of a lasting verdict: a threshold DAC with its spare in use keeps it; any other unit is retired. -/
def State.loseUnit (s : State) (u : Word) (cls : Nat) : State :=
  if uaIsSlice u && uaKind u == 0x04 && (s.stake (uaStake u)).sweeping then s.dacFail (uaStake u)
  else s.retireUnit u cls

/-- Error class of Table 13.5 that tests a unit which no error has named (log entry 52). -/
def unitClass (u : Word) : Nat :=
  if uaIsSlice u then 0x06
  else match uaKind u with
    | 0x04 => 0x03
    | 0x0B => 0x05
    | 0x10 => 0x01
    | 0x11 => 0x07
    | 0x12 => 0x07
    | 0x15 => 0x08
    | _ => 0x13

/-- The result reaches the host tests that name the unit (Table 14.15). -/
def State.hostResult (s : State) (u : Word) (result : Nat) : State :=
  let hit := s.weaver.hostTests.filter fun h => h.units.contains u
  let s := s.each hit fun s h => s.noticeSelftest h.id u result
  s.modWeaver fun w => { w with
    hostTests := (w.hostTests.map fun (h : HostTest) => { h with units := h.units.filter (· ≠ u) }).filter fun h => !h.units.isEmpty }

/-- Operating seconds of the window of R306. -/
def transientWindow : Nat := 86400

/-- The verdict on a unit. `errors`: an error started the test; else the host did, and a pass counts nothing, of an error
that joined either (R307). A lasting verdict starts a re-placement (R310). A lane retired while its test ran comes back by
calibration alone (R48). -/
def State.verdict (s : State) (u : Word) (cls : Nat) (errors fail : Bool) (result : Word) : State :=
  let now := s.opSeconds.toNat
  let before := s.weaver.transients.countP fun t => t.1 == u && decide (now ≤ t.2 + transientWindow)
  let window := if fail || !errors then before else before + 1
  let lasting := fail || (errors && decide (3 ≤ window))
  let s := s.modWeaver fun w => { w with
    tests := w.tests.filter (·.unit ≠ u)
    transients := if errors && !fail then w.transients ++ [(u, now)] else w.transients }
  let s := if errors && !fail then s.storeMeta .transients else s
  if lasting then
    let s := (s.incReg HUB_LASTING).ledVerdict u cls true window result
    let s := if s.isRetired u then s else s.loseUnit u cls
    s.dueReplacement.hostResult u 1
  else
    let s := if errors then (s.incReg HUB_TRANSIENTS).ledVerdict u cls false window result else s
    if s.isRetired u && uaKind u != 0x04 then (s.returnUnit u).hostResult u 2
    else (s.resumeUnit u).hostResult u 0

/-- One class's test ends on a unit under test (R307): the first failure decides; a pass decides when no class is left. -/
def State.testResult (s : State) (u : Word) (cls : Nat) (pass : Bool) (result : Word) : State :=
  match s.weaver.tests.find? (·.unit = u) with
  | none => s
  | some t =>
    if !t.classes.isEmpty && !t.classes.contains (BitVec.ofNat 8 cls) then s
    else
      let rest := t.classes.filter (· ≠ BitVec.ofNat 8 cls)
      if !pass then s.verdict u cls t.byError true result
      else if rest.isEmpty then s.verdict u cls t.byError false result
      else s.modWeaver fun w => { w with tests := w.tests.map fun x => if x.unit = u then { x with classes := rest } else x }

/-- Every class under test on the unit has its result (R305, R307). -/
def execTargetedSelfTestDone (unit : Word) (results : List (Byte × Bool)) (detail : Word) (s : State) :
    Host.Outcome State Fault Refusal :=
  .next (match s.weaver.tests.find? (·.unit = unit) with
    | none => s
    | some t =>
      let cls := match ascending (t.classes.map (·.toNat)) with
        | c :: _ => c
        | [] => unitClass unit
      let fail := results.any fun r => !r.2 && (t.classes.isEmpty || t.classes.contains r.1)
      s.verdict unit cls t.byError fail detail)

/-! ### Die-to-die modules (R18, Table 1.4) -/

/-- Units of a capture die that are lost with it, retired one by one. -/
def dieUnits (d : Nat) : List Word :=
  (List.range 16).map (fun k => uSq (16 * d + k)) ++ (List.range 4).map (fun k => uCu (4 * d + k)) ++
  (List.range 8).map (fun k => uIu (8 * d + k)) ++ (List.range 2).map (fun k => uHu (2 * d + k)) ++
  (List.range 96).map (fun k => uLane (96 * d + k)) ++ (List.range 8).map (fun k => uPort (8 * d + k)) ++
  (List.range 6).map (fun k => uStake (6 * d + k)) ++ (List.range 2).map (fun k => uWeave (2 * d + k))

/-- A module is retired; a die with none left is lost and its units are retired. The class is that of no error (log entry
52). -/
def State.retireModule (s : State) (d m : Nat) : State :=
  if s.isRetired (uModule d m) then s
  else
    let s := ((s.addRetired (uModule d m)).announceRetired (uModule d m) 0x13).dueReplacement
    if s.modules d = 0 then
      let s := s.ledgerReq 0x001B 4 (uDie d) 0x13 (leBytes 8 d)
      s.each (dieUnits d) fun s u => s.retireUnit u 0x13
    else s

def execModuleRetired (die : Fin 2) (module : Fin 4) (s : State) : Host.Outcome State Fault Refusal :=
  .next (s.retireModule die module)

/-! ### SELFTEST (R50, R292, R308, R336) -/

def selftestUnits (p : List Byte) : List Word := (List.range (getLe p 0 2)).map fun k => BitVec.ofNat 32 (getLe p (4 + 4 * k) 4)
def selftestRate (p : List Byte) : Nat := getLe p 2 1

def checkSelftest (p : List Byte) : List (Option Nat) :=
  [ ckFld p 0 0 16 (fun n => 1 ≤ n && n ≤ 250), ckFld p 2 0 8 (fun r => r ≤ 2 || r == 0xFF), ckZero p 3 1 ] ++
  (List.range (getLe p 0 2)).map fun k => (uaBad (BitVec.ofNat 32 (getLe p (4 + 4 * k) 4))).map (8 * (4 + 4 * k) + ·)

/-- Lanes that an address selects for calibration: a lane, or all of a stake or a capture die. -/
def State.calLanes (s : State) (u : Word) : List Nat :=
  if uaIsSlice u then []
  else
    let ls := match uaKind u with
      | 0x04 => [uaLane u]
      | 0x03 => (List.range 16).map (16 * uaStake u + ·)
      | 0x01 => if uaDie u = 2 then [] else (List.range 96).map (96 * uaDie u + ·)
      | _ => []
    ls.filter fun n => !s.laneAbsent n

/-- A lane is armed: on, in a session. -/
def State.laneArmed (s : State) (n : Nat) : Bool := s.time.armed && s.lnMode n != 0 && !s.lnGone n

/-! ### Rate of a channel (R291, R292) -/

/-- Results gathered at a channel's old rate are discarded (R292). -/
def State.dropResults (s : State) (ch : Nat) : State :=
  (s.each (List.range 24) fun s p => s.setReg (MC_TRN_ERR ch p) 0).setReg (MC_TRN_FAIL_BITS ch) 0

/-- The channel runs at a rate from now on: budgets follow, and a step-down is noticed and recorded (R291). -/
def State.setRate (s : State) (ch rate : Nat) : State :=
  if s.chanRate ch = rate then s
  else
    let down := decide (s.chanRate ch < rate)
    let s := (s.setRegF (MC_STATUS ch) 3 2 rate).dropResults ch
    let s := if down then s.setRegF (MC_STEPDOWNS ch) 0 2 (sat 3 (s.regF (MC_STEPDOWNS ch) 0 2 + 1)) else s
    ((s.updateLimits).notice 0x0A [.f4 (uMc ch).toNat, .f4 rate]).ledMemRate ch rate

/-- A sweep step runs: one that was started by a register write, or firmware's own. -/
def State.sweepRuns (s : State) (ch : Nat) : Bool := s.regBit (MC_TRN_CTL ch) 5 || (s.chan ch).sweeping

/-- A sweep step ends (R285): DONE is set, and the counters hold what was measured (free). A step of writes, and any of
firmware's own, has written the training area. -/
def State.endStep (s : State) (ch : Nat) : State :=
  let wrote := (s.chan ch).sweeping || s.regBit (MC_TRN_CTL ch) 4
  let s := if wrote then s.writeTraining ch else s
  let s := (s.setRegBit (MC_TRN_CTL ch) 5 false).setRegBit (MC_TRN_CTL ch) 6 true
  let s := s.each (List.range 24) fun s p => let d := s.draw 32; d.2.setReg (MC_TRN_ERR ch p) d.1
  let d := s.draw 29
  (d.2.setReg (MC_TRN_FAIL_BITS ch) (BitVec.ofNat 32 d.1.toNat)).modChan ch fun c => { c with sweeping := false }

/-- A rate that waits takes effect between sweep steps; training restarts at it (R292). -/
def State.takeRate (s : State) (ch : Nat) : State :=
  match (s.chan ch).rateReq with
  | some r => (s.modChan ch fun c => { c with rateReq := none }).setRate ch r.toNat
  | none => s

/-- Training is asked for, at a rate unless it is 0xFF: the channel is due, and the rate waits for the end of a sweep step or
for its evacuation (R289, R292; log entry 55). -/
def State.askRate (s : State) (ch rate : Nat) : State :=
  let s := if rate = 0xFF then s else s.modChan ch fun c => { c with rateReq := some (BitVec.ofNat 2 rate) }
  if s.mcState ch = 1 then s.setRegBit (MC_STATUS ch) 7 true
  else if s.mcState ch = 5 && !s.sweepRuns ch then s.takeRate ch
  else s

def State.startHostTest (s : State) (u : Word) (rate : Nat) : State :=
  let ls := s.calLanes u
  if !ls.isEmpty then
    s.modWeaver fun w => { w with calibrating := ls.foldl (fun l n => insertNat n l) w.calibrating }
  else
    let s := if uaKind u = 0x10 && !uaIsSlice u then s.askRate (uaHub u) rate else s
    if s.underTest u then s else s.modWeaver fun w => { w with tests := w.tests ++ [{ unit := u, classes := [], byError := false }] }

/-- SELFTEST runs in the background; the response holds its identifier. -/
def selftestCmd (img : MbImage) (s : State) : State × Option Response :=
  let us := selftestUnits img.payload
  let absent := us.findIdx? fun u => !uaPresent s.halfPart u
  checked s
    [ absent.map fun k => Response.fail stNoUnit (4 + 4 * k)
    , refusalIf (us.any fun u => (s.calLanes u).any s.laneArmed) stBusy 0 ]
    (let id := s.weaver.nextTestId
     let s := s.modWeaver fun w => { w with nextTestId := (id + 1) % 2 ^ 32, hostTests := w.hostTests ++ [{ id := id, units := us.eraseDups }] }
     let s := s.ledgerReq 0x0036 0 noUnit 0x11 (leBytes 4 id ++ leBytes 4 us.length)
     let s := s.each us fun s u => s.startHostTest u (selftestRate img.payload)
     done s (leBytes 4 id))

def execSelftest (m : Fin 32) (s : State) : Host.Outcome State Fault Refusal :=
  .next (s.runCommand m 0x0070 (fun _ => true) selftestCmd)

end Sys2Proof.Machine
end

