-- ==== Sys2Proof/Machine/Replacement.lean ====
section
/-!
DEFINITION. Re-placement after a unit is lost or returns (R310 to R313), the die digests (R317, R318) and GET_DIGESTS (R319).
-/
namespace Sys2Proof.Machine

/-! ### What is placed anew -/

/-- The intent without the pods that have left their chains (R84). -/
def State.presentIntent (s : State) : Intent :=
  let i := s.weaver.committed
  { i with pods := i.pods.filterKeys fun k => !(s.pod (k / 32) (k % 32)).broken && !s.ppRetired (k / 32) }

/-- Placements whose units are in service. -/
def State.keptPlacement (s : State) : Placement :=
  let p := s.weaver.place
  { p with
    seqs := p.seqs.filter fun q => !s.isRetired (uSq q.sq)
    cmps := p.cmps.filter fun c => !s.isRetired (uCu c.cu) && !s.isRetired (uDe c.de)
    ivals := p.ivals.filter fun u => !s.isRetired (uIu u.iu)
    streams := p.streams.filter fun x => !x.stripe.isEmpty }

def State.placeAgain (s : State) (sums : Bool) (shed : List Nat) : Except Response Placement :=
  s.placeAll { it := s.presentIntent, shed := shed, keep := s.keptPlacement, strict := false, sums := sums }

def State.tryPlace (s : State) (shed : List Nat) : Except Response Placement := s.placeAgain true shed

/-! ### Shedding (R313) -/

def rCode (r : Response) : Nat := getLe r.bytes 0 1
def rResource (r : Response) : Nat := getLe r.bytes 1 1
def rUnit (r : Response) : Word := BitVec.ofNat 32 (getLe r.bytes 4 4)
def rHandle (r : Response) : Word := BitVec.ofNat 32 (getLe r.bytes 8 4)

/-- A stream has a source on a capture die. -/
def onDie (d : Nat) (p : List Byte) : Bool := (bLanes p).any (fun n => n / 96 == d) || (bPods p).any fun q => q / 256 == d

/-- A unit lies within another: the same, or on its weave or die; 0 holds everything. -/
def weaveWithin (u : Word) (w : Nat) : Bool :=
  u == 0 || (if uaKind u = 0x02 then uaWeave u == w else uaDie u == w / 2)

/-- Objects that bear on a constraint that cannot be met, of an object `k` (Table 13.1): the sequences on the weaves that
PATH_MAX allows, the streams, or a stream and its partners. -/
def State.shedConstraint (s : State) (i : Intent) (shed : List Nat) (code k : Nat) : List Nat :=
  let idx := k % 65536
  let strs := i.streams shed
  match code with
  | 1 => (i.jobs 2 shed).filterMap fun x =>
      let here := match s.weaver.place.seqSq x.1 with
        | some q => decide (i.pathClass idx (q / 8) ≤ i.pathMax idx)
        | none => false
      if x.1 = idx || here then some (objKey 2 x.1) else none
  | 3 => if s.fillOrder.length < i.minStripe idx then [k] else strs.map fun x => objKey 1 x.1
  | 4 => (strs.filter fun x => x.1 == idx || (i.disjointFrom idx).contains x.1).map fun x => objKey 1 x.1
  | _ => [k]

/-- Objects that bear on a failing sum, by key; none bears on a budget that no retirement lowers. -/
def State.shedCands (s : State) (i : Intent) (shed : List Nat) (r : Response) : List Nat :=
  let strs := i.streams shed
  let all := fun (t : Nat) (l : List (Nat × List Byte)) => l.map fun x => objKey t x.1
  let comp := all 1 (strs.filter fun x => bFormat x.2 != 0)
  let st := r.status.toNat
  if st = stAdmission then
    match rCode r with
    | 0x01 => []
    | 0x02 => []
    | 0x04 => []
    | 0x03 => all 1 (strs.filter fun x => onDie (uaDie (rUnit r)) x.2)
    | 0x07 => comp
    | 0x08 => all 1 (strs.filter fun x => !bWindowed x.2)
    | 0x09 => all 6 ((i.jobs 6 shed).filter fun x => weaveWithin (rUnit r) (cWeave x.2))
    | _ => all 1 strs
  else if st = stNoResource then
    match rCode r, rResource r with
    | 0x05, _ => all 2 ((i.jobs 2 shed).filter fun x => match s.weaver.place.seqSq x.1 with
        | some q => weaveWithin (rUnit r) (q / 8)
        | none => hIdx (rHandle r) == x.1)
    | 0x07, _ => all 6 ((i.jobs 6 shed).filter fun x => weaveWithin (rUnit r) (cWeave x.2))
    | 0x12, _ => all 6 (i.jobs 6 shed)
    | 0x08, _ => all 5 ((i.jobs 5 shed).filter fun x => rUnit r == 0 || iWeave x.2 == uaWeave (rUnit r))
    | 0, 0x0B => comp
    | _, _ => [hKey (rHandle r)]
  else s.shedConstraint i shed (rCode r) (hKey (rHandle r))

/-- Ascending PRIORITY, then descending handle index. -/
def Intent.shedFirst (i : Intent) (l : List Nat) : Option Nat :=
  bestBy l fun a b => decide (i.priority a < i.priority b) || (i.priority a == i.priority b && decide (b % 65536 < a % 65536))

/-- Shed objects until placement succeeds. Where nothing is left that bears on a failing sum, the rest is placed without the sums. -/
def State.shedUntil (s : State) : Nat → Bool → List Nat → Option (Placement × List Nat)
  | 0, _, _ => none
  | fuel + 1, sums, shed =>
    match s.placeAgain sums shed with
    | .ok p => some (p, shed)
    | .error r =>
      match s.presentIntent.shedFirst ((s.shedCands s.presentIntent shed r).filter fun k => !shed.contains k) with
      | some k => s.shedUntil fuel sums (shed ++ [k])
      | none => if sums then s.shedUntil fuel false shed else none

/-- Bring shed objects back, the last one shed first, while there is room. -/
def State.restoreFrom (s : State) : Nat → Placement × List Nat → Placement × List Nat
  | 0, x => x
  | fuel + 1, x =>
    if x.2.isEmpty then x
    else match s.tryPlace x.2.dropLast with
      | .ok p => s.restoreFrom fuel (p, x.2.dropLast)
      | .error _ => x

/-- The new placement and shed list. Shed streams keep their entry, without a channel. -/
def State.newPlacement (s : State) : Option (Placement × List Nat) :=
  match s.shedUntil (s.weaver.created.length + 2) true s.weaver.shed with
  | none => none
  | some x =>
    let r := if x.2.length = s.weaver.shed.length then s.restoreFrom x.2.length x else x
    let old := s.weaver.place
    some ({ r.1 with
      streams := r.1.streams ++ (old.streams.filter fun p => r.2.contains (objKey 1 p.obj)).map fun p =>
        { p with stripe := [], perChannel := 0, engine := none, slot := none } }, r.2)

/-! ### Objects that are shed, restored or moved -/

/-- An object is shed: what it does ends. -/
def State.shedObject (s : State) (key : Nat) : State :=
  let idx := key % 65536
  let pl := s.weaver.place
  let s := match key / 65536 with
    | 1 => if s.time.armed then (s.openLoss idx causeReplace 0 0 s.now s.now 0).closeSegment idx false false else s
    | 2 => match pl.seqSq idx with
      | some q => if s.isRetired (uSq q) then s else s.retireSequencer q
      | none => s
    | 5 => match pl.ivalIu idx with
      | some u =>
        let s := if s.isRetired (uIu u) || !s.time.armed then s else s.ivStop u s.now true
        s.modWeaver fun w => { w with heldRseq := Tbl.put w.heldRseq idx (s.ival u).rseq }
      | none => s
    | 6 => match pl.cmpCu idx with
      | some c =>
        let s := s.abortStep c 3 s.now
        let d := s.cmp c
        let s := s.modWeaver fun w => { w with
          heldCmps := Tbl.put w.heldCmps idx { cu := c, nextStep := d.nextStep, stationAt := d.stationAt, anchors := d.anchors } }
        (s.modCmp c fun d => { d with anchors := [], stationAt := none }).cuState c 0
      | none => s
    | _ => s
  ((s.modWeaver fun w => { w with shed := w.shed ++ [key] }).noticeShed key false).ledShed key false

/-- An object comes back: a stream starts a new ring and closes its LOSS in it. -/
def State.restoreObject (s : State) (key : Nat) : State :=
  let s := s.modWeaver fun w => { w with shed := w.shed.erase key }
  let s := if key / 65536 = 1 && s.time.armed then
      (s.modStream (key % 65536) fun sd => sd.startRing s.now).closeLoss (key % 65536) causeReplace 0 0 s.now
    else s
  (s.noticeShed key true).ledShed key true

/-- A new ring starts only when no channel of the old set is in service; the open segment's records are lost with it (R311). -/
def State.moveRing (s : State) (i : Nat) (old : List Nat) : State :=
  if old.any s.chanOk || !s.time.armed then s
  else
    let sd := s.stream i
    let n := sd.open_.length
    let s := s.setStream i ({ sd with open_ := [], openMark := none, openLoss := false, firstRecord := none }.startRing s.now)
    if n = 0 then s else s.wholeLoss i causeReplace 0 0 sd.openTime s.now n

/-- An interval job on its new unit: it restarts as at ARM, with RSEQ continuing (R200). -/
def State.moveInterval (s : State) (u : IvalPlace) (old : Option Nat) : State :=
  let r := match old with
    | some o => (s.ival o).rseq
    | none => Tbl.getD s.weaver.heldRseq u.obj 0
  let s := s.modWeaver fun w => { w with heldRseq := Tbl.del w.heldRseq u.obj }
  let s := s.modIval u.iu fun d => { d with rseq := r }
  if s.time.armed then s.ivStart u.iu s.now true else s

/-- A compare job on its new unit: it resumes at step 0 (Table 6.8); one that was shed goes on from the step that its anchors
have reached (R313; DEDUCED, log entry 118). -/
def State.moveCompare (s : State) (c : CmpPlace) : State :=
  let s := (s.freshCompare c.cu s.now).cuState c.cu (if s.time.armed then 1 else 0)
  match Tbl.find? s.weaver.heldCmps c.obj with
  | some h => (s.modCmp c.cu fun d => { d with nextStep := h.nextStep, stationAt := h.stationAt, anchors := h.anchors }).modWeaver
      fun w => { w with heldCmps := Tbl.del w.heldCmps c.obj }
  | none => s

/-- The units of the new placement start what has moved to them. -/
def State.startMoved (s : State) (c : Change) : State :=
  let s := s.each (c.newPl.ivals.filter fun u => !c.oldPl.ivals.contains u) fun s u => s.moveInterval u (c.oldPl.ivalIu u.obj)
  let s := s.each (c.newPl.cmps.filter fun j => c.oldPl.cmpCu j.obj != some j.cu) State.moveCompare
  let s := s.each (c.newPl.seqs.filter fun q => !c.oldPl.seqs.contains q) fun s q =>
    if s.time.armed then s.startSequencer q.sq s.slot true else s
  s.each c.newPl.streams fun s p => match c.oldPl.streams.find? (·.obj == p.obj) with
    | some o => if o.stripe == p.stripe || o.stripe.isEmpty || p.stripe.isEmpty then s else s.moveRing p.obj o.stripe
    | none => s

/-! ### REPLACEMENT -/

/-- Saved contexts and spill buffers leave a channel that is evacuated, for channels in service (R289). -/
def State.moveSaved (s : State) : State :=
  let leaves := fun (ch : Nat) => s.mcState ch == 4
  let s := s.each (s.streams.keys.filter fun i => ((s.stream i).ctxChan).any leaves) fun s i => s.saveContext i
  let s := s.each ((List.range 8).filter fun e => ((s.de e).ctxChan).any leaves) fun s e =>
    let r := s.contextChan
    r.2.modDe e fun d => { d with ctxChan := r.1, ctxLost := r.1.isNone }
  let s := s.each s.images.keys fun s i => s.each ((s.image i).places.zipIdx.filter fun x => leaves (x.1 / 2 ^ 33)) fun s x =>
    let d := s.spillPlace
    d.2.modImage i fun im => { im with places := im.places.set x.2 d.1 }
  s.each (List.range 4) fun s hu => s.each (s.hist hu).regions.keys fun s r =>
    match (s.region hu r).closing with
    | some c =>
      if leaves (c.place / 2 ^ 33) then
        let d := s.spillPlace
        d.2.modRegion hu r fun x => { x with closing := some { c with place := d.1 } }
      else s
    | none => s

/-- The new placement takes effect; the configuration epoch does not change (R312). -/
def State.applyReplacement (s : State) (pl : Placement) (shed : List Nat) (health : List Byte) : State :=
  let new := s.weaver.committed
  let c : Change := { old := new, new := new, oldPl := s.weaver.place, newPl := pl, shed := s.weaver.shed, t0 := s.now }
  let s := s.each (shed.filter fun k => !s.weaver.shed.contains k) State.shedObject
  let back := (s.weaver.shed.filter fun k => !shed.contains k).reverse
  let off := pl.hists.filter fun h => !rgEnable (s.rgCfg h.hu h.region)
  let s := s.modWeaver fun w => { w with place := pl, healthDig := health }
  let s := (s.writeConfig (s.configImage new pl)).writeTout (toutPins new pl)
  let s := ((c.moveContexts s).writePlaceRo new pl).moveSaved.wakePlaced pl
  let s := s.each back State.restoreObject
  let s := c.startTerms s
  let s := s.startMoved c
  let s := s.each (off.filter fun h => rgEnable (s.rgCfg h.hu h.region)) fun s h =>
    if s.time.armed then s.histStart h.hu h.region s.now else s
  let s := s.startPods c
  let s := s.putDigest HUB_PDIG (s.placementDigest new pl shed)
  let s := ((s.setRegBit HUB_HEALTH 0 true).setRegBit HUB_HEALTH 1 (!shed.isEmpty)).incReg HUB_REPLACEMENTS
  let s := s.updateLimits
  if s.time.armed then s.writeDigests false else s

/-- Re-placement (R310). With nothing committed there is nothing to place (log entry 53). -/
def State.replace (s : State) : State :=
  if !s.weaver.replaceDue || s.failed then s
  else
    let health := s.healthDigest
    let s := s.modWeaver fun w => { w with replaceDue := false }
    if s.epochNo = 0 then s.updateLimits
    else match s.newPlacement with
      | some x => s.applyReplacement x.1 x.2 health
      | none => s.applyReplacement s.weaver.place s.weaver.shed health

def execReplacement (s : State) : Host.Outcome State Fault Refusal := .next s.replace

/-! ### Die digests (R317, R318) -/

def dieNo : Die → Nat
  | .cd0 => 0
  | .cd1 => 1
  | .hd => 2

/-- Register values on a die differ from the register file. -/
def State.upset (s : State) (l : List (BitVec 26 × Word)) : State :=
  s.each l fun s x =>
    let a := x.1.toNat
    let m := BitVec.ofNat 32 (rwMask a)
    s.setReg a ((s.reg a &&& ~~~m) ||| (x.2 &&& m))

/-- The hash unit's digest and firmware's are compared. -/
def State.compareDie (s : State) (d : Nat) : State :=
  let e := s.expectedDigest d
  let r := s.reportedDigest d
  let s := (s.putDigest (HUB_DDIG_EXP d) e).putDigest (HUB_DDIG_RPT d) r
  s.setRegBit HUB_DIG_MATCH d (e == r)

/-- RW registers of a die return to what firmware last wrote. -/
def State.rewriteDie (s : State) (d : Nat) : State := s.each (dieRw d) fun s a =>
  let m := BitVec.ofNat 32 (rwMask a)
  s.setReg a ((s.reg a &&& ~~~m) ||| (s.fwReg a &&& m))

/-- A check (R317, R318): a difference is raised, the registers are rewritten once, and a second check clears or keeps the
state. -/
def State.checkDie (s : State) (d : Nat) (upsets : List (BitVec 26 × Word)) (sticky : Bool) : State :=
  let s := s.upset upsets
  let e := s.expectedDigest d
  let r := s.reportedDigest d
  let s := (s.compareDie d).modWeaver fun w => { w with digSecs := Tbl.put w.digSecs d s.opSeconds.toNat }
  if e = r then s.clearMismatch (uDie d) 0 e r
  else
    let s := (s.raiseMismatch (uDie d) 0 e r).rewriteDie d
    let s := if sticky then s.upset upsets else s
    let e := s.expectedDigest d
    let r := s.reportedDigest d
    let s := s.compareDie d
    if e = r then s.clearMismatch (uDie d) 0 e r else s

/-- Checks are suspended while the register file is unlocked (R444), and a die that is absent or asleep has none. -/
def execDieDigestCheck (die : Die) (upsets : List (BitVec 26 × Word)) (sticky : Bool) (s : State) :
    Host.Outcome State Fault Refusal :=
  .next (
    let d := dieNo die
    if s.unlocked || (s.halfPart && d == 1) || (d != 2 && s.asleep) then s
    else s.checkDie d (upsets.filter fun u => (dieRw d).contains u.1.toNat) sticky)

/-! ### GET_DIGESTS (R319) -/

/-- Epoch, flags, the three digests, each die's two digests and its last check, and the ports' bitmaps (Table 14.8). -/
def State.digestsBytes (s : State) : List Byte :=
  leBytes 4 s.epochNo.toNat ++ leBytes 4 (s.regF HUB_HEALTH 0 2) ++ s.digestRegs HUB_CDIG ++ s.digestRegs HUB_PDIG ++
    padTo 32 s.weaver.healthDig ++
    (List.range 3).flatMap (fun d => s.digestRegs (HUB_DDIG_EXP d) ++ s.digestRegs (HUB_DDIG_RPT d) ++
      leBytes 4 (Tbl.getD s.weaver.digSecs d 0) ++ leBytes 4 0) ++
    (List.range 16).flatMap fun k => leBytes 4 (s.reg (PP_MISMATCH k)).toNat

def execGetDigests (m : Fin 32) (s : State) : Host.Outcome State Fault Refusal :=
  .next (s.runCommand m 0x0003 (fun _ => true) fun _ s => done s s.digestsBytes)

end Sys2Proof.Machine
end

