-- ==== Sys2Proof/Machine/Memory.lean ====
section
/-!
DEFINITION. Memory channels (chapter 12): errors, scrub, drift, evacuation, training, self-refresh.
-/
namespace Sys2Proof.Machine

/-! ### Errors (R272 to R275, R281) -/

/-- The channel serves requests: active, in self-refresh (which a request ends) or evacuating. -/
def State.chanServes (s : State) (ch : Nat) : Bool := s.mcState ch == 1 || s.mcState ch == 2 || s.mcState ch == 4

/-- A corrected error is counted, and the hour's first one kept for the record (R273). -/
def State.corrected (s : State) (ch : Nat) (off : BitVec 33) : State :=
  if !s.chanServes ch then s
  else (s.incReg (MC_CE_COUNT ch)).modChan ch fun c => { c with
    ceHour := c.ceHour + 1, ceFirst := if c.ceHour = 0 then ch * 2 ^ 33 + off.toNat else c.ceFirst }

def execCorrectedError (ch : Fin 16) (off : BitVec 33) (s : State) : Host.Outcome State Fault Refusal :=
  .next (if s.pageChecked (pageOf (ch.val * 2 ^ 33 + off.toNat)) then s.corrected ch off else s)

/-- At most one CORRECTED record per channel and operating hour (R273). -/
def execCorrectedHour (ch : Fin 16) (s : State) : Host.Outcome State Fault Refusal :=
  .next (
    let c := s.chan ch
    if c.ceHour = 0 then s
    else (s.ledgerReq 0x0014 0 (uMc ch) 0x01 (leBytes 8 (sat 0xFFFFFFFF c.ceHour) ++ leBytes 8 c.ceFirst)).modChan ch fun c =>
      { c with ceHour := 0, ceFirst := 0 })

/-! ### What holds a channel (R289, R294) -/

/-- The channel holds an undelivered segment of a stream (R296). -/
def State.chanSegments (s : State) (ch : Nat) : Bool :=
  s.streams.any fun e => e.2.ring.any fun g => g.channel == ch &&
    (!s.strWindowed e.1 || inWindows e.2.windows g.pos || !s.pastWindow e.1 g.pos)

/-- It holds an undelivered segment of a continuous stream, or one of a windowed stream within PRE of its write position or
in an open window (R289). -/
def State.chanNeeded (s : State) (ch : Nat) : Bool :=
  s.streams.any fun e => e.2.ring.any fun g => g.channel == ch &&
    (!s.strWindowed e.1 || inWindows (e.2.windows.filter (·.2.isNone)) g.pos || !s.pastWindow e.1 g.pos)

/-- It holds a byte of the reference of a placed compare job. -/
def State.chanJobRef (s : State) (ch : Nat) : Bool :=
  s.weaver.place.cmps.any fun c => match s.def? 6 c.obj with
    | some p => (s.ref (hIdx (cRef p))).pages.any fun k => pageChan k == ch
    | none => false

def State.chanStripe (s : State) (ch : Nat) : Bool := s.weaver.place.streams.any fun p => p.stripe.contains ch

/-- The two lowest healthy channels hold firmware's DRAM state (R296); a channel that is frozen, or due to be retrained and
evacuated, gives it up (R289). -/
def State.fwChans (s : State) : List Nat :=
  (s.healthyChans.filter fun c => s.mcState c != 3 && s.mcState c != 4 && s.mcState c != 5).take 2

/-- It holds a saved context, an image or a spill buffer (R289, R294). -/
def State.chanReserved (s : State) (ch : Nat) : Bool :=
  s.streams.any (fun e => e.2.ctxChan == some ch) || s.des.any (fun e => e.2.ctxChan == some ch) ||
    s.images.any (fun e => e.2.places.any fun a => a / 2 ^ 33 == ch) ||
    s.hists.any fun h => h.2.regions.any fun r => r.2.closing.any fun c => !c.gone && c.place / 2 ^ 33 == ch

/-! ### Drift and evacuation (R288, R289) -/

/-- The remaining channels can take the stripes without shedding, and no placed job's reference holds the channel. -/
def State.canEvacuate (s : State) (ch : Nat) : Bool :=
  !s.chanJobRef ch && (s.epochNo == 0 || match (s.setMcState ch 4).tryPlace s.weaver.shed with | .ok _ => true | .error _ => false)

/-- The channels of firmware's own state never stay in self-refresh (R296). -/
def State.wakeFirmware (s : State) : State :=
  s.each (s.fwChans.filter fun c => s.mcState c == 2) State.wakeChannel

/-- The operating hours since a training run out while the channel is active (R288). -/
def State.trainingsAge (s : State) : State :=
  s.each ((List.range 16).filter fun c => (s.mcState c == 1 || s.mcState c == 4) && !s.regBit (MC_STATUS c) 7 &&
    decide ((s.reg (MC_TRAIN_TIME c)).toNat + 86400 ≤ s.opSeconds.toNat)) fun s c => s.setRegBit (MC_STATUS c) 7 true

/-- A due channel starts its evacuation, or the retraining is deferred; one channel at a time. -/
def State.considerEvacuation (s : State) (ch : Nat) : State :=
  if s.mcState ch != 1 || !s.regBit (MC_STATUS ch) 7 || (List.range 16).any fun c => s.mcState c == 4 || s.mcState c == 5 then s
  else if s.canEvacuate ch then
    (((s.setMcState ch 4).setRegBit (MC_STATUS ch) 8 false).modChan ch fun c => { c with deferPosted := false }).dueReplacement.wakeFirmware
  else
    let posted := (s.chan ch).deferPosted
    let s := (s.setRegBit (MC_STATUS ch) 8 true).modChan ch fun c => { c with deferPosted := true }
    if posted then s else s.notice 0x0B [.f4 (uMc ch).toNat]

def execDriftTracking (ch : Fin 16) (steps : Int) (temp : Half) (s : State) : Host.Outcome State Fault Refusal :=
  .next (
    if s.mcState ch = 1 || s.mcState ch = 4 then (s.trackDrift ch steps temp).considerEvacuation ch else s)

/-! ### Training (R287 to R292) -/

/-- Once evacuated and empty of what is needed, the channel is retrained. -/
def execEvacuationDone (ch : Fin 16) (s : State) : Host.Outcome State Fault Refusal :=
  .next (
    if s.mcState ch = 4 && !s.weaver.replaceDue && !s.chanStripe ch && !s.chanNeeded ch && !s.chanJobRef ch &&
        !s.chanReserved ch && !s.fwChans.contains ch then
      (s.setMcState ch 5).takeRate ch
    else s)

/-- The setting that training chooses, the centre of each span, is measured: free. Retraining looks ±8 steps and ±4 codes
around the present one (R286, R290). -/
def State.chooseField (s : State) (a lo span : Nat) : State :=
  let d := s.draw 7
  let v := fld (s.fwReg a) lo 7
  d.2.fwSetF a lo 7 (if span = 0 then d.1.toNat else min 127 (v + d.1.toNat % (2 * span + 1) - span))

def State.chooseSetting (s : State) (ch : Nat) (again : Bool) : State :=
  let w := fun (n : Nat) => if again then n else 0
  let s := s.each (List.range 24) fun s p =>
    (s.chooseField (MC_TRN_DELAY ch p) 0 (w 8)).chooseField (MC_TRN_DELAY ch p) 8 (w 8)
  let s := s.chooseField (MC_TRN_VREF ch) 0 (w 4)
  if again then s
  else ((s.chooseField (MC_TRN_CA ch) 0 0).chooseField (MC_TRN_CA ch) 8 0).chooseField (MC_TRN_VREF ch) 8 0

/-- A training ends well: its setting holds, and the point in time and temperature it was done at. -/
def State.trained (s : State) (ch : Nat) (temp : Half) (again : Bool) : State :=
  let s := ((s.writeTraining ch).chooseSetting ch again).setMcState ch 1
  let s := s.setRegF (MC_STATUS ch) 7 2 0
  let s := (s.setReg (MC_TRAIN_TIME ch) s.opSeconds).setReg (MC_TRAIN_TEMP ch) (BitVec.ofNat 32 temp.toNat)
  s.modChan ch fun c => { c with drift := 0, sweeping := false, deferPosted := false }

/-- The next lower rate, once no sweep step gathers data any more, or retirement at the lowest (R291, R292). -/
def State.stepDown (s : State) (ch : Nat) : State :=
  if 2 ≤ s.chanRate ch then s.retireUnit (uMc ch) 0x13
  else if s.sweepRuns ch then s.modChan ch fun c => { c with rateReq := some (BitVec.ofNat 2 (s.chanRate ch + 1)) }
  else s.setRate ch (s.chanRate ch + 1)

/-- A sweep step ends (R285); a rate request that waits takes effect (R292). -/
def execSweepStepDone (ch : Fin 16) (s : State) : Host.Outcome State Fault Refusal :=
  .next (
    if s.sweepRuns ch then (s.endStep ch).takeRate ch else s)

/-- Initial training of one channel (Table 12.6, R268): the rates that fail are stepped through; a channel that fails at the
last one, or whose density is not the board's, is retired. Its bitmap is cleared. -/
def State.trainInitial (s : State) (ch fails : Nat) (density : BitVec 2) (temp : Half) : State :=
  let s := s.setRegF (MC_STATUS ch) 5 2 density.toNat
  let s := s.forgetChannel ch
  if 2 * 2 ^ density.toNat ≠ s.power.board.channelGib then s.retireUnit (uMc ch) 0x13
  else
    let s := s.each (List.range fails) fun s _ => if s.isRetired (uMc ch) then s else s.stepDown ch
    if s.isRetired (uMc ch) then s else s.trained ch temp false

/-- Only a channel that start-up has not yet trained is trained so. A command-path test that runs holds training up (Table 12.7). -/
def execInitialTraining (ch : Fin 16) (fails : Nat) (density : BitVec 2) (temp : Half) (s : State) :
    Host.Outcome State Fault Refusal :=
  .next (
    if s.mcState ch = 0 && !s.underTest (uMc ch) then s.trainInitial ch fails density temp else s)

/-! ### Self-refresh (R294 to R296) -/

/-- The channel may enter self-refresh on its own. -/
def State.chanIdle (s : State) (ch : Nat) : Bool :=
  s.mcState ch == 1 && !s.chanStripe ch && !s.chanNeeded ch && !s.chanJobRef ch && !s.chanReserved ch && !s.fwChans.contains ch &&
    (s.sched ch).idle && !s.underTest (uMc ch)

def execSelfRefreshEntry (ch : Fin 16) (s : State) : Host.Outcome State Fault Refusal :=
  .next (if s.chanIdle ch then (s.setMcState ch 2).incReg (MC_SR_ENTRIES ch) else s)

end Sys2Proof.Machine
end

