-- ==== Sys2Proof/Machine/Rom.lean ====
section
/-!
DEFINITION. Configuration space (R346 to R349), the expansion ROM with its on-chip copy (R351), the resource directory (R352, R437),
and the test access port (R413).
-/
namespace Sys2Proof.Machine

/-! ### Identifiers (Table 0.3, R6) -/

def vendorId : Nat := 0x1F3C
def classCode : Nat := 0x118000
/-- Stepping B1. -/
def revisionId : Nat := 0x21

def Ordering.half : Ordering → Bool
  | .zs096c => true
  | _ => false

def Ordering.code : Ordering → Nat
  | .zs192c => 0
  | .zs192x => 1
  | .zs096c => 2

def Ordering.dies (o : Ordering) : Nat := if o.half then 1 else 3
def Ordering.deviceId (o : Ordering) : Nat := if o.half then 0x2C18 else 0x2C19

def State.deviceId (s : State) : Nat := s.power.board.ordering.deviceId
/-- DIES: bit 0 CD0, bit 1 CD1. -/
def State.dies (s : State) : Nat := s.power.board.ordering.dies

/-! ### The resource directory (Tables 15.4 to 15.6, R437) -/

/-- An entry (Table 15.5). -/
structure DirEntry where
  type : Nat
  bar : Nat
  first : Nat
  count : Nat
  offset : Nat
  size : Nat
  stride : Nat
  deriving DecidableEq, Repr

def DirEntry.bytes (e : DirEntry) : List Byte :=
  leBytes 2 e.type ++ leBytes 1 e.bar ++ leBytes 1 1 ++ leBytes 2 e.first ++ leBytes 2 e.count ++ leBytes 8 e.offset ++
    leBytes 8 e.size ++ leBytes 8 e.stride

/-- The entries of Table 15.6 that are no register blocks. -/
def fixedEntries : List DirEntry :=
  [ ⟨0x0001, 0, 0, 1, 0, 4, 0⟩, ⟨0x0002, 0, 0, 32, 0x10000, 0x1000, 0x1000⟩, ⟨0x0003, 0, 0, 32, 0x40000, 4, 4⟩
  , ⟨0x0004, 0, 0, 1, 0x40080, 4, 0⟩, ⟨0x0005, 0, 0, 4096, 0x48000, 8, 8⟩, ⟨0x0006, 0, 0, 2048, 0x80000, 16, 16⟩
  , ⟨0x0007, 0, 0, 1, 0x88000, 256, 0⟩, ⟨0x0010, 2, 0, 64, 0, 2 ^ 30, 2 ^ 30⟩, ⟨0x0020, 0xFF, 0, 1, 0xE0000, 256, 0⟩
  , ⟨0x0021, 0xFF, 0, 1, 0, Config.driverImageBytes, 0⟩ ]

/-- Hub blocks (Table 19.3): code, base, size and instances. -/
def hubEntries : List (Nat × Nat × Nat × Nat) :=
  [ (0x01, 0x100000, 0x100, 1), (0x02, 0x101000, 0x200, 1), (0x03, 0x102000, 0x400, 1), (0x04, 0x103000, 0x200, 1)
  , (0x05, 0x104000, 0x100, 1), (0x06, 0x105000, 0x100, 1), (0x07, 0x106000, 0x100, 1), (0x08, 0x107000, 0x100, 1)
  , (0x09, 0x108000, 0x100, 1), (0x0A, 0x109000, 0x100, 1), (0x10, 0x110000, 0x100, 16), (0x11, 0x120000, 0x100, 8)
  , (0x12, 0x200000, 0x1000, 16) ]

/-- Capture blocks (Table 19.2): code, offset in a die's space, size and instances on a die. -/
def captureEntries : List (Nat × Nat × Nat × Nat) :=
  [ (0x20, 0, 0x40, 96), (0x21, 0x10000, 0x400, 6), (0x22, 0x20000, 0x100, 2), (0x23, 0x30000, 0x800, 8)
  , (0x24, 0x40000, 0x1000, 16), (0x25, 0x50000, 0x1000, 2), (0x26, 0x60000, 0x100, 4), (0x27, 0x70000, 0x100, 8) ]

/-- The entries, in ascending TYPE; of a capture block one for each fitted die, CD0 first (R352, R437). -/
def directory (o : Ordering) : List DirEntry :=
  fixedEntries ++
  (hubEntries.map fun b => ⟨0x100 + b.1, 0, 0, b.2.2.2, b.2.1, b.2.2.1, if b.2.2.2 = 1 then 0 else b.2.2.1⟩) ++
  captureEntries.flatMap fun b => (List.range (if o.half then 1 else 2)).map fun d =>
    ⟨0x100 + b.1, 0, b.2.2.2 * d, b.2.2.2, 0x1000000 * (d + 1) + b.2.1, b.2.2.1, b.2.2.1⟩

def directoryBytes (o : Ordering) : List Byte := (directory o).flatMap DirEntry.bytes

/-- The directory header (Table 15.4). -/
def directoryHeader (o : Ordering) : List Byte :=
  padTo 64 (leBytes 4 0x5244535A ++ leBytes 4 Config.directoryVersion.toNat ++ leBytes 2 (directory o).length ++ leBytes 2 32 ++
    leBytes 4 (crc32 (directoryBytes o)).toNat ++ leBytes 1 o.code ++ leBytes 1 o.dies)

/-! ### The expansion ROM (R351, Table 15.3) -/

/-- A byte of the UEFI driver image: the ROM header, and the PCI Data Structure that its pointer names, with the identifiers
of the function, code type 0x03 and the last-image indicator. What else the image holds, and where its data structure stands,
is not given (free; log entry 106). -/
def driverByte (o : Ordering) (a : Nat) : Byte :=
  let p := Config.driverPcir
  let pcir : List Byte := [0x50, 0x43, 0x49, 0x52] ++ leBytes 2 vendorId ++ leBytes 2 o.deviceId
  if a = 0 then 0x55
  else if a = 1 then 0xAA
  else if a = 0x18 || a = 0x19 then (leBytes 2 p).getD (a - 0x18) 0
  else if p ≤ a && a < p + 8 then pcir.getD (a - p) 0
  else if p + 0x0D ≤ a && a < p + 0x10 then (leBytes 3 classCode).getD (a - (p + 0x0D)) 0
  else if a = p + 0x14 then 0x03
  else if a = p + 0x15 then 0x80
  else Config.driverByte a

/-- A byte of the first 1 MiB, from the on-chip copy. -/
def RomCopy.byte (r : RomCopy) (a : Nat) : Byte :=
  if a < 0xE0000 then (if a < Config.driverImageBytes then driverByte r.ordering a else 0)
  else if a < 0xE0100 then (padTo 256 (padTo 160 r.manifest ++ leBytes 1 r.running ++ leBytes 1 r.pending)).getD (a - 0xE0000) 0
  else if a < 0xF0000 then 0
  else if a < 0xF0040 then (directoryHeader r.ordering).getD (a - 0xF0000) 0
  else (directoryBytes r.ordering).getD (a - 0xF0040) 0

def FwState.manifest (f : FwState) : List Byte := if f.running = 0 then f.slot0 else f.slot1

/-- The on-chip copy is loaded, at start-up and at a Function Level Reset (R351, R367). -/
def State.loadRom (s : State) : State :=
  s.modPcie fun p => { p with rom :=
    { ordering := s.power.board.ordering, manifest := s.power.fw.manifest, running := s.power.fw.running
      pending := s.power.fw.pending.getD 0xFF } }

/-- The expansion ROM BAR decodes: its enable bit and Memory Space Enable are set. -/
def State.romDecodes (s : State) : Bool := s.pcie.memSpace && bit s.pcie.romBar 0

/-- A byte of boot flash at an offset from 1 MiB to 16 MiB (Table 17.6): the copies of the board configuration block, zeros,
and firmware slot 0; `open_` for a slot that programming has left without an image (log entry 106). -/
def State.flashAt (s : State) (a : Nat) (open_ : Byte) : Byte :=
  let block := fun (b : List Byte) (o : Nat) => if o < 64 && decide (64 ≤ b.length) then b.getD o 0 else Config.flashByte a
  if a < 0x110000 then block s.power.boardA (a - 0x100000)
  else if a < 0x120000 then block s.power.boardB (a - 0x110000)
  else if a < 0x800000 then 0
  else if s.power.fw.bad.contains 0 then open_
  else Config.slotByte s.power.fw.slot0 s.power.fw.image0 (a - 0x800000)

/-- Bytes of a ROM read: up to 1 MiB from the copy; beyond it boot flash, or zeros while a firmware slot is being programmed. -/
def State.romBytes (s : State) (a len : Nat) : List Byte × State :=
  if s.power.fw.programming.isSome then ((List.range len).map fun k => if a + k < 0x100000 then s.pcie.rom.byte (a + k) else 0, s)
  else
    let d := s.drawBytes len
    ((List.range len).map fun k => if a + k < 0x100000 then s.pcie.rom.byte (a + k) else s.flashAt (a + k) (d.1.getD k 0), d.2)

/-! ### Configuration space -/

/-- Capabilities (Table 15.1): offset, identifier and version. Their identifiers are those of the PCI Express specification
(PRESUMED, log entry 106). -/
def capabilities : List (Nat × Nat) := [(0x40, 0x01), (0x50, 0x11), (0x70, 0x10)]
def extCapabilities : List (Nat × Nat × Nat) :=
  [ (0x100, 0x0001, 2), (0x148, 0x0003, 1), (0x158, 0x0019, 1), (0x188, 0x0025, 1), (0x198, 0x0026, 1), (0x1C8, 0x0027, 1)
  , (0x210, 0x002A, 1), (0x240, 0x0031, 1), (0x260, 0x001E, 1), (0x270, 0x0018, 1), (0x278, 0x000B, 1) ]

/-- Offset of the next capability, 0 after the last. -/
def nextOffset (l : List Nat) (a : Nat) : Nat := (l.find? (a < ·)).getD 0

def capNext (a : Nat) : Nat := nextOffset (capabilities.map (·.1)) a
def extNext (a : Nat) : Nat := nextOffset (extCapabilities.map (·.1)) a

/-- Device Control and Device Status: error enables, relaxed ordering, payload, tags, read request, errors seen and reads pending (R349). -/
def PcieState.deviceControl (p : PcieState) : Nat :=
  (p.cfgReg 0x78).toNat + 16 * p.relaxedOrdering.toNat + 32 * (p.maxPayload / 256) + 256 * p.extendedTag.toNat +
    4096 * (match p.maxReadRequest with | 128 => 0 | 256 => 1 | 512 => 2 | 1024 => 3 | 2048 => 4 | _ => 5) +
    2 ^ 16 * p.devStatus.toNat + 2 ^ 21 * (!p.outstanding.isEmpty).toNat

def PcieState.deviceControl2 (p : PcieState) : Nat := p.completionTimeout.toNat + 4096 * p.tenBitTag.toNat + (p.cfgReg 0x98).toNat

/-- A dword of the header log: the first byte of the header stands highest (PRESUMED, log entry 106). -/
def PcieState.headerWord (p : PcieState) (k : Nat) : Nat := leNat (slice p.headerLog (4 * k) 4).reverse

/-- A dword of configuration space; none where the spec leaves its content to the PCI Express specification (free; log entry 106). -/
def State.configWord (s : State) (a : Nat) : Option Nat :=
  let p := s.pcie
  if a = 0x00 then some (vendorId + 2 ^ 16 * s.deviceId)
  else if a = 0x04 then some (2 * p.memSpace.toNat + 4 * p.busMaster.toNat + (p.cfgReg 0x04).toNat + 2 ^ 20)
  else if a = 0x08 then some (revisionId + 256 * classCode)
  else if a = 0x0C then some 0
  else if a = 0x10 then some (p.bar0.toNat % 2 ^ 32 + 4)
  else if a = 0x14 then some (p.bar0.toNat / 2 ^ 32)
  else if a = 0x18 then some (p.bar2.toNat % 2 ^ 32 + 12)
  else if a = 0x1C then some (p.bar2.toNat / 2 ^ 32)
  else if a = 0x20 || a = 0x24 || a = 0x28 then some 0
  else if a = 0x2C then some (s.power.board.subsysVid.toNat + 2 ^ 16 * s.power.board.subsysId.toNat)
  else if a = 0x30 then some p.romBar.toNat
  else if a = 0x34 then some 0x40
  else if a = 0x38 || a = 0x3C then some 0
  else if a = 0x44 then some (3 * p.d3hot.toNat + 8 + 256 * p.pmeEn.toNat + 2 ^ 15 * p.pmeStatus.toNat)
  else if a = 0x50 then some (0x11 + 256 * capNext 0x50 + 2 ^ 16 * 2047 + 2 ^ 30 * p.msixMask.toNat + 2 ^ 31 * p.msixEnable.toNat)
  else if a = 0x54 then some 0x80000
  else if a = 0x58 then some 0x88000
  else if a = 0x78 then some p.deviceControl
  else if a = 0x98 then some p.deviceControl2
  else if a = 0x104 then some p.aer.toNat
  else if a = 0x108 || a = 0x10C || a = 0x114 || a = 0x274 then some (p.cfgReg a).toNat
  else if a = 0x110 then some p.aerCor.toNat
  else if 0x11C ≤ a && a < 0x12C then some (p.headerWord ((a - 0x11C) / 4))
  else if a = 0x14C then some (s.power.board.serial.toNat % 2 ^ 32)
  else if a = 0x150 then some (s.power.board.serial.toNat / 2 ^ 32)
  else if a = 0x27C then some (0x0001 + 2 ^ 16 * 1 + 2 ^ 20 * 0x18)
  else if a = 0x280 then some 0xF0000
  else if a = 0x284 then some Config.directoryVersion.toNat
  else if a = 0x288 then some (s.power.board.ordering.code + 256 * revisionId + 2 ^ 16 * s.dies)
  else if a = 0x28C then some 0
  else match extCapabilities.find? (·.1 == a) with
    | some c => some (c.2.1 + 2 ^ 16 * c.2.2 + 2 ^ 20 * extNext a)
    | none => none

/-- Bits of a dword of configuration space that Table 15.1, R344 and the PCI Express specification's layouts give (PRESUMED,
log entry 106): their mask and their value. The other bits are free. -/
def State.configGiven (s : State) (a : Nat) : Nat × Nat :=
  let head := match capabilities.find? (·.1 == a) with
    | some c => c.2 + 256 * capNext a
    | none => 0
  match a with
  | 0x40 => (0xFE07FFFF, head + 2 ^ 16 * 3 + 2 ^ 30)
  | 0x70 => (0x01FFFFFF, head + 2 ^ 16 * 2)
  | 0x74 => (0x10000027, 2 + 32 + 2 ^ 28)
  | 0x7C => (0x00000FFF, 6 + 16 * 16 + 2 ^ 10 * 2)
  | 0x80 => (0x03FFFFFF, (s.pcie.cfgReg 0x80).toNat + 2 ^ 16 * (s.regF PCI_LINK 0 4 + 16 * s.regF PCI_LINK 4 5))
  | 0x94 => (0x0003081F, 15 + 2 ^ 11 + 2 ^ 16 + 2 ^ 17)
  | 0x9C => (0x000000FF, 0x7E)
  | 0x118 => (0x000001FF, s.pcie.aerFirst)
  | 0x18C => (0x00000001, 1)
  | 0x264 => (0x0000001F, 0x1F)
  | 0x268 => (0x0000000F, (s.pcie.cfgReg 0x268).toNat)
  | _ => (0, 0)

/-- A dword whose bits are given in part, the others free. -/
def State.configPart (s : State) (a free : Nat) : Nat := s.configGiven a |> fun g => (g.2 &&& g.1) ||| (free &&& (2 ^ 32 - 1 - g.1))

/-- The link rests in L1: in STANDBY, when the host has enabled ASPM L1 (R344, R419). -/
def State.linkL1 (s : State) : Bool := s.pcie.linkUp && s.pwr == 3 && bit (s.pcie.cfgReg 0x80) 1
/-- Of the substates that the host has enabled for ASPM, the deepest: L1.2, else L1.1. -/
def State.l1Substate (s : State) : Nat :=
  if !s.linkL1 then 0 else if bit (s.pcie.cfgReg 0x268) 2 then 2 else if bit (s.pcie.cfgReg 0x268) 3 then 1 else 0

/-- The host writes a dword of configuration space: Memory Space Enable, the BARs, the settings of R349, MSI-X control, PME
enable, status bits, which a 1 clears, and the bits held in `cfg`. Bus Master Enable, PowerState, Function Level Reset and
PME status have commands of their own. -/
def PcieState.configWrite (p : PcieState) (a : Nat) (v : Word) : PcieState :=
  let n := v.toNat
  let p := if cfgRw a = 0 then p else { p with cfg := Tbl.put p.cfg a (v &&& BitVec.ofNat 32 (cfgRw a)) }
  if a = 0x04 then { p with memSpace := bit v 1 }
  else if a = 0x10 then { p with bar0 := BitVec.ofNat 64 (p.bar0.toNat / 2 ^ 32 * 2 ^ 32 + n / 2 ^ 26 * 2 ^ 26) }
  else if a = 0x14 then { p with bar0 := BitVec.ofNat 64 (p.bar0.toNat % 2 ^ 32 + n * 2 ^ 32) }
  else if a = 0x1C then { p with bar2 := BitVec.ofNat 64 (n / 16 * 2 ^ 36) }
  else if a = 0x30 then { p with romBar := BitVec.ofNat 32 (n / 2 ^ 24 * 2 ^ 24 + n % 2) }
  else if a = 0x44 then { p with pmeEn := bit v 8 }
  else if a = 0x50 then { p with msixMask := bit v 30, msixEnable := bit v 31 }
  else if a = 0x78 then { p with
    relaxedOrdering := bit v 4, maxPayload := 128 * 2 ^ min 2 (fld v 5 3), extendedTag := bit v 8
    maxReadRequest := 128 * 2 ^ min 5 (fld v 12 3), devStatus := p.devStatus &&& ~~~(BitVec.ofNat 4 (n / 2 ^ 16)) }
  else if a = 0x98 then { p with completionTimeout := BitVec.ofNat 4 n, tenBitTag := bit v 12 }
  else if a = 0x104 then { p with aer := p.aer &&& ~~~v }
  else if a = 0x110 then { p with aerCor := p.aerCor &&& ~~~v }
  else p

/-! ### The test access port (R413) -/

/-- IDCODE: the stepping letter code, the Device ID, the manufacturer's field, which the part's boundary-scan description
gives and the spec does not (free; log entry 107), and the 1 of IEEE 1149.1. -/
def State.idcode (s : State) : Word :=
  BitVec.ofNat 32 (revisionId / 16 * 2 ^ 28 + s.deviceId * 2 ^ 12 + Config.jtagManufacturer.toNat * 2 + 1)

/-- The register that the instruction puts between TDI and TDO. -/
def State.tapRegister (s : State) : List Bool :=
  match s.out.tap.instr with
  | .idcode => (List.range 32).map fun k => s.idcode.getLsbD k
  | .samplePreload => s.out.tap.boundary
  | .extest => s.out.tap.boundary
  | .bypass => [false]
  | .clamp => [false]
  | .highz => [false]

end Sys2Proof.Machine
end

