-- ==== Sys2Proof/Machine/View.lean ====
section
/-!
DEFINITION. What reads of BAR 0 return (Table 15.7, R438 to R441): registers that follow the state, latched halves, RC fields,
the mailboxes; writes under DIAG_UNLOCK (R442); the unlock itself (R443 to R445).
-/
namespace Sys2Proof.Machine

/-! ### Power domains (R417, R418, Table 18.2) -/

def State.laneOn (s : State) (n : Nat) : Bool := s.lnMode n != 0 && !s.lnGone n && !s.laneAbsent n

/-- Placed units of a weave: sequences, terms, compare jobs and histograms. -/
def State.weavePlaced (s : State) (w : Nat) : Bool :=
  let p := s.weaver.place
  p.seqs.any (fun q => q.sq / 8 == w) || p.terms.any (fun t => t.weave == w) || p.cmps.any (fun c => c.cu / 2 == w) ||
    p.hists.any (fun h => h.hu == w)

/-- Stakes that a placed term uses. -/
def State.stakePlaced (s : State) (k : Nat) : Bool :=
  s.weaver.place.terms.any fun t => t.weave == k / 3 && match termAt t.weave t.number with
    | some u => u.lanes.any fun n => n / 16 == k
    | none => false

/-- Domain `d` is powered (log entry 56 for the work that keeps a domain on). -/
def State.domainOn (s : State) (d : Nat) : Bool :=
  let run := !s.asleep
  let sleep := s.pwr == 4
  let stakeOn := fun (k : Nat) => !s.stakeAbsent k && (s.stakePlaced k || (List.range 16).any fun l => s.laneOn (16 * k + l))
  let portOn := fun (p : Nat) => !s.portAbsent p && !s.ppRetired p
  if d < 192 then run && s.laneOn d
  else if d < 204 then run && stakeOn (d - 192) && !s.isRetired (uStake (d - 192))
  else if d < 208 then
    let w := d - 204
    run && !s.weaveAbsent w && (s.weavePlaced w || (List.range 3).any (fun k => stakeOn (3 * w + k)) ||
      (List.range 4).any fun k => portOn (4 * w + k))
  else if d < 224 then run && portOn (d - 208)
  else if d < 240 then !s.chanRetired (d - 224)
  else if d < 256 then run && !s.isRetired (uCe (d - 240)) && s.weaver.place.streams.any fun p => p.engine == some (d - 240)
  else if d < 264 then run && !s.isRetired (uDe (d - 256)) && s.weaver.place.cmps.any fun c => c.de == d - 256
  else if d < 266 then run && !(s.halfPart && d == 265)
  else if d < 268 then !sleep && !(s.halfPart && d == 267)
  else if d = 268 then true
  else if d = 269 then true
  else if d < 273 then !sleep
  else if d = 273 then true
  else if d < 280 then !sleep
  else run && s.weaver.place.ivals.any fun u => u.iu / 4 == d - 280 && !s.isRetired (uIu u.iu)

def State.domainWord (s : State) (i : Nat) : Word :=
  BitVec.ofNat 32 (sumOn ((List.range 32).filter fun j => decide (32 * i + j < 284) && s.domainOn (32 * i + j)) fun j => 2 ^ j)

/-! ### Registers that follow the state -/

/-- STATUS (Table 17.3). -/
def State.vavail (s : State) : Bool := (s.queue 1).pkts (qKind 1) != 0
def State.stnStatus (s : State) : Nat :=
  let q := s.queue 0
  s.station.hold.toNat + 2 * s.vavail.toNat + 4 * s.station.lastEnd.toNat +
    8 * (q.rejecting || q.skipState || decide (q.visible < q.occ)).toNat + 16 * s.station.skipped.toNat +
    32 * s.time.armed.toNat + 64 * sat 1023 ((s.queue 1).pkts (qKind 1))

/-- ALIVE (Table 15.8). -/
def State.alive (s : State) : Word :=
  let st := if s.pcie.flr then 4 else match s.pwr with
    | 1 => 1
    | 2 => 2
    | 3 => 3
    | 4 => 3
    | 7 => 15
    | _ => 0
  setFld (setFld (s.reg ALIVE) 12 4 st) 16 16 0x4B5A

/-- Milliseconds since the time base entered holdover; 0 outside it. -/
def State.holdoverMs (s : State) : Nat :=
  if s.tb != 1 then 0
  else match s.time.tbHist.getLast? with
    | some h => sat (2 ^ 14 - 1) ((s.now - h.1) / 204800000)
    | none => 0

/-- HU_STATUS (Table 7.4). -/
def State.huStatus (s : State) (h : Nat) : Nat :=
  let ps := s.weaver.place.hists.filter fun p => p.hu == h
  let map := ps.any fun p => rgMap (s.rgCfg h p.region)
  let spill := (s.hist h).spillOrder
  map.toNat + 2 * ps.length + 64 * (!spill.isEmpty).toNat + 128 * spill.headD 0 +
    2048 * (s.weaver.tests.any fun t => uaIsSlice t.unit && uaUnit t.unit == uHu h).toNat +
    4096 * (s.regBit (HU_STATUS h) 12).toNat

/-- A queue's registers that follow it (Table 10.5): by offset. -/
def State.queueReg (s : State) (q o : Nat) : Option Nat :=
  let d := s.queue q
  match o with
  | 0x04 => some d.occ
  | 0x08 => some d.depth
  | 0x0C => some (d.pkts (qKind q))
  | 0x14 => some ((decide (d.occ = (qKind q).cap)).toNat + 2 * (s.regBit (HUB_Q q 0x14) 1).toNat + 4 * d.mark.isSome.toNat +
      8 * d.markLost.toNat + 16 * d.skip.isSome.toNat + 32 * d.skipState.toNat + 64 * d.stalled.isSome.toNat)
  | _ => none

/-- A running timer shows the slots elapsed since its start (Table 5.10). -/
def State.timerReg (s : State) (q i : Nat) (hi : Bool) : Option Nat :=
  match Tbl.find? (s.seq q).timers i with
  | none => none
  | some t =>
    if !bit (s.reg (SQ_TMR_HI q i)) 16 then none
    else
      let v := min ((s.now - t.start) / slotFt) (s.sqTimerLimit q i)
      some (if hi then v / 2 ^ 32 + (if v < s.sqTimerLimit q i then 2 ^ 16 else 0) else v % 2 ^ 32)

/-- An engine serves a stream: one of its slots holds a stream whose member is in progress (log entry 67). -/
def State.ceBusy (s : State) (n : Nat) : Bool :=
  !s.isRetired (uCe n) && (List.range 8).any fun k =>
    let r := s.reg (CE_SLOT n k)
    bit r 12 && (s.stream (fld r 0 12)).memberOpen

/-- DE_STATUS.STATE: 1 while the engine plays for a job, 2 while it is away from its job, 3 while it returns for an anchor,
else 0 (R261; log entry 67). -/
def State.deState (s : State) (n : Nat) : Nat :=
  let called := s.time.armed && s.weaver.place.cmps.any fun c => c.de == n && ((s.cmp c.cu).step.isSome || !(s.cmp c.cu).anchors.isEmpty)
  let plays := s.time.armed && s.weaver.place.cmps.any fun c => c.de == n && (s.cmp c.cu).step.isSome
  if (s.de n).away then if called then 3 else 2 else if plays then 1 else 0

/-- IU_STATUS (Table 8.7): whether the unit is idle, awaits a start, measures or has a window open (log entry 102), and the
state of the time base. -/
def State.iuStatus (s : State) (iu : Nat) : Nat :=
  let c := s.iuCfg iu
  let st := if !s.time.armed || !iuEnable c then 0 else if s.ivPending iu then 2 else if (s.ival iu).window.isSome then 3 else 1
  st + 4 * s.tb

/-- A flush of the ledger is due or runs: one was asked for, or queue 3 has reached HIGH (R240, R379). -/
def State.flushing (s : State) : Bool := s.regBit LG_STATUS 6 || (s.regBit (HUB_Q 3 0x14) 1 && !s.regBit LG_STATUS 3)

/-- The register's value where it follows the state; none where the register file holds it. `free` stands for what only a
running clock could show: STN_CLK's last edge and the longest blocking (log entry 57). -/
def State.liveReg (s : State) (a free : Nat) : Option Nat :=
  let hub := fun (base : Nat) => a - base
  if a = ALIVE then some s.alive.toNat
  else if a < 0x100000 then none
  else if a < 0x1000000 then
    if a = HUB_HEALTH then some ((s.reg a).toNat % 16 + 16 * sat 31 s.weaver.tests.length)
    else if 0x104000 ≤ a && a < 0x1040A0 then s.queueReg (hub 0x104000 / 32) (hub 0x104000 % 32)
    else if a = PCI_OUTSTANDING then some (sat 1023 s.pcie.outstanding.length)
    else if a = PCI_LINK_HOLD then some s.power.board.linkHold
    else if 0x102000 ≤ a && a < 0x102200 && a % 16 = 0 then
      let b := s.box (hub 0x102000 / 16)
      some ((s.reg a).toNat / 4 * 4 + b.owner.toNat + 2 * (b.started && b.taken.isSome).toNat)
    else if a = STN 0 then some (s.stnStatus + 2 ^ 16 * (free % 2))
    else if a = STN_ALERT then some s.alertBits
    else if a = STN_PRELOAD then some s.power.board.syncPreload
    else if a = PWR_STATE then some ((s.reg a).toNat / 16 * 16 + s.pwr + 8 * s.pcie.d3hot.toNat)
    else if 0x107010 ≤ a && a < 0x107034 then some (s.domainWord (hub 0x107010 / 4)).toNat
    else if a = CLK_HOLDOVER then some s.holdoverMs
    else if a = LG_USED then some (s.ledgerBytes false + s.ledgerBytes true)
    else if a = LG_STATUS then some ((setBit (s.reg a) 6 s.flushing).toNat % 2 ^ 8 + 2 ^ 8 * s.ledger.key.isSome.toNat)
    else if a = LG_KEY_ID then some s.ledger.keyId.toNat
    else if 0x110000 ≤ a && a < 0x111000 then
      let n := hub 0x110000 / 0x100
      let e := s.ce n
      match a % 0x100 with
      | 0x00 => some ((s.reg a).toNat % 256 + (s.ceBusy n).toNat + 256 * (e.testing || s.underTest (uCe n)).toNat +
          512 * (s.isRetired (uCe n)).toNat)
      | 0x08 => e.inHi.map (·.toNat)
      | 0x10 => e.outHi.map (·.toNat)
      | _ => none
    else if 0x120000 ≤ a && a < 0x120800 then
      let n := hub 0x120000 / 0x100
      match a % 0x100 with
      | 0x00 => some ((s.reg a).toNat / 2 ^ 16 * 2 ^ 16 + s.deState n + 4 * (s.de n).diag.toNat +
          8 * ((s.de n).testing || s.underTest (uDe n)).toNat + 16 * (s.isRetired (uDe n)).toNat)
      | 0x08 => (s.de n).outHi.map (·.toNat)
      | _ => none
    else if 0x200000 ≤ a && a < 0x210000 && a % 0x1000 = 0x020 then some (free % 2 ^ 16)
    else if 0x200000 ≤ a && a < 0x210000 && a % 0x1000 = 0x01C then
      let d := s.sched (hub 0x200000 / 0x1000)
      some (d.queue.length + 128 * d.drain.toNat)
    else none
  else
    let d := a / 0x1000000 - 1
    let o := a % 0x1000000
    if s.asleep || (s.halfPart && d == 1) || s.modules d == 0 then some 0
    else if o < 0x10000 then
      let n := 96 * d + o / 0x40
      if o % 0x40 = 0x18 then
        some ((s.reg a).toNat % 4 + (s.reg a).toNat / 64 * 64 + 4 * (s.lnState n).toNat +
          16 * (s.lane n).l.burst.isSome.toNat + 32 * (s.lane n).u.burst.isSome.toNat)
      else none
    else if 0x40000 ≤ o && o < 0x50000 then
      let q := 16 * d + (o - 0x40000) / 0x1000
      let r := o % 0x1000
      if 0xC0 ≤ r && r < 0x100 && r % 16 = 0 then s.timerReg q ((r - 0xC0) / 16) false
      else if 0xC0 ≤ r && r < 0x100 && r % 16 = 4 then s.timerReg q ((r - 0xC0) / 16) true
      else none
    else if 0x50000 ≤ o && o < 0x52000 && o % 0x1000 = 0 then some (s.huStatus (2 * d + (o - 0x50000) / 0x1000))
    else if 0x70000 ≤ o && o < 0x70800 then
      let r := o % 0x100
      if r = 0x10 then some (s.iuStatus (8 * d + (o - 0x70000) / 0x100))
      else if 0x24 ≤ r && r ≤ 0x44 then
        ((s.ival (8 * d + (o - 0x70000) / 0x100)).latched.bind fun l => l[(r - 0x24) / 4]?).map (·.toNat)
      else none
    else none

/-- What firmware and the ledger read: no side effect (R440). Reserved space reads zero. -/
def State.peek (s : State) (a free : Nat) : Word :=
  if (regSpec a).isNone then 0 else BitVec.ofNat 32 ((s.liveReg a free).getD (s.reg a).toNat)

/-! ### Host reads (R438 to R440) -/

/-- RC bits of a register. -/
def rcMask (a : Nat) : Nat := match regSpec a with | some sp => sp.rc | none => 0

/-- The latches that a read of a _LO register sets (Tables 8.8, 11.8, 11.9). -/
def State.latch (s : State) (a : Nat) : State :=
  if 0x110000 ≤ a && a < 0x111000 then
    let n := (a - 0x110000) / 0x100
    match a % 0x100 with
    | 0x04 => s.modCe n fun e => { e with inHi := some (s.reg (a + 4)) }
    | 0x0C => s.modCe n fun e => { e with outHi := some (s.reg (a + 4)) }
    | _ => s
  else if 0x120000 ≤ a && a < 0x120800 && a % 0x100 = 0x04 then
    s.modDe ((a - 0x120000) / 0x100) fun e => { e with outHi := some (s.reg (a + 4)) }
  else if 0x1000000 ≤ a && 0x70000 ≤ a % 0x1000000 && a % 0x1000000 < 0x70800 && a % 0x100 = 0x20 then
    let n := 8 * (a / 0x1000000 - 1) + (a % 0x1000000 - 0x70000) / 0x100
    s.modIval n fun d => { d with latched := some ((List.range 9).map fun k => s.reg (IU n (0x24 + 4 * k))) }
  else s

/-- One register read by the host: its value, its latch set, its RC fields cleared. -/
def State.readReg (s : State) (a : Nat) : Word × State :=
  let d := s.draw 32
  let v := d.2.peek a d.1.toNat
  let s := d.2.latch a
  let gone := decide (0x1000000 ≤ a) && (s.asleep || s.modules (a / 0x1000000 - 1) == 0)
  let m := BitVec.ofNat 32 (rcMask a)
  (v, if m = 0 || gone then s else s.setReg a (s.reg a &&& ~~~m))

/-! ### Mailboxes as memory (Table 14.1) -/

/-- The 32 bytes of the header that the host writes. -/
def Mailbox.hostBytes (b : Mailbox) : List Byte :=
  match b.image with
  | some i => leBytes 2 i.code.toNat ++ leBytes 2 i.tag.toNat ++ leBytes 4 i.length.toNat ++ leBytes 4 i.handle.toNat ++
      leBytes 2 i.vector.toNat ++ [i.flags] ++ padTo 17 i.rsv
  | none => List.replicate 32 0

/-- The header of these 32 bytes, with a payload. -/
def MbImage.ofBytes (h payload : List Byte) : MbImage :=
  { code := BitVec.ofNat 16 (getLe h 0 2), tag := BitVec.ofNat 16 (getLe h 2 2), length := BitVec.ofNat 32 (getLe h 4 4)
    handle := BitVec.ofNat 32 (getLe h 8 4), vector := BitVec.ofNat 16 (getLe h 12 2), flags := h.getD 14 0
    rsv := slice h 15 17, payload := payload }

/-- A byte that the host writes into a mailbox; while OWNER is 1 it is discarded (R322), and so is one for a field that the
device writes (log entry 106). -/
def Mailbox.hostByte (b : Mailbox) (off : Nat) (v : Byte) : Mailbox :=
  if b.owner || (0x20 ≤ off && off < 0x40) then b
  else if off < 0x20 then { b with image := some (MbImage.ofBytes (b.hostBytes.set off v) b.payload) }
  else
    let p := (padTo (max b.payload.length (off - 0x3F)) b.payload).set (off - 0x40) v
    { b with image := some (MbImage.ofBytes b.hostBytes p), payload := p }

/-- The 4,096 bytes of a mailbox. -/
def Mailbox.bytes (b : Mailbox) : List Byte :=
  b.hostBytes ++ leBytes 2 b.status.toNat ++ leBytes 2 b.detail.toNat ++ leBytes 4 b.rlength.toNat ++ leBytes 4 b.epoch.toNat ++
    leBytes 4 b.health.toNat ++ leBytes 2 b.rtag.toNat ++ leBytes 6 0 ++ leBytes 4 b.respUs.toNat ++ leBytes 4 b.owner.toNat ++
    padTo 4032 b.payload

/-- A byte of BAR 0 outside the register file and ALIVE: the mailboxes, the MSI-X table and the PBA; the rest reads zero here. -/
def State.bar0Byte (s : State) (a : Nat) : Byte :=
  if 0x10000 ≤ a && a < 0x30000 then ((s.box ((a - 0x10000) / 4096)).bytes).getD (a % 4096) 0
  else if 0x80000 ≤ a && a < 0x88000 then
    BitVec.ofNat 8 ((s.pcie.msixWord ((a - 0x80000) / 4)).toNat / 2 ^ (8 * (a % 4)))
  else if 0x88000 ≤ a && a < 0x88100 then
    BitVec.ofNat 8 (sumOn ((List.range 8).filter fun j => s.pcie.pba.contains (8 * (a - 0x88000) + j)) fun j => 2 ^ j)
  else 0

/-- The result of a read goes out. -/
def State.putRead (s : State) (data : DWord) (bytes : List Byte) (ur : Bool) : State :=
  s.modOut fun o => { o with readData := data, readOk := !ur, readUr := ur, readPoisoned := false, readBytes := bytes }

/-- A read of BAR 0 of `bits` bits. In D3hot it ends in Unsupported Request (R350); with the link down none arrives. During a
Function Level Reset it returns ALIVE at offset 0 and zero elsewhere (R367). -/
def State.bar0Read (s : State) (a bits : Nat) : State :=
  if !s.pcie.linkUp then s
  else if s.pcie.d3hot then (s.aerError 20 true true).putRead 0 [] true
  else if s.pcie.flr then s.putRead (if a = ALIVE then s.alive.setWidth 64 else 0) (List.replicate (if a = ALIVE then 0 else bits / 8) 0) false
  else if 0x10000 ≤ a && a < 0x100000 then
    let bs := (List.range (bits / 8)).map fun k => s.bar0Byte (a + k)
    s.putRead (BitVec.ofNat 64 (leNat (bs.take 8))) bs false
  else if (bits ≠ 32 && bits ≠ 64) || a % 4 ≠ 0 then s.putRead 0 [] false
  else
    let r := s.readReg a
    if bits = 32 then r.2.putRead (r.1.setWidth 64) [] false
    else
      let h := r.2.readReg (a + 4)
      h.2.putRead (BitVec.ofNat 64 (r.1.toNat + 2 ^ 32 * h.1.toNat)) [] false

/-- A read of the expansion ROM (R351): with the BAR disabled, or in D3hot, nothing answers it. -/
def State.romRead (s : State) (a bits : Nat) : State :=
  if !s.pcie.linkUp then s
  else if s.pcie.d3hot || !s.romDecodes then (s.aerError 20 true true).putRead 0 [] true
  else
    let r := s.romBytes (a % 2 ^ 24) (bits / 8)
    r.2.putRead (BitVec.ofNat 64 (leNat (r.1.take 8))) r.1 false

/-- A read of a dword of configuration space; before READY it is told to retry, which the model shows as a read that is not
answered (R369). -/
def State.configRead (s : State) (a : Nat) : State :=
  if !s.pcie.linkUp then s
  else if s.pwr = 0 then s.modOut fun o => { o with readData := 0, readOk := false, readUr := false, readPoisoned := false, readBytes := [] }
  else
    let d := s.draw 32
    d.2.putRead (BitVec.ofNat 64 ((s.configWord (a % 4096 / 4 * 4)).getD (s.configPart (a % 4096 / 4 * 4) d.1.toNat))) [] false

/-- The completion of a read carries its request's attributes (R361). -/
def State.readAttr (s : State) (attr : BitVec 3) : State :=
  if s.pcie.linkUp then s.modOut fun o => { o with readAttr := attr } else s

def execRcRegisterRead (addr : HostAddr) (bits : Nat) (s : State) : Host.Outcome State Fault Refusal :=
  .next (
    let s := s.readAttr addr.attr
    match addr.space with
    | .bar0 => s.bar0Read addr.off.toNat bits
    | .rom => s.romRead addr.off.toNat bits
    | .config => s.configRead addr.off.toNat)

/-- Address of an engine's _LO counter. -/
def loAddr : LoCounter → Nat
  | .ceIn n => CE n 0x04
  | .ceOut n => CE n 0x0C
  | .deOut n => DE n 0x04

def execLoCounterRead (c : LoCounter) (s : State) : Host.Outcome State Fault Refusal := .next (s.bar0Read (loAddr c) 32)

/-- A read of IU_RES_VALUE_LO returns it and latches the whole current result (Table 8.8). -/
def execIuResValueLoRead (iu : Fin 16) (s : State) : Host.Outcome State Fault Refusal := .next (s.bar0Read (IU iu 0x20) 32)

/-! ### Host writes (R442) -/

/-- One register takes a host write: RW bits, W1C bits and WO bits act; the fields' ranges follow R10 and R11. START of a
sweep step (Table 12.10) clears DONE and the counters. -/
def State.hostWrite (s : State) (a : Nat) (v : Word) : State :=
  match regSpec a with
  | none => s
  | some sp =>
    let rw := BitVec.ofNat 32 sp.rw
    let w1c := BitVec.ofNat 32 sp.w1c
    let s := s.setReg a (((s.reg a &&& ~~~rw) ||| (v &&& rw)) &&& ~~~(v &&& w1c))
    let n := (a - 0x200000) / 0x1000
    if 0x200000 ≤ a && a < 0x210000 && a % 0x1000 = 0x100 && bit v 0 && !s.regBit a 5 then
      let s := (s.setRegBit a 5 true).setRegBit a 6 false
      let s := s.each (List.range 24) fun s p => s.setReg (MC_TRN_ERR n p) 0
      s.modChan n fun c => { c with sweeping := true }
    else if 0x105000 ≤ a && a < 0x105020 && a % 8 = 0 && !s.regBit a 17 then s.setTout ((a - 0x105000) / 8) ToutDyn.init
    else s.each ((List.range 5).filter fun q => a == HUB_Q q 0) State.followWater

/-- A capture die answers: fitted, awake, with a module in service. -/
def State.dieReachable (s : State) (a : Nat) : Bool :=
  if a < 0x1000000 then true
  else
    let d := a / 0x1000000 - 1
    !s.asleep && !(s.halfPart && d == 1) && s.modules d != 0

/-- A write of the MSI-X table; unmasking a vector sends its pending message (R366). -/
def State.msixWrite (s : State) (a : Nat) (value : DWord) (bits : Nat) : State :=
  let put := fun (s : State) (i : Nat) (v : Nat) => s.modPcie fun p => { p with
    msix := if i % 4 = 3 then Tbl.set p.msix i (BitVec.ofNat 32 (v % 2)) 1 else Tbl.set p.msix i (BitVec.ofNat 32 v) 0 }
  let i := (a - 0x80000) / 4
  let s := put s i value.toNat
  (if bits = 64 && i + 1 < 8192 then put s (i + 1) (value.toNat / 2 ^ 32) else s).sendPending

/-- A write of mailbox memory, of any size (Table 15.7). -/
def State.mailboxWrite (s : State) (a : Nat) (bytes : List Byte) : State :=
  s.each (bytes.zipIdx.filter fun x => decide (a + x.2 < 0x30000)) fun s x =>
    s.modBox ((a + x.2 - 0x10000) / 4096) fun b => b.hostByte ((a + x.2) % 4096) x.1

/-- A write request is accepted or discarded whole, but that a half which falls on an absent or unpowered die is discarded
(R4); a collision with a firmware write loses it, and poisoned data are discarded (R365). -/
def State.registerWrite (s : State) (a : Nat) (value : DWord) (attr : WriteAttr) (collides : Bool) : State :=
    if !s.pcie.linkUp then s
    else if s.pcie.d3hot || attr.poisoned then s.seeWrite attr.poisoned
    else if s.pcie.flr then s
    else if 0x80000 ≤ a && a < 0x88000 && a % 4 = 0 && (attr.bits = 32 || attr.bits = 64) then s.msixWrite a value attr.bits
    else if 0x10000 ≤ a && a < 0x30000 then s.mailboxWrite a (leBytes (min 8 (attr.bits / 8)) value.toNat)
    else if !s.unlocked || a % 4 ≠ 0 || a < 0x100000 || (attr.bits ≠ 32 && attr.bits ≠ 64) then s
    else
      let here := fun (x : Nat) => decide (x < 0x3000000) && s.dieReachable x
      let hi := attr.bits = 64 && here (a + 4)
      let s1 := if here a || hi then s.addRegF HUB_RF_STATE 16 16 1 else s
      if collides then s1
      else
        let s2 := if here a then s1.hostWrite a (value.setWidth 32) else s1
        if hi then s2.hostWrite (a + 4) ((value >>> 32).setWidth 32) else s2

/-- The expansion ROM discards writes (R351). -/
def execRegisterWrite (addr : HostAddr) (value : DWord) (attr : WriteAttr) (collides : Bool) (s : State) :
    Host.Outcome State Fault Refusal :=
  .next (match addr.space with
    | .bar0 => s.registerWrite addr.off.toNat value attr collides
    | .rom => if s.pcie.linkUp then s.seeWrite attr.poisoned else s
    | .config =>
      if !s.pcie.linkUp || s.pwr = 0 then s
      else
        let a := addr.off.toNat % 4096 / 4 * 4
        let s := s.modPcie fun p => p.configWrite a (value.setWidth 32)
        if a = 0x50 then s.sendPending else s)

/-! ### DIAG_UNLOCK (R443 to R445, Table 19.6) -/

/-- The lock of Table 19.6: RW fields return to what firmware last wrote, the digests are computed, the record is made. -/
def State.lockFile (s : State) : State :=
  if !s.unlocked then s
  else
    let lapse := s.reg HUB_RF_LAPSE
    let s := s.setRegBit HUB_RF_STATE 0 false
    let s := s.each (s.regs.keys ++ s.fwRegs.keys) fun s a =>
      let m := BitVec.ofNat 32 (rwMask a)
      s.setReg a ((s.reg a &&& ~~~m) ||| (s.fwReg a &&& m))
    let s := s.each (List.range 5) State.followWater
    let s := s.each ([0, 1, 2].filter fun d => !(s.halfPart && d == 1) && !(d != 2 && s.asleep)) fun s d => s.checkDie d [] false
    let s := s.setReg HUB_RF_LAPSE 0
    s.ledgerReq 0x0034 1 noUnit 0x11 (leBytes 4 0 ++ leBytes 4 lapse.toNat)

/-- The DIAG_LOCKED notice of a lapse or a power-state entry. -/
def State.lapseLock (s : State) : State :=
  if !s.unlocked then s
  else
    let lapse := (s.reg HUB_RF_LAPSE).toNat
    s.lockFile.notice 0x16 [.f4 lapse]

/-- The unlock lapses once its second has come. -/
def execUnlockLapse (s : State) : Host.Outcome State Fault Refusal :=
  .next (if s.unlocked && decide ((s.reg HUB_RF_LAPSE).toNat ≤ s.opSeconds.toNat) then s.lapseLock else s)

def checkDiag (p : List Byte) : List (Option Nat) :=
  [ ckFld p 0 0 8 (· ≤ 1), ckZero p 1 1
  , if getLe p 0 1 = 1 then ckFld p 2 0 16 (fun n => 1 ≤ n && n ≤ 60) else ckZero p 2 2
  , ckFld p 4 0 32 (fun c => c == if getLe p 0 1 = 1 then 0x4B5A554C else 0) ]

def diagUnlockCmd (img : MbImage) (s : State) : State × Option Response :=
  if s.time.armed then refuse s stBusy 0
  else
    let lapse := s.opSeconds + BitVec.ofNat 32 (60 * getLe img.payload 2 2)
    let s := if s.unlocked then s else s.setReg HUB_RF_STATE 1
    let s := (s.setReg HUB_RF_LAPSE lapse).ledgerReq 0x0034 1 noUnit 0x11 (leBytes 4 1 ++ leBytes 4 lapse.toNat)
    done s (leBytes 4 lapse.toNat)

def execDiagUnlock (m : Fin 32) (s : State) : Host.Outcome State Fault Refusal :=
  .next (s.runCommand m 0x0072 (fun img => getLe img.payload 0 1 == 1) diagUnlockCmd)

/-- A lock is refused while armed as well: R336 refuses the command; locked already, it does nothing. -/
def diagLockCmd (_ : MbImage) (s : State) : State × Option Response :=
  if s.time.armed then refuse s stBusy 0 else done s.lockFile (leBytes 4 0)

def execDiagLock (m : Fin 32) (s : State) : Host.Outcome State Fault Refusal :=
  .next (s.runCommand m 0x0072 (fun img => getLe img.payload 0 1 == 0) diagLockCmd)

end Sys2Proof.Machine
end

