-- ==== Sys2Proof/Machine/Ledger.lean ====
section
/-!
DEFINITION. The ledger (chapter 16): creation of records with their snapshots (R372 to R378, R383, R384), restoring and
scrubbing of banks (R392 to R395), operating seconds (R387), and the LEDGER commands and TIME_NOTE (R385 to R391).
-/
namespace Sys2Proof.Machine

/-! ### Snapshots (R375, R376) -/

/-- RELATIVE, bit 31 of a list entry. -/
def relative (off : Nat) : Word := BitVec.ofNat 32 (2 ^ 31 + off)

/-- The lists of Table 16.5 at first start-up. -/
def defaultSnaps : Nat → List Word
  | 0x01 => [0x00, 0x04, 0x08, 0x10, 0x14, 0x18].map relative
  | 0x02 => [0x00, 0x0C, 0x10, 0x14].map relative
  | 0x03 => [0x18, 0x1C, 0x10].map relative
  | 0x04 => [0x04, 0x18, 0x1C].map relative
  | 0x05 => [0x00, 0x08, 0x10, 0x14].map relative
  | 0x07 => [0x00, 0x24, 0x28].map relative
  | 0x08 => [0x00, 0x30].map relative
  | 0x10 => [0x08, 0x80, 0x90, 0xA0, 0xB0].map relative
  | 0x12 => [BitVec.ofNat 32 HUB_HEALTH, BitVec.ofNat 32 PCI_LINK]
  | _ => []

def State.snapList (s : State) (trigger : Nat) : List Word := Tbl.getD s.ledger.snaps trigger (defaultSnaps trigger)

/-- Absolute offset of an entry and whether its register can be read. -/
def State.snapAddr (s : State) (unit e : Word) : Nat × Bool :=
  if bit e 31 then
    match uaBlock unit with
    | some b => (b.1 + fld e 0 26, decide (fld e 0 26 < b.2) && s.dieReachable b.1)
    | none => (fld e 0 26, false)
  else (fld e 0 26, s.dieReachable e.toNat)

/-- A snapshot entry of 8 bytes: value, offset, VALID. -/
def State.snapWord (s : State) (unit e : Word) : DWord × State :=
  let a := s.snapAddr unit e
  let d := s.draw 32
  if a.2 then (pack64 [(0, 32, (s.peek a.1 d.1.toNat).toNat), (32, 26, a.1), (63, 1, 1)], d.2)
  else (pack64 [(32, 26, a.1)], s)

def State.snapWords (s : State) (unit : Word) : List Word → List DWord × State
  | [] => ([], s)
  | e :: t =>
    let r := s.snapWord unit e
    let x := r.2.snapWords unit t
    (r.1 :: x.1, x.2)

/-! ### Creation (R372, R373, R383, R384) -/

def recordLength (body snaps : Nat) : Nat := max 64 (40 + body + 8 * snaps)

/-- The bytes of a record with this SEQ (Table 16.3). -/
def State.recordBytes (s : State) (seq : Nat) (r : LedgerReq) (backward volatile tail : Bool) (snaps : List DWord) : List Byte :=
  let len := recordLength r.body.length snaps.length
  let flags := r.severity.toNat + 8 * backward.toNat + 16 * volatile.toNat + 32 * tail.toNat
  let p := leBytes 8 seq ++ leBytes 4 s.opSeconds.toNat ++ leBytes 4 (s.reg LG_POWER_CYCLES).toNat ++ leBytes 4 r.unit.toNat ++
    leBytes 2 r.type.toNat ++ leBytes 1 flags ++ leBytes 1 snaps.length ++ leBytes 2 len ++ leBytes 1 r.body.length ++
    leBytes 1 r.trigger.toNat ++ leBytes 4 s.epochNo.toNat ++ r.body ++ bytesOf snaps
  let q := padTo (len - 8) p ++ leBytes 4 seq
  padTo (len - 8) p ++ leBytes 4 seq ++ leBytes 4 (crc32 (q.take (len - 8))).toNat

/-- Where a record of this length goes: the records area, the tail, or nowhere (R383). -/
def State.recordPlace (s : State) (fatal : Bool) (len : Nat) : Option Bool :=
  if s.ledgerBytes false + len ≤ 0x370000 then some false
  else if fatal && decide (s.ledgerBytes true + len ≤ 0x10000) then some true
  else none

/-- A refused record takes no SEQ and is counted (R384). -/
def State.refuseRecord (s : State) (fatal : Bool) : State :=
  s.countRefused.setRegBit LG_STATUS (if fatal then 5 else 4) true

/-- Create a record: answers its SEQ, or none when it is refused. Under LEDGER_VOLATILE it goes to the host too (R393). -/
def State.createRecord (s : State) (r : LedgerReq) (backward : Bool) : State × Option Nat :=
  let fatal := r.severity.toNat == 4
  match s.recordPlace fatal (recordLength r.body.length (s.snapList r.trigger.toNat).length) with
  | none => (s.refuseRecord fatal, none)
  | some tail =>
    let x := s.snapWords r.unit (s.snapList r.trigger.toNat)
    let s := x.2
    let seq := s.reg64 LG_NEXT_SEQ_LO
    let bytes := s.recordBytes seq r backward s.ledgerVolatile tail x.1
    let s := (s.setReg64 LG_NEXT_SEQ_LO (seq + 1)).pushPacket 3 ((chunks 8 bytes).map wordOf) s.now
    let s := (s.1.when (decide (3 ≤ r.severity.toNat)) State.dueFlush, s.2)
    let s := s.1.when s.1.ledgerVolatile fun s => s.recordNotices { seq := seq, bytes := bytes, tail := tail }
    (s, some seq)

/-- A request may become a record: one of a sequencer once every sequencer has decided its slot, as those of one slot go in
order of sequencer (R120). -/
def State.reqReady (s : State) (r : LedgerReq) : Bool :=
  !r.fromSeq || !s.time.armed || (List.range 32).all fun q => !s.regBit (SQ_CFG q) 0 || decide (r.slot < (s.seq q).next)

/-- CC2 creates the record of the oldest request; a power failure stops it (Table 16.6 step 2). -/
def State.createNext (s : State) : State :=
  match s.ledger.reqs.find? s.reqReady with
  | none => s
  | some r =>
    if s.power.pwrFail then s
    else ((s.modLedger fun l => { l with reqs := l.reqs.erase r }).createRecord r false).1

def State.createAll : Nat → State → State
  | 0, s => s
  | n + 1, s => State.createAll n s.createNext

def execLedgerRecordCreate (s : State) : Host.Outcome State Fault Refusal := .next s.createNext

def execLedgerFlush (fail : Option (Fin 2 × Nat)) (s : State) : Host.Outcome State Fault Refusal :=
  .next (s.flushLedger (fail.map fun f => (f.1.val, f.2)))

/-! ### A bank comes back (R392, R394) -/

def LedgerState.bank (l : LedgerState) (b : Nat) : List LedgerRec := if b = 0 then l.bank0 else l.bank1
def LedgerState.setBank (l : LedgerState) (b : Nat) (rs : List LedgerRec) : LedgerState :=
  if b = 0 then { l with bank0 := rs } else { l with bank1 := rs }

/-- Records overwritten in the buffer: those between the log's end and the first that waits. -/
def State.overwrittenRecs (s : State) : Nat × Nat :=
  match s.ledgerLog.getLast?, s.ledgerBuffer with
  | some l, r :: _ => (l.seq + 1, r.seq - (l.seq + 1))
  | none, r :: _ => (s.reg64 LG_FIRST_SEQ_LO, r.seq - s.reg64 LG_FIRST_SEQ_LO)
  | _, [] => (0, 0)

/-- The bank has passed its region test: it takes every record of the log that it lacks and returns to service; from
LEDGER_VOLATILE the buffer is flushed into it. -/
def State.restoreBank (s : State) (b : Nat) : State :=
  if s.bankIn b || s.isRetired (uMram b) || s.underTest (uMram b) then s
  else
    let gone := if s.ledgerVolatile then s.overwrittenRecs else (0, 0)
    let s := s.modLedger fun l => l.setBank b s.ledgerLog
    let s := s.setRegBit LG_STATUS b true
    let s := s.setRegBit LG_STATUS 2 (!s.bankIn (1 - b))
    let s := if s.ledgerVolatile then (s.setRegBit LG_STATUS 3 false).flushLedger none else s
    s.ledgerReq 0x0042 1 (uMram b) 0x08
      (leBytes 4 b ++ leBytes 4 0 ++ leBytes 8 (if gone.2 = 0 then 0 else gone.1) ++ leBytes 8 gone.2)

def execLedgerRestored (bank : Fin 2) (s : State) : Host.Outcome State Fault Refusal := .next (s.restoreBank bank)

/-! ### Scrub (R395) -/

/-- The records whose seal fails in both banks stay in place and are reported; any other is rewritten from the good copy. -/
def State.scrubLoss (s : State) (seq : Nat) : State :=
  if s.ledger.lost.contains seq then s
  else (s.modLedger fun l => { l with lost := l.lost ++ [seq] }).ledgerReq 0x0044 3 noUnit 0x13 (leBytes 8 seq ++ leBytes 8 seq)

/-- The metadata items that stand in region `r` of 16, eight to a copy: one whose CRC-32 fails is rewritten from the other copy. -/
def LedgerState.scrubMeta (l : LedgerState) (r : Nat) : LedgerState :=
  let here := MetaItem.all.filter fun i => Config.metaRegion (MetaItem.all.idxOf i) % 8 == r % 8
  let mend := fun (a b : MetaCopy) => (here.filter fun i => a.bad.contains i && !b.bad.contains i).foldl (fun a i => a.put b i) a
  if r < 8 then { l with metaA := mend l.metaA l.metaB } else { l with metaB := mend l.metaB l.metaA }

/-- One region of 128: 56 of each bank, then the 16 of metadata (R395). -/
def State.scrubRegion (s : State) (bad0 bad1 : List Nat) : State :=
  let gone := (s.ledgerLog.map (·.seq)).filter fun q =>
    (bad0.contains q || !s.bankIn 0) && (bad1.contains q || !s.bankIn 1) && (bad0.contains q || bad1.contains q)
  let s := s.each gone State.scrubLoss
  let at_ := s.regF LG_SCRUB 0 7
  let s := if 112 ≤ at_ then s.modLedger (·.scrubMeta (at_ - 112)) else s
  let next := (at_ + 1) % 128
  let s := s.setRegF LG_SCRUB 0 7 next
  (if next = 0 then s.setReg LG_SCRUB_PASSES (s.reg LG_SCRUB_PASSES + 1) else s).storeMeta .scrub

def execLedgerScrub (bad0 bad1 : List Nat) (s : State) : Host.Outcome State Fault Refusal := .next (s.scrubRegion bad0 bad1)

/-! ### Operating seconds (R387) -/

def execOperatingSecond (s : State) : Host.Outcome State Fault Refusal :=
  .next (if s.power.powered then (s.setReg LG_OP_SECONDS (s.reg LG_OP_SECONDS + 1)).commitSeconds.trainingsAge else s)

/-! ### LEDGER_READ (R385) -/

def checkLedgerRead (p : List Byte) : List (Option Nat) := [ckFld p 0x08 0 32 (512 ≤ ·)]

/-- A record that failed in both banks reads with a seal that fails: its bytes are free (log entry 58). -/
def State.readBytes (s : State) (r : LedgerRec) : List Byte × State :=
  if s.ledger.lost.contains r.seq then s.drawBytes r.bytes.length else (r.bytes, s)

/-- Whole records in order, up to the record limit and the room. -/
def State.takeRecords : List LedgerRec → Nat → Nat → State → List LedgerRec × List Byte × State
  | [], _, _, s => ([], [], s)
  | r :: rest, limit, room, s =>
    if limit = 0 || room < r.bytes.length then ([], [], s)
    else
      let b := s.readBytes r
      let x := State.takeRecords rest (limit - 1) (room - r.bytes.length) b.2
      (r :: x.1, b.1 ++ x.2.1, x.2.2)

def ledgerReadCmd (img : MbImage) (s : State) : State × Option Response :=
  let p := img.payload
  let s := s.flushLedger none
  let log := if s.ledgerVolatile then s.ledgerBuffer else s.ledgerLog
  let from_ := max (getLe p 0x10 8) (s.reg64 LG_FIRST_SEQ_LO)
  let limit := if getLe p 0x0C 4 = 0 then log.length else getLe p 0x0C 4
  let x := State.takeRecords (log.filter fun r => decide (from_ ≤ r.seq)) limit (getLe p 0x08 4) s
  let s := if x.2.1.isEmpty then x.2.2 else x.2.2.dmaWrite (getLe p 0 8) x.2.1 true
  let first := match x.1 with | r :: _ => r.seq | [] => 0
  let last := match x.1.getLast? with | some r => r.seq | none => 0
  done s (leBytes 4 (s.reg LG_GENERATION).toNat ++ leBytes 4 0 ++ leBytes 8 first ++ leBytes 8 last ++
    leBytes 4 x.2.1.length ++ leBytes 4 x.1.length ++ leBytes 4 (s.reg LG_REFUSED).toNat ++ leBytes 4 0)

def execLedgerRead (m : Fin 32) (s : State) : Host.Outcome State Fault Refusal :=
  .next (s.runCommand m 0x0060 (fun _ => true) ledgerReadCmd)

/-! ### Clearing (R389 to R391) -/

/-- 32 free bytes from the random number generator, with the second of their issue. -/
def ledgerChallengeCmd (_ : MbImage) (s : State) : State × Option Response :=
  let d := s.draw 256
  let c := leBytes 32 d.1.toNat
  let s := d.2.modLedger fun l => { l with challenge := some (c, s.opSeconds.toNat) }
  done s (leBytes 4 s.ledger.keyId.toNat ++ leBytes 4 (s.reg LG_GENERATION).toNat ++ c)

def execLedgerClearChallenge (m : Fin 32) (s : State) : Host.Outcome State Fault Refusal :=
  .next (s.runCommand m 0x0061 (fun _ => true) ledgerChallengeCmd)

/-- The 52 bytes that the MAC covers. -/
def State.clearMessage (s : State) (challenge : List Byte) : List Byte :=
  [0x4B, 0x5A, 0x4C, 0x43] ++ leBytes 4 s.ledger.keyId.toNat ++ leBytes 4 (s.reg LG_GENERATION).toNat ++ challenge ++
    leBytes 8 s.power.board.serial.toNat

/-- Key identifier, challenge and MAC hold. -/
def State.clearAuthentic (s : State) (key p : List Byte) : Bool :=
  getLe p 0 4 == s.ledger.keyId.toNat &&
    match s.ledger.challenge with
    | some c => c.1 == slice p 4 32 && decide (s.opSeconds.toNat ≤ c.2 + 60) &&
        hmacSha256 key (s.clearMessage c.1) == slice p 0x24 32
    | none => false

/-- Steps 4 and 5 of Table 16.7: the CLEARED record begins a new log. -/
def State.applyClear (s : State) (r : LedgerRec) : State :=
  let s := s.modLedger fun l => { l with
    bank0 := if s.bankIn 0 then [r] else [], bank1 := if s.bankIn 1 then [r] else [], lost := [], pendingClear := none }
  let s := (s.setReg LG_GENERATION (s.reg LG_GENERATION + 1)).setReg64 LG_FIRST_SEQ_LO r.seq
  (((s.setReg64 LG_NEXT_SEQ_LO (r.seq + 1)).setReg LG_REFUSED 0).storeMeta .log |>.storeMeta .refused).setRegF LG_STATUS 4 2 0

/-- An authorised clear. The prior last SEQ of an empty log is given as first SEQ less 1 (log entry 59). -/
def State.clearLedger (s : State) : State × List Byte :=
  let first := s.reg64 LG_FIRST_SEQ_LO
  let next := s.reg64 LG_NEXT_SEQ_LO
  let refused := (s.reg LG_REFUSED).toNat
  let body := leBytes 8 first ++ leBytes 8 (next - 1) ++ leBytes 4 refused ++ leBytes 4 s.ledger.keyId.toNat ++
    leBytes 4 (s.reg LG_GENERATION).toNat ++ leBytes 4 0
  let req : LedgerReq := { type := 0x0031, severity := 1, unit := noUnit, trigger := 0x11, body := body, fromSeq := false }
  let x := s.snapWords noUnit (s.snapList 0x11)
  let r : LedgerRec := { seq := next, bytes := x.2.recordBytes next req false false false x.1, tail := false }
  let s := ((x.2.modLedger fun l => { l with pendingClear := some r, challenge := none }).storeMeta .log).applyClear r
  (s, leBytes 8 first ++ leBytes 8 (next - 1) ++ leBytes 4 refused ++ leBytes 4 (s.reg LG_GENERATION).toNat ++ leBytes 8 next)

def ledgerClearCmd (img : MbImage) (s : State) : State × Option Response :=
  match s.ledger.key with
  | none => refuse s stNotPermitted 0
  | some key =>
    if s.ledgerVolatile then refuse s stBusy 0
    else
      let s := s.flushLedger none
      if s.clearAuthentic key img.payload then
        let r := s.clearLedger
        done r.1 r.2
      else
        let s := s.modLedger fun l => { l with challenge := none }
        refuse (s.ledgerReq 0x0032 2 noUnit 0x11 (slice img.payload 0 4 ++ leBytes 4 0)) stAuth 0

def execLedgerClear (m : Fin 32) (s : State) : Host.Outcome State Fault Refusal :=
  .next (s.runCommand m 0x0062 (fun _ => true) ledgerClearCmd)

/-! ### LEDGER_SET_SNAPSHOT and LEDGER_PROVISION_KEY (R377, R389) -/

def snapSources : List Nat := [1, 2, 3, 4, 5, 6, 7, 8, 0x10, 0x11, 0x12, 0x13]

/-- An entry's first offending bit: alignment, unused bits of a RELATIVE entry, the range of an absolute one. -/
def badSnap (source v at_ : Nat) : Option Nat :=
  if v % 4 ≠ 0 then (lowestBit (v % 4) 2).map (· + at_)
  else if 2 ^ 31 ≤ v then
    (if source = 0x11 || source = 0x12 then some (at_ + 31)
     else (lowestBit (v % 2 ^ 31 / 2 ^ 26) 5).map (· + at_ + 26))
  else if v < 0x100000 || 0x3000000 ≤ v then some at_ else none

def checkSetSnapshot (p : List Byte) : List (Option Nat) :=
  [ ckFld p 0 0 16 snapSources.contains, ckFld p 2 0 8 (· ≤ 48), ckZero p 3 1 ] ++
  (List.range (getLe p 2 1)).map fun k => badSnap (getLe p 0 2) (getLe p (4 + 4 * k) 4) (8 * (4 + 4 * k))

def setSnapshotCmd (img : MbImage) (s : State) : State × Option Response :=
  let p := img.payload
  let l := (List.range (getLe p 2 1)).map fun k => BitVec.ofNat 32 (getLe p (4 + 4 * k) 4)
  done ((s.modLedger fun d => { d with snaps := Tbl.put d.snaps (getLe p 0 2) l }).storeMeta .snapshots) []

def execLedgerSetSnapshot (m : Fin 32) (s : State) : Host.Outcome State Fault Refusal :=
  .next (s.runCommand m 0x0063 (fun _ => true) setSnapshotCmd)

def checkProvisionKey (p : List Byte) : List (Option Nat) :=
  [ckFld p 0 0 32 (· ≠ 0), if zeros (slice p 4 32) then some 32 else none]

def provisionKeyCmd (img : MbImage) (s : State) : State × Option Response :=
  let p := img.payload
  match s.ledger.key with
  | some _ => refuse s stNotPermitted 0
  | none => if s.ledger.keyLost then refuse s stNotPermitted 0 else
    let s := s.modLedger fun l => { l with key := some (slice p 4 32), keyId := BitVec.ofNat 32 (getLe p 0 4) }
    done ((s.storeMeta .key).ledgerReq 0x0033 1 noUnit 0x11 (slice p 0 4 ++ leBytes 4 0)) []

def execLedgerProvisionKey (m : Fin 32) (s : State) : Host.Outcome State Fault Refusal :=
  .next (s.runCommand m 0x0064 (fun _ => true) provisionKeyCmd)

/-! ### TIME_NOTE (R388) -/

def checkTimeNote (p : List Byte) : List (Option Nat) := [ckZero p 0x0C 4]

/-- Requests made before the note are created before it (R373). -/
def timeNoteCmd (img : MbImage) (s : State) : State × Option Response :=
  let p := img.payload
  let s := State.createAll s.ledger.reqs.length s
  let wall := BitVec.ofNat 64 (getLe p 0 8)
  let back := match s.ledger.wallTime with | some w => decide (wall.toInt < w.toInt) | none => false
  let prior := match s.ledger.wallTime with | some w => w.toNat | none => 0
  let body := leBytes 8 wall.toNat ++ slice p 8 4 ++ leBytes 4 0 ++ leBytes 8 prior ++
    leBytes 8 (if s.time.armed then s.time.tsHd.toNat else 0)
  let r := s.createRecord { type := 0x0030, severity := 0, unit := noUnit, trigger := 0x11, body := body, fromSeq := false } back
  match r.2 with
  | none => refuse r.1 stLedgerFull 0
  | some seq =>
    done ((r.1.modLedger fun l => { l with wallTime := some wall }).storeMeta .wallTime)
      (leBytes 4 s.opSeconds.toNat ++ leBytes 4 back.toNat ++ leBytes 8 seq)

def execTimeNote (m : Fin 32) (s : State) : Host.Outcome State Fault Refusal :=
  .next (s.runCommand m 0x0054 (fun _ => true) timeNoteCmd)

end Sys2Proof.Machine
end

