-- ==== Sys2Proof/Machine/Inflate.lean ====
section
/-!
DEFINITION. The decompressor in diagnostic mode (R246, R262, R263, Table 11.5): members of RFC 1950, 1951 and 1952, and the
code and the position of the first fault in bit order (log entry 66).
-/
namespace Sys2Proof.Machine

/-! ### Bits of a member (R245) -/

structure BitIn where
  bits : List Bool
  pos : Nat
  deriving DecidableEq, Repr

/-- A fault: code of Table 11.5 and position in bits from the member's first. -/
structure InfFault where
  code : Nat
  at_ : Nat
  deriving DecidableEq, Repr

def faultTrunc : Nat := 0x8

def BitIn.of (p : List Byte) : BitIn := { bits := p.flatMap fun b => (List.range 8).map (bit b), pos := 0 }

/-- A field of `n` bits, its least significant bit first; a field that the input ends inside is truncated. -/
def BitIn.field (x : BitIn) (n : Nat) : Except InfFault (Nat × BitIn) :=
  if x.bits.length < n then .error { code := faultTrunc, at_ := x.pos }
  else .ok (((x.bits.take n).zipIdx.foldl (fun a b => a + b.1.toNat * 2 ^ b.2) 0), { bits := x.bits.drop n, pos := x.pos + n })

/-- To the next whole byte. -/
def BitIn.align (x : BitIn) : BitIn :=
  let k := (8 - x.pos % 8) % 8
  { bits := x.bits.drop k, pos := x.pos + k }

/-- A field that must satisfy a condition. -/
def BitIn.must (x : BitIn) (n code : Nat) (ok : Nat → Bool) : Except InfFault (Nat × BitIn) :=
  match x.field n with
  | .error e => .error e
  | .ok (v, y) => if ok v then .ok (v, y) else .error { code := code, at_ := x.pos }

/-! ### Huffman codes (RFC 1951) -/

structure HCode where
  len : Nat
  code : Nat
  sym : Nat
  deriving DecidableEq, Repr

/-- First code of each length. -/
def firstCode (lens : List Nat) : Nat → Nat
  | 0 => 0
  | l + 1 => 2 * (firstCode lens l + if l = 0 then 0 else lens.count l)

def canonCodes (lens : List Nat) : List HCode :=
  lens.zipIdx.filterMap fun x =>
    if x.1 = 0 then none else some { len := x.1, code := firstCode lens x.1 + (lens.take x.2).count x.1, sym := x.2 }

/-- Share of the code space that lengths take, in units of 2^-15. -/
def codeSpace (lens : List Nat) : Nat := sumOn lens fun l => if l = 0 then 0 else 2 ^ (15 - l)

/-- One code word; a prefix that no code has is illegal. -/
def symbolAux (cs : List HCode) (at_ : Nat) : Nat → Nat → Nat → BitIn → Except InfFault (Nat × BitIn)
  | 0, _, _, _ => .error { code := 0x5, at_ := at_ }
  | fuel + 1, len, code, x =>
    if !(cs.any fun c => decide (len < c.len) && c.code / 2 ^ (c.len - len) == code) then .error { code := 0x5, at_ := at_ }
    else match x.bits with
      | [] => .error { code := faultTrunc, at_ := at_ }
      | b :: t =>
        let c' := 2 * code + b.toNat
        let y : BitIn := { bits := t, pos := x.pos + 1 }
        match cs.find? fun c => c.len == len + 1 && c.code == c' with
        | some c => .ok (c.sym, y)
        | none => symbolAux cs at_ fuel (len + 1) c' y

def BitIn.symbol (x : BitIn) (cs : List HCode) : Except InfFault (Nat × BitIn) := symbolAux cs x.pos 15 0 0 x

def fixedLit : List HCode :=
  canonCodes (List.replicate 144 8 ++ List.replicate 112 9 ++ List.replicate 24 7 ++ List.replicate 8 8)
def fixedDist : List HCode := canonCodes (List.replicate 32 5)

/-- Extra bits and base of a length symbol. -/
def lenCode (sym : Nat) : Nat × Nat :=
  if sym = 285 then (0, 258) else if sym < 265 then (0, sym - 254)
  else ((sym - 261) / 4, 3 + (4 + (sym - 261) % 4) * 2 ^ ((sym - 261) / 4))
/-- Extra bits and base of a distance symbol. -/
def distCode (sym : Nat) : Nat × Nat :=
  if sym < 4 then (0, 1 + sym) else ((sym - 2) / 2, 1 + (2 + sym % 2) * 2 ^ ((sym - 2) / 2))

/-! ### Dynamic codes -/

def clOrder : List Nat := [16, 17, 18, 0, 8, 7, 9, 6, 10, 5, 11, 4, 12, 3, 13, 2, 14, 1, 15]

/-- Code-length code lengths: `k` is the number still to read. -/
def readClens : Nat → List Nat → Nat → BitIn → Except InfFault (List Nat × BitIn)
  | 0, acc, _, x => .ok (acc, x)
  | k + 1, acc, n, x =>
    match x.field 3 with
    | .error e => .error e
    | .ok (v, y) =>
      let acc := acc.set (clOrder.getD n 0) v
      let space := codeSpace acc
      if 2 ^ 15 < space || (k = 0 && space != 2 ^ 15) then .error { code := 0x5, at_ := x.pos }
      else readClens k acc (n + 1) y

/-- Whether lengths `new`, grown from `old` of `hlit + hdist`, may stand (R262, Table 11.5). -/
def lensOk (old new : List Nat) (hlit total : Nat) : Bool :=
  let lit := new.take hlit
  let dist := new.drop hlit
  !(decide (old.length ≤ 256) && decide (256 < new.length) && new.getD 256 0 == 0) &&
    decide (codeSpace lit ≤ 2 ^ 15) && decide (codeSpace dist ≤ 2 ^ 15) &&
    !(decide (old.length < hlit) && decide (hlit ≤ new.length) && codeSpace lit != 2 ^ 15) &&
    !(new.length == total && codeSpace dist != 2 ^ 15 && decide (1 < (dist.filter (· != 0)).length))

/-- Lengths of the literal and distance codes. -/
def readLens (cl : List HCode) (hlit total : Nat) : Nat → List Nat → BitIn → Except InfFault (List Nat × BitIn)
  | 0, acc, x => .ok (acc, x)
  | fuel + 1, acc, x =>
    if total ≤ acc.length then .ok (acc, x)
    else
      let bad : Except InfFault (List Nat × BitIn) := .error { code := 0x5, at_ := x.pos }
      match x.symbol cl with
      | .error e => .error e
      | .ok (sym, y) =>
        let go := fun (new : List Nat) (z : BitIn) =>
          if total < new.length || !lensOk acc new hlit total then bad else readLens cl hlit total fuel new z
        if sym < 16 then go (acc ++ [sym]) y
        else if sym = 16 then
          match acc.getLast? with
          | none => bad
          | some l => match y.field 2 with
            | .error e => .error e
            | .ok (n, z) => go (acc ++ List.replicate (3 + n) l) z
        else match y.field (if sym = 17 then 3 else 7) with
          | .error e => .error e
          | .ok (n, z) => go (acc ++ List.replicate ((if sym = 17 then 3 else 11) + n) 0) z

/-- Codes of a dynamic block. -/
def readDynamic (x : BitIn) : Except InfFault ((List HCode × List HCode) × BitIn) :=
  match x.must 5 0x5 (· ≤ 29) with
  | .error e => .error e
  | .ok (l, x1) => match x1.must 5 0x5 (· ≤ 29) with
    | .error e => .error e
    | .ok (d, x2) => match x2.field 4 with
      | .error e => .error e
      | .ok (c, x3) => match readClens (c + 4) (List.replicate 19 0) 0 x3 with
        | .error e => .error e
        | .ok (cl, x4) => match readLens (canonCodes cl) (l + 257) (l + d + 258) 320 [] x4 with
          | .error e => .error e
          | .ok (lens, x5) => .ok ((canonCodes (lens.take (l + 257)), canonCodes (lens.drop (l + 257))), x5)

/-! ### Blocks -/

/-- Output so far, newest byte first, its length, the input, and the fault that stopped it. -/
structure Inf where
  rev : List Byte
  n : Nat
  x : BitIn
  fault : Option InfFault
  deriving DecidableEq, Repr

def Inf.stop (f : Inf) (e : InfFault) : Inf := { f with fault := some e }

/-- Copy `len` bytes from `dist` back. -/
def copyMatch (dist : Nat) : Nat → List Byte → List Byte
  | 0, rev => rev
  | k + 1, rev => copyMatch dist k (rev.getD (dist - 1) 0 :: rev)

/-- Symbols up to the end of the block; `limit` bounds the output (R265). -/
def inflSymbols (lit dist : List HCode) (limit : Nat) : Nat → Inf → Inf
  | 0, f => f.stop { code := faultTrunc, at_ := f.x.pos }
  | fuel + 1, f =>
    let p := f.x.pos
    match f.x.symbol lit with
    | .error e => f.stop e
    | .ok (sym, x1) =>
      if sym = 256 then { f with x := x1 }
      else if sym < 256 then
        if limit ≤ f.n then f.stop { code := 0x7, at_ := p }
        else inflSymbols lit dist limit fuel { f with rev := BitVec.ofNat 8 sym :: f.rev, n := f.n + 1, x := x1 }
      else if 285 < sym then f.stop { code := 0x5, at_ := p }
      else if limit < f.n + (lenCode sym).2 then f.stop { code := 0x7, at_ := p }
      else match x1.field (lenCode sym).1 with
        | .error e => f.stop e
        | .ok (le, x2) =>
          let len := (lenCode sym).2 + le
          if limit < f.n + len then f.stop { code := 0x7, at_ := p }
          else match x2.symbol dist with
            | .error e => f.stop e
            | .ok (ds, x3) =>
              if 29 < ds then f.stop { code := 0x5, at_ := x2.pos }
              else if f.n < (distCode ds).2 then f.stop { code := 0x6, at_ := x2.pos }
              else match x3.field (distCode ds).1 with
                | .error e => f.stop e
                | .ok (de, x4) =>
                  if f.n < (distCode ds).2 + de then f.stop { code := 0x6, at_ := x2.pos }
                  else inflSymbols lit dist limit fuel
                    { f with rev := copyMatch ((distCode ds).2 + de) len f.rev, n := f.n + len, x := x4 }

/-- Bytes of a stored block. -/
def inflStored (limit : Nat) : Nat → Inf → Inf
  | 0, f => f
  | k + 1, f =>
    if limit ≤ f.n then f.stop { code := 0x7, at_ := f.x.pos }
    else match f.x.field 8 with
      | .error e => f.stop e
      | .ok (v, y) => inflStored limit k { f with rev := BitVec.ofNat 8 v :: f.rev, n := f.n + 1, x := y }

/-- One block after its BFINAL bit. -/
def inflBlock (limit : Nat) (f : Inf) : Inf :=
  match f.x.must 2 0x3 (· ≠ 3) with
  | .error e => f.stop e
  | .ok (0, x) =>
    let a := x.align
    match a.field 16 with
    | .error e => f.stop e
    | .ok (len, x1) => match x1.field 16 with
      | .error e => f.stop e
      | .ok (nlen, x2) =>
        if len + nlen = 65535 then inflStored limit len { f with x := x2 } else f.stop { code := 0x4, at_ := a.pos }
  | .ok (1, x) => inflSymbols fixedLit fixedDist limit (x.bits.length + 1) { f with x := x }
  | .ok (_, x) => match readDynamic x with
    | .error e => f.stop e
    | .ok ((lit, dist), y) => inflSymbols lit dist limit (y.bits.length + 1) { f with x := y }

def inflBlocks (limit : Nat) : Nat → Inf → Inf
  | 0, f => f
  | fuel + 1, f =>
    match f.x.field 1 with
    | .error e => f.stop e
    | .ok (last, x) =>
      let g := inflBlock limit { f with x := x }
      if g.fault.isSome || last = 1 then g else inflBlocks limit fuel g

/-! ### Wrappers (R246) -/

/-- zlib: CM 8, CINFO at most 7, FCHECK valid, FDICT 0. -/
def zlibHeader (p : List Byte) (x : BitIn) : Except InfFault BitIn :=
  match x.must 4 0x2 (· = 8) with
  | .error e => .error e
  | .ok (_, x1) => match x1.must 4 0x2 (· ≤ 7) with
    | .error e => .error e
    | .ok (_, x2) => match x2.must 5 0x2 fun _ => p.length < 2 || (256 * getLe p 0 1 + getLe p 1 1) % 31 == 0 with
      | .error e => .error e
      | .ok (_, x3) => match x3.must 1 0x2 (· = 0) with
        | .error e => .error e
        | .ok (_, x4) => match x4.field 2 with
          | .error e => .error e
          | .ok (_, x5) => .ok x5

/-- A zero-terminated name, skipped. -/
def skipName (at_ : Nat) : Nat → BitIn → Except InfFault BitIn
  | 0, _ => .error { code := faultTrunc, at_ := at_ }
  | fuel + 1, x => match x.field 8 with
    | .error _ => .error { code := faultTrunc, at_ := at_ }
    | .ok (v, y) => if v = 0 then .ok y else skipName at_ fuel y

def skipIf (c : Bool) (x : BitIn) (f : BitIn → Except InfFault BitIn) : Except InfFault BitIn := if c then f x else .ok x

def skipExtra (x : BitIn) : Except InfFault BitIn :=
  match x.field 16 with
  | .error e => .error e
  | .ok (n, y) => match y.field (8 * n) with
    | .error e => .error e
    | .ok (_, z) => .ok z

def crc16Of (p : List Byte) : Nat := (crc32 p).toNat % 2 ^ 16

/-- gzip: ID1, ID2, CM, FLG with [7:5] zero; FEXTRA, FNAME and FCOMMENT skipped, FHCRC verified. -/
def gzipHeader (p : List Byte) (x : BitIn) : Except InfFault BitIn :=
  match x.must 8 0x2 (· = 0x1F) with
  | .error e => .error e
  | .ok (_, x1) => match x1.must 8 0x2 (· = 0x8B) with
    | .error e => .error e
    | .ok (_, x2) => match x2.must 8 0x2 (· = 8) with
      | .error e => .error e
      | .ok (_, x3) => match x3.field 5 with
        | .error e => .error e
        | .ok (flg, x4) => match x4.must 3 0x2 (· = 0) with
          | .error e => .error e
          | .ok (_, x5) => match x5.field 32 with
            | .error e => .error e
            | .ok (_, x6) => match x6.field 8 with
              | .error e => .error e
              | .ok (_, x7) => match x7.field 8 with
                | .error e => .error e
                | .ok (_, x8) => match skipIf (flg / 4 % 2 == 1) x8 skipExtra with
                  | .error e => .error e
                  | .ok x9 => match skipIf (flg / 8 % 2 == 1) x9 fun y => skipName y.pos p.length y with
                    | .error e => .error e
                    | .ok x10 => match skipIf (flg / 16 % 2 == 1) x10 fun y => skipName y.pos p.length y with
                      | .error e => .error e
                      | .ok x11 => skipIf (flg / 2 % 2 == 1) x11 fun y =>
                        match y.must 16 0x2 (· = crc16Of (p.take (y.pos / 8))) with
                        | .error e => .error e
                        | .ok (_, z) => .ok z

/-- Trailer of Table 11.1: Adler-32 of the output with its first byte first, or CRC-32 and ISIZE. -/
def adler32 (p : List Byte) : Nat :=
  let ab := p.foldl (fun x b => let a := (x.1 + b.toNat) % 65521; (a, (x.2 + a) % 65521)) (1, 0)
  ab.2 * 65536 + ab.1

def zlibTrailer (out : List Byte) (x : BitIn) : Except InfFault BitIn :=
  match x.must 32 0x9 (· = leNat (leBytes 4 (adler32 out)).reverse) with
  | .error e => .error e
  | .ok (_, y) => .ok y

def gzipTrailer (out : List Byte) (x : BitIn) : Except InfFault BitIn :=
  match x.must 32 0x9 (· = (crc32 out).toNat) with
  | .error e => .error e
  | .ok (_, y) => match y.must 32 0x9 (· = out.length % 2 ^ 32) with
    | .error e => .error e
    | .ok (_, z) => .ok z

/-- What a decompressor makes of the member at the start of some bytes: the fault if any, the output, and its length in bytes
when it is valid. -/
structure Member where
  fault : Option InfFault
  out : List Byte
  used : Nat
  deriving DecidableEq, Repr

/-- FORMAT 1 raw, 2 zlib, 3 gzip. -/
def inflateMember (format limit : Nat) (p : List Byte) : Member :=
  let x := BitIn.of p
  let head := match format with
    | 2 => zlibHeader p x
    | 3 => gzipHeader p x
    | _ => .ok x
  match head with
  | .error e => { fault := some e, out := [], used := 0 }
  | .ok y =>
    let f := inflBlocks limit (y.bits.length + 1) { rev := [], n := 0, x := y, fault := none }
    let out := f.rev.reverse
    match f.fault with
    | some e => { fault := some e, out := out, used := 0 }
    | none =>
      let z := f.x.align
      let tail := match format with
        | 2 => zlibTrailer out z
        | 3 => gzipTrailer out z
        | _ => .ok z
      match tail with
      | .error e => { fault := some e, out := out, used := 0 }
      | .ok w => { fault := none, out := out, used := min p.length (w.pos / 8) }

/-- OFFSET of normal service (R262): the member's length when the input ends too early, else the byte of the fault. -/
def InfFault.offset (e : InfFault) (len : Nat) : Nat := if e.code = faultTrunc then len else e.at_ / 8

/-- OFFSET of a member of `len` bytes of input. -/
def Member.offset (m : Member) (len : Nat) : Nat := match m.fault with | some e => e.offset len | none => 0

end Sys2Proof.Machine
end

