-- ==== Sys2Proof/Machine/Lanes.lean ====
section
/-!
DEFINITION. The commands of chapter 2: comparator edges (R41, R42, R51, R54, R60 to R62), closes and keepalives, loss of lock
(R44 to R46), the threshold DACs (R47), calibration (R49, R50) and CONFIGURE_LANES (R36 to R38, R331).
-/
namespace Sys2Proof.Machine

/-! ### Stamps (R41, R42, R45) -/

/-- Stamp of an edge from the SCLK count at its sampling edge: fine, coarse, or the end of the period for a second edge. The
deskew terms apply to each (log entry 60). A stamp before the timestamp 0 of a session lies before that session on the model's
time line (log entry 22). -/
def State.edgeStamp (s : State) (n sclk taps : Nat) (coarse second : Bool) : Time :=
  let raw : Int := if second then 128 * sclk else if coarse then (128 * sclk : Int) - 64 else (128 * sclk : Int) - taps
  ((s.sessionTime 0 : Int) + raw + s.deskew n).toNat

/-! ### COMPARATOR_EDGE -/

/-- The comparator of the lane's mode is powered (R58): a U-only lane has its L comparator down. -/
def State.compOn (s : State) (n : Nat) (c : Comp) : Bool := s.lnLive n && (s.lnMode n != 2 || isU c)

/-- A clock lane's U edge is one that CLK_EDGE selects (R60). -/
def clockEdge (sel : Nat) (rise : Bool) : Bool := sel == 3 || (sel == 1 && rise) || (sel == 2 && !rise)

/-- State-mode lanes that an edge of lane `n` clocks and that record. -/
def State.clockTargets (s : State) (n : Nat) (rise : Bool) : List Nat :=
  (s.clockedBy n).filter fun d => s.lnLive d && (s.lnStream d).isSome && clockEdge (s.lnClkEdge d) rise

/-- The logical crossing of an edge, if it makes one: a U-only lane crosses at each U edge (R62). -/
def State.edgeCrossing (s : State) (n : Nat) (c : Comp) (rise : Bool) (t : Time) (f : EvFlags) : State :=
  if s.lnMode n = 2 then s.crossing n rise t t none f else s.pairEdge n c rise t f

/-- The output of a comparator moves, unless the edge lies before its present settings (R40). -/
def State.moveOutput (s : State) (n : Nat) (c : Comp) (rise : Bool) (t : Time) : State :=
  if t < ((s.lane n).comp c).from_ then s
  else
    let e : LaneEv := { at_ := t, l := if isU c then none else some rise, u := if isU c then some rise else none, edge := true }
    (s.modComp n c fun d => { d with high := rise }).modLane n fun d => { d with history := insertState e d.history }

/-- Armed, with the edge not before the ARM instant. -/
def State.edgeLive (s : State) (t : Time) : Bool := s.time.armed && decide (s.time.armTime ≤ t)

/-- What an edge leaves in the streams: its own record and the samples it clocks, if it is not before the ARM instant (R51, R60). -/
def State.recordEdge (s : State) (n : Nat) (c : Comp) (rise : Bool) (t : Time) (f : EvFlags) : State :=
  let live := s.edgeLive t
  let s := s.when (live && (s.lnStream n).isSome && (s.lnMode n == 1 || s.lnMode n == 2)) fun s =>
    s.encodeEdge n c rise (!f.unstamped) f.coarse t
  s.when (live && isU c) fun s => s.each (s.clockTargets n rise) fun s d => s.stateClock d t

/-- What the live units take of an edge (R54, R61, R62). An edge before the instant of R62 makes no crossing but counts in
the level taken then (log entry 96). -/
def State.followEdge (s : State) (n : Nat) (c : Comp) (rise : Bool) (t : Time) (f : EvFlags) : State :=
  let early := s.time.armed && decide (t < (s.lane n).pairFrom)
  let s := if s.time.armed && !s.edgeLive t then s else s.feed (n / 48) { at_ := t, flags := f, ev := .edge n c rise (s.lnState n) }
  if early then s.takeLevel n else s.edgeCrossing n c rise t f

/-- A comparator edge: the state after it, its record, the samples it clocks, and the live units (R51, R54, R60, R61). -/
def State.comparatorEdge (s : State) (n : Nat) (c : Comp) (rise : Bool) (sclk taps : Nat) (second : Bool) : State :=
  if !s.compOn n c then s
  else
    let coarse := ((s.lane n).comp c).coarse
    let t := s.edgeStamp n sclk taps coarse second
    let f : EvFlags := { unstamped := second, coarse := coarse, pod := false }
    let late := match (s.lane n).levelDue with | some x => decide (t < x.2) | none => false
    let s := if late then s else s.flushLevel n
    let s := s.moveOutput n c rise t
    (s.recordEdge n c rise t f).followEdge n c rise t f

def execComparatorEdge (n : Fin 192) (comp : Comp) (rise : Bool) (sclk taps : Nat) (second : Bool) (s : State) :
    Host.Outcome State Fault Refusal :=
  .next (s.comparatorEdge n comp rise sclk taps second)

/-! ### Closes and keepalives (R51, R56, R59) -/

/-- At an SCLK edge that meets a close condition of R51 the open burst closes. -/
def execBurstClose (n : Fin 192) (comp : Comp) (sclk : Nat) (s : State) : Host.Outcome State Fault Refusal :=
  .next (
    let t := s.sessionTime (128 * sclk)
    if s.time.armed && burstDue (s.lnFollow n comp) ((s.lane n).comp comp) t then s.closeBurst n comp t else s)

/-- 2^32 ft. -/
def keepalive : Nat := 2 ^ 32

/-- The keepalive falls due in the slot in progress or has fallen due. -/
def execLevelKeepalive (n : Fin 192) (s : State) : Host.Outcome State Fault Refusal :=
  .next (
    let due := (s.lane n).lastRecord + keepalive
    if (s.lnStream n).isSome && s.lnLive n && decide (due < s.slotEnd) then s.laneLevel n 1 due else s)

/-- A full block closes. A state block also waits for the samples that later edges of its lane may still precede. -/
def execRawBlockClose (n : Fin 192) (s : State) : Host.Outcome State Fault Refusal :=
  .next (
    let s := s.writeFull n s.now
    match (s.lane n).block with
    | some b => if blockSamples ≤ b.samples.length then s.closeBlock n s.now else s
    | none => s)

/-! ### Loss of lock (R44 to R46) -/

def compBit : Comp → Nat
  | .l => 0
  | .u => 1

/-- The DLL of a comparator loses lock: coarse stamps, and the lane's targeted self-test. -/
def execLossOfLock (n : Fin 192) (comp : Comp) (s : State) : Host.Outcome State Fault Refusal :=
  .next (
    if !s.compOn n comp then s
    else
      let s := (s.setRegBit (LN_EVT n) (compBit comp) true).setRegBit (LN_STATUS n) (compBit comp) false
      let s := (s.setRegBit (LN_STATUS n) 6 true).modComp n comp fun d => { d with coarse := true }
      s.raiseFault (uLane n) 0x03 (leBytes 8 n))

/-- A test ends with a result word that the spec does not define: it is free (log entry 52). -/
def State.testEnds (s : State) (u : Word) (cls : Nat) (pass : Bool) : State :=
  let d := s.draw 32
  if s.underTest u then d.2.testResult u cls pass d.1 else s

/-- A pass clears COARSE; a failure is lasting and retires the lane. -/
def execTdcSelftestDone (n : Fin 192) (pass : Bool) (s : State) : Host.Outcome State Fault Refusal :=
  .next (s.testEnds (uLane n) 0x03 pass)

/-! ### Threshold DACs (R36, R47) -/

/-- Programmed threshold of a comparator in mV. -/
def State.threshold (s : State) (n : Nat) (c : Comp) : Int :=
  (s.regF (LN_THR n) (match c with | .l => 0 | .u => 16) 12 : Int) - 1024

/-- A reading more than 8 mV off raises the fault; the spare takes over, or the comparator waits for it; with the spare in
permanent service the DAC is tested where it is. -/
def State.dacReading (s : State) (n : Nat) (c : Comp) (mv : Int) : State :=
  if !s.compOn n c || (mv - s.threshold n c).natAbs ≤ 8 then s
  else
    let s := s.setRegBit (LN_EVT n) (2 + compBit c) true
    let k := n / 16
    let t := 2 * (n % 16) + compBit c
    let s := s.raiseFault (uDac k t) 0x04 (leBytes 8 n)
    if s.regBit (STK_SPARE k) 1 then s
    else if s.regBit (STK_SPARE k) 0 then
      if s.regF (STK_SPARE k) 2 5 = t then s
      else s.modStake k fun d => if d.waiting.contains t then d else { d with waiting := d.waiting ++ [t] }
    else s.useSpare k t

def execDacReadback (n : Fin 192) (comp : Comp) (mv : Int) (s : State) : Host.Outcome State Fault Refusal :=
  .next (s.dacReading n comp mv)

/-- The DAC of a stake that is being swept or tested: the spare's target first. -/
def State.sweptDac (s : State) (k : Nat) : Option Word :=
  if (s.stake k).sweeping then some (uDac k (s.regF (STK_SPARE k) 2 5))
  else (s.weaver.tests.find? fun t => uaIsSlice t.unit && uaKind t.unit == 0x04 && uaStake t.unit == k).map (·.unit)

def execDacSweepDone (stake : Fin 12) (pass : Bool) (s : State) : Host.Outcome State Fault Refusal :=
  .next (match s.sweptDac stake with
    | some u => s.testEnds u 0x04 pass
    | none => s)

/-! ### Calibration (R49, R50, Table 2.3) -/

def tempInt (t : Half) : Int := t.toInt
/-- More than 10 °C apart, in 0.125 °C units. -/
def tempFar (a b : Half) : Bool := decide (80 < (tempInt a - tempInt b).natAbs)

def stakeLanes (k : Nat) : List Nat := (List.range 16).map (16 * k + ·)

/-- Lanes that fall due at a die temperature, and the notice that names their stake. -/
def State.calDue (s : State) (k : Nat) (temp : Half) : State :=
  let due := (stakeLanes k).filter fun n =>
    !s.laneAbsent n && !s.regBit (LN_STATUS n) 7 && tempFar temp (s.lane n).calTemp
  if due.isEmpty then s
  else
    let s := s.each due fun s n => s.setRegBit (LN_STATUS n) 7 true
    s.notice 0x04 [.f4 (uStake k).toNat, .f4 (temp.signExtend 32).toNat]

def execCalDue (stake : Fin 12) (temp : Half) (s : State) : Host.Outcome State Fault Refusal :=
  .next (if s.stakeAbsent stake || s.asleep then s else s.calDue stake temp)

/-- Trigger source class of a failed step of Table 2.3 (R48). -/
def calClass (step : Nat) : Nat := if step = 2 then 0x04 else 0x03

/-- One lane's outcome: a pass sets CAL and the calibration point and brings a retired lane back. That a lane retired after a
failed self-test of its TDC then stamps finely again, with COARSE clear, is this model's choice: its DLL has locked and its
TDC has passed (DESIGN CHOICE, log entry 110). -/
def State.calLane (s : State) (results : List LaneCal) (temp : Half) (n : Nat) : State :=
  let r := results.find? fun x => x.lane.val == n
  match r.bind LaneCal.failStep with
  | some k => s.retireLane n (calClass k) s.now
  | none =>
    let s := s.setRegF (LN_DESKEW n) 0 16 (match r with | some x => x.cal.toNat | none => 0)
    let s := ((s.setRegBit (LN_STATUS n) 7 false).setRegF (LN_STATUS n) 0 2 3).setRegBit (LN_STATUS n) 6 false
    let s := s.modLane n fun d => { d with
      calTemp := temp, calTime := s.opSeconds, l := { d.l with coarse := false }, u := { d.u with coarse := false } }
    if s.lnRetired n then s.returnUnit (uLane n) else s

/-- Die temperature for a lane. -/
def laneTemp (cd0 cd1 : Half) (n : Nat) : Half := if n < 96 then cd0 else cd1

/-- A run on lanes: their outcomes, and the stakes that it covers whole. -/
def State.calibrate (s : State) (run : List Nat) (results : List LaneCal) (cd0 cd1 : Half) : State :=
  let s := s.each run fun s n => s.calLane results (laneTemp cd0 cd1 n) n
  s.each ((List.range 12).filter fun k => (stakeLanes k).all run.contains) fun s k =>
    (s.setReg (STK_CAL_TEMP k) ((laneTemp cd0 cd1 (16 * k)).setWidth 32)).setReg (STK_CAL_TIME k) s.opSeconds

/-- Result of a named address: the worst of its lanes (Table 14.15). -/
def worstResult (failed back : List Nat) (ls : List Nat) : Nat :=
  if ls.any failed.contains then 1 else if ls.any back.contains then 2 else 0

/-- The run that SELFTEST commanded ends: the lanes being calibrated have their outcomes, and each named address its notice. -/
def execLaneCalibration (results : List LaneCal) (tempCd0 tempCd1 : Half) (s : State) : Host.Outcome State Fault Refusal :=
  .next (
    let run := s.weaver.calibrating
    let was := run.filter s.lnRetired
    let s := (s.modWeaver fun w => { w with calibrating := [] }).calibrate run results tempCd0 tempCd1
    let failed := run.filter s.lnRetired
    let back := was.filter fun n => !s.lnRetired n
    let named := (s.weaver.hostTests.flatMap (·.units)).eraseDups.filter fun u =>
      !(s.calLanes u).isEmpty && (s.calLanes u).all run.contains
    s.each named fun s u => s.hostResult u (worstResult failed back (s.calLanes u)))

/-! ### CONFIGURE_LANES (R36 to R38, R331) -/

def cfgLaneN (p : List Byte) : Nat := getLe p 0 2
/-- Offset of entry `k`. -/
def cfgLaneOff (k : Nat) : Nat := 8 + 32 * k

def checkLaneEntry (p : List Byte) (o : Nat) : List (Option Nat) :=
  [ ckFld p o 0 16 (· < 192), ckZero p (o + 2) 2
  , ckRsv p (o + 4) 4 (2 ^ 32 - 2 ^ 22 + 0xC0), ckFld p (o + 4) 0 3 (· ≤ 4), ckFld p (o + 4) 20 2 (· ≠ 0)
  , ckRsv p (o + 8) 4 0xF000F000
  , ckFld p (o + 8) 0 12 (fun c => 24 ≤ c && c ≤ 4024), ckFld p (o + 8) 16 12 (fun c => 24 ≤ c && c ≤ 4024)
  , ckRsv p (o + 0x0C) 4 (2 ^ 32 - 2 ^ 21), ckFld p (o + 0x0C) 0 16 (· ≠ 0), ckFld p (o + 0x0C) 16 5 (· ≤ 25)
  , ckRsv p (o + 0x10) 4 0xFFFF0000, ckFld p (o + 0x10) 0 16 (· ≠ 0)
  , ckRsv p (o + 0x14) 4 0xFFFFF000, ckZero p (o + 0x1A) 6 ]

def checkConfigureLanes (p : List Byte) : List (Option Nat) :=
  [ckFld p 0 0 16 (fun n => 1 ≤ n && n ≤ 125), ckZero p 2 6] ++
    (List.range (cfgLaneN p)).flatMap fun k => checkLaneEntry p (cfgLaneOff k)

/-- U_CODE − L_CODE is at least 10 + 2h in the modes that use both comparators (R38). -/
def separationOk (p : List Byte) (o : Nat) : Bool :=
  let mode := getLe p (o + 4) 4 % 8
  mode == 0 || mode == 2 ||
    decide (getLe p (o + 8) 4 % 2 ^ 12 + 10 + 2 * (getLe p (o + 0x0C) 4 / 2 ^ 16 % 32) ≤ getLe p (o + 8) 4 / 2 ^ 16 % 2 ^ 12)

/-- Checks of an entry in order: the lane exists, is in service, and its thresholds keep their distance (log entry 61). -/
def State.laneEntryRefusal (s : State) (p : List Byte) (o : Nat) : List (Option Response) :=
  [ refusalIf (s.laneAbsent (getLe p o 2)) stNoUnit o
  , refusalIf (s.lnRetired (getLe p o 2)) stRetired o
  , refusalIf (!separationOk p o) stInvalid (o + 0x0A) ]

def laneEntry (p : List Byte) (o : Nat) : LaneCfg :=
  { cfg := BitVec.ofNat 32 (getLe p (o + 4) 4), thr := BitVec.ofNat 32 (getLe p (o + 8) 4)
    follow := BitVec.ofNat 32 (getLe p (o + 0x0C) 4), followU := BitVec.ofNat 32 (getLe p (o + 0x10) 4)
    stateDly := BitVec.ofNat 32 (getLe p (o + 0x14) 4), user := BitVec.ofNat 16 (getLe p (o + 0x18) 2) }

def configureLanesCmd (img : MbImage) (s : State) : State × Option Response :=
  let p := img.payload
  let os := (List.range (cfgLaneN p)).map cfgLaneOff
  checked s (os.flatMap (s.laneEntryRefusal p))
    (done (s.modStaged fun i => { i with lanes := os.foldl (fun t o => Tbl.put t (getLe p o 2) (laneEntry p o)) i.lanes }) [])

def execConfigureLanes (m : Fin 32) (s : State) : Host.Outcome State Fault Refusal :=
  .next (s.runCommand m 0x0020 (fun _ => true) configureLanesCmd)

end Sys2Proof.Machine
end

