-- ==== Sys2Proof/Machine/Pods.lean ====
section
/-!
DEFINITION. The commands of chapter 3: superframes, frames and management blocks (R65 to R73, R78, R79), pod commands (R80),
enumeration and additions (R81, R83), breaks (R84), slot switches (R77), segment tests (R85), and CONFIGURE_PODS.
-/
namespace Sys2Proof.Machine

/-- The port is fitted, in service and clocked. -/
def State.ppLive (s : State) (p : Nat) : Bool := !s.ppRetired p && !s.portAbsent p && !s.asleep

/-! ### Superframes and lock (R63, R66, R67, R71, Table 3.7) -/

/-- Owned slots of a pod that passed unseen in the superframe. -/
def State.unseenSlots (s : State) (p q : Nat) : Nat :=
  ((List.range 62).filter fun f => s.slotOwner p f == some q && !(s.port p).passed.contains f).length

/-- The pods whose slots passed in vain in a superframe: all of them without lock, those beyond a segment under test. -/
def State.unseenPods (s : State) (p : Nat) : List Nat :=
  if (s.port p).unlocked then s.podsHere p
  else match (s.port p).tested with
    | some k => (s.podsHere p).filter fun q => decide (k ≤ q)
    | none => []

/-- A BEACON block (Table 3.1): SFN, and LINK_TIME modulo 2^40. -/
def beaconBlock (n : Nat) : DWord := pack64 [(0, 8, 0x71), (8, 16, n % 2 ^ 16), (24, 40, superframeQ * n % 2 ^ 40)]

/-- The number of the superframe in progress by link time (R71). -/
def State.superframe (s : State) (p : Nat) : Nat := (s.linkNow p).toNat / superframeQ

/-- Retries of commands that 64 superframes have not acknowledged: they wait for a block again (R80). -/
def State.retryPods (s : State) (p n : Nat) : State :=
  s.each (s.podsHere p) fun s q =>
    s.each ((s.pod p q).pending.filter fun c => decide (c.sent + 64 ≤ n) && decide (c.retries < 2)) fun s c =>
      if (s.port p).outbox.contains c.cmd then s else s.modPort p fun d => { d with outbox := d.outbox ++ [c.cmd] }

/-- A superframe ends and the next one's beacon leaves, at L = 1,056·n: the management blocks that did not come, the words of
slots that passed in vain, R_dev as measured, and the retries that are due. -/
def State.sendBeacon (s : State) (p n : Nat) (rdev : Option (Fin 67584)) : State :=
  let s := s.each (s.unseenPods p) fun s q =>
    let k := s.unseenSlots p q
    if k = 0 then s else s.linkLossAdd p q (15 * k)
  let s := if (s.port p).beacon.isNone then s else s.each (s.podsHere p) fun s q => s.modPod p q fun d => { d with
    absent := if d.mgmtSeen then 0 else d.absent + 1, mgmtSeen := false }
  let s := match rdev with
    | some r => if s.ppLock p then s.setReg (PP_RDEV p) (BitVec.ofNat 32 r.val) else s
    | none => s
  let s := (s.setReg (PP_SFN p) (BitVec.ofNat 32 (n % 2 ^ 16))).modPort p fun d => { d with
    beacon := some n, passed := [], unlocked := !s.ppLock p, down := beaconBlock n
    tested := if s.regBit (PP_STATUS p) 8 then d.tested else none }
  s.retryPods p n

/-- The beacon of a superframe leaves once link time has reached it. -/
def execSuperframeBeacon (beacon : Beacon) (s : State) : Host.Outcome State Fault Refusal :=
  .next (
    let p := beacon.port.val
    let due := match (s.port p).beacon with | some b => decide (b < s.superframe p) | none => true
    if s.ppLive p && due then s.sendBeacon p (s.superframe p) beacon.rdev else s)

def execFrameReceived (port : Fin 16) (slot : Fin 62) (frame : PodFrame) (s : State) : Host.Outcome State Fault Refusal :=
  .next (
    if s.ppLive port && s.ppLock port then
      (s.frame port slot frame).modPort port fun d => { d with passed := d.passed ++ [slot.val] }
    else s)

/-- Block lock is lost: LINK_CHECK opens for every pod. -/
def execBlockLockLost (port : Fin 16) (s : State) : Host.Outcome State Fault Refusal :=
  .next (
    let p := port.val
    if !s.ppLive p || !s.ppLock p then s
    else
      let s := (s.setRegBit (PP_STATUS p) 0 false).modPort p fun d => { d with unlocked := true }
      s.each (s.podsHere p) fun s q => s.linkLossAdd p q 0)

/-- Block lock is gained. -/
def execBlockLockGained (port : Fin 16) (s : State) : Host.Outcome State Fault Refusal :=
  .next (
    let p := port.val
    if !s.ppLive p || s.ppLock p then s
    else s.setRegBit (PP_STATUS p) 0 true)

/-! ### Management blocks (R78) -/

/-- The pod has discarded words for lack of slots: POD_BUDGET over the superframe before the block. -/
def State.podBudget (s : State) (p q words : Nat) : State :=
  let t1 := s.now
  let t0 := max (t1 - superframeFt) s.time.armTime
  let s := s.addReg (PP_LOST_BUDGET p) words
  if !s.time.armed then s
  else
    let s := match s.podSink p q with
      | some i => s.wholeLoss i causeBudget 2 (podIndex p q) t0 t1 words
      | none => s
    s.podUnitSpan p q t0 t1

/-- Commands up to the acknowledged SEQ are acknowledged; they are applied in order (R80). The digest's comparison waits for
the rotation after the last write (R79). -/
def State.podAck (s : State) (p q : Nat) (seq : Byte) : State :=
  let pend := (s.pod p q).pending
  if !pend.any (fun c => c.cmd.seq == seq) then s
  else
    let rest := (pend.dropWhile fun c => c.cmd.seq != seq).drop 1
    s.modPod p q fun d => { d with
      pending := rest
      dig := if d.digHold && !rest.any (fun c => c.cmd.op == 0) && !(s.port p).outbox.any (fun c => c.op == 0 && c.pos.val == q)
        then [] else d.dig }

/-- A port enqueues a pod management packet for firmware on queue 4 (R226): the block, and a word whose contents the spec
does not give, which is free (log entry 104). -/
def State.podPacket (s : State) (b : DWord) : State :=
  let d := s.draw 64
  (d.2.pushPacket 4 [b, d.1] s.now).1

/-- A block with a sound CRC-8. -/
def mgmtSound (b : DWord) : Bool :=
  fld b 0 8 == 0x8E && (crc8 (slice (leBytes 8 b.toNat) 1 6)).toNat == fld b 56 8

/-- A management block: its index is that of the last beacon the pod had received when it sent it (R78). -/
def State.management (s : State) (p q : Nat) (sfn : Half) (b : DWord) : State :=
  if !mgmtSound b || !s.podHere p q then s
  else
    let i := sfn.toNat % 16
    let drop : BitVec 20 := BitVec.ofNat 20 (fld b 24 20)
    let info : BitVec 12 := BitVec.ofNat 12 (fld b 44 12)
    let old := Tbl.find? (s.pod p q).info i
    let more := match (s.pod p q).drop with | some d => (drop - d).toNat | none => 0
    let s := s.modPod p q fun d => { d with
      mgmtSeen := true, dig := Tbl.put d.dig i (BitVec.ofNat 16 (fld b 8 16)), drop := some drop
      info := Tbl.put d.info i info }
    let s := if more = 0 then s else s.podBudget p q more
    let s := match i, old with
      | 3, some o => if info = o then s else s.badFrames p (q + 1) (info - o).toNat
      | _, _ => s
    let s := if i = 4 && old.any (· != info) then s.podPacket b else s
    if i = 2 then
      let s := if (s.pod p q).pending.any (fun c => c.cmd.seq == info.setWidth 8) then s.podPacket b else s
      s.podAck p q (info.setWidth 8)
    else s

def execManagementBlockReceived (port : Fin 16) (pos : Fin 32) (block : MgmtBlock) (s : State) :
    Host.Outcome State Fault Refusal :=
  .next (if s.ppLive port && s.ppLock port then s.management port pos block.sfn block.bits else s)

/-! ### Delays (R72) -/

/-- R_p from the information page. -/
def PodDyn.rp (d : PodDyn) : Option Nat :=
  match Tbl.find? d.info 0, Tbl.find? d.info 1 with
  | some a, some b => some (a.toNat + 4096 * (b.toNat % 32))
  | _, _ => none

/-- D_p, and PP_DELAY with the pod's register when it moves by 4 UI or more, or with `always`. A half rounds freely (log entry
62). -/
def State.recomputeDelay (s : State) (p q : Nat) (always : Bool) : State :=
  match (s.pod p q).rp with
  | none => s
  | some rp =>
    let twice := (s.regF (PP_RDEV p) 0 17 + 67584 - rp % 67584) % 67584
    let x := s.draw 1
    let d := if twice % 2 = 1 then twice / 2 + x.1.toNat else twice / 2
    let old := s.regF (PP_DELAY p q) 0 17
    let s := if twice % 2 = 1 then x.2 else s
    if (max d old) - (min d old) < 4 && !always then s
    else (s.setReg (PP_DELAY p q) (BitVec.ofNat 32 d)).writePod p q 0xFA d

def execDelayRecompute (port : Fin 16) (pos : Fin 32) (s : State) : Host.Outcome State Fault Refusal :=
  .next (if s.ppLive port && s.podHere port pos then s.recomputeDelay port pos false else s)

/-- A pod at a position that the intent names with this serial number is configured, and its break ends; any other has the idle
image. -/
def State.configurePod (s : State) (p q : Nat) : State :=
  match Tbl.find? s.weaver.committed.pods (podIndex p q) with
  | some c => if s.podNamed s.weaver.committed p q then (s.writeImage p q c.image).podRestored p q else s.writeIdle p q
  | none => s.writeIdle p q

/-- A rotation of a pod that is being added: after two, D_p and then the image are written, and a re-placement gives it its
slots (R84). -/
def State.additionTurn (s : State) (p q : Nat) : State :=
  match (s.pod p q).adding with
  | none => s
  | some n =>
    if n = 0 || (s.pod p q).rp.isNone then s.modPod p q fun d => { d with adding := some 1 }
    else (((s.modPod p q fun d => { d with adding := none }).recomputeDelay p q true).configurePod p q).dueReplacement

/-! ### Digests of pods (R79, R318) -/

def State.podDigest (s : State) (p q : Nat) : List Byte := sha256 (s.pod p q).imageBytes
/-- The digest that the pod reported in the rotation. -/
def State.podReported (s : State) (p q : Nat) : List Byte := (s.pod p q).dig.vals.flatMap fun w => leBytes 2 w.toNat

/-- A rotation ends. The second one in a row that differs raises CONFIG_MISMATCH, and the image is written once more. -/
def State.rotation (s : State) (p q : Nat) : State :=
  let d := s.pod p q
  let full := d.dig.length == 16
  let e := s.podDigest p q
  let r := s.podReported p q
  let s := s.modPod p q fun d => { d with dig := [] }
  if !full then s
  else if d.digHold then
    if s.writesOpen p q (fun _ => true) then s else s.modPod p q fun d => { d with digHold := false, digBad := 0 }
  else if e == r then
    ((s.modPod p q fun d => { d with digBad := 0 }).setRegBit (PP_MISMATCH p) q false).clearMismatch (uPod p q) 1 e r
  else
    let s := s.modPod p q fun d => { d with digBad := d.digBad + 1 }
    if d.digBad = 0 then s
    else
      let known := s.weaver.mismatches.contains (uPod p q, 1)
      let s := (s.setRegBit (PP_MISMATCH p) q true).raiseMismatch (uPod p q) 1 e r
      if known then s
      else
        let im := (s.pod p q).imageBytes
        s.each (List.range 256) (fun s a => s.sendPod p q false 0 a (getLe im (4 * a) 4)) |>.modPod p q fun d => { d with
          digHold := true, digBad := 0 }

def execConfigDigestRotation (port : Fin 16) (pos : Fin 32) (s : State) : Host.Outcome State Fault Refusal :=
  .next (if s.ppLive port && s.podHere port pos then (s.rotation port pos).additionTurn port pos else s)

/-! ### Pod commands (R80, Tables 3.5 and 3.6) -/

/-- Downstream blocks of Tables 3.1 and 3.5. -/
def commandBlock (c : PodCommand) : DWord :=
  pack64 [(0, 8, 0x72), (8, 5, c.pos.val), (13, 1, c.bcast.toNat), (14, 2, c.op.toNat), (16, 8, c.seq.toNat),
    (24, 8, c.addr.toNat), (32, 32, c.data.toNat)]
def idleBlock (i : Nat) : DWord := pack64 [(0, 8, 0x1E), (8, 10, i)]

/-- A command has left for one pod: a new one waits for its acknowledgement, a repeated one is one more try. -/
def State.podCommand (s : State) (p q : Nat) (c : PodCommand) : State :=
  let now := s.superframe p
  s.modPod p q fun d => { d with
    pending :=
      if d.pending.any fun x => x.cmd == c then
        d.pending.map fun x => if x.cmd == c then { x with sent := now, retries := x.retries + 1 } else x
      else d.pending ++ [{ cmd := c, sent := now, retries := 0 }] }

/-- One downstream block: the oldest command that waits, or IDLE (R67). A command for a pod that is not there is discarded
(R80). -/
def execCommandBlockSent (port : Fin 16) (block : Fin 1023) (s : State) : Host.Outcome State Fault Refusal :=
  .next (
    let p := port.val
    if !s.ppLive p then s
    else match (s.port p).outbox with
      | [] => s.modPort p fun d => { d with down := idleBlock (block.val + 1) }
      | c :: rest =>
        let s := s.modPort p fun d => { d with outbox := rest, down := commandBlock c }
        s.each (if c.bcast then s.podsHere p else (s.podsHere p).filter (· == c.pos.val)) fun s q => s.podCommand p q c)

/-- The third silence of 64 superframes: the pod is at fault. -/
def execPodFault (port : Fin 16) (pos : Fin 32) (s : State) : Host.Outcome State Fault Refusal :=
  .next (
    let p := port.val
    let q := pos.val
    match (s.pod p q).pending.find? fun x => decide (2 ≤ x.retries) && decide (x.sent + 64 ≤ s.superframe p) with
    | some x =>
      if !s.ppLive p || !s.podHere p q then s
      else
        let s := s.modPod p q fun d => { d with pending := d.pending.filter (· ≠ x) }
        (s.ledPod (uPod p q) 0 (s.pod p q).serial).notice 0x05 [.f4 (uPod p q).toNat, .f4 x.cmd.seq.toNat]
    | none => s)

/-! ### Slot switches (R77) -/

/-- The port's active table becomes the staged one. -/
def State.switchSlots (s : State) (p : Nat) : State :=
  let tbl := (s.port p).nextSlots
  let s := s.each (List.range 62) fun s f =>
    let o := tbl.getD f 32
    s.setReg (PP_SLOT p f) (if o < 32 then BitVec.ofNat 32 (32 + o) else 0)
  (s.modPort p fun d => { d with nextSlots := [] }).setRegBit (PP_SWITCH p) 16 false

/-- A pod has not acknowledged its bitmaps. -/
def State.slotWritesOpen (s : State) (p : Nat) : Bool :=
  (s.podsHere p).any fun q => s.writesOpen p q fun a => a == 0xF8 || a == 0xF9

/-- The start of superframe N, with every bitmap acknowledged. -/
def execSlotSwitch (port : Fin 16) (s : State) : Host.Outcome State Fault Refusal :=
  .next (
    let p := port.val
    if s.ppLive p && s.regBit (PP_SWITCH p) 16 && s.regF (PP_SWITCH p) 0 16 == s.regF (PP_SFN p) 0 16 &&
        !(s.port p).nextSlots.isEmpty && !s.slotWritesOpen p then s.switchSlots p
    else s)

/-- From superframe N − 4 on firmware cancels a switch whose writes are not acknowledged, and reissues it with a new N. -/
def execSlotSwitchCancel (port : Fin 16) (ahead : Byte) (s : State) : Host.Outcome State Fault Refusal :=
  .next (
    let p := port.val
    let left := (s.regF (PP_SWITCH p) 0 16 + 2 ^ 16 - s.regF (PP_SFN p) 0 16) % 2 ^ 16
    if s.ppLive p && s.regBit (PP_SWITCH p) 16 && s.slotWritesOpen p && (left ≤ 4 || 2 ^ 15 ≤ left) then
      s.announceSwitch p ahead.toNat
    else s)

/-! ### Chains (R81, R83, R84) -/

/-- ENUM finds the chain; one that has changed starts a re-placement (R84, R310). -/
def State.enumerate (s : State) (p : Nat) (serials : List (BitVec 48)) : State :=
  let s := if (s.podsHere p).length = min 32 serials.length &&
      (serials.take 32).zipIdx.all fun x => s.podHere p x.2 && (s.pod p x.2).serial == x.1 then s
    else s.modWeaver fun w => { w with replaceDue := true }
  let n := min 32 serials.length
  let gone := (s.podsHere p).filter fun q => decide (n ≤ q)
  let s := s.each gone fun s q => (s.podBreak p q causeBreak).setRegBit (PP_PRESENT p) q false
  let s := s.each (serials.take 32).zipIdx fun s x =>
    let kept := s.podHere p x.2 && (s.pod p x.2).serial == x.1
    let s := s.enumPod p x.2 x.1
    if kept then s else s.configurePod p x.2
  (s.setRegF (PP_STATUS p) 1 6 n).setRegBit (PP_STATUS p) 7 (decide (32 < serials.length))

def execEnum (port : Fin 16) (serials : List (BitVec 48)) (s : State) : Host.Outcome State Fault Refusal :=
  .next (if s.ppLive port then s.enumerate port serials else s)

/-- The management blocks of this position and of every one above were absent in two superframes. -/
def State.absentFrom (s : State) (p pos : Nat) : Bool :=
  s.podHere p pos && ((s.podsHere p).filter fun q => decide (pos ≤ q)).all fun q => decide (2 ≤ (s.pod p q).absent)

def execChainBreak (port : Fin 16) (pos : Fin 32) (s : State) : Host.Outcome State Fault Refusal :=
  .next (if s.ppLive port && s.absentFrom port pos then (s.chainBreak port pos 1).dueReplacement else s)

/-- The pod added beyond pod `e` originates in the phase of the chain, and pod `e` forwards from a superframe at least 16 ahead
(R83). H and R_e come from `e`'s information page; one that the page has not given yet is free (log entry 98), as is how far
beyond 16 the superframe lies. -/
def State.extendChain (s : State) (p e : Nat) : State :=
  let d := s.draw 17
  let h := match Tbl.find? (s.pod p e).info 11 with | some h => h.toNat | none => d.1.toNat % 67584
  let r := d.2.draw 17
  let re := match (s.pod p e).rp with | some x => x | none => r.1.toNat % 67584
  let k := r.2.draw 4
  let s := k.2.podAction p (e + 1) false 0x03 ((re + 67584 - h % 67584) % 67584)
  s.podAction p e false 0x04 ((s.superframe p + 17 + (s.port p).outbox.length / 1023 + k.1.toNat) % 2 ^ 16)

/-- A pod joins beyond the last one; a 33rd has no position. ENUM comes first, then R83; the rest of R84 follows two rotations. -/
def execPodAdded (port : Fin 16) (serial : BitVec 48) (s : State) : Host.Outcome State Fault Refusal :=
  .next (
    let p := port.val
    let n := s.ppPods p
    if !s.ppLive p then s
    else if 32 ≤ n then s.setRegBit (PP_STATUS p) 7 true
    else
      let s := s.podAction p 0 true 0x01 0
      let s := (s.enumPod p n serial).setRegF (PP_STATUS p) 1 6 (n + 1)
      let s := if n = 0 then s else s.extendChain p (n - 1)
      let s := s.modPod p n fun d => { d with adding := some 0 }
      (s.notice 0x07 [.f4 (uPod p n).toNat, .f8 serial.toNat]).ledPod (uPod p n) 2 serial)

/-! ### Segment tests (R85) -/

/-- Four frames that failed on the segment alone within 1 ms start its test, or a test that the host has asked for begins: PRBS
replaces traffic, and pods at and beyond the segment keep time alone, their words counting under LINK_CHECK. -/
def execSegmentTestStart (port : Fin 16) (seg : Fin 32) (s : State) : Host.Outcome State Fault Refusal :=
  .next (
    let p := port.val
    let k := seg.val
    let u := uSegment p k
    if !s.ppLive p || !decide (k < s.ppPods p) || !(decide (4 ≤ s.segFails p k) || s.underTest u) || s.regBit (PP_STATUS p) 8 then s
    else
      let s := if s.underTest u then s else s.raiseFault u 0x05 (leBytes 8 p ++ leBytes 8 k)
      let s := s.podAction p k false 0x05 0
      let s := if k = 0 then s else s.podAction p (k - 1) false 0x06 0
      let s := ((s.setRegBit (PP_STATUS p) 8 true).setRegF (PP_STATUS p) 9 5 k).modPort p fun d => { d with tested := some k, bad := [] }
      s.each ((s.podsHere p).filter fun q => decide (k ≤ q)) fun s q => s.linkLossAdd p q 0)

/-- PRBS_END restores traffic; the test passes on zero errors with lock held throughout. -/
def execSegmentTestDone (port : Fin 16) (seg : Fin 32) (errors : Nat) (lockHeld : Bool) (s : State) :
    Host.Outcome State Fault Refusal :=
  .next (
    let p := port.val
    let k := seg.val
    let s := if s.regBit (PP_STATUS p) 8 && s.regF (PP_STATUS p) 9 5 = k then
        let s := s.podAction p k false 0x07 0
        let s := if k = 0 then s else s.podAction p (k - 1) false 0x07 0
        s.setRegBit (PP_STATUS p) 8 false
      else s
    s.testEnds (uSegment p k) 0x05 (errors == 0 && lockHeld))

/-! ### CONFIGURE_PODS (R331, Table 14.9) -/

def cfgPodN (p : List Byte) : Nat := getLe p 0 1
def cfgPodOff (k : Nat) : Nat := 8 + 1048 * k

def checkPodEntry (p : List Byte) (o : Nat) : List (Option Nat) :=
  [ ckFld p o 0 8 (· < 16), ckFld p (o + 1) 0 8 (· < 32), ckRsv p (o + 2) 1 0xFE, ckZero p (o + 3) 5, ckZero p (o + 0x16) 2
  , ckZero p (o + 0x18 + 4 * 0xF8) 12 ]

def checkConfigurePods (p : List Byte) : List (Option Nat) :=
  [ckFld p 0 0 8 (fun n => 1 ≤ n && n ≤ 3), ckZero p 1 7] ++
    (List.range (cfgPodN p)).flatMap fun k => checkPodEntry p (cfgPodOff k)

/-- One entry staged: its settings, or its removal from the intent. -/
def stagePod (p : List Byte) (t : Tbl PodCfg) (o : Nat) : Tbl PodCfg :=
  let k := podIndex (getLe p o 1) (getLe p (o + 1) 1)
  if getLe p (o + 2) 1 % 2 = 1 then
    Tbl.put t k { grant := getLe p (o + 8) 8, serial := BitVec.ofNat 48 (getLe p (o + 0x10) 6), image := slice p (o + 0x18) 1024 }
  else Tbl.del t k

def configurePodsCmd (img : MbImage) (s : State) : State × Option Response :=
  let p := img.payload
  let os := (List.range (cfgPodN p)).map cfgPodOff
  checked s (os.map fun o => refusalIf (s.portAbsent (getLe p o 1)) stNoUnit o)
    (done (s.modStaged fun i => { i with pods := os.foldl (stagePod p) i.pods }) [])

def execConfigurePods (m : Fin 32) (s : State) : Host.Outcome State Fault Refusal :=
  .next (s.runCommand m 0x0021 (fun _ => true) configurePodsCmd)

end Sys2Proof.Machine
end

