-- ==== Sys2Proof/Machine/Streams.lean ====
section
/-!
DEFINITION. The commands and events of streams (chapter 9, R129, R333, R335): binding, windows, ABORT, ANNOTATE, doorbells,
descriptors, flush time, periodic digests, buffers and loss segments.
-/
namespace Sys2Proof.Machine

/-! ### Events of the stream writers -/

/-- FLUSH_US after the first record of the open segment, it closes; RAW_BLOCKs of its lanes close first (R59, Table 9.4). -/
def State.flushTime (s : State) (i : Nat) : State :=
  match (s.stream i).firstRecord, s.def? 1 i with
  | some t, some p =>
    if (s.stream i).open_.isEmpty || s.slotEnd ≤ t + bFlushUs p * usFt then s
    else (s.closeStreamBlocks i s.now).closeSegment i true false
  | _, _ => s

def execFlushTime (stream : Fin 4096) (s : State) : Host.Outcome State Fault Refusal := .next (s.flushTime stream)

/-- The repetition of R214 in every stream while armed. -/
def execDigestPeriodic (s : State) : Host.Outcome State Fault Refusal :=
  .next (if s.time.armed then s.writeDigests true else s)

def execBufferCompletion (stream : Fin 4096) (s : State) : Host.Outcome State Fault Refusal := .next (s.deliver stream)

def execLossSegment (stream : Fin 4096) (s : State) : Host.Outcome State Fault Refusal :=
  .next (if s.hasStream stream then s.presentLoss stream else s)

/-! ### Doorbells and descriptors (R221, R222, R354, R360) -/

/-- A doorbell write counts only as a sound 32-bit write that reaches the function in D0 (R354, Table 15.12), outside a
Function Level Reset. -/
def State.doorbellOk (s : State) (attr : WriteAttr) : Bool := attr.bits == 32 && !attr.poisoned && !s.pcie.d3hot && s.pcie.linkUp && !s.pcie.flr

/-- A count moves from `old` to `new` backwards, modulo 2^32. -/
def movesBack (old new : Nat) : Bool := decide (2 ^ 31 ≤ (new + 2 ^ 32 - old) % 2 ^ 32)

/-- DESC_TAIL: descriptors posted. A value that moves back, or that leaves more than the ring outstanding, is ignored with a
RING_FAULT notice. A stream that is not bound has no rings and takes nothing (log entry 65). -/
def execDescTail (stream : Fin 4096) (value : Word) (attr : WriteAttr) (s : State) : Host.Outcome State Fault Refusal :=
  .next (
    let i := stream.val
    if !s.doorbellOk attr then s.seeWrite attr.poisoned
    else
      match s.def? 1 i with
      | none => s
      | some p =>
        let sd := s.stream i
        if movesBack sd.descTail value.toNat || decide (bDescN p < (value.toNat + 2 ^ 32 - sd.cplWritten) % 2 ^ 32) then
          s.noticeRingFault i value.toNat 0
        else s.modStream i fun d => { d with descTail := value.toNat })

/-- CPL_HEAD: completion entries consumed. -/
def execCplHead (stream : Fin 4096) (value : Word) (attr : WriteAttr) (s : State) : Host.Outcome State Fault Refusal :=
  .next (
    if !s.doorbellOk attr then s.seeWrite attr.poisoned
    else if s.hasStream stream then s.modStream stream fun d => { d with cplHead := value.toNat } else s)

/-- A fetch of descriptors of the stream is outstanding. -/
def State.fetching (s : State) (i : Nat) : Bool :=
  (s.pcie.outstanding ++ s.pcie.queued).any fun r => match r.owner with | .descriptors j _ _ => j == i | .command _ => false

/-- Descriptors that the next fetch reads: at most 64, within the Max Read Request Size, and not past the ring's end. -/
def fetchCount (limit size first tail : Nat) : Nat :=
  min (min 64 (limit / 16)) (min (size - first % size) ((tail + 2 ^ 32 - first) % 2 ^ 32))

/-- A read of posted descriptors, one at a time for a stream (R360). -/
def execDescriptorFetch (stream : Fin 4096) (s : State) : Host.Outcome State Fault Refusal :=
  .next (
    let i := stream.val
    match s.def? 1 i with
    | none => s
    | some p =>
      let sd := s.stream i
      let size := max 1 (bDescN p)
      let n := fetchCount s.pcie.maxReadRequest size sd.descFetched sd.descTail
      if !s.canDma || sd.dmaFailed || s.fetching i || n = 0 || s.pcie.readLimit ≤ s.pcie.outstanding.length then s
      else s.issueRead (.descriptors i sd.descFetched n) (bDescAddr p + 16 * (sd.descFetched % size)) (16 * n))

/-- The descriptor breaks Table 9.19. -/
def descBad (b : List Byte) : Bool :=
  getLe b 0 8 % 64 != 0 || getLe b 8 4 % 4096 != 0 || decide (getLe b 8 4 < 4096) || decide (2 ^ 24 < getLe b 8 4) ||
    decide (1 < getLe b 14 1) || getLe b 15 1 != 0

def descOf (num : Nat) (b : List Byte) : Desc :=
  { num := num, addr := getLe b 0 8, len := getLe b 8 4, bufId := BitVec.ofNat 16 (getLe b 12 2)
    interrupt := getLe b 14 1 % 2 == 1, bad := descBad b }

/-- A descriptor is taken: a bad one posts RING_FAULT and is completed at once if an entry is free (R221). One that was taken
before Bus Master Enable was cleared is read again and replaces what was read then (Table 15.13 step 7). -/
def State.takeDescriptor (s : State) (i num : Nat) (b : List Byte) : State :=
  let d := descOf num b
  let again := (s.stream i).descTaken != num
  let s := s.modStream i fun sd => { sd with
    descFetched := (num + 1) % 2 ^ 32, descTaken := if again then sd.descTaken else (num + 1) % 2 ^ 32 }
  if again then s.modStream i fun sd => { sd with descs := sd.descs.map fun x => if x.num = num then d else x }
  else if !d.bad then s.modStream i fun sd => { sd with descs := sd.descs ++ [d] }
  else
    let s := s.noticeRingFault i num 1
    if s.cplFree i (s.stream i) then s.completeWithoutData i d
    else s.modStream i fun sd => { sd with descs := sd.descs ++ [d] }

/-- The bytes of a fetch arrive. -/
def State.takeDescriptors (s : State) (i first count : Nat) (bytes : List Byte) : State :=
  if !s.hasStream i then s
  else s.each (List.range count) fun s k => s.takeDescriptor i ((first + k) % 2 ^ 32) (slice bytes (16 * k) 16)

/-- A fetch fails: delivery halts with DMA_FAILED and STREAM_FAULT (R335). -/
def State.failDescriptors (s : State) (i status : Nat) : State :=
  if !s.hasStream i then s
  else (s.modStream i fun sd => { sd with dmaFailed := true }).noticeStreamFault i status

/-! ### BIND_STREAM (R205, R333) -/

def powerOfTwo (n lo hi : Nat) : Bool := (List.range 17).any fun k => n == 2 ^ k && decide (lo ≤ n) && decide (n ≤ hi)

/-- Compression settings of Table 11.2; with FORMAT 0 the others are ignored (R247). -/
def checkCompression (p : List Byte) : List (Option Nat) :=
  ckRsv p 4 2 0xFF00 ::
    if bFormat p = 0 then [] else [ckFld p 4 5 3 (· ≤ 4), ckFld p 4 16 16 (· ≤ 4096)]

/-- Pads of the lists. -/
def checkPads (p : List Byte) : List (Option Nat) :=
  [ ckZero p (0x40 + bLaneN p) (bPodOff p - (0x40 + bLaneN p))
  , ckZero p (bPodOff p + 2 * bPodN p) (bSeqOff p - (bPodOff p + 2 * bPodN p)) ]

def checkBindStream (p : List Byte) : List (Option Nat) :=
  [ ckRsv p 0 4 0xFFFFFFF8
  , (if bVectorValid p then ckFld p 0x0A 0 16 (· < 2048) else none)
  , ckZero p 0x0C 4
  , (if bWindowed p && bRetention p != 0 then some (8 * 0x10) else none)
  , ckFld p 0x18 0 64 (· % 4096 == 0), ckFld p 0x20 0 64 (· % 4096 == 0)
  , ckFld p 0x28 0 32 (fun n => powerOfTwo n 16 65536)
  , ckFld p 0x2C 0 32 (fun n => powerOfTwo n 16 65536 && decide (bDescN p ≤ n))
  , ckFld p 0x34 0 16 (· ≤ 32), ckZero p 0x36 2, ckZero p 0x38 8 ] ++
  checkCompression p ++ checkPads p ++
  (bLanes p).zipIdx.map (fun x => if x.1 < 192 then none else some (8 * (0x40 + x.2))) ++
  (bPods p).zipIdx.map fun x => if x.1 < 512 then none else some (8 * (bPodOff p + 2 * x.2))

def handlesBindStream (p : List Byte) : List HandleUse :=
  (bSeqs p).zipIdx.map fun x => { handle := x.1, at_ := some (bSeqOff p + 4 * x.2), types := [2], optional := false }

/-- Staged bindings of the other streams. -/
def State.otherBinds (s : State) (i : Nat) : List (List Byte) :=
  ((s.weaver.staged.defined 1).filter (· ≠ i)).filterMap fun j => s.weaver.staged.def? 1 j

/-- A source is bound once: in no other stream, and once in this one (R205). -/
def boundTwice (l : List Nat) (others : List (List Nat)) (k : Nat) : Bool :=
  others.any (·.contains (l.getD k 0)) || (l.take k).contains (l.getD k 0)

def State.laneRefusals (s : State) (i : Nat) (p : List Byte) : List (Option Response) :=
  let old := match s.weaver.staged.def? 1 i with | some q => bLanes q | none => []
  (bLanes p).zipIdx.flatMap fun x =>
    [ refusalIf (s.laneAbsent x.1) stNoUnit (0x40 + x.2)
    , refusalIf (s.lnRetired x.1 && !old.contains x.1) stRetired (0x40 + x.2)
    , refusalIf (boundTwice (bLanes p) ((s.otherBinds i).map bLanes) x.2) stInvalid (0x40 + x.2) ]

def State.podRefusals (s : State) (i : Nat) (p : List Byte) : List (Option Response) :=
  (bPods p).zipIdx.flatMap fun x =>
    [ refusalIf (s.portAbsent (x.1 / 32)) stNoUnit (bPodOff p + 2 * x.2)
    , refusalIf (boundTwice (bPods p) ((s.otherBinds i).map bPods) x.2) stInvalid (bPodOff p + 2 * x.2) ]

/-- With FORMAT 0 the other compression settings are not stored (R247). -/
def storedBind (p : List Byte) : List Byte := if bFormat p = 0 then p.take 4 ++ leBytes 4 0 ++ p.drop 8 else p

def bindStreamCmd (img : MbImage) (s : State) : State × Option Response :=
  let i := hIdx img.handle
  checked s (s.laneRefusals i img.payload ++ s.podRefusals i img.payload) (done (s.stageDef 1 i (storedBind img.payload)) [])

def execBindStream (m : Fin 32) (s : State) : Host.Outcome State Fault Refusal :=
  .next (s.runCommand m 0x0025 (fun _ => true) bindStreamCmd)

/-! ### SET_WINDOW (R129) -/

def checkSetWindow (p : List Byte) : List (Option Nat) := [ckFld p 0 0 32 (· ≤ 2 ^ 30), ckFld p 4 0 32 (· ≤ 2 ^ 30)]

def setWindowCmd (img : MbImage) (s : State) : State × Option Response := done (s.stageDef 8 (hIdx img.handle) img.payload) []

def execSetWindow (m : Fin 32) (s : State) : Host.Outcome State Fault Refusal :=
  .next (s.runCommand m 0x0026 (fun _ => true) setWindowCmd)

/-! ### ABORT naming a stream (R219, R335) -/

/-- RESULT 0; 2 for a stream outside the committed configuration, of which nothing runs (log entry 65). -/
def abortStreamCmd (img : MbImage) (s : State) : State × Option Response :=
  let i := hIdx img.handle
  if s.hasStream i then
    done (((s.flushStream i).modStream i fun sd => { sd with dmaFailed := false }).deliver i) (leBytes 4 0)
  else done s (leBytes 4 2)

def execAbortStream (m : Fin 32) (s : State) : Host.Outcome State Fault Refusal :=
  .next (s.runCommand m 0x0043 (fun img => hType img.handle == 1) abortStreamCmd)

/-! ### ANNOTATE (R206, R335, Table 9.13) -/

def annN (p : List Byte) : Nat := getLe p 0 1
def annBytes (p : List Byte) : List Byte := slice p (4 + 4 * annN p) (getLe p 1 1)
def annHandles (p : List Byte) : List Word := (List.range (annN p)).map fun k => BitVec.ofNat 32 (getLe p (4 + 4 * k) 4)

def checkAnnotate (p : List Byte) : List (Option Nat) :=
  [ ckFld p 0 0 8 (fun n => 1 ≤ n && n ≤ 8), ckFld p 1 0 8 (· ≤ 248), ckZero p 2 2
  , ckZero p (4 + 4 * annN p + getLe p 1 1) (pad4 (4 + 4 * annN p + getLe p 1 1) - (4 + 4 * annN p + getLe p 1 1)) ]

def handlesAnnotate (p : List Byte) : List HandleUse :=
  (annHandles p).zipIdx.map fun x => { handle := x.1, at_ := some (4 + 4 * x.2), types := [1], optional := false }

def annotateCmd (img : MbImage) (s : State) : State × Option Response :=
  let p := img.payload
  checked s [refusalIf (!s.time.armed) stNotReady 0]
    (done (s.each ((annHandles p).map hIdx).eraseDups fun s i => s.writeRecs i (annotationRecs 1 (annBytes p) s.slotStart))
      (leBytes 8 s.slotStart))

def execAnnotate (m : Fin 32) (s : State) : Host.Outcome State Fault Refusal :=
  .next (s.runCommand m 0x0053 (fun _ => true) annotateCmd)

end Sys2Proof.Machine
end

