-- ==== Sys2Proof/Machine/Compression.lean ====
section
/-!
DEFINITION. Compressor and decompressor engines (chapter 11): blocks and members (R249 to R254), serving and contexts (R258,
R259), the self-check and the known-answer test (R266), and reruns of corrupt members (R264).
-/
namespace Sys2Proof.Machine

/-! ### Slots (Table 11.8) -/

def State.ceSlot (s : State) (n k : Nat) : Word := s.reg (CE_SLOT n k)
def State.ceSlotValid (s : State) (n k : Nat) : Bool := bit (s.ceSlot n k) 12
def State.ceSlotStream (s : State) (n k : Nat) : Nat := fld (s.ceSlot n k) 0 12
def State.ceActive (s : State) (n : Nat) : Nat := s.regF (CE n 0) 5 3
/-- The engine works: in service and not under test. -/
def State.ceWorks (s : State) (n : Nat) : Bool := !s.isRetired (uCe n) && !s.underTest (uCe n) && !(s.ce n).testing
def State.deWorks (s : State) (n : Nat) : Bool := !s.isRetired (uDe n) && !s.underTest (uDe n) && !(s.de n).testing

/-! ### Blocks -/

/-- Room in the posted buffers that have a completion entry (R254). -/
def State.postedRoom (s : State) (i : Nat) : Nat :=
  let sd := s.stream i
  let free := match s.def? 1 i with | some p => bCplN p - (sd.cplWritten + 2 ^ 32 - sd.cplHead) % 2 ^ 32 | none => 0
  sumOn ((sd.descs.filter fun (d : Desc) => !d.bad).take free) (fun (d : Desc) => d.len) - sd.fillLen - sd.outBytes

/-- Segments of one block, in order: it ends at its size, at a flush point and at the end of the member (R225, R249). -/
def State.takeBlock (i size interval : Nat) : Nat → List Segment → State → State × List Segment
  | 0, acc, s => (s, acc)
  | fuel + 1, acc, s =>
    let s := State.skipOutside i ((s.stream i).ring.length + 1) s
    match s.nextSegment i with
    | none => (s, acc)
    | some g =>
      let r := s.takeSegment i g
      let acc := acc ++ [r.2]
      if g.flushPoint || g.memberEnd || (s.stream i).oldBinds.any (fun b => b.1 == g.seq) || size ≤ 4096 * acc.length ||
          interval ≤ (s.stream i).memberBytes + 4096 * acc.length then (r.1, acc)
      else State.takeBlock i size interval fuel acc r.1

/-- What a segment's output carries. -/
def Segment.tag (g : Segment) : SegTag := { seq := g.seq, mark := g.markTime, loss := g.hasLoss, fresh := true }

/-- The bits of a compressed block enter the output, segment by segment: `cuts` gives the bits of each, the last takes the rest. -/
def StreamDyn.emitBlock : List SegTag → List Nat → List Bool → StreamDyn → StreamDyn
  | [], _, _, sd => sd
  | [g], _, bs, sd => sd.emitBits [g] bs
  | g :: t, cuts, bs, sd =>
    StreamDyn.emitBlock t (cuts.drop 1) (bs.drop (cuts.headD 0)) (sd.emitBits [g] (bs.take (cuts.headD 0)))

/-- A block's bytes enter the member: compressed if that is at least 5 bytes smaller, else into the stored run (R252). Answers
the stored blocks written too. -/
def StreamDyn.putBlock (sd : StreamDyn) (segs : List Segment) (block : Option (List Bool)) (cuts : List Nat) : StreamDyn × Nat :=
  let tags := segs.map Segment.tag
  match block with
  | some bs => (StreamDyn.emitBlock tags cuts bs sd.endRun, if sd.storedRun.isEmpty then 0 else 1)
  | none =>
    let sd := { sd with
      storedRun := sd.storedRun ++ bytesOf (segs.flatMap (·.words)), runTags := sd.runTags ++ tags.map fun g => (g, 8 * segWords) }
    (StreamDyn.wholeBlocks (sd.storedRun.length / 65535 + 1) sd, sd.storedRun.length / 65535)

/-- A flush point: the run ends, an empty stored block follows, and the buffer closes (R223, R250). -/
def StreamDyn.flushPoint (sd : StreamDyn) : StreamDyn × Nat :=
  ((sd.endRun.storedBlock [] []).closeChunk false, if sd.storedRun.isEmpty then 0 else 1)

/-- The member header, at a member's first block. -/
def State.openMember (s : State) (i : Nat) (sd : StreamDyn) : StreamDyn :=
  if sd.memberOpen then sd
  else { (sd.emitBytes [] (memberHeader (s.strFormat i) (s.strEffort i))) with memberOpen := true, memberFormat := s.strFormat i }

/-- The segments' block: member header, block, flush point, and the member's end. -/
def State.writeBlock (s : State) (i : Nat) (segs : List Segment) (block : Option (List Bool)) (cuts : List Nat) : State :=
  let input := bytesOf (segs.flatMap (·.words))
  let sd := s.stream i
  let b := ((s.openMember i sd).checkInput input).putBlock segs block cuts
  let ends := (segs.any (·.memberEnd)) || decide (s.strMember i ≤ b.1.memberBytes)
  let flush := segs.any (·.flushPoint) && !ends
  let e := if flush then b.1.flushPoint else (b.1, 0)
  let s := (s.setStream i e.1).countOut i (e.1.outBytes - sd.outBytes) (b.2 + e.2)
  let s := match s.streamCe i with
    | some n => (s.addReg64 (CE n 0x04) input.length).addReg (CE n 0x18) flush.toNat
    | none => s
  (if ends then s.endMember i else s).passBinds i

/-- A compressed block keeps R249's rules: it is one block, not final, of the type that TABLES names, all of whose bits
decode, with the member's history, to its input. -/
def StreamDyn.blockDecodes (sd : StreamDyn) (tables : Nat) (input : List Byte) (bits : List Bool) : Bool :=
  match bits with
  | final :: t0 :: t1 :: _ =>
    let f := inflBlock (sd.memberBytes + input.length)
      { rev := sd.window, n := sd.memberBytes, x := { bits := bits.drop 1, pos := 1 }, fault := none }
    !final && t0.toNat + 2 * t1.toNat == tables + 1 && f.fault.isNone && f.x.bits.isEmpty && f.n == sd.memberBytes + input.length &&
      (f.rev.take input.length).reverse == input
  | _ => false

/-- The engine leaves the stream it was serving: that stream's run ends (R252, R258). -/
def State.leaveSlot (s : State) (n k : Nat) : State :=
  let old := s.ceActive n
  if old = k then s
  else
    let s := if s.ceSlotValid n old then s.breakRun (s.ceSlotStream n old) else s
    (s.incReg (CE n 0x1C)).setRegF (CE n 0) 5 3 k

/-- The decoded block differs from its input (R266): the fault is raised and the known-answer test starts. -/
def State.selfCheckFails (s : State) (n : Nat) : State :=
  ((s.incReg (CE n 0x24)).raiseFault (uCe n) 0x07 []).modCe n fun e => { e with testing := true }

/-- The session is over and nothing waits but the member's end. -/
def StreamDyn.atEnd (sd : StreamDyn) : Bool :=
  sd.fillClose && sd.memberOpen && sd.taken.isEmpty && sd.ring.isEmpty && sd.missing.isEmpty && sd.open_.isEmpty

/-- A stream has closed segments that wait for its engine; of a windowed one, segments of a window. -/
def State.waiting (s : State) (i : Nat) : Bool :=
  ((State.skipOutside i ((s.stream i).ring.length + 1) s).nextSegment i).isSome

/-- A slot can be served: its stream has closed segments that wait, and buffers for a block, or its member's end (R254, R258). -/
def State.slotReady (s : State) (n k : Nat) : Bool :=
  let i := s.ceSlotStream n k
  s.ceSlotValid n k && s.hasStream i && s.strFormat i != 0 && !(s.stream i).dmaFailed &&
    ((s.stream i).atEnd || (s.waiting i && decide (s.strBlock i + 4096 ≤ s.postedRoom i)))

/-- Of the segments that wait for a slot, one was closed by a MARK. -/
def State.markWaits (s : State) (n k : Nat) : Bool :=
  let sd := s.stream (s.ceSlotStream n k)
  (sd.taken ++ sd.ring).any (·.markTime.isSome)

/-- The slots that can be served, in turn: from the one after the slot served last (R258; log entry 117). -/
def State.turns (s : State) (n : Nat) : List Nat :=
  ((List.range 8).map fun j => (s.ceActive n + 1 + j) % 8).filter (s.slotReady n)

/-- Another slot goes first: one whose stream has a MARK waiting, else the one whose turn it is (R258). -/
def State.yields (s : State) (n k : Nat) : Bool :=
  match (s.turns n).find? (s.markWaits n) with
  | some j => j != k
  | none => (s.turns n).headD k != k

/-- One turn of an engine on a slot (R254, R258). The operands are what the engine builds: `decodeOk` says that its own check
has found no difference; a block of other contents than R249 allows is one that does not decode to its input (R266). -/
def State.serveSlot (s : State) (n k segs : Nat) (out : List Bool) (cuts : List Nat) (decodeOk : Bool) : State :=
  let i := s.ceSlotStream n k
  let s := s.passBinds i
  let sd := s.stream i
  if !s.ceWorks n || !s.ceSlotValid n k || !s.canDma || !s.hasStream i || s.strFormat i = 0 || sd.dmaFailed then s
  else if s.yields n k then s
  else if sd.atEnd then (s.leaveSlot n k).endMember i
  else if s.postedRoom i < s.strBlock i + 4096 then s
  else
    let r := State.takeBlock i (s.strBlock i) (s.strMember i) segs [] s
    if r.2.isEmpty then r.1
    else if !r.2.all (s.segRead i) then s.each r.2 fun s g => s.askSegment i g
    else
      let s := r.1.leaveSlot n k
      let s := s.modCe n fun e => { e with lru := e.lru.erase k ++ [k] }
      let small := decide (ceilDiv out.length 8 + 5 ≤ 4096 * r.2.length)
      let sound := decodeOk &&
        (!small || (s.stream i).blockDecodes (bTables (s.strBind i)) (bytesOf (r.2.flatMap (·.words))) out)
      let s := s.writeBlock i r.2 (if sound && small then some out else none) cuts
      if sound then s else s.selfCheckFails n

def execCompressorBlock (ce : Fin 16) (slot : Fin 8) (segs : Nat) (out : CodedBlock) (decodeOk : Bool) (s : State) :
    Host.Outcome State Fault Refusal :=
  .next (s.serveSlot ce slot segs out.bits out.cuts decodeOk)

/-! ### Contexts (R257 to R259) -/

/-- The rotating slot that gives way: the one served least recently (R258). -/
def State.lruSlot (s : State) (n : Nat) : Option Nat :=
  let rot := filterRange 8 fun k => s.ceSlotValid n k && !bit (s.ceSlot n k) 13
  match rot.find? fun k => !(s.ce n).lru.contains k with
  | some k => some k
  | none => (s.ce n).lru.find? rot.contains

/-- The slot that a context enters: any rotating slot that is free, else the one whose stream was served least recently
(R258; log entry 117). -/
def State.slotGives (s : State) (n k : Nat) : Bool :=
  if (List.range 8).all (s.ceSlotValid n) then s.lruSlot n == some k else !s.ceSlotValid n k

/-- The context in a rotating slot leaves it: the stream's block and run end where the engine was serving it (R252), and it is saved. -/
def State.evictSlot (s : State) (n k : Nat) : State :=
  if !s.ceSlotValid n k then s
  else
    let i := s.ceSlotStream n k
    let s := if s.ceActive n = k then (s.breakRun i).incReg (CE n 0x1C) else s
    s.saveContext i

/-- A windowed stream that has segments of a window waiting, or its member's end, enters a rotating slot; the context that
leaves is saved (R258). A restore whose copy is damaged, or gone with its channel, ends the member (R259). -/
def State.enterSlot (s : State) (n k i : Nat) (ok : Bool) : State :=
  let placed := s.weaver.place.streams.any fun p => p.obj == i && p.engine == some n && p.slot.isNone
  let held := (List.range 8).any fun j => s.ceSlotValid n j && s.ceSlotStream n j == i
  if !s.ceWorks n || !placed || held || bit (s.ceSlot n k) 13 || !s.slotGives n k || !(s.waiting i || (s.stream i).atEnd) then s
  else
    let moved := (s.ceSlotValid n k).toNat + 1
    let r := (s.evictSlot n k).loadContext i
    let d := r.1.strBind i
    let s := r.1.setReg (CE_SLOT n k) (BitVec.ofNat 32
      (i + 2 ^ 12 + bFormat d * 2 ^ 14 + bTables d * 2 ^ 16 + bEffort d * 2 ^ 17 + bBlock d * 2 ^ 19))
    let s := (s.countSlots n).addReg (CE n 0x20) moved
    if ok && !r.2 then s else (s.incReg (CE n 0x28)).abortStreamMember i

/-! ### Decompressor engines: their jobs and other work (R261) -/

/-- The compare job placed on an engine. -/
def State.deJob (s : State) (n : Nat) : Option CmpPlace := s.weaver.place.cmps.find? (·.de == n)

/-- Its unit awaits an anchor: no step runs and none has been anchored. The reference buffer is full at once (log entry 68). -/
def State.awaitsAnchor (s : State) (cu : Nat) : Bool := (s.cmp cu).step.isNone && (s.cmp cu).anchors.isEmpty

/-- Engines at work, but the one named. -/
def State.desAtWork (s : State) (but : Option Nat) : List Nat := filterRange 8 fun n => s.deWorks n && some n != but

/-- An engine for other work: one without a job first, in ascending order; else one whose job awaits an anchor (R261). -/
def State.spareDe (s : State) (but : Option Nat) : Option Nat :=
  let ok := s.desAtWork but
  match ok.find? fun n => (s.deJob n).isNone with
  | some n => some n
  | none => ok.find? fun n => match s.deJob n with | some c => s.awaitsAnchor c.cu | none => true

/-- An engine does other work. One with a job leaves it first: the job's context is saved. -/
def State.leaveJob (s : State) (n : Nat) (diag : Bool) : State :=
  match s.deJob n with
  | none => s
  | some _ =>
    if (s.de n).away then s.modDe n fun e => { e with diag := diag }
    else
      let r := s.contextChan
      let s := match r.1 with | some ch => r.2.askWrite ch 4 (deCtxBurst n) ctxBursts | none => r.2
      (s.modDe n fun e => { e with away := true, diag := diag, ctxChan := r.1, ctxLost := r.1.isNone }).addReg (DE n 0x28) 1

/-- A decompressor engine that has left its job returns to it (R261). -/
def State.enterJob (s : State) (n j : Nat) (ok : Bool) : State :=
  if s.isRetired (uDe n) || !(s.de n).away || !s.weaver.place.cmps.any (fun c => c.de == n && c.obj == j) then s
  else
    let e := s.de n
    let s := match e.ctxChan with | some ch => s.askRead ch 4 (deCtxBurst n) ctxBursts | none => s
    let s := s.setDe n { e with away := false, diag := false, ctxChan := none, ctxLost := false }
    let s := (s.addReg (DE n 0x28) 1).setRegF (DE n 0) 16 16 j
    if ok && !e.ctxLost then s else s.incReg (DE n 0x2C)

def execContextSwitchDone (e : EngineRef) (slot : Fin 8) (ctx : Half) (ok : Bool) (s : State) : Host.Outcome State Fault Refusal :=
  .next (match e with
    | .ce n => s.enterSlot n slot ctx.toNat ok
    | .de n => s.enterJob n ctx.toNat ok)

/-! ### Corrupt members (R262 to R264) -/

/-- The last fault of a decompressor engine (Table 11.9). -/
def State.deFault (s : State) (n code bitNo byte out : Nat) (diag : Bool) : State :=
  let s := s.setReg (DE n 0x14) (BitVec.ofNat 32 (code + bitNo * 16 + diag.toNat * 128))
  let s := (s.setReg (DE n 0x18) (BitVec.ofNat 32 byte)).setReg (DE n 0x1C) (BitVec.ofNat 32 (byte / 2 ^ 32 % 2 ^ 16))
  (s.setReg (DE n 0x20) (BitVec.ofNat 32 out)).setReg (DE n 0x24) (BitVec.ofNat 32 (out / 2 ^ 32 % 2 ^ 16))

/-- What a sound engine finds in a member in diagnostic mode. -/
def Member.rerun (m : Member) : Rerun :=
  match m.fault with
  | none => { code := 0, byte := 0, bit := 0, out := m.out.length }
  | some e => { code := BitVec.ofNat 4 e.code, byte := e.at_ / 8, bit := ⟨e.at_ % 8, Nat.mod_lt _ (by decide)⟩, out := m.out.length }

/-- Where the rerun's fault is in the terms of normal service: for input that ends too early OFFSET is the member's length,
at or past the field that BYTE names (R262, R263; log entry 66). -/
def rerunAt (r : Rerun) (offset : Nat) : Bool := r.byte == offset || (r.code.toNat == faultTrunc && decide (r.byte ≤ offset))

/-- RESULT of a rerun: 0 DATA, 1 ENGINE, 2 DIFFER. -/
def rerunResult (offset : Nat) (r : Rerun) : Nat := if r.code = 0 then 1 else if rerunAt r offset then 0 else 2

/-- An engine finds a member CORRUPT in service: it counts, and the rerun is due (R262, R264). -/
def State.corruptFound (s : State) (e : Nat) (c : Corrupt) : State :=
  ((s.incReg (DE e 0x10)).deFault e 0x1 0 c.offset 0 false).modDe e fun x => { x with corrupt := x.corrupt ++ [c] }

/-- A member that engine `e` found CORRUPT is rerun on engine `n` in diagnostic mode; ENGINE and DIFFER put `e` under test (R264). -/
def State.rerunOn (s : State) (e n : Nat) (c : Corrupt) : State :=
  let r := c.rerun
  let s := s.modDe e fun x => { x with corrupt := x.corrupt.erase c }
  let s := (s.leaveJob n true).addReg64 (DE n 0x04) r.out
  let s := if r.code = 0 then s.incReg (DE n 0x0C) else s.deFault n r.code.toNat r.bit r.byte r.out true
  let res := rerunResult c.offset r
  let s := s.ledReference c.ref c.member c.offset res r.code.toNat r.bit r.byte r.out
  if res = 0 then s else (s.raiseFault (uDe e) 0x07 []).modDe e fun x => { x with testing := true }

/-- The rerun takes another engine where one works, once one is free; else the same engine, which runs its known-answer test first. -/
def State.rerun (s : State) (e : Nat) (c : Corrupt) : State :=
  match s.spareDe (some e) with
  | some n => s.rerunOn e n c
  | none => if (s.desAtWork (some e)).isEmpty then s.modDe e fun x => { x with testing := true } else s

/-- A CORRUPT result in service and its rerun. A result that the engine has already reported names its own member; any other
is what the operands say it reports (R264). -/
def State.decompressorCorrupt (s : State) (e : Nat) (c : Corrupt) : State :=
  match (s.de e).corrupt.find? fun x => x.ref == c.ref && x.member == c.member with
  | some x => s.rerun e x
  | none => (s.corruptFound e c).rerun e c

/-! ### Known-answer test (R266) -/

/-- Members that waited for the engine's own test are rerun on it (R264). -/
def State.rerunOwn (s : State) (e : Nat) : State := s.each (s.de e).corrupt fun s c => s.rerunOn e e c

def execKnownAnswerTestDone (e : EngineRef) (pass : Bool) (s : State) : Host.Outcome State Fault Refusal :=
  .next (match e with
    | .ce n => (s.modCe n fun x => { x with testing := false }).testEnds (uCe n) 0x07 pass
    | .de n =>
      let t := (s.modDe n fun x => { x with testing := false }).testEnds (uDe n) 0x07 pass
      if pass && (s.desAtWork (some n)).isEmpty then t.rerunOwn n else t)

end Sys2Proof.Machine
end

