-- ==== Sys2Proof/Machine/Library.lean ====
section
/-!
DEFINITION. Loading references (R139 to R146, R463), playing them (R262 to R265) and DIAG_DECOMPRESS (R263, R265): validation of
members, library space, playback demand.
-/
namespace Sys2Proof.Machine

/-! ### Content of members (R139 to R141): each answers the index of the first word at fault -/

def wordsOf (p : List Byte) : List DWord := (chunks 8 p).map wordOf

def firstIndex (n : Nat) (bad : Nat → Bool) : Option Nat := (List.range n).find? bad

/-- Table 6.2. -/
def headerFault (ws : List DWord) : Option Nat :=
  let w := fun k => ws.getD k 0
  let steps := fld (w 0) 48 16
  if ws.length < 4 then some ws.length
  else if fld (w 0) 0 32 != 0x3152435A || fld (w 0) 32 16 != 1 || steps = 0 || 4095 < steps then some 0
  else if fld (w 1) 45 19 != 0 then some 1
  else if fld (w 2) 23 41 != 0 then some 2
  else match firstIndex (min steps (ws.length - 4)) (fun k =>
      fld (w (4 + k)) 40 24 != 0 || (List.range k).any fun j => fld (w (4 + j)) 0 16 == fld (w (4 + k)) 0 16) with
    | some k => some (4 + k)
    | none => if ws.length = 4 + steps then none else some (min ws.length (4 + steps))

/-- What the scan of a step member keeps: last OFFSET, edges, level last expected on each input, open spans (ALL under key
2^14). -/
structure StepCheck where
  last : Nat
  edges : Nat
  levels : Tbl Bool
  spans : List Nat
  deriving DecidableEq, Repr

/-- CIN field of a word that names an input, or zero with ALL. -/
def cinOk (w : DWord) (all : Bool) : Bool := if all then wCin w == 0 else cinValid (wCin w)

/-- A word between STEP_BEGIN and STEP_END; none when it is at fault (Table 6.3, R141). -/
def StepCheck.word (c : StepCheck) (len : Nat) (w : DWord) : Option StepCheck :=
  let t := wType w
  let all := t != 2 && t != 3 && wBit45 w
  let key := if all then 2 ^ 14 else wCin w
  let o := wOffset w
  if t < 2 || 6 < t || !cinOk w all then none
  else if t = 4 then some c
  else if bit w 44 || o < c.last || len < o then none
  else
    let c := { c with last := o }
    match t with
    | 2 => if Tbl.find? c.levels key = some (wBit45 w) then none
      else some { c with levels := Tbl.put c.levels key (wBit45 w), edges := c.edges + 1 }
    | 5 => if c.spans.contains key then none else some { c with spans := key :: c.spans }
    | 6 => if c.spans.contains key then some { c with spans := c.spans.erase key } else none
    | _ => some c

/-- The words from index `k` on, of which `left` should come. -/
def stepScan (len count : Nat) : List DWord → Nat → StepCheck → Option Nat
  | [], k, _ => some k
  | w :: t, k, c =>
    if count ≤ k then some k
    else if wType w = 7 then
      if !t.isEmpty || fld w 32 28 != 0 || !c.spans.isEmpty || fld w 0 32 != c.edges then some k
      else if k + 1 = count then none else some (k + 1)
    else match c.word len w with
      | some c => stepScan len count t (k + 1) c
      | none => some k

/-- A step member against its header entry. -/
def stepFault (entry : DWord) (ws : List DWord) : Option Nat :=
  match ws with
  | [] => some 0
  | b :: t =>
    if wType b != 1 || wStepId b != fld entry 0 16 || wBeginLen b = 0 then some 0
    else if fld entry 16 24 = 0 then some 0
    else stepScan (wBeginLen b) (fld entry 16 24) t 1 { last := 0, edges := 0, levels := [], spans := [] }

/-- Content of member `j` of a reference with the given header. -/
def contentFault (header : List DWord) (j : Nat) (out : List Byte) : Option Nat :=
  let ws := wordsOf out
  if out.length % 8 ≠ 0 then some (out.length / 8)
  else if j = 0 then headerFault ws
  else if fld (header.getD 0 0) 48 16 < j then some 0
  else stepFault (header.getD (3 + j) 0) ws

/-! ### Members in the library, and playing them (R145, R262, R264, R265) -/

/-- Compressed bytes of member `j` of a reference. -/
def State.memberBytes (s : State) (r j : Nat) : List Byte :=
  let d := s.ref r
  let first := if j = 0 then 0 else d.ends.getD (j - 1) 0
  ((s.pagesBytes d.pages d.bytes).drop first).take (d.ends.getD j 0 - first)

/-- The output limit of a member: WORDS × 8 of a step, (4 + STEPS) × 8 of the header (R265). -/
def memberLimit (d : RefDyn) (j : Nat) : Nat :=
  if j = 0 then 8 * (4 + refSteps d) else 8 * fld ((d.members.headD []).getD (3 + j) 0) 16 24

/-- What a sound engine makes of a stored member; none of a reference that holds no bytes. -/
def State.storedMember (s : State) (r j : Nat) : Option Member :=
  let d := s.ref r
  if d.pages.isEmpty then none else some (inflateMember d.format (memberLimit d j) (s.memberBytes r j))

/-- OFFSET that the playback of a member gives: of the fault that its bytes hold; of bytes without one, what the engine
reports by an error of its own (R262). -/
def State.playFault (s : State) (r j : Nat) (own : Option Nat) : Option Nat :=
  match s.storedMember r j with
  | some m => match m.fault with | some e => some (e.offset (s.memberBytes r j).length) | none => own
  | none => own

/-- The engine that plays for a unit has found a member CORRUPT: its rerun is due (R264). -/
def State.playedCorrupt (s : State) (cu r j offset : Nat) : State :=
  match s.weaver.place.cmps.find? (·.cu == cu), s.storedMember r j with
  | some c, some m => s.corruptFound c.de { ref := r, member := j, offset := offset, rerun := m.rerun }
  | _, _ => s

/-- At D, once the settle time is complete in every input, the verdict is issued; a member that fails its trailer check makes
its reference LOST and the step ABORTED (R145, R155, R160, Table 6.8). -/
def execDecisionInstant (cu : Fin 8) (fail : Option Nat) (s : State) : Host.Outcome State Fault Refusal :=
  .next (match (s.cmp cu).step with
    | none => s
    | some st =>
      let r := s.cuRef cu
      match s.playFault r (st.index + 1) fail with
      | some off =>
        if (s.ref r).phase = .ready then
          (s.playedCorrupt cu r (st.index + 1) off).loseReference r (.memberCheck (st.index + 1) off) [cu]
        else s
      | none => if s.cmpDone cu st.decision then (s.playedMember cu st).finishStep cu st.decision else s)

/-- A CORRUPT result in service (R262, R264): of a member in the library the rerun finds what its bytes hold; of one that is
not, what the operand says. -/
def execDecompressorCorrupt (e : Fin 8) (ref : Fin 1024) (member offset : Nat) (rerun : Rerun) (s : State) :
    Host.Outcome State Fault Refusal :=
  .next (
    if s.isRetired (uDe e) then s
    else s.decompressorCorrupt e
      { ref := ref, member := member, offset := offset
        rerun := match s.storedMember ref member with | some m => m.rerun | none => rerun })

/-! ### Playback demand (R146) -/

/-- OFFSET at which each word of a step member falls. -/
def wordOffsets : List DWord → Nat → List Nat
  | [], _ => []
  | w :: t, last =>
    let o := if wType w = 2 || wType w = 3 || wType w = 5 || wType w = 6 then wOffset w else last
    o :: wordOffsets t o

/-- Most words in a half-open span of 10 µs. -/
def mostWords : List Nat → Nat
  | [] => 0
  | o :: t => max (1 + t.countP fun x => decide (x < o + 2048000)) (mostWords t)

/-- Bytes per second of a step member, times 1.002, rounded up to 1 MB/s. -/
def stepDemand (ws : List DWord) : Nat := ceilDiv (mostWords (wordOffsets ws 0) * 801600) 1000000 * 1000000

/-! ### Library space (R145, R300) -/

/-- Pages of a channel that references and rings hold. -/
def State.pagesHeld (s : State) (ch : Nat) : Nat :=
  sumOn s.refs (fun e => e.2.pages.countP fun k => k / 4096 == ch) +
    sumOn (s.weaver.place.streams.filter fun p => p.stripe.contains ch) fun p => p.perChannel / (2 * mebi)

/-- The lowest page of a channel that no reference holds. -/
def State.freePage (s : State) (taken : List Nat) (ch : Nat) : Option Nat :=
  ((List.range (s.chanPages ch)).map (pageNo ch)).find? fun k => !taken.contains k && !s.refs.any fun e => e.2.pages.contains k

/-- Take `n` more pages, first fit in channel fill order. -/
def State.morePages (s : State) : Nat → List Nat → Option (List Nat)
  | 0, acc => some acc
  | n + 1, acc =>
    match s.fillOrder.findSome? fun ch =>
        if s.pagesHeld ch + acc.countP (fun k => k / 4096 == ch) < s.chanPages ch then s.freePage acc ch else none with
    | some k => s.morePages n (acc ++ [k])
    | none => none

/-- Ring bytes of the placement. -/
def State.ringsHeld (s : State) : Nat := sumOn s.weaver.place.streams fun p => p.perChannel * p.stripe.length

/-- A chunk of `n` bytes joins the library, or the refusal under code 0x0A: demand and limit. -/
def State.roomFor0A (s : State) (r n : Nat) : Except (Nat × Nat) (List Nat) :=
  let held := sumOn s.refs (fun e => e.2.bytes)
  let d := s.ref r
  let need := ceilDiv (d.bytes + n) (2 * mebi) - d.pages.length
  let demand := s.libraryBytes + s.ringsHeld + 2 * mebi * need
  if 2 ^ 33 < held + n then .error (held + n, 2 ^ 33)
  else if s.capacityLimit < demand then .error (demand, s.capacityLimit)
  else match s.morePages need [] with
    | some ps => .ok ps
    | none => .error (demand, s.capacityLimit)

/-! ### LOAD_REFERENCE -/

def loadCount (p : List Byte) : Nat := getLe p 8 4
def loadFormat (p : List Byte) : Nat := getLe p 0x0C 1
def loadFirst (p : List Byte) : Bool := getLe p 0x0D 1 % 2 == 1
def loadLast (p : List Byte) : Bool := getLe p 0x0D 1 / 2 % 2 == 1

def checkLoadReference (p : List Byte) : List (Option Nat) :=
  [ ckFld p 8 0 32 (· ≤ 2 ^ 24), ckFld p 0x0C 0 8 (fun f => f == 2 || f == 3), ckRsv p 0x0D 1 0xFC, ckZero p 0x0E 2 ]

/-- The reference returns to EMPTY and its space is freed. -/
def State.emptyRef (s : State) (r : Nat) : State := (s.freeRef r).setRef r RefDyn.init

/-- The state of the reference decides what a chunk may do (R144); a load that a frozen channel ended answers MEMORY_FAULT
(Table 12.4). -/
def State.loadRefusal (s : State) (img : MbImage) : Option Response :=
  let d := s.ref (hIdx img.handle)
  let p := img.payload
  firstRefusal
    [ (match d.fault with | some ch => some (Response.fail stMemFault ch) | none => none)
    , refusalIf (d.phase = .ready || d.phase = .lost) stBusy 0
    , refusalIf (!loadFirst p && d.phase = .empty) stInvalid 0x0D
    , refusalIf (!loadFirst p && d.phase = .loading && d.format != loadFormat p) stInvalid 0x0C ]

/-- CORRUPT_REFERENCE (Table 14.11): the reference is empty again. CAUSE 1 writes its REFERENCE record; for CAUSE 0 the
engine has found the member CORRUPT and its rerun is due (R264). -/
def State.corruptRef (s : State) (r member cause pos : Nat) (rerun : Option (Nat × Rerun)) : State × Option Response :=
  let s := s.emptyRef r
  let s := match rerun with
    | some x => s.corruptFound x.1 { ref := r, member := member, offset := pos, rerun := x.2 }
    | none => s.ledReference r member pos 3 0 0 0 0
  (s, some { status := BitVec.ofNat 16 stCorrupt, detail := 0
             bytes := leBytes 4 member ++ leBytes 1 cause ++ leBytes 3 0 ++ leBytes 8 pos })

/-- Outcome of verifying the members of a chunk. -/
inductive Verify where
  | ok (members : List (List DWord)) (ends : List Nat) (demand outBytes : Nat)
  | bad (member cause pos outBytes : Nat) (rerun : Option Rerun)
  deriving DecidableEq, Repr

/-- Decompress and validate member after member (R144, R265). -/
def verifyMembers (format : Nat) : Nat → List Byte → Nat → List (List DWord) → List Nat → Nat → Nat → Verify
  | 0, _, _, ms, es, demand, out => .ok ms es demand out
  | fuel + 1, p, room, ms, es, demand, out =>
    if p.isEmpty then .ok ms es demand out
    else
      let m := inflateMember format room p
      let j := ms.length
      match m.fault with
      | some e => .bad j 0 (e.offset p.length) (out + m.out.length) (some m.rerun)
      | none =>
        match contentFault (ms.headD []) j m.out with
        | some k => .bad j 1 k (out + m.out.length) none
        | none =>
          let ws := wordsOf m.out
          verifyMembers format fuel (p.drop m.used) (room - m.out.length) (ms ++ [ws])
            (es ++ [es.getLastD 0 + m.used]) (if j = 0 then demand else max demand (stepDemand ws)) (out + m.out.length)

/-- Bitmap of lanes in the weave, 8 bytes, and of pod positions, 4 ports of 32 bits. -/
def refLaneMap (d : RefDyn) : List Byte :=
  leBytes 8 (sumOn ((refCins d).filter fun c => !cinIsPod c) fun c => 2 ^ cinLane c)
def refPodMap (d : RefDyn) : List Byte :=
  (List.range 4).flatMap fun k =>
    leBytes 4 (sumOn (((refCins d).filter fun c => cinIsPod c && cinPort c == k).map cinPos).eraseDups fun q => 2 ^ q)

/-- The members verified, counted on the engine (Table 11.9). -/
def State.countMembers (s : State) (e members out : Nat) : State := (s.addReg (DE e 0x0C) members).addReg64 (DE e 0x04) out

/-- The load is complete (R146): the demand is checked, and the reference is READY. -/
def State.finishLoad (s : State) (r : Nat) : State × Option Response :=
  let d := s.ref r
  let members := d.members.length
  if members ≠ refSteps d + 1 then s.corruptRef r members 1 0 none
  else if 6400000000 < d.demand then
    (s.emptyRef r, some (refusal stAdmission 0x09 0 0 (s.handleOf 3 r) d.demand 6400000000))
  else
    let dig := sha256 (bytesOf d.members.flatten)
    let s := s.modRef r fun x => { x with phase := .ready, digest := dig }
    done s (leBytes 4 members ++ leBytes 4 0 ++ leBytes 8 d.demand ++ dig ++ refLaneMap d ++ refPodMap d ++
      List.replicate 0x78 0)

/-- The bytes of an accepted chunk are here: copied into the library, then verified. -/
def State.loadChunk (s : State) (img : MbImage) (bytes : List Byte) : State × Option Response :=
  let p := img.payload
  let r := hIdx img.handle
  let s := if loadFirst p then s.emptyRef r else s
  match s.roomFor0A r bytes.length with
  | .error (demand, limit) => (s.emptyRef r, some (refusal stAdmission 0x0A 0 0 (s.handleOf 3 r) demand limit))
  | .ok pages =>
    let old := s.ref r
    let s := s.modRef r fun d => { d with
      phase := .loading, format := loadFormat p, bytes := d.bytes + bytes.length, pages := d.pages ++ pages }
    let s := s.askPages (fun s a n => s.askWriteAt 4 a n) (s.ref r).pages old.bytes bytes.length
    let s := s.putPages (s.ref r).pages old.bytes bytes
    let n := (s.spareDe none).getD 0
    let s := s.leaveJob n false
    match verifyMembers (loadFormat p) (bytes.length + 1) bytes (96 * mebi) old.members old.ends old.demand 0 with
    | .bad m cause pos out rerun =>
      (s.countMembers n (m - old.members.length) out).corruptRef r m cause pos (rerun.map fun x => (n, x))
    | .ok ms es demand out =>
      let s := s.countMembers n (ms.length - old.members.length) out
      let s := s.modRef r fun d => { d with members := ms, ends := es, demand := demand }
      if loadLast p then s.finishLoad r else done s (leBytes 4 ms.length ++ leBytes 4 0)

/-- LOAD_REFERENCE: its checks, then it waits for its bytes, and for an engine to verify them (R261). With no decompressor
engine left nothing can be verified (log entry 68). -/
def loadReferenceCmd (m : Nat) (img : MbImage) (s : State) : State × Option Response :=
  match s.loadRefusal img with
  | some r => (s.modRef (hIdx img.handle) fun d => { d with fault := none }, some r)
  | none =>
    if (s.desAtWork none).isEmpty then refuse s stNotReady 0
    else if (s.spareDe none).isNone then (s, none)
    else if loadCount img.payload = 0 then s.loadChunk img []
    else match s.hostData m with
      | none => (s, none)
      | some bytes => (s.dropData m).loadChunk img bytes

def execLoadReference (m : Fin 32) (s : State) : Host.Outcome State Fault Refusal :=
  .next (s.runCommand m 0x0050 (fun _ => true) (loadReferenceCmd m))

/-! ### DIAG_DECOMPRESS (R263, R265, R336) -/

def diagLen (p : List Byte) : Nat := getLe p 8 4
def diagFormat (p : List Byte) : Nat := getLe p 0x0C 1
def diagOut (p : List Byte) : Nat := getLe p 0x10 8
def diagLimit (p : List Byte) : Nat := getLe p 0x18 4

/-- With a reference the source address must be 0. -/
def checkDiagDecompress (img : MbImage) : List (Option Nat) :=
  let p := img.payload
  [ (if img.handle = 0 then none else ckZero p 0 8), ckFld p 0x0C 0 8 (fun f => decide (1 ≤ f) && decide (f ≤ 3))
  , ckZero p 0x0D 3, ckZero p 0x1C 12 ]

/-- A channel that has frozen and holds bytes of the reference. -/
def State.frozenChan (s : State) (r : Nat) : Option Nat :=
  ((s.ref r).pages.map fun k => k / 4096).find? fun ch => s.mcState ch == 3

def State.diagRefusal (s : State) (img : MbImage) : Option Response :=
  let r := hIdx img.handle
  if img.handle = 0 then refusalIf (s.desAtWork none).isEmpty stNotReady 0
  else firstRefusal
    [ (s.frozenChan r).map fun ch => Response.fail stMemFault ch
    , refusalIf ((s.ref r).members.isEmpty || (s.desAtWork none).isEmpty) stNotReady 0
    , refusalIf ((s.ref r).members.length ≤ diagLen img.payload) stInvalid 8 ]

/-- The member is decompressed in diagnostic mode and what it gave before a fault is delivered. -/
def State.diagRun (s : State) (p bytes : List Byte) : State × Option Response :=
  let m := inflateMember (diagFormat p) (diagLimit p) bytes
  let n := (s.spareDe none).getD 0
  let s := if m.out.isEmpty then s else s.dmaWrite (diagOut p) m.out true
  let s := (s.leaveJob n true).addReg64 (DE n 0x04) m.out.length
  match m.fault with
  | none => done (s.incReg (DE n 0x0C)) (List.replicate 16 0 ++ leBytes 8 m.out.length)
  | some e =>
    let s := s.deFault n e.code (e.at_ % 8) (e.at_ / 8) m.out.length true
    done s (leBytes 1 e.code ++ leBytes 1 (e.at_ % 8) ++ leBytes 6 0 ++ leBytes 8 (e.at_ / 8) ++ leBytes 8 m.out.length)

def diagDecompressCmd (m : Nat) (img : MbImage) (s : State) : State × Option Response :=
  let p := img.payload
  match s.diagRefusal img with
  | some r => (s, some r)
  | none =>
    if (s.spareDe none).isNone then (s, none)
    else if img.handle ≠ 0 then s.diagRun p (s.memberBytes (hIdx img.handle) (diagLen p))
    else if diagLen p = 0 then s.diagRun p []
    else match s.hostData m with
      | none => (s, none)
      | some bytes => (s.dropData m).diagRun p bytes

def execDiagDecompress (m : Fin 32) (s : State) : Host.Outcome State Fault Refusal :=
  .next (s.runCommand m 0x0071 (fun _ => true) (diagDecompressCmd m))

end Sys2Proof.Machine
end

