-- ==== Sys2Proof/Machine/Pcie.lean ====
section
/-!
DEFINITION. The PCI Express endpoint (chapter 15): completions and timeouts of device reads (R364), Bus Master Enable (R366),
Function Level Reset (R367), the link (R345, R368), BAR 2 and MAP_WINDOW (R357 to R359), AER (R365).
-/
namespace Sys2Proof.Machine

/-! ### Device reads (R364) -/

/-- A command that waits on a read ends with a failure; LOAD_REFERENCE leaves its reference EMPTY. -/
def State.failCommand (s : State) (m status : Nat) : State :=
  let b := s.box m
  match b.taken with
  | some img =>
    if b.started && b.ready.isNone then
      ((if img.code.toNat = 0x0050 then s.emptyRef (hIdx img.handle) else s)).respond m (Response.fail status 0)
    else s
  | none => s

def State.failRead (s : State) (o : ReadOwner) (status : Nat) : State :=
  match o with
  | .command m => s.failCommand m status
  | .descriptors i _ _ => s.failDescriptors i status

/-- All bytes of a read have arrived. -/
def State.readArrives (s : State) (o : ReadOwner) (bytes : List Byte) : State :=
  match o with
  | .command _ => s.modPcie fun p => { p with delivered := p.delivered ++ [(o, bytes)] }
  | .descriptors i first count => s.takeDescriptors i first count bytes

def PcieState.dropRead (p : PcieState) (tag : Nat) : PcieState :=
  { p with outstanding := p.outstanding.filter fun r => r.tag ≠ tag }

/-- Parts that have come, in order of their offset. -/
def insertPart (x : ReadOwner × Nat × List Byte) : List (ReadOwner × Nat × List Byte) → List (ReadOwner × Nat × List Byte)
  | [] => [x]
  | y :: t => if x.2.1 < y.2.1 then x :: y :: t else y :: insertPart x t

/-- A part of a read arrives; with the last one the read is whole. -/
def State.partArrives (s : State) (r : DevRead) (data : List Byte) : State :=
  let s := s.modPcie fun p => { p with parts := insertPart (r.owner, r.off, padTo r.len data) p.parts }
  if (s.pcie.outstanding ++ s.pcie.queued).any (·.owner == r.owner) then s
  else
    let bytes := (s.pcie.parts.filter (·.1 == r.owner)).flatMap (·.2.2)
    (s.modPcie fun p => { p with parts := p.parts.filter (·.1 != r.owner) }).readArrives r.owner bytes

/-- The other parts of a read that fails are given up: those outstanding without an error. -/
def PcieState.dropOwner (p : PcieState) (o : ReadOwner) : PcieState :=
  { p with
    abandoned := p.abandoned ++ (p.outstanding.filter (·.owner == o)).map (·.tag)
    outstanding := p.outstanding.filter (·.owner != o), queued := p.queued.filter (·.owner != o)
    parts := p.parts.filter (·.1 != o) }

/-- The completion timeout in µs (Table 15.11). -/
def timeoutUs : Nat → Nat
  | 1 => 90
  | 2 => 9000
  | 5 => 50000
  | 6 => 200000
  | 9 => 800000
  | 10 => 3000000
  | 13 => 12000000
  | 14 => 60000000
  | _ => 40000

/-- A read times out, once it has been out as long as the Completion Timeout Value says (R363): AER, and its request fails with
DMA_TIMEOUT. -/
def execCompletionTimeout (tag : Nat) (s : State) : Host.Outcome State Fault Refusal :=
  .next (
    match s.pcie.outstanding.find? (·.tag == tag) with
    | none => s
    | some r =>
      if s.now < r.since + usFt * timeoutUs s.pcie.completionTimeout.toNat then s
      else
        let s := (s.modPcie fun p => (p.dropRead tag).dropOwner r.owner).incReg PCI_CTO
        ((s.aerError 14 false false).failRead r.owner stDmaTimeout).sendReads)

/-- A completion arrives. For a read given up without an error it is only counted (Table 15.13 step 3); for no outstanding
read it is an Unexpected Completion. -/
def execCompletionReceived (tag : Nat) (status : CplStatus) (data : List Byte) (s : State) : Host.Outcome State Fault Refusal :=
  .next (
    match s.pcie.outstanding.find? (·.tag == tag) with
    | some r =>
      let s := s.modPcie fun p => p.dropRead tag
      (if status = .success then s.partArrives r data
        else (s.modPcie fun p => p.dropOwner r.owner).failRead r.owner stDmaError).sendReads
    | none =>
      if s.pcie.abandoned.contains tag then
        (s.modPcie fun p => { p with abandoned := p.abandoned.erase tag }).incReg PCI_LATE_CPL
      else (s.incReg PCI_LATE_CPL).aerError 16 true true)

/-! ### Bus Master Enable (R366, Table 15.13) -/

/-- Outstanding reads are given up. -/
def State.abandonReads (s : State) : State :=
  s.modPcie fun p => { p with
    abandoned := p.abandoned ++ p.outstanding.map (·.tag), outstanding := [], queued := [], parts := [] }

/-- Bus Master Enable becomes clear: commands that wait on a read fail; descriptor fetches fail nothing. -/
def State.clearBusMaster (s : State) : State :=
  if !s.pcie.busMaster then s
  else
    let waiting := (s.pcie.outstanding ++ s.pcie.queued).filterMap fun r => match r.owner with | .command m => some m | .descriptors _ _ _ => none
    let s := ((s.modPcie fun p => { p with busMaster := false }).incReg PCI_BME_CLEARS).abandonReads
    s.each waiting fun s m => s.failCommand m stDmaError

/-- The number of the first descriptor not yet completed. -/
def StreamDyn.firstOpen (sd : StreamDyn) : Nat := match sd.descs with | d :: _ => d.num | [] => sd.descTaken

/-- What waited leaves, if requests may leave again. -/
def State.resumeDma (s : State) : State :=
  if s.pcie.busMaster && s.pcie.linkUp && !s.pcie.d3hot then
    (s.modPcie fun p => { p with sent := p.sent ++ p.held, held := [] }).sendPending
  else s

/-- Bus Master Enable is set: held writes and pending messages leave; every descriptor not yet completed is read again. -/
def State.setBusMaster (s : State) : State :=
  if s.pcie.busMaster || !s.pcie.linkUp then s
  else
    let s := (s.modPcie fun p => { p with busMaster := true }).resumeDma
    s.each s.streams.keys fun s i => s.modStream i fun sd => { sd with descFetched := sd.firstOpen }

def execBusMasterEnableCleared (s : State) : Host.Outcome State Fault Refusal := .next s.clearBusMaster
def execBusMasterEnableSet (s : State) : Host.Outcome State Fault Refusal := .next s.setBusMaster

/-! ### The link (R345, R368, Table 15.15) -/

/-- PCI_LINK with a link that is up. -/
def linkWord (rate : BitVec 4) (width : BitVec 5) (flit : Bool) : Word :=
  BitVec.ofNat 32 (rate.toNat + 16 * width.toNat + 512 * flit.toNat + 1024)

/-- Configuration registers after a reset of the function, which leaves it in D0: sticky bits, among them AER's masks and
severity, the link and what has left stay (R367, R368). -/
def PcieState.configReset (p : PcieState) : PcieState :=
  { PcieState.init with
    linkUp := p.linkUp, flr := p.flr, pmeEn := p.pmeEn, pmeStatus := p.pmeStatus, nextTag := p.nextTag
    outstanding := p.outstanding, delivered := p.delivered, held := p.held, sent := p.sent, pba := p.pba
    abandoned := p.abandoned, entries := p.entries, stagedWindows := p.stagedWindows
    aer := p.aer, aerCor := p.aerCor, aerFirst := p.aerFirst, headerLog := p.headerLog
    cfg := p.cfg.filterKeys fun a => a == 0x108 || a == 0x10C || a == 0x114
    bar2Waits := p.bar2Waits, bar2Logged := p.bar2Logged, rom := p.rom }

/-- The link goes down: Bus Master Enable is then clear; capture goes on (Table 15.15). -/
def execLinkDown (s : State) : Host.Outcome State Fault Refusal :=
  .next (
    if !s.pcie.linkUp then s
    else
      let s := s.clearBusMaster.modPcie fun p => { p.configReset with linkUp := false }
      ((s.setRegBit PCI_LINK 10 false).incReg PCI_LINK_DOWNS).ledLink 0)

def execLinkUp (rate : BitVec 4) (width : BitVec 5) (flit : Bool) (s : State) : Host.Outcome State Fault Refusal :=
  .next (
    if s.pcie.linkUp then s
    else ((s.modPcie fun p => { p with linkUp := true }).setReg PCI_LINK (linkWord rate width flit)).ledLink 1)

/-- The link retrains to another rate or width; the limit of budget 0x08 changes at the next COMMIT (R345). -/
def execLinkRetrain (rate : BitVec 4) (width : BitVec 5) (flit : Bool) (s : State) : Host.Outcome State Fault Refusal :=
  .next (
    if !s.pcie.linkUp then s
    else
      let same := fld (s.reg PCI_LINK) 0 4 == rate.toNat && fld (s.reg PCI_LINK) 4 5 == width.toNat
      let s := s.setReg PCI_LINK (linkWord rate width flit)
      if same then s else s.ledLink 3)

/-! ### AER (R365) -/

/-- A parity fault in the endpoint's buffers: fatal, with its header, and a ledger record. -/
def execUncorrectableInternalError (headerLog : List Byte) (s : State) : Host.Outcome State Fault Refusal :=
  .next (
    let h := padTo 16 headerLog
    let s := s.modPcie fun p => p.report 22 (some h) false
    s.ledgerReq 0x001C 4 noUnit 0x12 h)

/-- A host write that clears PME_Status releases WAKE_N (R409). -/
def execPmeStatusClear (s : State) : Host.Outcome State Fault Refusal :=
  .next ((s.modPcie fun p => { p with pmeStatus := false }).modStation fun st => { st with wakeN := false })

/-! ### BAR 2 (R357, R358, Table 15.9) -/

def bar2Window (off : BitVec 36) : Nat := off.toNat / 2 ^ 30
def State.bar2Entry (s : State) (off : BitVec 36) : Word := s.winEntry (bar2Window off) (off.toNat / 2 ^ 21 % 512)
/-- The memory address that a valid entry gives. -/
def bar2Ma (v : Word) (off : BitVec 36) : Nat := entryPage v * 2 ^ 21 + off.toNat % 2 ^ 21

/-- An access to an invalid entry is counted, with its offset; of a read, which its completion tells, the error is advisory. -/
def State.bar2Invalid (s : State) (off : BitVec 36) (read : Bool) : State :=
  ((s.incReg PCI_BAR2_UR).setReg PCI_BAR2_UR_ADDR_LO (BitVec.ofNat 32 off.toNat)).setReg PCI_BAR2_UR_ADDR_HI
    (BitVec.ofNat 32 (off.toNat / 2 ^ 32)) |>.aerError 20 true read

/-- Bytes that a BAR 2 read of a page returns: zeros where its bit is clear (R274). -/
def State.bar2Bytes (s : State) (ma len : Nat) : List Byte × State :=
  if s.pageOpen (pageOf ma) then
    let r := s.draw (8 * len)
    (leBytes len r.1.toNat, r.2)
  else if s.mem.written.contains (pageOf ma) then (s.memBytes ma len, s)
  else (List.replicate len 0, s)

/-- The completion carries poisoned data. -/
def State.bar2Poison (s : State) (len : Nat) : State :=
  let s := (s.incReg PCI_BAR2_POISON).aerError 26 true true
  (s.putRead 0xFFFFFFFFFFFFFFFF (List.replicate len 0xFF) false).modOut fun o => { o with readPoisoned := true }

/-- A read of BAR 2. One of a channel that is retrained or in self-refresh waits for it (R290, R294); an uncorrectable error
that it finds freezes the channel, with a syndrome that the command does not carry (free; R281). -/
def State.bar2Read (s : State) (off : BitVec 36) (len : Nat) (ask : ReadAsk) : State :=
  let s := s.readAttr ask.attr
  if !s.pcie.linkUp then s
  else if s.pcie.d3hot then (s.aerError 20 true true).putRead 0 [] true
  else
    let v := s.bar2Entry off
    if !entryValid v then (s.bar2Invalid off true).putRead 0 [] true
    else if s.mcState (entryChan v) == 5 || s.mcState (entryChan v) == 2 then
      s.modPcie fun p => { p with bar2Waits := p.bar2Waits ++ [(off, len, ask)] }
    else if s.mcState (entryChan v) == 3 then s.bar2Poison len
    else if ask.eccFail && s.pageChecked (entryPage v) then
      let d := s.draw 32
      (d.2.bar2Poison len).freezeChannel (entryChan v) (BitVec.ofNat 33 (bar2Ma v off)) 2 0 d.1
    else
      let r := (s.askReadAt 2 (bar2Ma v off) len).bar2Bytes (bar2Ma v off) len
      r.2.putRead (BitVec.ofNat 64 (leNat (r.1.take 8))) r.1 false

/-- The reads that waited are answered in order; those whose channel still keeps them waiting go on waiting. -/
def State.answerBar2 (s : State) : State :=
  let ws := s.pcie.bar2Waits
  if ws.isEmpty then s
  else s.each ws (fun s x => s.bar2Read x.1 x.2.1 x.2.2) |>.modPcie fun p => { p with bar2Waits := p.bar2Waits.drop ws.length }

/-- A read is at most 4,096 bytes and stays within a 4 KiB block, as PCI Express requires of every request. -/
def execBar2Read (off : BitVec 36) (len : Nat) (ask : ReadAsk) (s : State) : Host.Outcome State Fault Refusal :=
  .next (s.bar2Read off (min len (4096 - off.toNat % 4096)) ask)

/-- The ledger record of a write under DIAG_UNLOCK, once for each mapping generation. Table 16.4 has no type of its own for
it; the record is a DIAG_UNLOCK record with an ACTION that the spec leaves open (log entry 71). -/
def State.logBar2 (s : State) (w : Nat) : State :=
  let g := (s.reg (PCI_BAR2_GEN w)).toNat
  if s.pcie.bar2Logged.contains g then s
  else
    let r := (s.modPcie fun p => { p with bar2Logged := p.bar2Logged ++ [g] }).draw 8
    r.2.ledgerReq 0x0034 1 noUnit 0x11 ([r.1, 0, 0, 0] ++ leBytes 4 (s.reg HUB_RF_LAPSE).toNat)

def State.bar2Write (s : State) (off : BitVec 36) (data : List Byte) (poisoned : Bool) : State :=
  if !s.pcie.linkUp then s
  else if s.pcie.d3hot || poisoned then s.seeWrite poisoned
  else
    let v := s.bar2Entry off
    if !entryValid v then s.bar2Invalid off false
    else if !s.unlocked then s.incReg PCI_BAR2_WDROP
    else
      let s := s.logBar2 (bar2Window off)
      if s.mcState (entryChan v) == 3 then s else (s.askWriteAt 4 (bar2Ma v off) data.length).memPut (bar2Ma v off) data

def execBar2Write (off : BitVec 36) (data : List Byte) (poisoned : Bool) (s : State) : Host.Outcome State Fault Refusal :=
  .next (s.bar2Write off (data.take (4096 - off.toNat % 4096)) poisoned)

/-! ### MAP_WINDOW (R357, R359, Table 14.14) -/

def mapWindow (p : List Byte) : Nat := getLe p 0 1
def mapFirst (p : List Byte) : Nat := getLe p 2 2
def mapCount (p : List Byte) : Nat := getLe p 4 2
def mapEntry (p : List Byte) (k : Nat) : Word := BitVec.ofNat 32 (getLe p (8 + 4 * k) 4)

def checkMapWindow (p : List Byte) : List (Option Nat) :=
  [ ckFld p 0 0 8 (· < 64), ckZero p 1 1, ckFld p 2 0 16 (· < 512)
  , ckFld p 4 0 16 (fun n => decide (1 ≤ n) && decide (n ≤ 512 - mapFirst p)), ckZero p 6 2 ] ++
  (List.range (mapCount p)).map fun k => ckRsv p (8 + 4 * k) 4 (bits 30 16)

/-- Why an entry is refused (R357). -/
def State.entryRefusal (s : State) (k : Nat) (v : Word) : Option Response :=
  let ch := entryChan v
  let page := entryPage v % 4096
  if !entryValid v then none
  else firstRefusal
    [ refusalIf (decide (s.chanBytes ch ≤ page * 2 ^ 21) || (!s.unlocked && decide (s.chanPages ch ≤ page))) stInvalid (8 + 4 * k)
    , refusalIf (s.chanRetired ch) stRetired (8 + 4 * k) ]

/-- The window's table with the command's entries in it. -/
def State.stagedTable (s : State) (p : List Byte) : Tbl Word :=
  let w := mapWindow p
  (List.range (mapCount p)).foldl (fun t k => Tbl.set t (512 * w + mapFirst p + k) (mapEntry p k) 0)
    (s.pcie.entries.filterKeys fun k => k / 512 == w)

/-- The entries are staged; the response comes with the swap. -/
def mapWindowCmd (m : Nat) (img : MbImage) (s : State) : State × Option Response :=
  let p := img.payload
  match firstRefusal ((List.range (mapCount p)).map fun k => s.entryRefusal k (mapEntry p k)) with
  | some r => (s, some r)
  | none =>
    let w := mapWindow p
    (s.modPcie fun c => { c with
      stagedWindows := (c.stagedWindows.filter fun x => x.1 != w) ++ [(w, some m, s.stagedTable p)] }, none)

def execMapWindow (m : Fin 32) (s : State) : Host.Outcome State Fault Refusal :=
  .next (s.runCommand m 0x0080 (fun _ => true) (mapWindowCmd m))

/-- Window `w` swaps to its staged table and takes the new generation; its MAP_WINDOW responds. -/
def State.swapWindow (s : State) (w : Nat) : State :=
  match s.pcie.stagedWindows.find? (·.1 == w) with
  | none => s
  | some x =>
    let s := s.modPcie fun c => { c with
      stagedWindows := c.stagedWindows.filter fun y => y.1 != w
      entries := x.2.2.foldl (fun t e => Tbl.set t e.1 e.2 0) (c.entries.filterKeys fun k => k / 512 != w) }
    let s := s.bumpWindows [w]
    match x.2.1 with
    | some m => if (s.runnable m 0x0080).isSome then s.respond m (Response.ok (leBytes 4 (s.reg (PCI_BAR2_GEN w)).toNat)) else s
    | none => s

def execWindowTableSwap (w : Fin 64) (s : State) : Host.Outcome State Fault Refusal := .next (s.swapWindow w)

/-! ### Function Level Reset (R367, Table 15.14) -/

/-- The notification ring is unbound; notices stay in queue 2 (R337). -/
def State.unbindRing (s : State) : State :=
  (s.modMbx fun m => { m with ringAddr := 0, ringEntries := 0, ringVector := none }).setRegBit MB_NTF_CFG 0 false

/-- Every command is abandoned without a response (Table 15.14 step 5). -/
def State.abandonCommands (s : State) : State :=
  s.modMbx fun m => { m with
    order := []
    boxes := (m.boxes.map fun e => (e.1, { e.2 with owner := false, taken := none, started := false, ready := none })) }

/-- Units stop, and nothing is recorded (step 3). -/
def State.stopUnits (s : State) : State :=
  let s := s.modTime fun t => { t with armed := false, syncWait := none, newEpoch := false }
  let s := s.setRegBit STN_SYNC 16 false
  let s := s.modTrig fun _ => TrigState.init
  let s := s.each s.weaver.place.seqs fun s p => (s.setSeq p.sq SeqDyn.init).setReg (SQ_STATUS p.sq) 0
  let s := s.each s.weaver.place.cmps fun s c => (s.setCmp c.cu CmpDyn.init).setReg (CU c.cu 0x0C) 0
  let s := s.each s.weaver.place.ivals fun s u => s.setIval u.iu IvalDyn.init
  let s := s.each s.weaver.place.hists fun s h =>
    (s.setRegion h.hu h.region RegionDyn.init).setRegF (HU_RG h.hu h.region 0x04) 17 8 0
  let s := s.each (List.range 4) fun s h => s.modHist h fun u => { u with values := [], held := [], spillOrder := [] }
  let s := s.each s.lanes.keys fun s n => s.modLane n fun d => { d with
    l := { d.l with burst := none }, u := { d.u with burst := none }, block := none, full := [], levelDue := none, lastClock := none
    pendL := none, pendU := none }
  s.each (List.range 4) fun s k => s.setTout k ToutDyn.init

/-- Every object is destroyed and the configuration with them; the epoch stays (step 6, R314). -/
def State.destroyAll (s : State) : State :=
  let pods := s.weaver.place.slots.keys ++ (s.weaver.committed.pods.keys.map fun k => k / 32)
  let s := s.each s.weaver.created.keys State.destroyObject
  let s := s.modWeaver fun w => { w with
    staged := Intent.empty, committed := Intent.empty, place := Placement.empty, shed := [], heldRseq := [], heldCmps := [], healthDig := []
    replaceDue := false, mismatches := [] }
  let s := ((s.writeConfig []).writeTout []).writePlaceRo Intent.empty Placement.empty
  let s := s.each pods.eraseDups fun s p =>
    let s := s.each (s.podsHere p) fun s q => s.writeIdle p q
    let d := s.draw 4
    (d.2.modPort p fun d => { d with nextSlots := List.replicate 62 32 }).announceSwitch p d.1.toNat
  let s := s.putDigest HUB_CDIG []
  let s := s.putDigest HUB_PDIG []
  (((s.setRegBit HUB_HEALTH 0 false).setRegBit HUB_HEALTH 1 false).setRegBit HUB_HEALTH 2 false)

/-- Every BAR 2 entry is invalidated, with a new generation. -/
def State.clearWindows (s : State) : State :=
  let ws := Tbl.windows s.pcie.entries fun _ => true
  (s.modPcie fun c => { c with entries := [], stagedWindows := [] }).bumpWindows ws

/-- Steps 1 to 6 of Table 15.14 in one step of the model; step 7 comes with the next beat (log entry 69). -/
def State.functionReset (s : State) : State :=
  let s := s.abandonReads.modPcie fun p => { p.configReset with held := [], pba := [], delivered := [], bar2Waits := [], flr := true }
  let s := s.stopUnits
  let s := s.each [0, 1, 2, 4] State.flushQueue
  let s := s.ledgerReq 0x0005 1 noUnit 0x12 []
  let s := (State.createAll s.ledger.reqs.length s).flushLedger none
  let s := (s.abandonCommands.unbindRing.destroyAll.clearWindows).lockFile
  let s := (s.modFw fun f => { f with staging := none }).addReg PCI_FLRS 1
  s.loadRom

def execFunctionLevelReset (s : State) : Host.Outcome State Fault Refusal := .next s.functionReset

end Sys2Proof.Machine
end

