-- ==== Sys2Proof/Machine/ChannelEvents.lean ====
section
/-!
DEFINITION. Events of memory channels after which BAR 2 reads that waited are answered (R281, R290, R294): errors, the end of a training,
a wake.
-/
namespace Sys2Proof.Machine

/-- A read of a page whose bit is clear is not checked (R274). -/
def execUncorrectableError (ch : Fin 16) (off : BitVec 33) (port : BitVec 3) (tagError : Bool) (synd : Word) (s : State) :
    Host.Outcome State Fault Refusal :=
  .next (
    if s.pageChecked (pageOf (ch.val * 2 ^ 33 + off.toNat)) then
      (s.freezeChannel ch off port.toNat tagError.toNat synd).answerBar2
    else s)

/-- A mismatch names its port; a missed refresh is the refresh check's (Table 12.9). What MC_ERR_SYND then
holds is free (log entry 54). -/
def execDramCommandError (ch : Fin 16) (off : BitVec 33) (port : BitVec 3) (missedRefresh : Bool) (s : State) :
    Host.Outcome State Fault Refusal :=
  .next (
    let d := s.draw 32
    (d.2.freezeChannel ch off (if missedRefresh then 6 else port.toNat) (2 + missedRefresh.toNat) d.1).answerBar2)

/-- Scrub reads the pages of an active channel whose bit may be set (R274, R295); its uncorrectable error freezes the
channel, with a syndrome that the command does not carry (free). -/
def execPatrolScrub (ch : Fin 16) (off : BitVec 33) (result : Fin 3) (passEnd : Bool) (s : State) :
    Host.Outcome State Fault Refusal :=
  .next (
    if s.mcState ch != 1 && s.mcState ch != 4 then s
    else
      let page := pageOf (ch.val * 2 ^ 33 + off.toNat)
      let s := if passEnd then s.setReg (MC_SCRUB_PASSES ch) (s.reg (MC_SCRUB_PASSES ch) + 1) else s
      if !s.pageChecked page then s
      else match result with
        | 0 => s
        | 1 => s.corrected ch off
        | 2 => let d := s.draw 32; (d.2.freezeChannel ch off 5 0 d.1).answerBar2)

/-- For a SELFTEST of the channel its training is the test (R308). A command-path test that runs holds training up (Table
12.7). -/
def execRetrainingDone (ch : Fin 16) (temp : Half) (s : State) : Host.Outcome State Fault Refusal :=
  .next (
    let u := uMc ch
    if s.mcState ch = 5 && !s.weaver.tests.any fun t => t.unit == u && !t.classes.isEmpty then
      let s := (s.trained ch temp true).incReg (MC_RETRAINS ch)
      (s.modWeaver fun w => { w with tests := w.tests.filter (·.unit ≠ u) }).hostResult u 0 |>.answerBar2
    else s)

def execTrainingFailed (ch : Fin 16) (s : State) : Host.Outcome State Fault Refusal :=
  .next (if s.mcState ch = 5 || s.mcState ch = 0 then (s.stepDown ch).answerBar2 else s)

/-- A request wakes the channel: one drift-tracking run before it accepts traffic (R295). -/
def execChannelWake (ch : Fin 16) (steps : Int) (temp : Half) (s : State) : Host.Outcome State Fault Refusal :=
  .next (if s.mcState ch = 2 then ((s.setMcState ch 1).trackDrift ch steps temp).answerBar2 else s)

end Sys2Proof.Machine
end

