-- ==== Sys2Proof/Machine/Clocks.lean ====
section
/-!
DEFINITION. The root PLL's reference (R425 to R427, Table 18.5) and the wrap of the timestamp counters (R8).
-/
namespace Sys2Proof.Machine

/-! ### TIMEBASE_EVENT (R427) -/

/-- Nominal REF_IN frequency of CLK_STATUS.REF_NOMINAL in MHz. -/
def refMhz (code : Nat) : Nat := if code = 1 then 10 else if code = 2 then 100 else 0

/-- The time base takes a state, and the event goes to every stream, the notification ring and the ledger. The OFFSET that the
notice and the ledger record hold depends on a stream that the spec does not name: it is free (log entry 76). -/
def State.timebase (s : State) (new cause : Nat) : State :=
  let old := s.tb
  let ws := timebaseWords old new cause (s.reg CLK_REF_PPB).toNat (refMhz (s.regF CLK_STATUS 4 2))
  let s := s.setRegF CLK_STATUS 0 2 new
  let s := if old = new then s else s.modTime fun t => { t with tbHist := t.tbHist ++ [(s.now, BitVec.ofNat 2 new)] }
  let s := (s.writeAll s.streamIds { width := 44, words := ws, time := s.now }).incReg CLK_EVENTS
  let off := s.draw 44
  let told := match ws with | w :: t => (w + off.1.setWidth 64) :: t | [] => []
  (off.2.noticeWords 0x0F told).ledgerReq 0x0018 2 noUnit 0x13 (bytesOf told)

/-- REF_OUT runs from clock lock in every state but SLEEP, where it is held low (R406). -/
def State.refOutRuns (s : State) : Bool :=
  s.power.powered && !s.power.perst && s.power.hotDie.isNone && s.reg CLK_STATUS != 0 && s.pwr != 4

/-- The reference counter and the root PLL work: power is on and start-up is past (R416, Table 18.6). -/
def State.refWatched (s : State) : Bool := s.power.powered && !s.power.perst && s.power.hotDie.isNone && s.pwr != 0

/-- REF_IN fails, for a cause (Table 18.5): lock goes to holdover; a failure of the other kind in holdover is no event. -/
def State.refFails (s : State) (cause : HoldCause) : State :=
  let code := match cause with | .lost => 1 | .bad => 2
  let s := (s.setRegBit CLK_STATUS 3 false).setRegBit CLK_STATUS 6 false
  match s.tb with
  | 0 =>
    let s := (s.setRegBit CLK_STATUS 7 false).modPower fun p => { p with holdCause := some cause }
    s.timebase 1 code
  | 1 => if s.power.holdCause = some cause then s.timebase 1 code else s
  | n => s.timebase n code

def execRefLost (s : State) : Host.Outcome State Fault Refusal :=
  .next (
    if !s.refWatched then s
    else
      let s := ((s.incReg CLK_REF_LOSTS).setRegBit CLK_STATUS 2 false).setRegF CLK_STATUS 4 2 0
      (s.setReg CLK_REF_PPB 0x80000000).refFails .lost)

/-- A block that fails by its frequency leaves its offset in CLK_REF_PPB, which the command does not carry: it is free (log
entry 76). -/
def execRefBad (s : State) : Host.Outcome State Fault Refusal :=
  .next (
    if !s.refWatched then s
    else
      let d := s.draw 32
      (((d.2.setReg CLK_REF_PPB d.1).incReg CLK_REF_BADS).setRegBit CLK_STATUS 2 true).refFails .bad)

/-- A whole block passes: steering towards REF_IN begins unless it is locked to it already. -/
def execRefQualified (mhz : Nat) (ppb : Word) (s : State) : Host.Outcome State Fault Refusal :=
  .next (
    if !s.refWatched then s
    else
      let s := (s.setRegF CLK_STATUS 2 2 3).setRegF CLK_STATUS 4 2 (if mhz = 10 then 1 else 2)
      (s.setReg CLK_REF_PPB ppb).setRegBit CLK_STATUS 6 (s.tb != 0))

/-- Steering to a qualified REF_IN reaches lock. -/
def execRefLocked (s : State) : Host.Outcome State Fault Refusal :=
  .next (
    if !s.refWatched || s.tb = 0 || !s.regBit CLK_STATUS 3 then s
    else
      let s := (s.setRegF CLK_STATUS 6 2 2).modPower fun p => { p with holdCause := none }
      s.timebase 0 4)

/-- 10 s of holdover: steering to the crystal, or on to a qualified REF_IN. When steering to the crystal ends is not stated;
its two bits are free then (log entry 76). -/
def execHoldoverEnd (s : State) : Host.Outcome State Fault Refusal :=
  .next (
    if !s.refWatched || s.tb ≠ 1 then s
    else
      let d := s.draw 2
      let s := d.2.modPower fun p => { p with holdCause := none }
      let s := if s.regBit CLK_STATUS 3 then s else s.setRegF CLK_STATUS 6 2 d.1.toNat
      s.timebase 2 3)

/-! ### The wrap (R8, R209) -/

/-- A BASE with the next epoch number in a stream's open segment, or in a new one. -/
def State.wrapBase (s : State) (i : Nat) : State :=
  let sd := s.stream i
  if sd.open_.isEmpty then s.modStream i (·.openSegment s.slotStart)
  else if sd.open_.length + 2 + sd.reserve ≤ segWords then
    s.modStream i fun d => { d with open_ := d.open_ ++ baseRec false false false false d.segSeq s.now, baseTime := s.now }
  else (s.closeSegment i false false).modStream i (·.openSegment s.slotStart)

/-- The hub's counter runs in every state with power and no reset (R22). -/
def State.hubClocked (s : State) : Bool := s.power.powered && !s.power.perst && s.power.hotDie.isNone

/-- After the last slot of the count all counters go to 0 and the epoch number rises. -/
def execTimestampWrap (s : State) : Host.Outcome State Fault Refusal :=
  .next (
    if !s.hubClocked || s.time.tsHd.toNat + slotFt < 2 ^ 64 then s
    else
      let s := s.modTime fun t => { t with
        tsCd0 := if s.asleep then t.tsCd0 else t.tsCd0 + 256, tsCd1 := if s.asleep then t.tsCd1 else t.tsCd1 + 256
        tsHd := t.tsHd + 256, tsEpoch := t.tsEpoch + 1 }
      if s.time.armed then s.each s.streamIds State.wrapBase else s)

end Sys2Proof.Machine
end

