-- ==== Sys2Proof/Machine/Firmware.lean ====
section
/-!
DEFINITION. Firmware update (R340 to R343): BEGIN, cancel, CHUNK, COMMIT, and the end of programming.
-/
namespace Sys2Proof.Machine

/-! ### The manifest (R340) -/

def fwMagic (p : List Byte) : Nat := getLe p 0 4
def fwSize (p : List Byte) : Nat := getLe p 4 4
def fwVersion (p : List Byte) : Nat := getLe p 8 4
def fwRollback (p : List Byte) : Nat := getLe p 0x0C 4
def fwDigest (p : List Byte) : List Byte := slice p 0x10 48

/-- ECDSA P-384 over the SHA-384 of bytes 0x00 to 0x3F, under the key in the boot ROM. -/
def FwState.signed (f : FwState) (p : List Byte) : Bool :=
  ecdsaP384 f.keyX f.keyY (sha384 (p.take 0x40)) (getLe p 0x40 48) (getLe p 0x70 48)

def State.fwSigned (s : State) (p : List Byte) : Bool := s.power.fw.signed p

/-- A cancel: SIZE 0 and zero in every byte from 0x08 on (R343). -/
def fwCancels (p : List Byte) : Bool := fwSize p == 0 && zeros (slice p 8 152)

def fwSizeOk (n : Nat) : Bool := n % 4096 == 0 && decide (n ≤ 2 ^ 23)

/-- MAGIC and SIZE (R341 step 1). With SIZE 0 only a cancel is sound (log entry 77). -/
def checkFwBegin (p : List Byte) : List (Option Nat) :=
  [ ckFld p 0 0 32 (· == 0x55534C54), ckFld p 4 0 32 fwSizeOk
  , if fwSize p = 0 && fwMagic p == 0x55534C54 then ckZero p 8 152 else none ]

/-! ### The commands -/

/-- The staging area is SIZE bytes of zeros (R341). -/
def fwBeginCmd (img : MbImage) (s : State) : State × Option Response :=
  let p := img.payload
  match firstRefusal
    [ refusalIf (!s.fwSigned p) stBadSig 0
    , refusalIf (decide (fwRollback p < s.ledger.rollback.toNat)) stRollback 0
    , refusalIf (s.power.fw.staging.isSome || s.power.fw.programming.isSome) stBusy 0 ] with
  | some r => (s, some r)
  | none => done (s.modFw fun f => { f with staging := some (p.take 160, []) }) []

def execFwUpdateBegin (m : Fin 32) (s : State) : Host.Outcome State Fault Refusal :=
  .next (s.runCommand m 0x0090 (fun img => fwSize img.payload != 0) fwBeginCmd)

/-- A cancel closes an open staging area; it cannot stop programming (R343). -/
def fwCancelCmd (_ : MbImage) (s : State) : State × Option Response := done (s.modFw fun f => { f with staging := none }) []

def execFwUpdateCancel (m : Fin 32) (s : State) : Host.Outcome State Fault Refusal :=
  .next (s.runCommand m 0x0090 (fun img => fwCancels img.payload) fwCancelCmd)

def fwChunkOff (p : List Byte) : Nat := getLe p 8 4
def fwChunkLen (p : List Byte) : Nat := getLe p 12 4

def checkFwChunk (p : List Byte) : List (Option Nat) :=
  [ckFld p 8 0 32 (fun n => n % 4096 == 0), ckFld p 12 0 32 fun n => n % 4096 == 0 && decide (n ≤ 2 ^ 20)]

/-- No staging area, or the chunk does not lie within it (log entry 77). -/
def State.fwChunkRefusal (s : State) (p : List Byte) : Option Response :=
  match s.power.fw.staging with
  | none => some (Response.fail stNotReady 0)
  | some st => refusalIf (decide (fwSize st.1 < fwChunkOff p + fwChunkLen p)) stInvalid 8

def fwStage (t : Tbl Byte) (off : Nat) (bytes : List Byte) : Tbl Byte :=
  bytes.zipIdx.foldl (fun t x => Tbl.set t (off + x.2) x.1 0) t

/-- A chunk waits for its bytes and goes into the staging area. -/
def fwChunkCmd (m : Nat) (img : MbImage) (s : State) : State × Option Response :=
  match s.fwChunkRefusal img.payload with
  | some r => (s, some r)
  | none =>
    if fwChunkLen img.payload = 0 then done s []
    else match s.hostData m with
      | none => (s, none)
      | some bytes => done ((s.dropData m).modFw fun f => { f with
          staging := f.staging.map fun st => (st.1, fwStage st.2 (fwChunkOff img.payload) bytes) }) []

def execFwUpdateChunk (m : Fin 32) (s : State) : Host.Outcome State Fault Refusal :=
  .next (s.runCommand m 0x0091 (fun _ => true) (fwChunkCmd m))

/-- The bytes of the staging area. -/
def fwImage (st : List Byte × Tbl Byte) : List Byte := (List.range (fwSize st.1)).map fun k => Tbl.getD st.2 k 0

/-- A digest that matches closes the staging area and starts programming (R342). -/
def fwCommitCmd (_ : MbImage) (s : State) : State × Option Response :=
  match s.power.fw.staging with
  | none => refuse s stNotReady 0
  | some st =>
    let d := sha384 (fwImage st)
    if d = fwDigest st.1 then done (s.modFw fun f => { f with staging := none, programming := some st }) d
    else refuse s stMismatch 0

def execFwUpdateCommit (m : Fin 32) (s : State) : Host.Outcome State Fault Refusal :=
  .next (s.runCommand m 0x0092 (fun _ => true) fwCommitCmd)

/-! ### Programming (R342) -/

/-- A slot of boot flash takes a manifest and the image's bytes. -/
def FwState.setSlot (f : FwState) (k : Nat) (m : List Byte × Tbl Byte) : FwState :=
  if k = 0 then { f with slot0 := m.1, image0 := m.2 } else { f with slot1 := m.1, image1 := m.2 }
def FwState.slot (f : FwState) (k : Nat) : List Byte := if k = 0 then f.slot0 else f.slot1
/-- Manifest and image bytes of a slot. -/
def FwState.content (f : FwState) (k : Nat) : List Byte × Tbl Byte :=
  if k = 0 then (f.slot0, f.image0) else (f.slot1, f.image1)

/-- FW_UPDATE record (Table 16.4). -/
def State.ledFwUpdate (s : State) (m : List Byte) (slot : Nat) (status : Half) : State :=
  s.ledgerReq 0x0035 1 noUnit 0x11 (leBytes 4 (fwVersion m) ++ leBytes 4 (fwRollback m) ++ leBytes 1 slot ++
    leBytes 2 status.toNat ++ leBytes 5 0)

/-- The inactive slot has been programmed, or not: the result status of a failure is not stated and free (log entry 77). -/
def execFwUpdateDone (ok : Bool) (s : State) : Host.Outcome State Fault Refusal :=
  .next (
    match s.power.fw.programming with
    | none => s
    | some m =>
      let k := 1 - s.power.fw.running
      let r := s.draw 16
      let status := if ok then 0 else r.1
      let s := r.2.modFw fun f => { (f.setSlot k (if ok then m else f.content k)) with
        programming := none, pending := if ok then some k else f.pending.filter (· ≠ k)
        bad := if ok then f.bad.filter (· ≠ k) else k :: f.bad.filter (· ≠ k) }
      (s.ledFwUpdate m.1 k status).notice 0x17 [.f4 status.toNat, .f4 k])

end Sys2Proof.Machine
end

