-- ==== Sys2Proof/Machine/Sequencer.lean ====
section
/-!
DEFINITION. The sequencer commands (chapter 5): decisions, timers, dead time, MARK_WRITE, TRIG_OUT, FORCE_MARK and
DEFINE_SEQUENCE part 0.
-/
namespace Sys2Proof.Machine

/-- Slot n is decided at the end of slot n + 6 + delay (R116). -/
def State.decisionDue (s : State) (q : Nat) : Bool :=
  decide ((s.seq q).next + 6 + pathDelay (s.sqPath q) < s.slot)

def execSequencerDecision (sq : Fin 32) (s : State) : Host.Outcome State Fault Refusal :=
  .next (if s.time.armed && s.sqEnabled sq && s.decisionDue sq then (s.decideNext sq).pruneResults else s)

/-- A running timer reaches its expiry instant, in a session or after it: it stops with VALUE = LIMIT and waits to be presented (R118). -/
def execTimerExpiry (sq : Fin 32) (i : Fin 4) (s : State) : Host.Outcome State Fault Refusal :=
  .next (
    match Tbl.find? (s.seq sq).timers i with
    | some t =>
      let e := t.start + slotFt * s.sqTimerLimit sq i
      if s.sqTimerRun sq i && decide (e < s.slotEnd) then
        (s.modSeq sq fun d => { d with timers := Tbl.put d.timers i { t with due := some e } }).setTimer sq i
          (s.sqTimerLimit sq i) false
      else s
    | none => s)

/-- The dead slots of a restart are over: the DEAD bit clears (R121). -/
def execDeadTimeEnd (sq : Fin 32) (s : State) : Host.Outcome State Fault Refusal :=
  .next (
    match (s.seq sq).deadEnd with
    | some e =>
      if e ≤ (s.seq sq).next then (s.modSeq sq fun d => { d with deadEnd := none }).setRegBit (SQ_STATUS sq) 5 false else s
    | none => s)

/-- No MARK of an earlier TIME can still come, and every source of the stream has delivered up to the MARK's TIME; 20 µs
after TIME the MARK waits no longer (R126). -/
def State.markReady (s : State) (i : Nat) (m : Mark) : Bool :=
  !s.time.armed || decide (m.time + 20 * usFt ≤ s.slotEnd) ||
    (match s.def? 1 i with
      | some p =>
        s.laneDone (bLanes p) m.time && (bPods p).all (fun k => s.podDone (k / 32) (k % 32) m.time) &&
          (s.sqsInUse.all fun q => match s.sqSeq q with
            | some x => !(s.seqStreams x).contains i ||
                decide (m.time / slotFt + 32 + s.dNeg (List.range 192) < (s.seq q).next)
            | none => true) &&
          s.weaver.place.trig.all fun e => s.podDone e.1 e.2 m.time
      | none => true)

/-- The first waiting MARK of a stream is written (R126). -/
def execMarkWrite (stream : Fin 4096) (s : State) : Host.Outcome State Fault Refusal :=
  .next (
    match (s.stream stream).marks with
    | [] => s
    | m :: _ =>
      if s.hasStream stream && s.markReady stream m then
        (s.modStream stream fun sd => { sd with marks := sd.marks.erase m }).writeMark stream m
      else s)

/-! ### TRIG_OUT (R135) -/

/-- The level at a TRIG_OUT pin: active during a pulse of an enabled pin, high or low as POLARITY says. -/
def State.toutLevel (s : State) (i : Nat) : Bool :=
  ((s.tout i).activeUntil.isSome && s.regBit (HUB_TOUT_CTL i) 17) != s.regBit (HUB_TOUT_CTL i) 16

def State.toutWidth (s : State) (i : Nat) : Nat := s.regF (HUB_TOUT_CTL i) 0 16

/-- The first request that has reached the generator: a pulse starts, or the active one is extended. -/
def execTrigOutPulseStart (pin : Fin 4) (s : State) : Host.Outcome State Fault Refusal :=
  .next (
    let d := s.tout pin
    match d.requests with
    | [] => s
    | r :: rest =>
      if s.slot < r.2 then s
      else
        let d := { d with requests := rest, served := some r.1 }
        if !s.regBit (HUB_TOUT_CTL pin) 17 then s.setTout pin d
        else
          let s1 := s.setTout pin { d with activeUntil := some (s.slot + s.toutWidth pin) }
          match d.activeUntil with
          | some e => if s.slot < e then s1 else s1.incReg (HUB_TOUT_COUNT pin)
          | none => s1.incReg (HUB_TOUT_COUNT pin))

/-- Pins that TRIG_OUT actions of the placed sequences name. -/
def State.toutNamed (s : State) (pin : Nat) : Bool :=
  s.weaver.place.seqs.any fun p => (List.range 16).any fun j => (List.range 4).any fun b =>
    match s.def? 2 p.obj with
    | some d => qBr d j b 4 1 % 2 == 1 && (List.range 4).any fun a =>
        let c := qBr d j b (8 + 2 * a) 2
        c % 32 == 0x0A && c / 32 % 4 == pin
    | none => false

/-- The pulse ends; a pin that no placed sequence names any more then loses ENABLE. -/
def execTrigOutPulseEnd (pin : Fin 4) (s : State) : Host.Outcome State Fault Refusal :=
  .next (
    match (s.tout pin).activeUntil with
    | some e =>
      if e ≤ s.slot then
        let s := s.modTout pin fun d => { d with activeUntil := none }
        if s.toutNamed pin || s.unlocked then s else s.fwWrite (HUB_TOUT_CTL pin) (setBit (s.reg (HUB_TOUT_CTL pin)) 17 false)
      else s
    | none => s)

/-! ### FORCE_MARK (R127) -/

def forceMarkCmd (m : Nat) (img : MbImage) (s : State) : State × Option Response :=
  match s.weaver.place.seqSq (hIdx img.handle) with
  | none => refuse s stNotReady 0
  | some q =>
    if !s.time.armed || s.isShed (objKey 2 (hIdx img.handle)) then refuse s stNotReady 0
    else if (s.seq q).forced.any fun f => f.2.2 == m then (s, none)
    else (s.modSeq q fun d => { d with forced := d.forced ++ [(s.slot, BitVec.ofNat 8 (getLe img.payload 0 1), m)] }, none)

/-- The MARK is emitted, and the command answered, when the sequencer decides the slot. -/
def execForceMark (m : Fin 32) (s : State) : Host.Outcome State Fault Refusal :=
  .next (s.runCommand m 0x0042 (fun _ => true) (forceMarkCmd m))

/-! ### DEFINE_SEQUENCE part 0 (R114, R118, R119, R332) -/

/-- Bits of a branch's condition that are wrong in the first place where R114 is broken, as a position. -/
def checkBranch (p : List Byte) (j b : Nat) : List (Option Nat) :=
  let off := 0x88 + 0x50 * j + 0x10 + 0x10 * b
  let mask := qBr p j b 0 2
  let inv := qBr p j b 2 2
  let valid := qBr p j b 4 1 % 2 == 1
  let missing := sumOn ((List.range 8).filter fun t => mask / 2 ^ t % 2 == 1 && qSel p j t / 2 ^ 15 == 0) fun t => 2 ^ t
  [ ckRsv p (off + 4) 4 0xFFFFFFC0,
    if !valid then none
    else if mask = 0 then some (8 * off)
    else (lowestBit missing 8).map (· + 8 * off),
    if !valid then none
    else if mask ≠ 0 ∧ inv = mask then some (8 * (off + 2))
    else (lowestBit (inv &&& (0xFFFF - mask)) 16).map (· + 8 * (off + 2)) ]

/-- Handle types that an action's binding needs; none for an action without one. -/
def actionBind (code : Nat) : Option Nat :=
  match code % 32 with
  | 0x07 => some 5 | 0x08 => some 5 | 0x09 => some 5
  | 0x0B => some 1 | 0x0C => some 1
  | 0x0D => some 6 | 0x0E => some 6
  | 0x0F => some 4
  | _ => none

/-- Argument bits of an action that must be zero, within [15:5]. -/
def actionZero (code : Nat) : Nat :=
  match code % 32 with
  | 0x00 => 0xFFE0
  | 0x01 => 0xE000
  | 0x02 => 0xFF80 | 0x03 => 0xFF80 | 0x04 => 0xFF80 | 0x05 => 0xFF80 | 0x06 => 0xFF80 | 0x0A => 0xFF80
  | 0x10 => 0xFFE0
  | _ => 0xFE00

/-- One action code at byte `off` (Table 5.3). -/
def checkAction (p : List Byte) (off : Nat) : Option Nat :=
  let c := getLe p off 2
  if 0x10 < c % 32 then some (8 * off)
  else match lowestBit (c &&& actionZero c) 16 with
    | some i => some (8 * off + i)
    | none => match actionBind c with
      | some t => if hType (qBinding p (c / 32 % 16)) = t then none else some (8 * off + 5)
      | none => none

/-- Timers that a TIMER_START action of the payload names, in branches whose VALID is 0 too: the spec does not say whether
those count for the LIMIT check (DESIGN CHOICE, log entry 111). -/
def timersStarted (p : List Byte) : List Nat :=
  (List.range 16).flatMap fun j => (List.range 4).flatMap fun b => (List.range 4).filterMap fun a =>
    let c := qBr p j b (8 + 2 * a) 2
    if c % 32 = 0x04 then some (c / 32 % 4) else none

def checkSequenceLevels (p : List Byte) : List (Option Nat) :=
  [ckZero p 1 3, ckRsv p 4 4 0xFF000000] ++
  (List.range 4).map (fun i => ckRsv p (0x08 + 8 * i) 8 (0xFFFF * 2 ^ 48)) ++
  (List.range 4).map (fun i => if (timersStarted p).contains i && qTmrLimit p i == 0 then some (8 * (0x28 + 8 * i))
    else ckRsv p (0x28 + 8 * i) 8 (0xFFFF * 2 ^ 48)) ++
  (List.range 16).flatMap fun j =>
    (List.range 8).map (fun t => ckRsv p (0x88 + 0x50 * j + 2 * t) 2 0x7F80) ++
    (List.range 4).flatMap fun b => checkBranch p j b ++
      (List.range 4).map fun a => checkAction p (0x88 + 0x50 * j + 0x10 + 0x10 * b + 8 + 2 * a)

/-- The bindings of DEFINE_SEQUENCE part 0: streams, histograms, interval jobs and compare jobs. -/
def handlesSequenceLevels (p : List Byte) : List HandleUse :=
  (List.range 16).map fun k => { handle := qBinding p k, at_ := some (0x48 + 4 * k), types := [1, 4, 5, 6], optional := true }

def defineSequenceLevelsCmd (img : MbImage) (s : State) : State × Option Response :=
  done (s.stageDef 2 (hIdx img.handle) (padTo 1416 img.payload)) []

def execDefineSequenceLevels (m : Fin 32) (s : State) : Host.Outcome State Fault Refusal :=
  .next (s.runCommand m 0x0022 (fun img => getLe img.payload 0 1 == 0) defineSequenceLevelsCmd)

end Sys2Proof.Machine
end

