-- ==== Sys2Proof/Machine/Power.lean ====
section
/-!
DEFINITION. Device states and their transitions (R419 to R424), D3hot (R350), link-down hold (R368), power failure, thermal
trip, brown-out and PERST_N (R381, R416, R431 to R433, R455).
-/
namespace Sys2Proof.Machine

/-! ### Transitions (Table 18.4) -/

/-- PWR_STATE.TRANSITION and TARGET. -/
def State.moving (s : State) : Bool := s.regBit PWR_STATE 4
def State.target (s : State) : Nat := s.regF PWR_STATE 5 3
def State.goTo (s : State) (t : Nat) : State := (s.setRegBit PWR_STATE 4 true).setRegF PWR_STATE 5 3 t

/-- SET_POWER_STATE's numbers 1 READY, 2 STANDBY, 3 SLEEP as PWR_STATE.STATE, and back. -/
def powerCode (t : Nat) : Nat := if t = 1 then 1 else t + 1
def stateCode (v : Nat) : Nat := if v = 1 then 1 else v - 1

def checkSetPowerState (p : List Byte) : List (Option Nat) := [ckFld p 0 0 8 (fun t => decide (1 ≤ t) && decide (t ≤ 3)), ckZero p 1 3]

/-- The state of the device is answered with the command's numbers; it has none for RUN (log entry 74). -/
def setPowerStateCmd (img : MbImage) (s : State) : State × Option Response :=
  let t := powerCode (getLe img.payload 0 1)
  if t ≠ 1 && s.time.armed then refuse s stBusy 0
  else
    let d := s.draw 8
    let now : Byte := if s.pwr = 2 then d.1 else BitVec.ofNat 8 (stateCode s.pwr)
    let s := if s.pwr = 2 then d.2 else s
    let s := if s.moving || (t ≠ s.pwr && s.pwr ≠ 2) then s.goTo t else s
    done s [now, 0, 0, 0]

def execSetPowerState (m : Fin 32) (s : State) : Host.Outcome State Fault Refusal :=
  .next (s.runCommand m 0x0081 (fun _ => true) setPowerStateCmd)

/-- Arrival: POWER_STATE is posted (R423). -/
def execStateTransitionDone (s : State) : Host.Outcome State Fault Refusal :=
  .next (if s.moving && s.pwr == s.target then (s.setRegBit PWR_STATE 4 false).noticePower (stateCode s.pwr) else s)

/-- D3hot: the device disarms and goes to SLEEP, during any transition too (R350, R424). -/
def execD3hot (s : State) : Host.Outcome State Fault Refusal :=
  .next (
    let s := s.modPcie fun p => { p with d3hot := true }
    if s.pwr = 0 || s.failed then s
    else
      let s := if s.time.armed then s.disarm else s
      if s.pwr = 4 && !s.moving then s else s.goTo 4)

/-- D0 from D3hot starts the wake to READY and releases WAKE_N (R350, R409). -/
def execD0 (s : State) : Host.Outcome State Fault Refusal :=
  .next (
    if !s.pcie.d3hot then s
    else
      let s := (s.modPcie fun p => { p with d3hot := false }).modStation fun st => { st with wakeN := false }
      let s := s.resumeDma
      if s.asleep || s.moving then s.goTo 1 else s)

/-- The link-down hold expires: DISARM, then STANDBY (Table 15.15 step 3b); in STANDBY or SLEEP nothing changes (R424). -/
def execLinkHoldExpiry (s : State) : Host.Outcome State Fault Refusal :=
  .next (
    if s.pcie.linkUp || !(s.pwr == 1 || s.pwr == 2) then s
    else ((if s.time.armed then s.disarm else s).ledLink 2).goTo 3)

/-! ### Entry to STANDBY or SLEEP (R421) -/

/-- PASR segments of a channel that are retained (R296): bytes of the library, firmware state, undelivered segments of
streams. Where in a stripe's channel a ring's segments lie is not modelled: any of its segments may be retained for them, one
at least (log entry 73). -/
def State.pasrBits (s : State) (ch free : Nat) : Nat :=
  let seg := fun (k : Nat) => min 7 ((k % 4096) * 2 ^ 24 / s.chanBytes ch)
  let lib := (s.refs.vals.flatMap (·.pages)).filter fun k => pageChan k == ch
  sumOn ((List.range 8).filter fun g =>
    lib.any (fun k => seg k == g) || (g == 7 && s.fwChans.contains ch) || (s.chanSegments ch && (bit (BitVec.ofNat 8 free) g || (free % 256 == 0 && g == 0))))
    fun g => 2 ^ g

/-- One channel enters retention: masked segments lose their contents. Training is abandoned at the end of its current step
and stays due (Table 12.7). -/
def State.retainChannel (s : State) (ch : Nat) : State :=
  if s.mcState ch = 6 || s.mcState ch = 3 || s.mcState ch = 7 then s
  else
    let s := if s.sweepRuns ch then s.endStep ch else s
    let d := s.draw 8
    let s := d.2
    let keep := BitVec.ofNat 8 (s.pasrBits ch d.1.toNat)
    let seg := fun (k : Nat) => min 7 ((k % 4096) * 2 ^ 24 / s.chanBytes ch)
    let s := s.forgetPages fun k => pageChan k == ch && !bit keep (seg k)
    (s.setRegF (MC_STATUS ch) 9 8 keep.toNat).setMcState ch 7

/-- Histogram banks and images, and contexts of the engines, are discarded (Table 7.3, Table 11.6). -/
def State.discardContexts (s : State) : State :=
  let s := s.each s.weaver.place.hists fun s h => s.setRegion h.hu h.region RegionDyn.init
  let s := s.each (List.range 4) fun s h => s.modHist h fun u => { u with values := [], held := [], spillOrder := [] }
  let s := s.each s.images.keys fun s i => s.modImage i fun d => { d with images := [], places := [] }
  let s := s.each (List.range 16) fun s e =>
    let s := s.setCe e { s.ce e with testing := false, lru := [] }
    let s := s.each (List.range 8) fun s k =>
      let r := s.reg (CE_SLOT e k)
      if bit r 12 && !bit r 13 then s.setReg (CE_SLOT e k) 0 else s
    s.countSlots e
  let s := s.each s.streams.keys fun s i => s.modStream i fun sd => { sd with ctxChan := none, ctxLost := false }
  s.each (List.range 8) fun s e => s.setDe e
    { s.de e with testing := false, away := false, diag := false, ctxChan := none, ctxLost := false }

/-- What the port keeps of a pod's link while the die has no power. -/
def PodDyn.linkOff (q : PodDyn) : PodDyn :=
  { q with pending := [], lastQ := none, lastFrame := none, dig := [], digBad := 0, mgmtSeen := false }

/-- The capture dies are switched off: pod links lose lock, lanes keep nothing of the past. -/
def State.captureOff (s : State) : State :=
  let s := s.each (List.range 16) fun s p => s.setRegBit (PP_STATUS p) 0 false
  let s := s.each s.ports.keys fun s p => s.modPort p fun d => { d with
    pods := d.pods.mapVals fun _ q => q.linkOff
    outbox := [], bad := [], tested := none }
  s.each s.lanes.keys fun s n => s.modLane n fun d => { d.forget with
    l := { d.l with burst := none, coarse := false }, u := { d.u with burst := none, coarse := false }
    block := none, full := [], levelDue := none, lastClock := none, pendL := none, pendU := none }

/-- Entry waits for targeted self-tests to end (R307). Every channel enters retention (R421 step 4); from STANDBY to SLEEP
only the cores are left. -/
def State.standbyEntry (s : State) : State :=
  let t := s.target
  if !s.moving || !(t == 3 || t == 4) || !(s.pwr == 1 || s.pwr == 3) || s.pwr == t || s.time.armed || !s.weaver.tests.isEmpty then s
  else
    let fresh := s.pwr == 1
    let s := s.lapseLock.flushLedger none
    let s := if fresh then s.discardContexts else s
    let s := s.each (List.range 16) State.retainChannel
    (if fresh then s.captureOff else s).enterState t

def execStandbyEntry (s : State) : Host.Outcome State Fault Refusal := .next s.standbyEntry

/-! ### Wake (R423, R441) -/

/-- RC counters of the capture dies restart at zero. -/
def State.restartCounters (s : State) : State :=
  s.each (s.regs.keys.filter fun a => decide (0x1000000 ≤ a)) fun s a =>
    let m := BitVec.ofNat 32 (rcMask a)
    if m = 0 then s else s.setReg a (s.reg a &&& ~~~m)

/-- The comparators power up with their lanes: outputs by the pins (R37). -/
def State.startComparators (s : State) : State :=
  s.each ((List.range 192).filter s.lnLive) fun s n => s.newState n true true s.now

/-- Firmware broadcasts ENUM with count 0 on every fitted port (R81, R423 step 5). -/
def State.startPorts (s : State) : State :=
  s.each ((List.range 16).filter fun p => !s.portAbsent p && !s.ppRetired p) fun s p => s.podAction p 0 true 0x01 0

/-- Channels leave retention, each with its drift run (R295, R423 step 2; log entry 73). The next
ARM issues the session-epoch pulse that loads the capture dies' counters (R23; log entry 72). STANDBY asked for in SLEEP is
reached through READY, as Table 18.4 has no line from the one to the other (log entry 74). -/
def State.wake (s : State) (cd0 cd1 : Half) : State :=
  if !s.moving || !(s.target == 1 || (s.target == 3 && s.pwr == 4)) || !s.asleep then s
  else
    let s := s.each ((List.range 16).filter fun c => s.mcState c == 7) State.wakeChannel
    let s := s.restartCounters
    let s := s.modPower fun p => { p with tempCd0 := cd0, tempCd1 := cd1 }
    let s := (s.modTime fun t => { t with newEpoch := true }).enterState 1
    let s := s.startComparators.startPorts
    s.each ((List.range 12).filter fun k => !s.stakeAbsent k) fun s k => s.calDue k (if k < 6 then cd0 else cd1)

def execWake (tempCd0 tempCd1 : Half) (s : State) : Host.Outcome State Fault Refusal := .next (s.wake tempCd0 tempCd1)

/-! ### Reset (R433) -/

/-- Registers that stand in ledger metadata (Table 16.2). -/
def metadataRegs : List Nat :=
  [LG_GENERATION, LG_FIRST_SEQ_LO, LG_FIRST_SEQ_LO + 4, LG_NEXT_SEQ_LO, LG_NEXT_SEQ_LO + 4, LG_REFUSED, LG_OP_SECONDS
  , LG_POWER_CYCLES, LG_SCRUB, LG_SCRUB_PASSES]

/-- Firmware's update state after a reset: a staging area is closed; programming cut short leaves the inactive slot invalid
(R342, R343). -/
def FwState.reset (f : FwState) : FwState :=
  let k := 1 - f.running
  if f.programming.isSome then
    { f with staging := none, programming := none, pending := f.pending.filter (· ≠ k), bad := k :: f.bad.filter (· ≠ k) }
  else { f with staging := none }

/-- What a reset leaves: everything at its reset value but the registers kept and what stands in MRAM, flash and the board. -/
def State.resetBase (s : State) (keep : List Nat) : State :=
  { State.reset with
    pending := s.pending
    regs := s.regs.filterKeys keep.contains
    pcie := { PcieState.init with linkUp := false, sent := s.pcie.sent }
    power := { s.power with stopped := false, holdCause := none, fw := s.power.fw.reset }
    weaver := { WeaverState.init with retired := s.weaver.retired, transients := s.weaver.transients }
    ledger := { s.ledger with reqs := [], challenge := none }
    out := s.out
    drawn := s.drawn }

/-- Everything outside the always-on domain, the MRAM and boot flash resets (R12), and no stake has been calibrated yet (R50). -/
def State.hardReset (s : State) : State :=
  let r := (s.resetBase metadataRegs).each (List.range 12) fun r k => r.setReg (STK_CAL_TEMP k) 0x8000
  let r := r.each (List.range 16) fun r c => r.setMcState c 0
  let r := (r.setRegF LG_STATUS 4 2 (s.regF LG_STATUS 4 2)).setReg HUB_RETIRED (BitVec.ofNat 32 r.weaver.retired.length)
  ((r.setReg PCI_LINK 0).setReg CLK_STATUS 0).setPwr 0

/-! ### Power failure (R381, R431, R432) -/

/-- POWER_FAIL is appended, naming a unit, and the buffer is flushed (Table 16.6). -/
def State.powerFail (s : State) (unit : Word) : State :=
  let req : LedgerReq := { type := 0x0003, severity := 4, unit := unit, trigger := 0x12, body := [], fromSeq := false }
  ((s.commitSeconds.createRecord req false).1).flushLedger none

/-- Cores other than CC2 stop; capture goes on in hardware. -/
def execPwrFailNAssert (s : State) : Host.Outcome State Fault Refusal :=
  .next (
    if !s.power.powered || s.power.pwrFail then s
    else
      let s := s.incReg PWR_FAILS
      if s.power.perst || s.power.hotDie.isSome then s.modPower fun p => { p with pwrFail := true }
      else (s.powerFail noUnit).modPower fun p => { p with pwrFail := true, stopped := true })

/-- The first record created then is POWER_FAIL_CLEARED. -/
def State.powerFailCleared (s : State) (us : Word) : State :=
  s.modLedger fun l => { l with
    reqs := { type := 0x0004, severity := 2, unit := noUnit, trigger := 0x12
              body := leBytes 4 us.toNat ++ leBytes 4 0, fromSeq := false } :: l.reqs }

/-- Before 150 µs capture runs on; from then on the device resets as at PERST_N (R432). -/
def execPwrFailNDeassert (us : Word) (s : State) : Host.Outcome State Fault Refusal :=
  .next (
    if !s.power.powered || !s.power.pwrFail then s
    else if us.toNat < 150 && s.power.stopped then
      (s.modPower fun p => { p with pwrFail := false, stopped := false }).powerFailCleared us
    else if s.power.stopped then
      ((s.hardReset).modPower fun p => { p with pwrFail := false, outputsOff := true }).powerFailCleared us
    else (s.modPower fun p => { p with pwrFail := false }).powerFailCleared us)

/-! ### PERST_N, brown-out, thermal trip -/

/-- PERST_N: the cores stop, the ledger buffer is flushed, and all but the always-on domain resets (R433). -/
def execPerstNAssert (s : State) : Host.Outcome State Fault Refusal :=
  .next (
    if !s.power.powered || s.power.perst then s
    else
      let s := if s.power.hotDie.isSome then s else s.flushLedger none
      (s.hardReset).modPower fun p => { p with perst := true, outputsOff := true })

/-- A rail leaves tolerance without PWR_FAIL_N: a power-on reset; the ledger buffer is lost (R416). Which rail it is is not
stated: PWR_RAIL is free (log entry 4). -/
def execBrownOut (s : State) : Host.Outcome State Fault Refusal :=
  .next (
    if !s.power.powered then s
    else
      let d := s.draw 9
      ((d.2.hardReset).setReg PWR_RAIL (BitVec.ofNat 32 d.1.toNat)).modPower fun p => { p with
        powered := false, pwrFail := false, hotDie := none, outputsOff := true })

/-- The rails come into tolerance and the always-on domain starts; the board holds PERST_N (R415, R416). -/
def execPowerUp (s : State) : Host.Outcome State Fault Refusal :=
  .next (
    if s.power.powered then s
    else (s.hardReset).modPower fun p => { p with powered := true, perst := true, pwrFail := false, hotDie := none, outputsOff := true })

def uOfDie : Die → Word
  | .cd0 => uDie 0
  | .cd1 => uDie 1
  | .hd => uHd

def State.setTemp (s : State) (d : Die) (t : Half) : State :=
  s.modPower fun p => match d with
    | .cd0 => { p with tempCd0 := t }
    | .cd1 => { p with tempCd1 := t }
    | .hd => { p with tempHd := t }

/-- A die at 120 °C for 1 ms: the power-fail sequence runs, naming the die, and the device holds itself in reset (R455). -/
def execThermalTrip (die : Die) (temp : Half) (s : State) : Host.Outcome State Fault Refusal :=
  .next (
    if !s.power.powered || s.power.hotDie.isSome || (s.halfPart && decide (die = .cd1)) then s
    else
      let s := s.setTemp die temp
      let s := if s.power.pwrFail || s.power.perst then s else s.powerFail (uOfDie die)
      (s.hardReset).modPower fun p => { p with hotDie := some die, outputsOff := true })

/-- Every die at 100 °C or less: the reset ends, and start-up follows. -/
def execThermalRelease (tempHd tempCd0 tempCd1 : Half) (s : State) : Host.Outcome State Fault Refusal :=
  .next (
    if s.power.hotDie.isNone then s
    else
      let s := s.modPower fun p => { p with tempHd := tempHd, tempCd0 := tempCd0, tempCd1 := tempCd1 }
      let cool := fun (t : Half) => decide (t.toInt ≤ 800)
      if cool tempHd && cool tempCd0 && (s.halfPart || cool tempCd1) then s.modPower fun p => { p with hotDie := none } else s)

end Sys2Proof.Machine
end

