-- ==== Sys2Proof/Machine/Startup.lean ====
section
/-!
DEFINITION. Start-up from the deassertion of PERST_N to READY (R428 to R430, Table 18.6): the board configuration block (R411,
Table 17.7a), the choice of firmware slot (R342), the mount of the ledger (R382), training, calibration and self-test (R308).
-/
namespace Sys2Proof.Machine

/-! ### The board configuration block -/

/-- A copy whose CRC is valid. -/
def boardValid (b : List Byte) : Bool := decide (64 ≤ b.length) && (crc32 (b.take 0x3C)).toNat == getLe b 0x3C 4

/-- Copy A, else copy B, else none. -/
def boardBlock (o : StartOutcome) : Option (List Byte) :=
  if boardValid o.boardA then some o.boardA else if boardValid o.boardB then some o.boardB else none

/-- BOARD record: what was replaced, and where its field stands. -/
def State.ledBoard (s : State) (what off : Nat) : State :=
  s.ledgerReq 0x001D 2 noUnit 0x13 (leBytes 1 what ++ leBytes 1 off ++ leBytes 6 0)

/-- A field: zero takes its default; a value out of range takes it too and is recorded (R411). -/
def boardField (v dflt : Nat) (ok : Bool) : Nat × Bool := if v = 0 then (dflt, false) else if ok then (v, false) else (dflt, true)

/-- Watermark pairs, HIGH and LOW of queue `q` (R238). -/
def State.loadWater (s : State) (b : List Byte) (q : Nat) : State :=
  let d := (regDefault (HUB_Q q 0)).toNat
  let hi := let v := getLe b (0x10 + 4 * q) 2; if v = 0 then d % 65536 else v
  let lo := let v := getLe b (0x12 + 4 * q) 2; if v = 0 then d / 65536 else v
  if lo < hi && decide (hi + 64 ≤ (qKind q).cap) then
    (s.fwWrite (HUB_Q q 0) (BitVec.ofNat 32 (hi + 65536 * lo))).followWater q
  else ((s.fwWrite (HUB_Q q 0) (regDefault (HUB_Q q 0))).followWater q).ledBoard 0 (0x10 + 4 * q)

/-- WIDTH and POLARITY of the TRIG_OUT pins (R135). -/
def State.loadTout (s : State) (b : List Byte) : State :=
  let pol := getLe b 0x34 1
  let s := s.each (List.range 4) fun s k =>
    let w := getLe b (0x2C + 2 * k) 2
    s.fwWrite (HUB_TOUT_CTL k) (BitVec.ofNat 32 ((if w = 0 then 80 else w) +
      65536 * (if pol < 16 then pol / 2 ^ k % 2 else 0)))
  if pol < 16 then s else s.ledBoard 6 0x34

/-- The fields of a block that is present. CHANNEL_GIB has no default: with 0 the capacity of MC0 is taken (log entry 75). -/
def State.loadBlock (s : State) (b : List Byte) (mc0 : BitVec 2) : State :=
  let smb := boardField (getLe b 0x0D 1) 0x5A (decide (getLe b 0x0D 1 < 128))
  let hold := getLe b 0x0E 2
  let lh := if hold = 0xFFFF then (0, false) else boardField hold 10 (decide (hold ≤ 3600))
  let pre := getLe b 0x24 4
  let sp := boardField pre 4096 (pre % 256 == 0 && decide (pre ≤ 2 ^ 24))
  let tmo := getLe b 0x28 4
  let st := boardField tmo 1000 (decide (10 ≤ tmo) && decide (tmo ≤ 1000000))
  let gib := getLe b 0x0C 1
  let s := s.modPower fun p => { p with board := { p.board with
    channelGib := if gib = 0 then 2 * 2 ^ mc0.toNat else gib
    smbAddr := smb.1, linkHold := lh.1, syncPreload := sp.1, stnTimeoutUs := st.1
    subsysVid := BitVec.ofNat 16 (boardField (getLe b 8 2) 0x1F3C true).1
    subsysId := BitVec.ofNat 16 (boardField (getLe b 0x0A 2) s.deviceId true).1 } }
  let s := s.each (List.range 5) fun s q => s.loadWater b q
  let s := if lh.2 then s.ledBoard 2 0x0E else s
  let s := if smb.2 then s.ledBoard 3 0x0D else s
  let s := if sp.2 then s.ledBoard 4 0x24 else s
  let s := if st.2 then s.ledBoard 5 0x28 else s
  s.loadTout b

/-- Defaults of a block that is absent, with a record (R347). -/
def State.noBlock (s : State) (mc0 : BitVec 2) : State :=
  (s.modPower fun p => { p with board := { Board.default with
    ordering := p.board.ordering, serial := p.board.serial, channelGib := 2 * 2 ^ mc0.toNat
    subsysId := BitVec.ofNat 16 s.deviceId } }).ledBoard 1 0xFF

/-! ### The firmware slot (R342) -/

/-- What stands in a slot, manifest and image: what firmware programmed there or the boot ROM has read before, else what it reads now. -/
def FwState.slotHolds (f : FwState) (o : StartOutcome) (k : Nat) : Option (List Byte × Tbl Byte) :=
  if (f.slot k).isEmpty then (o.slots.getD k none).map fun b => (b.take 160, fwStage [] 0 (b.drop 160)) else some (f.content k)

/-- A slot that verifies: its manifest's signature and its image's digest are right (R342). -/
def FwState.verified (f : FwState) (o : StartOutcome) (k : Nat) : Option (List Byte × Tbl Byte) :=
  if f.bad.contains k then none else (f.slotHolds o k).filter fun c => f.signed c.1 && sha384 (fwImage c) == fwDigest c.1

/-- A slot that may start: its ROLLBACK is not below the counter. -/
def State.validSlot (s : State) (o : StartOutcome) (k : Nat) : Option (List Byte × Tbl Byte) :=
  (s.power.fw.verified o k).filter fun m => decide (s.ledger.rollback.toNat ≤ fwRollback m.1)

/-- VERSION as an order: major, then minor, then build (R340). -/
def versionKey (m : List Byte) : Nat := getLe m 8 1 * 2 ^ 24 + getLe m 9 1 * 2 ^ 16 + getLe m 10 2

/-- The slot that starts, with what it holds: the pending one if it is valid, else the valid one of higher VERSION; which of two
equal ones it is, is not stated and `tie` decides (log entry 77). -/
def State.bootSlot (s : State) (o : StartOutcome) (tie : Nat) : Option (Nat × List Byte × Tbl Byte) :=
  let v := fun (k : Nat) => (s.validSlot o k).map fun m => (k, m)
  match s.power.fw.pending.bind v with
  | some x => some x
  | none =>
    match v 0, v 1 with
    | some a, some b =>
      some (if versionKey a.2.1 = versionKey b.2.1 then (if tie % 2 = 0 then a else b)
        else if versionKey b.2.1 < versionKey a.2.1 then a else b)
    | some a, none => some a
    | none, b => b

/-- The slot chosen starts. A pending image that was not chosen has failed: it is recorded, is pending no more and is not
started again; the status of that record is not stated and free (log entry 77). -/
def State.startSlot (s : State) (k : Nat) (m : List Byte × Tbl Byte) : State :=
  let f := s.power.fw
  let s := s.modFw fun f => { (f.setSlot k m) with running := k, version := BitVec.ofNat 32 (fwVersion m.1) }
  match f.pending with
  | some p =>
    let s := s.modFw fun f => { f with pending := none }
    if p = k then s
    else
      let d := s.draw 16
      (d.2.modFw fun f => { f with bad := p :: f.bad.filter (· ≠ p) }).ledFwUpdate (f.slot p) p d.1
  | none => s

/-! ### The ledger (R382) -/

/-- The log ends before the first record that is valid in neither bank; what follows is not returned (log entry 78). -/
def State.mountLedger (s : State) : State × Option (Nat × Nat) :=
  let s := match s.ledger.pendingClear with
    | some r => s.applyClear r
    | none => s
  let log := s.ledgerLog
  let cut := s.ledger.lost.foldl min (s.reg64 LG_FIRST_SEQ_LO + 2 ^ 64)
  let good := log.filter fun r => decide (r.seq < cut)
  let bad := log.find? fun r => decide (cut ≤ r.seq)
  let off := match bad with | some r => s.ledgerOffset r | none => 0
  let s := s.modLedger fun l => { l with bank0 := good, bank1 := good, lost := [] }
  let next := match good.getLast? with | some r => r.seq + 1 | none => s.reg64 LG_FIRST_SEQ_LO
  (s.setReg64 LG_NEXT_SEQ_LO next, bad.map fun r => (r.seq, off))

/-! ### Metadata of which both copies fail (R371, Table 16.2) -/

/-- The largest 4-byte field at `off` of the records in the log. -/
def State.logMax (s : State) (off : Nat) : Nat := (s.ledgerLog.map fun r => getLe r.bytes off 4).foldl max 0

/-- Generation and first SEQ as the log's first record gives them: a CLEARED record holds the generation before it (R391). -/
def State.recoverLog (s : State) : State :=
  let s := s.modLedger fun l => { l with pendingClear := none }
  match s.ledgerLog with
  | [] => (s.setReg LG_GENERATION (regDefault LG_GENERATION)).setReg64 LG_FIRST_SEQ_LO (s.reg64 LG_NEXT_SEQ_LO)
  | r :: _ =>
    (s.setReg LG_GENERATION (if getLe r.bytes 0x14 2 = 0x0031 then BitVec.ofNat 32 (getLe r.bytes 0x38 4 + 1)
      else regDefault LG_GENERATION)).setReg64 LG_FIRST_SEQ_LO r.seq

/-- The last column of Table 16.2. -/
def State.takeFallback (s : State) (o : StartOutcome) : MetaItem → State
  | .opSeconds => s.setReg LG_OP_SECONDS (BitVec.ofNat 32 (s.logMax 0x08 + 1))
  | .powerCycles => s.setReg LG_POWER_CYCLES (BitVec.ofNat 32 (s.logMax 0x0C + 1))
  | .log => s.recoverLog
  | .refused => s.setReg LG_REFUSED 0xFFFFFFFF
  | .wallTime => s.modLedger fun l => { l with wallTime := none }
  | .key => s.modLedger fun l => { l with key := none, keyId := 0, keyLost := true }
  | .rollback => s.modLedger fun l => { l with
      rollback := BitVec.ofNat 32 (([0, 1].filterMap fun k => (s.power.fw.verified o k).map fun m => fwRollback m.1).foldl max 0) }
  | .transients => s.modWeaver fun w => { w with transients := [] }
  | .retired => (s.modWeaver fun w => { w with retired := [] }).setReg HUB_RETIRED 0
  | .snapshots => s.modLedger fun l => { l with snaps := [] }
  | .scrub => s.setReg LG_SCRUB 0

/-- A FAULT record of class 0x08, whose class detail is not stated for metadata and free (log entry 108), and the fallback. -/
def State.loseItem (s : State) (o : StartOutcome) (i : MetaItem) : State :=
  let d := s.drawBytes 16
  (d.2.ledFault (uMram 2) 0x08 d.1).takeFallback o i

/-- A counter of the metadata, of whose two valid copies the larger holds. -/
def MetaCopy.counter (c : MetaCopy) : MetaItem → Option Word
  | .opSeconds => some c.opSeconds
  | .powerCycles => some c.powerCycles
  | .refused => some c.refused
  | .rollback => some c.rollback
  | _ => none

/-- Of two valid copies the larger for a counter, else A, which is written first. -/
def MetaCopy.larger (a b : MetaCopy) (i : MetaItem) : MetaCopy :=
  match a.counter i, b.counter i with
  | some x, some y => if x.toNat < y.toNat then b else a
  | _, _ => a

/-- The copy of an item that holds. -/
def LedgerState.metaOf (l : LedgerState) (i : MetaItem) : Option MetaCopy :=
  if l.metaA.bad.contains i then (if l.metaB.bad.contains i then none else some l.metaB)
  else if l.metaB.bad.contains i then some l.metaA
  else some (l.metaA.larger l.metaB i)

/-- An item as read from `c`. After a power-on the operating seconds and the power cycles go on by 1 (R387). -/
def State.takeItem (s : State) (o : StartOutcome) (c : MetaCopy) : MetaItem → State
  | .opSeconds => s.setReg LG_OP_SECONDS (c.opSeconds + 1)
  | .powerCycles => s.setReg LG_POWER_CYCLES (if o.powerOn then c.powerCycles + 1 else c.powerCycles)
  | .log => ((s.setReg LG_GENERATION c.generation).setReg64 LG_FIRST_SEQ_LO c.firstSeq).modLedger fun l =>
      { l with pendingClear := c.pendingClear }
  | .refused => s.setReg LG_REFUSED c.refused
  | .wallTime => s.modLedger fun l => { l with wallTime := c.wallTime }
  | .key => s.modLedger fun l => { l with key := c.key, keyId := c.keyId }
  | .rollback => s.modLedger fun l => { l with rollback := c.rollback }
  | .transients => s.modWeaver fun w => { w with transients := c.transients }
  | .retired => (s.modWeaver fun w => { w with retired := c.retired }).setReg HUB_RETIRED (BitVec.ofNat 32 c.retired.length)
  | .snapshots => s.modLedger fun l => { l with snaps := c.snaps }
  | .scrub => (s.setReg LG_SCRUB c.scrub).setReg LG_SCRUB_PASSES c.scrubPasses

/-- Firmware reads an item; what it takes for a lost one it writes, but a lost key stays lost (log entry 108). -/
def State.readItem (s : State) (o : StartOutcome) (i : MetaItem) : State :=
  match s.ledger.metaOf i with
  | some c => s.takeItem o c i
  | none => let s := s.loseItem o i
    if i = .key then s else s.storeMeta i

/-- Firmware reads the metadata. The operating seconds stand in the always-on domain and are read only at a power-on (R416),
where both counters of R387 are written. -/
def State.readMeta (s : State) (o : StartOutcome) : State :=
  let s := s.modLedger fun l => { l with
    metaA := { l.metaA with bad := l.metaA.bad.filter (fun i => !o.metaBadA.contains i) ++ o.metaBadA }
    metaB := { l.metaB with bad := l.metaB.bad.filter (fun i => !o.metaBadB.contains i) ++ o.metaBadB } }
  let s := s.each (MetaItem.all.filter fun i => o.powerOn || i ≠ .opSeconds) fun s i => s.readItem o i
  if o.powerOn then s.commitSeconds.storeMeta .powerCycles else s

/-! ### The steps of Table 18.6 -/

/-- Start-up fails: START_FAILED if the ledger is mounted, ALIVE STATE 0xF; a pending image that was started is not started
again (R342, R430). -/
def State.startFails (s : State) (code : Nat) (mounted : Bool) (pending : Option Nat) : State :=
  let s := match pending with
    | some p => s.modFw fun f => if f.running = p then { f with pending := some p, bad := p :: f.bad.filter (· ≠ p) } else f
    | none => s
  let s := (s.setRegF PWR_STATE 8 4 code).setPwr 7
  if mounted then s.ledgerReq 0x0002 4 noUnit 0x12 (leBytes 4 code ++ leBytes 4 0) else s

/-- Step 4: the root PLL takes REF_IN if a block has qualified it, else the crystal. -/
def State.startClock (s : State) (mhz : Nat) (ppb : Word) : State :=
  let s := if mhz = 0 then (s.setReg CLK_STATUS 0x82).setReg CLK_REF_PPB 0x80000000
    else (s.setReg CLK_STATUS (BitVec.ofNat 32 (0x8C + 16 * (if mhz = 10 then 1 else 2)))).setReg CLK_REF_PPB ppb
  s.modTime fun t => { t with tbHist := [(s.now, BitVec.ofNat 2 (s.regF CLK_STATUS 0 2))] }

/-- Fitted lanes. -/
def State.fittedLanes (s : State) : List Nat := filterRange 192 fun n => !s.laneAbsent n

/-- A unit that start-up can retire: it exists, and another can take its work (R309). -/
def State.retirable (s : State) (u : Word) : Bool :=
  uaValid u && uaPresent s.halfPart u && !([0x01, 0x13, 0x14, 0x16].contains (uaKind u))

/-- Steps 5 to 9: modules, ledger, channels, lanes, units. Answers what step 6 could not recover. -/
def State.startUnits (s : State) (o : StartOutcome) : State × Option (Nat × Nat) :=
  let s := ((s.modWeaver fun w => { w with retired := [] }).storeMeta .retired).setReg HUB_RETIRED 0
  let s := s.each (o.badModules.filter fun k => !(s.halfPart && decide (4 ≤ k.val))) fun s k => s.retireModule (k.val / 4) (k.val % 4)
  let m := s.mountLedger
  let s := m.1.each (List.range 16) fun s c =>
    s.trainInitial c (o.channelFails.getD c 0) (o.densities.getD c 2) o.memTemp
  let s := s.calibrate (s.fittedLanes.filter fun n => s.modules (n / 96) != 0) o.lanes o.tempCd0 o.tempCd1
  (s.each (o.badUnits.filter s.retirable) fun s u => s.retireUnit u (unitClass (uaUnit u)), m.2)

/-- Step 10: START_UP counts the units that came back (Table 16.4), and a RETURNED record names each (DEDUCED, log entry
118); a tail that was not recovered is recorded after it. -/
def State.startReady (s : State) (o : StartOutcome) (old : List Word) (tail : Option (Nat × Nat)) : State :=
  let back := old.filter fun u => !s.isRetired u
  let s := ((s.updateLimits.setReg PWR_STARTUP_US o.us).loadRom.setPwr 1).startComparators.startPorts.ledgerReq 0x0001 1 noUnit 0x12
    (leBytes 1 s.power.fw.running ++ leBytes 3 0 ++ leBytes 4 s.power.fw.version.toNat ++ leBytes 4 back.length ++ leBytes 4 0)
  let s := s.each back State.ledReturned
  let s := match tail with
    | some x => s.ledgerReq 0x0043 2 noUnit 0x13 (leBytes 8 x.1 ++ leBytes 8 x.2)
    | none => s
  let rb := fwRollback (s.power.fw.slot s.power.fw.running)
  (s.modLedger fun l => { l with rollback := BitVec.ofNat 32 (max l.rollback.toNat rb) }).storeMeta .rollback

def State.startUp (s : State) (o : StartOutcome) : State :=
  let s := s.modPower fun p => { p with
    boardA := o.boardA, boardB := o.boardB, perst := false, outputsOff := false, tempHd := o.tempHd, tempCd0 := o.tempCd0, tempCd1 := o.tempCd1 }
  let s := (s.modPcie fun p => { p with linkUp := true }).setReg PCI_LINK (linkWord o.linkRate o.linkWidth o.linkFlit)
  let mc0 := o.densities.getD 0 2
  let s := match boardBlock o with
    | some b => s.loadBlock b mc0
    | none => s.noBlock mc0
  let tie := s.draw 1
  let s := tie.2.readMeta o
  match s.bootSlot o tie.1.toNat with
  | none =>
    (s.each [0, 1] fun s c => s.trainInitial c (o.channelFails.getD c 0) (o.densities.getD c 2) o.memTemp).startFails 1 false none
  | some k =>
    let pend := s.power.fw.pending
    let s := s.startSlot k.1 k.2
    if !o.pllLock then s.startFails 2 false pend
    else
      let old := s.weaver.retired
      let r := (s.startClock o.refMhz o.refPpb).startUnits o
      let s := r.1
      if s.healthyChans.length < 2 then s.startFails 3 true pend
      else if o.coreFail || o.badUnits.any (fun u => [0x13, 0x14, 0x16].contains (uaKind u)) then s.startFails 4 true pend
      else if o.late then s.startFails 5 true pend
      else s.startReady o old r.2

/-- Start-up runs from a reset that has ended (R428, R455). -/
def execStartUp (o : StartOutcome) (s : State) : Host.Outcome State Fault Refusal :=
  .next (if s.power.powered && s.power.hotDie.isNone && s.pwr = 0 then s.startUp o else s)

end Sys2Proof.Machine
end

