-- ==== Sys2Proof/Machine/Station.lean ====
section
/-!
DEFINITION. The station port (R396 to R402), the annotation router, and the SMBus target (R412).
-/
namespace Sys2Proof.Machine

/-- The port answers: the device has power, is out of reset and not in SLEEP, where the station bank is off (Table 18.2). -/
def State.portOn (s : State) : Bool :=
  s.power.powered && !s.power.perst && s.power.hotDie.isNone && s.pwr != 4

/-! ### Annotation packets (R401) -/

/-- A word arrives at queue 0, after what its consumer does in the cycle (R242). -/
def State.stationWord (s : State) (item : StationWord) (last : Bool) (t : Time) : State :=
  (s.each item.same fun s op => s.consumeOp (.onChip 0) op).queueArriveAt 0 (item.word.setWidth 64) last false t

def execData (item : StationWord) (s : State) : Host.Outcome State Fault Refusal :=
  .next (if s.portOn then s.stationWord item false s.now else s)

/-- The commit edge's session time is the packet's time. -/
def execDataLast (item : StationWord) (at_ : Time) (s : State) : Host.Outcome State Fault Refusal :=
  .next (if s.portOn then s.stationWord item true (s.sessionTime at_) else s)

/-- The open packet is aborted; with none open nothing happens. -/
def State.abortAnnotation (s : State) : State :=
  let o := (s.queue 0).abort
  s.settleQueue 0 o.q o.lost o.bad

def execControlAbort (s : State) : Host.Outcome State Fault Refusal := .next (if s.portOn then s.abortAnnotation else s)

/-- The station timeout of an open packet. -/
def execStationTimeout (s : State) : Host.Outcome State Fault Refusal :=
  .next (if (s.queue 0).visible < (s.queue 0).occ then s.abortAnnotation.incReg STN_TIMEOUTS else s)

def execAnnotationRoute (s : State) : Host.Outcome State Fault Refusal := .next s.routeNext

/-! ### Verdicts (R399, R402) -/

/-- A read is sampled only when none is pending; a VWORD read with no whole packet waiting stalls (R237). -/
def execVword (s : State) : Host.Outcome State Fault Refusal :=
  .next (
    if !s.portOn || s.station.pendingRead.isSome then s
    else
      let s := s.settleQueue 1 ((s.queue 1).doPop (qKind 1) 1) 0 0
      if (s.queue 1).stalled.isSome then s.modStation fun st => { st with pendingRead := some 0, wait := true }
      else s.finishVword)

/-- The unread words of a partly read packet are released. -/
def execControlDiscard (s : State) : Host.Outcome State Fault Refusal :=
  .next (
    if !s.portOn || s.station.partRead = 0 then s
    else
      let q := s.queue 1
      let s := s.settleQueue 1 { q with read := firstPacket (q.items.take q.visible) }.release 0 0
      s.modStation fun st => { st with partRead := 0 })

/-- LOST: both counts, saturated, and they are cleared (Table 17.2). -/
def execLost (s : State) : Host.Outcome State Fault Refusal :=
  .next (
    if !s.portOn || s.station.pendingRead.isSome then s
    else s.modStation fun st => { st with
      dataOut := BitVec.ofNat 16 (sat 255 st.lostVerdicts + 256 * sat 255 st.lostAnnotations)
      lostVerdicts := 0, lostAnnotations := 0 })

/-- A cycle with both strobes low, or one to a register of the wrong direction, is counted (R397, R398). -/
def execPortProtocolError (s : State) : Host.Outcome State Fault Refusal :=
  .next (if s.portOn then s.incReg STN_ERR else s)

/-! ### SMBus (R412, Table 17.7) -/

/-- Read data on the SMBus. The always-on domain answers in every state. -/
def State.smbus (s : State) (bytes : List Byte) : State :=
  if s.power.powered then s.modOut fun o => { o with smbus := bytes } else s

/-- During start-up 0, else ALIVE STATE. -/
def execState (s : State) : Host.Outcome State Fault Refusal :=
  .next (s.smbus (leBytes 1 (if s.pwr = 0 || s.power.perst then 0 else fld s.alive 12 4)))

def execTempHd (reading : Half) (s : State) : Host.Outcome State Fault Refusal :=
  .next ((s.modPower fun p => { p with tempHd := reading }).smbus (leBytes 2 reading.toNat))

def execTempCd0 (reading : Half) (s : State) : Host.Outcome State Fault Refusal :=
  .next ((s.modPower fun p => { p with tempCd0 := reading }).smbus (leBytes 2 reading.toNat))

def execTempCd1 (reading : Half) (s : State) : Host.Outcome State Fault Refusal :=
  .next (
    if s.halfPart then s.smbus (leBytes 2 0x8000)
    else (s.modPower fun p => { p with tempCd1 := reading }).smbus (leBytes 2 reading.toNat))

def execOpSeconds (s : State) : Host.Outcome State Fault Refusal := .next (s.smbus (leBytes 4 s.opSeconds.toNat))

def execAlert (s : State) : Host.Outcome State Fault Refusal := .next (s.smbus (leBytes 2 s.alertBits))

/-- Clear the latched event bits (R408). -/
def State.ackAlert (s : State) : State := s.modStation fun st => { st with retiredEvt := false, spareEvt := false }

def execAck (v : Byte) (s : State) : Host.Outcome State Fault Refusal :=
  .next (if v = 1 && s.power.powered then s.ackAlert else s)

/-- Device ID and Revision ID of Table 0.3 at stepping B1, ORDERING, DIES, Usilet version. -/
def execIdent (s : State) : Host.Outcome State Fault Refusal :=
  .next (s.smbus (leBytes 2 s.deviceId ++ leBytes 1 revisionId ++ leBytes 1 s.power.board.ordering.code ++
    leBytes 1 s.dies ++ leBytes 2 s.power.fw.version.toNat ++ [0]))

/-! ### Firmware's heartbeat -/

/-- A Function Level Reset in progress ends with the next beat (R367, Table 15.14 step 7; DESIGN CHOICE, log entry 69). -/
def State.endReset (s : State) : State :=
  if s.pcie.flr then
    let s := s.modPcie fun p => { p with flr := false }
    if s.pwr = 2 then s.enterState 1 else s
  else s

/-- ALIVE.BEAT counts modulo 4,096 (R355). It stops where CC0 does. -/
def execBeat (s : State) : Host.Outcome State Fault Refusal :=
  .next (if s.power.powered && !s.power.perst && !s.power.stopped && s.power.hotDie.isNone
    then s.endReset.setRegF ALIVE 0 12 (s.regF ALIVE 0 12 + 1) else s)

end Sys2Proof.Machine
end

