-- ==== Sys2Proof/Machine/Doorbell.lean ====
section
/-!
DEFINITION. The mailbox itself (chapter 14): the doorbell with its checks (R321 to R323), completion, ABORT of a command,
DEVICE_INFO, GET_STATUS, and the host notification ring (R337, R338).
-/
namespace Sys2Proof.Machine

/-! ### What the header of each command may name (Table 14.6) -/

/-- Handle types that HANDLE may have, and whether it may be 0; no type: HANDLE must be 0. -/
def headerTypes : Nat → List Nat × Bool
  | 0x0002 => ([1], true)
  | 0x0011 => ([1, 2, 3, 4, 5, 6], false)
  | 0x0022 => ([2], false)
  | 0x0023 => ([4], false)
  | 0x0024 => ([5], false)
  | 0x0025 => ([1], false)
  | 0x0026 => ([1], false)
  | 0x0027 => ([6], false)
  | 0x0042 => ([2], false)
  | 0x0043 => ([1, 6], true)
  | 0x0050 => ([3], false)
  | 0x0051 => ([4], false)
  | 0x0052 => ([4], false)
  | 0x0071 => ([3], true)
  | _ => ([], true)

/-- Reserved header bits, VECTOR's range, and a HANDLE where the command names none (Table 14.1). -/
def headerBad (img : MbImage) : Bool :=
  img.flags.toNat / 2 ≠ 0 || !zeros img.rsv || decide (2048 ≤ img.vector.toNat) ||
    ((headerTypes img.code.toNat).1.isEmpty && img.handle ≠ 0)

/-! ### Payload fields and handles of each command (R323 steps 4 and 5) -/

/-- NOTIFY_RING: with address 0 it unbinds and the count says nothing; VECTOR counts with VECTOR_VALID (log entry 79). -/
def checkNotifyRing (p : List Byte) : List (Option Nat) :=
  [ ckFld p 0 0 64 (fun a => a % 4096 == 0)
  , (if getLe p 0 8 = 0 then none
     else ckFld p 8 0 32 fun n => (List.range 11).any fun k => n == 64 * 2 ^ k)
  , (if bit (BitVec.ofNat 8 (getLe p 0x0E 1)) 0 then ckFld p 0x0C 0 16 (· < 2048) else none)
  , ckRsv p 0x0E 1 0xFE, ckZero p 0x0F 1 ]

/-- ABORT: a target mailbox with HANDLE 0, otherwise zeros (R335). -/
def checkAbort (img : MbImage) : List (Option Nat) :=
  let p := img.payload
  if img.handle = 0 then [ckFld p 0 0 8 fun t => decide (8 ≤ t) && decide (t < 32), ckZero p 1 3] else [ckZero p 0 4]

def payloadChecks (img : MbImage) : List (Option Nat) :=
  let p := img.payload
  match img.code.toNat with
  | 0x0004 => checkNotifyRing p
  | 0x0010 => checkCreate p
  | 0x0020 => checkConfigureLanes p
  | 0x0021 => checkConfigurePods p
  | 0x0022 => match getLe p 0 1 with
    | 0 => checkSequenceLevels p
    | 1 => checkSequenceTerms p
    | _ => [some 0]
  | 0x0023 => checkDefineHistogram p
  | 0x0024 => checkDefineInterval p
  | 0x0025 => checkBindStream p
  | 0x0026 => checkSetWindow p
  | 0x0027 => checkStartCompare p
  | 0x0030 => checkCommit p
  | 0x0031 => checkQuery p
  | 0x0040 => checkArm p
  | 0x0042 => [ckZero p 1 3]
  | 0x0043 => checkAbort img
  | 0x0050 => checkLoadReference p
  | 0x0051 => checkSnapshot p
  | 0x0053 => checkAnnotate p
  | 0x0054 => checkTimeNote p
  | 0x0060 => checkLedgerRead p
  | 0x0063 => checkSetSnapshot p
  | 0x0064 => checkProvisionKey p
  | 0x0070 => checkSelftest p
  | 0x0071 => checkDiagDecompress img
  | 0x0072 => checkDiag p
  | 0x0080 => checkMapWindow p
  | 0x0081 => checkSetPowerState p
  | 0x0090 => checkFwBegin p
  | 0x0091 => checkFwChunk p
  | _ => []

def payloadHandles (img : MbImage) : List HandleUse :=
  let p := img.payload
  match img.code.toNat with
  | 0x0022 => if getLe p 0 1 = 0 then handlesSequenceLevels p else handlesSequenceTerms p
  | 0x0023 => handlesDefineHistogram p
  | 0x0024 => handlesDefineInterval p
  | 0x0025 => handlesBindStream p
  | 0x0027 => handlesStartCompare p
  | 0x0030 => handlesCommit p
  | 0x0053 => handlesAnnotate p
  | _ => []

/-- Every handle the command names, the header's first. -/
def commandHandles (img : MbImage) : List HandleUse :=
  let h := headerTypes img.code.toNat
  (if h.1.isEmpty then [] else [{ handle := img.handle, at_ := none, types := h.1, optional := h.2 }]) ++ payloadHandles img

/-! ### The checks (R323) -/

/-- LENGTH (step 3): the DETAIL of BAD_LENGTH. An expected length beyond 16 bits has no DETAIL: it is `free` (log entry 80). -/
def lengthBad (img : MbImage) (free : Half) : Option Nat :=
  if 4032 < img.length.toNat then some 0xFFFF
  else match cmdLength img.code.toNat img.payload with
    | some n => if n = img.length.toNat then none else if n < 2 ^ 16 then some n else some free.toNat
    | none => none

/-- Reserved bits and fields (step 4): the header's first. -/
def fieldBad (img : MbImage) : Option Nat :=
  if headerBad img then some 0xFFFF else (firstBad (payloadChecks img)).map (· / 8)

/-- Commands that STANDBY and SLEEP execute (R422). -/
def runsAsleep (img : MbImage) : Bool :=
  [0x0001, 0x0002, 0x0003, 0x0004, 0x0011, 0x0054, 0x0060, 0x0081].contains img.code.toNat ||
    (img.code.toNat == 0x0043 && img.handle == 0)

/-- Commands that a device in ALIVE STATE 0xF accepts (R369). -/
def runsFailed (img : MbImage) : Bool := [0x0001, 0x0002, 0x0060, 0x0090, 0x0091, 0x0092].contains img.code.toNat

/-- The device's state refuses the command. -/
def State.stateRefuses (s : State) (img : MbImage) : Bool :=
  (s.asleep && !runsAsleep img) || (s.failed && !runsFailed img)

/-- Commands naming a histogram object whose unit is retired, DESTROY among them, are refused (Table 7.3). -/
def State.histRetired (s : State) (u : HandleUse) : Option Response :=
  refusalIf (hType u.handle == 4 && (s.weaver.place.histPlace (hIdx u.handle)).any fun h => s.isRetired (uHu h.hu)) stRetired (u.at_.getD 0xFFFF)

/-- The checks in their order; the first failure ends them. The device's state is part of step 6 (log entry 81). -/
def State.commandRefusal (s : State) (m : Nat) (img : MbImage) (free : Half) : Option Response :=
  match cmdClass img.code.toNat with
  | none => some (Response.fail stUnknown 0)
  | some c =>
    if boxClass m < c then some (Response.fail stWrongClass (boxClass m))
    else firstRefusal (
      (lengthBad img free).map (Response.fail stBadLength) ::
      (fieldBad img).map (Response.fail stInvalid) ::
      (commandHandles img).map (s.checkHandle (img.code.toNat == 0x0002)) ++
      refusalIf (s.stateRefuses img) stNotReady 0 :: (commandHandles img).map s.histRetired)

/-! ### Start -/

/-- Requests can leave the device (R360, R366). -/
def State.mayIssue (s : State) : Bool := s.pcie.busMaster && s.pcie.linkUp && !s.pcie.d3hot

/-- The host bytes that a command reads, if its own checks let it run: address and length. -/
def State.commandRead (s : State) (img : MbImage) : Option (Nat × Nat) :=
  let p := img.payload
  let go := fun (r : Option Response) (n : Nat) => if r.isSome || n = 0 then none else some (getLe p 0 8, n)
  match img.code.toNat with
  | 0x0050 => if (s.desAtWork none).isEmpty then none else go (s.loadRefusal img) (loadCount p)
  | 0x0071 => if img.handle ≠ 0 then none else go (s.diagRefusal img) (diagLen p)
  | 0x0091 => go (s.fwChunkRefusal p) (fwChunkLen p)
  | _ => none

/-- A command starts: it is checked, and its read is issued (log entry 63). With Bus Master Enable clear nothing can be read. -/
def State.startCommand (s : State) (m : Nat) : State :=
  match (s.box m).taken with
  | none => s
  | some img =>
    let d := s.draw 16
    let s := d.2.modBox m fun b => { b with started := true }
    match s.commandRefusal m img d.1 with
    | some r => s.respond m r
    | none =>
      match s.commandRead img with
      | none => s
      | some r => if s.mayIssue then s.issueRead (.command m) r.1 r.2 else s.failCommand m stDmaError

/-- The class 2 or 3 command whose turn it is starts (R326). -/
def State.startNext (s : State) : State :=
  match s.mbx.order with
  | [] => s
  | m :: _ => if (s.box m).started then s else s.startCommand m

/-! ### The doorbell (R321, R322) -/

/-- Cores run that can take a mailbox; a Function Level Reset in progress takes none. -/
def State.served (s : State) : Bool :=
  s.power.powered && !s.power.perst && !s.power.stopped && s.power.hotDie.isNone && s.pwr != 0 && !s.pcie.flr

/-- What the host wrote to the mailbox stands in it (Table 14.1). -/
def Mailbox.hostWrites (b : Mailbox) (img : MbImage) : Mailbox :=
  { b with image := some img, payload := img.payload.take 4032 ++ b.payload.drop (img.payload.take 4032).length }

/-- The device copies the header, and LENGTH bytes of the payload. -/
def Mailbox.take (b : Mailbox) (img : MbImage) : Mailbox :=
  { b with owner := true, started := false, ready := none
           taken := some { img with payload := padTo (min 4032 img.length.toNat) b.payload } }

/-- The host has written `image` to the mailbox, and then writes its doorbell. -/
def State.doorbell (s : State) (m : Nat) (value : Word) (image : MbImage) : State :=
  let busy := (s.box m).owner
  let s := if busy then s else s.modBox m fun b => b.hostWrites image
  if busy || value.setWidth 16 ≠ image.tag || value.toNat / 2 ^ 16 ≠ 0 then s.incReg (MB_IGNORED m)
  else
    let s := (s.modBox m fun b => b.take image).setRegF (MB_STATE m) 16 16 image.code.toNat
    if boxClass m < 2 then s.startCommand m
    else (s.modMbx fun x => { x with order := x.order ++ [m] }).startNext

def execMailboxDoorbell (m : Fin 32) (value : Word) (attr : WriteAttr) (image : MbImage) (s : State) :
    Host.Outcome State Fault Refusal :=
  .next (
    if !s.doorbellOk attr then s.seeWrite attr.poisoned
    else if !s.served then s
    else s.doorbell m value image)

/-! ### Completion (R321 steps 4 and 5) -/

/-- The response, the device fields of the header, OWNER clear. Payload bytes beyond RLENGTH stay. -/
def Mailbox.complete (b : Mailbox) (r : Response) (epoch health : Word) (us : Nat) : Mailbox :=
  { b with
    status := r.status, detail := r.detail, rlength := BitVec.ofNat 32 r.bytes.length, epoch := epoch, health := health
    rtag := (b.taken.map (·.tag)).getD 0, respUs := BitVec.ofNat 32 (sat (2 ^ 32 - 1) us)
    payload := r.bytes ++ b.payload.drop r.bytes.length
    owner := false, taken := none, started := false, ready := none }

/-- Writes to host memory that a command may have made still wait (R362, Table 15.10). -/
def State.writesHeld (s : State) (img : MbImage) : Bool :=
  [0x0031, 0x0051, 0x0060, 0x0071].contains img.code.toNat && !s.pcie.held.isEmpty

/-- The response is written and OWNER cleared, once the command's own writes have left (R362). -/
def State.completeBox (s : State) (m us : Nat) : State :=
  match (s.box m).ready, (s.box m).taken with
  | some r, some img => if s.writesHeld img then s else
    let s := (s.dropData m).modBox m fun b => b.complete r s.epochNo s.health us
    let s := s.incReg (MB_CMDS m)
    let s := s.setReg (MB_RESP_MAX m) (BitVec.ofNat 32 (max (s.reg (MB_RESP_MAX m)).toNat (sat (2 ^ 32 - 1) us)))
    let s := if bit img.flags 0 then s.msix img.vector.toNat else s
    (s.modMbx fun x => { x with order := x.order.erase m }).startNext
  | _, _ => s

def execCommandCompletion (m : Fin 32) (us : Nat) (s : State) : Host.Outcome State Fault Refusal :=
  .next (if s.served then s.completeBox m us else s)

/-! ### ABORT with HANDLE 0 (R335) -/

/-- The commit points that come after a command's start: COMMIT, LEDGER_CLEAR, FW_UPDATE_COMMIT. The model runs each of these
in one step, so their commit point is that step. -/
def lateCommit (code : Nat) : Bool := code == 0x0030 || code == 0x0062 || code == 0x0092

/-- A command before its commit point ends with CANCELLED. A LOAD_REFERENCE that waited leaves a reference that is loading
EMPTY (log entry 82). -/
def State.cancel (s : State) (t : Nat) (img : MbImage) : State :=
  let r := hIdx img.handle
  let s := if img.code.toNat = 0x0050 && s.handleLive img.handle false && hType img.handle == 3 && (s.ref r).phase == .loading
    then s.emptyRef r else s
  let s := if (s.box t).started then s else s.modMbx fun x => { x with order := x.order.erase t }
  s.respond t (Response.fail stCancelled 0)

/-- ABORT with HANDLE 0 (R335): a command of class 2 or 3 before its commit point is withdrawn; any other completes. -/
def abortCommandCmd (img : MbImage) (s : State) : State × Option Response :=
  let t := getLe img.payload 0 1
  let b := s.box t
  match b.taken with
  | none => done s (leBytes 4 2)
  | some c =>
    if b.ready.isNone && (cmdClass c.code.toNat).all (2 ≤ ·) && (!b.started || lateCommit c.code.toNat) then done (s.cancel t c) (leBytes 4 0)
    else done s (leBytes 4 1)

def execAbortCommand (m : Fin 32) (s : State) : Host.Outcome State Fault Refusal :=
  .next (s.runCommand m 0x0043 (fun img => img.handle == 0) abortCommandCmd)

/-! ### DEVICE_INFO and GET_STATUS (Table 14.8) -/

def State.deviceInfo (s : State) : List Byte :=
  leBytes 1 s.power.board.ordering.code ++ leBytes 1 (s.power.board.ordering == .zs192x).toNat ++ leBytes 1 revisionId ++ leBytes 1 s.dies ++
  leBytes 4 s.power.fw.version.toNat ++ leBytes 8 s.power.board.serial.toNat ++
  leBytes 1 s.power.board.channelGib ++ leBytes 1 s.healthyChans.length ++ [0, 0] ++
  leBytes 4 s.ledger.rollback.toNat ++ leBytes 4 s.opSeconds.toNat ++ leBytes 4 (s.reg LG_POWER_CYCLES).toNat ++
  leBytes 4 Config.directoryVersion.toNat ++ leBytes 4 0

def execDeviceInfo (m : Fin 32) (s : State) : Host.Outcome State Fault Refusal :=
  .next (s.runCommand m 0x0001 (fun _ => true) fun _ s => done s s.deviceInfo)

def State.deviceStatus (s : State) : List Byte :=
  let shed := s.weaver.shed
  leBytes 1 s.healthState ++ leBytes 1 s.time.armed.toNat ++ leBytes 1 s.tb ++ [0] ++ leBytes 4 s.opSeconds.toNat ++
  leBytes 8 s.time.tsHd.toNat ++ leBytes 8 s.time.armTime ++ leBytes 8 (s.ingestLimit * giga) ++
  leBytes 2 (sat 65535 s.weaver.retired.length) ++ leBytes 2 (sat 65535 shed.length) ++
  leBytes 4 (sat (2 ^ 32 - 1) s.mbx.noticesLost) ++
  ((List.range 16).flatMap fun c => leBytes 1 (s.mcState c + 8 * s.chanRate c)) ++
  ((List.range 24).flatMap fun k => leBytes 1 (sumOn ((List.range 8).filter fun b => s.lnRetired (8 * k + b)) fun b => 2 ^ b)) ++
  shed.flatMap fun k => leBytes 4 (s.handleOfKey k).toNat

/-- Bytes of the stream that no buffer has taken. -/
def StreamDyn.undelivered (sd : StreamDyn) : Nat := 8 * (sumOn sd.ring (fun g => g.words.length) + sd.open_.length)

def State.streamStatus (s : State) (i : Nat) : List Byte :=
  let sd := s.stream i
  let size := match s.weaver.place.streams.find? (·.obj == i) with | some p => p.perChannel * p.stripe.length | none => 0
  leBytes 8 sd.segSeq ++ leBytes 8 sd.nextDeliver ++ leBytes 8 size ++ leBytes 8 sd.undelivered ++ leBytes 8 sd.wordsLost ++
  leBytes 4 sd.descTaken ++ leBytes 4 sd.cplWritten ++
  leBytes 4 ((s.isShed (objKey 1 i)).toNat + 2 * (sd.windows.any fun w => w.2.isNone).toNat + 4 * sd.memberOpen.toNat +
    8 * sd.dmaFailed.toNat) ++ leBytes 4 0

/-- With HANDLE 0 the count of lost notices and the event bits of STN_ALERT are cleared (R339, R408). -/
def getStatusCmd (img : MbImage) (s : State) : State × Option Response :=
  if img.handle = 0 then done (s.ackAlert.modMbx fun x => { x with noticesLost := 0 }) s.deviceStatus
  else done s (s.streamStatus (hIdx img.handle))

def execGetStatus (m : Fin 32) (s : State) : Host.Outcome State Fault Refusal :=
  .next (s.runCommand m 0x0002 (fun _ => true) getStatusCmd)

/-! ### The host notification ring (R337, R338) -/

/-- Bind, replace or unbind; writing restarts at entry 0 with PHASE 1, and both counts with it (log entry 79). -/
def notifyRingCmd (img : MbImage) (s : State) : State × Option Response :=
  let p := img.payload
  if getLe p 0 8 = 0 then done s.unbindRing []
  else
    let s := s.modMbx fun x => { x with
      ringAddr := getLe p 0 8, ringEntries := getLe p 8 4
      ringVector := if getLe p 0x0E 1 % 2 = 1 then some (getLe p 0x0C 2) else none }
    done (((s.setReg MB_NTF_TAIL 0).setReg MB_NTF_HEAD 0).setRegF MB_NTF_CFG 0 2 3) []

def execNotifyRing (m : Fin 32) (s : State) : Host.Outcome State Fault Refusal :=
  .next (s.runCommand m 0x0004 (fun _ => true) notifyRingCmd)

def execNotificationConsumerDoorbell (value : Word) (attr : WriteAttr) (s : State) : Host.Outcome State Fault Refusal :=
  .next (if s.doorbellOk attr then s.setReg MB_NTF_HEAD value else s.seeWrite attr.poisoned)

/-- The count of free entries shows the next one free. -/
def State.entryFree (s : State) : Bool :=
  decide ((s.reg MB_NTF_TAIL - s.reg MB_NTF_HEAD).toNat < s.mbx.ringEntries)

/-- Word 0 with PHASE, the packet's words, zeros beyond them. -/
def entryBytes (words : List DWord) (phase : Bool) : List Byte :=
  match words with
  | [] => List.replicate 64 0
  | w :: ws => padTo 64 (bytesOf ((w ||| BitVec.ofNat 64 (phase.toNat * 2 ^ 31)) :: ws))

/-- The oldest packet of queue 2 goes into the next entry; the vector follows it. -/
def State.writeNotice (s : State) : State :=
  if !s.regBit MB_NTF_CFG 0 || !s.mayIssue || !s.served || !s.entryFree || (s.queue 2).pkts (qKind 2) = 0 then s
  else
    let s := s.settleQueue 2 ((s.queue 2).doPop (qKind 2) 8) 0 0
    let tail := s.reg MB_NTF_TAIL
    let phase := s.regBit MB_NTF_CFG 1
    let s := s.dmaWrite (s.mbx.ringAddr + 64 * (tail.toNat % s.mbx.ringEntries)) (entryBytes (s.queue 2).lastItems phase) false
    let s := s.setReg MB_NTF_TAIL (tail + 1)
    let s := if (tail + 1).toNat % s.mbx.ringEntries = 0 then s.setRegBit MB_NTF_CFG 1 (!phase) else s
    match s.mbx.ringVector with
    | some v => s.msix v
    | none => s

def execNoticeWrite (s : State) : Host.Outcome State Fault Refusal := .next s.writeNotice

end Sys2Proof.Machine
end

