-- ==== Sys2Proof/Machine/Dispatch.lean ====
section
/-!
DEFINITION. One arm per command: each calls the meaning of its command.
-/
namespace Sys2Proof.Machine

def exec (i : Instr) (s : State) : Host.Outcome State Fault Refusal :=
  match i with
  | .deviceInfo m => Sys2Proof.Machine.execDeviceInfo m s
  | .getStatus m => Sys2Proof.Machine.execGetStatus m s
  | .getDigests m => Sys2Proof.Machine.execGetDigests m s
  | .notifyRing m => Sys2Proof.Machine.execNotifyRing m s
  | .create m => Sys2Proof.Machine.execCreate m s
  | .destroy m => Sys2Proof.Machine.execDestroy m s
  | .configureLanes m => Sys2Proof.Machine.execConfigureLanes m s
  | .configurePods m => Sys2Proof.Machine.execConfigurePods m s
  | .defineSequenceLevels m => Sys2Proof.Machine.execDefineSequenceLevels m s
  | .defineSequenceTerms m => Sys2Proof.Machine.execDefineSequenceTerms m s
  | .defineHistogram m => Sys2Proof.Machine.execDefineHistogram m s
  | .defineInterval m => Sys2Proof.Machine.execDefineInterval m s
  | .bindStream m => Sys2Proof.Machine.execBindStream m s
  | .setWindow m => Sys2Proof.Machine.execSetWindow m s
  | .startCompare m => Sys2Proof.Machine.execStartCompare m s
  | .commit m => Sys2Proof.Machine.execCommit m s
  | .commitRevert m => Sys2Proof.Machine.execCommitRevert m s
  | .queryPlacement m => Sys2Proof.Machine.execQueryPlacement m s
  | .arm m => Sys2Proof.Machine.execArm m s
  | .armSync m => Sys2Proof.Machine.execArmSync m s
  | .disarm m => Sys2Proof.Machine.execDisarm m s
  | .forceMark m => Sys2Proof.Machine.execForceMark m s
  | .abortStream m => Sys2Proof.Machine.execAbortStream m s
  | .abortCompareJob m => Sys2Proof.Machine.execAbortCompareJob m s
  | .abortCommand m => Sys2Proof.Machine.execAbortCommand m s
  | .loadReference m => Sys2Proof.Machine.execLoadReference m s
  | .histogramSnapshotSwap m => Sys2Proof.Machine.execHistogramSnapshotSwap m s
  | .histogramSnapshotFetch m => Sys2Proof.Machine.execHistogramSnapshotFetch m s
  | .histogramClear m => Sys2Proof.Machine.execHistogramClear m s
  | .annotate m => Sys2Proof.Machine.execAnnotate m s
  | .timeNote m => Sys2Proof.Machine.execTimeNote m s
  | .ledgerRead m => Sys2Proof.Machine.execLedgerRead m s
  | .ledgerClearChallenge m => Sys2Proof.Machine.execLedgerClearChallenge m s
  | .ledgerClear m => Sys2Proof.Machine.execLedgerClear m s
  | .ledgerSetSnapshot m => Sys2Proof.Machine.execLedgerSetSnapshot m s
  | .ledgerProvisionKey m => Sys2Proof.Machine.execLedgerProvisionKey m s
  | .selftest m => Sys2Proof.Machine.execSelftest m s
  | .diagDecompress m => Sys2Proof.Machine.execDiagDecompress m s
  | .diagUnlock m => Sys2Proof.Machine.execDiagUnlock m s
  | .diagLock m => Sys2Proof.Machine.execDiagLock m s
  | .mapWindow m => Sys2Proof.Machine.execMapWindow m s
  | .setPowerState m => Sys2Proof.Machine.execSetPowerState m s
  | .fwUpdateBegin m => Sys2Proof.Machine.execFwUpdateBegin m s
  | .fwUpdateCancel m => Sys2Proof.Machine.execFwUpdateCancel m s
  | .fwUpdateChunk m => Sys2Proof.Machine.execFwUpdateChunk m s
  | .fwUpdateCommit m => Sys2Proof.Machine.execFwUpdateCommit m s
  | .fwUpdateDone ok => Sys2Proof.Machine.execFwUpdateDone ok s
  | .mailboxDoorbell m value attr image => Sys2Proof.Machine.execMailboxDoorbell m value attr image s
  | .commandCompletion m us => Sys2Proof.Machine.execCommandCompletion m us s
  | .descTail stream value attr => Sys2Proof.Machine.execDescTail stream value attr s
  | .cplHead stream value attr => Sys2Proof.Machine.execCplHead stream value attr s
  | .notificationConsumerDoorbell value attr => Sys2Proof.Machine.execNotificationConsumerDoorbell value attr s
  | .registerWrite addr value attr collides => Sys2Proof.Machine.execRegisterWrite addr value attr collides s
  | .rcRegisterRead addr bits => Sys2Proof.Machine.execRcRegisterRead addr bits s
  | .iuResValueLoRead iu => Sys2Proof.Machine.execIuResValueLoRead iu s
  | .loCounterRead c => Sys2Proof.Machine.execLoCounterRead c s
  | .bar2Read off len ask => Sys2Proof.Machine.execBar2Read off len ask s
  | .bar2Write off data poisoned => Sys2Proof.Machine.execBar2Write off data poisoned s
  | .windowTableSwap w => Sys2Proof.Machine.execWindowTableSwap w s
  | .d3hot => Sys2Proof.Machine.execD3hot s
  | .d0 => Sys2Proof.Machine.execD0 s
  | .busMasterEnableCleared => Sys2Proof.Machine.execBusMasterEnableCleared s
  | .busMasterEnableSet => Sys2Proof.Machine.execBusMasterEnableSet s
  | .functionLevelReset => Sys2Proof.Machine.execFunctionLevelReset s
  | .linkDown => Sys2Proof.Machine.execLinkDown s
  | .linkUp rate width flit => Sys2Proof.Machine.execLinkUp rate width flit s
  | .linkHoldExpiry => Sys2Proof.Machine.execLinkHoldExpiry s
  | .linkRetrain rate width flit => Sys2Proof.Machine.execLinkRetrain rate width flit s
  | .completionTimeout tag => Sys2Proof.Machine.execCompletionTimeout tag s
  | .completionReceived tag status data => Sys2Proof.Machine.execCompletionReceived tag status data s
  | .descriptorFetch stream => Sys2Proof.Machine.execDescriptorFetch stream s
  | .uncorrectableInternalError headerLog => Sys2Proof.Machine.execUncorrectableInternalError headerLog s
  | .perstNAssert => Sys2Proof.Machine.execPerstNAssert s
  | .startUp o => Sys2Proof.Machine.execStartUp o s
  | .laneCalibration results tempCd0 tempCd1 => Sys2Proof.Machine.execLaneCalibration results tempCd0 tempCd1 s
  | .initialTraining ch fails density temp => Sys2Proof.Machine.execInitialTraining ch fails density temp s
  | .pwrFailNAssert => Sys2Proof.Machine.execPwrFailNAssert s
  | .pwrFailNDeassert us => Sys2Proof.Machine.execPwrFailNDeassert us s
  | .brownOut => Sys2Proof.Machine.execBrownOut s
  | .thermalTrip die temp => Sys2Proof.Machine.execThermalTrip die temp s
  | .thermalRelease tempHd tempCd0 tempCd1 => Sys2Proof.Machine.execThermalRelease tempHd tempCd0 tempCd1 s
  | .stateTransitionDone => Sys2Proof.Machine.execStateTransitionDone s
  | .standbyEntry => Sys2Proof.Machine.execStandbyEntry s
  | .wake tempCd0 tempCd1 => Sys2Proof.Machine.execWake tempCd0 tempCd1 s
  | .refLost => Sys2Proof.Machine.execRefLost s
  | .refBad => Sys2Proof.Machine.execRefBad s
  | .refQualified mhz ppb => Sys2Proof.Machine.execRefQualified mhz ppb s
  | .refLocked => Sys2Proof.Machine.execRefLocked s
  | .holdoverEnd => Sys2Proof.Machine.execHoldoverEnd s
  | .timestampWrap => Sys2Proof.Machine.execTimestampWrap s
  | .sessionEpochPulse value => Sys2Proof.Machine.execSessionEpochPulse value s
  | .comparatorEdge n comp rise sclk taps second => Sys2Proof.Machine.execComparatorEdge n comp rise sclk taps second s
  | .burstClose n comp sclk => Sys2Proof.Machine.execBurstClose n comp sclk s
  | .levelKeepalive n => Sys2Proof.Machine.execLevelKeepalive n s
  | .rawBlockClose n => Sys2Proof.Machine.execRawBlockClose n s
  | .lossOfLock n comp => Sys2Proof.Machine.execLossOfLock n comp s
  | .tdcSelftestDone n pass => Sys2Proof.Machine.execTdcSelftestDone n pass s
  | .dacReadback n comp mv => Sys2Proof.Machine.execDacReadback n comp mv s
  | .dacSweepDone stake pass => Sys2Proof.Machine.execDacSweepDone stake pass s
  | .calDue stake temp => Sys2Proof.Machine.execCalDue stake temp s
  | .superframeBeacon beacon => Sys2Proof.Machine.execSuperframeBeacon beacon s
  | .frameReceived port slot frame => Sys2Proof.Machine.execFrameReceived port slot frame s
  | .managementBlockReceived port pos block => Sys2Proof.Machine.execManagementBlockReceived port pos block s
  | .blockLockLost port => Sys2Proof.Machine.execBlockLockLost port s
  | .delayRecompute port pos => Sys2Proof.Machine.execDelayRecompute port pos s
  | .commandBlockSent port block => Sys2Proof.Machine.execCommandBlockSent port block s
  | .podFault port pos => Sys2Proof.Machine.execPodFault port pos s
  | .slotSwitch port => Sys2Proof.Machine.execSlotSwitch port s
  | .slotSwitchCancel port ahead => Sys2Proof.Machine.execSlotSwitchCancel port ahead s
  | .enum port serials => Sys2Proof.Machine.execEnum port serials s
  | .chainBreak port pos => Sys2Proof.Machine.execChainBreak port pos s
  | .podAdded port serial => Sys2Proof.Machine.execPodAdded port serial s
  | .configDigestRotation port pos => Sys2Proof.Machine.execConfigDigestRotation port pos s
  | .segmentTestStart port seg => Sys2Proof.Machine.execSegmentTestStart port seg s
  | .segmentTestDone port seg errors lockHeld => Sys2Proof.Machine.execSegmentTestDone port seg errors lockHeld s
  | .sampleSlot => Sys2Proof.Machine.execSampleSlot s
  | .durationDeadline u => Sys2Proof.Machine.execDurationDeadline u s
  | .trigInEdge pin rise edge => Sys2Proof.Machine.execTrigInEdge pin rise edge s
  | .sequencerDecision sq => Sys2Proof.Machine.execSequencerDecision sq s
  | .timerExpiry sq n => Sys2Proof.Machine.execTimerExpiry sq n s
  | .deadTimeEnd sq => Sys2Proof.Machine.execDeadTimeEnd sq s
  | .markWrite stream => Sys2Proof.Machine.execMarkWrite stream s
  | .trigOutPulseStart pin => Sys2Proof.Machine.execTrigOutPulseStart pin s
  | .trigOutPulseEnd pin => Sys2Proof.Machine.execTrigOutPulseEnd pin s
  | .stepAnchor cu src => Sys2Proof.Machine.execStepAnchor cu src s
  | .expectedEdgeTimeout cu => Sys2Proof.Machine.execExpectedEdgeTimeout cu s
  | .checkLevel cu => Sys2Proof.Machine.execCheckLevel cu s
  | .decisionInstant cu trailerOk => Sys2Proof.Machine.execDecisionInstant cu trailerOk s
  | .referenceLost ref cause => Sys2Proof.Machine.execReferenceLost ref cause s
  | .histValue hu parity => Sys2Proof.Machine.execHistValue hu parity s
  | .sweepColumnEnd column => Sys2Proof.Machine.execSweepColumnEnd column s
  | .deferredSwap hu region => Sys2Proof.Machine.execDeferredSwap hu region s
  | .spillDone read => Sys2Proof.Machine.execSpillDone read s
  | .gateInEdge pin rise edge => Sys2Proof.Machine.execGateInEdge pin rise edge s
  | .intervalEvent iu => Sys2Proof.Machine.execIntervalEvent iu s
  | .freeWindowEnd iu => Sys2Proof.Machine.execFreeWindowEnd iu s
  | .flushTime stream => Sys2Proof.Machine.execFlushTime stream s
  | .digestPeriodic => Sys2Proof.Machine.execDigestPeriodic s
  | .bufferCompletion stream => Sys2Proof.Machine.execBufferCompletion stream s
  | .lossSegment stream => Sys2Proof.Machine.execLossSegment stream s
  | .queueWrite q item last parity => Sys2Proof.Machine.execQueueWrite q item last parity s
  | .packetCommit q item => Sys2Proof.Machine.execPacketCommit q item s
  | .packetAbort q => Sys2Proof.Machine.execPacketAbort q s
  | .queueRead q n => Sys2Proof.Machine.execQueueRead q n s
  | .pop q n => Sys2Proof.Machine.execPop q n s
  | .setMark q => Sys2Proof.Machine.execSetMark q s
  | .rewind q => Sys2Proof.Machine.execRewind q s
  | .release q => Sys2Proof.Machine.execRelease q s
  | .releaseToMark q => Sys2Proof.Machine.execReleaseToMark q s
  | .stalledReadComplete q => Sys2Proof.Machine.execStalledReadComplete q s
  | .readWithdrawn q => Sys2Proof.Machine.execReadWithdrawn q s
  | .bankHandover q => Sys2Proof.Machine.execBankHandover q s
  | .bankDrainDone q => Sys2Proof.Machine.execBankDrainDone q s
  | .data item => Sys2Proof.Machine.execData item s
  | .dataLast item at_ => Sys2Proof.Machine.execDataLast item at_ s
  | .controlAbort => Sys2Proof.Machine.execControlAbort s
  | .controlDiscard => Sys2Proof.Machine.execControlDiscard s
  | .vword => Sys2Proof.Machine.execVword s
  | .lost => Sys2Proof.Machine.execLost s
  | .portProtocolError => Sys2Proof.Machine.execPortProtocolError s
  | .stationTimeout => Sys2Proof.Machine.execStationTimeout s
  | .annotationRoute => Sys2Proof.Machine.execAnnotationRoute s
  | .syncInEdge => Sys2Proof.Machine.execSyncInEdge s
  | .state => Sys2Proof.Machine.execState s
  | .tempHd reading => Sys2Proof.Machine.execTempHd reading s
  | .tempCd0 reading => Sys2Proof.Machine.execTempCd0 reading s
  | .tempCd1 reading => Sys2Proof.Machine.execTempCd1 reading s
  | .opSeconds => Sys2Proof.Machine.execOpSeconds s
  | .alert => Sys2Proof.Machine.execAlert s
  | .ack v => Sys2Proof.Machine.execAck v s
  | .ident => Sys2Proof.Machine.execIdent s
  | .compressorBlock ce slot segs out decodeOk => Sys2Proof.Machine.execCompressorBlock ce slot segs out decodeOk s
  | .knownAnswerTestDone e pass => Sys2Proof.Machine.execKnownAnswerTestDone e pass s
  | .contextSwitchDone e slot ctx ok => Sys2Proof.Machine.execContextSwitchDone e slot ctx ok s
  | .decompressorCorrupt e ref member offset rerun => Sys2Proof.Machine.execDecompressorCorrupt e ref member offset rerun s
  | .uncorrectableError ch off port tagError synd => Sys2Proof.Machine.execUncorrectableError ch off port tagError synd s
  | .dramCommandError ch off port missedRefresh => Sys2Proof.Machine.execDramCommandError ch off port missedRefresh s
  | .correctedError ch off => Sys2Proof.Machine.execCorrectedError ch off s
  | .correctedHour ch => Sys2Proof.Machine.execCorrectedHour ch s
  | .patrolScrub ch off result passEnd => Sys2Proof.Machine.execPatrolScrub ch off result passEnd s
  | .driftTracking ch steps temp => Sys2Proof.Machine.execDriftTracking ch steps temp s
  | .evacuationDone ch => Sys2Proof.Machine.execEvacuationDone ch s
  | .retrainingDone ch temp => Sys2Proof.Machine.execRetrainingDone ch temp s
  | .trainingFailed ch => Sys2Proof.Machine.execTrainingFailed ch s
  | .sweepStepDone ch => Sys2Proof.Machine.execSweepStepDone ch s
  | .selfRefreshEntry ch => Sys2Proof.Machine.execSelfRefreshEntry ch s
  | .channelWake ch steps temp => Sys2Proof.Machine.execChannelWake ch steps temp s
  | .moduleRetired die module => Sys2Proof.Machine.execModuleRetired die module s
  | .targetedSelfTestDone unit results detail => Sys2Proof.Machine.execTargetedSelfTestDone unit results detail s
  | .replacement => Sys2Proof.Machine.execReplacement s
  | .dieDigestCheck die upsets sticky => Sys2Proof.Machine.execDieDigestCheck die upsets sticky s
  | .ledgerRecordCreate => Sys2Proof.Machine.execLedgerRecordCreate s
  | .ledgerFlush fail => Sys2Proof.Machine.execLedgerFlush fail s
  | .ledgerRestored bank => Sys2Proof.Machine.execLedgerRestored bank s
  | .ledgerScrub bad0 bad1 => Sys2Proof.Machine.execLedgerScrub bad0 bad1 s
  | .operatingSecond => Sys2Proof.Machine.execOperatingSecond s
  | .noticeWrite => Sys2Proof.Machine.execNoticeWrite s
  | .beat => Sys2Proof.Machine.execBeat s
  | .unlockLapse => Sys2Proof.Machine.execUnlockLapse s
  | .powerUp => Sys2Proof.Machine.execPowerUp s
  | .blockLockGained port => Sys2Proof.Machine.execBlockLockGained port s
  | .pmeStatusClear => Sys2Proof.Machine.execPmeStatusClear s

end Sys2Proof.Machine
end

