-- ==== Sys2Proof/Safety.lean ====
section
/-!
DEFINITION. The terms that statements about the machine use: which runs are safe, the parts of a state, what leaves a part as
it was, and the canonical form that every step keeps.
-/
namespace Sys2Proof.Safety

open Sys2Proof.Machine

/-- The step from `s` neither faults nor is refused. -/
def Completes (s : State) : Prop := ∃ t, step s = .next t

/-- The command answers a next state, and `P` holds of it. -/
def Does (c : Instr) (s : State) (P : State → Prop) : Prop := ∃ t, exec c s = .next t ∧ P t

/-- Mailbox `m` holds the command `img`, which the device has started and not yet answered, and its cores run. -/
def Running (s : State) (m : Fin 32) (img : MbImage) : Prop :=
  (s.box m).taken = some img ∧ (s.box m).started = true ∧ (s.box m).ready = none ∧ s.power.stopped = false

/-- What waits in mailbox `m` for the command's completion: status OK with these response bytes, or a refusal. -/
def AnswersOk (t : State) (m : Fin 32) (bytes : List Byte) : Prop := (t.box m).ready = some (Response.ok bytes)
def Refuses (t : State) (m : Fin 32) (status detail : Nat) : Prop := (t.box m).ready = some (Response.fail status detail)

def Refused (t : State) (m : Fin 32) : Prop := ∃ r, (t.box m).ready = some r ∧ r.status ≠ 0

/-- The staged definition of one kind and index is now `p`; every other one, the rest of the intent, the committed configuration
and its placement stay (R331). -/
def Staged (s t : State) (kind idx : Nat) (p : List Byte) : Prop :=
  t.weaver.staged.def? kind idx = some p ∧
    (∀ k j, objKey k j ≠ objKey kind idx → t.weaver.staged.def? k j = s.weaver.staged.def? k j) ∧
    t.weaver.staged.lanes = s.weaver.staged.lanes ∧ t.weaver.staged.pods = s.weaver.staged.pods ∧
    t.weaver.committed = s.weaver.committed ∧ t.weaver.place = s.weaver.place ∧ t.weaver.created = s.weaver.created

/-- The 32-bit counter at `a` has gone up by one, or stands at its largest value. -/
def Counted (s t : State) (a : Nat) : Prop := (t.reg a).toNat = min ((s.reg a).toNat + 1) (2 ^ 32 - 1)

/-- Requests may leave the device (R360, R366). -/
def MayIssue (s : State) : Prop := s.pcie.busMaster = true ∧ s.pcie.linkUp = true ∧ s.pcie.d3hot = false

/-- The device is in reset (R433): nothing runs, no object is left, the link is down. Retired units stay, and of the
registers those whose values stand in ledger metadata. -/
def InReset (s t : State) : Prop :=
  t.pwr = 0 ∧ t.time.armed = false ∧ t.weaver.created = [] ∧ t.weaver.staged = Intent.empty ∧
    t.weaver.committed = Intent.empty ∧ t.weaver.retired = s.weaver.retired ∧ t.mbx = MailboxState.init ∧ t.queues = [] ∧
    t.streams = [] ∧ t.pcie.linkUp = false ∧ t.pcie.busMaster = false ∧ t.reg HUB_EPOCH = 0 ∧
    t.reg LG_OP_SECONDS = s.reg LG_OP_SECONDS ∧ t.reg LG_GENERATION = s.reg LG_GENERATION ∧ t.pending = s.pending

/-- A part of the state. `reg` is one register of BAR 0, by address; `fw` is what firmware last wrote to the registers; `box`
is one mailbox and `mbx` the rest of the mailbox state; `chan` is the dynamic state of one memory channel and `sched` its
scheduler. -/
inductive Part where
  | reg (a : Nat) | lane (n : Nat) | stake (n : Nat) | port (n : Nat) | seq (n : Nat) | tout (n : Nat) | ref (n : Nat)
  | cmp (n : Nat) | hist (n : Nat) | image (n : Nat) | ival (n : Nat) | stream (n : Nat) | queue (n : Nat) | ce (n : Nat)
  | de (n : Nat) | chan (n : Nat) | sched (n : Nat) | box (n : Nat)
  | fw | mbx | pcie | time | power | weaver | trig | ledger | station | out | dram | drawn
  deriving DecidableEq, Repr

/-- The part reads in `t` as it does in `s`. DRAM is compared byte by byte, with the set of written pages. -/
def Same (s t : State) : Part → Prop
  | .reg a => t.reg a = s.reg a
  | .lane n => t.lane n = s.lane n
  | .stake n => t.stake n = s.stake n
  | .port n => t.port n = s.port n
  | .seq n => t.seq n = s.seq n
  | .tout n => t.tout n = s.tout n
  | .ref n => t.ref n = s.ref n
  | .cmp n => t.cmp n = s.cmp n
  | .hist n => t.hist n = s.hist n
  | .image n => t.image n = s.image n
  | .ival n => t.ival n = s.ival n
  | .stream n => t.stream n = s.stream n
  | .queue n => t.queue n = s.queue n
  | .ce n => t.ce n = s.ce n
  | .de n => t.de n = s.de n
  | .chan n => t.chan n = s.chan n
  | .sched n => t.sched n = s.sched n
  | .box n => t.box n = s.box n
  | .fw => t.fwRegs = s.fwRegs
  | .mbx => t.mbx.order = s.mbx.order ∧ t.mbx.ringAddr = s.mbx.ringAddr ∧ t.mbx.ringEntries = s.mbx.ringEntries ∧
      t.mbx.ringVector = s.mbx.ringVector ∧ t.mbx.noticesLost = s.mbx.noticesLost
  | .pcie => t.pcie = s.pcie
  | .time => t.time = s.time
  | .power => t.power = s.power
  | .weaver => t.weaver = s.weaver
  | .trig => t.trig = s.trig
  | .ledger => t.ledger = s.ledger
  | .station => t.station = s.station
  | .out => t.out = s.out
  | .dram => (∀ a, t.mem.byte a = s.mem.byte a) ∧ t.mem.written = s.mem.written
  | .drawn => t.drawn = s.drawn

/-- Every part of the state outside `W` is as it was, and so is the queue of commands. -/
def Frame (W : Part → Prop) (s t : State) : Prop := t.pending = s.pending ∧ ∀ p, ¬ W p → Same s t p

/-! ### What each command may change -/

/-- A set of parts. -/
abbrev Parts := Part → Prop

def one (p : Part) : Parts := fun q => q = p
def reg (a : Nat) : Parts := fun q => q = .reg a
def regs (f : Nat → Nat) : Parts := fun q => ∃ n, q = .reg (f n)
def regs2 (f : Nat → Nat → Nat) : Parts := fun q => ∃ n m, q = .reg (f n m)
def regs3 (f : Nat → Nat → Nat → Nat) : Parts := fun q => ∃ n m o, q = .reg (f n m o)
/-- The `len` bytes of registers from address `b`. -/
def block (b len : Nat) : Parts := fun q => ∃ a, q = .reg a ∧ b ≤ a ∧ a < b + len
def blocks (f : Nat → Nat) (len : Nat) : Parts := fun q => ∃ n, block (f n) len q
def registers : Parts := fun q => ∃ a, q = .reg a
def every : Parts := fun _ => True
def lanes : Parts := fun q => ∃ n, q = .lane n
def stakes : Parts := fun q => ∃ n, q = .stake n
def ports : Parts := fun q => ∃ n, q = .port n
def sequencers : Parts := fun q => ∃ n, q = .seq n
def touts : Parts := fun q => ∃ n, q = .tout n
def references : Parts := fun q => ∃ n, q = .ref n
def compares : Parts := fun q => ∃ n, q = .cmp n
def histograms : Parts := fun q => ∃ n, q = .hist n
def images : Parts := fun q => ∃ n, q = .image n
def intervals : Parts := fun q => ∃ n, q = .ival n
def streams : Parts := fun q => ∃ n, q = .stream n
def queues : Parts := fun q => ∃ n, q = .queue n
def compressors : Parts := fun q => ∃ n, q = .ce n
def decompressors : Parts := fun q => ∃ n, q = .de n
def channels : Parts := fun q => ∃ n, q = .chan n
def schedulers : Parts := fun q => ∃ n, q = .sched n
def mailboxes : Parts := fun q => ∃ n, q = .box n
/-- A queue of the hub die with its registers, and what the station port shows of it. -/
def hubQueue (n : Nat) : Parts := fun q =>
  q = .queue n ∨ q = .station ∨ q = .reg (HUB_Q n 0x10) ∨ q = .reg (HUB_Q n 0x14) ∨ q = .reg (HUB_Q n 0x18)
/-- The queue of a stake's packer. -/
def stakeQueues : Parts := fun q => ∃ n, q = .queue (stakeQ n)
def hubQueues : Parts := fun q => ∃ n, hubQueue n q
/-- Posting a notice (R338): queue 2, the sequence number of notices, and the count of lost ones. -/
def notices : Parts := fun q => hubQueue 2 q ∨ q = .reg MB_NTF_NSEQ ∨ q = .mbx

/-- A unit can be lost: its consumers lose it, and with a FATAL loss the device stops (chapter 13). What stays: the host's and
the board's side of the device, and the outputs of reads. -/
def unitLoss : List Parts :=
  [hubQueues, mailboxes, one .mbx, one .pcie, one .time, lanes, stakes, ports, one .trig, sequencers, touts,
   references, compares, histograms, images, intervals, streams, compressors, decompressors, schedulers, one .dram,
   one .weaver, one .ledger, one .fw, one .drawn, registers]

/-- Capture ends: DISARM and what has its effect. -/
def captureEnd : List Parts :=
  [notices, hubQueue 1, stakeQueues, mailboxes, one .pcie, one .time, lanes, ports, one .trig, sequencers, touts,
   compares, histograms, intervals, streams, schedulers, one .weaver, one .ledger, one .drawn, registers]

/-- Capture starts. -/
def captureStart : List Parts :=
  [stakeQueues, mailboxes, one .time, lanes, ports, one .trig, sequencers, touts, compares, histograms, intervals,
   streams, schedulers, one .weaver, one .ledger, registers]

/-- What each command may change. A command whose every effect is refused or absent changes nothing of it. -/
def changes : Instr → List Parts
  | .deviceInfo m => [one (.box m)]
  | .getStatus m => [one (.box m), one .mbx, one .station]
  | .getDigests m => [one (.box m)]
  | .notifyRing m => [one (.box m), one .mbx, reg MB_NTF_CFG, reg MB_NTF_TAIL, reg MB_NTF_HEAD]
  | .create m => [one (.box m), streams, one .weaver]
  | .destroy m => [one (.box m), references, histograms, images, streams, one .dram, one .weaver]
  | .configureLanes m | .configurePods m | .defineSequenceLevels m | .defineSequenceTerms m
  | .defineHistogram m | .defineInterval m | .bindStream m | .setWindow m | .startCompare m =>
    [one (.box m), one .weaver]
  | .commit _ =>
    [notices, hubQueue 1, stakeQueues, mailboxes, one .pcie, one .time, lanes, ports, one .trig, sequencers, touts,
     references, compares, histograms, images, intervals, streams, decompressors, channels, schedulers, one .dram,
     one .weaver, one .ledger, one .fw, one .drawn, registers]
  | .commitRevert m => [one (.box m), one .weaver]
  | .queryPlacement m => [one (.box m), one .pcie, one .drawn]
  | .arm _ => captureStart
  | .armSync m => [one (.box m), one .time, reg STN_SYNC]
  | .disarm _ => captureEnd
  | .forceMark m => [one (.box m), sequencers]
  | .abortStream m =>
    [notices, one (.box m), one .pcie, streams, schedulers, blocks (CE · 0) 0x100, (regs2 fun n m => CE_SLOT n m)]
  | .abortCompareJob m => [hubQueue 1, one (.box m), compares, streams, schedulers, blocks (CU · 0) 0x100]
  | .abortCommand _ => [mailboxes, one .mbx, references, one .dram]
  | .loadReference m =>
    [one (.box m), one .pcie, references, decompressors, schedulers, one .dram, one .ledger, one .drawn,
     blocks (DE · 0) 0x100]
  | .histogramSnapshotSwap m =>
    [one (.box m), one .pcie, histograms, images, schedulers, one .drawn, (regs3 fun n m o => HU_RG n m o)]
  | .histogramSnapshotFetch m => [one (.box m), one .pcie, images, schedulers, one .drawn]
  | .histogramClear m => [one (.box m), histograms]
  | .annotate m => [one (.box m), streams, schedulers]
  | .timeNote m =>
    [notices, hubQueue 3, one (.box m), one .ledger, one .drawn, reg LG_REFUSED, reg LG_STATUS, reg LG_NEXT_SEQ_LO,
     reg (LG_NEXT_SEQ_LO + 4)]
  | .ledgerRead m =>
    [notices, hubQueue 3, one (.box m), one .pcie, one .weaver, one .ledger, one .drawn, reg LG_FLUSHES,
     reg LG_VERIFY_FAIL, reg LG_STATUS]
  | .ledgerClearChallenge m => [one (.box m), one .ledger, one .drawn]
  | .ledgerClear m =>
    [notices, hubQueue 3, one (.box m), one .weaver, one .ledger, one .drawn, reg LG_FLUSHES, reg LG_VERIFY_FAIL,
     reg LG_STATUS, reg LG_GENERATION, reg LG_FIRST_SEQ_LO, reg (LG_FIRST_SEQ_LO + 4), reg LG_NEXT_SEQ_LO,
     reg (LG_NEXT_SEQ_LO + 4), reg LG_REFUSED]
  | .ledgerSetSnapshot m | .ledgerProvisionKey m => [one (.box m), one .ledger]
  | .selftest m =>
    [notices, one (.box m), channels, one .weaver, one .ledger, regs MC_STATUS, (regs2 fun n m => MC_TRN_ERR n m),
     regs MC_TRN_FAIL_BITS, regs MC_STEPDOWNS, reg HUB_GUAR_INGEST, reg HUB_HEALTH]
  | .diagDecompress m => [one (.box m), one .pcie, decompressors, schedulers, one .drawn, blocks (DE · 0) 0x100]
  | .diagUnlock m => [one (.box m), one .ledger, reg HUB_RF_STATE, reg HUB_RF_LAPSE]
  | .diagLock m => [notices, one (.box m), one .weaver, one .ledger, registers]
  | .mapWindow m => [one (.box m), one .pcie]
  | .setPowerState m => [one (.box m), one .drawn, reg PWR_STATE]
  | .fwUpdateBegin m | .fwUpdateCancel m => [one (.box m), one .power]
  | .fwUpdateChunk m => [one (.box m), one .pcie, one .power]
  | .fwUpdateCommit m => [one (.box m), one .power]
  | .fwUpdateDone _ => [notices, one .power, one .ledger, one .drawn]
  | .mailboxDoorbell m _ _ _ =>
    [mailboxes, one .mbx, one .pcie, references, one .dram, one .drawn, reg (MB_IGNORED m), reg (MB_STATE m)]
  | .commandCompletion m _ =>
    [mailboxes, one .mbx, one .pcie, references, one .dram, one .drawn, reg (MB_CMDS m), reg (MB_RESP_MAX m)]
  | .descTail stream _ _ => [notices, one .pcie, one (.stream stream), one .drawn]
  | .cplHead stream _ _ => [one .pcie, one (.stream stream), one .drawn]
  | .notificationConsumerDoorbell _ _ => [one .pcie, one .drawn, reg MB_NTF_HEAD]
  | .registerWrite _ _ _ _ => [mailboxes, one .pcie, one .station, touts, channels, one .drawn, registers]
  | .rcRegisterRead _ _ => [one .out, one .pcie, intervals, compressors, decompressors, one .drawn, registers]
  | .iuResValueLoRead iu =>
    [one .out, one .pcie, intervals, compressors, decompressors, one .drawn, reg (IU iu 0x20), reg (IU iu 0x20 + 4)]
  | .loCounterRead c =>
    [one .out, one .pcie, intervals, compressors, decompressors, one .drawn, reg (loAddr c), reg (loAddr c + 4)]
  | .bar2Read _ _ _ =>
    [notices, hubQueue 1, one .out, one .pcie, references, compares, histograms, images, streams, decompressors,
     schedulers, one .dram, one .weaver, one .ledger, one .drawn, registers]
  | .bar2Write _ _ _ =>
    [one .pcie, schedulers, one .dram, one .ledger, one .drawn, reg PCI_BAR2_UR, reg PCI_BAR2_UR_ADDR_LO,
     reg PCI_BAR2_UR_ADDR_HI, reg PCI_BAR2_WDROP]
  | .windowTableSwap _ => [mailboxes, one .pcie, reg PCI_BAR2_GEN_NEXT, regs PCI_BAR2_GEN]
  | .d3hot => captureEnd
  | .d0 => [one .pcie, one .station, reg PWR_STATE]
  | .busMasterEnableCleared => [mailboxes, one .pcie, references, one .dram, reg PCI_BME_CLEARS]
  | .busMasterEnableSet => [one .pcie, streams]
  | .functionLevelReset =>
    [hubQueues, mailboxes, one .mbx, one .pcie, one .power, one .time, lanes, ports, one .trig, sequencers, touts,
     references, compares, histograms, images, intervals, streams, decompressors, one .dram, one .weaver,
     one .ledger, one .fw, one .drawn, registers]
  | .linkDown =>
    [mailboxes, one .pcie, references, one .dram, one .ledger, reg PCI_BME_CLEARS, reg PCI_LINK, reg PCI_LINK_DOWNS]
  | .linkUp _ _ _ => [one .pcie, one .ledger, reg PCI_LINK]
  | .linkHoldExpiry => captureEnd
  | .linkRetrain _ _ _ => [one .ledger, reg PCI_LINK]
  | .completionTimeout _ => [notices, mailboxes, one .pcie, references, streams, one .dram, one .drawn, reg PCI_CTO]
  | .completionReceived _ _ _ =>
    [notices, mailboxes, one .pcie, references, streams, one .dram, one .drawn, reg PCI_LATE_CPL]
  | .descriptorFetch _ => [one .pcie]
  | .uncorrectableInternalError _ => [one .pcie, one .ledger]
  | .perstNAssert => [every]
  | .startUp _ =>
    [notices, hubQueue 1, stakeQueues, mailboxes, one .pcie, one .power, one .time, lanes, ports, one .trig,
     sequencers, touts, references, compares, histograms, images, intervals, streams, decompressors, channels,
     schedulers, one .dram, one .weaver, one .ledger, one .fw, one .drawn, registers]
  | .laneCalibration _ _ _ =>
    [notices, stakeQueues, one .pcie, lanes, compares, intervals, streams, schedulers, one .weaver, one .ledger,
     registers]
  | .initialTraining ch _ _ _ =>
    [notices, hubQueue 1, stakeQueues, mailboxes, one .pcie, one .time, lanes, ports, one .trig, sequencers, touts,
     references, compares, histograms, images, intervals, streams, decompressors, one (.chan ch), schedulers,
     one .dram, one .weaver, one .ledger, one .fw, one .drawn, registers]
  | .pwrFailNAssert =>
    [notices, hubQueue 3, one .power, one .weaver, one .ledger, one .drawn, reg PWR_FAILS, reg LG_REFUSED,
     reg LG_STATUS, reg LG_NEXT_SEQ_LO, reg (LG_NEXT_SEQ_LO + 4), reg LG_FLUSHES, reg LG_VERIFY_FAIL]
  | .pwrFailNDeassert _ | .brownOut | .thermalTrip _ _ => [every]
  | .thermalRelease _ _ _ => [one .power]
  | .stateTransitionDone => [notices, reg PWR_STATE]
  | .standbyEntry =>
    [notices, hubQueue 3, lanes, ports, histograms, images, streams, compressors, decompressors, channels,
     one .dram, one .weaver, one .ledger, one .drawn, registers]
  | .wake _ _ => [notices, one .power, one .time, lanes, channels, one .ledger, one .fw, one .drawn, registers]
  | .refLost =>
    [notices, one .power, one .time, streams, schedulers, one .ledger, one .drawn, reg CLK_REF_LOSTS,
     reg CLK_STATUS, reg CLK_REF_PPB, reg CLK_EVENTS]
  | .refBad =>
    [notices, one .power, one .time, streams, schedulers, one .ledger, one .drawn, reg CLK_REF_BADS, reg CLK_STATUS,
     reg CLK_EVENTS]
  | .refQualified _ _ => [reg CLK_STATUS, reg CLK_REF_PPB]
  | .refLocked | .holdoverEnd =>
    [notices, one .power, one .time, streams, schedulers, one .ledger, one .drawn, reg CLK_STATUS, reg CLK_EVENTS]
  | .timestampWrap => [one .time, streams, schedulers]
  | .sessionEpochPulse _ => [one .time, ports, touts]
  | .comparatorEdge _ _ _ _ _ _ =>
    [stakeQueues, lanes, one .trig, compares, histograms, intervals, streams, schedulers,
     (regs3 fun n m o => HU_RG n m o), regs HU_OVERFLOW, regs (CU · 0x28), regs (CU · 0x24)]
  | .burstClose n _ _ => [stakeQueues, one (.lane n), streams, schedulers, reg (LN_BURSTS n)]
  | .levelKeepalive n | .rawBlockClose n => [stakeQueues, one (.lane n), streams, schedulers]
  | .lossOfLock n _ => [one (.lane n), one .weaver, one .ledger, reg (LN_EVT n), reg (LN_STATUS n)]
  | .tdcSelftestDone _ _ => unitLoss
  | .dacReadback n _ _ => [stakes, one .weaver, one .ledger, reg (LN_EVT n), regs STK_SPARE, regs LN_STATUS]
  | .dacSweepDone _ _ => unitLoss
  | .calDue _ _ => [notices, regs LN_STATUS]
  | .superframeBeacon ⟨port, _⟩ =>
    [one (.port port), one .trig, compares, intervals, streams, schedulers, reg (PP_LOST_LINK port),
     regs (CU · 0x24), reg (PP_RDEV port), reg (PP_SFN port)]
  | .frameReceived port _ _ =>
    [one (.port port), one .trig, compares, histograms, intervals, streams, schedulers, one .drawn,
     reg (PP_BAD_FRAMES port), regs (CU · 0x24), reg (PP_LOST_LINK port), regs (CU · 0x28),
     (regs3 fun n m o => HU_RG n m o), regs HU_OVERFLOW]
  | .managementBlockReceived port _ _ =>
    [hubQueue 4, one (.port port), compares, intervals, streams, schedulers, one .drawn, reg (PP_LOST_BUDGET port),
     regs (CU · 0x24)]
  | .blockLockLost port =>
    [one (.port port), one .trig, compares, intervals, streams, schedulers, reg (PP_STATUS port),
     reg (PP_LOST_LINK port), regs (CU · 0x24)]
  | .delayRecompute port pos => [one (.port port), one .drawn, reg (PP_DELAY port pos)]
  | .commandBlockSent port _ => [one (.port port)]
  | .podFault port _ => [notices, one (.port port), one .ledger]
  | .slotSwitch port => [one (.port port), regs (PP_SLOT port ·), reg (PP_SWITCH port)]
  | .slotSwitchCancel port _ => [one (.port port), reg (PP_SWITCH port)]
  | .enum port _ =>
    [notices, one (.port port), one .trig, compares, intervals, streams, schedulers, one .weaver, one .ledger,
     one .drawn, regs (CU · 0x24), reg (PP_PRESENT port), reg HUB_HEALTH, reg (PP_STATUS port)]
  | .chainBreak port _ =>
    [notices, one (.port port), one .trig, compares, intervals, streams, schedulers, one .weaver, one .ledger,
     reg (PP_BREAKS port), regs (CU · 0x24), reg (PP_PRESENT port), reg (PP_STATUS port)]
  | .podAdded port _ =>
    [notices, one (.port port), one .trig, compares, intervals, streams, schedulers, one .weaver, one .ledger,
     one .drawn, reg (PP_STATUS port), regs (CU · 0x24), reg (PP_PRESENT port), reg HUB_HEALTH]
  | .configDigestRotation port pos =>
    [notices, one (.port port), compares, intervals, streams, schedulers, one .weaver, one .ledger, one .drawn,
     reg (PP_MISMATCH port), reg HUB_HEALTH, reg (PP_DELAY port pos), regs (CU · 0x24)]
  | .segmentTestStart port _ =>
    [one (.port port), one .trig, compares, intervals, streams, schedulers, one .weaver, one .ledger,
     reg (PP_STATUS port), reg (PP_LOST_LINK port), regs (CU · 0x24)]
  | .segmentTestDone _ _ _ _ => unitLoss
  | .sampleSlot =>
    [stakeQueues, one .time, lanes, ports, one .trig, compares, histograms, intervals, streams, schedulers,
     one .drawn, registers]
  | .durationDeadline _ => [one .trig, registers]
  | .trigInEdge _ _ _ => [one .trig, intervals]
  | .sequencerDecision sq =>
    [hubQueue 1, mailboxes, one .trig, one (.seq sq), touts, compares, histograms, intervals, streams, schedulers,
     one .weaver, one .ledger, one .drawn, registers]
  | .timerExpiry sq i => [one (.seq sq), reg (SQ_TMR_LO sq i), reg (SQ_TMR_HI sq i)]
  | .deadTimeEnd sq => [one (.seq sq), reg (SQ_STATUS sq)]
  | .markWrite _ => [stakeQueues, lanes, streams, schedulers]
  | .trigOutPulseStart pin => [one (.tout pin), reg (HUB_TOUT_COUNT pin)]
  | .trigOutPulseEnd pin => [one (.tout pin), one .fw, reg (HUB_TOUT_CTL pin)]
  | .stepAnchor cu _ => [hubQueue 1, one (.cmp cu), streams, schedulers, one .weaver, blocks (CU · 0) 0x100]
  | .expectedEdgeTimeout cu | .checkLevel cu =>
    [one .trig, one (.cmp cu), streams, schedulers, one .drawn, reg (CU cu 0x18), reg (CU cu 0x24)]
  | .decisionInstant _ _ =>
    [notices, hubQueue 1, one .trig, references, compares, streams, decompressors, schedulers, one .ledger,
     one .drawn, blocks (DE · 0) 0x100, blocks (CU · 0) 0x100]
  | .referenceLost ref _ =>
    [notices, hubQueue 1, one (.ref ref), compares, streams, schedulers, one .ledger, blocks (CU · 0) 0x100]
  | .histValue hu _ => [one (.hist hu), (regs2 fun n m => HU_RG hu n m), reg (HU_PARITY hu)]
  | .sweepColumnEnd ⟨hu, _⟩ => [one (.hist hu), reg (HU_PARITY hu), (regs2 fun n m => HU_RG hu n m)]
  | .deferredSwap hu region => [one (.hist hu), one .drawn, reg (HU_RG hu region 0)]
  | .spillDone ⟨hu, _⟩ =>
    [notices, one (.hist hu), images, schedulers, one .weaver, one .ledger, reg (HU_PARITY hu), reg (HU_IMG_LOST hu),
     reg (HU_SPILLS hu), regs (HU_RG hu · 0), regs (HU_RG hu · 32)]
  | .gateInEdge _ _ _ => [intervals]
  | .intervalEvent iu | .freeWindowEnd iu => [one (.ival iu), streams, schedulers, one .drawn, block (IU iu 0) 0x100]
  | .flushTime _ => [stakeQueues, lanes, streams, schedulers]
  | .digestPeriodic => [streams, schedulers]
  | .bufferCompletion stream =>
    [notices, one .pcie, one (.stream stream), schedulers, blocks (CE · 0) 0x100, (regs2 fun n m => CE_SLOT n m)]
  | .lossSegment stream => [one (.stream stream)]
  | .queueWrite _ _ _ _ | .packetCommit _ _ => [hubQueues, one .mbx, lanes, streams, schedulers, regs STK_PACK_LOST]
  | .packetAbort _ => [hubQueues]
  | .queueRead _ _ | .pop _ _ | .setMark _ | .rewind _ | .release _ | .releaseToMark _ | .stalledReadComplete _ =>
    [queues, one .station, streams, schedulers, regs (HUB_Q · 20)]
  | .readWithdrawn _ => [queues, one .station, streams, schedulers, reg STN_WITHDRAWN]
  | .bankHandover _ | .bankDrainDone _ => [queues, streams]
  | .data _ | .dataLast _ _ =>
    [queues, one .mbx, one .station, lanes, streams, schedulers, reg (HUB_Q 0 16), reg (HUB_Q 0 24),
     reg (HUB_Q 0 20), regs STK_PACK_LOST]
  | .controlAbort => [hubQueue 0]
  | .controlDiscard | .vword => [hubQueue 1]
  | .lost => [one .station]
  | .portProtocolError => [reg STN_ERR]
  | .stationTimeout => [hubQueue 0, reg STN_TIMEOUTS]
  | .annotationRoute => [hubQueue 0, compares, streams, schedulers, one .weaver, reg STN_ERR, reg STN_DISCARDED]
  | .syncInEdge => captureStart
  | .state => [one .out]
  | .tempHd _ | .tempCd0 _ | .tempCd1 _ => [one .out, one .power]
  | .opSeconds | .alert => [one .out]
  | .ack _ => [one .station]
  | .ident => [one .out]
  | .compressorBlock ce _ _ _ _ =>
    [streams, one (.ce ce), schedulers, one .weaver, one .ledger, blocks (CE · 0) 0x100,
     (regs2 fun n m => CE_SLOT n m)]
  | .knownAnswerTestDone _ _ => unitLoss
  | .contextSwitchDone _ slot _ _ =>
    [streams, decompressors, schedulers, one .drawn, blocks (CE · 0) 0x100, regs (CE_SLOT · slot),
     blocks (DE · 0) 0x100]
  | .decompressorCorrupt _ _ _ _ _ =>
    [decompressors, schedulers, one .weaver, one .ledger, one .drawn, blocks (DE · 0) 0x100]
  | .uncorrectableError _ _ _ _ _ | .dramCommandError _ _ _ _ =>
    [notices, hubQueue 1, one .out, one .pcie, references, compares, histograms, images, streams, decompressors,
     schedulers, one .dram, one .weaver, one .ledger, one .drawn, registers]
  | .correctedError ch _ => [one (.chan ch), reg (MC_CE_COUNT ch)]
  | .correctedHour ch => [one (.chan ch), one .ledger]
  | .patrolScrub ch _ _ _ =>
    [notices, hubQueue 1, one .out, one .pcie, references, compares, histograms, images, streams, decompressors,
     one (.chan ch), schedulers, one .dram, one .weaver, one .ledger, one .drawn, registers]
  | .driftTracking _ _ _ =>
    [notices, channels, one .weaver, one .fw, one .drawn, regs MC_STATUS, (regs2 fun n m => MC_TRN_DELAY n m),
     regs MC_TRAIN_TEMP]
  | .evacuationDone ch =>
    [notices, one (.chan ch), one .ledger, reg (MC_STATUS ch), regs (MC_TRN_ERR ch ·), reg (MC_TRN_FAIL_BITS ch),
     reg (MC_STEPDOWNS ch), reg HUB_GUAR_INGEST, reg HUB_HEALTH]
  | .retrainingDone ch _ =>
    [notices, hubQueue 1, one .out, one .pcie, references, compares, histograms, images, streams, decompressors,
     one (.chan ch), schedulers, one .dram, one .weaver, one .ledger, one .fw, one .drawn, registers]
  | .trainingFailed ch =>
    [notices, hubQueue 1, stakeQueues, mailboxes, one .out, one .pcie, one .time, lanes, ports, one .trig,
     sequencers, touts, references, compares, histograms, images, intervals, streams, decompressors, one (.chan ch),
     schedulers, one .dram, one .weaver, one .ledger, one .fw, one .drawn, registers]
  | .sweepStepDone ch =>
    [notices, one (.chan ch), one .dram, one .ledger, one .drawn, reg (MC_TRN_CTL ch), regs (MC_TRN_ERR ch ·),
     reg (MC_TRN_FAIL_BITS ch), reg (MC_STATUS ch), reg (MC_STEPDOWNS ch), reg HUB_GUAR_INGEST, reg HUB_HEALTH]
  | .selfRefreshEntry ch => [reg (MC_STATUS ch), reg (MC_SR_ENTRIES ch)]
  | .channelWake ch _ _ =>
    [notices, hubQueue 1, one .out, one .pcie, references, compares, histograms, images, streams, decompressors,
     one (.chan ch), schedulers, one .dram, one .weaver, one .ledger, one .fw, one .drawn, registers]
  | .moduleRetired _ _ =>
    [notices, hubQueue 1, stakeQueues, mailboxes, one .pcie, one .time, lanes, ports, one .trig, sequencers, touts,
     references, compares, histograms, images, intervals, streams, decompressors, schedulers, one .dram,
     one .weaver, one .ledger, one .fw, one .drawn, registers]
  | .targetedSelfTestDone _ _ _ => unitLoss
  | .replacement =>
    [notices, hubQueue 1, mailboxes, ports, one .trig, sequencers, compares, histograms, images, intervals, streams,
     decompressors, channels, schedulers, one .weaver, one .ledger, one .fw, one .drawn, registers]
  | .dieDigestCheck _ _ _ => [notices, one .weaver, one .ledger, registers]
  | .ledgerRecordCreate =>
    [notices, hubQueue 3, one .ledger, one .drawn, reg LG_REFUSED, reg LG_STATUS, reg LG_NEXT_SEQ_LO,
     reg (LG_NEXT_SEQ_LO + 4)]
  | .ledgerFlush _ =>
    [notices, hubQueue 3, one .weaver, one .ledger, reg LG_FLUSHES, reg LG_VERIFY_FAIL, reg LG_STATUS]
  | .ledgerRestored _ =>
    [notices, hubQueue 3, one .weaver, one .ledger, reg LG_STATUS, reg LG_FLUSHES, reg LG_VERIFY_FAIL]
  | .ledgerScrub _ _ => [one .ledger, reg LG_SCRUB, reg LG_SCRUB_PASSES]
  | .operatingSecond => [one .ledger, reg LG_OP_SECONDS, regs MC_STATUS]
  | .noticeWrite => [hubQueue 2, one .pcie, reg MB_NTF_TAIL, reg MB_NTF_CFG]
  | .beat => [one .pcie, one .ledger, reg PWR_STATE, reg ALIVE]
  | .unlockLapse => [notices, one .weaver, one .ledger, registers]
  | .powerUp => [every]
  | .blockLockGained port => [reg (PP_STATUS port)]
  | .pmeStatusClear => [one .pcie, one .station]

/-- The command may change the part. -/
def MayChange (c : Instr) (p : Part) : Prop := ∃ f ∈ changes c, f p

/-! ### The canonical form -/

/-- The tables of the state are in canonical form: keys rise strictly, and where unlisted entries have a value of their own no
entry holds that value. Equal contents are then equal data. -/
structure Inv (s : State) : Prop where
  regsSorted : Tbl.sorted s.regs = true
  regsLean : Tbl.lean s.regs regDefault = true
  fwSorted : Tbl.sorted s.fwRegs = true
  fwLean : Tbl.lean s.fwRegs regDefault = true
  memory : Memory.wf s.mem = true
  lanes : Tbl.sorted s.lanes = true
  stakes : Tbl.sorted s.stakes = true
  ports : Tbl.sorted s.ports = true
  seqs : Tbl.sorted s.seqs = true
  touts : Tbl.sorted s.touts = true
  refs : Tbl.sorted s.refs = true
  cmps : Tbl.sorted s.cmps = true
  hists : Tbl.sorted s.hists = true
  images : Tbl.sorted s.images = true
  ivals : Tbl.sorted s.ivals = true
  streams : Tbl.sorted s.streams = true
  queues : Tbl.sorted s.queues = true
  ces : Tbl.sorted s.ces = true
  des : Tbl.sorted s.des = true
  scheds : Tbl.sorted s.scheds = true

end Sys2Proof.Safety
end

