-- ==== Sys2Proof/Certificates/Slice0/Obligations.lean ====
section
/-!
DEFINITION. The statements for the provers, from the numbered rules of the spec. Each says for which states and operands its
commands complete and what they leave; what a command leaves alone is said once for all in `EveryCommandFrame`.
-/
open Sys2Proof Sys2Proof.Machine Sys2Proof.Safety

/-! ### The machine as a whole -/

/-- A step takes the command at the front of the queue and runs it with the queue's rest; an empty queue leaves the block idle
(log entry 1). -/
def Obligations.StepRunsFrontCommand : Prop :=
  (∀ (c : Instr) (rest : List Instr) (s : State), step (s.withPending (c :: rest)) = exec c (s.withPending rest)) ∧
  ∀ s : State, s.pending = [] → step s = .next s

/-- A command changes only the parts that `changes` lists for it, and never the queue of waiting commands. -/
def Obligations.EveryCommandFrame : Prop :=
  ∀ (c : Instr) (s t : State), exec c s = .next t → Frame (MayChange c) s t

/-- Every step keeps the canonical form of the register file, of DRAM and of the tables, from every state that has it. -/
def Obligations.StepKeepsInv : Prop :=
  ∀ s t : State, Inv s → step s = .next t → Inv t

/-- After reset the tables are in canonical form. -/
def Obligations.ResetMeetsInv : Prop :=
  Inv State.reset

/-- R12: after reset every register reads the value that its row gives for it, the device is READY and disarmed, and no
command, object, queue item or byte of DRAM is there. Registers for which the spec gives no value stand at the model's choice
(log entry 3). -/
def Obligations.ResetValues : Prop :=
  (∀ a, State.reset.reg a = regDefault a) ∧ State.reset.pwr = 1 ∧ State.reset.time.armed = false ∧ State.reset.pending = [] ∧
    State.reset.epochNo = 0 ∧ State.reset.weaver.created = [] ∧ (∀ n, (State.reset.queue n).items = []) ∧
    (∀ a, memRead State.reset.mem.dram a = 0)

/-! ### Mailboxes (chapter 14) -/

/-- R322: a doorbell on a mailbox whose OWNER is 1, or with a value that is not the header's TAG with zeros above it, is
ignored and counted; host writes to a mailbox whose OWNER is 1 are discarded. -/
def Obligations.DoorbellIgnored : Prop :=
  ∀ (m : Fin 32) (v : Word) (a : WriteAttr) (img : MbImage) (s : State), s.served = true → s.doorbellOk a = true →
    ((s.box m).owner = true ∨ v.setWidth 16 ≠ img.tag ∨ v.toNat / 2 ^ 16 ≠ 0) →
    Does (.mailboxDoorbell m v a img) s fun t =>
      Counted s t (MB_IGNORED m) ∧ (t.box m).taken = (s.box m).taken ∧ (t.box m).owner = (s.box m).owner ∧
        t.mbx.order = s.mbx.order ∧ ((s.box m).owner = true → t.box m = s.box m)

/-- R321 steps 2 and 3: a sound doorbell sets OWNER, and the device holds a copy of the header and of LENGTH bytes of the
payload; a command of class 2 or 3 joins the queue of R326. R323 and R324, the first checks: a mailbox that starts its command
at once refuses an unknown code, a command whose class number is above the mailbox's, and a LENGTH above 4,032. -/
def Obligations.DoorbellsTakenOrRefused : Prop :=
  (∀ (m : Fin 32) (v : Word) (a : WriteAttr) (img : MbImage) (s : State), s.served = true → s.doorbellOk a = true →
     (s.box m).owner = false → v.setWidth 16 = img.tag → v.toNat / 2 ^ 16 = 0 →
     Does (.mailboxDoorbell m v a img) s fun t =>
       (t.box m).owner = true ∧
         (t.box m).taken = some ({ img with payload := (padTo (min 4032 img.length.toNat)
           (img.payload.take 4032 ++ (s.box m).payload.drop (img.payload.take 4032).length)) } : MbImage) ∧
         t.mbx.order = if m.val < 8 then s.mbx.order else s.mbx.order ++ [m.val]) ∧
  (∀ (m : Fin 32) (v : Word) (a : WriteAttr) (img : MbImage) (s : State), s.served = true → s.doorbellOk a = true →
     (s.box m).owner = false → v.setWidth 16 = img.tag → v.toNat / 2 ^ 16 = 0 → (m.val < 8 ∨ s.mbx.order = []) →
     (cmdClass img.code.toNat = none → Does (.mailboxDoorbell m v a img) s fun t => Refuses t m 0x01 0) ∧
     (∀ c, cmdClass img.code.toNat = some c → boxClass m < c →
       Does (.mailboxDoorbell m v a img) s fun t => Refuses t m 0x02 (boxClass m)) ∧
     (∀ c, cmdClass img.code.toNat = some c → c ≤ boxClass m → 4032 < img.length.toNat →
       Does (.mailboxDoorbell m v a img) s fun t => Refuses t m 0x03 0xFFFF))

/-- R321 steps 4 and 5: the response payload, the device fields of the header and a clear OWNER; bytes beyond RLENGTH stay;
with MSIX set the vector follows. R362: a completion waits while writes to the host that its command may have made have not
left. -/
def Obligations.CommandCompletes : Prop :=
  ∀ (m : Fin 32) (us : Nat) (s : State) (r : Response) (img : MbImage), s.served = true → (s.box m).ready = some r →
    (s.box m).taken = some img →
    (s.writesHeld img = true → exec (.commandCompletion m us) s = .next s) ∧
    (s.writesHeld img = false → Does (.commandCompletion m us) s fun t =>
      (t.box m).owner = false ∧ (t.box m).taken = none ∧ (t.box m).status = r.status ∧ (t.box m).detail = r.detail ∧
        (t.box m).rtag = img.tag ∧ (t.box m).rlength = BitVec.ofNat 32 r.bytes.length ∧
        (t.box m).payload = r.bytes ++ (s.box m).payload.drop r.bytes.length ∧
        (t.box m).epoch = s.reg HUB_EPOCH ∧ Counted s t (MB_CMDS m) ∧
        (bit img.flags 0 = true → s.pcie.vectorMasked img.vector.toNat = false → MayIssue s →
          t.pcie.sent = s.pcie.sent ++ [.msix img.vector.toNat]))

/-- DEVICE_INFO, GET_STATUS and GET_DIGESTS answer the fields of Table 14.8 in their order. GET_STATUS with HANDLE 0 also
clears the count of lost notices (R339) and the event bits of STN_ALERT (R408); on a stream it clears neither. -/
def Obligations.InquiryCommands : Prop :=
  (∀ (m : Fin 32) (s : State) (img : MbImage), Running s m img → img.code = 0x0001 →
    Does (.deviceInfo m) s fun t => AnswersOk t m
      (leBytes 1 s.power.board.ordering.code ++ leBytes 1 (s.power.board.ordering == .zs192x).toNat ++ [0x21] ++
        leBytes 1 (if s.power.board.ordering = .zs096c then 1 else 3) ++ leBytes 4 s.power.fw.version.toNat ++
        leBytes 8 s.power.board.serial.toNat ++ leBytes 1 s.power.board.channelGib ++ leBytes 1 s.healthyChans.length ++ [0, 0] ++
        leBytes 4 s.ledger.rollback.toNat ++ leBytes 4 (s.reg LG_OP_SECONDS).toNat ++ leBytes 4 (s.reg LG_POWER_CYCLES).toNat ++
        leBytes 4 Config.directoryVersion.toNat ++ [0, 0, 0, 0])) ∧
  (∀ (m : Fin 32) (s : State) (img : MbImage), Running s m img → img.code = 0x0002 → img.handle = 0 →
    Does (.getStatus m) s fun t => AnswersOk t m
        (leBytes 1 s.healthState ++ leBytes 1 s.time.armed.toNat ++ leBytes 1 s.tb ++ [0] ++ leBytes 4 (s.reg LG_OP_SECONDS).toNat ++
          leBytes 8 s.time.tsHd.toNat ++ leBytes 8 s.time.armTime ++ leBytes 8 (s.ingestLimit * 10 ^ 9) ++
          leBytes 2 (min 65535 s.weaver.retired.length) ++ leBytes 2 (min 65535 s.weaver.shed.length) ++
          leBytes 4 (min (2 ^ 32 - 1) s.mbx.noticesLost) ++
          ((List.range 16).flatMap fun c => leBytes 1 (s.mcState c + 8 * s.chanRate c)) ++
          ((List.range 24).flatMap fun k =>
            leBytes 1 (sumOn ((List.range 8).filter fun b => s.lnRetired (8 * k + b)) fun b => 2 ^ b)) ++
          s.weaver.shed.flatMap fun k => leBytes 4 (s.handleOfKey k).toNat) ∧
      t.mbx.noticesLost = 0 ∧ t.station.retiredEvt = false ∧ t.station.spareEvt = false) ∧
  (∀ (m : Fin 32) (s : State) (img : MbImage) (i : Nat), Running s m img → img.code = 0x0002 → img.handle ≠ 0 → i = hIdx img.handle →
    Does (.getStatus m) s fun t => AnswersOk t m
        (leBytes 8 (s.stream i).segSeq ++ leBytes 8 (s.stream i).nextDeliver ++
          leBytes 8 (match s.weaver.place.streams.find? (·.obj == i) with | some p => p.perChannel * p.stripe.length | none => 0) ++
          leBytes 8 (8 * (sumOn (s.stream i).ring (fun g => g.words.length) + (s.stream i).open_.length)) ++
          leBytes 8 (s.stream i).wordsLost ++ leBytes 4 (s.stream i).descTaken ++ leBytes 4 (s.stream i).cplWritten ++
          leBytes 4 ((s.isShed (objKey 1 i)).toNat + 2 * ((s.stream i).windows.any fun w => w.2.isNone).toNat +
            4 * (s.stream i).memberOpen.toNat + 8 * (s.stream i).dmaFailed.toNat) ++ [0, 0, 0, 0]) ∧
      t.mbx.noticesLost = s.mbx.noticesLost ∧ t.station = s.station) ∧
  (∀ (m : Fin 32) (s : State) (img : MbImage), Running s m img → img.code = 0x0003 →
    Does (.getDigests m) s fun t => AnswersOk t m
      (leBytes 4 (s.reg HUB_EPOCH).toNat ++ leBytes 4 (s.regF HUB_HEALTH 0 2) ++ s.digestRegs HUB_CDIG ++ s.digestRegs HUB_PDIG ++
        padTo 32 s.weaver.healthDig ++
        ((List.range 3).flatMap fun d => s.digestRegs (HUB_DDIG_EXP d) ++ s.digestRegs (HUB_DDIG_RPT d) ++
          leBytes 4 (Tbl.getD s.weaver.digSecs d 0) ++ [0, 0, 0, 0]) ++
        (List.range 16).flatMap fun k => leBytes 4 (s.reg (PP_MISMATCH k)).toNat))

/-- NOTIFY_RING binds a ring, or with address 0 unbinds it (R337): writing restarts at entry 0 with PHASE 1. The consumer
doorbell of the notification ring stores the host's count (R337); a write that Table 15.12 drops does not. A notice is written
while the ring is bound, requests may leave, cores run, the count shows the next entry free and queue 2 holds an unread packet
(R337): its words with PHASE, padded to 64 bytes, go to the entry's place, the vector follows, the count moves on, PHASE turns
at the ring's end, and the packet leaves queue 2. -/
def Obligations.NotificationRing : Prop :=
  (∀ (m : Fin 32) (s : State) (img : MbImage), Running s m img → img.code = 0x0004 →
     Does (.notifyRing m) s fun t => AnswersOk t m [] ∧
       t.mbx.ringAddr = getLe img.payload 0 8 ∧ t.mbx.ringEntries = (if getLe img.payload 0 8 = 0 then 0 else getLe img.payload 8 4) ∧
       t.mbx.ringVector = (if getLe img.payload 0 8 ≠ 0 ∧ getLe img.payload 0x0E 1 % 2 = 1 then some (getLe img.payload 0x0C 2)
         else none) ∧
       t.regBit MB_NTF_CFG 0 = decide (getLe img.payload 0 8 ≠ 0) ∧
       (getLe img.payload 0 8 ≠ 0 → t.regBit MB_NTF_CFG 1 = true ∧ t.reg MB_NTF_TAIL = 0 ∧ t.reg MB_NTF_HEAD = 0)) ∧
  ((∀ (v : Word) (a : WriteAttr) (s : State), s.doorbellOk a = true →
     exec (.notificationConsumerDoorbell v a) s = .next (s.setReg MB_NTF_HEAD v)) ∧
   ∀ (v : Word) (a : WriteAttr) (s : State), s.doorbellOk a = false →
     Does (.notificationConsumerDoorbell v a) s fun t => t.reg MB_NTF_HEAD = s.reg MB_NTF_HEAD) ∧
  ((∀ (s : State) (entry : List Byte) (d : QueueDyn), d = s.queue 2 → s.regBit MB_NTF_CFG 0 = true → MayIssue s →
     s.served = true → 0 < s.mbx.ringEntries → (s.reg MB_NTF_TAIL - s.reg MB_NTF_HEAD).toNat < s.mbx.ringEntries →
     0 < d.pkts (qKind 2) → d.depth ≠ 0 →
     entry = entryBytes (((d.items.drop d.read).take (d.readCount (qKind 2) 8)).map (·.word)) (s.regBit MB_NTF_CFG 1) →
     Does .noticeWrite s fun t =>
       t.reg MB_NTF_TAIL = s.reg MB_NTF_TAIL + 1 ∧ t.reg MB_NTF_HEAD = s.reg MB_NTF_HEAD ∧
         (t.queue 2).items = d.items.drop (d.read + d.readCount (qKind 2) 8) ∧
         t.pcie.sent = s.pcie.sent ++
           splitWrite s.pcie.maxPayload false entry.length
             (s.mbx.ringAddr + 64 * ((s.reg MB_NTF_TAIL).toNat % s.mbx.ringEntries)) entry ++
           (match s.mbx.ringVector with
             | some v => if s.pcie.vectorMasked v then [] else [.msix v]
             | none => []) ∧
         t.regBit MB_NTF_CFG 1 =
           (if (s.reg MB_NTF_TAIL + 1).toNat % s.mbx.ringEntries = 0 then !s.regBit MB_NTF_CFG 1 else s.regBit MB_NTF_CFG 1)) ∧
   ∀ s : State, (s.regBit MB_NTF_CFG 0 = false ∨ ¬ MayIssue s ∨ s.served = false ∨
       s.mbx.ringEntries ≤ (s.reg MB_NTF_TAIL - s.reg MB_NTF_HEAD).toNat ∨ (s.queue 2).pkts (qKind 2) = 0) →
     exec .noticeWrite s = .next s)

/-! ### Objects, intent, configuration (chapters 9 and 13) -/

/-- CREATE (R203): the lowest free index of the type, with its generation in the handle; when every index of the type is
taken, NO_RESOURCE and nothing is created. DESTROY (R204): BUSY while another object of the staged intent names it; an object
that the committed configuration uses waits for the next admitted COMMIT; any other ends at once and its index takes its next
generation. -/
def Obligations.ObjectCommands : Prop :=
  (∀ (m : Fin 32) (s : State) (img : MbImage), Running s m img → img.code = 0x0010 →
     (lowestFree (s.inUse (getLe img.payload 0 1)) 0 < typeCount (getLe img.payload 0 1) →
       ∀ idx, idx = lowestFree (s.inUse (getLe img.payload 0 1)) 0 →
       Does (.create m) s fun t =>
         AnswersOk t m (leBytes 4 (s.handleOf (getLe img.payload 0 1) idx).toNat) ∧
         Tbl.find? t.weaver.created (objKey (getLe img.payload 0 1) idx) = some false ∧
         (∀ k, k ≠ objKey (getLe img.payload 0 1) idx → Tbl.find? t.weaver.created k = Tbl.find? s.weaver.created k) ∧
         t.weaver.gens = s.weaver.gens ∧ t.weaver.staged = s.weaver.staged ∧
         (getLe img.payload 0 1 = 1 → t.stream idx = StreamDyn.init)) ∧
     (typeCount (getLe img.payload 0 1) ≤ lowestFree (s.inUse (getLe img.payload 0 1)) 0 →
       Does (.create m) s fun t => t.weaver = s.weaver ∧ t.streams = s.streams ∧
         (t.box m).ready = some (Refuse.response
           { status := 0x08, code := 0, resource := 0x0A, type := getLe img.payload 0 1, unit := 0, handle := 0
             demand := (s.inUse (getLe img.payload 0 1)).length + 1, limit := typeCount (getLe img.payload 0 1) }))) ∧
  (∀ (m : Fin 32) (s : State) (img : MbImage), Running s m img → img.code = 0x0011 →
     ((∃ k ∈ s.weaver.staged.used, k ≠ hKey img.handle ∧ hKey img.handle ∈ s.weaver.staged.names k) →
       Does (.destroy m) s fun t => Refuses t m 0x0B 0 ∧ t.weaver = s.weaver) ∧
     ((∀ k ∈ s.weaver.staged.used, k ≠ hKey img.handle → hKey img.handle ∉ s.weaver.staged.names k) →
       hKey img.handle ∈ s.weaver.committed.used →
       Does (.destroy m) s fun t => AnswersOk t m [] ∧ Tbl.find? t.weaver.created (hKey img.handle) = some true ∧
         t.weaver.committed = s.weaver.committed ∧ t.weaver.gens = s.weaver.gens) ∧
     ((∀ k ∈ s.weaver.staged.used, k ≠ hKey img.handle → hKey img.handle ∉ s.weaver.staged.names k) →
       hKey img.handle ∉ s.weaver.committed.used →
       Does (.destroy m) s fun t => AnswersOk t m [] ∧ Tbl.find? t.weaver.created (hKey img.handle) = none ∧
         t.gen (hKey img.handle) = nextGen (s.gen (hKey img.handle)) ∧ t.weaver.committed = s.weaver.committed))

/-- CONFIGURE_LANES (R331): each named lane takes its last entry, the others stay; an entry whose lane is absent or retired,
or whose thresholds are too close (R38), refuses the whole command. CONFIGURE_PODS (R331): each named position takes its last
entry, which sets it or takes it out of the intent; a port that is absent refuses the whole command. -/
def Obligations.InputConfiguration : Prop :=
  (∀ (m : Fin 32) (s : State) (img : MbImage), Running s m img → img.code = 0x0020 →
     ((∀ k < cfgLaneN img.payload, s.laneAbsent (getLe img.payload (cfgLaneOff k) 2) = false ∧
         s.lnRetired (getLe img.payload (cfgLaneOff k) 2) = false ∧ separationOk img.payload (cfgLaneOff k) = true) →
       Does (.configureLanes m) s fun t => AnswersOk t m [] ∧
         (∀ n, Tbl.find? t.weaver.staged.lanes n =
           match ((List.range (cfgLaneN img.payload)).filter fun k => getLe img.payload (cfgLaneOff k) 2 = n).getLast? with
           | some k => some (laneEntry img.payload (cfgLaneOff k))
           | none => Tbl.find? s.weaver.staged.lanes n) ∧
         t.weaver.staged.pods = s.weaver.staged.pods ∧ t.weaver.staged.defs = s.weaver.staged.defs ∧
         t.weaver.committed = s.weaver.committed) ∧
     ((∃ k < cfgLaneN img.payload, s.laneAbsent (getLe img.payload (cfgLaneOff k) 2) = true ∨
         s.lnRetired (getLe img.payload (cfgLaneOff k) 2) = true ∨ separationOk img.payload (cfgLaneOff k) = false) →
       Does (.configureLanes m) s fun t => t.weaver = s.weaver ∧ Refused t m)) ∧
  (∀ (m : Fin 32) (s : State) (img : MbImage), Running s m img → img.code = 0x0021 →
     ((∀ k < cfgPodN img.payload, s.portAbsent (getLe img.payload (cfgPodOff k) 1) = false) →
       Does (.configurePods m) s fun t => AnswersOk t m [] ∧
         (∀ n, Tbl.find? t.weaver.staged.pods n =
           match ((List.range (cfgPodN img.payload)).filter fun k =>
               podIndex (getLe img.payload (cfgPodOff k) 1) (getLe img.payload (cfgPodOff k + 1) 1) = n).getLast? with
           | some k =>
             if getLe img.payload (cfgPodOff k + 2) 1 % 2 = 1 then
               some ({ grant := getLe img.payload (cfgPodOff k + 8) 8
                       serial := BitVec.ofNat 48 (getLe img.payload (cfgPodOff k + 0x10) 6)
                       image := slice img.payload (cfgPodOff k + 0x18) 1024 } : PodCfg)
             else none
           | none => Tbl.find? s.weaver.staged.pods n) ∧
         t.weaver.staged.lanes = s.weaver.staged.lanes ∧ t.weaver.staged.defs = s.weaver.staged.defs) ∧
     ((∃ k < cfgPodN img.payload, s.portAbsent (getLe img.payload (cfgPodOff k) 1) = true) →
       Does (.configurePods m) s fun t => t.weaver = s.weaver ∧ Refused t m))

/-- The defining commands stage their payload as the definition of the object that HANDLE names, in place of the one it had
(R331): with FORMAT 0 BIND_STREAM stores no other compression setting (R247). A definition that names a unit the part does not
have, or that is out of service, stages nothing (R323, R331). -/
def Obligations.DefinitionCommands : Prop :=
  (∀ (m : Fin 32) (s : State) (img : MbImage), Running s m img →
     (img.code = 0x0022 → getLe img.payload 0 1 = 0 →
       Does (.defineSequenceLevels m) s fun t => AnswersOk t m [] ∧ Staged s t 2 (hIdx img.handle) (padTo 1416 img.payload)) ∧
     (img.code = 0x0022 → getLe img.payload 0 1 = 1 →
       (∀ i < qTermN img.payload, s.termAbsent (qTerm img.payload i) = false) →
       Does (.defineSequenceTerms m) s fun t => AnswersOk t m [] ∧ Staged s t 7 (hIdx img.handle) img.payload) ∧
     (img.code = 0x0023 → s.weaveAbsent (hWeave img.payload) = false →
       (∀ h, s.weaver.place.histPlace (hIdx img.handle) = some h → s.isRetired (uHu h.hu) = false) →
       Does (.defineHistogram m) s fun t => AnswersOk t m (leBytes 4 (regionWords img.payload)) ∧
         Staged s t 4 (hIdx img.handle) (padTo 48 img.payload)) ∧
     (img.code = 0x0024 → s.weaveAbsent (iWeave img.payload) = false →
       Does (.defineInterval m) s fun t => AnswersOk t m [] ∧ Staged s t 5 (hIdx img.handle) (padTo 48 img.payload)) ∧
     (img.code = 0x0025 →
       (∀ r ∈ s.laneRefusals (hIdx img.handle) img.payload ++ s.podRefusals (hIdx img.handle) img.payload, r = none) →
       Does (.bindStream m) s fun t => AnswersOk t m [] ∧ Staged s t 1 (hIdx img.handle)
         (if bFormat img.payload = 0 then img.payload.take 4 ++ leBytes 4 0 ++ img.payload.drop 8 else img.payload)) ∧
     (img.code = 0x0026 →
       Does (.setWindow m) s fun t => AnswersOk t m [] ∧ Staged s t 8 (hIdx img.handle) img.payload) ∧
     (img.code = 0x0027 → s.weaveAbsent (cWeave img.payload) = false →
       Does (.startCompare m) s fun t => AnswersOk t m [] ∧ Staged s t 6 (hIdx img.handle) (padTo 48 img.payload))) ∧
  (∀ (m : Fin 32) (s : State) (img : MbImage), Running s m img →
     (img.code = 0x0022 → getLe img.payload 0 1 = 1 → (∃ i < qTermN img.payload, s.termAbsent (qTerm img.payload i) = true) →
       Does (.defineSequenceTerms m) s fun t => Refused t m ∧ t.weaver = s.weaver) ∧
     (img.code = 0x0023 → s.weaveAbsent (hWeave img.payload) = true →
       Does (.defineHistogram m) s fun t => Refuses t m 0x06 4 ∧ t.weaver = s.weaver) ∧
     (img.code = 0x0024 → s.weaveAbsent (iWeave img.payload) = true → srcOnWeave (iSrc img.payload % 2 ^ 16) = true →
       Does (.defineInterval m) s fun t => Refuses t m 0x06 0x0E ∧ t.weaver = s.weaver) ∧
     (img.code = 0x0025 →
       (∃ r ∈ s.laneRefusals (hIdx img.handle) img.payload ++ s.podRefusals (hIdx img.handle) img.payload, r ≠ none) →
       Does (.bindStream m) s fun t => Refused t m ∧ t.weaver = s.weaver) ∧
     (img.code = 0x0027 → s.weaveAbsent (cWeave img.payload) = true →
       Does (.startCompare m) s fun t => Refuses t m 0x06 4 ∧ t.weaver = s.weaver))

/-- COMMIT and its REVERT (R204, R297, R299, R334). While diagnostic access is unlocked both are BUSY. A COMMIT whose intent
passes the checks and the placement makes that intent the committed configuration under the next epoch number, leaves the
staged one, and answers R334's response; REVERT makes the staged intent the committed configuration, and no DESTROY waits any
longer. QUERY_PLACEMENT (R302, R334): its report goes to the host (what the report leaves open, log entry 42, is a free
value); a buffer below REQUIRED is INVALID_FIELD with REQUIRED, and nothing is written. -/
def Obligations.CommitCommands : Prop :=
  (∀ (m : Fin 32) (s : State) (img : MbImage), Running s m img → img.code = 0x0030 →
     (commitRevert img.payload = false → s.unlocked = true →
       Does (.commit m) s fun t => Refuses t m 0x0B 0 ∧ t.weaver = s.weaver) ∧
     (commitRevert img.payload = false → s.unlocked = false →
       ∀ it pl, it = ({ s.weaver.staged.effective with constraints := commitRecords img.payload } : Intent) →
       ∀ c, c = ({ it := it, shed := [], keep := Placement.empty, strict := true } : PlaceCtx) → s.checkIntent it = none →
       (∀ qs, (s.modWeaver fun w => { w with egress := s.linkEgress }).placeSeqs c = .ok qs → checkHistRefs it qs = none) →
       (s.modWeaver fun w => { w with egress := s.linkEgress }).placeAll c = .ok pl →
       Does (.commit m) s fun t => t.weaver.committed = it ∧ t.weaver.place = pl ∧ t.weaver.shed = [] ∧
         t.weaver.staged = s.weaver.staged ∧ t.time.newEpoch = true ∧
         t.reg HUB_EPOCH = (if s.reg HUB_EPOCH = 0xFFFFFFFF then 1 else s.reg HUB_EPOCH + 1) ∧
         AnswersOk t m (leBytes 4 (t.reg HUB_EPOCH).toNat ++ leBytes 4 pl.objects ++ t.digestRegs HUB_CDIG ++
           t.digestRegs HUB_PDIG ++ padTo 32 s.healthDigest ++ leBytes 8 (if t.time.armed then t.now else 0))) ∧
     (commitRevert img.payload = true → s.unlocked = true →
       Does (.commitRevert m) s fun t => Refuses t m 0x0B 0 ∧ t.weaver = s.weaver) ∧
     (commitRevert img.payload = true → s.unlocked = false →
       Does (.commitRevert m) s fun t => AnswersOk t m [] ∧ t.weaver.staged = s.weaver.committed ∧
         t.weaver.committed = s.weaver.committed ∧
         (∀ e ∈ t.weaver.created, e.2 = false) ∧ t.weaver.created.keys = s.weaver.created.keys)) ∧
  (∀ (m : Fin 32) (s : State) (img : MbImage), Running s m img → img.code = 0x0031 →
     ∀ report : List Byte, report = (s.draw 8).2.placementReport (s.draw 8).1.toNat →
       (report.length ≤ getLe img.payload 8 4 →
         Does (.queryPlacement m) s fun t => AnswersOk t m (leBytes 4 report.length ++ leBytes 4 report.length) ∧
           t.weaver = s.weaver ∧
           (MayIssue s → t.pcie.sent = s.pcie.sent ++
             splitWrite s.pcie.maxPayload s.pcie.relaxedOrdering report.length (getLe img.payload 0 8) report)) ∧
       (getLe img.payload 8 4 < report.length →
         Does (.queryPlacement m) s fun t => t.pcie = s.pcie ∧ t.weaver = s.weaver ∧ (t.box m).ready =
           some { status := 0x04, detail := 8, bytes := leBytes 4 report.length ++ leBytes 4 0 }))

/-! ### Sessions and triggers (chapters 4 and 5) -/

/-- ARM's refusals, in order: NO_CONFIG at epoch 0, BUSY while armed, waiting, unlocked or with a lane under calibration
(R50), NOT_READY outside READY. A refused ARM changes nothing (R323, R335). ARM starts the session at the present instant, and
the first one after a COMMIT at timestamp 0 (R8); the device is in RUN. With SYNC it waits: STN_SYNC shows ARMED, and the
response holds all ones (R404). An edge on SYNC_IN starts the session of the ARM that waits, with SYNC_PRELOAD in the counters
(R404); any other edge is counted, up to 65,535. -/
def Obligations.ArmCommands : Prop :=
  (∀ (m : Fin 32) (s : State) (img : MbImage) (c : Instr), Running s m img → img.code = 0x0040 →
     (c = .arm m ∧ getLe img.payload 0 1 % 2 = 0 ∨ c = .armSync m ∧ getLe img.payload 0 1 % 2 = 1) →
     (s.reg HUB_EPOCH = 0 → Does c s fun t => Refuses t m 0x0D 0 ∧ t.time = s.time) ∧
     (s.reg HUB_EPOCH ≠ 0 → (s.time.armed = true ∨ s.time.syncWait ≠ none ∨ s.unlocked = true ∨
         s.weaver.calibrating ≠ []) →
       Does c s fun t => Refuses t m 0x0B 0 ∧ t.time = s.time) ∧
     (s.reg HUB_EPOCH ≠ 0 → s.time.armed = false → s.time.syncWait = none → s.unlocked = false →
       s.weaver.calibrating = [] → s.pwr ≠ 1 →
       Does c s fun t => Refuses t m 0x0C 0 ∧ t.time = s.time)) ∧
  (∀ (m : Fin 32) (s : State) (img : MbImage), Running s m img → img.code = 0x0040 →
     s.reg HUB_EPOCH ≠ 0 → s.time.armed = false → s.time.syncWait = none → s.unlocked = false →
     s.weaver.calibrating = [] → s.pwr = 1 →
     (getLe img.payload 0 1 % 2 = 0 →
       Does (.arm m) s fun t => t.time.armed = true ∧ t.time.newEpoch = false ∧ t.time.syncWait = none ∧ t.pwr = 2 ∧
         t.time.tsHd = (if s.time.newEpoch then 0 else s.time.tsHd) ∧ t.time.armTime = t.now ∧
         AnswersOk t m (leBytes 8 t.time.armTime ++ leBytes 4 t.time.tsEpoch ++ leBytes 4 0)) ∧
     (getLe img.payload 0 1 % 2 = 1 →
       Does (.armSync m) s fun t => t.time.syncWait = some m.val ∧ t.time.armed = false ∧ t.time.tsHd = s.time.tsHd ∧
         t.regBit STN_SYNC 16 = true ∧ t.pwr = 1 ∧ AnswersOk t m (leBytes 8 (2 ^ 64 - 1) ++ leBytes 8 0))) ∧
  ((∀ (s : State) (m : Nat), s.time.syncWait = some m → s.pwr = 1 →
     Does .syncInEdge s fun t => t.time.armed = true ∧ t.time.syncWait = none ∧ t.pwr = 2 ∧
       t.time.tsHd = BitVec.ofNat 64 s.power.board.syncPreload ∧ t.time.tsCd0 = t.time.tsHd ∧ t.time.tsCd1 = t.time.tsHd ∧
       t.regBit STN_SYNC 16 = false) ∧
   ∀ s : State, s.time.syncWait = none → s.clocked = true →
     Does .syncInEdge s fun t => t.regF STN_SYNC 0 16 = min (s.regF STN_SYNC 0 16 + 1) 65535 ∧ t.time = s.time ∧
       t.regBit STN_SYNC 16 = s.regBit STN_SYNC 16)

/-- DISARM ends the session and answers its end (R136); while disarmed it only takes back an ARM that waits, and answers 0.
FORCE_MARK (R127): NOT_READY for a sequence that is not placed or is shed, and while disarmed; otherwise its request waits,
for the slot in progress, until the sequencer decides that slot. -/
def Obligations.DisarmAndForceMark : Prop :=
  (∀ (m : Fin 32) (s : State) (img : MbImage), Running s m img → img.code = 0x0041 →
     (s.time.armed = true →
       Does (.disarm m) s fun t => t.time.armed = false ∧ t.pwr = 1 ∧ AnswersOk t m (leBytes 8 s.now) ∧ t.now = s.now) ∧
     (s.time.armed = false →
       Does (.disarm m) s fun t => t.time.armed = false ∧ t.time.syncWait = none ∧ t.regBit STN_SYNC 16 = false ∧ t.pwr = s.pwr ∧
         AnswersOk t m (leBytes 8 0))) ∧
  (∀ (m : Fin 32) (s : State) (img : MbImage), Running s m img → img.code = 0x0042 →
     ((s.weaver.place.seqSq (hIdx img.handle) = none ∨ s.time.armed = false ∨ s.isShed (objKey 2 (hIdx img.handle)) = true) →
       Does (.forceMark m) s fun t => Refuses t m 0x0C 0 ∧ t.seqs = s.seqs) ∧
     (∀ q, s.weaver.place.seqSq (hIdx img.handle) = some q → s.time.armed = true → s.isShed (objKey 2 (hIdx img.handle)) = false →
       (∀ f ∈ (s.seq q).forced, f.2.2 ≠ m.val) →
       Does (.forceMark m) s fun t =>
         (t.seq q).forced = (s.seq q).forced ++ [(s.slot, BitVec.ofNat 8 (getLe img.payload 0 1), m.val)] ∧
           (t.box m).ready = none ∧ ∀ k, k ≠ q → t.seq k = s.seq k))

/-- ABORT (R335) of a stream empties its ring, and of a compare job ends its running step: RESULT 0. Where nothing runs,
RESULT 2 and nothing changes. ABORT of a command (R335): before its commit point it ends with CANCELLED, RESULT 0; past it, or
answered, RESULT 1; an idle mailbox is RESULT 2. COMMIT, LEDGER_CLEAR and FW_UPDATE_COMMIT have their commit point after their
start (log entry 82). -/
def Obligations.AbortCommands : Prop :=
  (∀ (m : Fin 32) (s : State) (img : MbImage), Running s m img → img.code = 0x0043 →
     (hType img.handle = 1 → s.hasStream (hIdx img.handle) = true →
       Does (.abortStream m) s fun t => AnswersOk t m (leBytes 4 0) ∧ (t.stream (hIdx img.handle)).ring = [] ∧
         ∀ i, i ≠ hIdx img.handle → t.stream i = s.stream i) ∧
     (hType img.handle = 1 → s.hasStream (hIdx img.handle) = false →
       Does (.abortStream m) s fun t => AnswersOk t m (leBytes 4 2) ∧ t.streams = s.streams ∧ t.pcie = s.pcie) ∧
     (∀ cu, hType img.handle = 6 → s.weaver.place.cmpCu (hIdx img.handle) = some cu → (s.cmp cu).step ≠ none →
       Does (.abortCompareJob m) s fun t => AnswersOk t m (leBytes 4 0) ∧ (t.cmp cu).step = none ∧
         ∀ k, k ≠ cu → t.cmp k = s.cmp k) ∧
     (hType img.handle = 6 → (∀ cu, s.weaver.place.cmpCu (hIdx img.handle) = some cu → (s.cmp cu).step = none) →
       Does (.abortCompareJob m) s fun t => AnswersOk t m (leBytes 4 2) ∧ t.cmps = s.cmps)) ∧
  (∀ (m : Fin 32) (s : State) (img : MbImage), Running s m img → img.code = 0x0043 → img.handle = 0 →
     ((s.box (getLe img.payload 0 1)).taken = none →
       Does (.abortCommand m) s fun t => AnswersOk t m (leBytes 4 2) ∧ t.mbx.order = s.mbx.order) ∧
     (∀ c, (s.box (getLe img.payload 0 1)).taken = some c → (s.box (getLe img.payload 0 1)).ready = none →
       ((s.box (getLe img.payload 0 1)).started = false ∨ c.code = 0x0030 ∨ c.code = 0x0062 ∨ c.code = 0x0092) →
       Does (.abortCommand m) s fun t => AnswersOk t m (leBytes 4 0) ∧
         (t.box (getLe img.payload 0 1)).ready = some (Response.fail 0x17 0) ∧
         t.mbx.order = (if (s.box (getLe img.payload 0 1)).started then s.mbx.order
           else s.mbx.order.erase (getLe img.payload 0 1))) ∧
     (∀ c, (s.box (getLe img.payload 0 1)).taken = some c →
       ((s.box (getLe img.payload 0 1)).ready ≠ none ∨
         ((s.box (getLe img.payload 0 1)).started = true ∧ c.code ≠ 0x0030 ∧ c.code ≠ 0x0062 ∧ c.code ≠ 0x0092)) →
       Does (.abortCommand m) s fun t => AnswersOk t m (leBytes 4 1) ∧ t.mbx.order = s.mbx.order ∧
         ∀ k, k ≠ m.val → t.box k = s.box k))

/-! ### References, notes, histograms (chapters 6, 7, 9, 16) -/

/-- LOAD_REFERENCE (R144): refusals by the state of the reference, then it waits for its bytes; a chunk that fits and verifies
joins the members, and the last chunk makes the reference READY; without room in the library, or with a playback demand above
6.4 GB/s (R146), it is refused and the reference is EMPTY. A first chunk whose member does not decompress or does not obey the
format is CORRUPT_REFERENCE, and the reference is EMPTY again (R144); where it does not decompress, the engine's rerun is due
(R264). While every engine at work is busy the load waits; with none at work it is NOT_READY (log entry 68). A load that a
frozen channel ended answers MEMORY_FAULT once (Table 12.4). -/
def Obligations.ReferenceLoads : Prop :=
  (∀ (m : Fin 32) (s : State) (img : MbImage) (r : Nat), Running s m img → img.code = 0x0050 → r = hIdx img.handle →
     (s.ref r).fault = none →
     (((s.ref r).phase = .ready ∨ (s.ref r).phase = .lost) → Does (.loadReference m) s fun t => Refuses t m 0x0B 0) ∧
     ((s.ref r).phase = .empty → loadFirst img.payload = false → Does (.loadReference m) s fun t => Refuses t m 0x04 0x0D) ∧
     ((s.ref r).phase = .loading → loadFirst img.payload = false → (s.ref r).format ≠ loadFormat img.payload →
       Does (.loadReference m) s fun t => Refuses t m 0x04 0x0C) ∧
     (((s.ref r).phase = .loading ∧ ((s.ref r).format = loadFormat img.payload ∨ loadFirst img.payload = true) ∨
         (s.ref r).phase = .empty ∧ loadFirst img.payload = true) →
       (s.desAtWork none = [] → Does (.loadReference m) s fun t => Refuses t m 0x0C 0 ∧ t.ref r = s.ref r) ∧
       (s.desAtWork none ≠ [] → (s.spareDe none = none ∨ loadCount img.payload ≠ 0 ∧ s.hostData m = none) →
         exec (.loadReference m) s = .next s) ∧
       ∀ bytes s1 s2, s.spareDe none ≠ none →
         (loadCount img.payload = 0 ∧ bytes = [] ∧ s1 = s ∨
           loadCount img.payload ≠ 0 ∧ s.hostData m = some bytes ∧ s1 = s.dropData m) →
         s2 = (if loadFirst img.payload then s1.emptyRef r else s1) →
         (∀ demand limit, s2.roomFor0A r bytes.length = .error (demand, limit) →
           Does (.loadReference m) s fun t => (t.ref r).phase = .empty ∧
             (t.box m).ready = some (refusal 0x09 0x0A 0 0 (s.handleOf 3 r) demand limit)) ∧
         ∀ pages ms ends demand out, s2.roomFor0A r bytes.length = .ok pages →
           verifyMembers (loadFormat img.payload) (bytes.length + 1) bytes (96 * mebi) (s2.ref r).members (s2.ref r).ends
             (s2.ref r).demand 0 = .ok ms ends demand out →
           (loadLast img.payload = false →
             Does (.loadReference m) s fun t => AnswersOk t m (leBytes 4 ms.length ++ leBytes 4 0) ∧ (t.ref r).phase = .loading ∧
               (t.ref r).members = ms ∧ (t.ref r).bytes = (s2.ref r).bytes + bytes.length ∧
               (t.ref r).format = loadFormat img.payload) ∧
           (loadLast img.payload = true → ms.length = refSteps { RefDyn.init with members := ms } + 1 →
             (demand ≤ 6400000000 →
               Does (.loadReference m) s fun t => (t.ref r).phase = .ready ∧ (t.ref r).members = ms ∧
                 (t.ref r).digest = sha256 (bytesOf ms.flatten) ∧
                 AnswersOk t m (leBytes 4 ms.length ++ leBytes 4 0 ++ leBytes 8 demand ++ sha256 (bytesOf ms.flatten) ++
                   refLaneMap (t.ref r) ++ refPodMap (t.ref r) ++ List.replicate 0x78 0)) ∧
             (6400000000 < demand →
               Does (.loadReference m) s fun t => (t.ref r).phase = .empty ∧
                 (t.box m).ready = some (refusal 0x09 0x09 0 0 (s.handleOf 3 r) demand 6400000000))))) ∧
  (∀ (m : Fin 32) (s : State) (img : MbImage) (r : Nat), Running s m img → img.code = 0x0050 → r = hIdx img.handle →
     (∀ ch, (s.ref r).fault = some ch →
       Does (.loadReference m) s fun t => Refuses t m 0x0F ch ∧ (t.ref r).fault = none ∧ (t.ref r).phase = (s.ref r).phase) ∧
     ∀ bytes pages member cause pos out rerun, (s.ref r).fault = none →
       ((s.ref r).phase = .empty ∨ (s.ref r).phase = .loading) → loadFirst img.payload = true → s.spareDe none ≠ none →
       loadCount img.payload ≠ 0 → s.hostData m = some bytes →
       ((s.dropData m).emptyRef r).roomFor0A r bytes.length = .ok pages →
       verifyMembers (loadFormat img.payload) (bytes.length + 1) bytes (96 * mebi) [] [] 0 0 =
         .bad member cause pos out rerun →
       Does (.loadReference m) s fun t => (t.ref r).phase = .empty ∧ (t.ref r).members = [] ∧
         (∀ e x, s.spareDe none = some e → rerun = some x → (t.de e).corrupt = (s.de e).corrupt ++
           [{ ref := r, member := member, offset := pos, rerun := x }]) ∧
         (t.box m).ready = some { status := 0x0E, detail := 0
                                  bytes := leBytes 4 member ++ leBytes 1 cause ++ leBytes 3 0 ++ leBytes 8 pos })

/-- DIAG_DECOMPRESS (R265, R336): without a decompressor engine at work NOT_READY; an engine to spare and host bytes are
waited for; then it answers the fault of the member, none as zeros, and the count of bytes that came before it, which go to
the host. -/
def Obligations.DiagDecompressCommand : Prop :=
  ∀ (m : Fin 32) (s : State) (img : MbImage), Running s m img → img.code = 0x0071 →
    (s.desAtWork none = [] → s.frozenChan (hIdx img.handle) = none →
      Does (.diagDecompress m) s fun t => Refuses t m 0x0C 0 ∧ t.pcie = s.pcie) ∧
    (img.handle = 0 → s.desAtWork none ≠ [] →
      (s.spareDe none = none ∨ diagLen img.payload ≠ 0 ∧ s.hostData m = none) → exec (.diagDecompress m) s = .next s) ∧
    (∀ bytes x, s.spareDe none ≠ none →
      (img.handle = 0 ∧ diagLen img.payload = 0 ∧ bytes = [] ∨
        img.handle = 0 ∧ diagLen img.payload ≠ 0 ∧ s.hostData m = some bytes ∨
        img.handle ≠ 0 ∧ s.frozenChan (hIdx img.handle) = none ∧
          diagLen img.payload < (s.ref (hIdx img.handle)).members.length ∧
          bytes = s.memberBytes (hIdx img.handle) (diagLen img.payload)) →
      x = inflateMember (diagFormat img.payload) (diagLimit img.payload) bytes →
      Does (.diagDecompress m) s fun t =>
        (MayIssue s → t.pcie.sent = s.pcie.sent ++
          splitWrite s.pcie.maxPayload s.pcie.relaxedOrdering x.out.length (diagOut img.payload) x.out) ∧
        AnswersOk t m
        ((match x.fault with
          | none => List.replicate 16 0
          | some e => leBytes 1 e.code ++ leBytes 1 (e.at_ % 8) ++ leBytes 6 0 ++ leBytes 8 (e.at_ / 8)) ++
          leBytes 8 x.out.length))

/-- ANNOTATE (R335): NOT_READY while disarmed; armed, it answers the timestamp it gave, the start of the slot in progress, and
writes only the streams it names. TIME_NOTE (R388): requests that wait become records first, then the note; it answers the
record's SEQ and BACKWARD. Without room it is LEDGER_FULL, and the wall time stays. -/
def Obligations.AnnotateAndTimeNote : Prop :=
  (∀ (m : Fin 32) (s : State) (img : MbImage), Running s m img → img.code = 0x0053 →
     (s.time.armed = false → Does (.annotate m) s fun t => Refuses t m 0x0C 0 ∧ t.streams = s.streams) ∧
     (s.time.armed = true → Does (.annotate m) s fun t => AnswersOk t m (leBytes 8 s.slotStart) ∧
       ∀ i, i ∉ (annHandles img.payload).map hIdx → t.stream i = s.stream i)) ∧
  (∀ (m : Fin 32) (s s1 : State) (img : MbImage), Running s m img → img.code = 0x0054 → img.payload.length = 16 →
     s1 = State.createAll s.ledger.reqs.length s →
     (s1.recordPlace false (recordLength 32 (s1.snapList 0x11).length) = none →
       Does (.timeNote m) s fun t => Refuses t m 0x18 0 ∧ t.ledger.wallTime = s.ledger.wallTime ∧ t.regBit LG_STATUS 4 = true) ∧
     (∀ tail, s1.recordPlace false (recordLength 32 (s1.snapList 0x11).length) = some tail →
       Does (.timeNote m) s fun t => t.ledger.wallTime = some (BitVec.ofNat 64 (getLe img.payload 0 8)) ∧
         t.reg64 LG_NEXT_SEQ_LO = (s1.reg64 LG_NEXT_SEQ_LO + 1) % 2 ^ 64 ∧
         AnswersOk t m (leBytes 4 s.opSeconds.toNat ++
           leBytes 4 (match s.ledger.wallTime with
             | some w => decide ((BitVec.ofNat 64 (getLe img.payload 0 8)).toInt < w.toInt)
             | none => false).toNat ++
           leBytes 8 (s1.reg64 LG_NEXT_SEQ_LO))))

/-- HISTOGRAM_SNAPSHOT with SWAP, and HISTOGRAM_CLEAR (R176, R180): NOT_READY for a histogram that is not placed,
UNIT_RETIRED without its unit, NOT_READY while disarmed. HISTOGRAM_SNAPSHOT with SWAP (R176, R181): the accumulation is
closed at the slot and goes on in the other bank, and a second swap in that slot is the same swap; while the other bank is
not free it is BUSY and counted as missed, once for the slot. With FETCH the oldest image goes to the host too; what FETCH
refuses is refused before the swap, and an image whose channel is being retrained or in self-refresh is waited for (R290,
R294). HISTOGRAM_CLEAR (R180) takes effect at the slot: it waits until no swap of the same instant can come (log entry 101),
and right after a swap of that slot nothing is left to clear. HISTOGRAM_SNAPSHOT with FETCH alone (R181): the oldest image
goes to the host and is freed; no image is NOT_READY, a buffer shorter than the image INVALID_FIELD, and then the image
stays. Fields of a response that no swap or fetch gives a value are free. -/
def Obligations.HistogramCommands : Prop :=
  (∀ (m : Fin 32) (s : State) (img : MbImage) (c : Instr), Running s m img →
     (c = .histogramSnapshotSwap m ∧ img.code = 0x0051 ∧ getLe img.payload 0 4 % 2 = 1 ∨
       c = .histogramClear m ∧ img.code = 0x0052) →
     (s.weaver.place.histPlace (hIdx img.handle) = none → Does c s fun t => Refuses t m 0x0C 0 ∧ t.hists = s.hists) ∧
     (∀ h, s.weaver.place.histPlace (hIdx img.handle) = some h → s.isRetired (uHu h.hu) = true →
       Does c s fun t => Refuses t m 0x07 0xFFFF ∧ t.hists = s.hists) ∧
     (∀ h, s.weaver.place.histPlace (hIdx img.handle) = some h → s.isRetired (uHu h.hu) = false → s.time.armed = false →
       Does c s fun t => Refuses t m 0x0C 0 ∧ t.hists = s.hists)) ∧
  (∀ (m : Fin 32) (s : State) (img : MbImage) (h : HistPlace) (d : RegionDyn), Running s m img → img.code = 0x0051 →
     s.weaver.place.histPlace (hIdx img.handle) = some h → s.isRetired (uHu h.hu) = false → s.time.armed = true →
     d = s.region h.hu h.region →
     ((∀ c ∈ d.closings, c.tClose ≠ s.slotStart) → s.slotStart ∉ d.missed → s.otherBankFree h.hu h.region = true →
       d.deferred = [] →
       (getLe img.payload 0 4 = 1 →
         Does (.histogramSnapshotSwap m) s fun t =>
           (∃ c, (t.region h.hu h.region).closing = some c ∧ c.tClose = s.slotStart ∧
             c.bank = bit (s.rgCfg h.hu h.region) 27) ∧
           (t.region h.hu h.region).tOpen = s.slotStart ∧
           bit (t.rgCfg h.hu h.region) 27 = !bit (s.rgCfg h.hu h.region) 27 ∧ t.images = s.images ∧
           ∃ free : Word, AnswersOk t m (leBytes 8 s.slotStart ++ leBytes 4 free.toNat ++ leBytes 4 0 ++
             leBytes 4 (s.image (hIdx img.handle)).images.length ++ leBytes 4 0)) ∧
       (∀ x rest, getLe img.payload 0 4 = 3 → (s.image (hIdx img.handle)).images = x :: rest →
         x.2.length ≤ getLe img.payload 4 4 → s.imageServes (hIdx img.handle) = true →
         Does (.histogramSnapshotSwap m) s fun t => (t.image (hIdx img.handle)).images = rest ∧
           (∃ c, (t.region h.hu h.region).closing = some c ∧ c.tClose = s.slotStart) ∧
           (MayIssue s → t.pcie.sent = s.pcie.sent ++
             splitWrite s.pcie.maxPayload s.pcie.relaxedOrdering x.2.length (getLe img.payload 8 8) x.2) ∧
           AnswersOk t m (leBytes 8 s.slotStart ++ leBytes 4 x.1 ++ leBytes 4 x.2.length ++ leBytes 4 rest.length ++
             leBytes 4 0))) ∧
     ((∃ c ∈ d.closings, c.tClose = s.slotStart) → getLe img.payload 0 4 = 1 →
       Does (.histogramSnapshotSwap m) s fun t => t.hists = s.hists ∧ t.regs = s.regs ∧
         ∃ free : Word, AnswersOk t m (leBytes 8 s.slotStart ++ leBytes 4 free.toNat ++ leBytes 4 0 ++
           leBytes 4 (s.image (hIdx img.handle)).images.length ++ leBytes 4 0)) ∧
     ((getLe img.payload 0 4 = 1 ∨ getLe img.payload 0 4 = 3 ∧ s.imageServes (hIdx img.handle) = true ∧
         ∃ x rest, (s.image (hIdx img.handle)).images = x :: rest ∧ x.2.length ≤ getLe img.payload 4 4) →
       (∀ c ∈ d.closings, c.tClose ≠ s.slotStart) →
       (s.slotStart ∉ d.missed → (s.otherBankFree h.hu h.region = false ∨ d.deferred ≠ []) →
         Does (.histogramSnapshotSwap m) s fun t => Refuses t m 0x0B 0 ∧ t.images = s.images ∧
           t.region h.hu h.region = { d with missed := d.missed ++ [s.slotStart] } ∧
           t.regF (HU_RG h.hu h.region 0x3C) 16 16 = min (s.regF (HU_RG h.hu h.region 0x3C) 16 16 + 1) 65535) ∧
       (s.slotStart ∈ d.missed → Does (.histogramSnapshotSwap m) s fun t => Refuses t m 0x0B 0 ∧ t.hists = s.hists ∧
         t.regs = s.regs)) ∧
     (getLe img.payload 0 4 = 3 →
       ((s.image (hIdx img.handle)).images = [] → Does (.histogramSnapshotSwap m) s fun t => Refuses t m 0x0C 0 ∧
         t.hists = s.hists ∧ t.regs = s.regs) ∧
       (∀ x rest, (s.image (hIdx img.handle)).images = x :: rest →
         (getLe img.payload 4 4 < x.2.length → Does (.histogramSnapshotSwap m) s fun t => Refuses t m 0x04 4 ∧
           t.hists = s.hists ∧ t.images = s.images ∧ t.regs = s.regs) ∧
         (x.2.length ≤ getLe img.payload 4 4 → s.imageServes (hIdx img.handle) = false →
           exec (.histogramSnapshotSwap m) s = .next s)))) ∧
  (∀ (m : Fin 32) (s : State) (img : MbImage) (h : HistPlace) (d : RegionDyn), Running s m img → img.code = 0x0052 →
     s.weaver.place.histPlace (hIdx img.handle) = some h → s.isRetired (uHu h.hu) = false → s.time.armed = true →
     d = s.region h.hu h.region →
     ((∀ c ∈ d.closings, c.tClose ≠ s.slotStart) →
       Does (.histogramClear m) s fun t => AnswersOk t m (leBytes 8 s.slotStart) ∧
         t.region h.hu h.region = { d with clears := d.clears ++ [s.slotStart] } ∧ t.regs = s.regs) ∧
     ((∃ c ∈ d.closings, c.tClose = s.slotStart) →
       Does (.histogramClear m) s fun t => AnswersOk t m (leBytes 8 s.slotStart) ∧ t.hists = s.hists ∧ t.regs = s.regs)) ∧
  (∀ (m : Fin 32) (s : State) (img : MbImage) (h : Nat), Running s m img → img.code = 0x0051 → getLe img.payload 0 4 = 2 →
     h = hIdx img.handle →
     (∀ p, s.weaver.place.histPlace h = some p → s.isRetired (uHu p.hu) = true →
       Does (.histogramSnapshotFetch m) s fun t => Refuses t m 0x07 0xFFFF ∧ t.images = s.images) ∧
     ((∀ p, s.weaver.place.histPlace h = some p → s.isRetired (uHu p.hu) = false) →
     ((s.image h).images = [] → Does (.histogramSnapshotFetch m) s fun t => Refuses t m 0x0C 0 ∧ t.images = s.images) ∧
     (∀ x rest, (s.image h).images = x :: rest → getLe img.payload 4 4 < x.2.length →
       Does (.histogramSnapshotFetch m) s fun t => Refuses t m 0x04 4 ∧ t.images = s.images ∧ t.pcie = s.pcie) ∧
     (∀ x rest, (s.image h).images = x :: rest → x.2.length ≤ getLe img.payload 4 4 → s.imageServes h = false →
       Does (.histogramSnapshotFetch m) s fun t => t.images = s.images ∧ t.pcie = s.pcie) ∧
     (∀ x rest, (s.image h).images = x :: rest → x.2.length ≤ getLe img.payload 4 4 → s.imageServes h = true →
       Does (.histogramSnapshotFetch m) s fun t => (t.image h).images = rest ∧ (t.image h).nextSeq = (s.image h).nextSeq ∧
         (MayIssue s → t.pcie.sent = s.pcie.sent ++
           splitWrite s.pcie.maxPayload s.pcie.relaxedOrdering x.2.length (getLe img.payload 8 8) x.2) ∧
         ∃ free : DWord, AnswersOk t m (leBytes 8 free.toNat ++ leBytes 4 x.1 ++ leBytes 4 x.2.length ++ leBytes 4 rest.length ++
           leBytes 4 0))))

/-! ### Ledger, service and power commands (chapters 13, 14, 16, 18) -/

/-- LEDGER_READ (R385): after a flush it sends whole records in SEQ order, from the one asked for or the first of the log, as
many as the buffer and the record limit take; it answers what it sent. The clearing of the ledger (R389 to R391). A challenge
of 32 bytes holds from its second. Without a key a clear is NOT_PERMITTED, under LEDGER_VOLATILE it is BUSY, and one that does
not hold is AUTH_FAILED and uses the challenge up. A clear that holds begins the next generation, whose first record is the
next SEQ. LEDGER_SET_SNAPSHOT replaces the list of one trigger source (R377); LEDGER_PROVISION_KEY sets the station key once,
and never where both copies of it are lost (R389, R371). -/
def Obligations.LedgerCommands : Prop :=
  (∀ (m : Fin 32) (s s1 : State) (img : MbImage) (log : List LedgerRec), Running s m img → img.code = 0x0060 →
     s1 = s.flushLedger none →
     log = (if s1.ledgerVolatile then s1.ledgerBuffer else s1.ledgerLog).filter
       (fun r => decide (max (getLe img.payload 0x10 8) (s1.reg64 LG_FIRST_SEQ_LO) ≤ r.seq)) →
     Does (.ledgerRead m) s fun t => ∃ rs, rs <+: log ∧
       sumOn rs (fun r => r.bytes.length) ≤ getLe img.payload 0x08 4 ∧
       (getLe img.payload 0x0C 4 ≠ 0 → rs.length ≤ getLe img.payload 0x0C 4) ∧
       (∀ r rest, log = rs ++ r :: rest → getLe img.payload 0x0C 4 ≠ 0 ∧ rs.length = getLe img.payload 0x0C 4 ∨
         getLe img.payload 0x08 4 < sumOn rs (fun r => r.bytes.length) + r.bytes.length) ∧
       (MayIssue s → (∃ r ∈ rs, r.bytes ≠ []) → (∀ r ∈ rs, r.seq ∉ s1.ledger.lost) → t.pcie.sent = s.pcie.sent ++
         splitWrite s.pcie.maxPayload s.pcie.relaxedOrdering (sumOn rs fun r => r.bytes.length) (getLe img.payload 0 8)
           (rs.flatMap (·.bytes))) ∧
       AnswersOk t m (leBytes 4 (s.reg LG_GENERATION).toNat ++ leBytes 4 0 ++
         leBytes 8 (match rs with | r :: _ => r.seq | [] => 0) ++ leBytes 8 (match rs.getLast? with | some r => r.seq | none => 0) ++
         leBytes 4 (sumOn rs fun r => r.bytes.length) ++ leBytes 4 rs.length ++ leBytes 4 (s.reg LG_REFUSED).toNat ++ leBytes 4 0) ∧
       t.ledger = s1.ledger) ∧
  ((∀ (m : Fin 32) (s : State) (img : MbImage), Running s m img → img.code = 0x0061 →
     Does (.ledgerClearChallenge m) s fun t => ∃ c, c.length = 32 ∧ t.ledger.challenge = some (c, s.opSeconds.toNat) ∧
       AnswersOk t m (leBytes 4 s.ledger.keyId.toNat ++ leBytes 4 (s.reg LG_GENERATION).toNat ++ c)) ∧
   ∀ (m : Fin 32) (s : State) (img : MbImage), Running s m img → img.code = 0x0062 →
     (s.ledger.key = none → Does (.ledgerClear m) s fun t => Refuses t m 0x13 0 ∧ t.ledger = s.ledger) ∧
     (s.ledger.key ≠ none → s.ledgerVolatile = true → Does (.ledgerClear m) s fun t => Refuses t m 0x0B 0 ∧ t.ledger = s.ledger) ∧
     (∀ key s1, s.ledger.key = some key → s.ledgerVolatile = false → s1 = s.flushLedger none →
       (s1.clearAuthentic key img.payload = false →
         Does (.ledgerClear m) s fun t => Refuses t m 0x12 0 ∧ t.ledger.challenge = none ∧ t.ledger.key = some key ∧
           t.reg LG_GENERATION = s.reg LG_GENERATION) ∧
       (s1.clearAuthentic key img.payload = true →
         Does (.ledgerClear m) s fun t => t.ledger.challenge = none ∧ t.reg LG_GENERATION = s.reg LG_GENERATION + 1 ∧
           t.reg64 LG_FIRST_SEQ_LO = s1.reg64 LG_NEXT_SEQ_LO ∧
           t.reg64 LG_NEXT_SEQ_LO = (s1.reg64 LG_NEXT_SEQ_LO + 1) % 2 ^ 64 ∧ t.reg LG_REFUSED = 0 ∧
           (∀ r ∈ t.ledger.bank0 ++ t.ledger.bank1, r.seq = s1.reg64 LG_NEXT_SEQ_LO) ∧
           AnswersOk t m (leBytes 8 (s1.reg64 LG_FIRST_SEQ_LO) ++ leBytes 8 (s1.reg64 LG_NEXT_SEQ_LO - 1) ++
             leBytes 4 (s.reg LG_REFUSED).toNat ++ leBytes 4 (s.reg LG_GENERATION + 1).toNat ++
             leBytes 8 (s1.reg64 LG_NEXT_SEQ_LO))))) ∧
  ((∀ (m : Fin 32) (s : State) (img : MbImage), Running s m img → img.code = 0x0063 →
     Does (.ledgerSetSnapshot m) s fun t => AnswersOk t m [] ∧
       t.snapList (getLe img.payload 0 2) =
         (List.range (getLe img.payload 2 1)).map (fun k => BitVec.ofNat 32 (getLe img.payload (4 + 4 * k) 4)) ∧
       ∀ k, k ≠ getLe img.payload 0 2 → t.snapList k = s.snapList k) ∧
   ∀ (m : Fin 32) (s : State) (img : MbImage), Running s m img → img.code = 0x0064 →
     (s.ledger.key = none → s.ledger.keyLost = false → Does (.ledgerProvisionKey m) s fun t => AnswersOk t m [] ∧
       t.ledger.key = some (slice img.payload 4 32) ∧ t.ledger.keyId = BitVec.ofNat 32 (getLe img.payload 0 4)) ∧
     ((s.ledger.key ≠ none ∨ s.ledger.keyLost = true) →
       Does (.ledgerProvisionKey m) s fun t => Refuses t m 0x13 0 ∧ t.ledger = s.ledger))

/-- SELFTEST (R336): an absent unit refuses it, and so does a lane in use while armed; otherwise it answers the next
identifier, and its units wait for their results. DIAG_UNLOCK (R443, R444): refused while armed; an unlock opens the register
file until its lapse; a lock puts the RW fields of the capture dies back to what firmware last wrote. The file locks by itself
once its second has come. -/
def Obligations.ServiceCommands : Prop :=
  (∀ (m : Fin 32) (s : State) (img : MbImage), Running s m img → img.code = 0x0070 →
     (∀ k u, (selftestUnits img.payload)[k]? = some u → uaPresent s.halfPart u = false →
       (∀ j v, j < k → (selftestUnits img.payload)[j]? = some v → uaPresent s.halfPart v = true) →
       Does (.selftest m) s fun t => t.weaver = s.weaver ∧ Refuses t m 0x06 (4 + 4 * k)) ∧
     ((∀ u ∈ selftestUnits img.payload, uaPresent s.halfPart u = true) →
       ((∃ u ∈ selftestUnits img.payload, ∃ n ∈ s.calLanes u, s.laneArmed n = true) →
         Does (.selftest m) s fun t => Refuses t m 0x0B 0 ∧ t.weaver = s.weaver) ∧
       ((∀ u ∈ selftestUnits img.payload, ∀ n ∈ s.calLanes u, s.laneArmed n = false) →
         Does (.selftest m) s fun t => AnswersOk t m (leBytes 4 s.weaver.nextTestId) ∧
           t.weaver.nextTestId = (s.weaver.nextTestId + 1) % 2 ^ 32 ∧
           t.weaver.hostTests = s.weaver.hostTests ++
             [{ id := s.weaver.nextTestId, units := (selftestUnits img.payload).eraseDups }]))) ∧
  ((∀ (m : Fin 32) (s : State) (img : MbImage), Running s m img → img.code = 0x0072 →
     (s.time.armed = true → (getLe img.payload 0 1 = 1 → Does (.diagUnlock m) s fun t => Refuses t m 0x0B 0 ∧ t.regs = s.regs) ∧
       (getLe img.payload 0 1 = 0 → Does (.diagLock m) s fun t => Refuses t m 0x0B 0 ∧ t.regs = s.regs)) ∧
     (s.time.armed = false → getLe img.payload 0 1 = 1 →
       Does (.diagUnlock m) s fun t => t.unlocked = true ∧
         t.reg HUB_RF_LAPSE = s.opSeconds + BitVec.ofNat 32 (60 * getLe img.payload 2 2) ∧
         AnswersOk t m (leBytes 4 (t.reg HUB_RF_LAPSE).toNat)) ∧
     (s.time.armed = false → getLe img.payload 0 1 = 0 →
       Does (.diagLock m) s fun t => t.unlocked = false ∧ AnswersOk t m (leBytes 4 0) ∧
         (s.unlocked = false → t.regs = s.regs) ∧
         (s.unlocked = true → ∀ a, 0x1000000 ≤ a →
           t.reg a &&& BitVec.ofNat 32 (rwMask a) = s.fwReg a &&& BitVec.ofNat 32 (rwMask a)))) ∧
   (∀ s : State, s.unlocked = true → (s.reg HUB_RF_LAPSE).toNat ≤ s.opSeconds.toNat →
     Does .unlockLapse s fun t => t.unlocked = false ∧ t.reg HUB_RF_LAPSE = 0) ∧
   ∀ s : State, (s.unlocked = false ∨ s.opSeconds.toNat < (s.reg HUB_RF_LAPSE).toNat) → exec .unlockLapse s = .next s)

/-- SET_POWER_STATE (R336, R420, R423): BUSY while armed for any state but READY; otherwise it answers the state the device is
in (RUN has no number there and reads free, log entry 74), and the transition to that state begins, unless the device is there
or in RUN, and a transition in progress turns to it. D3hot and D0 (R350, R409, R424): D3hot disarms and sends the device to
SLEEP; D0 releases WAKE_N and starts the wake. Transitions (Table 18.4, R421, R423): entry to STANDBY or SLEEP waits until
nothing is armed or tested, and locks the register file; the wake brings READY, and the next ARM begins a session epoch (log
entry 72); STANDBY asked for in SLEEP is reached through READY (log entry 74); arrival posts POWER_STATE. -/
def Obligations.PowerStateChanges : Prop :=
  (∀ (m : Fin 32) (s : State) (img : MbImage), Running s m img → img.code = 0x0081 →
     1 ≤ getLe img.payload 0 1 → getLe img.payload 0 1 ≤ 3 →
     (s.time.armed = true → getLe img.payload 0 1 ≠ 1 → Does (.setPowerState m) s fun t => Refuses t m 0x0B 0 ∧ t.regs = s.regs) ∧
     (s.time.armed = false ∨ getLe img.payload 0 1 = 1 →
       (s.regBit PWR_STATE 4 = true ∨ (powerCode (getLe img.payload 0 1) ≠ s.pwr ∧ s.pwr ≠ 2) →
         Does (.setPowerState m) s fun t => t.regBit PWR_STATE 4 = true ∧
           t.regF PWR_STATE 5 3 = powerCode (getLe img.payload 0 1) ∧ t.pwr = s.pwr ∧
           ∃ now : Byte, (s.pwr ≠ 2 → now = BitVec.ofNat 8 (stateCode s.pwr)) ∧ AnswersOk t m [now, 0, 0, 0]) ∧
       (s.regBit PWR_STATE 4 = false → (powerCode (getLe img.payload 0 1) = s.pwr ∨ s.pwr = 2) →
         Does (.setPowerState m) s fun t => t.regs = s.regs ∧
           ∃ now : Byte, (s.pwr ≠ 2 → now = BitVec.ofNat 8 (stateCode s.pwr)) ∧ AnswersOk t m [now, 0, 0, 0]))) ∧
  ((∀ s : State, s.pwr ≠ 0 → s.failed = false →
     Does .d3hot s fun t => t.pcie.d3hot = true ∧ t.time.armed = false ∧
       ((s.pwr ≠ 4 ∨ s.regBit PWR_STATE 4 = true) → t.regBit PWR_STATE 4 = true ∧ t.regF PWR_STATE 5 3 = 4)) ∧
   (∀ s : State, (s.pwr = 0 ∨ s.failed = true) → exec .d3hot s = .next (s.modPcie fun p => { p with d3hot := true })) ∧
   (∀ s : State, s.pcie.d3hot = false → exec .d0 s = .next s) ∧
   ∀ s : State, s.pcie.d3hot = true →
     Does .d0 s fun t => t.pcie.d3hot = false ∧ t.station.wakeN = false ∧
       ((s.asleep = true ∨ s.regBit PWR_STATE 4 = true) → t.regBit PWR_STATE 4 = true ∧ t.regF PWR_STATE 5 3 = 1)) ∧
  ((∀ s : State, s.regBit PWR_STATE 4 = true → (s.target = 3 ∨ s.target = 4) → (s.pwr = 1 ∨ s.pwr = 3) → s.pwr ≠ s.target →
     s.time.armed = false → s.weaver.tests = [] →
     Does .standbyEntry s fun t => t.pwr = s.target ∧ t.unlocked = false) ∧
   (∀ s : State, (s.regBit PWR_STATE 4 = false ∨ s.time.armed = true ∨ s.weaver.tests ≠ [] ∨ s.pwr = s.target) →
     exec .standbyEntry s = .next s) ∧
   (∀ (cd0 cd1 : Half) (s : State), s.regBit PWR_STATE 4 = true → (s.target = 1 ∨ (s.target = 3 ∧ s.pwr = 4)) → s.asleep = true →
     Does (.wake cd0 cd1) s fun t => t.pwr = 1 ∧ t.power.tempCd0 = cd0 ∧ t.power.tempCd1 = cd1 ∧ t.time.newEpoch = true) ∧
   (∀ (cd0 cd1 : Half) (s : State), (s.regBit PWR_STATE 4 = false ∨ (s.target ≠ 1 ∧ (s.target ≠ 3 ∨ s.pwr ≠ 4)) ∨ s.asleep = false) →
     exec (.wake cd0 cd1) s = .next s) ∧
   (∀ s : State, s.regBit PWR_STATE 4 = true → s.pwr = s.target →
     Does .stateTransitionDone s fun t => t.regBit PWR_STATE 4 = false ∧ t.pwr = s.pwr ∧
       t.regF MB_NTF_NSEQ 0 16 = (s.regF MB_NTF_NSEQ 0 16 + 1) % 2 ^ 16) ∧
   ∀ s : State, (s.regBit PWR_STATE 4 = false ∨ s.pwr ≠ s.target) → exec .stateTransitionDone s = .next s)

/-- FW_UPDATE_BEGIN's checks, in order (R341): signature, rollback counter, an update in progress. What passes them opens a
staging area of zeros with its manifest; a cancel closes it (R343). FW_UPDATE_CHUNK waits for its bytes and puts them into the
staging area; FW_UPDATE_COMMIT answers the image's digest and starts programming when it is the manifest's, else MISMATCH;
without a staging area both are NOT_READY (R341, R342). The end of programming (R342): the inactive slot holds the new
manifest and image and waits to run, or is invalid; the running slot stays. -/
def Obligations.FirmwareUpdate : Prop :=
  (∀ (m : Fin 32) (s : State) (img : MbImage), Running s m img → img.code = 0x0090 →
     (fwSize img.payload ≠ 0 →
       (s.fwSigned img.payload = false → Does (.fwUpdateBegin m) s fun t => Refuses t m 0x14 0 ∧ t.power = s.power) ∧
       (s.fwSigned img.payload = true → fwRollback img.payload < s.ledger.rollback.toNat →
         Does (.fwUpdateBegin m) s fun t => Refuses t m 0x15 0 ∧ t.power = s.power) ∧
       (s.fwSigned img.payload = true → s.ledger.rollback.toNat ≤ fwRollback img.payload →
         (s.power.fw.staging ≠ none ∨ s.power.fw.programming ≠ none →
           Does (.fwUpdateBegin m) s fun t => Refuses t m 0x0B 0 ∧ t.power = s.power) ∧
         (s.power.fw.staging = none → s.power.fw.programming = none →
           Does (.fwUpdateBegin m) s fun t => AnswersOk t m [] ∧
             t.power.fw = { s.power.fw with staging := some (img.payload.take 160, []) }))) ∧
     (fwSize img.payload = 0 → (∀ b ∈ slice img.payload 8 152, b = 0) →
       Does (.fwUpdateCancel m) s fun t => AnswersOk t m [] ∧ t.power.fw = { s.power.fw with staging := none })) ∧
  (∀ (m : Fin 32) (s : State) (img : MbImage), Running s m img →
     (s.power.fw.staging = none → (img.code = 0x0091 → Does (.fwUpdateChunk m) s fun t => Refuses t m 0x0C 0) ∧
       (img.code = 0x0092 → Does (.fwUpdateCommit m) s fun t => Refuses t m 0x0C 0)) ∧
     (∀ man area, s.power.fw.staging = some (man, area) →
       (img.code = 0x0091 → fwChunkOff img.payload + fwChunkLen img.payload ≤ fwSize man → fwChunkLen img.payload ≠ 0 →
         (s.hostData m = none → exec (.fwUpdateChunk m) s = .next s) ∧
         ∀ bytes, s.hostData m = some bytes →
           Does (.fwUpdateChunk m) s fun t => AnswersOk t m [] ∧ ∃ area', t.power.fw.staging = some (man, area') ∧
             ∀ a, Tbl.getD area' a 0 =
               if fwChunkOff img.payload ≤ a ∧ a < fwChunkOff img.payload + bytes.length
               then bytes.getD (a - fwChunkOff img.payload) 0 else Tbl.getD area a 0) ∧
       (img.code = 0x0091 → fwChunkOff img.payload ≤ fwSize man → fwChunkLen img.payload = 0 →
         Does (.fwUpdateChunk m) s fun t => AnswersOk t m [] ∧ t.power.fw = s.power.fw) ∧
       (img.code = 0x0091 → fwSize man < fwChunkOff img.payload + fwChunkLen img.payload →
         Does (.fwUpdateChunk m) s fun t => Refuses t m 0x04 8 ∧ t.power.fw = s.power.fw) ∧
       (img.code = 0x0092 → sha384 (fwImage (man, area)) = fwDigest man →
         Does (.fwUpdateCommit m) s fun t => AnswersOk t m (fwDigest man) ∧
           t.power.fw = { s.power.fw with staging := none, programming := some (man, area) }) ∧
       (img.code = 0x0092 → sha384 (fwImage (man, area)) ≠ fwDigest man →
         Does (.fwUpdateCommit m) s fun t => Refuses t m 0x16 0 ∧ t.power.fw = s.power.fw))) ∧
  ((∀ (ok : Bool) (s : State) (new : List Byte × Tbl Byte), s.power.fw.programming = some new → s.power.fw.running < 2 →
     Does (.fwUpdateDone ok) s fun t => t.power.fw.programming = none ∧ t.power.fw.running = s.power.fw.running ∧
       t.power.fw.content s.power.fw.running = s.power.fw.content s.power.fw.running ∧
       (ok = true → t.power.fw.content (1 - s.power.fw.running) = new ∧ t.power.fw.pending = some (1 - s.power.fw.running) ∧
         1 - s.power.fw.running ∉ t.power.fw.bad) ∧
       (ok = false → 1 - s.power.fw.running ∈ t.power.fw.bad ∧ t.power.fw.pending ≠ some (1 - s.power.fw.running))) ∧
   ∀ (ok : Bool) (s : State), s.power.fw.programming = none → exec (.fwUpdateDone ok) s = .next s)

/-! ### Streams at the host (chapter 9) -/

/-- R222: DESC_TAIL takes a count that moves forward and leaves at most the ring outstanding; any other is ignored with a
RING_FAULT notice. CPL_HEAD takes its count. A write that is not a sound 32-bit write counts nowhere (R354). R221, R360:
posted descriptors are read one request at a time, at most 64 of them, within Max Read Request Size and up to the ring's end,
while requests may be issued and a tag is left; one that meets a 4 KiB boundary goes as two. -/
def Obligations.StreamDoorbellsAndFetch : Prop :=
  (∀ (i : Fin 4096) (v : Word) (a : WriteAttr) (s : State),
     (s.doorbellOk a = false → (Does (.descTail i v a) s fun t => t.streams = s.streams ∧ t.queues = s.queues) ∧
       Does (.cplHead i v a) s fun t => t.streams = s.streams) ∧
     (∀ p, s.doorbellOk a = true → s.def? 1 i = some p →
       (movesBack (s.stream i).descTail v.toNat = false → (v.toNat + 2 ^ 32 - (s.stream i).cplWritten) % 2 ^ 32 ≤ bDescN p →
         exec (.descTail i v a) s = .next (s.modStream i fun d => { d with descTail := v.toNat })) ∧
       ((movesBack (s.stream i).descTail v.toNat = true ∨ bDescN p < (v.toNat + 2 ^ 32 - (s.stream i).cplWritten) % 2 ^ 32) →
         Does (.descTail i v a) s fun t => t.streams = s.streams ∧
           t.regF MB_NTF_NSEQ 0 16 = (s.regF MB_NTF_NSEQ 0 16 + 1) % 2 ^ 16) ∧
       exec (.cplHead i v a) s = .next (s.modStream i fun d => { d with cplHead := v.toNat })) ∧
     (s.doorbellOk a = true → s.def? 1 i = none → exec (.descTail i v a) s = .next s ∧ exec (.cplHead i v a) s = .next s)) ∧
  (∀ (i : Fin 4096) (s : State) (p : List Byte) (n : Nat), s.def? 1 i = some p →
     n = fetchCount s.pcie.maxReadRequest (max 1 (bDescN p)) (s.stream i).descFetched (s.stream i).descTail →
     (s.canDma = true → (s.stream i).dmaFailed = false → s.fetching i = false → n ≠ 0 → s.pcie.queued = [] →
       s.pcie.outstanding.length + 1 < s.pcie.readLimit →
       Does (.descriptorFetch i) s fun t => t.pcie.queued = [] ∧ ∃ new, t.pcie.outstanding = s.pcie.outstanding ++ new ∧
         new.map (fun r => (r.addr, r.len, r.off)) = splitRead s.pcie.maxReadRequest (16 * n)
           (bDescAddr p + 16 * ((s.stream i).descFetched % max 1 (bDescN p))) (16 * n) 0 ∧
         ∀ r ∈ new, r.owner = .descriptors i (s.stream i).descFetched n ∧ r.relaxed = s.pcie.relaxedOrdering ∧ r.since = s.now) ∧
     ((s.canDma = false ∨ (s.stream i).dmaFailed = true ∨ s.fetching i = true ∨ n = 0 ∨
         s.pcie.readLimit ≤ s.pcie.outstanding.length) → exec (.descriptorFetch i) s = .next s))

/-- R222 to R224: a buffer that is full is completed, if the completion ring has a free entry: its descriptor is used up, the
entry of Table 9.20 is written at its place in the ring, and the stream's vector follows a MARK, a LOSS or an INTERRUPT
descriptor. Without descriptors that are good and read, or with requests stopped, nothing is delivered. R218, R219: with
nothing before it in the ring, a run of segments that a flush discarded is replaced by one loss segment with the number of its
first one; what comes next has the number after its last. FLUSH_US after its first record an open segment closes (Table 9.4);
before that nothing does. R214: while armed the two digests of the epoch are written at once into every stream that is not
shed. -/
def Obligations.StreamDelivery : Prop :=
  (∀ (i : Fin 4096) (s : State) (d : Desc) (rest : List Desc) (p entry : List Byte),
     (s.canDma = true → s.def? 1 i = some p → (s.stream i).descs = d :: rest → d.bad = false → (s.stream i).dmaFailed = false →
       (s.stream i).descFetched = (s.stream i).descTaken → s.cplFree i (s.stream i) = true → d.len ≤ (s.stream i).fillLen →
       entry = leBytes 2 d.bufId.toNat ++
         leBytes 2 ((s.stream i).fillMark.isSome.toNat + 2 * (s.stream i).fillLoss.toNat +
           (if (s.stream i).cplWritten / max 1 (bCplN p) % 2 = 0 then 2 ^ 15 else 0)) ++
         leBytes 4 (s.stream i).fillLen ++ leBytes 6 ((s.stream i).fillFirst.getD (s.stream i).fillSeq) ++
         leBytes 2 (min 0xFFFF (s.stream i).fillStarts) →
       Does (.bufferCompletion i) s fun t => (t.stream i).descs = rest ∧ (t.stream i).fillLen = 0 ∧
         (t.stream i).cplWritten = ((s.stream i).cplWritten + 1) % 2 ^ 32 ∧ (t.stream i).ring = (s.stream i).ring ∧
         t.pcie.sent = s.pcie.sent ++
           splitWrite s.pcie.maxPayload false entry.length
             (bCplAddr p + 16 * ((s.stream i).cplWritten % max 1 (bCplN p))) entry ++
           (if bVectorValid p = true ∧ s.pcie.vectorMasked (bVector p) = false ∧
               ((s.stream i).fillMark ≠ none ∨ (s.stream i).fillLoss = true ∨ d.interrupt = true)
             then [.msix (bVector p)] else [])) ∧
     ((s.canDma = false ∨ s.hasStream i = false) → exec (.bufferCompletion i) s = .next s)) ∧
  (∀ (i : Fin 4096) (s : State) (run : Missing), s.hasStream i = true → (s.stream i).ring = [] → (s.stream i).missing = [run] →
     run.cause = 7 → (s.stream i).skipState = false →
     Does (.lossSegment i) s fun t => (t.stream i).missing = [] ∧ (t.stream i).nextDeliver = run.firstSeq + run.segs ∧
       ∃ g, (t.stream i).taken = (s.stream i).taken ++ [g] ∧ g.seq = run.firstSeq ∧ g.hasLoss = true) ∧
  (∀ (i : Fin 4096) (s : State) (p : List Byte) (t0 : Time), s.def? 1 i = some p → (s.stream i).firstRecord = some t0 →
     ((s.stream i).open_ ≠ [] → t0 + bFlushUs p * usFt < s.slotEnd → Does (.flushTime i) s fun t => (t.stream i).open_ = []) ∧
     (s.slotEnd ≤ t0 + bFlushUs p * usFt → exec (.flushTime i) s = .next s)) ∧
  ((∀ s : State, s.time.armed = false → exec .digestPeriodic s = .next s) ∧
   ∀ s : State, s.time.armed = true → s.streamIds.Nodup →
     Does .digestPeriodic s fun t => ∀ i ∈ s.streamIds, s.isShed (objKey 1 i) = false → (s.stream i).open_ ≠ [] →
       (s.stream i).open_.length + 10 + (s.stream i).reserve < 512 →
       (t.stream i).open_ = (s.stream i).open_ ++
         (digestRec 0 true i s.epochNo.toNat (s.digestRegs HUB_CDIG)).words ++
         (digestRec 1 true i s.epochNo.toNat (s.digestRegs HUB_PDIG)).words)

/-! ### Registers and BAR 2 (chapters 15 and 19) -/

/-- R355, Table 15.8: ALIVE never reads as all ones. It gives firmware's beat, the signature 0x4B5A, and STATE: 4 while a
Function Level Reset runs, else READY, RUN, STANDBY (for SLEEP too) or FAILED. -/
def Obligations.AliveRegister : Prop :=
  ∀ (s : State) (f : Nat), s.peek ALIVE f ≠ 0xFFFFFFFF ∧ fld (s.peek ALIVE f) 16 16 = 0x4B5A ∧
    fld (s.peek ALIVE f) 0 12 = s.regF ALIVE 0 12 ∧ (s.pcie.flr = true → fld (s.peek ALIVE f) 12 4 = 4) ∧
    (s.pcie.flr = false → (s.pwr = 1 → fld (s.peek ALIVE f) 12 4 = 1) ∧ (s.pwr = 2 → fld (s.peek ALIVE f) 12 4 = 2) ∧
      ((s.pwr = 3 ∨ s.pwr = 4) → fld (s.peek ALIVE f) 12 4 = 3) ∧ (s.pwr = 7 → fld (s.peek ALIVE f) 12 4 = 15))

/-- A read of the register file (R438 to R440): one 32-bit register, or two in order, with every RC bit clear after it; a size
or place that is no register reads zero (R354). The mailboxes, the MSI-X table and the PBA read in any size (Table 15.7). In
D3hot a read ends in Unsupported Request, with the link down none arrives, and during a Function Level Reset BAR 0 gives ALIVE
and else zero (R367). A completion carries its request's attributes (R361). A read of the expansion ROM gives the on-chip
copy below 1 MiB and, while firmware is programmed, zeros beyond it (R351); with the ROM disabled nothing answers it.
Configuration space gives the type 0 header (R346), once the device is READY (R369). Reads that latch (Tables 8.8, 11.8 and
11.9): the low half of an engine's counter latches its high half; IU_RES_VALUE_LO latches the rest of the current result. -/
def Obligations.RegisterReads : Prop :=
  (∀ (x : BitVec 26) (ra : BitVec 3) (n : Nat) (s : State),
     (∀ space, s.pcie.linkUp = false → exec (.rcRegisterRead ⟨space, x, ra⟩ n) s = .next s) ∧
     (∀ space, s.pcie.linkUp = true → Does (.rcRegisterRead ⟨space, x, ra⟩ n) s fun t => t.out.readAttr = ra) ∧
     (s.pcie.linkUp = true → s.pcie.d3hot = true →
       Does (.rcRegisterRead ⟨.bar0, x, ra⟩ n) s fun t => t.out.readUr = true ∧ t.regs = s.regs) ∧
     (s.pcie.linkUp = true → s.pcie.d3hot = false → s.pcie.flr = true →
       Does (.rcRegisterRead ⟨.bar0, x, ra⟩ n) s fun t => t.out.readUr = false ∧ t.regs = s.regs ∧
         t.out.readData = (if x.toNat = ALIVE then s.alive.setWidth 64 else 0) ∧ ∀ b ∈ t.out.readBytes, b = 0) ∧
     (s.pcie.linkUp = true → s.pcie.d3hot = false → s.pcie.flr = false → 0x10000 ≤ x.toNat → x.toNat < 0x100000 →
       Does (.rcRegisterRead ⟨.bar0, x, ra⟩ n) s fun t => t.out.readUr = false ∧ t.regs = s.regs ∧
         t.out.readBytes = (List.range (n / 8)).map fun k => s.bar0Byte (x.toNat + k)) ∧
     (s.pcie.linkUp = true → s.pcie.d3hot = false → s.pcie.flr = false → (x.toNat < 0x10000 ∨ 0x100000 ≤ x.toNat) →
       ((n ≠ 32 ∧ n ≠ 64 ∨ x.toNat % 4 ≠ 0) →
         Does (.rcRegisterRead ⟨.bar0, x, ra⟩ n) s fun t => t.out.readUr = false ∧ t.out.readData = 0 ∧ t.regs = s.regs) ∧
       (n = 32 → x.toNat % 4 = 0 →
         Does (.rcRegisterRead ⟨.bar0, x, ra⟩ n) s fun t => t.out.readUr = false ∧
           t.out.readData = (s.peek x.toNat (s.draw 32).1.toNat).setWidth 64 ∧
           (s.dieReachable x.toNat = true → t.reg x.toNat = s.reg x.toNat &&& ~~~BitVec.ofNat 32 (rcMask x.toNat)) ∧
           (∀ a, a ≠ x.toNat → t.reg a = s.reg a)) ∧
       (n = 64 → x.toNat % 4 = 0 → ∀ low high, low = s.readReg x.toNat → high = low.2.readReg (x.toNat + 4) →
         Does (.rcRegisterRead ⟨.bar0, x, ra⟩ n) s fun t => t.out.readUr = false ∧
           t.out.readData = BitVec.ofNat 64 (low.1.toNat + 2 ^ 32 * high.1.toNat) ∧ t.regs = high.2.regs ∧
           (∀ a, a ≠ x.toNat → a ≠ x.toNat + 4 → t.reg a = s.reg a)))) ∧
  (∀ (x : BitVec 26) (ra : BitVec 3) (n : Nat) (s : State), s.pcie.linkUp = true →
     (s.pcie.d3hot = false → s.romDecodes = true → (x.toNat % 2 ^ 24 + n / 8 ≤ 0x100000 ∨ s.power.fw.programming ≠ none) →
       Does (.rcRegisterRead ⟨.rom, x, ra⟩ n) s fun t => t.out.readUr = false ∧ t.regs = s.regs ∧
         t.out.readBytes = (List.range (n / 8)).map fun k =>
           if x.toNat % 2 ^ 24 + k < 0x100000 then s.pcie.rom.byte (x.toNat % 2 ^ 24 + k) else 0) ∧
     ((s.pcie.d3hot = true ∨ s.romDecodes = false) →
       Does (.rcRegisterRead ⟨.rom, x, ra⟩ n) s fun t => t.out.readUr = true ∧ t.out.readBytes = [] ∧ t.regs = s.regs) ∧
     (s.pwr = 0 → Does (.rcRegisterRead ⟨.config, x, ra⟩ n) s fun t => t.out.readOk = false ∧ t.out.readUr = false ∧ t.regs = s.regs) ∧
     (∀ v, s.pwr ≠ 0 → s.configWord (x.toNat % 4096 / 4 * 4) = some v →
       Does (.rcRegisterRead ⟨.config, x, ra⟩ n) s fun t => t.out.readOk = true ∧ t.out.readData = BitVec.ofNat 64 v ∧ t.regs = s.regs)) ∧
  (∀ s : State, s.pcie.linkUp = true → s.pcie.d3hot = false → s.pcie.flr = false →
     (∀ n, Does (.loCounterRead (.ceIn n)) s fun t => (t.ce n).inHi = some (s.reg (CE n 0x08)) ∧
       t.out.readData = (s.reg (CE n 0x04)).setWidth 64) ∧
     (∀ n, Does (.loCounterRead (.ceOut n)) s fun t => (t.ce n).outHi = some (s.reg (CE n 0x10)) ∧
       t.out.readData = (s.reg (CE n 0x0C)).setWidth 64) ∧
     (∀ n, Does (.loCounterRead (.deOut n)) s fun t => (t.de n).outHi = some (s.reg (DE n 0x08)) ∧
       t.out.readData = (s.reg (DE n 0x04)).setWidth 64) ∧
     ∀ iu, Does (.iuResValueLoRead iu) s fun t =>
       (t.ival iu).latched = some ((List.range 9).map fun k => s.reg (IU iu (0x24 + 4 * k))))

/-- R442: without DIAG_UNLOCK a write of the register file is discarded, and during a Function Level Reset every write is
(R367). Unlocked, a sound 32-bit write of a capture die that answers, or of the hub, is counted and sets the RW bits and
clears the W1C bits that it carries; one that collides with firmware is only counted. A 64-bit write is two in order, of
which a half on a die that does not answer is discarded (R4). A watermark written so acts at once on its queue's HIGH (R238),
and a pin whose ENABLE is clear is idle (R135). R366: the host's writes of the MSI-X table store its words; of a vector's
control word only the mask bit. A vector that is unmasked then has no message left pending. Mailbox memory takes bytes of any
size in what the host writes of it, and none while OWNER is 1 (Table 14.1, R322; log entry 106). The expansion ROM discards
writes (R351). Configuration space takes Memory Space Enable and the BARs, whose low bits stay zero (R346). -/
def Obligations.RegisterWrites : Prop :=
  (∀ (x : BitVec 26) (ra : BitVec 3) (v : DWord) (a : WriteAttr) (collides : Bool) (s : State),
     (∀ space, s.pcie.linkUp = false → exec (.registerWrite ⟨space, x, ra⟩ v a collides) s = .next s) ∧
     (s.pcie.flr = true → s.pcie.d3hot = false → a.poisoned = false →
       exec (.registerWrite ⟨.bar0, x, ra⟩ v a collides) s = .next s) ∧
     ((s.pcie.d3hot = true ∨ a.poisoned = true) →
       Does (.registerWrite ⟨.bar0, x, ra⟩ v a collides) s fun t => t.regs = s.regs ∧ t.pcie.msix = s.pcie.msix ∧ t.mbx = s.mbx) ∧
     (s.pcie.linkUp = true → s.pcie.d3hot = false → a.poisoned = false →
       (x.toNat < 0x10000 ∨ 0x30000 ≤ x.toNat ∧ x.toNat < 0x80000 ∨ 0x88000 ≤ x.toNat) →
       (s.unlocked = false ∨ x.toNat % 4 ≠ 0 ∨ x.toNat < 0x100000 ∨ 0x3000000 ≤ x.toNat ∨ (a.bits ≠ 32 ∧ a.bits ≠ 64) ∨
         s.dieReachable x.toNat = false ∧ (a.bits = 32 ∨ s.dieReachable (x.toNat + 4) = false)) →
       exec (.registerWrite ⟨.bar0, x, ra⟩ v a collides) s = .next s) ∧
     (∀ s1 sp, s.pcie.linkUp = true → s.pcie.d3hot = false → s.pcie.flr = false → a.poisoned = false → 0x100000 ≤ x.toNat → x.toNat < 0x3000000 →
       s.unlocked = true → x.toNat % 4 = 0 → s.dieReachable x.toNat = true → s1 = s.addRegF HUB_RF_STATE 16 16 1 →
       regSpec x.toNat = some sp →
       (collides = true → (a.bits = 32 ∨ a.bits = 64) → exec (.registerWrite ⟨.bar0, x, ra⟩ v a collides) s = .next s1) ∧
       (collides = false → a.bits = 32 → ¬ (0x200000 ≤ x.toNat ∧ x.toNat < 0x210000 ∧ x.toNat % 0x1000 = 0x100) →
         (∀ q < 5, x.toNat ≠ HUB_Q q 0) →
         Does (.registerWrite ⟨.bar0, x, ra⟩ v a collides) s fun t =>
           t.reg x.toNat = ((s1.reg x.toNat &&& ~~~BitVec.ofNat 32 sp.rw) ||| (v.setWidth 32 &&& BitVec.ofNat 32 sp.rw)) &&&
             ~~~(v.setWidth 32 &&& BitVec.ofNat 32 sp.w1c) ∧
           (∀ b, b ≠ x.toNat → t.reg b = s1.reg b) ∧
           ∀ k < 4, x.toNat = HUB_TOUT_CTL k → t.regBit x.toNat 17 = false → t.tout k = ToutDyn.init) ∧
       (∀ q : Fin 5, collides = false → a.bits = 32 → x.toNat = HUB_Q q 0 →
         Does (.registerWrite ⟨.bar0, x, ra⟩ v a collides) s fun t =>
           t.reg x.toNat = (s1.reg x.toNat &&& ~~~BitVec.ofNat 32 sp.rw) ||| (v.setWidth 32 &&& BitVec.ofNat 32 sp.rw) ∧
           t.regBit (HUB_Q q 0x14) 1 =
             (if t.regF x.toNat 0 16 ≤ (s.queue q).occ then true
              else if (s.queue q).occ ≤ t.regF x.toNat 16 16 then false else s.regBit (HUB_Q q 0x14) 1) ∧
           ∀ b, b ≠ x.toNat → b ≠ HUB_Q q 0x14 → t.reg b = s1.reg b) ∧
       (∀ ch : Fin 16, collides = false → a.bits = 32 → x.toNat = MC_TRN_CTL ch → bit (v.setWidth 32) 0 = true →
         s1.regBit x.toNat 5 = false →
         Does (.registerWrite ⟨.bar0, x, ra⟩ v a collides) s fun t => t.regBit x.toNat 5 = true ∧ t.regBit x.toNat 6 = false ∧
           (t.chan ch).sweeping = true ∧ ∀ k < 24, t.reg (MC_TRN_ERR ch k) = 0) ∧
       (collides = false → a.bits = 64 →
         exec (.registerWrite ⟨.bar0, x, ra⟩ v a collides) s =
           .next (if x.toNat + 4 < 0x3000000 ∧ s.dieReachable (x.toNat + 4) = true
             then (s1.hostWrite x.toNat (v.setWidth 32)).hostWrite (x.toNat + 4) ((v >>> 32).setWidth 32)
             else s1.hostWrite x.toNat (v.setWidth 32))))) ∧
  (∀ (x : BitVec 26) (ra : BitVec 3) (v : DWord) (a : WriteAttr) (collides : Bool) (s : State) (i : Nat), s.pcie.linkUp = true →
     s.pcie.d3hot = false → s.pcie.flr = false → a.poisoned = false → a.bits = 32 → x.toNat = 0x80000 + 4 * i → i < 8192 →
     Does (.registerWrite ⟨.bar0, x, ra⟩ v a collides) s fun t => t.regs = s.regs ∧
       t.pcie.msixWord i = (if i % 4 = 3 then BitVec.ofNat 32 (v.toNat % 2) else v.setWidth 32) ∧
       (∀ j, j ≠ i → t.pcie.msixWord j = s.pcie.msixWord j) ∧
       ∀ k ∈ s.pcie.pba, t.pcie.vectorMasked k = false → MayIssue s → DmaOut.msix k ∈ t.pcie.sent ∧ k ∉ t.pcie.pba) ∧
  (∀ (x : BitVec 26) (ra : BitVec 3) (v : DWord) (a : WriteAttr) (collides : Bool) (s : State) (m : Fin 32) (off n : Nat),
     s.pcie.linkUp = true → s.pcie.d3hot = false → s.pcie.flr = false → a.poisoned = false → n = min 8 (a.bits / 8) → x.toNat = 0x10000 + 4096 * m.val + off → off + n ≤ 4096 →
     off < 4096 → Does (.registerWrite ⟨.bar0, x, ra⟩ v a collides) s fun t => t.regs = s.regs ∧ (∀ k, k ≠ m.val → t.box k = s.box k) ∧
       ((s.box m).owner = true → t.box m = s.box m) ∧
       ((s.box m).owner = false → ∀ j < 4096, (t.box m).bytes.getD j 0 =
         if off ≤ j ∧ j < off + n ∧ (j < 0x20 ∨ 0x40 ≤ j) then (leBytes n v.toNat).getD (j - off) 0 else (s.box m).bytes.getD j 0)) ∧
  ∀ (x : BitVec 26) (ra : BitVec 3) (v : DWord) (a : WriteAttr) (collides : Bool) (s : State), s.pcie.linkUp = true →
     Does (.registerWrite ⟨.rom, x, ra⟩ v a collides) s (fun t => t.regs = s.regs ∧ t.mbx = s.mbx ∧ t.pcie.rom = s.pcie.rom) ∧
     (s.pwr ≠ 0 → x.toNat % 4096 / 4 * 4 = 0x04 → Does (.registerWrite ⟨.config, x, ra⟩ v a collides) s fun t =>
       t.pcie.memSpace = v.getLsbD 1 ∧ t.regs = s.regs) ∧
     (s.pwr ≠ 0 → x.toNat % 4096 / 4 * 4 = 0x10 → Does (.registerWrite ⟨.config, x, ra⟩ v a collides) s fun t =>
       t.pcie.bar0 = s.pcie.bar0 >>> 32 <<< 32 ||| (v &&& 0xFC000000) ∧ t.regs = s.regs) ∧
     (s.pwr ≠ 0 → x.toNat % 4096 / 4 * 4 = 0x30 → Does (.registerWrite ⟨.config, x, ra⟩ v a collides) s fun t =>
       t.pcie.romBar = v.setWidth 32 &&& 0xFF000001 ∧ t.regs = s.regs)

/-- MAP_WINDOW (R357, R359): an entry outside its channel, or of a retired one, refuses all; otherwise the window's table is
staged and the command waits. The swap puts the table in force under the next mapping generation and answers it. -/
def Obligations.WindowMapping : Prop :=
  (∀ (m : Fin 32) (s : State) (img : MbImage), Running s m img → img.code = 0x0080 →
    ((∃ k < mapCount img.payload, s.entryRefusal k (mapEntry img.payload k) ≠ none) →
      Does (.mapWindow m) s fun t => t.pcie = s.pcie ∧ Refused t m) ∧
    ((∀ k < mapCount img.payload, s.entryRefusal k (mapEntry img.payload k) = none) →
      Does (.mapWindow m) s fun t => t.pcie.entries = s.pcie.entries ∧ (t.box m).ready = none ∧
        t.pcie.stagedWindows.find? (·.1 == mapWindow img.payload) =
          some (mapWindow img.payload, some m.val, s.stagedTable img.payload))) ∧
  (∀ (w : Fin 64) (s : State), s.pcie.stagedWindows.find? (·.1 == w.val) = none → exec (.windowTableSwap w) s = .next s) ∧
  ∀ (w : Fin 64) (s : State) (who : Option Nat) (tbl : Tbl Word), s.pcie.stagedWindows.find? (·.1 == w.val) = some (w.val, who, tbl) →
    Tbl.sorted tbl = true → (∀ e ∈ tbl, e.1 / 512 = w.val) →
    Does (.windowTableSwap w) s fun t =>
      (∀ k, Tbl.getD t.pcie.entries k 0 = if k / 512 = w.val then Tbl.getD tbl k 0 else Tbl.getD s.pcie.entries k 0) ∧
      t.pcie.stagedWindows.find? (·.1 == w.val) = none ∧
      t.reg (PCI_BAR2_GEN w) = s.reg PCI_BAR2_GEN_NEXT + 1 ∧ t.reg PCI_BAR2_GEN_NEXT = s.reg PCI_BAR2_GEN_NEXT + 1 ∧
      ∀ (m : Fin 32) (img : MbImage), who = some m.val → Running s m img → img.code = 0x0080 →
        AnswersOk t m (leBytes 4 (s.reg PCI_BAR2_GEN_NEXT + 1).toNat)

/-- A read through BAR 2 (R358): bytes of the page that its entry maps, zeros where it was never written (R274); a page of a
frozen channel, or a written one that fails its code, comes poisoned and is counted; one of a channel that is retrained or in
self-refresh waits (R290, R294); an invalid entry is an Unsupported Request, counted with its offset. A write through BAR
2 (R358, Table 15.9) counts only with DIAG_UNLOCK: its bytes go to the page, and the first one of a mapping generation is
recorded. Otherwise it is counted as dropped. -/
def Obligations.Bar2Access : Prop :=
  (∀ (off : BitVec 36) (len n : Nat) (ask : ReadAsk) (s : State), n = min len (4096 - off.toNat % 4096) →
     (s.pcie.linkUp = false → exec (.bar2Read off len ask) s = .next s) ∧
     (s.pcie.linkUp = true → s.pcie.d3hot = true →
       Does (.bar2Read off len ask) s fun t => t.out.readUr = true ∧ t.out.readAttr = ask.attr ∧ t.regs = s.regs) ∧
     (s.pcie.linkUp = true → s.pcie.d3hot = false →
       (entryValid (s.bar2Entry off) = false → Does (.bar2Read off len ask) s fun t => t.out.readUr = true ∧ Counted s t PCI_BAR2_UR ∧
         t.reg PCI_BAR2_UR_ADDR_LO = BitVec.ofNat 32 off.toNat ∧ t.reg PCI_BAR2_UR_ADDR_HI = BitVec.ofNat 32 (off.toNat / 2 ^ 32)) ∧
       (∀ st, st = s.mcState (entryChan (s.bar2Entry off)) → entryValid (s.bar2Entry off) = true →
         ((st = 2 ∨ st = 5) → Does (.bar2Read off len ask) s fun t =>
           t.pcie.bar2Waits = s.pcie.bar2Waits ++ [(off, n, ask)] ∧ t.regs = s.regs ∧ t.out.readBytes = s.out.readBytes) ∧
         ((st = 3 ∨ s.pcie.bar2Waits = [] ∧ st ≠ 2 ∧ st ≠ 5 ∧ ask.eccFail = true ∧ s.pageChecked (entryPage (s.bar2Entry off)) = true) →
           Does (.bar2Read off len ask) s fun t => t.out.readPoisoned = true ∧ t.out.readBytes = List.replicate n 0xFF ∧
             t.out.readAttr = ask.attr ∧ Counted s t PCI_BAR2_POISON) ∧
         (st ≠ 2 → st ≠ 3 → st ≠ 5 → (ask.eccFail = false ∨ s.pageChecked (entryPage (s.bar2Entry off)) = false) →
           Does (.bar2Read off len ask) s fun t => t.out.readUr = false ∧ t.out.readPoisoned = false ∧ t.regs = s.regs ∧
             t.out.readAttr = ask.attr ∧
             (s.pageOpen (pageOf (bar2Ma (s.bar2Entry off) off)) = false →
               t.out.readBytes = if s.mem.written.contains (pageOf (bar2Ma (s.bar2Entry off) off)) then
                 s.memBytes (bar2Ma (s.bar2Entry off) off) n else List.replicate n 0))))) ∧
  (∀ (off : BitVec 36) (data : List Byte) (poisoned : Bool) (s : State),
     (s.pcie.linkUp = false → exec (.bar2Write off data poisoned) s = .next s) ∧
     ((s.pcie.d3hot = true ∨ poisoned = true) →
       Does (.bar2Write off data poisoned) s fun t => t.mem = s.mem ∧ t.regs = s.regs) ∧
     (s.pcie.linkUp = true → s.pcie.d3hot = false → poisoned = false →
       (entryValid (s.bar2Entry off) = false → Does (.bar2Write off data poisoned) s fun t => Counted s t PCI_BAR2_UR ∧ t.mem = s.mem) ∧
       (entryValid (s.bar2Entry off) = true → s.unlocked = false →
         Does (.bar2Write off data poisoned) s fun t => Counted s t PCI_BAR2_WDROP ∧ t.mem = s.mem) ∧
       (entryValid (s.bar2Entry off) = true → s.unlocked = true → s.mcState (entryChan (s.bar2Entry off)) ≠ 3 →
         Does (.bar2Write off data poisoned) s fun t =>
           t.mem = (s.memPut (bar2Ma (s.bar2Entry off) off) (data.take (4096 - off.toNat % 4096))).mem ∧
           ((s.reg (PCI_BAR2_GEN (bar2Window off))).toNat ∉ s.pcie.bar2Logged →
             t.ledger.reqs.length = s.ledger.reqs.length + 1)) ∧
       (entryValid (s.bar2Entry off) = true → s.unlocked = true → s.mcState (entryChan (s.bar2Entry off)) = 3 →
         Does (.bar2Write off data poisoned) s fun t => t.mem = s.mem)))

/-! ### The endpoint (chapter 15) -/

/-- Bus Master Enable (R366, Table 15.13). When it becomes clear the outstanding reads are given up, and a command that waits
on one ends with DMA_ERROR. When it is set what was held leaves in order, and descriptors not yet completed are read again.
Completions (R364): the parts of a read are put together, and with the last one the data arrive for their command; a failed one
ends it with DMA_ERROR; one that no read waits for is counted, and is an Unexpected Completion unless the device had given the
read up. A read that has been out for the Completion Timeout Value (R363) is counted, in AER, and ends its command. -/
def Obligations.DeviceRequests : Prop :=
  ((∀ s : State, s.pcie.busMaster = false → exec .busMasterEnableCleared s = .next s) ∧
   (∀ s : State, s.pcie.busMaster = true →
     Does .busMasterEnableCleared s fun t => t.pcie.busMaster = false ∧ t.pcie.outstanding = [] ∧
       t.pcie.queued = [] ∧
       t.pcie.abandoned = s.pcie.abandoned ++ s.pcie.outstanding.map (·.tag) ∧ Counted s t PCI_BME_CLEARS ∧
       ∀ (m : Fin 32) (img : MbImage) (r : DevRead), r ∈ s.pcie.outstanding ++ s.pcie.queued → r.owner = .command m →
         (s.box m).taken = some img → (s.box m).started = true → (s.box m).ready = none → Refuses t m 0x11 0) ∧
   (∀ s : State, (s.pcie.busMaster = true ∨ s.pcie.linkUp = false) → exec .busMasterEnableSet s = .next s) ∧
   ∀ s : State, s.pcie.busMaster = false → s.pcie.linkUp = true →
     Does .busMasterEnableSet s fun t => t.pcie.busMaster = true ∧
       (s.pcie.d3hot = false → t.pcie.held = [] ∧ t.pcie.sent = s.pcie.sent ++ s.pcie.held ++
         (s.pcie.pba.filter fun v => !s.pcie.vectorMasked v).map .msix) ∧
       ∀ i ∈ s.streams.keys, (t.stream i).descFetched = (s.stream i).firstOpen) ∧
  (∀ (tag : Nat) (st : CplStatus) (data : List Byte) (s : State),
     (s.pcie.outstanding.find? (·.tag == tag) = none →
       exec (.completionTimeout tag) s = .next s ∧
       (Does (.completionReceived tag st data) s fun t => Counted s t PCI_LATE_CPL ∧ t.mbx = s.mbx ∧
         (tag ∈ s.pcie.abandoned → t.pcie.aer = s.pcie.aer ∧ t.pcie.abandoned = s.pcie.abandoned.erase tag) ∧
         (tag ∉ s.pcie.abandoned → t.pcie.aer.getLsbD 16 = true))) ∧
     (∀ r, s.pcie.outstanding.find? (·.tag == tag) = some r → s.pcie.queued = [] →
       (s.now < r.since + usFt * timeoutUs s.pcie.completionTimeout.toNat → exec (.completionTimeout tag) s = .next s) ∧
       (r.since + usFt * timeoutUs s.pcie.completionTimeout.toNat ≤ s.now →
        Does (.completionTimeout tag) s fun t => Counted s t PCI_CTO ∧ t.pcie.aer.getLsbD 14 = true ∧
         t.pcie.outstanding = s.pcie.outstanding.filter (fun x => x.tag ≠ tag ∧ x.owner ≠ r.owner) ∧
         (∀ (m : Fin 32) (img : MbImage), r.owner = .command m → (s.box m).taken = some img → (s.box m).started = true →
           (s.box m).ready = none → Refuses t m 0x10 0) ∧
         ∀ i f n, r.owner = .descriptors i f n → s.hasStream i = true → (t.stream i).dmaFailed = true) ∧
       (Does (.completionReceived tag st data) s fun t =>
         t.pcie.outstanding = s.pcie.outstanding.filter (fun x => x.tag ≠ tag ∧ (st = .success ∨ x.owner ≠ r.owner)) ∧
         (∀ (m : Fin 32) parts, r.owner = .command m → st = .success →
           parts = insertPart (r.owner, r.off, padTo r.len data) s.pcie.parts →
           ((∀ x ∈ s.pcie.outstanding, x.owner = r.owner → x.tag = tag) →
             t.pcie.delivered = s.pcie.delivered ++ [(.command m, (parts.filter (·.1 == r.owner)).flatMap (·.2.2))]) ∧
           ((∃ x ∈ s.pcie.outstanding, x.owner = r.owner ∧ x.tag ≠ tag) →
             t.pcie.delivered = s.pcie.delivered ∧ t.pcie.parts = parts)) ∧
         (∀ (m : Fin 32) (img : MbImage), r.owner = .command m → st ≠ .success → (s.box m).taken = some img →
           (s.box m).started = true → (s.box m).ready = none → Refuses t m 0x11 0) ∧
         ∀ i f n, r.owner = .descriptors i f n → s.hasStream i = true →
           (st ≠ .success → (t.stream i).dmaFailed = true) ∧
           (st = .success → n ≠ 0 → (∀ x ∈ s.pcie.outstanding, x.owner = r.owner → x.tag = tag) →
             (t.stream i).descFetched = (f + n) % 2 ^ 32))))

/-- The link (R345, R368, Table 15.15): going down clears Bus Master Enable and counts, and capture goes on; coming up and
retraining show in PCI_LINK; a change of rate or width is recorded. When the hold expires the device disarms and leaves for
STANDBY. -/
def Obligations.LinkEvents : Prop :=
  (∀ s : State, s.pcie.linkUp = true →
    Does .linkDown s fun t => t.pcie.linkUp = false ∧ t.pcie.busMaster = false ∧ t.regBit PCI_LINK 10 = false ∧
      Counted s t PCI_LINK_DOWNS ∧ t.time = s.time ∧ t.streams = s.streams) ∧
  (∀ s : State, s.pcie.linkUp = false → exec .linkDown s = .next s) ∧
  (∀ (rate : BitVec 4) (width : BitVec 5) (flit : Bool) (s : State),
    (s.pcie.linkUp = false →
      Does (.linkUp rate width flit) s fun t => t.pcie.linkUp = true ∧ t.regF PCI_LINK 0 4 = rate.toNat ∧
        t.regF PCI_LINK 4 5 = width.toNat ∧ t.regBit PCI_LINK 9 = flit ∧ t.regBit PCI_LINK 10 = true ∧
        t.pcie.busMaster = s.pcie.busMaster) ∧
    (s.pcie.linkUp = true → exec (.linkUp rate width flit) s = .next s ∧
      (Does (.linkRetrain rate width flit) s fun t => t.regF PCI_LINK 0 4 = rate.toNat ∧ t.regF PCI_LINK 4 5 = width.toNat ∧
        t.regBit PCI_LINK 9 = flit ∧ t.weaver.egress = s.weaver.egress ∧
        (t.ledger.reqs = s.ledger.reqs ↔ (s.regF PCI_LINK 0 4 = rate.toNat ∧ s.regF PCI_LINK 4 5 = width.toNat)))) ∧
    (s.pcie.linkUp = false → exec (.linkRetrain rate width flit) s = .next s)) ∧
  (∀ s : State, s.pcie.linkUp = false → (s.pwr = 1 ∨ s.pwr = 2) →
    Does .linkHoldExpiry s fun t => t.time.armed = false ∧ t.regBit PWR_STATE 4 = true ∧ t.regF PWR_STATE 5 3 = 3) ∧
  ∀ s : State, (s.pcie.linkUp = true ∨ (s.pwr ≠ 1 ∧ s.pwr ≠ 2)) → exec .linkHoldExpiry s = .next s

/-- R367, Table 15.14: Function Level Reset ends capture without a record of it, abandons every command, unbinds the
notification ring, destroys every object with the configuration, and clears the windows; ALIVE shows it. The epoch number stays
(R314). With the next beat it has ended: from RUN the device is in READY (the model's choice of instant, log entry 69). -/
def Obligations.FunctionLevelReset : Prop :=
  (∀ s : State, Does .functionLevelReset s fun t =>
    t.time.armed = false ∧ t.weaver.created = [] ∧ t.weaver.staged = Intent.empty ∧ t.weaver.committed = Intent.empty ∧
      t.mbx.order = [] ∧ (∀ m, (t.box m).owner = false ∧ (t.box m).taken = none ∧ (t.box m).ready = none) ∧
      t.regBit MB_NTF_CFG 0 = false ∧ t.pcie.busMaster = false ∧ t.pcie.d3hot = false ∧ t.pcie.outstanding = [] ∧
      t.pcie.held = [] ∧ t.pcie.entries = [] ∧ t.unlocked = false ∧ t.power.fw.staging = none ∧
      t.reg HUB_EPOCH = s.reg HUB_EPOCH ∧ Counted s t PCI_FLRS ∧ t.pcie.flr = true ∧ fld t.alive 12 4 = 4) ∧
  ∀ s : State, s.power.powered = true → s.power.perst = false → s.power.stopped = false → s.power.hotDie = none → s.pcie.flr = true →
    Does .beat s fun t => t.pcie.flr = false ∧ t.pwr = if s.pwr = 2 then 1 else s.pwr

/-- R365, R409: a parity fault of the endpoint sets its AER bit and asks for a record. The first error that its mask leaves
gives the header log, and it sends a message of its severity where the host has enabled that. Clearing PME_Status releases
WAKE_N. -/
def Obligations.EndpointErrors : Prop :=
  (∀ (h : List Byte) (s : State),
    Does (.uncorrectableInternalError h) s fun t => t.pcie.aer.getLsbD 22 = true ∧
      t.pcie.headerLog = (if bit (s.pcie.cfgReg 0x108) 22 = false ∧ s.pcie.aer &&& ~~~(s.pcie.cfgReg 0x108) = 0 then padTo 16 h
        else s.pcie.headerLog) ∧
      (∀ k, k = (if bit (s.pcie.cfgReg 0x10C) 22 then ErrKind.fatal else ErrKind.nonFatal) →
        t.pcie.sent = if bit (s.pcie.cfgReg 0x108) 22 = false ∧ s.pcie.linkUp = true ∧ s.pcie.signals k false = true then
          s.pcie.sent ++ [.error k] else s.pcie.sent) ∧
      (∀ i, i ≠ 22 → t.pcie.aer.getLsbD i = s.pcie.aer.getLsbD i) ∧
      t.ledger.reqs = s.ledger.reqs ++
        [{ type := 0x001C, severity := 4, unit := noUnit, trigger := 0x12, body := padTo 16 h, fromSeq := false }]) ∧
  ∀ s : State, Does .pmeStatusClear s fun t => t.pcie.pmeStatus = false ∧ t.station.wakeN = false ∧ t.pcie.pmeEn = s.pcie.pmeEn

/-! ### Power, clocks, start-up (chapters 1 and 18) -/

/-- Resets (R416, R433, R455): PERST_N, a brown-out, power-up and a die at its trip point leave the device in reset with its
outputs inactive, and PERST_N clears the count of power failures (R12); start-up waits for every die to cool to 100 °C. Power
failure (R381, R431, R432): it is counted and stops the cores; released before 150 µs they go on, and from then on the device
resets. Either way the first record after it is POWER_FAIL_CLEARED. -/
def Obligations.ResetsAndPowerFailure : Prop :=
  ((∀ s : State, s.power.powered = true → s.power.perst = false →
     Does .perstNAssert s fun t => InReset s t ∧ t.power.perst = true ∧ t.power.outputsOff = true ∧ t.power.powered = true ∧
       t.reg PWR_FAILS = 0) ∧
   (∀ s : State, (s.power.powered = false ∨ s.power.perst = true) → exec .perstNAssert s = .next s) ∧
   (∀ s : State, s.power.powered = true →
     Does .brownOut s fun t => InReset s t ∧ t.power.powered = false ∧ t.power.outputsOff = true) ∧
   (∀ s : State, s.power.powered = false → exec .brownOut s = .next s ∧
     (Does .powerUp s fun t => InReset s t ∧ t.power.powered = true ∧ t.power.perst = true ∧ t.power.hotDie = none)) ∧
   (∀ s : State, s.power.powered = true → exec .powerUp s = .next s) ∧
   (∀ (d : Die) (temp : Half) (s : State), s.power.powered = true → s.power.hotDie = none → (s.halfPart = true → d ≠ .cd1) →
     Does (.thermalTrip d temp) s fun t => InReset s t ∧ t.power.hotDie = some d ∧ t.power.outputsOff = true) ∧
   (∀ (d : Die) (temp : Half) (s : State),
     (s.power.powered = false ∨ s.power.hotDie ≠ none ∨ (s.halfPart = true ∧ d = .cd1)) → exec (.thermalTrip d temp) s = .next s) ∧
   (∀ (hd cd0 cd1 : Half) (s : State), s.power.hotDie = none → exec (.thermalRelease hd cd0 cd1) s = .next s) ∧
   ∀ (hd cd0 cd1 : Half) (s : State), s.power.hotDie ≠ none →
     Does (.thermalRelease hd cd0 cd1) s fun t => t.power.tempHd = hd ∧ t.power.tempCd0 = cd0 ∧ t.power.tempCd1 = cd1 ∧
       (t.power.hotDie = none ↔ (hd.toInt ≤ 800 ∧ cd0.toInt ≤ 800 ∧ (s.halfPart = true ∨ cd1.toInt ≤ 800)))) ∧
  ((∀ s : State, s.power.powered = true → s.power.pwrFail = false →
     Does .pwrFailNAssert s fun t => t.power.pwrFail = true ∧ Counted s t PWR_FAILS ∧ t.time = s.time ∧
       (s.power.perst = false → s.power.hotDie = none → t.power.stopped = true)) ∧
   (∀ s : State, (s.power.powered = false ∨ s.power.pwrFail = true) → exec .pwrFailNAssert s = .next s) ∧
   (∀ (us : Word) (s : State), s.power.powered = true → s.power.pwrFail = true →
     Does (.pwrFailNDeassert us) s fun t => t.power.pwrFail = false ∧
       (∃ r rest, t.ledger.reqs = r :: rest ∧ r.type = 0x0004 ∧ r.body = leBytes 4 us.toNat ++ leBytes 4 0) ∧
       (s.power.stopped = true → t.power.stopped = false) ∧
       (s.power.stopped = true → us.toNat < 150 → t.time = s.time ∧ t.regs = s.regs) ∧
       (s.power.stopped = true → 150 ≤ us.toNat → InReset s t)) ∧
   ∀ (us : Word) (s : State), (s.power.powered = false ∨ s.power.pwrFail = false) → exec (.pwrFailNDeassert us) s = .next s)

/-- Start-up (R342, R428 to R430, Table 18.6): it runs from a reset that has ended, and the slot that starts is the pending
one if it is valid, else the valid one of higher version; valid means that signature and digest are right and ROLLBACK is not
below the counter that the metadata copies hold (R371). No valid slot, no lock, fewer than two channels, a failed core, cluster
or mailbox, and lateness are failures with their codes; once the ledger is mounted a failure is recorded, and a pending image
that was started is not started again. Otherwise the device is READY with its link up and asks for START_UP. -/
def Obligations.StartUp : Prop :=
  (∀ (o : StartOutcome) (s : State), (s.power.powered = false ∨ s.power.hotDie ≠ none ∨ s.pwr ≠ 0) →
    exec (.startUp o) s = .next s) ∧
  ∀ (o : StartOutcome) (s : State) (rollback : Word) (boot : Option (Nat × List Byte × Tbl Byte)), s.power.powered = true →
    s.power.hotDie = none → s.pwr = 0 →
    rollback = (match ({ s.ledger with
        metaA := { s.ledger.metaA with bad := s.ledger.metaA.bad.filter (fun i => !o.metaBadA.contains i) ++ o.metaBadA }
        metaB := { s.ledger.metaB with bad := s.ledger.metaB.bad.filter (fun i => !o.metaBadB.contains i) ++ o.metaBadB } } :
        LedgerState).metaOf .rollback with
      | some c => c.rollback
      | none => BitVec.ofNat 32 (([0, 1].filterMap fun k => (s.power.fw.verified o k).map fun m => fwRollback m.1).foldl max 0)) →
    boot = (s.modLedger fun l => { l with rollback := rollback }).bootSlot o (s.draw 1).1.toNat →
    (boot = none → Does (.startUp o) s fun t => t.pwr = 7 ∧ t.regF PWR_STATE 8 4 = 1) ∧
    ∀ k m, boot = some (k, m) →
      (o.pllLock = false → Does (.startUp o) s fun t => t.pwr = 7 ∧ t.regF PWR_STATE 8 4 = 2) ∧
      (o.pllLock = true →
        Does (.startUp o) s fun t => t.power.perst = false ∧ t.power.outputsOff = false ∧ t.pcie.linkUp = true ∧
          t.power.fw.running = k ∧ t.power.fw.version = BitVec.ofNat 32 (fwVersion m.1) ∧
          (t.healthyChans.length < 2 → t.pwr = 7 ∧ t.regF PWR_STATE 8 4 = 3) ∧
          (2 ≤ t.healthyChans.length → (o.coreFail = true ∨ ∃ u ∈ o.badUnits, uaKind u ∈ [0x13, 0x14, 0x16]) →
            t.pwr = 7 ∧ t.regF PWR_STATE 8 4 = 4) ∧
          (2 ≤ t.healthyChans.length → o.coreFail = false → (∀ u ∈ o.badUnits, uaKind u ∉ [0x13, 0x14, 0x16]) → o.late = true →
            t.pwr = 7 ∧ t.regF PWR_STATE 8 4 = 5) ∧
          (2 ≤ t.healthyChans.length → o.coreFail = false → (∀ u ∈ o.badUnits, uaKind u ∉ [0x13, 0x14, 0x16]) → o.late = false →
            t.pwr = 1 ∧ ∃ r ∈ t.ledger.reqs, r.type = 0x0001 ∧ r.unit = noUnit) ∧
          (t.pwr = 7 → (∃ r ∈ t.ledger.reqs, r.type = 0x0002) ∧
            (s.power.fw.pending = some k → k ∈ t.power.fw.bad ∧ t.power.fw.pending = some k)))

/-- The root PLL's reference (R425 to R427, Table 18.5), while it is watched: loss and a bad reference end lock in holdover,
and count; a qualified one can be locked to, which ends holdover; 10 s of holdover lead to steering. Time (R7, R8, R22, R23):
a sample slot counts 256 ft in every running counter; at the end of the count the wrap does, and the epoch number rises; a
session-epoch pulse loads all three counters while disarmed. Operating seconds and the ALIVE beat count with power; each
second is written to one of the two metadata copies (R387; which one is the model's choice, log entry 108), and a training
that is a day old makes its channel due (R288). -/
def Obligations.ClocksAndTime : Prop :=
  (∀ s : State, s.refWatched = true →
     (Does .refLost s fun t => t.tb = (if s.tb = 0 then 1 else s.tb) ∧ t.regBit CLK_STATUS 2 = false ∧
       t.regBit CLK_STATUS 3 = false ∧ t.reg CLK_REF_PPB = 0x80000000 ∧ Counted s t CLK_REF_LOSTS ∧
       (s.tb = 0 → t.power.holdCause = some .lost ∧ t.time.tbHist = s.time.tbHist ++ [(s.now, 1)])) ∧
     (Does .refBad s fun t => t.tb = (if s.tb = 0 then 1 else s.tb) ∧ t.regBit CLK_STATUS 2 = true ∧
       t.regBit CLK_STATUS 3 = false ∧ t.regF CLK_STATUS 4 2 = s.regF CLK_STATUS 4 2 ∧ Counted s t CLK_REF_BADS ∧
       (s.tb = 0 → t.power.holdCause = some .bad)) ∧
     (∀ mhz ppb, Does (.refQualified mhz ppb) s fun t => t.tb = s.tb ∧ t.regBit CLK_STATUS 2 = true ∧ t.regBit CLK_STATUS 3 = true ∧
       t.regF CLK_STATUS 4 2 = (if mhz = 10 then 1 else 2) ∧ t.reg CLK_REF_PPB = ppb ∧ t.regBit CLK_STATUS 6 = decide (s.tb ≠ 0)) ∧
     (s.tb ≠ 0 → s.regBit CLK_STATUS 3 = true →
       Does .refLocked s fun t => t.tb = 0 ∧ t.power.holdCause = none ∧ Counted s t CLK_EVENTS) ∧
     ((s.tb = 0 ∨ s.regBit CLK_STATUS 3 = false) → exec .refLocked s = .next s) ∧
     (s.tb = 1 → Does .holdoverEnd s fun t => t.tb = 2 ∧ t.power.holdCause = none ∧ Counted s t CLK_EVENTS) ∧
     (s.tb ≠ 1 → exec .holdoverEnd s = .next s)) ∧
  (∀ s : State, s.refWatched = false → exec .refLost s = .next s ∧ exec .refBad s = .next s ∧ exec .refLocked s = .next s ∧
     exec .holdoverEnd s = .next s ∧ ∀ mhz ppb, exec (.refQualified mhz ppb) s = .next s) ∧
  ((∀ s : State, s.clocked = true → s.time.tsHd.toNat + 256 < 2 ^ 64 →
     Does .sampleSlot s fun t => t.time = { s.time with
       tsCd0 := s.time.tsCd0 + 256, tsCd1 := s.time.tsCd1 + 256, tsHd := s.time.tsHd + 256 }) ∧
   (∀ s : State, s.clocked = false → s.hubClocked = true → s.time.tsHd.toNat + 256 < 2 ^ 64 →
     exec .sampleSlot s = .next (s.modTime fun x => { x with tsHd := x.tsHd + 256 })) ∧
   (∀ s : State, s.clocked = true → 2 ^ 64 ≤ s.time.tsHd.toNat + 256 → Does .sampleSlot s fun t => t.time = s.time) ∧
   (∀ s : State, s.hubClocked = true → 2 ^ 64 ≤ s.time.tsHd.toNat + 256 →
     Does .timestampWrap s fun t => t.now = s.now + 256 ∧ t.time.tsEpoch = s.time.tsEpoch + 1 ∧ t.time.armed = s.time.armed ∧
       (s.asleep = true → t.time.tsCd0 = s.time.tsCd0 ∧ t.time.tsCd1 = s.time.tsCd1)) ∧
   (∀ s : State, (s.hubClocked = false ∨ s.time.tsHd.toNat + 256 < 2 ^ 64) → exec .timestampWrap s = .next s) ∧
   (∀ (v : DWord) (s : State),
     (s.time.armed = false → Does (.sessionEpochPulse v) s fun t => t.time.tsCd0 = v ∧ t.time.tsCd1 = v ∧ t.time.tsHd = v ∧
       t.time.syncOuts = s.time.syncOuts + 1 ∧ s.now < 2 ^ 64 * t.time.tsEpoch) ∧
     (s.time.armed = true → exec (.sessionEpochPulse v) s = .next s)) ∧
   (∀ s : State, s.power.powered = false → exec .operatingSecond s = .next s) ∧
   (∀ s : State, s.power.powered = true → Does .operatingSecond s fun t => t.reg LG_OP_SECONDS = s.reg LG_OP_SECONDS + 1 ∧
     (∀ c, c = (if (s.reg LG_OP_SECONDS + 1).toNat % 2 = 0 then t.ledger.metaA else t.ledger.metaB) →
       c.opSeconds = s.reg LG_OP_SECONDS + 1 ∧ MetaItem.opSeconds ∉ c.bad) ∧
     ∀ ch < 16, t.regBit (MC_STATUS ch) 7 = (s.regBit (MC_STATUS ch) 7 || ((s.mcState ch == 1 || s.mcState ch == 4) &&
       decide ((s.reg (MC_TRAIN_TIME ch)).toNat + 86400 ≤ (s.reg LG_OP_SECONDS + 1).toNat)))) ∧
   ∀ s : State, s.power.powered = true → s.power.perst = false → s.power.stopped = false → s.power.hotDie = none →
     Does .beat s fun t => t.regF ALIVE 0 12 = (s.regF ALIVE 0 12 + 1) % 4096)

/-! ### Fine lanes (chapter 2) -/

/-- R51 to R54: a comparator that is on takes its new output, unless the edge lies before its present settings. In a recording
lane the edge joins the open burst; a stamped edge at or after E is a FINE_EDGE, the stream's next record while it has room,
and moves E by the follow interval; any other opens a burst. R51, R56, R59: a burst that is due closes, is counted, and moves
E by twice the follow interval; a keepalive that is due is written; a full block closes. What is not due stays. -/
def Obligations.ComparatorsAndLosses : Prop :=
  (∀ (n : Fin 192) (c : Comp) (rise : Bool) (sclk taps : Nat) (second : Bool) (s : State),
     (s.compOn n c = false → exec (.comparatorEdge n c rise sclk taps second) s = .next s) ∧
     ∀ coarse t0, s.compOn n c = true → coarse = ((s.lane n).comp c).coarse → t0 = s.edgeStamp n sclk taps coarse second →
       Does (.comparatorEdge n c rise sclk taps second) s fun t =>
         ((s.lane n).comp c).from_ ≤ t0 → ((t.lane n).comp c).high = rise) ∧
  (∀ (n : Fin 192) (c : Comp) (rise : Bool) (sclk taps : Nat) (second : Bool) (s : State),
     ∀ coarse t0, s.compOn n c = true → coarse = ((s.lane n).comp c).coarse → t0 = s.edgeStamp n sclk taps coarse second →
       Does (.comparatorEdge n c rise sclk taps second) s fun t =>
         (s.time.armed = true → s.time.armTime ≤ t0 → s.lnStream n ≠ none → (s.lnMode n = 1 ∨ s.lnMode n = 2) →
           (∀ b, ((s.lane n).comp c).burst = some b →
             ((t.lane n).comp c).burst =
               some { b with count := b.count + 1, last := max b.last t0, lastCoarse := coarse } ∧
             ((t.lane n).comp c).e = ((s.lane n).comp c).e) ∧
           (((s.lane n).comp c).burst = none → ((s.lane n).comp c).e ≤ t0 → second = false →
             ((t.lane n).comp c).burst = none ∧ ((t.lane n).comp c).e = t0 + s.lnFollow n c ∧
               ∀ i, s.lnStream n = some i → (∀ cu < 8, s.cuEnabled cu = false) → s.isShed (objKey 1 i) = false →
                 (s.stream i).open_ ≠ [] → (s.lane n).levelDue = none →
                 needBase (s.stream i).baseTime (fineEdge n (isU c) rise coarse t0) = false →
                 (s.stream i).open_.length + 1 + (s.stream i).reserve < 512 →
                 (t.stream i).open_ = (s.stream i).open_ ++
                   (fineEdge n (isU c) rise coarse t0).placed (s.stream i).baseTime) ∧
           (((s.lane n).comp c).burst = none → (t0 < ((s.lane n).comp c).e ∨ second = true) →
             ((t.lane n).comp c).burst = some { first := t0, count := 1, last := t0, coarse := coarse, lastCoarse := coarse } ∧
             ((t.lane n).comp c).e = ((s.lane n).comp c).e))) ∧
  ((∀ (n : Fin 192) (c : Comp) (sclk t0 : Nat) (s : State), t0 = s.sessionTime (128 * sclk) →
     (s.time.armed = true → burstDue (s.lnFollow n c) ((s.lane n).comp c) t0 = true →
       Does (.burstClose n c sclk) s fun t => ((t.lane n).comp c).burst = none ∧
         ((t.lane n).comp c).e = t0 + 2 * s.lnFollow n c ∧ Counted s t (LN_BURSTS n)) ∧
     ((s.time.armed = false ∨ burstDue (s.lnFollow n c) ((s.lane n).comp c) t0 = false) →
       exec (.burstClose n c sclk) s = .next s)) ∧
   (∀ (n : Fin 192) (s : State),
     (s.lnStream n ≠ none → s.lnLive n = true → (s.lane n).lastRecord + 2 ^ 32 < s.slotEnd →
       Does (.levelKeepalive n) s fun t => (t.lane n).levelDue = none ∧ (t.lane n).lastRecord =
         max ((s.lane n).lastRecord + 2 ^ 32) (match (s.lane n).levelDue with | some x => x.2 | none => 0)) ∧
     ((s.lnStream n = none ∨ s.lnLive n = false ∨ s.slotEnd ≤ (s.lane n).lastRecord + 2 ^ 32) →
       exec (.levelKeepalive n) s = .next s)) ∧
   ∀ (n : Fin 192) (s : State),
     (∀ b, (s.lane n).block = some b → blockSamples ≤ b.samples.length →
       (∀ x ∈ b :: (s.lane n).full, ∀ at_ ∈ x.waiting, at_ ≤ s.now) →
       Does (.rawBlockClose n) s fun t => (t.lane n).block = none ∧ (t.lane n).full = []) ∧
     ((∀ b, (s.lane n).block = some b → b.samples.length < blockSamples) → (∀ x ∈ (s.lane n).full, x.waiting ≠ []) →
       Does (.rawBlockClose n) s fun t => t.lane n = s.lane n ∧ t.streams = s.streams))

/-- R44 to R46: loss of lock makes a comparator's stamps coarse, shows in LN_EVT and LN_STATUS, and puts the lane under test.
The test's pass, when it is no lasting error by R306, ends that, and counts where an error started the test (R307); its
failure retires the lane. R47: a threshold reading more than 8 mV off shows in LN_EVT, and the stake's free spare DAC takes
the comparator over; with the spare in use it waits. A sweep that passes frees the spare; one that fails leaves it in place
for good. R49, R50: a stake at a temperature more than 10 °C from the calibration point of a lane makes that lane CAL_DUE. A
calibration run sets CAL of each lane that passes, and retires each lane that fails a step. -/
def Obligations.LaneFaultsAndCalibration : Prop :=
  ((∀ (n : Fin 192) (c : Comp) (s : State),
     (s.compOn n c = false → exec (.lossOfLock n c) s = .next s) ∧
     (s.compOn n c = true → Does (.lossOfLock n c) s fun t => ((t.lane n).comp c).coarse = true ∧
       t.regBit (LN_EVT n) (compBit c) = true ∧ t.regBit (LN_STATUS n) (compBit c) = false ∧ t.regBit (LN_STATUS n) 6 = true ∧
       (s.isRetired (uLane n) = false → t.underTest (uLane n) = true))) ∧
   ∀ (n : Fin 192) (pass : Bool) (s : State),
     (s.underTest (uLane n) = false → exec (.tdcSelftestDone n pass) s = .next s) ∧
     (∀ x, s.weaver.tests.find? (·.unit = uLane n) = some x → x.classes = [3] → s.isRetired (uLane n) = false →
       s.lnRetired n = false →
       (pass = true → (x.byError = false ∨
           (s.weaver.transients.countP fun t => t.1 == uLane n && decide (s.opSeconds.toNat ≤ t.2 + transientWindow)) < 2) →
         Does (.tdcSelftestDone n pass) s fun t => t.underTest (uLane n) = false ∧ (t.lane n).l.coarse = false ∧
           (t.lane n).u.coarse = false ∧ t.regBit (LN_STATUS n) 6 = false ∧
           if x.byError then Counted s t HUB_TRANSIENTS else t.reg HUB_TRANSIENTS = s.reg HUB_TRANSIENTS) ∧
       (pass = false →
         Does (.tdcSelftestDone n pass) s fun t => t.underTest (uLane n) = false ∧ t.lnRetired n = true ∧
           t.isRetired (uLane n) = true ∧ Counted s t HUB_LASTING))) ∧
  ((∀ (n : Fin 192) (c : Comp) (mv : Int) (s : State),
     ((s.compOn n c = false ∨ (mv - s.threshold n c).natAbs ≤ 8) → exec (.dacReadback n c mv) s = .next s) ∧
     (s.compOn n c = true → 8 < (mv - s.threshold n c).natAbs →
       Does (.dacReadback n c mv) s fun t => t.regBit (LN_EVT n) (2 + compBit c) = true ∧
         (s.regF (STK_SPARE (n.val / 16)) 0 2 = 0 →
           t.reg (STK_SPARE (n.val / 16)) = BitVec.ofNat 32 (1 + 4 * (2 * (n.val % 16) + compBit c)) ∧
             (t.stake (n.val / 16)).sweeping = true ∧ t.regBit (LN_STATUS n) 9 = true) ∧
         (s.regF (STK_SPARE (n.val / 16)) 0 2 = 1 → s.regF (STK_SPARE (n.val / 16)) 2 5 ≠ 2 * (n.val % 16) + compBit c →
           (2 * (n.val % 16) + compBit c) ∈ (t.stake (n.val / 16)).waiting))) ∧
   ∀ (k : Fin 12) (pass : Bool) (s : State) (u : Word) (x : UnitTest), (s.stake k).sweeping = true → (s.stake k).waiting = [] →
     u = uDac k (s.regF (STK_SPARE k) 2 5) → s.weaver.tests.find? (·.unit = u) = some x → x.classes = [4] → s.isRetired u = false →
     (pass = true → (x.byError = false ∨
         (s.weaver.transients.countP fun t => t.1 == u && decide (s.opSeconds.toNat ≤ t.2 + transientWindow)) < 2) →
       Does (.dacSweepDone k pass) s fun t => t.reg (STK_SPARE k) = 0 ∧ (t.stake k).sweeping = false) ∧
     (pass = false → Does (.dacSweepDone k pass) s fun t => t.regBit (STK_SPARE k) 1 = true ∧ (t.stake k).sweeping = false ∧
       t.station.spareEvt = true)) ∧
  ((∀ (k : Fin 12) (temp : Half) (s : State),
     (s.stakeAbsent k = false → s.asleep = false →
       Does (.calDue k temp) s fun t => ∀ n ∈ stakeLanes k, s.laneAbsent n = false →
         tempFar temp (s.lane n).calTemp = true → t.regBit (LN_STATUS n) 7 = true) ∧
     ((s.stakeAbsent k = true ∨ s.asleep = true) → exec (.calDue k temp) s = .next s)) ∧
   ∀ (results : List LaneCal) (cd0 cd1 : Half) (s : State), (∀ n ∈ s.weaver.calibrating, n < 192) →
     Does (.laneCalibration results cd0 cd1) s fun t => t.weaver.calibrating = [] ∧
       ∀ n ∈ s.weaver.calibrating, ∀ x, results.find? (fun r => r.lane.val == n) = some x →
         (x.failStep = none → t.regF (LN_DESKEW n) 0 16 = x.cal.toNat ∧ t.regBit (LN_STATUS n) 7 = false ∧
           (t.lane n).calTemp = laneTemp cd0 cd1 n) ∧
         (x.failStep ≠ none → t.lnRetired n = true))

/-! ### Pod ports (chapter 3) -/

/-- R71, R69, R78: once link time reaches it a superframe's beacon leaves, with SFN and LINK_TIME; PP_RDEV takes what was
measured; a frame in a slot is accepted, or counted in PP_BAD_FRAMES and the sequence number expected next follows R69; a
management block that fails its CRC changes nothing, any other stores its words by the index of the last beacon that the pod
had received, and its INFO 2 acknowledges commands up to that SEQ. A port without lock receives neither. -/
def Obligations.PodFrames : Prop :=
  (∀ (p : Fin 16) (rdev : Option (Fin 67584)) (s : State) (n : Nat), n = s.superframe p →
    (s.ppLive p = true → (∀ b, (s.port p).beacon = some b → b < n) → Does (.superframeBeacon ⟨p, rdev⟩) s fun t =>
      t.reg (PP_SFN p) = BitVec.ofNat 32 (n % 65536) ∧ (t.port p).passed = [] ∧ (t.port p).beacon = some n ∧
        (t.port p).down = pack64 [(0, 8, 0x71), (8, 16, n % 65536), (24, 40, 1056 * n % 2 ^ 40)] ∧
        ∀ r, rdev = some r → s.ppLock p = true → t.reg (PP_RDEV p) = BitVec.ofNat 32 r.val) ∧
    ((s.ppLive p = false ∨ ∃ b, (s.port p).beacon = some b ∧ n ≤ b) → exec (.superframeBeacon ⟨p, rdev⟩) s = .next s)) ∧
  (∀ (p : Fin 16) (f : Fin 62) (fr : PodFrame) (s : State),
    ((s.ppLive p = false ∨ s.ppLock p = false) → exec (.frameReceived p f fr) s = .next s) ∧
    (s.ppLive p = true → s.ppLock p = true →
      (s.slotOwner p f = none → Does (.frameReceived p f fr) s fun t =>
        Counted s t (PP_BAD_FRAMES p) ∧ (t.port p).passed = (s.port p).passed ++ [f.val]) ∧
      (∀ pos, s.slotOwner p f = some pos → frameSound fr pos = false → Does (.frameReceived p f fr) s fun t =>
        Counted s t (PP_BAD_FRAMES p) ∧ (t.pod p pos).fsn = (s.pod p pos).fsn + 1 ∧
          (t.port p).passed = (s.port p).passed ++ [f.val]) ∧
      (∀ pos got, s.slotOwner p f = some pos → frameSound fr pos = true → got = BitVec.ofNat 16 (fld fr.check 16 16) →
        (got ≠ (s.pod p pos).fsn → Does (.frameReceived p f fr) s fun t =>
          Counted s t (PP_BAD_FRAMES p) ∧ (t.pod p pos).fsn = got + 1) ∧
        (got = (s.pod p pos).fsn → Does (.frameReceived p f fr) s fun t => t.reg (PP_BAD_FRAMES p) = s.reg (PP_BAD_FRAMES p) ∧
          (t.pod p pos).fsn = (s.pod p pos).fsn + 1 ∧ (t.pod p pos).linkLoss = false ∧
          (t.port p).passed = (s.port p).passed ++ [f.val])))) ∧
  ∀ (p : Fin 16) (pos : Fin 32) (sfn : Half) (b : DWord) (s : State),
    ((s.ppLive p = false ∨ s.ppLock p = false ∨ mgmtSound b = false ∨ s.podHere p pos = false) →
      exec (.managementBlockReceived p pos ⟨sfn, b⟩) s = .next s) ∧
    (s.ppLive p = true → s.ppLock p = true → mgmtSound b = true → s.podHere p pos = true →
      Does (.managementBlockReceived p pos ⟨sfn, b⟩) s fun t => (t.pod p pos).mgmtSeen = true ∧
        (t.pod p pos).drop = some (BitVec.ofNat 20 (fld b 24 20)) ∧
        Tbl.find? (t.pod p pos).info (sfn.toNat % 16) = some (BitVec.ofNat 12 (fld b 44 12)) ∧
        (sfn.toNat % 16 ≠ 2 →
          (t.pod p pos).dig = Tbl.put (s.pod p pos).dig (sfn.toNat % 16) (BitVec.ofNat 16 (fld b 8 16)) ∧
            (t.pod p pos).pending = (s.pod p pos).pending) ∧
        ∀ before c rest, sfn.toNat % 16 = 2 → (s.pod p pos).pending = before ++ c :: rest → c.cmd.seq = BitVec.ofNat 8 (fld b 44 12) →
          (∀ x ∈ before, x.cmd.seq ≠ c.cmd.seq) → (t.pod p pos).pending = rest)

/-- R63, R72, R80: lost block lock opens a loss for every pod, and lock comes back; the delay of a pod is written, and sent to
it, when it moves by 4 UI or more. A downstream block carries the oldest command that waits, or IDLE (R67); a command then
waits for its acknowledgement, and the third silence of 64 superframes is the pod's fault. R77: at superframe N, with every
bitmap acknowledged, the staged slot table becomes the active one; from N - 4 on a switch whose writes are not acknowledged is
given a new N, 16 or more ahead. -/
def Obligations.PodCommandsAndSlots : Prop :=
  ((∀ (p : Fin 16) (s : State),
     (s.ppLive p = true → s.ppLock p = true → Does (.blockLockLost p) s fun t =>
       t.ppLock p = false ∧ (t.port p).unlocked = true ∧
         ∀ q < 32, s.podHere p q = true → (t.pod p q).linkLoss = true ∨ (t.pod p q).broken = true) ∧
     (s.ppLive p = true → s.ppLock p = false → Does (.blockLockGained p) s fun t => t.ppLock p = true ∧ t.ports = s.ports) ∧
     ((s.ppLive p = false ∨ s.ppLock p = false) → exec (.blockLockLost p) s = .next s) ∧
     ((s.ppLive p = false ∨ s.ppLock p = true) → exec (.blockLockGained p) s = .next s)) ∧
   (∀ (p : Fin 16) (pos : Fin 32) (s : State),
     ((s.ppLive p = false ∨ s.podHere p pos = false ∨ (s.pod p pos).rp = none) → exec (.delayRecompute p pos) s = .next s) ∧
     ∀ rp twice d, s.ppLive p = true → s.podHere p pos = true → (s.pod p pos).rp = some rp →
       twice = (s.regF (PP_RDEV p) 0 17 + 67584 - rp % 67584) % 67584 →
       d = twice / 2 + (if twice % 2 = 1 then (s.draw 1).1.toNat else 0) →
       (4 ≤ max d (s.regF (PP_DELAY p pos) 0 17) - min d (s.regF (PP_DELAY p pos) 0 17) →
         Does (.delayRecompute p pos) s fun t => t.reg (PP_DELAY p pos) = BitVec.ofNat 32 d ∧
           (t.pod p pos).image = ((s.pod p pos).write 0xFA d).image ∧
           (t.port p).outbox = (s.port p).outbox ++ [{ pos := pos, bcast := false, op := 0, seq := (s.port p).nextSeq
                                                       addr := 0xFA, data := BitVec.ofNat 32 d }]) ∧
       (max d (s.regF (PP_DELAY p pos) 0 17) - min d (s.regF (PP_DELAY p pos) 0 17) < 4 →
         Does (.delayRecompute p pos) s fun t => t.regs = s.regs ∧ t.ports = s.ports)) ∧
   (∀ (p : Fin 16) (b : Fin 1023) (s : State),
     (s.ppLive p = false → exec (.commandBlockSent p b) s = .next s) ∧
     (s.ppLive p = true → (s.port p).outbox = [] → Does (.commandBlockSent p b) s fun t =>
       (t.port p).down = idleBlock (b.val + 1) ∧ t.port p = { s.port p with down := (t.port p).down }) ∧
     ∀ c rest, s.ppLive p = true → (s.port p).outbox = c :: rest →
       Does (.commandBlockSent p b) s fun t => (t.port p).outbox = rest ∧ (t.port p).down = commandBlock c ∧
         ∀ q < 32, s.podHere p q = true → (c.bcast = true ∨ c.pos.val = q) →
           ((∀ x ∈ (s.pod p q).pending, x.cmd ≠ c) →
             (t.pod p q).pending = (s.pod p q).pending ++ [{ cmd := c, sent := s.superframe p, retries := 0 }]) ∧
           ((∃ x ∈ (s.pod p q).pending, x.cmd = c) →
             (t.pod p q).pending = (s.pod p q).pending.map fun x =>
               if x.cmd = c then { x with sent := s.superframe p, retries := x.retries + 1 } else x)) ∧
   ∀ (p : Fin 16) (pos : Fin 32) (s : State),
     ((∀ x ∈ (s.pod p pos).pending, x.retries < 2 ∨ s.superframe p < x.sent + 64) → exec (.podFault p pos) s = .next s) ∧
     (∀ x, s.ppLive p = true → s.podHere p pos = true →
       (s.pod p pos).pending.find? (fun x => decide (2 ≤ x.retries) && decide (x.sent + 64 ≤ s.superframe p)) = some x →
       Does (.podFault p pos) s fun t => (t.pod p pos).pending = (s.pod p pos).pending.filter (· ≠ x) ∧
         t.ledger.reqs.length = s.ledger.reqs.length + 1)) ∧
  (∀ (p : Fin 16) (s : State),
     (s.ppLive p = true → s.regBit (PP_SWITCH p) 16 = true → s.regF (PP_SWITCH p) 0 16 = s.regF (PP_SFN p) 0 16 →
       (s.port p).nextSlots ≠ [] → s.slotWritesOpen p = false →
       Does (.slotSwitch p) s fun t => t.regBit (PP_SWITCH p) 16 = false ∧ (t.port p).nextSlots = [] ∧
         ∀ f < 62, t.slotOwner p f =
           (if (s.port p).nextSlots.getD f 32 < 32 then some ((s.port p).nextSlots.getD f 32) else none)) ∧
     ((s.ppLive p = false ∨ s.regBit (PP_SWITCH p) 16 = false ∨ s.regF (PP_SWITCH p) 0 16 ≠ s.regF (PP_SFN p) 0 16 ∨
         (s.port p).nextSlots = [] ∨ s.slotWritesOpen p = true) → exec (.slotSwitch p) s = .next s) ∧
     ∀ (ahead : Byte) (left n : Nat), left = (s.regF (PP_SWITCH p) 0 16 + 2 ^ 16 - s.regF (PP_SFN p) 0 16) % 2 ^ 16 →
       n = (s.regF (PP_SFN p) 0 16 + 17 + (s.port p).outbox.length / 1023 + ahead.toNat) % 2 ^ 16 →
       (s.ppLive p = true → s.regBit (PP_SWITCH p) 16 = true → s.slotWritesOpen p = true → (left ≤ 4 ∨ 2 ^ 15 ≤ left) →
         Does (.slotSwitchCancel p ahead) s fun t => t.regF (PP_SWITCH p) 0 16 = n ∧ t.regBit (PP_SWITCH p) 16 = true ∧
           (t.port p).outbox = (s.port p).outbox ++ [{ pos := 0, bcast := true, op := 1, seq := (s.port p).nextSeq
                                                       addr := 0x02, data := BitVec.ofNat 32 n }]) ∧
       ((s.ppLive p = false ∨ s.regBit (PP_SWITCH p) 16 = false ∨ s.slotWritesOpen p = false ∨ (4 < left ∧ left < 2 ^ 15)) →
         exec (.slotSwitchCancel p ahead) s = .next s))

/-- R81, R83, R84: enumeration leaves the pods that answered, from position 0, and the overflow bit; a pod joins behind the
last one, to originate in the chain's phase while the last one forwards; a break takes the pods from its position on. R79: a
complete rotation of digests that matches clears the mismatch; the second one in a row that differs raises it, and the image
is sent once more; while writes wait for their acknowledgement nothing is compared. R84: the second rotation of an added pod
writes its delay, and a re-placement follows. R85: four frames failed on a segment alone, or a test asked for, start its test,
which shows in PP_STATUS; it passes on zero errors with lock held throughout. -/
def Obligations.PodChains : Prop :=
  ((∀ (p : Fin 16) (serials : List (BitVec 48)) (s : State),
     (s.ppLive p = false → exec (.enum p serials) s = .next s) ∧
     (s.ppLive p = true → Does (.enum p serials) s fun t => t.ppPods p = min 32 serials.length ∧
       (t.regBit (PP_STATUS p) 7 = true ↔ 32 < serials.length) ∧
       ∀ q < 32, (t.podHere p q = true ↔ q < serials.length))) ∧
   (∀ (p : Fin 16) (x : BitVec 48) (s : State),
     (s.ppLive p = false → exec (.podAdded p x) s = .next s) ∧
     (s.ppLive p = true → 32 ≤ s.ppPods p → Does (.podAdded p x) s fun t => t.regBit (PP_STATUS p) 7 = true ∧ t.ports = s.ports) ∧
     (s.ppLive p = true → s.ppPods p < 32 → Does (.podAdded p x) s fun t => t.ppPods p = s.ppPods p + 1 ∧
       t.podHere p (s.ppPods p) = true ∧ (t.pod p (s.ppPods p)).adding = some 0 ∧
       (t.port p).outbox.map (fun c => (c.pos.val, c.op.toNat, c.addr.toNat)) =
         (s.port p).outbox.map (fun c => (c.pos.val, c.op.toNat, c.addr.toNat)) ++ [(0, 1, 1)] ++
           (if s.ppPods p = 0 then [] else [(s.ppPods p, 1, 3), (s.ppPods p - 1, 1, 4)]))) ∧
   ∀ (p : Fin 16) (pos : Fin 32) (s : State),
     ((s.ppLive p = false ∨ s.absentFrom p pos = false) → exec (.chainBreak p pos) s = .next s) ∧
     (s.ppLive p = true → s.absentFrom p pos = true →
       Does (.chainBreak p pos) s fun t => Counted s t (PP_BREAKS p) ∧ t.ppPods p = min pos.val (s.ppPods p) ∧
         ∀ q < 32, pos.val ≤ q → t.podHere p q = false)) ∧
  (∀ (p : Fin 16) (pos : Fin 32) (s : State), s.ppLive p = true → s.podHere p pos = true → (s.pod p pos).adding = none →
     (s.pod p pos).dig.length = 16 →
     ((s.pod p pos).digHold = true →
       Does (.configDigestRotation p pos) s fun t => (t.pod p pos).digHold = s.writesOpen p pos (fun _ => true) ∧
         (t.pod p pos).dig = [] ∧ t.regs = s.regs) ∧
     ((s.pod p pos).digHold = false → s.podDigest p pos = s.podReported p pos →
       Does (.configDigestRotation p pos) s fun t => t.regBit (PP_MISMATCH p) pos = false ∧ (t.pod p pos).digBad = 0 ∧
         (t.pod p pos).dig = []) ∧
     ((s.pod p pos).digHold = false → s.podDigest p pos ≠ s.podReported p pos → (s.pod p pos).digBad = 0 →
       Does (.configDigestRotation p pos) s fun t => (t.pod p pos).digBad = 1 ∧ t.regs = s.regs) ∧
     ((s.pod p pos).digHold = false → s.podDigest p pos ≠ s.podReported p pos → (s.pod p pos).digBad ≠ 0 →
       s.weaver.mismatches.contains (uPod p pos, 1) = false →
       Does (.configDigestRotation p pos) s fun t => t.regBit (PP_MISMATCH p) pos = true ∧ (t.pod p pos).digHold = true ∧
         (uPod p pos, 1) ∈ t.weaver.mismatches ∧ t.regBit HUB_HEALTH 2 = true ∧
         (t.port p).outbox.length = (s.port p).outbox.length + 256)) ∧
  (∀ (p : Fin 16) (pos : Fin 32) (s : State) (n : Nat), s.ppLive p = true → s.podHere p pos = true → (s.pod p pos).adding = some n →
     (n = 0 → Does (.configDigestRotation p pos) s fun t => (t.pod p pos).adding = some 1) ∧
     (n ≠ 0 → (s.pod p pos).rp ≠ none →
       Does (.configDigestRotation p pos) s fun t => (t.pod p pos).adding = none ∧ t.weaver.replaceDue = true)) ∧
  (∀ (p : Fin 16) (seg : Fin 32) (s : State),
     (s.ppLive p = true → seg.val < s.ppPods p → (4 ≤ s.segFails p seg ∨ s.underTest (uSegment p seg) = true) →
       s.regBit (PP_STATUS p) 8 = false → Does (.segmentTestStart p seg) s fun t =>
       t.regBit (PP_STATUS p) 8 = true ∧ t.regF (PP_STATUS p) 9 5 = seg.val ∧ (t.port p).tested = some seg.val ∧
         ∀ q < 32, seg.val ≤ q → s.podHere p q = true → (t.pod p q).linkLoss = true ∨ (t.pod p q).broken = true) ∧
     ((s.ppLive p = false ∨ s.ppPods p ≤ seg.val ∨ (s.segFails p seg < 4 ∧ s.underTest (uSegment p seg) = false) ∨
         s.regBit (PP_STATUS p) 8 = true) → exec (.segmentTestStart p seg) s = .next s) ∧
     ∀ (errors : Nat) (lockHeld : Bool), s.regF (PP_STATUS p) 9 5 = seg.val →
       (s.underTest (uSegment p seg) = false →
         Does (.segmentTestDone p seg errors lockHeld) s fun t => t.regBit (PP_STATUS p) 8 = false ∧ t.weaver = s.weaver) ∧
       ∀ x, s.weaver.tests.find? (·.unit = uSegment p seg) = some x → x.classes = [5] → s.isRetired (uSegment p seg) = false →
         (errors = 0 → lockHeld = true → (x.byError = false ∨
             (s.weaver.transients.countP fun t => t.1 == uSegment p seg && decide (s.opSeconds.toNat ≤ t.2 + transientWindow)) < 2) →
           Does (.segmentTestDone p seg errors lockHeld) s fun t => t.regBit (PP_STATUS p) 8 = false ∧
             t.underTest (uSegment p seg) = false ∧
             if x.byError then Counted s t HUB_TRANSIENTS else t.reg HUB_TRANSIENTS = s.reg HUB_TRANSIENTS) ∧
         ((errors ≠ 0 ∨ lockHeld = false) →
           Does (.segmentTestDone p seg errors lockHeld) s fun t => t.underTest (uSegment p seg) = false ∧ Counted s t HUB_LASTING))

/-! ### Terms and sequencers (chapters 4 and 5) -/

/-- R116, R117: a sequencer that is due decides its next slot. The lowest branch whose condition holds is taken and its NEXT
becomes the level, with dead time when that is level 0; with no such branch the level stays; in dead time the slot counts in
SQ_DEAD. -/
def Obligations.SequencerDecides : Prop :=
  ∀ (q : Fin 32) (s : State),
    ((s.time.armed = false ∨ s.sqEnabled q = false ∨ s.slot ≤ (s.seq q).next + 6 + pathDelay (s.sqPath q)) →
      exec (.sequencerDecision q) s = .next s) ∧
    (s.time.armed = true → s.sqEnabled q = true → (s.seq q).next + 6 + pathDelay (s.sqPath q) < s.slot →
      (Does (.sequencerDecision q) s fun t => (t.seq q).next = (s.seq q).next + 1) ∧
      ∀ idx, s.sqSeq q = some idx → s.isShed (objKey 2 idx) = false →
        ((∀ e, (s.seq q).deadEnd = some e → e ≤ (s.seq q).next) →
          (∀ b < 4, s.branchHolds q (s.sqLevel q) b (s.seqInputs q (s.seq q).next) = true →
            (∀ c < b, s.branchHolds q (s.sqLevel q) c (s.seqInputs q (s.seq q).next) = false) →
            Does (.sequencerDecision q) s fun t => t.sqLevel q = s.regF (SQ_BR_CTL q (s.sqLevel q) b) 2 4 ∧
              (t.regBit (SQ_STATUS q) 5 = true ↔ t.sqLevel q = 0)) ∧
          ((∀ b < 4, s.branchHolds q (s.sqLevel q) b (s.seqInputs q (s.seq q).next) = false) →
            Does (.sequencerDecision q) s fun t => t.sqLevel q = s.sqLevel q)) ∧
        (∀ e, (s.seq q).deadEnd = some e → (s.seq q).next < e → (s.seq q).forced = [] →
          Does (.sequencerDecision q) s fun t => t.sqLevel q = s.sqLevel q ∧
            t.reg64 (SQ_DEAD_LO q) = min (2 ^ 40 - 1) (s.reg64 (SQ_DEAD_LO q) % 2 ^ 40 + 256)))

/-- R118, R121: a running timer whose expiry instant has come stops with VALUE = LIMIT; DEAD clears when the dead slots are
over. R126, R135: the first MARK of a stream that waits is written once what its sources delivered is complete up to it or 20
µs have passed, and closes its segment unless the stream is shed; a TRIG_OUT request that has reached its pin starts a pulse of
WIDTH slots and is counted, or extends the active one; a disabled pin drops it; the pulse ends at its slot. -/
def Obligations.TimersMarksPulses : Prop :=
  ((∀ (q : Fin 32) (i : Fin 4) (x : TimerDyn) (s : State), Tbl.find? (s.seq q).timers i = some x →
     (s.sqTimerRun q i = true → x.start + 256 * s.sqTimerLimit q i < s.slotEnd →
       Does (.timerExpiry q i) s fun t => t.sqTimerRun q i = false ∧
         t.reg64 (SQ_TMR_LO q i) % 2 ^ 48 = s.sqTimerLimit q i ∧
         Tbl.find? (t.seq q).timers i = some { x with due := some (x.start + 256 * s.sqTimerLimit q i) }) ∧
     ((s.sqTimerRun q i = false ∨ s.slotEnd ≤ x.start + 256 * s.sqTimerLimit q i) →
       exec (.timerExpiry q i) s = .next s)) ∧
   ∀ (q : Fin 32) (s : State),
     (∀ e, (s.seq q).deadEnd = some e → e ≤ (s.seq q).next →
       Does (.deadTimeEnd q) s fun t => t.regBit (SQ_STATUS q) 5 = false ∧ (t.seq q).deadEnd = none ∧
         t.sqLevel q = s.sqLevel q) ∧
     (∀ e, (s.seq q).deadEnd = some e → (s.seq q).next < e → exec (.deadTimeEnd q) s = .next s) ∧
     ((s.seq q).deadEnd = none → exec (.deadTimeEnd q) s = .next s)) ∧
  ((∀ (i : Fin 4096) (s : State),
     ((s.stream i).marks = [] ∨ s.hasStream i = false → exec (.markWrite i) s = .next s) ∧
     (∀ m rest, (s.stream i).marks = m :: rest → s.hasStream i = true →
       (s.markReady i m = false → exec (.markWrite i) s = .next s) ∧
       (s.markReady i m = true → Does (.markWrite i) s fun t => (t.stream i).marks = rest ∧
         (s.isShed (objKey 1 i) = false → (t.stream i).open_ = [])))) ∧
   ∀ (k : Fin 4) (s : State),
     (((s.tout k).requests = [] ∨ ∃ r rest, (s.tout k).requests = r :: rest ∧ s.slot < r.2) →
       exec (.trigOutPulseStart k) s = .next s) ∧
     (∀ r rest, (s.tout k).requests = r :: rest → r.2 ≤ s.slot → s.regBit (HUB_TOUT_CTL k) 17 = false →
       Does (.trigOutPulseStart k) s fun t => (t.tout k).requests = rest ∧ (t.tout k).activeUntil = (s.tout k).activeUntil ∧
         t.regs = s.regs) ∧
     (∀ r rest, (s.tout k).requests = r :: rest → r.2 ≤ s.slot → s.regBit (HUB_TOUT_CTL k) 17 = true →
       Does (.trigOutPulseStart k) s fun t => (t.tout k).requests = rest ∧ (t.tout k).served = some r.1 ∧
         (t.tout k).activeUntil = some (s.slot + s.regF (HUB_TOUT_CTL k) 0 16) ∧
         ((∀ e, (s.tout k).activeUntil = some e → e ≤ s.slot) → Counted s t (HUB_TOUT_COUNT k)) ∧
         (∀ e, (s.tout k).activeUntil = some e → s.slot < e → t.regs = s.regs)) ∧
     (∀ e, (s.tout k).activeUntil = some e → e ≤ s.slot →
       Does (.trigOutPulseEnd k) s fun t => (t.tout k).activeUntil = none ∧ (t.tout k).requests = (s.tout k).requests) ∧
     ((s.tout k).activeUntil = none ∨ (∃ e, (s.tout k).activeUntil = some e ∧ s.slot < e) →
       exec (.trigOutPulseEnd k) s = .next s))

/-- R100, R101, R110: a duration unit fires without an edge once its deadline lies before the settled time and before every
edge that it still has to take: once for an early decision or a timeout without REPEAT, at least once with it. R42, R110: an
edge on TRIG_IN after ARM reaches the terms with the time and the flags that its TDC gives. -/
def Obligations.TermEvents : Prop :=
  (∀ (u : DurUnit) (s : State),
    ((s.time.armed = false ∨ s.termOn (durTerm u) = false ∨
        (s.durCfg (durTerm u)).deadline (s.unitMeas (durTerm u)) = none) → exec (.durationDeadline u) s = .next s) ∧
    (∀ x, (s.durCfg (durTerm u)).deadline (s.unitMeas (durTerm u)) = some x →
      ((s.firstEdge (durTerm u) (s.deadlineBound (durTerm u)) ≤ x ∨
          (s.durCfg (durTerm u)).kind = 4 ∧ (s.durCfg (durTerm u)).max = 0) →
        exec (.durationDeadline u) s = .next s) ∧
      (s.time.armed = true → s.termOn (durTerm u) = true → x < s.firstEdge (durTerm u) (s.deadlineBound (durTerm u)) →
        ((s.durCfg (durTerm u)).kind ≠ 4 ∨ (s.durCfg (durTerm u)).max ≠ 0 ∧ (s.durCfg (durTerm u)).repeat_ = false →
          Does (.durationDeadline u) s fun t => (t.unitMeas (durTerm u)).fired = (s.unitMeas (durTerm u)).fired + 1 ∧
            (t.unitMeas (durTerm u)).start = (s.unitMeas (durTerm u)).start ∧
            ∀ a, (durTerm u).hits = some a → Counted s t a) ∧
        ((s.durCfg (durTerm u)).kind = 4 → (s.durCfg (durTerm u)).max ≠ 0 → (s.durCfg (durTerm u)).repeat_ = true →
          Does (.durationDeadline u) s fun t => (s.unitMeas (durTerm u)).fired < (t.unitMeas (durTerm u)).fired ∧
            (t.unitMeas (durTerm u)).start = (s.unitMeas (durTerm u)).start)))) ∧
  ∀ (k : Fin 4) (rise : Bool) (e : PinEdge) (s : State),
    ((s.time.armed = false ∨ s.sessionTime (pinStamp e).1 < s.time.armTime) →
      exec (.trigInEdge k rise e) s = .next s) ∧
    (s.time.armed = true → s.time.armTime ≤ s.sessionTime (pinStamp e).1 →
      Does (.trigInEdge k rise e) s fun t => t.trig.inputs = s.trig.inputs ++
        [{ at_ := s.sessionTime (pinStamp e).1, flags := (pinStamp e).2, ev := .trigIn k rise }])

/-! ### Compare, histogram and interval units (chapters 6 to 8) -/

/-- R149, R150, R151: an anchor queued for a unit is taken once. In an idle unit it starts its step of a READY reference, the
next one for a sequencer anchor and the one its identifier names for a station anchor; behind a running step it waits. A
sequencer anchor at the time of the last station anchor is counted as dropped; a station anchor without its step, a reference
that is not READY gives a verdict alone, and so does an anchor that waits with a shed job (R313), under the unit that the job
last held; while disarmed nothing starts. R152, R153, R155, R156: an item is
decided once every input is complete up to its instant, after every edge and item up to there: an unmatched expected edge
deviates as MISSING, a CHECK_LEVEL by the level at its time, and an item that rests on lost history is unjudged. R160, R145:
once the inputs are complete up to the decision instant the verdict is issued, the step is over and the next one waiting
begins; a member whose stored bytes hold a fault, or that the engine finds CORRUPT by an error of its own (R262), makes the
READY reference LOST, and a lost reference ends the steps of its jobs.
-/
def Obligations.CompareSteps : Prop :=
  (∀ (cu : Fin 8) (s : State),
     (∀ a src, src = s.anchorAt a → (s.cmp cu).anchors.contains src = false →
       (s.weaver.heldCmps.any (fun e => e.2.cu == cu && e.2.anchors.contains src) = false →
         exec (.stepAnchor cu a) s = .next s) ∧
       (∀ j h, List.find? (fun e : Nat × HeldJob => e.2.cu == cu && e.2.anchors.contains src) s.weaver.heldCmps = some (j, h) →
         (Does (.stepAnchor cu a) s fun t => ∃ h', Tbl.find? t.weaver.heldCmps j = some h' ∧
           h'.anchors = h.anchors.erase src ∧ h'.cu = cu) ∧
         (s.time.armed = false → Does (.stepAnchor cu a) s fun t => t.regs = s.regs) ∧
         (s.time.armed = true → (∀ i, src ≠ .sequencer i) → Does (.stepAnchor cu a) s fun t => Counted s t (CU cu 0x1C)) ∧
         (∀ i, s.time.armed = true → src = .sequencer i → h.stationAt ≠ some i →
           h.anchors.all (fun x => match x with | .station y _ => y != i | .sequencer _ => true) = true →
           Does (.stepAnchor cu a) s fun t => Counted s t (CU cu 0x1C)))) ∧
     (∀ a, (s.cmp cu).anchors.contains (.sequencer (s.sessionTime a)) = true →
       (Does (.stepAnchor cu (.sequencer a)) s fun t =>
         (t.cmp cu).anchors = (s.cmp cu).anchors.erase (.sequencer (s.sessionTime a))) ∧
       ((s.time.armed = false ∨ s.cuEnabled cu = false) →
         Does (.stepAnchor cu (.sequencer a)) s fun t => (t.cmp cu).step = (s.cmp cu).step ∧ t.regs = s.regs) ∧
       (s.time.armed = true → s.cuEnabled cu = true →
         ((s.cmp cu).stationAt = some (s.sessionTime a) →
           Does (.stepAnchor cu (.sequencer a)) s fun t => (t.cmp cu).step = (s.cmp cu).step ∧ Counted s t (CU cu 0x2C)) ∧
         ((s.cmp cu).stationAt ≠ some (s.sessionTime a) →
           ((s.ref (s.cuRef cu)).phase ≠ .ready →
             Does (.stepAnchor cu (.sequencer a)) s fun t => (t.cmp cu).step = (s.cmp cu).step ∧ Counted s t (CU cu 0x1C)) ∧
           ((s.ref (s.cuRef cu)).phase = .ready →
             ((s.cmp cu).step = none → (s.cmp cu).queue = [] →
               Does (.stepAnchor cu (.sequencer a)) s fun t => t.regF (CU cu 0x0C) 0 2 = 2 ∧
                 ∃ st, (t.cmp cu).step = some st ∧ st.anchor = s.sessionTime a ∧ st.byStation = false ∧
                   st.index = (s.cmp cu).nextStep % max 1 (refSteps (s.ref (s.cuRef cu)))) ∧
             ((s.cmp cu).step ≠ none →
               Does (.stepAnchor cu (.sequencer a)) s fun t =>
                 ∃ n, (t.cmp cu).queue = (s.cmp cu).queue ++ [n] ∧ n.anchor = s.sessionTime a ∧ n.byStation = false ∧
                   n.index = (s.cmp cu).nextStep % max 1 (refSteps (s.ref (s.cuRef cu)))))))) ∧
     (∀ a k, (s.cmp cu).anchors.contains (.station (s.sessionTime a) k) = true → s.time.armed = true →
       s.cuEnabled cu = true → (s.ref (s.cuRef cu)).phase = .ready →
       s.sameTime cu (s.sessionTime a) = none →
       (refStepOf (s.ref (s.cuRef cu)) k.toNat = none →
         Does (.stepAnchor cu (.station a k)) s fun t => (t.cmp cu).step = (s.cmp cu).step ∧
           (t.cmp cu).stationAt = some (s.sessionTime a) ∧ Counted s t (CU cu 0x1C)) ∧
       (∀ i, refStepOf (s.ref (s.cuRef cu)) k.toNat = some i → (s.cmp cu).step = none → (s.cmp cu).queue = [] →
         Does (.stepAnchor cu (.station a k)) s fun t => t.regF (CU cu 0x0C) 0 2 = 2 ∧
           (t.cmp cu).stationAt = some (s.sessionTime a) ∧
           ∃ st, (t.cmp cu).step = some st ∧ st.anchor = s.sessionTime a ∧ st.byStation = true ∧ st.index = i))) ∧
  (∀ (cu : Fin 8) (check : Bool) (c : Instr) (s : State),
     c = (if check then .checkLevel cu else .expectedEdgeTimeout cu) →
     ((s.cmp cu).step = none → exec c s = .next s) ∧
     ∀ st due, (s.cmp cu).step = some st →
       due = (st.items.filter fun i =>
         i.check == check && decide (i.due st.margin ≤ st.decision) && s.cmpDone cu (i.due st.margin)) →
       (firstDue st.margin due = none → exec c s = .next s) ∧
       ∀ i, firstDue st.margin due = some i →
         (Does c s fun t => t.nextEdge cu (i.due st.margin) = none ∧ t.nextItem cu (i.due st.margin) = none) ∧
         (s.nextEdge cu (i.due st.margin) = none →
           (st.items.filter fun j => decide (j.due st.margin ≤ i.due st.margin)) = [i] →
           (s.itemUnjudged cu st.margin i = true → Does c s fun t => ∃ st', (t.cmp cu).step = some st' ∧
             st'.items = st.items.erase i ∧ st'.devCount = st.devCount ∧ st'.unjudged = st.unjudged + 1) ∧
           (s.itemUnjudged cu st.margin i = false → Does c s fun t => ∃ st', (t.cmp cu).step = some st' ∧
             st'.items = st.items.erase i ∧ st'.unjudged = st.unjudged ∧ st'.devCount = st.devCount +
               (if check = true ∧ (s.cmpLevel cu i.cin i.time).1 = i.level then 0 else 1)))) ∧
  ((∀ (cu : Fin 8) (fail : Option Nat) (s : State), (s.cmp cu).step = none → exec (.decisionInstant cu fail) s = .next s) ∧
   (∀ (cu : Fin 8) (own : Option Nat) (st : StepDyn) (s : State), (s.cmp cu).step = some st →
     (∀ off, s.playFault (s.cuRef cu) (st.index + 1) own = some off →
       ((s.ref (s.cuRef cu)).phase = .ready → Does (.decisionInstant cu own) s fun t =>
         (t.ref (s.cuRef cu)).phase = .lost ∧ ∀ c ∈ s.refCus (s.cuRef cu), (t.cmp c).step = none) ∧
       ((s.ref (s.cuRef cu)).phase ≠ .ready → exec (.decisionInstant cu own) s = .next s)) ∧
     (s.playFault (s.cuRef cu) (st.index + 1) own = none →
       (s.cmpDone cu st.decision = false → exec (.decisionInstant cu own) s = .next s) ∧
       (s.cmpDone cu st.decision = true →
         (Does (.decisionInstant cu own) s fun t => Counted s t (CU cu 0x1C)) ∧
         ((s.cmp cu).queue = [] → Does (.decisionInstant cu own) s fun t => (t.cmp cu).step = none ∧
           t.regF (CU cu 0x0C) 0 2 = (if s.cuEnabled cu then 1 else 0)) ∧
         (∀ n rest, (s.cmp cu).queue = n :: rest → Does (.decisionInstant cu own) s fun t => (t.cmp cu).queue = rest ∧
           ∃ st', (t.cmp cu).step = some st' ∧ st'.anchor = n.anchor ∧ st'.index = n.index)))) ∧
   ∀ (r : Fin 1024) (cause : RefLossCause) (s : State),
     ((s.ref r).phase = .ready → Does (.referenceLost r cause) s fun t => (t.ref r).phase = .lost ∧
       ∀ cu ∈ s.refCus r, (t.cmp cu).step = none) ∧
     ((s.ref r).phase ≠ .ready → exec (.referenceLost r cause) s = .next s))

/-- R174, R175, R177, R178: the first value whose hold is over, and whose bank is not still spilling, is binned, four in a
slot or two on a unit with a map: below LO it counts in UNDER, past the last bin in OVER, and otherwise in its bin and in
EVENTS, in the accumulation in progress or, before a swap, in the closed one; a flagged value of the one in progress counts in
AUX2; a parity error leaves the bin at its largest value. R172: a map's sweep moves on by a column, two in a slot, and after
its last column it is over and counts in AUX1. R178: a deferred accumulation goes to its spill once the region's other bank is
free, which becomes the bank in progress. R179, R180: a spill adds one image, the fifth overwriting the oldest, and empties
the bank. -/
def Obligations.HistogramUnits : Prop :=
  (∀ (hu : Fin 4) (parity : Bool) (s : State) (ready : HistValue → Bool),
     ready = (fun v => !(s.region hu v.region).blocked v.te && !(s.region hu v.region).waitsClear v.te && s.histHeld hu v.te) →
     (((if s.huMap hu then 2 else 4) ≤ (s.hist hu).valueOps ∨ ((s.hist hu).held ++ (s.hist hu).values).find? ready = none) →
       exec (.histValue hu parity) s = .next s) ∧
     ∀ v, (s.hist hu).valueOps < (if s.huMap hu then 2 else 4) →
       ((s.hist hu).held ++ (s.hist hu).values).find? ready = some v →
       (Does (.histValue hu parity) s fun t => (t.hist hu).held = (s.hist hu).held.erase v ∧
         (t.hist hu).values = (if (s.hist hu).held.contains v then (s.hist hu).values else (s.hist hu).values.erase v) ∧
         (t.hist hu).valueOps = (s.hist hu).valueOps + 1) ∧
       (s.closingOf hu v.region v.te = none →
         (v.flagged = true → Does (.histValue hu parity) s fun t => Counted s t (HU_RG hu v.region 0x38)) ∧
         (v.x < s.rgLo hu v.region → Does (.histValue hu parity) s fun t => Counted s t (HU_RG hu v.region 0x2C)) ∧
         (∀ i, s.rgLo hu v.region ≤ v.x → i = (v.x - s.rgLo hu v.region).toNat / 2 ^ rgShift (s.rgCfg hu v.region) →
           (s.rgBins hu v.region ≤ i → Does (.histValue hu parity) s fun t => Counted s t (HU_RG hu v.region 0x30)) ∧
           (i < s.rgBins hu v.region → Does (.histValue hu parity) s fun t => Counted s t (HU_RG hu v.region 0x24) ∧
             Tbl.getD ((t.region hu v.region).bank (s.activeBank hu v.region)) i 0 = (if parity then 0xFFFFFFFF
               else min (Tbl.getD ((s.region hu v.region).bank (s.activeBank hu v.region)) i 0 + 1) 0xFFFFFFFF)))) ∧
       (∀ k i, s.closingOf hu v.region v.te = some k → k.counters.length = 6 → k.lo ≤ v.x →
         i = (v.x - k.lo).toNat / 2 ^ rgShift k.cfg → i < k.bins →
         Does (.histValue hu parity) s fun t =>
           (∃ k', t.closingOf hu v.region v.te = some k' ∧ k'.tClose = k.tClose ∧ k'.bank = k.bank ∧
             k'.counters.getD 0 0 = min (k.counters.getD 0 0 + 1) 0xFFFFFFFF) ∧
           Tbl.getD ((t.region hu v.region).bank k.bank) i 0 = (if parity then 0xFFFFFFFF
             else min (Tbl.getD ((s.region hu v.region).bank k.bank) i 0 + 1) 0xFFFFFFFF))) ∧
  ((∀ (hu : Fin 4) (parity : List (Fin 144)) (s : State) (due : Nat → Option Sweep),
     due = (fun r => (s.region hu r).sweeps.find? fun x =>
       !(s.region hu r).blocked x.tr && !(s.region hu r).waitsClear x.tr && s.histHeld hu x.columnEnd) →
     ((2 ≤ (s.hist hu).columnOps ∨ (List.range 16).find? (fun r => (due r).isSome) = none) →
       exec (.sweepColumnEnd ⟨hu, parity⟩) s = .next s) ∧
     ∀ r x, (s.hist hu).columnOps < 2 → (List.range 16).find? (fun r => (due r).isSome) = some r → due r = some x →
       (Does (.sweepColumnEnd ⟨hu, parity⟩) s fun t => (t.hist hu).columnOps = (s.hist hu).columnOps + 1 ∧
         (t.region hu r).sweeps = (if x.cols ≤ x.column + 1 then (s.region hu r).sweeps.erase x
           else (s.region hu r).sweeps.map fun y => if y = x then { y with column := y.column + 1 } else y)) ∧
       (x.cols ≤ x.column + 1 → s.closingOf hu r x.tr = none →
         Does (.sweepColumnEnd ⟨hu, parity⟩) s fun t => Counted s t (HU_RG hu r 0x34))) ∧
   (∀ (hu : Fin 4) (r : Fin 16) (s : State),
     (((s.region hu r).deferred = [] ∨ s.otherBankFree hu r = false) → exec (.deferredSwap hu r) s = .next s) ∧
     (∀ c rest, (s.region hu r).deferred = c :: rest → s.otherBankFree hu r = true →
       Does (.deferredSwap hu r) s fun t => (∃ c', (t.region hu r).closing = some c' ∧ c' = { c with place := c'.place }) ∧
         (t.region hu r).deferred = rest ∧
         bit (t.rgCfg hu r) 27 = !c.bank ∧ bit (t.rgCfg hu r) 28 = true ∧
         (t.hist hu).spillOrder = (s.hist hu).spillOrder ++ [r.val])) ∧
   ∀ (hu : Fin 4) (parity : List (Fin 147456)) (s : State),
     ((s.hist hu).spillOrder = [] → exec (.spillDone ⟨hu, parity⟩) s = .next s) ∧
     ∀ r rest, (s.hist hu).spillOrder = r :: rest →
       (s.spillReady hu r = false → exec (.spillDone ⟨hu, parity⟩) s = .next s) ∧
       (∀ c bad bank, s.spillReady hu r = true → (s.region hu r).closing = some c →
         bad = (parity.map fun k => k.val).eraseDups.filter (fun k => decide (k < c.bins_)) →
         bank = bad.foldl (fun b k => Tbl.set b k c.top 0) ((s.region hu r).bank c.bank) →
         (Does (.spillDone ⟨hu, parity⟩) s fun t => (t.hist hu).spillOrder = rest ∧
           (t.region hu r).closing = none ∧ (t.region hu r).bank c.bank = []) ∧
         (c.gone = true → Does (.spillDone ⟨hu, parity⟩) s fun t => t.images = s.images ∧
           t.reg (HU_SPILLS hu) = s.reg (HU_SPILLS hu)) ∧
         (c.gone = false → Does (.spillDone ⟨hu, parity⟩) s fun t => Counted s t (HU_SPILLS hu) ∧
           (t.image c.obj).images =
             (if 4 ≤ (s.image c.obj).images.length then (s.image c.obj).images.drop 1 else (s.image c.obj).images) ++
               [((s.image c.obj).nextSeq, imageBytes
                 { c with parity := c.parity || !bad.isEmpty, sat := c.sat || !bad.isEmpty } (s.image c.obj).nextSeq bank)])))

/-- R188, R189: events are taken one at a time, in order, once every source is complete, and not before a free window that
ends first. R192, R194, R195, R196, R198: outside the gated class a stop without a start is an orphan; with one, whose span
touches no loss, VALUE is the time between modulo 2^55 and COUNT the starts taken; a result less than 16,384 ft after the last
one is skipped; a span that touches a loss is abandoned. An edge of a FREQ or TOTALISE window counts in it. R187, R191: a
GATE_IN edge after ARM, with the time and the flags that its TDC gives, opens or closes the windows of the units that it
gates, and is an event of those whose source A it is. R190: a free window ends when every source is complete up to its end and
no earlier event waits, gives its result, and the next one begins there. -/
def Obligations.IntervalUnits : Prop :=
  ((∀ (iu : Fin 16) (s : State),
     ((s.ival iu).events = [] → exec (.intervalEvent iu) s = .next s) ∧
     ∀ e rest, (s.ival iu).events = e :: rest →
       ((s.iuBound iu < (e.at_ : Int) ∨ ∃ w, s.freeEnd iu = some w ∧ w ≤ e.at_) → exec (.intervalEvent iu) s = .next s) ∧
       ((e.at_ : Int) ≤ s.iuBound iu → (∀ w, s.freeEnd iu = some w → e.at_ < w) →
         (Does (.intervalEvent iu) s fun t => (t.ival iu).events = rest) ∧
         (∀ b, e.ev = .b b → iuMode (s.iuCfg iu) = 1 → (iuGated (s.iuCfg iu) = false ∨ (s.ival iu).window.isSome = true) →
           ((s.ival iu).start = none →
             Does (.intervalEvent iu) s fun t => (t.ival iu).orphans = (s.ival iu).orphans + 1 ∧ Counted s t (IU iu 0x54)) ∧
           (∀ t0, (s.ival iu).start = some t0 →
             ((s.ival iu).touched t0 e.at_ = true → Does (.intervalEvent iu) s fun t => (t.ival iu).start = none ∧
               (t.ival iu).abandoned = (s.ival iu).abandoned + 1 ∧ Counted s t (IU iu 0x5C)) ∧
             ((s.ival iu).touched t0 e.at_ = false →
               (∀ l, (s.ival iu).lastTime = some l → e.at_ < l + 16384 →
                 Does (.intervalEvent iu) s fun t => (t.ival iu).start = none ∧
                   (t.ival iu).skipped = (s.ival iu).skipped + 1 ∧ t.reg64 (IU iu 0x20) = s.reg64 (IU iu 0x20)) ∧
               ((∀ l, (s.ival iu).lastTime = some l → l + 16384 ≤ e.at_) →
                 Does (.intervalEvent iu) s fun t => (t.ival iu).start = none ∧ Counted s t (IU iu 0x50) ∧
                   t.reg64 (IU iu 0x20) = (e.at_ - t0) % 2 ^ 55 ∧
                   t.reg64 (IU iu 0x28) = min (s.ival iu).starts (2 ^ 48 - 1) ∧
                   t.reg64 (IU iu 0x38) = e.at_ % 2 ^ 64)))) ∧
         (∀ rise, e.ev = .a rise → iuGated (s.iuCfg iu) = false ∨ (s.ival iu).window.isSome = true →
           (iuMode (s.iuCfg iu) = 1 → Does (.intervalEvent iu) s fun t => (t.ival iu).start = some e.at_ ∧
             (t.ival iu).starts = (s.ival iu).starts + 1) ∧
           ((iuMode (s.iuCfg iu) = 4 ∨ iuMode (s.iuCfg iu) = 5) →
             Does (.intervalEvent iu) s fun t => (t.ival iu).count = (s.ival iu).count + 1)))) ∧
   ∀ (k : Fin 4) (rise : Bool) (e : PinEdge) (s : State) (x : Time),
     x = s.sessionTime (pinStamp e).1 →
     ((s.time.armed = false ∨ x < s.time.armTime) → exec (.gateInEdge k rise e) s = .next s) ∧
     (s.time.armed = true → s.time.armTime ≤ x →
       Does (.gateInEdge k rise e) s fun t => ∀ iu < 16, iuEnable (s.iuCfg iu) = true →
         s.isShed (objKey 5 (iuJob (s.iuCfg iu))) = false → (s.ival iu).origin ≤ x →
         (iuGated (s.iuCfg iu) = true → iuGate (s.iuCfg iu) = k.val →
           { at_ := x, flags := (pinStamp e).2
             ev := if rise != iuGateLow (s.iuCfg iu) then .gateOpen else .gateClose } ∈ (t.ival iu).events) ∧
         ((iuMode (s.iuCfg iu) = 2 ∨ iuMode (s.iuCfg iu) = 4 ∨ iuMode (s.iuCfg iu) = 5) →
           s.iuSrcA iu / 2 ^ 13 = 4 → s.iuSrcA iu % 4 = k.val → polTakes (iuPolA (s.iuCfg iu)) rise = true →
           { at_ := x, flags := (pinStamp e).2, ev := .a rise } ∈ (t.ival iu).events))) ∧
  (∀ (iu : Fin 16) (s : State),
     (s.freeEnd iu = none → exec (.freeWindowEnd iu) s = .next s) ∧
     ∀ w, s.freeEnd iu = some w →
       ((s.iuBound iu + 1 < (w : Int) ∨ s.time.armed = false ∨ ∃ e rest, (s.ival iu).events = e :: rest ∧ e.at_ < w) →
         exec (.freeWindowEnd iu) s = .next s) ∧
       (s.time.armed = true → (w : Int) ≤ s.iuBound iu + 1 → (∀ e rest, (s.ival iu).events = e :: rest → w ≤ e.at_) →
         (Does (.freeWindowEnd iu) s fun t => (t.ival iu).window = some w ∧ (t.ival iu).count = 0 ∧
           (t.ival iu).windowIdx = (s.ival iu).windowIdx + 1) ∧
         (Does (.freeWindowEnd iu) s fun t => Counted s t (IU iu 0x50) ∧ t.reg64 (IU iu 0x38) = w % 2 ^ 64)))

/-! ### Queues, station port, engines (chapters 10, 11, 17) -/

/-- R229, R232, R233, R235, R242: in the cycle of a QUEUE_WRITE or PACKET_COMMIT the consumer's operations come first; then
the word, of which queues 0 and 1 hold 16 bits, enters the queue, and a last word makes its packet visible. A full queue
first loses its oldest unit, counted as far as it was unread. A parity error and a word over the packet limit reject the
packet, of which the rest is discarded; a stopped drain loses the word, with its packet; in the skip state a word is lost. It
holds on every queue that is no stream ring. R207, R211, R243: the words of a record wait until it is whole; then it joins
its ring's open segment where it fits, with its offset counted from that segment's BASE, else a new one, and a MARK closes
its segment; in the skip state a word is discarded and counted; a stream that is not configured takes none. R232: the
producer of the annotation queue aborts its open packet, which vanishes and is counted, or ends a discarding; no other queue
has an abort. -/
def Obligations.QueueProducers : Prop :=
  (∀ (q : QRef) (w w1 : DWord) (last parity bare : Bool) (same : List ConsumerOp) (c : Instr) (s s1 : State) (n : Nat)
     (k : QKind) (d : QueueDyn),
     (∀ i, q ≠ .stream i) → n = qNumber q → k = qKind n → s1 = s.each same (fun s op => s.consumeOp q op) → d = s1.queue n →
     (c = .queueWrite q ⟨w, same⟩ last parity ∨ c = .packetCommit q ⟨w, same⟩ ∧ last = true ∧ parity = false) →
     w1 = (if k.itemBytes = 2 then w &&& 0xFFFF else w) → bare = (k.packets == PacketKind.none) →
     (d.skipState = true → Does c s fun t => (t.queue n).items = d.items ∧ (n < 5 → Counted s t (HUB_Q n 0x10)) ∧
       (bare = false → (t.queue n).skipState = !last)) ∧
     (d.skipState = false → d.rejecting = true → Does c s fun t => (t.queue n).items = d.items ∧
       (t.queue n).rejecting = !last) ∧
     (d.skipState = false → d.rejecting = false →
       (bare = false → (parity = true ∨ k.limit ≤ d.occ - d.visible) → Does c s fun t =>
         (t.queue n).items = d.items.take d.visible ∧ (t.queue n).rejecting = (!last) ∧ (n < 5 → Counted s t (HUB_Q n 0x18))) ∧
       ((bare = true ∨ parity = false ∧ d.occ - d.visible < k.limit) →
         (d.stagingFull k = true →
           (bare = true → Does c s fun t => (t.queue n).items = d.items) ∧
           (bare = false → Does c s fun t => (t.queue n).items = d.items.take d.visible ∧ (t.queue n).skipState = (!last) ∧
             (n < 5 → (t.reg (HUB_Q n 0x10)).toNat =
               min ((s.reg (HUB_Q n 0x10)).toNat + (d.occ - d.visible + 1)) (2 ^ 32 - 1)))) ∧
         (d.stagingFull k = false →
           (d.occ < k.cap → Does c s fun t => (t.queue n).items = d.items ++ [{ word := w1, last := last }] ∧
             (t.queue n).visible = (if bare = true ∨ last = true then d.occ + 1 else d.visible) ∧
             (t.queue n).read = d.read ∧ (t.queue n).mark = d.mark ∧
             (n < 5 → t.reg (HUB_Q n 0x10) = s.reg (HUB_Q n 0x10) ∧ t.reg (HUB_Q n 0x18) = s.reg (HUB_Q n 0x18))) ∧
           (∀ u, k.cap ≤ d.occ → u = oldestUnit k d → 0 < u → Does c s fun t =>
             (t.queue n).items = d.items.drop u ++ [{ word := w1, last := last }] ∧ (t.queue n).read = d.read - u ∧
             (n < 5 → (t.reg (HUB_Q n 0x10)).toNat =
               min ((s.reg (HUB_Q n 0x10)).toNat + (u - min u d.read)) (2 ^ 32 - 1))))))) ∧
  (∀ (i : Fin 4096) (w : DWord) (last parity : Bool) (same : List ConsumerOp) (c : Instr) (s s1 : State) (sd : StreamDyn),
     (c = .queueWrite (.stream i) ⟨w, same⟩ last parity ∨ c = .packetCommit (.stream i) ⟨w, same⟩) →
     s1 = s.each same (fun s op => s.consumeOp (.stream i) op) → sd = s1.stream i →
     (s.hasStream i = false → exec c s = .next s) ∧
     (s.hasStream i = true →
       (sd.skipState = true →
         Does c s fun t => (t.stream i).open_ = sd.open_ ∧ (t.stream i).wordsLost = sd.wordsLost + 1) ∧
       ∀ ws base r, sd.skipState = false → ws = sd.recPart ++ [w] →
         base = (if sd.recPart = [] then s1.streamBase i else sd.recBase) → r = recordOf base ws →
         (ws.length < recordWords (ws.headD 0) →
           Does c s fun t => (t.stream i).recPart = ws ∧ (t.stream i).open_ = sd.open_ ∧ (t.stream i).ring = sd.ring) ∧
         (recordWords (ws.headD 0) ≤ ws.length →
           (Does c s fun t => (t.stream i).recPart = []) ∧
           (s.isShed (objKey 1 i) = false → sd.open_ ≠ [] → s.strMember i = 0 →
             (fld (ws.headD 0) 60 4 ∉ [0x0, 0x3, 0x6] →
               (sd.fits r = true → needBase sd.baseTime r = false →
                 Does c s fun t => (t.stream i).open_ = sd.open_ ++ r.placed sd.baseTime) ∧
               (sd.fits r = false → Does c s fun t => (t.stream i).segSeq = (sd.segSeq + 1) % 2 ^ 48)) ∧
             (fld (ws.headD 0) 60 4 = 0x6 → sd.fits r = true →
               Does c s fun t => (t.stream i).segSeq = (sd.segSeq + 1) % 2 ^ 48 ∧ (t.stream i).open_ = []))))) ∧
  (∀ s : State,
     ((s.queue 0).skipState = false → (s.queue 0).rejecting = false →
       ((s.queue 0).visible < (s.queue 0).occ → Does (.packetAbort (.onChip 0)) s fun t =>
         (t.queue 0).items = (s.queue 0).items.take (s.queue 0).visible ∧
         (t.queue 0).visible = (s.queue 0).visible ∧ Counted s t (HUB_Q 0 0x18)) ∧
       ((s.queue 0).occ ≤ (s.queue 0).visible → Does (.packetAbort (.onChip 0)) s fun t => t.queue 0 = s.queue 0)) ∧
     (((s.queue 0).skipState = true ∨ (s.queue 0).rejecting = true) → Does (.packetAbort (.onChip 0)) s fun t =>
       (t.queue 0).items = (s.queue 0).items ∧ (t.queue 0).skipState = false ∧ (t.queue 0).rejecting = false) ∧
     (∀ n : Fin 5, n ≠ 0 → exec (.packetAbort (.onChip n)) s = .next s) ∧
     (∀ k, exec (.packetAbort (.stake k)) s = .next s) ∧ ∀ i, exec (.packetAbort (.stream i)) s = .next s)

/-- R231, R234, R237: the consumer's operations on every queue that is no stream ring. A read returns items with their V and
SKIP, and at depth 0 stalls; it completes as it was asked for once something is visible, or is withdrawn. REWIND and
RELEASE_TO_MARK without a mark change no position. R229: a filling bank that holds an item hands over once the other bank has
drained; when the draining bank is empty a full filling bank takes its place. -/
def Obligations.QueueConsumers : Prop :=
  (∀ (q : QRef) (n : Nat) (k : QKind) (d : QueueDyn) (s : State),
     (∀ i, q ≠ .stream i) → n = qNumber q → k = qKind n → d = s.queue n →
     (∀ c : Nat,
       (d.depth = 0 → Does (.queueRead q c) s fun t => (t.queue n).stalled = some (c, false) ∧ (t.queue n).items = d.items) ∧
       (d.depth = 0 → Does (.pop q c) s fun t => (t.queue n).stalled = some (c, true) ∧ (t.queue n).items = d.items) ∧
       (d.depth ≠ 0 → Does (.queueRead q c) s fun t => (t.queue n).items = d.items ∧
         (t.queue n).read = d.read + d.readCount k c ∧ (t.queue n).skip = none ∧ (t.queue n).lastSkip = d.skip ∧
         (t.queue n).lastV = d.readCount k c * k.itemBytes ∧
         (t.queue n).lastItems = ((d.items.drop d.read).take (d.readCount k c)).map (·.word)) ∧
       (d.depth ≠ 0 → Does (.pop q c) s fun t => (t.queue n).items = d.items.drop (d.read + d.readCount k c) ∧
         (t.queue n).read = 0 ∧ (t.queue n).mark = none)) ∧
     (Does (.setMark q) s fun t => (t.queue n).mark = some d.read ∧ (t.queue n).items = d.items) ∧
     (Does (.rewind q) s fun t => (t.queue n).items = d.items ∧
       (∀ a, d.mark = some a → (t.queue n).read = a ∧ (t.queue n).lastFail = 0) ∧
       (d.mark = none → (t.queue n).read = d.read ∧ (t.queue n).lastFail = if d.markLost then 2 else 1)) ∧
     (Does (.release q) s fun t => (t.queue n).items = d.items.drop d.read ∧ (t.queue n).read = 0 ∧ (t.queue n).mark = none ∧
       (t.queue n).visible = d.visible - d.read) ∧
     (Does (.releaseToMark q) s fun t =>
       (∀ a, d.mark = some a → (t.queue n).items = d.items.drop a ∧ (t.queue n).mark = some 0 ∧ (t.queue n).read = d.read - a) ∧
       (d.mark = none → (t.queue n).items = d.items ∧ (t.queue n).lastFail = 1)) ∧
     (∀ c, d.stalled = some (c, false) → d.depth ≠ 0 → Does (.stalledReadComplete q) s fun t =>
       (t.queue n).stalled = none ∧ (t.queue n).read = d.read + d.readCount k c ∧
         (t.queue n).lastItems = ((d.items.drop d.read).take (d.readCount k c)).map (·.word)) ∧
     (∀ c, d.stalled = some (c, true) → d.depth ≠ 0 → Does (.stalledReadComplete q) s fun t =>
       (t.queue n).stalled = none ∧ (t.queue n).items = d.items.drop (d.read + d.readCount k c) ∧ (t.queue n).read = 0) ∧
     ((d.stalled = none ∨ d.depth = 0) → Does (.stalledReadComplete q) s fun t => t.queue n = d) ∧
     Does (.readWithdrawn q) s fun t => (t.queue n).stalled = none ∧ (t.queue n).items = d.items ∧ (t.queue n).read = d.read) ∧
  (∀ (q : QRef) (n : Nat) (d : QueueDyn) (s : State), (∀ i, q ≠ .stream i) → n = qNumber q → d = s.queue n →
     (d.filling ≠ 0 → d.draining = 0 → Does (.bankHandover q) s fun t =>
       (t.queue n).filling = 0 ∧ (t.queue n).draining = d.filling ∧ (t.queue n).items = d.items) ∧
     ((d.filling = 0 ∨ d.draining ≠ 0) → Does (.bankHandover q) s fun t => t.queue n = d) ∧
     (d.filling * (qKind n).itemBytes = 4096 → Does (.bankDrainDone q) s fun t =>
       (t.queue n).filling = 0 ∧ (t.queue n).draining = d.filling) ∧
     (d.filling * (qKind n).itemBytes ≠ 4096 → Does (.bankDrainDone q) s fun t =>
       (t.queue n).filling = d.filling ∧ (t.queue n).draining = 0))

/-- R231, R234, R235, R237: the consumer's operations on a stream's ring; READ returns up to 64 bytes with V and SKIP, and
RELEASE frees whole segments and keeps its place in the segment it ends in. A read at depth 0 stalls, and completes as it was
asked for or is withdrawn. A stream that is not configured takes no operation. R229: a ring's full staging bank hands over
once the other has drained. -/
def Obligations.RingReaders : Prop :=
  (∀ (i : Fin 4096) (c : Instr) (s : State), s.hasStream i = false →
    ((∃ n, c = .queueRead (.stream i) n ∨ c = .pop (.stream i) n) ∨ c = .setMark (.stream i) ∨ c = .rewind (.stream i) ∨
      c = .release (.stream i) ∨ c = .releaseToMark (.stream i) ∨ c = .stalledReadComplete (.stream i) ∨
      c = .readWithdrawn (.stream i)) → exec c s = .next s) ∧
  (∀ (i : Fin 4096) (n : Nat) (s : State) (d : StreamDyn) (c : Nat), s.hasStream i = true → d = s.stream i →
    c = min (min n 8) d.ringDepth →
    (d.ringDepth = 0 →
      (Does (.queueRead (.stream i) n) s fun t => t.stream i = { d with qStalled := some (n, false), qFail := 0 }) ∧
      Does (.pop (.stream i) n) s fun t => t.stream i = { d with qStalled := some (n, true), qFail := 0 }) ∧
    (d.ringDepth ≠ 0 →
      (Does (.queueRead (.stream i) n) s fun t => (t.stream i).qStalled = none ∧ (t.stream i).qRead = d.qRead + c ∧
        (t.stream i).ring = d.ring ∧ (t.stream i).qLast = (d.ringWords.drop d.qRead).take c ∧ (t.stream i).qLastV = 8 * c ∧
        (t.stream i).qLastSkip = (if d.qSkip = 0 then none else some d.qSkip) ∧ (t.stream i).qSkip = 0) ∧
      (Does (.pop (.stream i) n) s fun t => (t.stream i).qMark = none ∧
        (t.stream i).ring = d.ring.drop ((d.qRead + c) / segWords) ∧ (t.stream i).qRel = (d.qRead + c) % segWords ∧
        (t.stream i).qLast = (d.ringWords.drop d.qRead).take c) ∧
      (d.qStalled = some (n, false) → Does (.stalledReadComplete (.stream i)) s fun t =>
        (t.stream i).qStalled = none ∧ (t.stream i).qRead = d.qRead + c ∧ (t.stream i).ring = d.ring) ∧
      (d.qStalled = some (n, true) → Does (.stalledReadComplete (.stream i)) s fun t => (t.stream i).qStalled = none ∧
        (t.stream i).ring = d.ring.drop ((d.qRead + c) / segWords))) ∧
    ((d.ringDepth = 0 ∨ d.qStalled = none) → Does (.stalledReadComplete (.stream i)) s fun t => t.stream i = d) ∧
    (Does (.readWithdrawn (.stream i)) s fun t => t.stream i = { d with qStalled := none }) ∧
    (Does (.setMark (.stream i)) s fun t => (t.stream i).qMark = some d.qRead ∧ (t.stream i).ring = d.ring) ∧
    (Does (.rewind (.stream i)) s fun t => (t.stream i).ring = d.ring ∧
      (∀ a, d.qMark = some a → (t.stream i).qRead = a ∧ (t.stream i).qFail = 0) ∧
      (d.qMark = none → (t.stream i).qRead = d.qRead ∧ (t.stream i).qFail = if d.qMarkLost then 2 else 1)) ∧
    (Does (.release (.stream i)) s fun t => (t.stream i).ring = d.ring.drop (d.qRead / segWords) ∧
      (t.stream i).qRel = d.qRead % segWords ∧ (t.stream i).qMark = none) ∧
    Does (.releaseToMark (.stream i)) s fun t =>
      (∀ a, d.qMark = some a → (t.stream i).ring = d.ring.drop (a / segWords) ∧ (t.stream i).qRel = a % segWords) ∧
      (d.qMark = none → t.stream i = { d with qFail := 1 })) ∧
  ∀ (i : Fin 4096) (s : State),
    (Does (.bankHandover (.stream i)) s fun t => t.stream i = (if (s.stream i).bankFull = true ∧ (s.stream i).draining = false
      then { s.stream i with bankFull := false, draining := true } else s.stream i)) ∧
    Does (.bankDrainDone (.stream i)) s fun t =>
      t.stream i = { s.stream i with draining := (s.stream i).bankFull, bankFull := false }

/-- R401, R242: after what the consumer does in the cycle DATA adds a word to the open annotation packet, DATA_LAST its last
word with the time of the commit edge; an abort or the station timeout takes the open packet away. A port without power takes
nothing. R399, R402: VWORD reads the next verdict word, or waits when none is there; a discard releases the rest of a partly
read packet; LOST gives both counts and clears them; a cycle outside the protocol is counted. R401: the router takes the
oldest committed annotation packet; one committed while disarmed is discarded and counted, and one that is an anchor waits at
the compare unit of its job, or with the job where it is shed (R313), or is an error without one. -/
def Obligations.StationPort : Prop :=
  (∀ (w : Half) (same : List ConsumerOp) (a : Time) (s : State) (q : QueueDyn),
     q = (s.each same (fun s op => s.consumeOp (.onChip 0) op)).queue 0 →
     (s.portOn = false → exec (.data ⟨w, same⟩) s = .next s ∧ exec (.dataLast ⟨w, same⟩ a) s = .next s ∧
       exec .controlAbort s = .next s) ∧
     (s.portOn = true → q.skipState = false → q.rejecting = false → q.stagingFull (qKind 0) = false → q.occ < 8192 →
       q.occ - q.visible < 2048 →
       (Does (.data ⟨w, same⟩) s fun t => (t.queue 0).items = q.items ++ [{ word := w.setWidth 64, last := false }] ∧
         (t.queue 0).visible = q.visible ∧ (t.queue 0).times = q.times) ∧
       (Does (.dataLast ⟨w, same⟩ a) s fun t => (t.queue 0).items = q.items ++ [{ word := w.setWidth 64, last := true }] ∧
         (t.queue 0).visible = q.occ + 1 ∧
         (t.queue 0).times = q.times ++ [(s.sessionTime a, q.occ + 1 - q.visible)])) ∧
     (s.portOn = true → (s.queue 0).skipState = false → (s.queue 0).rejecting = false →
       ((s.queue 0).visible < (s.queue 0).occ →
         (Does .controlAbort s fun t => (t.queue 0).items = (s.queue 0).items.take (s.queue 0).visible ∧
           t.station.lostAnnotations = s.station.lostAnnotations + 1) ∧
         (Does .stationTimeout s fun t => (t.queue 0).items = (s.queue 0).items.take (s.queue 0).visible ∧
           Counted s t STN_TIMEOUTS))) ∧
     ((s.queue 0).occ ≤ (s.queue 0).visible → exec .stationTimeout s = .next s)) ∧
  (∀ s : State,
     ((s.portOn = false ∨ s.station.pendingRead ≠ none) → exec .vword s = .next s ∧ exec .lost s = .next s) ∧
     (s.portOn = true → s.station.pendingRead = none →
       (∀ i rest, (s.queue 1).items.drop (s.queue 1).read = i :: rest → (s.queue 1).read < (s.queue 1).visible →
         Does .vword s fun t => t.station.dataOut = i.word.setWidth 16 ∧ t.station.lastEnd = i.last ∧
           t.station.pendingRead = none ∧ (t.queue 1).items = rest) ∧
       ((s.queue 1).depth = 0 → Does .vword s fun t => t.station.pendingRead = some 0 ∧ t.station.wait = true ∧
         (t.queue 1).items = (s.queue 1).items) ∧
       Does .lost s fun t => t.station.lostVerdicts = 0 ∧ t.station.lostAnnotations = 0 ∧
         t.station.dataOut =
           BitVec.ofNat 16 (min s.station.lostVerdicts 255 + 256 * min s.station.lostAnnotations 255)) ∧
     (s.portOn = true → s.station.partRead ≠ 0 → Does .controlDiscard s fun t => t.station.partRead = 0 ∧
       (t.queue 1).items = (s.queue 1).items.drop (firstPacket ((s.queue 1).items.take (s.queue 1).visible))) ∧
     ((s.portOn = false ∨ s.station.partRead = 0) → exec .controlDiscard s = .next s) ∧
     (s.portOn = true → Does .portProtocolError s fun t => Counted s t STN_ERR) ∧
     (s.portOn = false → exec .portProtocolError s = .next s)) ∧
  (∀ s : State,
     (s.nextAnnotation = none → exec .annotationRoute s = .next s) ∧
     ∀ ws a, s.nextAnnotation = some (ws, a) →
       (Does .annotationRoute s fun t => (t.queue 0).items = (s.queue 0).items.drop ws.length) ∧
       ((s.time.armed = false ∨ a < s.time.armTime) →
         Does .annotationRoute s fun t => Counted s t STN_DISCARDED ∧ t.streams = s.streams) ∧
       (s.time.armed = true → s.time.armTime ≤ a → ws.headD 0 = 0x5354 → 3 ≤ ws.length →
         ∀ job, job = (ws.getD 2 0).toNat →
         (s.stationJob job = false → Does .annotationRoute s fun t => Counted s t STN_ERR) ∧
         (s.stationJob job = true →
           (∀ cu, s.weaver.place.cmpCu job = some cu →
             Does .annotationRoute s fun t => AnchorSrc.station a (ws.getD 1 0) ∈ (t.cmp cu).anchors) ∧
           (∀ h, s.weaver.place.cmpCu job = none → Tbl.find? s.weaver.heldCmps job = some h →
             Does .annotationRoute s fun t => ∃ h', Tbl.find? t.weaver.heldCmps job = some h' ∧
               AnchorSrc.station a (ws.getD 1 0) ∈ h'.anchors))))

/-- R412: what the SMBus target answers, in every state with power; ACK 1 clears the latched alert bits. -/
def Obligations.SmBus : Prop :=
  ∀ (r : Half) (v : Byte) (s : State),
    (s.power.powered = true →
      (Does .state s fun t =>
        t.out.smbus = leBytes 1 (if s.pwr = 0 ∨ s.power.perst = true then 0 else fld s.alive 12 4)) ∧
      (Does (.tempHd r) s fun t => t.out.smbus = leBytes 2 r.toNat ∧ t.power.tempHd = r) ∧
      (Does (.tempCd0 r) s fun t => t.out.smbus = leBytes 2 r.toNat ∧ t.power.tempCd0 = r) ∧
      (s.halfPart = false → Does (.tempCd1 r) s fun t => t.out.smbus = leBytes 2 r.toNat ∧ t.power.tempCd1 = r) ∧
      (s.halfPart = true → Does (.tempCd1 r) s fun t => t.out.smbus = [0x00, 0x80] ∧ t.power = s.power) ∧
      (Does .opSeconds s fun t => t.out.smbus = leBytes 4 s.opSeconds.toNat) ∧
      (Does .alert s fun t => t.out.smbus = leBytes 2 s.alertBits) ∧
      (Does .ident s fun t => t.out.smbus = (if s.halfPart then [0x18, 0x2C] else [0x19, 0x2C]) ++ [0x21] ++
        leBytes 1 s.power.board.ordering.code ++ [if s.halfPart then 1 else 3] ++ leBytes 2 s.power.fw.version.toNat ++ [0]) ∧
      (v = 1 → Does (.ack v) s fun t => t.station.retiredEvt = false ∧ t.station.spareEvt = false)) ∧
    (v ≠ 1 → exec (.ack v) s = .next s)

/-- R254, R258, R266: an engine's turn on a slot that has a block and room for it, where no other slot goes first, makes that
slot the active one, and a block that does not decode to its input starts the known-answer test; a turn on a stream whose
session is over ends its member; an engine that does not work, or a slot without a context, does nothing but end the member of
settings that no segment waits under. R259, R261: a context enters a rotating slot that is free or that the least recently
served one leaves, and one whose copy is damaged is counted and ends its member; a decompressor engine returns to its job.
R266, R306: a known-answer test that passes, with no other class under test, is a transient and the engine works on; one that
fails retires it. R262, R264: a member found CORRUPT is counted and rerun; a rerun that finds no fault, or another one, puts
the engine under test. -/
def Obligations.EngineCommands : Prop :=
  (∀ (n : Fin 16) (k : Fin 8) (segs : Nat) (out : List Bool) (cuts : List Nat) (ok : Bool) (i : Nat) (s s1 : State),
     i = s.ceSlotStream n k → s1 = s.passBinds i →
     ((s1.ceWorks n = false ∨ s1.ceSlotValid n k = false ∨ s1.canDma = false ∨ s1.hasStream i = false ∨ s1.strFormat i = 0 ∨
         (s1.stream i).dmaFailed = true) →
       exec (.compressorBlock n k segs ⟨out, cuts⟩ ok) s = .next s1) ∧
     (s1.ceWorks n = true → s1.ceSlotValid n k = true → s1.canDma = true → s1.hasStream i = true → s1.strFormat i ≠ 0 →
       (s1.stream i).dmaFailed = false →
       (s1.yields n k = true → exec (.compressorBlock n k segs ⟨out, cuts⟩ ok) s = .next s1) ∧
       (s1.yields n k = false → (s1.stream i).atEnd = true → Does (.compressorBlock n k segs ⟨out, cuts⟩ ok) s fun t =>
         t.ceActive n = k.val ∧ (t.stream i).memberOpen = false) ∧
       (s1.yields n k = false → (s1.stream i).atEnd = false →
         (s1.postedRoom i < s1.strBlock i + 4096 → exec (.compressorBlock n k segs ⟨out, cuts⟩ ok) s = .next s1) ∧
         (∀ r, s1.strBlock i + 4096 ≤ s1.postedRoom i →
           r = (State.takeBlock i (s1.strBlock i) (s1.strMember i) segs [] s1).2 → r ≠ [] →
           (r.all (s1.segRead i) = false → Does (.compressorBlock n k segs ⟨out, cuts⟩ ok) s fun t =>
             t.ces = s1.ces ∧ t.regs = s1.regs ∧ t.pcie = s1.pcie) ∧
           (r.all (s1.segRead i) = true → Does (.compressorBlock n k segs ⟨out, cuts⟩ ok) s fun t =>
             t.ceActive n = k.val ∧ (t.ce n).lru.getLast? = some k.val ∧ (ok = false → (t.ce n).testing = true)))))) ∧
  ((∀ (n : Fin 16) (k : Fin 8) (i : Half) (ok placed held : Bool) (s : State),
     placed = (s.weaver.place.streams.any fun p => p.obj == i.toNat && p.engine == some n.val && p.slot.isNone) →
     held = ((List.range 8).any fun j => s.ceSlotValid n j && s.ceSlotStream n j == i.toNat) →
     ((s.ceWorks n = false ∨ placed = false ∨ held = true ∨ bit (s.ceSlot n k) 13 = true ∨ s.slotGives n k = false ∨
         s.waiting i.toNat = false ∧ (s.stream i.toNat).atEnd = false) →
       exec (.contextSwitchDone (.ce n) k i ok) s = .next s) ∧
     (i.toNat < 4096 → s.ceWorks n = true → placed = true → held = false → bit (s.ceSlot n k) 13 = false →
       s.slotGives n k = true → (s.waiting i.toNat = true ∨ (s.stream i.toNat).atEnd = true) →
       Does (.contextSwitchDone (.ce n) k i ok) s fun t => t.ceSlotValid n k = true ∧ t.ceSlotStream n k = i.toNat ∧
         (t.reg (CE n 0x20)).toNat = min ((s.reg (CE n 0x20)).toNat + ((s.ceSlotValid n k).toNat + 1)) (2 ^ 32 - 1) ∧
         ((ok = false ∨ (s.stream i.toNat).ctxLost = true) → Counted s t (CE n 0x28) ∧
           (t.stream i.toNat).memberOpen = false))) ∧
   ∀ (n : Fin 8) (k : Fin 8) (j : Half) (ok placed : Bool) (s : State),
     placed = (s.weaver.place.cmps.any fun c => c.de == n.val && c.obj == j.toNat) →
     (s.isRetired (uDe n) = false → placed = true → (s.de n).away = true →
       Does (.contextSwitchDone (.de n) k j ok) s fun t => t.regF (DE n 0) 16 16 = j.toNat ∧ (t.de n).away = false ∧
         ((ok = false ∨ (s.de n).ctxLost = true) → Counted s t (DE n 0x2C)) ∧
         (ok = true → (s.de n).ctxLost = false → t.reg (DE n 0x2C) = s.reg (DE n 0x2C))) ∧
     ((s.isRetired (uDe n) = true ∨ placed = false ∨ (s.de n).away = false) →
       exec (.contextSwitchDone (.de n) k j ok) s = .next s)) ∧
  (∀ (u : Word) (pass : Bool) (s : State), s.underTest u = false →
     (∀ n : Fin 16, u = uCe n → Does (.knownAnswerTestDone (.ce n) pass) s fun t =>
       (t.ce n).testing = false ∧ t.regs = s.regs) ∧
     ∀ n : Fin 8, u = uDe n →
       ((s.de n).corrupt = [] ∨ pass = false ∨ s.desAtWork (some n) ≠ [] →
         Does (.knownAnswerTestDone (.de n) pass) s fun t => (t.de n).testing = false ∧ t.regs = s.regs) ∧
       (∀ c, (s.de n).corrupt = [c] → pass = true → s.desAtWork (some n) = [] →
         Does (.knownAnswerTestDone (.de n) pass) s fun t => (t.de n).corrupt = [] ∧
           (t.de n).testing = decide (rerunResult c.offset c.rerun ≠ 0))) ∧
  (∀ (u : Word) (x : UnitTest) (s : State), s.weaver.tests.find? (·.unit = u) = some x → x.classes = [7] → s.isRetired u = false →
     x.byError = false →
     (∀ n : Fin 16, u = uCe n → Does (.knownAnswerTestDone (.ce n) true) s fun t =>
       (t.ce n).testing = false ∧ t.underTest u = false ∧ t.reg HUB_TRANSIENTS = s.reg HUB_TRANSIENTS) ∧
     ∀ n : Fin 8, u = uDe n → (s.de n).corrupt = [] → Does (.knownAnswerTestDone (.de n) true) s fun t =>
       (t.de n).testing = false ∧ t.underTest u = false ∧ t.reg HUB_TRANSIENTS = s.reg HUB_TRANSIENTS) ∧
  (∀ (u : Word) (x : UnitTest) (s : State), s.weaver.tests.find? (·.unit = u) = some x → x.classes = [7] → s.isRetired u = false →
     x.byError = true →
     (s.weaver.transients.countP fun t => t.1 == u && decide (s.opSeconds.toNat ≤ t.2 + transientWindow)) < 2 →
     (∀ n : Fin 16, u = uCe n → Does (.knownAnswerTestDone (.ce n) true) s fun t =>
       (t.ce n).testing = false ∧ t.underTest u = false ∧ Counted s t HUB_TRANSIENTS) ∧
     ∀ n : Fin 8, u = uDe n → (s.de n).corrupt = [] → Does (.knownAnswerTestDone (.de n) true) s fun t =>
       (t.de n).testing = false ∧ t.underTest u = false ∧ Counted s t HUB_TRANSIENTS) ∧
  (∀ (u : Word) (x : UnitTest) (s : State), s.weaver.tests.find? (·.unit = u) = some x → x.classes = [7] → s.isRetired u = false →
     (∀ n : Fin 16, u = uCe n → Does (.knownAnswerTestDone (.ce n) false) s fun t =>
       t.isRetired u = true ∧ t.underTest u = false ∧ Counted s t HUB_LASTING) ∧
     ∀ n : Fin 8, u = uDe n → Does (.knownAnswerTestDone (.de n) false) s fun t =>
       t.isRetired u = true ∧ t.underTest u = false ∧ Counted s t HUB_LASTING) ∧
  (∀ (e : Fin 8) (r : Fin 1024) (member offset : Nat) (x : Rerun) (s : State),
     (∀ x' c old, s.isRetired (uDe e) = false → x' = (match s.storedMember r member with | some m => m.rerun | none => x) →
       c = { ref := r.val, member := member, offset := offset, rerun := x' } →
       old = (s.de e).corrupt.find? (fun c => c.ref == r.val && c.member == member) →
       (old = none →
         (Does (.decompressorCorrupt e r member offset x) s fun t => Counted s t (DE e 0x10)) ∧
         (s.spareDe (some e) ≠ none → Does (.decompressorCorrupt e r member offset x) s fun t =>
           (rerunResult offset x' ≠ 0 → (t.de e).testing = true) ∧ (rerunResult offset x' = 0 → t.de e = s.de e)) ∧
         (s.spareDe (some e) = none → Does (.decompressorCorrupt e r member offset x) s fun t =>
           (t.de e).corrupt = (s.de e).corrupt ++ [c] ∧ (s.desAtWork (some e) = [] → (t.de e).testing = true) ∧
           (s.desAtWork (some e) ≠ [] → (t.de e).testing = (s.de e).testing))) ∧
       (old ≠ none → Does (.decompressorCorrupt e r member offset x) s fun t => t.reg (DE e 0x10) = s.reg (DE e 0x10))) ∧
     (s.isRetired (uDe e) = true → exec (.decompressorCorrupt e r member offset x) s = .next s))

/-! ### Memory, health, ledger (chapters 12, 13, 16) -/

/-- R281, Table 12.3: an uncorrectable error of a page that is checked, or a command error, freezes a channel that serves,
counts, and its registers hold the address; a frozen or training channel only counts, and one before its training counts
command errors (R275, R285); a retired one takes none. R273, R274: a corrected error of a page that is checked is counted,
with one record per channel and hour; the scrub reads written pages alone, and its uncorrectable error freezes the channel.
-/
def Obligations.ChannelErrors : Prop :=
  (∀ (ch : Fin 16) (off : BitVec 33) (port : BitVec 3) (tag : Bool) (synd : Word) (s : State) (checked : Bool),
     checked = s.pageChecked (pageOf (ch.val * 2 ^ 33 + off.toNat)) →
     (checked = true → s.mcState ch ∉ [0, 3, 5, 6] → Does (.uncorrectableError ch off port tag synd) s fun t =>
       t.mcState ch = 3 ∧ Counted s t (MC_UE_COUNT ch) ∧ t.weaver.replaceDue = true ∧
       t.reg (MC ch 0x010) = BitVec.ofNat 32 (ch.val * 2 ^ 33 + off.toNat)) ∧
     (checked = true → (s.mcState ch = 3 ∨ s.mcState ch = 5) → Does (.uncorrectableError ch off port tag synd) s fun t =>
       Counted s t (MC_UE_COUNT ch) ∧ t.mcState ch = s.mcState ch) ∧
     ((checked = false ∨ (s.mcState ch = 0 ∨ s.mcState ch = 6) ∧ s.pcie.bar2Waits = []) →
       exec (.uncorrectableError ch off port tag synd) s = .next s) ∧
     (s.mcState ch ∉ [0, 3, 5, 6] → Does (.dramCommandError ch off port tag) s fun t =>
       t.mcState ch = 3 ∧ Counted s t (MC_CMD_ERR ch) ∧ t.weaver.replaceDue = true ∧
       t.reg (MC ch 0x010) = BitVec.ofNat 32 (ch.val * 2 ^ 33 + off.toNat)) ∧
     ((s.mcState ch = 0 ∨ s.mcState ch = 3 ∨ s.mcState ch = 5) → Does (.dramCommandError ch off port tag) s fun t =>
       Counted s t (MC_CMD_ERR ch) ∧ t.mcState ch = s.mcState ch ∧ (s.pcie.bar2Waits = [] → t.streams = s.streams)) ∧
     (s.mcState ch = 6 → Does (.dramCommandError ch off port tag) s fun t =>
       t.mcState ch = 6 ∧ t.reg (MC_CMD_ERR ch) = s.reg (MC_CMD_ERR ch))) ∧
  (∀ (ch : Fin 16) (off : BitVec 33) (s : State) (checked : Bool),
     checked = s.pageChecked (pageOf (ch.val * 2 ^ 33 + off.toNat)) →
     (checked = true → s.chanServes ch = true → Does (.correctedError ch off) s fun t => Counted s t (MC_CE_COUNT ch) ∧
       (t.chan ch).ceHour = (s.chan ch).ceHour + 1) ∧
     ((checked = false ∨ s.chanServes ch = false) → exec (.correctedError ch off) s = .next s) ∧
     ((s.chan ch).ceHour = 0 → exec (.correctedHour ch) s = .next s) ∧
     ((s.chan ch).ceHour ≠ 0 → Does (.correctedHour ch) s fun t => (t.chan ch).ceHour = 0 ∧
       t.ledger.reqs.length = s.ledger.reqs.length + 1) ∧
     ∀ (x : Fin 3) (passEnd : Bool),
       (s.mcState ch ≠ 1 → s.mcState ch ≠ 4 → exec (.patrolScrub ch off x passEnd) s = .next s) ∧
       ((s.mcState ch = 1 ∨ s.mcState ch = 4) →
         (passEnd = true → Does (.patrolScrub ch off x passEnd) s fun t =>
           t.reg (MC_SCRUB_PASSES ch) = s.reg (MC_SCRUB_PASSES ch) + 1) ∧
         (passEnd = false → (x = 0 ∨ checked = false) → exec (.patrolScrub ch off x passEnd) s = .next s) ∧
         (x = 1 → checked = true → Does (.patrolScrub ch off x passEnd) s fun t => Counted s t (MC_CE_COUNT ch)) ∧
         (x = 2 → checked = true → Does (.patrolScrub ch off x passEnd) s fun t =>
           t.mcState ch = 3 ∧ Counted s t (MC_UE_COUNT ch))))

/-- R288 to R291: drift accumulates; an evacuated channel that holds nothing needed is retrained; a training that ends well
leaves the channel active with its point in time; one that fails steps the rate down, and at the lowest rate the channel is
retired. R285, R292, R294, R295, Table 12.6: a sweep step ends with DONE; initial training steps the rate down for each
failure, and retires a channel that fails at the lowest rate or has not the board's density; self-refresh of an idle channel,
and its wake with one drift run. -/
def Obligations.ChannelTraining : Prop :=
  (∀ (ch : Fin 16) (steps : Int) (temp : Half) (s : State),
     ((s.mcState ch = 1 ∨ s.mcState ch = 4) → Does (.driftTracking ch steps temp) s fun t =>
       (t.chan ch).drift = (s.chan ch).drift + steps) ∧
     (s.mcState ch ≠ 1 → s.mcState ch ≠ 4 → exec (.driftTracking ch steps temp) s = .next s) ∧
     (s.mcState ch = 4 → s.weaver.replaceDue = false → s.chanStripe ch = false → s.chanNeeded ch = false →
       s.chanJobRef ch = false → s.chanReserved ch = false → ch.val ∉ s.fwChans →
       Does (.evacuationDone ch) s fun t => t.mcState ch = 5) ∧
     ((s.mcState ch ≠ 4 ∨ s.weaver.replaceDue = true ∨ s.chanStripe ch = true ∨ s.chanNeeded ch = true ∨ s.chanJobRef ch = true ∨
         s.chanReserved ch = true ∨ ch.val ∈ s.fwChans) →
       exec (.evacuationDone ch) s = .next s) ∧
     (s.mcState ch = 5 → (∀ x ∈ s.weaver.tests, x.unit = uMc ch → x.classes = []) → (∀ x ∈ s.pcie.bar2Waits, x.2.2.eccFail = false) →
       Does (.retrainingDone ch temp) s fun t => t.mcState ch = 1 ∧ Counted s t (MC_RETRAINS ch) ∧
         t.reg (MC_TRAIN_TIME ch) = s.opSeconds ∧ (t.chan ch).drift = 0) ∧
     ((s.mcState ch ≠ 5 ∨ ∃ x ∈ s.weaver.tests, x.unit = uMc ch ∧ x.classes ≠ []) →
       exec (.retrainingDone ch temp) s = .next s) ∧
     ((s.mcState ch = 5 ∨ s.mcState ch = 0) →
       (s.chanRate ch < 2 → s.sweepRuns ch = false → Does (.trainingFailed ch) s fun t => t.chanRate ch = s.chanRate ch + 1 ∧
         t.mcState ch = s.mcState ch) ∧
       (s.chanRate ch < 2 → s.sweepRuns ch = true → Does (.trainingFailed ch) s fun t => t.chanRate ch = s.chanRate ch ∧
         (t.chan ch).rateReq = some (BitVec.ofNat 2 (s.chanRate ch + 1)) ∧ t.mcState ch = s.mcState ch) ∧
       (2 ≤ s.chanRate ch → s.isRetired (uMc ch) = false → Does (.trainingFailed ch) s fun t => t.mcState ch = 6)) ∧
     (s.mcState ch ≠ 5 → s.mcState ch ≠ 0 → exec (.trainingFailed ch) s = .next s)) ∧
  (∀ (ch : Fin 16) (steps : Int) (temp : Half) (s : State),
     ((s.regBit (MC_TRN_CTL ch) 5 = true ∨ (s.chan ch).sweeping = true) → Does (.sweepStepDone ch) s fun t =>
       t.regBit (MC_TRN_CTL ch) 5 = false ∧ t.regBit (MC_TRN_CTL ch) 6 = true ∧ (t.chan ch).sweeping = false) ∧
     (s.regBit (MC_TRN_CTL ch) 5 = false → (s.chan ch).sweeping = false → exec (.sweepStepDone ch) s = .next s) ∧
     (∀ (fails : Nat) (density : BitVec 2),
       ((s.mcState ch ≠ 0 ∨ s.underTest (uMc ch) = true) → exec (.initialTraining ch fails density temp) s = .next s) ∧
       (s.mcState ch = 0 → s.underTest (uMc ch) = false → s.isRetired (uMc ch) = false → (fails ≠ 0 → s.sweepRuns ch = false) →
         (2 * 2 ^ density.toNat = s.power.board.channelGib →
           ((fails = 0 ∨ s.chanRate ch + fails ≤ 2) → Does (.initialTraining ch fails density temp) s fun t =>
             t.mcState ch = 1 ∧ t.chanRate ch = s.chanRate ch + fails ∧ t.chanDensity ch = density.toNat ∧
             t.reg (MC_TRAIN_TIME ch) = s.opSeconds) ∧
           (fails ≠ 0 → 2 < s.chanRate ch + fails → Does (.initialTraining ch fails density temp) s fun t => t.mcState ch = 6)) ∧
         (2 * 2 ^ density.toNat ≠ s.power.board.channelGib → Does (.initialTraining ch fails density temp) s fun t =>
           t.mcState ch = 6))) ∧
     (s.chanIdle ch = true → Does (.selfRefreshEntry ch) s fun t => t.mcState ch = 2 ∧ Counted s t (MC_SR_ENTRIES ch)) ∧
     (s.chanIdle ch = false → exec (.selfRefreshEntry ch) s = .next s) ∧
     (s.mcState ch = 2 → (∀ x ∈ s.pcie.bar2Waits, x.2.2.eccFail = false) → Does (.channelWake ch steps temp) s fun t => t.mcState ch = 1 ∧
       (t.chan ch).drift = (s.chan ch).drift + steps) ∧
     (s.mcState ch ≠ 2 → exec (.channelWake ch steps temp) s = .next s))

/-- R18, R307, R308: a module is retired once, and with a die's last one its units, of which lanes are not named here; a
targeted self-test that the host started and that passes ends the test and counts nothing; a unit that is not under test has
no verdict. R310 to R312, R317, R444: re-placement runs once when it is due, and marks the placement as not the committed one;
a die's digest check finds a match when the register file holds what firmware wrote; no check runs while the register file is
unlocked, nor on a die that is absent or asleep. -/
def Obligations.VerdictsAndReplacement : Prop :=
  ((∀ (d : Fin 2) (m : Fin 4) (s : State),
     (s.isRetired (uModule d m) = true → exec (.moduleRetired d m) s = .next s) ∧
     (s.isRetired (uModule d m) = false → 2 ≤ s.modules d →
       Does (.moduleRetired d m) s fun t => t.isRetired (uModule d m) = true ∧ t.weaver.replaceDue = true) ∧
     (s.isRetired (uModule d m) = false → s.modules d ≤ 1 →
       Does (.moduleRetired d m) s fun t => ∀ u ∈ dieUnits d, uaKind u ≠ 4 → t.isRetired u = true)) ∧
   ∀ (u : Word) (results : List (Byte × Bool)) (detail : Word) (s : State),
     (s.weaver.tests.find? (·.unit = u) = none → exec (.targetedSelfTestDone u results detail) s = .next s) ∧
     ∀ x, s.weaver.tests.find? (·.unit = u) = some x → x.classes = [] →
       ((∀ r ∈ results, r.2 = true) → x.byError = false → s.isRetired u = false → uaIsSlice u = false →
         Does (.targetedSelfTestDone u results detail) s fun t => t.underTest u = false ∧
           t.weaver.transients = s.weaver.transients) ∧
       (∀ r ∈ results, r.2 = false → s.isRetired u = true →
         Does (.targetedSelfTestDone u results detail) s fun t => t.isRetired u = true ∧ Counted s t HUB_LASTING)) ∧
  ((∀ s s1 : State, s1 = s.modWeaver (fun w => { w with replaceDue := false }) →
     ((s.weaver.replaceDue = false ∨ s.failed = true) → exec .replacement s = .next s) ∧
     (s.weaver.replaceDue = true → s.failed = false → s.epochNo = 0 →
       Does .replacement s fun t => t.weaver.replaceDue = false ∧ t.weaver.place = s.weaver.place) ∧
     (s.weaver.replaceDue = true → s.failed = false → s.epochNo ≠ 0 →
       Does .replacement s fun t => t.regBit HUB_HEALTH 0 = true ∧
         t.regBit HUB_HEALTH 1 = !(match s1.newPlacement with | some x => x.2 | none => s.weaver.shed).isEmpty)) ∧
   ∀ (die : Die) (upsets : List (BitVec 26 × Word)) (sticky : Bool) (s : State),
     ((s.unlocked = true ∨ (s.halfPart = true ∧ die = .cd1) ∨ (s.asleep = true ∧ die ≠ .hd)) →
       exec (.dieDigestCheck die upsets sticky) s = .next s) ∧
     (s.unlocked = false → (s.asleep = true → die = .hd) → (s.halfPart = true → die ≠ .cd1) →
       s.expectedDigest (dieNo die) = s.reportedDigest (dieNo die) →
       Does (.dieDigestCheck die [] sticky) s fun t => t.regBit HUB_DIG_MATCH (dieNo die) = true))

/-- R120, R373, R384: the oldest request that may become a record becomes one, with the next SEQ, or is refused and counted
when there is no room; a power failure stops creation. R379: a record of severity 3 or more makes a flush due. R379, R380,
R393: a flush counts and writes the records that wait to every bank in service; a bank whose verification fails leaves
service, and with the last one the ledger becomes volatile and keeps its buffer; under LEDGER_VOLATILE a flush does nothing.
R394, R395: a bank whose region test has passed takes the whole log, and from LEDGER_VOLATILE the buffer, and returns to
service; a scrub goes on by one region of 128, and a record that fails in both banks is lost. -/
def Obligations.LedgerRecords : Prop :=
  (∀ s : State,
     ((s.ledger.reqs.find? s.reqReady = none ∨ s.power.pwrFail = true) → exec .ledgerRecordCreate s = .next s) ∧
     ∀ r, s.ledger.reqs.find? s.reqReady = some r → s.power.pwrFail = false →
       (∀ tail, s.recordPlace (r.severity.toNat == 4) (recordLength r.body.length (s.snapList r.trigger.toNat).length) = some tail →
         (s.reg64 LG_NEXT_SEQ_LO + 1 < 2 ^ 64 → Does .ledgerRecordCreate s fun t => t.ledger.reqs = s.ledger.reqs.erase r ∧
           t.reg64 LG_NEXT_SEQ_LO = s.reg64 LG_NEXT_SEQ_LO + 1 ∧ t.reg LG_REFUSED = s.reg LG_REFUSED) ∧
         (3 ≤ r.severity.toNat → s.ledgerVolatile = false → Does .ledgerRecordCreate s fun t => t.regBit LG_STATUS 6 = true)) ∧
       (s.recordPlace (r.severity.toNat == 4) (recordLength r.body.length (s.snapList r.trigger.toNat).length) = none →
         Does .ledgerRecordCreate s fun t => t.ledger.reqs = s.ledger.reqs.erase r ∧
           t.reg64 LG_NEXT_SEQ_LO = s.reg64 LG_NEXT_SEQ_LO ∧
           t.reg LG_REFUSED = (if s.reg LG_REFUSED = 0xFFFFFFFF then 0xFFFFFFFF else
             BitVec.ofNat 32 (min 0xFFFFFFFE ((s.reg LG_REFUSED).toNat + 1))) ∧ t.queues = s.queues)) ∧
  (∀ (fail : Option (Fin 2 × Nat)) (s : State),
     (s.ledgerVolatile = true → exec (.ledgerFlush fail) s = .next s) ∧
     (s.ledgerVolatile = false →
       (s.ledgerBuffer = [] → Does (.ledgerFlush fail) s fun t => Counted s t LG_FLUSHES ∧ t.ledger = s.ledger) ∧
       (fail = none → Does (.ledgerFlush fail) s fun t => Counted s t LG_FLUSHES ∧ t.regBit LG_STATUS 6 = false ∧
         ∀ r ∈ s.ledgerBuffer, ∀ b < 2, s.bankIn b = true → ∃ x ∈ t.ledger.bank b, x.seq = r.seq) ∧
       (∀ r, s.ledgerBuffer = [r] →
         (fail = none → (s.bankIn 0 = true ∨ s.bankIn 1 = true) → Does (.ledgerFlush fail) s fun t =>
           (t.queue 3).items = (s.queue 3).items.drop (firstPacket (s.queue 3).items)) ∧
         (∀ b : Fin 2, fail = some (b, 0) → s.bankIn b = true →
           (Does (.ledgerFlush fail) s fun t => t.bankIn b = false ∧ Counted s t LG_VERIFY_FAIL) ∧
           (s.bankIn (1 - b.val) = true → Does (.ledgerFlush fail) s fun t => t.bankIn (1 - b.val) = true ∧
             t.ledgerVolatile = false ∧ ∃ x ∈ t.ledger.bank (1 - b.val), x.seq = r.seq) ∧
           (s.bankIn (1 - b.val) = false → Does (.ledgerFlush fail) s fun t => t.ledgerVolatile = true ∧
             (t.queue 3).items = (s.queue 3).items))))) ∧
  ((∀ (b : Fin 2) (s : State),
     ((s.bankIn b = true ∨ s.isRetired (uMram b) = true ∨ s.underTest (uMram b) = true) → exec (.ledgerRestored b) s = .next s) ∧
     (s.bankIn b = false → s.isRetired (uMram b) = false → s.underTest (uMram b) = false →
       (Does (.ledgerRestored b) s fun t => t.bankIn b = true ∧ t.regBit LG_STATUS 2 = (!s.bankIn (1 - b.val)) ∧
         t.ledgerVolatile = false) ∧
       (s.ledgerVolatile = false → Does (.ledgerRestored b) s fun t => t.ledger.bank b = s.ledgerLog) ∧
       (s.ledgerVolatile = true → Does (.ledgerRestored b) s fun t =>
         ∀ r ∈ s.ledgerBuffer, ∃ x ∈ t.ledger.bank b, x.seq = r.seq))) ∧
   ∀ (bad0 bad1 : List Nat) (s : State), Does (.ledgerScrub bad0 bad1) s fun t =>
     t.regF LG_SCRUB 0 7 = (s.regF LG_SCRUB 0 7 + 1) % 128 ∧
       t.reg LG_SCRUB_PASSES = s.reg LG_SCRUB_PASSES + (if s.regF LG_SCRUB 0 7 = 127 then 1 else 0) ∧
       ∀ q ∈ s.ledgerLog.map (·.seq), q ∈ bad0 → q ∈ bad1 → q ∈ t.ledger.lost)
end

