-- ==== Sys2Proof/Laws/Tbl.lean ====
section
/-!
SUPPORT. Laws of sparse tables: a read after a write, for every table, and the canonical form under writes.
-/
namespace Sys2Proof.Tbl

variable {α : Type}

theorem find?_put_self (t : Tbl α) (k : Nat) (v : α) : find? (put t k v) k = some v := by
  induction t with
  | nil => simp [put, find?]
  | cons e t ih =>
    obtain ⟨i, w⟩ := e
    simp only [put]
    split
    · simp [find?]
    · split
      · simp [find?]
      · rename_i h
        simp [find?, ih, Ne.symm h]

theorem find?_put_of_ne (t : Tbl α) {j k : Nat} (v : α) (h : j ≠ k) : find? (put t k v) j = find? t j := by
  induction t with
  | nil => simp [put, find?, Ne.symm h]
  | cons e t ih =>
    obtain ⟨i, w⟩ := e
    simp only [put]
    split
    · simp [find?, Ne.symm h]
    · split
      · rename_i hk
        subst hk
        simp [find?, Ne.symm h]
      · simp [find?, ih]

theorem find?_del_self (t : Tbl α) (k : Nat) : find? (del t k) k = none := by
  induction t with
  | nil => rfl
  | cons e t ih =>
    obtain ⟨i, w⟩ := e
    simp only [del]
    split
    · exact ih
    · rename_i h
      simp [find?, ih, Ne.symm h]

theorem find?_del_of_ne (t : Tbl α) {j k : Nat} (h : j ≠ k) : find? (del t k) j = find? t j := by
  induction t with
  | nil => rfl
  | cons e t ih =>
    obtain ⟨i, w⟩ := e
    simp only [del]
    split
    · rename_i hk
      subst hk
      simp [find?, ih, Ne.symm h]
    · simp [find?, ih]

@[simp] theorem getD_put_self (t : Tbl α) (k : Nat) (v d : α) : getD (put t k v) k d = v := by
  simp [getD, find?_put_self]

theorem getD_put_of_ne (t : Tbl α) {j k : Nat} (v d : α) (h : j ≠ k) : getD (put t k v) j d = getD t j d := by
  simp [getD, find?_put_of_ne t v h]

section
variable [DecidableEq α]

/-- What was stored is read back. -/
@[simp] theorem getD_set_self (t : Tbl α) (k : Nat) (v d : α) : getD (set t k v d) k d = v := by
  unfold set
  split
  · rename_i h
    simp [getD, find?_del_self, h]
  · simp

/-- A write leaves every other key alone. -/
theorem getD_set_of_ne (t : Tbl α) {j k : Nat} (v d e : α) (h : j ≠ k) : getD (set t k v d) j e = getD t j e := by
  unfold set
  split
  · simp [getD, find?_del_of_ne t h]
  · exact getD_put_of_ne t v e h

end

/-! ### The canonical form -/

theorem above_mono {t : Tbl α} {i k : Nat} (h : above t k = true) (hik : i < k) : above t i = true := by
  cases t with
  | nil => rfl
  | cons e t => simp [above] at *; omega

theorem above_put {t : Tbl α} {i k : Nat} (v : α) (h : above t i = true) (hik : i < k) : above (put t k v) i = true := by
  cases t with
  | nil => simp [put, above, hik]
  | cons e t =>
    obtain ⟨j, w⟩ := e
    simp only [put]
    simp [above] at h
    split
    · simp [above, hik]
    · split
      · simp [above, hik]
      · simp [above, h]

theorem sorted_put {t : Tbl α} (k : Nat) (v : α) (h : sorted t = true) : sorted (put t k v) = true := by
  induction t with
  | nil => simp [put, sorted, above]
  | cons e t ih =>
    obtain ⟨i, w⟩ := e
    simp only [sorted, Bool.and_eq_true] at h
    simp only [put]
    split
    · rename_i hk
      simp only [sorted, Bool.and_eq_true]
      exact ⟨by simp [above, hk], h⟩
    · split
      · rename_i hk
        subst hk
        simp [sorted, h.1, h.2]
      · rename_i h1 h2
        simp only [sorted, Bool.and_eq_true]
        exact ⟨above_put v h.1 (by omega), ih h.2⟩

theorem above_del {t : Tbl α} {i : Nat} (k : Nat) (hs : sorted t = true) (h : above t i = true) :
    above (del t k) i = true := by
  induction t with
  | nil => rfl
  | cons e t ih =>
    obtain ⟨j, w⟩ := e
    simp only [sorted, Bool.and_eq_true] at hs
    simp only [del]
    have hj : i < j := by simpa [above] using h
    split
    · exact ih hs.2 (above_mono hs.1 hj)
    · simp [above, hj]

theorem sorted_del {t : Tbl α} (k : Nat) (h : sorted t = true) : sorted (del t k) = true := by
  induction t with
  | nil => rfl
  | cons e t ih =>
    obtain ⟨i, w⟩ := e
    simp only [sorted, Bool.and_eq_true] at h
    simp only [del]
    split
    · exact ih h.2
    · simp only [sorted, Bool.and_eq_true]
      exact ⟨above_del k h.2 h.1, ih h.2⟩

/-- Keys keep rising. -/
theorem sorted_set [DecidableEq α] {t : Tbl α} (k : Nat) (v d : α) (h : sorted t = true) : sorted (set t k v d) = true := by
  unfold set
  split
  · exact sorted_del k h
  · exact sorted_put k v h

theorem lean_del [DecidableEq α] {t : Tbl α} {dflt : Nat → α} (k : Nat) (h : lean t dflt = true) :
    lean (del t k) dflt = true := by
  induction t with
  | nil => rfl
  | cons e t ih =>
    obtain ⟨i, w⟩ := e
    simp only [lean, List.all_cons, Bool.and_eq_true] at h
    simp only [del]
    split
    · exact ih h.2
    · simp only [lean, List.all_cons, Bool.and_eq_true]
      exact ⟨h.1, ih h.2⟩

theorem lean_put [DecidableEq α] {t : Tbl α} {dflt : Nat → α} (k : Nat) (v : α) (hv : v ≠ dflt k)
    (h : lean t dflt = true) : lean (put t k v) dflt = true := by
  induction t with
  | nil => simp [put, lean, hv]
  | cons e t ih =>
    obtain ⟨i, w⟩ := e
    simp only [lean, List.all_cons, Bool.and_eq_true] at h
    simp only [put]
    split
    · simp only [lean, List.all_cons, Bool.and_eq_true]
      exact ⟨by simpa using hv, h⟩
    · split
      · rename_i hk
        subst hk
        simp only [lean, List.all_cons, Bool.and_eq_true]
        exact ⟨by simpa using hv, h.2⟩
      · simp only [lean, List.all_cons, Bool.and_eq_true]
        exact ⟨h.1, ih h.2⟩

/-- No entry comes to hold what its key reads as when unlisted. -/
theorem lean_set [DecidableEq α] {t : Tbl α} {dflt : Nat → α} (k : Nat) (v : α) (h : lean t dflt = true) :
    lean (set t k v (dflt k)) dflt = true := by
  unfold set
  split
  · exact lean_del k h
  · rename_i hv
    exact lean_put k v hv h

end Sys2Proof.Tbl
end

