-- ==== Sys2Proof/Laws/State.lean ====
section
/-!
SUPPORT. One lemma per field for each update of the state, and a read after each write.
-/
namespace Sys2Proof.Machine.State

variable (s : State)

/-! ### One register -/

@[simp] theorem setReg_pending (a : Nat) (v : Word) : (s.setReg a v).pending = s.pending := rfl
@[simp] theorem setReg_fwRegs (a : Nat) (v : Word) : (s.setReg a v).fwRegs = s.fwRegs := rfl
@[simp] theorem setReg_mbx (a : Nat) (v : Word) : (s.setReg a v).mbx = s.mbx := rfl
@[simp] theorem setReg_pcie (a : Nat) (v : Word) : (s.setReg a v).pcie = s.pcie := rfl
@[simp] theorem setReg_time (a : Nat) (v : Word) : (s.setReg a v).time = s.time := rfl
@[simp] theorem setReg_power (a : Nat) (v : Word) : (s.setReg a v).power = s.power := rfl
@[simp] theorem setReg_weaver (a : Nat) (v : Word) : (s.setReg a v).weaver = s.weaver := rfl
@[simp] theorem setReg_lanes (a : Nat) (v : Word) : (s.setReg a v).lanes = s.lanes := rfl
@[simp] theorem setReg_stakes (a : Nat) (v : Word) : (s.setReg a v).stakes = s.stakes := rfl
@[simp] theorem setReg_ports (a : Nat) (v : Word) : (s.setReg a v).ports = s.ports := rfl
@[simp] theorem setReg_trig (a : Nat) (v : Word) : (s.setReg a v).trig = s.trig := rfl
@[simp] theorem setReg_seqs (a : Nat) (v : Word) : (s.setReg a v).seqs = s.seqs := rfl
@[simp] theorem setReg_touts (a : Nat) (v : Word) : (s.setReg a v).touts = s.touts := rfl
@[simp] theorem setReg_refs (a : Nat) (v : Word) : (s.setReg a v).refs = s.refs := rfl
@[simp] theorem setReg_cmps (a : Nat) (v : Word) : (s.setReg a v).cmps = s.cmps := rfl
@[simp] theorem setReg_hists (a : Nat) (v : Word) : (s.setReg a v).hists = s.hists := rfl
@[simp] theorem setReg_images (a : Nat) (v : Word) : (s.setReg a v).images = s.images := rfl
@[simp] theorem setReg_ivals (a : Nat) (v : Word) : (s.setReg a v).ivals = s.ivals := rfl
@[simp] theorem setReg_streams (a : Nat) (v : Word) : (s.setReg a v).streams = s.streams := rfl
@[simp] theorem setReg_queues (a : Nat) (v : Word) : (s.setReg a v).queues = s.queues := rfl
@[simp] theorem setReg_ces (a : Nat) (v : Word) : (s.setReg a v).ces = s.ces := rfl
@[simp] theorem setReg_des (a : Nat) (v : Word) : (s.setReg a v).des = s.des := rfl
@[simp] theorem setReg_mem (a : Nat) (v : Word) : (s.setReg a v).mem = s.mem := rfl
@[simp] theorem setReg_scheds (a : Nat) (v : Word) : (s.setReg a v).scheds = s.scheds := rfl
@[simp] theorem setReg_ledger (a : Nat) (v : Word) : (s.setReg a v).ledger = s.ledger := rfl
@[simp] theorem setReg_station (a : Nat) (v : Word) : (s.setReg a v).station = s.station := rfl
@[simp] theorem setReg_out (a : Nat) (v : Word) : (s.setReg a v).out = s.out := rfl
@[simp] theorem setReg_drawn (a : Nat) (v : Word) : (s.setReg a v).drawn = s.drawn := rfl

@[simp] theorem reg_setReg (a : Nat) (v : Word) : (s.setReg a v).reg a = v := by simp [reg, setReg]
theorem reg_setReg_of_ne {a b : Nat} (v : Word) (h : b ≠ a) : (s.setReg a v).reg b = s.reg b := by
  simp [reg, setReg, Tbl.getD_set_of_ne _ v _ _ h]

/-! ### One element of a table, and one part of the state -/

@[simp] theorem setLane_pending (i : Nat) (v : LaneDyn) : (s.setLane i v).pending = s.pending := rfl
@[simp] theorem setLane_regs (i : Nat) (v : LaneDyn) : (s.setLane i v).regs = s.regs := rfl
@[simp] theorem setLane_fwRegs (i : Nat) (v : LaneDyn) : (s.setLane i v).fwRegs = s.fwRegs := rfl
@[simp] theorem setLane_mbx (i : Nat) (v : LaneDyn) : (s.setLane i v).mbx = s.mbx := rfl
@[simp] theorem setLane_pcie (i : Nat) (v : LaneDyn) : (s.setLane i v).pcie = s.pcie := rfl
@[simp] theorem setLane_time (i : Nat) (v : LaneDyn) : (s.setLane i v).time = s.time := rfl
@[simp] theorem setLane_power (i : Nat) (v : LaneDyn) : (s.setLane i v).power = s.power := rfl
@[simp] theorem setLane_weaver (i : Nat) (v : LaneDyn) : (s.setLane i v).weaver = s.weaver := rfl
@[simp] theorem setLane_stakes (i : Nat) (v : LaneDyn) : (s.setLane i v).stakes = s.stakes := rfl
@[simp] theorem setLane_ports (i : Nat) (v : LaneDyn) : (s.setLane i v).ports = s.ports := rfl
@[simp] theorem setLane_trig (i : Nat) (v : LaneDyn) : (s.setLane i v).trig = s.trig := rfl
@[simp] theorem setLane_seqs (i : Nat) (v : LaneDyn) : (s.setLane i v).seqs = s.seqs := rfl
@[simp] theorem setLane_touts (i : Nat) (v : LaneDyn) : (s.setLane i v).touts = s.touts := rfl
@[simp] theorem setLane_refs (i : Nat) (v : LaneDyn) : (s.setLane i v).refs = s.refs := rfl
@[simp] theorem setLane_cmps (i : Nat) (v : LaneDyn) : (s.setLane i v).cmps = s.cmps := rfl
@[simp] theorem setLane_hists (i : Nat) (v : LaneDyn) : (s.setLane i v).hists = s.hists := rfl
@[simp] theorem setLane_images (i : Nat) (v : LaneDyn) : (s.setLane i v).images = s.images := rfl
@[simp] theorem setLane_ivals (i : Nat) (v : LaneDyn) : (s.setLane i v).ivals = s.ivals := rfl
@[simp] theorem setLane_streams (i : Nat) (v : LaneDyn) : (s.setLane i v).streams = s.streams := rfl
@[simp] theorem setLane_queues (i : Nat) (v : LaneDyn) : (s.setLane i v).queues = s.queues := rfl
@[simp] theorem setLane_ces (i : Nat) (v : LaneDyn) : (s.setLane i v).ces = s.ces := rfl
@[simp] theorem setLane_des (i : Nat) (v : LaneDyn) : (s.setLane i v).des = s.des := rfl
@[simp] theorem setLane_mem (i : Nat) (v : LaneDyn) : (s.setLane i v).mem = s.mem := rfl
@[simp] theorem setLane_scheds (i : Nat) (v : LaneDyn) : (s.setLane i v).scheds = s.scheds := rfl
@[simp] theorem setLane_ledger (i : Nat) (v : LaneDyn) : (s.setLane i v).ledger = s.ledger := rfl
@[simp] theorem setLane_station (i : Nat) (v : LaneDyn) : (s.setLane i v).station = s.station := rfl
@[simp] theorem setLane_out (i : Nat) (v : LaneDyn) : (s.setLane i v).out = s.out := rfl
@[simp] theorem setLane_drawn (i : Nat) (v : LaneDyn) : (s.setLane i v).drawn = s.drawn := rfl
@[simp] theorem lane_setLane (i : Nat) (v : LaneDyn) : (s.setLane i v).lane i = v := by simp [lane, setLane]
theorem lane_setLane_of_ne {i j : Nat} (v : LaneDyn) (h : j ≠ i) : (s.setLane i v).lane j = s.lane j := by
  simp [lane, setLane, Tbl.getD_set_of_ne _ v _ _ h]
@[simp] theorem modLane_eq (i : Nat) (f : LaneDyn → LaneDyn) : s.modLane i f = s.setLane i (f (s.lane i)) := rfl

@[simp] theorem setStake_pending (i : Nat) (v : StakeDyn) : (s.setStake i v).pending = s.pending := rfl
@[simp] theorem setStake_regs (i : Nat) (v : StakeDyn) : (s.setStake i v).regs = s.regs := rfl
@[simp] theorem setStake_fwRegs (i : Nat) (v : StakeDyn) : (s.setStake i v).fwRegs = s.fwRegs := rfl
@[simp] theorem setStake_mbx (i : Nat) (v : StakeDyn) : (s.setStake i v).mbx = s.mbx := rfl
@[simp] theorem setStake_pcie (i : Nat) (v : StakeDyn) : (s.setStake i v).pcie = s.pcie := rfl
@[simp] theorem setStake_time (i : Nat) (v : StakeDyn) : (s.setStake i v).time = s.time := rfl
@[simp] theorem setStake_power (i : Nat) (v : StakeDyn) : (s.setStake i v).power = s.power := rfl
@[simp] theorem setStake_weaver (i : Nat) (v : StakeDyn) : (s.setStake i v).weaver = s.weaver := rfl
@[simp] theorem setStake_lanes (i : Nat) (v : StakeDyn) : (s.setStake i v).lanes = s.lanes := rfl
@[simp] theorem setStake_ports (i : Nat) (v : StakeDyn) : (s.setStake i v).ports = s.ports := rfl
@[simp] theorem setStake_trig (i : Nat) (v : StakeDyn) : (s.setStake i v).trig = s.trig := rfl
@[simp] theorem setStake_seqs (i : Nat) (v : StakeDyn) : (s.setStake i v).seqs = s.seqs := rfl
@[simp] theorem setStake_touts (i : Nat) (v : StakeDyn) : (s.setStake i v).touts = s.touts := rfl
@[simp] theorem setStake_refs (i : Nat) (v : StakeDyn) : (s.setStake i v).refs = s.refs := rfl
@[simp] theorem setStake_cmps (i : Nat) (v : StakeDyn) : (s.setStake i v).cmps = s.cmps := rfl
@[simp] theorem setStake_hists (i : Nat) (v : StakeDyn) : (s.setStake i v).hists = s.hists := rfl
@[simp] theorem setStake_images (i : Nat) (v : StakeDyn) : (s.setStake i v).images = s.images := rfl
@[simp] theorem setStake_ivals (i : Nat) (v : StakeDyn) : (s.setStake i v).ivals = s.ivals := rfl
@[simp] theorem setStake_streams (i : Nat) (v : StakeDyn) : (s.setStake i v).streams = s.streams := rfl
@[simp] theorem setStake_queues (i : Nat) (v : StakeDyn) : (s.setStake i v).queues = s.queues := rfl
@[simp] theorem setStake_ces (i : Nat) (v : StakeDyn) : (s.setStake i v).ces = s.ces := rfl
@[simp] theorem setStake_des (i : Nat) (v : StakeDyn) : (s.setStake i v).des = s.des := rfl
@[simp] theorem setStake_mem (i : Nat) (v : StakeDyn) : (s.setStake i v).mem = s.mem := rfl
@[simp] theorem setStake_scheds (i : Nat) (v : StakeDyn) : (s.setStake i v).scheds = s.scheds := rfl
@[simp] theorem setStake_ledger (i : Nat) (v : StakeDyn) : (s.setStake i v).ledger = s.ledger := rfl
@[simp] theorem setStake_station (i : Nat) (v : StakeDyn) : (s.setStake i v).station = s.station := rfl
@[simp] theorem setStake_out (i : Nat) (v : StakeDyn) : (s.setStake i v).out = s.out := rfl
@[simp] theorem setStake_drawn (i : Nat) (v : StakeDyn) : (s.setStake i v).drawn = s.drawn := rfl
@[simp] theorem stake_setStake (i : Nat) (v : StakeDyn) : (s.setStake i v).stake i = v := by simp [stake, setStake]
theorem stake_setStake_of_ne {i j : Nat} (v : StakeDyn) (h : j ≠ i) : (s.setStake i v).stake j = s.stake j := by
  simp [stake, setStake, Tbl.getD_set_of_ne _ v _ _ h]
@[simp] theorem modStake_eq (i : Nat) (f : StakeDyn → StakeDyn) : s.modStake i f = s.setStake i (f (s.stake i)) := rfl

@[simp] theorem setPort_pending (i : Nat) (v : PortDyn) : (s.setPort i v).pending = s.pending := rfl
@[simp] theorem setPort_regs (i : Nat) (v : PortDyn) : (s.setPort i v).regs = s.regs := rfl
@[simp] theorem setPort_fwRegs (i : Nat) (v : PortDyn) : (s.setPort i v).fwRegs = s.fwRegs := rfl
@[simp] theorem setPort_mbx (i : Nat) (v : PortDyn) : (s.setPort i v).mbx = s.mbx := rfl
@[simp] theorem setPort_pcie (i : Nat) (v : PortDyn) : (s.setPort i v).pcie = s.pcie := rfl
@[simp] theorem setPort_time (i : Nat) (v : PortDyn) : (s.setPort i v).time = s.time := rfl
@[simp] theorem setPort_power (i : Nat) (v : PortDyn) : (s.setPort i v).power = s.power := rfl
@[simp] theorem setPort_weaver (i : Nat) (v : PortDyn) : (s.setPort i v).weaver = s.weaver := rfl
@[simp] theorem setPort_lanes (i : Nat) (v : PortDyn) : (s.setPort i v).lanes = s.lanes := rfl
@[simp] theorem setPort_stakes (i : Nat) (v : PortDyn) : (s.setPort i v).stakes = s.stakes := rfl
@[simp] theorem setPort_trig (i : Nat) (v : PortDyn) : (s.setPort i v).trig = s.trig := rfl
@[simp] theorem setPort_seqs (i : Nat) (v : PortDyn) : (s.setPort i v).seqs = s.seqs := rfl
@[simp] theorem setPort_touts (i : Nat) (v : PortDyn) : (s.setPort i v).touts = s.touts := rfl
@[simp] theorem setPort_refs (i : Nat) (v : PortDyn) : (s.setPort i v).refs = s.refs := rfl
@[simp] theorem setPort_cmps (i : Nat) (v : PortDyn) : (s.setPort i v).cmps = s.cmps := rfl
@[simp] theorem setPort_hists (i : Nat) (v : PortDyn) : (s.setPort i v).hists = s.hists := rfl
@[simp] theorem setPort_images (i : Nat) (v : PortDyn) : (s.setPort i v).images = s.images := rfl
@[simp] theorem setPort_ivals (i : Nat) (v : PortDyn) : (s.setPort i v).ivals = s.ivals := rfl
@[simp] theorem setPort_streams (i : Nat) (v : PortDyn) : (s.setPort i v).streams = s.streams := rfl
@[simp] theorem setPort_queues (i : Nat) (v : PortDyn) : (s.setPort i v).queues = s.queues := rfl
@[simp] theorem setPort_ces (i : Nat) (v : PortDyn) : (s.setPort i v).ces = s.ces := rfl
@[simp] theorem setPort_des (i : Nat) (v : PortDyn) : (s.setPort i v).des = s.des := rfl
@[simp] theorem setPort_mem (i : Nat) (v : PortDyn) : (s.setPort i v).mem = s.mem := rfl
@[simp] theorem setPort_scheds (i : Nat) (v : PortDyn) : (s.setPort i v).scheds = s.scheds := rfl
@[simp] theorem setPort_ledger (i : Nat) (v : PortDyn) : (s.setPort i v).ledger = s.ledger := rfl
@[simp] theorem setPort_station (i : Nat) (v : PortDyn) : (s.setPort i v).station = s.station := rfl
@[simp] theorem setPort_out (i : Nat) (v : PortDyn) : (s.setPort i v).out = s.out := rfl
@[simp] theorem setPort_drawn (i : Nat) (v : PortDyn) : (s.setPort i v).drawn = s.drawn := rfl
@[simp] theorem port_setPort (i : Nat) (v : PortDyn) : (s.setPort i v).port i = v := by simp [port, setPort]
theorem port_setPort_of_ne {i j : Nat} (v : PortDyn) (h : j ≠ i) : (s.setPort i v).port j = s.port j := by
  simp [port, setPort, Tbl.getD_set_of_ne _ v _ _ h]
@[simp] theorem modPort_eq (i : Nat) (f : PortDyn → PortDyn) : s.modPort i f = s.setPort i (f (s.port i)) := rfl

@[simp] theorem setSeq_pending (i : Nat) (v : SeqDyn) : (s.setSeq i v).pending = s.pending := rfl
@[simp] theorem setSeq_regs (i : Nat) (v : SeqDyn) : (s.setSeq i v).regs = s.regs := rfl
@[simp] theorem setSeq_fwRegs (i : Nat) (v : SeqDyn) : (s.setSeq i v).fwRegs = s.fwRegs := rfl
@[simp] theorem setSeq_mbx (i : Nat) (v : SeqDyn) : (s.setSeq i v).mbx = s.mbx := rfl
@[simp] theorem setSeq_pcie (i : Nat) (v : SeqDyn) : (s.setSeq i v).pcie = s.pcie := rfl
@[simp] theorem setSeq_time (i : Nat) (v : SeqDyn) : (s.setSeq i v).time = s.time := rfl
@[simp] theorem setSeq_power (i : Nat) (v : SeqDyn) : (s.setSeq i v).power = s.power := rfl
@[simp] theorem setSeq_weaver (i : Nat) (v : SeqDyn) : (s.setSeq i v).weaver = s.weaver := rfl
@[simp] theorem setSeq_lanes (i : Nat) (v : SeqDyn) : (s.setSeq i v).lanes = s.lanes := rfl
@[simp] theorem setSeq_stakes (i : Nat) (v : SeqDyn) : (s.setSeq i v).stakes = s.stakes := rfl
@[simp] theorem setSeq_ports (i : Nat) (v : SeqDyn) : (s.setSeq i v).ports = s.ports := rfl
@[simp] theorem setSeq_trig (i : Nat) (v : SeqDyn) : (s.setSeq i v).trig = s.trig := rfl
@[simp] theorem setSeq_touts (i : Nat) (v : SeqDyn) : (s.setSeq i v).touts = s.touts := rfl
@[simp] theorem setSeq_refs (i : Nat) (v : SeqDyn) : (s.setSeq i v).refs = s.refs := rfl
@[simp] theorem setSeq_cmps (i : Nat) (v : SeqDyn) : (s.setSeq i v).cmps = s.cmps := rfl
@[simp] theorem setSeq_hists (i : Nat) (v : SeqDyn) : (s.setSeq i v).hists = s.hists := rfl
@[simp] theorem setSeq_images (i : Nat) (v : SeqDyn) : (s.setSeq i v).images = s.images := rfl
@[simp] theorem setSeq_ivals (i : Nat) (v : SeqDyn) : (s.setSeq i v).ivals = s.ivals := rfl
@[simp] theorem setSeq_streams (i : Nat) (v : SeqDyn) : (s.setSeq i v).streams = s.streams := rfl
@[simp] theorem setSeq_queues (i : Nat) (v : SeqDyn) : (s.setSeq i v).queues = s.queues := rfl
@[simp] theorem setSeq_ces (i : Nat) (v : SeqDyn) : (s.setSeq i v).ces = s.ces := rfl
@[simp] theorem setSeq_des (i : Nat) (v : SeqDyn) : (s.setSeq i v).des = s.des := rfl
@[simp] theorem setSeq_mem (i : Nat) (v : SeqDyn) : (s.setSeq i v).mem = s.mem := rfl
@[simp] theorem setSeq_scheds (i : Nat) (v : SeqDyn) : (s.setSeq i v).scheds = s.scheds := rfl
@[simp] theorem setSeq_ledger (i : Nat) (v : SeqDyn) : (s.setSeq i v).ledger = s.ledger := rfl
@[simp] theorem setSeq_station (i : Nat) (v : SeqDyn) : (s.setSeq i v).station = s.station := rfl
@[simp] theorem setSeq_out (i : Nat) (v : SeqDyn) : (s.setSeq i v).out = s.out := rfl
@[simp] theorem setSeq_drawn (i : Nat) (v : SeqDyn) : (s.setSeq i v).drawn = s.drawn := rfl
@[simp] theorem seq_setSeq (i : Nat) (v : SeqDyn) : (s.setSeq i v).seq i = v := by simp [seq, setSeq]
theorem seq_setSeq_of_ne {i j : Nat} (v : SeqDyn) (h : j ≠ i) : (s.setSeq i v).seq j = s.seq j := by
  simp [seq, setSeq, Tbl.getD_set_of_ne _ v _ _ h]
@[simp] theorem modSeq_eq (i : Nat) (f : SeqDyn → SeqDyn) : s.modSeq i f = s.setSeq i (f (s.seq i)) := rfl

@[simp] theorem setTout_pending (i : Nat) (v : ToutDyn) : (s.setTout i v).pending = s.pending := rfl
@[simp] theorem setTout_regs (i : Nat) (v : ToutDyn) : (s.setTout i v).regs = s.regs := rfl
@[simp] theorem setTout_fwRegs (i : Nat) (v : ToutDyn) : (s.setTout i v).fwRegs = s.fwRegs := rfl
@[simp] theorem setTout_mbx (i : Nat) (v : ToutDyn) : (s.setTout i v).mbx = s.mbx := rfl
@[simp] theorem setTout_pcie (i : Nat) (v : ToutDyn) : (s.setTout i v).pcie = s.pcie := rfl
@[simp] theorem setTout_time (i : Nat) (v : ToutDyn) : (s.setTout i v).time = s.time := rfl
@[simp] theorem setTout_power (i : Nat) (v : ToutDyn) : (s.setTout i v).power = s.power := rfl
@[simp] theorem setTout_weaver (i : Nat) (v : ToutDyn) : (s.setTout i v).weaver = s.weaver := rfl
@[simp] theorem setTout_lanes (i : Nat) (v : ToutDyn) : (s.setTout i v).lanes = s.lanes := rfl
@[simp] theorem setTout_stakes (i : Nat) (v : ToutDyn) : (s.setTout i v).stakes = s.stakes := rfl
@[simp] theorem setTout_ports (i : Nat) (v : ToutDyn) : (s.setTout i v).ports = s.ports := rfl
@[simp] theorem setTout_trig (i : Nat) (v : ToutDyn) : (s.setTout i v).trig = s.trig := rfl
@[simp] theorem setTout_seqs (i : Nat) (v : ToutDyn) : (s.setTout i v).seqs = s.seqs := rfl
@[simp] theorem setTout_refs (i : Nat) (v : ToutDyn) : (s.setTout i v).refs = s.refs := rfl
@[simp] theorem setTout_cmps (i : Nat) (v : ToutDyn) : (s.setTout i v).cmps = s.cmps := rfl
@[simp] theorem setTout_hists (i : Nat) (v : ToutDyn) : (s.setTout i v).hists = s.hists := rfl
@[simp] theorem setTout_images (i : Nat) (v : ToutDyn) : (s.setTout i v).images = s.images := rfl
@[simp] theorem setTout_ivals (i : Nat) (v : ToutDyn) : (s.setTout i v).ivals = s.ivals := rfl
@[simp] theorem setTout_streams (i : Nat) (v : ToutDyn) : (s.setTout i v).streams = s.streams := rfl
@[simp] theorem setTout_queues (i : Nat) (v : ToutDyn) : (s.setTout i v).queues = s.queues := rfl
@[simp] theorem setTout_ces (i : Nat) (v : ToutDyn) : (s.setTout i v).ces = s.ces := rfl
@[simp] theorem setTout_des (i : Nat) (v : ToutDyn) : (s.setTout i v).des = s.des := rfl
@[simp] theorem setTout_mem (i : Nat) (v : ToutDyn) : (s.setTout i v).mem = s.mem := rfl
@[simp] theorem setTout_scheds (i : Nat) (v : ToutDyn) : (s.setTout i v).scheds = s.scheds := rfl
@[simp] theorem setTout_ledger (i : Nat) (v : ToutDyn) : (s.setTout i v).ledger = s.ledger := rfl
@[simp] theorem setTout_station (i : Nat) (v : ToutDyn) : (s.setTout i v).station = s.station := rfl
@[simp] theorem setTout_out (i : Nat) (v : ToutDyn) : (s.setTout i v).out = s.out := rfl
@[simp] theorem setTout_drawn (i : Nat) (v : ToutDyn) : (s.setTout i v).drawn = s.drawn := rfl
@[simp] theorem tout_setTout (i : Nat) (v : ToutDyn) : (s.setTout i v).tout i = v := by simp [tout, setTout]
theorem tout_setTout_of_ne {i j : Nat} (v : ToutDyn) (h : j ≠ i) : (s.setTout i v).tout j = s.tout j := by
  simp [tout, setTout, Tbl.getD_set_of_ne _ v _ _ h]
@[simp] theorem modTout_eq (i : Nat) (f : ToutDyn → ToutDyn) : s.modTout i f = s.setTout i (f (s.tout i)) := rfl

@[simp] theorem setRef_pending (i : Nat) (v : RefDyn) : (s.setRef i v).pending = s.pending := rfl
@[simp] theorem setRef_regs (i : Nat) (v : RefDyn) : (s.setRef i v).regs = s.regs := rfl
@[simp] theorem setRef_fwRegs (i : Nat) (v : RefDyn) : (s.setRef i v).fwRegs = s.fwRegs := rfl
@[simp] theorem setRef_mbx (i : Nat) (v : RefDyn) : (s.setRef i v).mbx = s.mbx := rfl
@[simp] theorem setRef_pcie (i : Nat) (v : RefDyn) : (s.setRef i v).pcie = s.pcie := rfl
@[simp] theorem setRef_time (i : Nat) (v : RefDyn) : (s.setRef i v).time = s.time := rfl
@[simp] theorem setRef_power (i : Nat) (v : RefDyn) : (s.setRef i v).power = s.power := rfl
@[simp] theorem setRef_weaver (i : Nat) (v : RefDyn) : (s.setRef i v).weaver = s.weaver := rfl
@[simp] theorem setRef_lanes (i : Nat) (v : RefDyn) : (s.setRef i v).lanes = s.lanes := rfl
@[simp] theorem setRef_stakes (i : Nat) (v : RefDyn) : (s.setRef i v).stakes = s.stakes := rfl
@[simp] theorem setRef_ports (i : Nat) (v : RefDyn) : (s.setRef i v).ports = s.ports := rfl
@[simp] theorem setRef_trig (i : Nat) (v : RefDyn) : (s.setRef i v).trig = s.trig := rfl
@[simp] theorem setRef_seqs (i : Nat) (v : RefDyn) : (s.setRef i v).seqs = s.seqs := rfl
@[simp] theorem setRef_touts (i : Nat) (v : RefDyn) : (s.setRef i v).touts = s.touts := rfl
@[simp] theorem setRef_cmps (i : Nat) (v : RefDyn) : (s.setRef i v).cmps = s.cmps := rfl
@[simp] theorem setRef_hists (i : Nat) (v : RefDyn) : (s.setRef i v).hists = s.hists := rfl
@[simp] theorem setRef_images (i : Nat) (v : RefDyn) : (s.setRef i v).images = s.images := rfl
@[simp] theorem setRef_ivals (i : Nat) (v : RefDyn) : (s.setRef i v).ivals = s.ivals := rfl
@[simp] theorem setRef_streams (i : Nat) (v : RefDyn) : (s.setRef i v).streams = s.streams := rfl
@[simp] theorem setRef_queues (i : Nat) (v : RefDyn) : (s.setRef i v).queues = s.queues := rfl
@[simp] theorem setRef_ces (i : Nat) (v : RefDyn) : (s.setRef i v).ces = s.ces := rfl
@[simp] theorem setRef_des (i : Nat) (v : RefDyn) : (s.setRef i v).des = s.des := rfl
@[simp] theorem setRef_mem (i : Nat) (v : RefDyn) : (s.setRef i v).mem = s.mem := rfl
@[simp] theorem setRef_scheds (i : Nat) (v : RefDyn) : (s.setRef i v).scheds = s.scheds := rfl
@[simp] theorem setRef_ledger (i : Nat) (v : RefDyn) : (s.setRef i v).ledger = s.ledger := rfl
@[simp] theorem setRef_station (i : Nat) (v : RefDyn) : (s.setRef i v).station = s.station := rfl
@[simp] theorem setRef_out (i : Nat) (v : RefDyn) : (s.setRef i v).out = s.out := rfl
@[simp] theorem setRef_drawn (i : Nat) (v : RefDyn) : (s.setRef i v).drawn = s.drawn := rfl
@[simp] theorem ref_setRef (i : Nat) (v : RefDyn) : (s.setRef i v).ref i = v := by simp [ref, setRef]
theorem ref_setRef_of_ne {i j : Nat} (v : RefDyn) (h : j ≠ i) : (s.setRef i v).ref j = s.ref j := by
  simp [ref, setRef, Tbl.getD_set_of_ne _ v _ _ h]
@[simp] theorem modRef_eq (i : Nat) (f : RefDyn → RefDyn) : s.modRef i f = s.setRef i (f (s.ref i)) := rfl

@[simp] theorem setCmp_pending (i : Nat) (v : CmpDyn) : (s.setCmp i v).pending = s.pending := rfl
@[simp] theorem setCmp_regs (i : Nat) (v : CmpDyn) : (s.setCmp i v).regs = s.regs := rfl
@[simp] theorem setCmp_fwRegs (i : Nat) (v : CmpDyn) : (s.setCmp i v).fwRegs = s.fwRegs := rfl
@[simp] theorem setCmp_mbx (i : Nat) (v : CmpDyn) : (s.setCmp i v).mbx = s.mbx := rfl
@[simp] theorem setCmp_pcie (i : Nat) (v : CmpDyn) : (s.setCmp i v).pcie = s.pcie := rfl
@[simp] theorem setCmp_time (i : Nat) (v : CmpDyn) : (s.setCmp i v).time = s.time := rfl
@[simp] theorem setCmp_power (i : Nat) (v : CmpDyn) : (s.setCmp i v).power = s.power := rfl
@[simp] theorem setCmp_weaver (i : Nat) (v : CmpDyn) : (s.setCmp i v).weaver = s.weaver := rfl
@[simp] theorem setCmp_lanes (i : Nat) (v : CmpDyn) : (s.setCmp i v).lanes = s.lanes := rfl
@[simp] theorem setCmp_stakes (i : Nat) (v : CmpDyn) : (s.setCmp i v).stakes = s.stakes := rfl
@[simp] theorem setCmp_ports (i : Nat) (v : CmpDyn) : (s.setCmp i v).ports = s.ports := rfl
@[simp] theorem setCmp_trig (i : Nat) (v : CmpDyn) : (s.setCmp i v).trig = s.trig := rfl
@[simp] theorem setCmp_seqs (i : Nat) (v : CmpDyn) : (s.setCmp i v).seqs = s.seqs := rfl
@[simp] theorem setCmp_touts (i : Nat) (v : CmpDyn) : (s.setCmp i v).touts = s.touts := rfl
@[simp] theorem setCmp_refs (i : Nat) (v : CmpDyn) : (s.setCmp i v).refs = s.refs := rfl
@[simp] theorem setCmp_hists (i : Nat) (v : CmpDyn) : (s.setCmp i v).hists = s.hists := rfl
@[simp] theorem setCmp_images (i : Nat) (v : CmpDyn) : (s.setCmp i v).images = s.images := rfl
@[simp] theorem setCmp_ivals (i : Nat) (v : CmpDyn) : (s.setCmp i v).ivals = s.ivals := rfl
@[simp] theorem setCmp_streams (i : Nat) (v : CmpDyn) : (s.setCmp i v).streams = s.streams := rfl
@[simp] theorem setCmp_queues (i : Nat) (v : CmpDyn) : (s.setCmp i v).queues = s.queues := rfl
@[simp] theorem setCmp_ces (i : Nat) (v : CmpDyn) : (s.setCmp i v).ces = s.ces := rfl
@[simp] theorem setCmp_des (i : Nat) (v : CmpDyn) : (s.setCmp i v).des = s.des := rfl
@[simp] theorem setCmp_mem (i : Nat) (v : CmpDyn) : (s.setCmp i v).mem = s.mem := rfl
@[simp] theorem setCmp_scheds (i : Nat) (v : CmpDyn) : (s.setCmp i v).scheds = s.scheds := rfl
@[simp] theorem setCmp_ledger (i : Nat) (v : CmpDyn) : (s.setCmp i v).ledger = s.ledger := rfl
@[simp] theorem setCmp_station (i : Nat) (v : CmpDyn) : (s.setCmp i v).station = s.station := rfl
@[simp] theorem setCmp_out (i : Nat) (v : CmpDyn) : (s.setCmp i v).out = s.out := rfl
@[simp] theorem setCmp_drawn (i : Nat) (v : CmpDyn) : (s.setCmp i v).drawn = s.drawn := rfl
@[simp] theorem cmp_setCmp (i : Nat) (v : CmpDyn) : (s.setCmp i v).cmp i = v := by simp [cmp, setCmp]
theorem cmp_setCmp_of_ne {i j : Nat} (v : CmpDyn) (h : j ≠ i) : (s.setCmp i v).cmp j = s.cmp j := by
  simp [cmp, setCmp, Tbl.getD_set_of_ne _ v _ _ h]
@[simp] theorem modCmp_eq (i : Nat) (f : CmpDyn → CmpDyn) : s.modCmp i f = s.setCmp i (f (s.cmp i)) := rfl

@[simp] theorem setHist_pending (i : Nat) (v : HistUnit) : (s.setHist i v).pending = s.pending := rfl
@[simp] theorem setHist_regs (i : Nat) (v : HistUnit) : (s.setHist i v).regs = s.regs := rfl
@[simp] theorem setHist_fwRegs (i : Nat) (v : HistUnit) : (s.setHist i v).fwRegs = s.fwRegs := rfl
@[simp] theorem setHist_mbx (i : Nat) (v : HistUnit) : (s.setHist i v).mbx = s.mbx := rfl
@[simp] theorem setHist_pcie (i : Nat) (v : HistUnit) : (s.setHist i v).pcie = s.pcie := rfl
@[simp] theorem setHist_time (i : Nat) (v : HistUnit) : (s.setHist i v).time = s.time := rfl
@[simp] theorem setHist_power (i : Nat) (v : HistUnit) : (s.setHist i v).power = s.power := rfl
@[simp] theorem setHist_weaver (i : Nat) (v : HistUnit) : (s.setHist i v).weaver = s.weaver := rfl
@[simp] theorem setHist_lanes (i : Nat) (v : HistUnit) : (s.setHist i v).lanes = s.lanes := rfl
@[simp] theorem setHist_stakes (i : Nat) (v : HistUnit) : (s.setHist i v).stakes = s.stakes := rfl
@[simp] theorem setHist_ports (i : Nat) (v : HistUnit) : (s.setHist i v).ports = s.ports := rfl
@[simp] theorem setHist_trig (i : Nat) (v : HistUnit) : (s.setHist i v).trig = s.trig := rfl
@[simp] theorem setHist_seqs (i : Nat) (v : HistUnit) : (s.setHist i v).seqs = s.seqs := rfl
@[simp] theorem setHist_touts (i : Nat) (v : HistUnit) : (s.setHist i v).touts = s.touts := rfl
@[simp] theorem setHist_refs (i : Nat) (v : HistUnit) : (s.setHist i v).refs = s.refs := rfl
@[simp] theorem setHist_cmps (i : Nat) (v : HistUnit) : (s.setHist i v).cmps = s.cmps := rfl
@[simp] theorem setHist_images (i : Nat) (v : HistUnit) : (s.setHist i v).images = s.images := rfl
@[simp] theorem setHist_ivals (i : Nat) (v : HistUnit) : (s.setHist i v).ivals = s.ivals := rfl
@[simp] theorem setHist_streams (i : Nat) (v : HistUnit) : (s.setHist i v).streams = s.streams := rfl
@[simp] theorem setHist_queues (i : Nat) (v : HistUnit) : (s.setHist i v).queues = s.queues := rfl
@[simp] theorem setHist_ces (i : Nat) (v : HistUnit) : (s.setHist i v).ces = s.ces := rfl
@[simp] theorem setHist_des (i : Nat) (v : HistUnit) : (s.setHist i v).des = s.des := rfl
@[simp] theorem setHist_mem (i : Nat) (v : HistUnit) : (s.setHist i v).mem = s.mem := rfl
@[simp] theorem setHist_scheds (i : Nat) (v : HistUnit) : (s.setHist i v).scheds = s.scheds := rfl
@[simp] theorem setHist_ledger (i : Nat) (v : HistUnit) : (s.setHist i v).ledger = s.ledger := rfl
@[simp] theorem setHist_station (i : Nat) (v : HistUnit) : (s.setHist i v).station = s.station := rfl
@[simp] theorem setHist_out (i : Nat) (v : HistUnit) : (s.setHist i v).out = s.out := rfl
@[simp] theorem setHist_drawn (i : Nat) (v : HistUnit) : (s.setHist i v).drawn = s.drawn := rfl
@[simp] theorem hist_setHist (i : Nat) (v : HistUnit) : (s.setHist i v).hist i = v := by simp [hist, setHist]
theorem hist_setHist_of_ne {i j : Nat} (v : HistUnit) (h : j ≠ i) : (s.setHist i v).hist j = s.hist j := by
  simp [hist, setHist, Tbl.getD_set_of_ne _ v _ _ h]
@[simp] theorem modHist_eq (i : Nat) (f : HistUnit → HistUnit) : s.modHist i f = s.setHist i (f (s.hist i)) := rfl

@[simp] theorem setImage_pending (i : Nat) (v : HistImages) : (s.setImage i v).pending = s.pending := rfl
@[simp] theorem setImage_regs (i : Nat) (v : HistImages) : (s.setImage i v).regs = s.regs := rfl
@[simp] theorem setImage_fwRegs (i : Nat) (v : HistImages) : (s.setImage i v).fwRegs = s.fwRegs := rfl
@[simp] theorem setImage_mbx (i : Nat) (v : HistImages) : (s.setImage i v).mbx = s.mbx := rfl
@[simp] theorem setImage_pcie (i : Nat) (v : HistImages) : (s.setImage i v).pcie = s.pcie := rfl
@[simp] theorem setImage_time (i : Nat) (v : HistImages) : (s.setImage i v).time = s.time := rfl
@[simp] theorem setImage_power (i : Nat) (v : HistImages) : (s.setImage i v).power = s.power := rfl
@[simp] theorem setImage_weaver (i : Nat) (v : HistImages) : (s.setImage i v).weaver = s.weaver := rfl
@[simp] theorem setImage_lanes (i : Nat) (v : HistImages) : (s.setImage i v).lanes = s.lanes := rfl
@[simp] theorem setImage_stakes (i : Nat) (v : HistImages) : (s.setImage i v).stakes = s.stakes := rfl
@[simp] theorem setImage_ports (i : Nat) (v : HistImages) : (s.setImage i v).ports = s.ports := rfl
@[simp] theorem setImage_trig (i : Nat) (v : HistImages) : (s.setImage i v).trig = s.trig := rfl
@[simp] theorem setImage_seqs (i : Nat) (v : HistImages) : (s.setImage i v).seqs = s.seqs := rfl
@[simp] theorem setImage_touts (i : Nat) (v : HistImages) : (s.setImage i v).touts = s.touts := rfl
@[simp] theorem setImage_refs (i : Nat) (v : HistImages) : (s.setImage i v).refs = s.refs := rfl
@[simp] theorem setImage_cmps (i : Nat) (v : HistImages) : (s.setImage i v).cmps = s.cmps := rfl
@[simp] theorem setImage_hists (i : Nat) (v : HistImages) : (s.setImage i v).hists = s.hists := rfl
@[simp] theorem setImage_ivals (i : Nat) (v : HistImages) : (s.setImage i v).ivals = s.ivals := rfl
@[simp] theorem setImage_streams (i : Nat) (v : HistImages) : (s.setImage i v).streams = s.streams := rfl
@[simp] theorem setImage_queues (i : Nat) (v : HistImages) : (s.setImage i v).queues = s.queues := rfl
@[simp] theorem setImage_ces (i : Nat) (v : HistImages) : (s.setImage i v).ces = s.ces := rfl
@[simp] theorem setImage_des (i : Nat) (v : HistImages) : (s.setImage i v).des = s.des := rfl
@[simp] theorem setImage_mem (i : Nat) (v : HistImages) : (s.setImage i v).mem = s.mem := rfl
@[simp] theorem setImage_scheds (i : Nat) (v : HistImages) : (s.setImage i v).scheds = s.scheds := rfl
@[simp] theorem setImage_ledger (i : Nat) (v : HistImages) : (s.setImage i v).ledger = s.ledger := rfl
@[simp] theorem setImage_station (i : Nat) (v : HistImages) : (s.setImage i v).station = s.station := rfl
@[simp] theorem setImage_out (i : Nat) (v : HistImages) : (s.setImage i v).out = s.out := rfl
@[simp] theorem setImage_drawn (i : Nat) (v : HistImages) : (s.setImage i v).drawn = s.drawn := rfl
@[simp] theorem image_setImage (i : Nat) (v : HistImages) : (s.setImage i v).image i = v := by simp [image, setImage]
theorem image_setImage_of_ne {i j : Nat} (v : HistImages) (h : j ≠ i) : (s.setImage i v).image j = s.image j := by
  simp [image, setImage, Tbl.getD_set_of_ne _ v _ _ h]
@[simp] theorem modImage_eq (i : Nat) (f : HistImages → HistImages) : s.modImage i f = s.setImage i (f (s.image i)) := rfl

@[simp] theorem setIval_pending (i : Nat) (v : IvalDyn) : (s.setIval i v).pending = s.pending := rfl
@[simp] theorem setIval_regs (i : Nat) (v : IvalDyn) : (s.setIval i v).regs = s.regs := rfl
@[simp] theorem setIval_fwRegs (i : Nat) (v : IvalDyn) : (s.setIval i v).fwRegs = s.fwRegs := rfl
@[simp] theorem setIval_mbx (i : Nat) (v : IvalDyn) : (s.setIval i v).mbx = s.mbx := rfl
@[simp] theorem setIval_pcie (i : Nat) (v : IvalDyn) : (s.setIval i v).pcie = s.pcie := rfl
@[simp] theorem setIval_time (i : Nat) (v : IvalDyn) : (s.setIval i v).time = s.time := rfl
@[simp] theorem setIval_power (i : Nat) (v : IvalDyn) : (s.setIval i v).power = s.power := rfl
@[simp] theorem setIval_weaver (i : Nat) (v : IvalDyn) : (s.setIval i v).weaver = s.weaver := rfl
@[simp] theorem setIval_lanes (i : Nat) (v : IvalDyn) : (s.setIval i v).lanes = s.lanes := rfl
@[simp] theorem setIval_stakes (i : Nat) (v : IvalDyn) : (s.setIval i v).stakes = s.stakes := rfl
@[simp] theorem setIval_ports (i : Nat) (v : IvalDyn) : (s.setIval i v).ports = s.ports := rfl
@[simp] theorem setIval_trig (i : Nat) (v : IvalDyn) : (s.setIval i v).trig = s.trig := rfl
@[simp] theorem setIval_seqs (i : Nat) (v : IvalDyn) : (s.setIval i v).seqs = s.seqs := rfl
@[simp] theorem setIval_touts (i : Nat) (v : IvalDyn) : (s.setIval i v).touts = s.touts := rfl
@[simp] theorem setIval_refs (i : Nat) (v : IvalDyn) : (s.setIval i v).refs = s.refs := rfl
@[simp] theorem setIval_cmps (i : Nat) (v : IvalDyn) : (s.setIval i v).cmps = s.cmps := rfl
@[simp] theorem setIval_hists (i : Nat) (v : IvalDyn) : (s.setIval i v).hists = s.hists := rfl
@[simp] theorem setIval_images (i : Nat) (v : IvalDyn) : (s.setIval i v).images = s.images := rfl
@[simp] theorem setIval_streams (i : Nat) (v : IvalDyn) : (s.setIval i v).streams = s.streams := rfl
@[simp] theorem setIval_queues (i : Nat) (v : IvalDyn) : (s.setIval i v).queues = s.queues := rfl
@[simp] theorem setIval_ces (i : Nat) (v : IvalDyn) : (s.setIval i v).ces = s.ces := rfl
@[simp] theorem setIval_des (i : Nat) (v : IvalDyn) : (s.setIval i v).des = s.des := rfl
@[simp] theorem setIval_mem (i : Nat) (v : IvalDyn) : (s.setIval i v).mem = s.mem := rfl
@[simp] theorem setIval_scheds (i : Nat) (v : IvalDyn) : (s.setIval i v).scheds = s.scheds := rfl
@[simp] theorem setIval_ledger (i : Nat) (v : IvalDyn) : (s.setIval i v).ledger = s.ledger := rfl
@[simp] theorem setIval_station (i : Nat) (v : IvalDyn) : (s.setIval i v).station = s.station := rfl
@[simp] theorem setIval_out (i : Nat) (v : IvalDyn) : (s.setIval i v).out = s.out := rfl
@[simp] theorem setIval_drawn (i : Nat) (v : IvalDyn) : (s.setIval i v).drawn = s.drawn := rfl
@[simp] theorem ival_setIval (i : Nat) (v : IvalDyn) : (s.setIval i v).ival i = v := by simp [ival, setIval]
theorem ival_setIval_of_ne {i j : Nat} (v : IvalDyn) (h : j ≠ i) : (s.setIval i v).ival j = s.ival j := by
  simp [ival, setIval, Tbl.getD_set_of_ne _ v _ _ h]
@[simp] theorem modIval_eq (i : Nat) (f : IvalDyn → IvalDyn) : s.modIval i f = s.setIval i (f (s.ival i)) := rfl

@[simp] theorem setQueue_pending (i : Nat) (v : QueueDyn) : (s.setQueue i v).pending = s.pending := rfl
@[simp] theorem setQueue_regs (i : Nat) (v : QueueDyn) : (s.setQueue i v).regs = s.regs := rfl
@[simp] theorem setQueue_fwRegs (i : Nat) (v : QueueDyn) : (s.setQueue i v).fwRegs = s.fwRegs := rfl
@[simp] theorem setQueue_mbx (i : Nat) (v : QueueDyn) : (s.setQueue i v).mbx = s.mbx := rfl
@[simp] theorem setQueue_pcie (i : Nat) (v : QueueDyn) : (s.setQueue i v).pcie = s.pcie := rfl
@[simp] theorem setQueue_time (i : Nat) (v : QueueDyn) : (s.setQueue i v).time = s.time := rfl
@[simp] theorem setQueue_power (i : Nat) (v : QueueDyn) : (s.setQueue i v).power = s.power := rfl
@[simp] theorem setQueue_weaver (i : Nat) (v : QueueDyn) : (s.setQueue i v).weaver = s.weaver := rfl
@[simp] theorem setQueue_lanes (i : Nat) (v : QueueDyn) : (s.setQueue i v).lanes = s.lanes := rfl
@[simp] theorem setQueue_stakes (i : Nat) (v : QueueDyn) : (s.setQueue i v).stakes = s.stakes := rfl
@[simp] theorem setQueue_ports (i : Nat) (v : QueueDyn) : (s.setQueue i v).ports = s.ports := rfl
@[simp] theorem setQueue_trig (i : Nat) (v : QueueDyn) : (s.setQueue i v).trig = s.trig := rfl
@[simp] theorem setQueue_seqs (i : Nat) (v : QueueDyn) : (s.setQueue i v).seqs = s.seqs := rfl
@[simp] theorem setQueue_touts (i : Nat) (v : QueueDyn) : (s.setQueue i v).touts = s.touts := rfl
@[simp] theorem setQueue_refs (i : Nat) (v : QueueDyn) : (s.setQueue i v).refs = s.refs := rfl
@[simp] theorem setQueue_cmps (i : Nat) (v : QueueDyn) : (s.setQueue i v).cmps = s.cmps := rfl
@[simp] theorem setQueue_hists (i : Nat) (v : QueueDyn) : (s.setQueue i v).hists = s.hists := rfl
@[simp] theorem setQueue_images (i : Nat) (v : QueueDyn) : (s.setQueue i v).images = s.images := rfl
@[simp] theorem setQueue_ivals (i : Nat) (v : QueueDyn) : (s.setQueue i v).ivals = s.ivals := rfl
@[simp] theorem setQueue_streams (i : Nat) (v : QueueDyn) : (s.setQueue i v).streams = s.streams := rfl
@[simp] theorem setQueue_ces (i : Nat) (v : QueueDyn) : (s.setQueue i v).ces = s.ces := rfl
@[simp] theorem setQueue_des (i : Nat) (v : QueueDyn) : (s.setQueue i v).des = s.des := rfl
@[simp] theorem setQueue_mem (i : Nat) (v : QueueDyn) : (s.setQueue i v).mem = s.mem := rfl
@[simp] theorem setQueue_scheds (i : Nat) (v : QueueDyn) : (s.setQueue i v).scheds = s.scheds := rfl
@[simp] theorem setQueue_ledger (i : Nat) (v : QueueDyn) : (s.setQueue i v).ledger = s.ledger := rfl
@[simp] theorem setQueue_station (i : Nat) (v : QueueDyn) : (s.setQueue i v).station = s.station := rfl
@[simp] theorem setQueue_out (i : Nat) (v : QueueDyn) : (s.setQueue i v).out = s.out := rfl
@[simp] theorem setQueue_drawn (i : Nat) (v : QueueDyn) : (s.setQueue i v).drawn = s.drawn := rfl
@[simp] theorem queue_setQueue (i : Nat) (v : QueueDyn) : (s.setQueue i v).queue i = v := by simp [queue, setQueue]
theorem queue_setQueue_of_ne {i j : Nat} (v : QueueDyn) (h : j ≠ i) : (s.setQueue i v).queue j = s.queue j := by
  simp [queue, setQueue, Tbl.getD_set_of_ne _ v _ _ h]
@[simp] theorem modQueue_eq (i : Nat) (f : QueueDyn → QueueDyn) : s.modQueue i f = s.setQueue i (f (s.queue i)) := rfl

@[simp] theorem setCe_pending (i : Nat) (v : EngineDyn) : (s.setCe i v).pending = s.pending := rfl
@[simp] theorem setCe_regs (i : Nat) (v : EngineDyn) : (s.setCe i v).regs = s.regs := rfl
@[simp] theorem setCe_fwRegs (i : Nat) (v : EngineDyn) : (s.setCe i v).fwRegs = s.fwRegs := rfl
@[simp] theorem setCe_mbx (i : Nat) (v : EngineDyn) : (s.setCe i v).mbx = s.mbx := rfl
@[simp] theorem setCe_pcie (i : Nat) (v : EngineDyn) : (s.setCe i v).pcie = s.pcie := rfl
@[simp] theorem setCe_time (i : Nat) (v : EngineDyn) : (s.setCe i v).time = s.time := rfl
@[simp] theorem setCe_power (i : Nat) (v : EngineDyn) : (s.setCe i v).power = s.power := rfl
@[simp] theorem setCe_weaver (i : Nat) (v : EngineDyn) : (s.setCe i v).weaver = s.weaver := rfl
@[simp] theorem setCe_lanes (i : Nat) (v : EngineDyn) : (s.setCe i v).lanes = s.lanes := rfl
@[simp] theorem setCe_stakes (i : Nat) (v : EngineDyn) : (s.setCe i v).stakes = s.stakes := rfl
@[simp] theorem setCe_ports (i : Nat) (v : EngineDyn) : (s.setCe i v).ports = s.ports := rfl
@[simp] theorem setCe_trig (i : Nat) (v : EngineDyn) : (s.setCe i v).trig = s.trig := rfl
@[simp] theorem setCe_seqs (i : Nat) (v : EngineDyn) : (s.setCe i v).seqs = s.seqs := rfl
@[simp] theorem setCe_touts (i : Nat) (v : EngineDyn) : (s.setCe i v).touts = s.touts := rfl
@[simp] theorem setCe_refs (i : Nat) (v : EngineDyn) : (s.setCe i v).refs = s.refs := rfl
@[simp] theorem setCe_cmps (i : Nat) (v : EngineDyn) : (s.setCe i v).cmps = s.cmps := rfl
@[simp] theorem setCe_hists (i : Nat) (v : EngineDyn) : (s.setCe i v).hists = s.hists := rfl
@[simp] theorem setCe_images (i : Nat) (v : EngineDyn) : (s.setCe i v).images = s.images := rfl
@[simp] theorem setCe_ivals (i : Nat) (v : EngineDyn) : (s.setCe i v).ivals = s.ivals := rfl
@[simp] theorem setCe_streams (i : Nat) (v : EngineDyn) : (s.setCe i v).streams = s.streams := rfl
@[simp] theorem setCe_queues (i : Nat) (v : EngineDyn) : (s.setCe i v).queues = s.queues := rfl
@[simp] theorem setCe_des (i : Nat) (v : EngineDyn) : (s.setCe i v).des = s.des := rfl
@[simp] theorem setCe_mem (i : Nat) (v : EngineDyn) : (s.setCe i v).mem = s.mem := rfl
@[simp] theorem setCe_scheds (i : Nat) (v : EngineDyn) : (s.setCe i v).scheds = s.scheds := rfl
@[simp] theorem setCe_ledger (i : Nat) (v : EngineDyn) : (s.setCe i v).ledger = s.ledger := rfl
@[simp] theorem setCe_station (i : Nat) (v : EngineDyn) : (s.setCe i v).station = s.station := rfl
@[simp] theorem setCe_out (i : Nat) (v : EngineDyn) : (s.setCe i v).out = s.out := rfl
@[simp] theorem setCe_drawn (i : Nat) (v : EngineDyn) : (s.setCe i v).drawn = s.drawn := rfl
@[simp] theorem ce_setCe (i : Nat) (v : EngineDyn) : (s.setCe i v).ce i = v := by simp [ce, setCe]
theorem ce_setCe_of_ne {i j : Nat} (v : EngineDyn) (h : j ≠ i) : (s.setCe i v).ce j = s.ce j := by
  simp [ce, setCe, Tbl.getD_set_of_ne _ v _ _ h]
@[simp] theorem modCe_eq (i : Nat) (f : EngineDyn → EngineDyn) : s.modCe i f = s.setCe i (f (s.ce i)) := rfl

@[simp] theorem setDe_pending (i : Nat) (v : EngineDyn) : (s.setDe i v).pending = s.pending := rfl
@[simp] theorem setDe_regs (i : Nat) (v : EngineDyn) : (s.setDe i v).regs = s.regs := rfl
@[simp] theorem setDe_fwRegs (i : Nat) (v : EngineDyn) : (s.setDe i v).fwRegs = s.fwRegs := rfl
@[simp] theorem setDe_mbx (i : Nat) (v : EngineDyn) : (s.setDe i v).mbx = s.mbx := rfl
@[simp] theorem setDe_pcie (i : Nat) (v : EngineDyn) : (s.setDe i v).pcie = s.pcie := rfl
@[simp] theorem setDe_time (i : Nat) (v : EngineDyn) : (s.setDe i v).time = s.time := rfl
@[simp] theorem setDe_power (i : Nat) (v : EngineDyn) : (s.setDe i v).power = s.power := rfl
@[simp] theorem setDe_weaver (i : Nat) (v : EngineDyn) : (s.setDe i v).weaver = s.weaver := rfl
@[simp] theorem setDe_lanes (i : Nat) (v : EngineDyn) : (s.setDe i v).lanes = s.lanes := rfl
@[simp] theorem setDe_stakes (i : Nat) (v : EngineDyn) : (s.setDe i v).stakes = s.stakes := rfl
@[simp] theorem setDe_ports (i : Nat) (v : EngineDyn) : (s.setDe i v).ports = s.ports := rfl
@[simp] theorem setDe_trig (i : Nat) (v : EngineDyn) : (s.setDe i v).trig = s.trig := rfl
@[simp] theorem setDe_seqs (i : Nat) (v : EngineDyn) : (s.setDe i v).seqs = s.seqs := rfl
@[simp] theorem setDe_touts (i : Nat) (v : EngineDyn) : (s.setDe i v).touts = s.touts := rfl
@[simp] theorem setDe_refs (i : Nat) (v : EngineDyn) : (s.setDe i v).refs = s.refs := rfl
@[simp] theorem setDe_cmps (i : Nat) (v : EngineDyn) : (s.setDe i v).cmps = s.cmps := rfl
@[simp] theorem setDe_hists (i : Nat) (v : EngineDyn) : (s.setDe i v).hists = s.hists := rfl
@[simp] theorem setDe_images (i : Nat) (v : EngineDyn) : (s.setDe i v).images = s.images := rfl
@[simp] theorem setDe_ivals (i : Nat) (v : EngineDyn) : (s.setDe i v).ivals = s.ivals := rfl
@[simp] theorem setDe_streams (i : Nat) (v : EngineDyn) : (s.setDe i v).streams = s.streams := rfl
@[simp] theorem setDe_queues (i : Nat) (v : EngineDyn) : (s.setDe i v).queues = s.queues := rfl
@[simp] theorem setDe_ces (i : Nat) (v : EngineDyn) : (s.setDe i v).ces = s.ces := rfl
@[simp] theorem setDe_mem (i : Nat) (v : EngineDyn) : (s.setDe i v).mem = s.mem := rfl
@[simp] theorem setDe_scheds (i : Nat) (v : EngineDyn) : (s.setDe i v).scheds = s.scheds := rfl
@[simp] theorem setDe_ledger (i : Nat) (v : EngineDyn) : (s.setDe i v).ledger = s.ledger := rfl
@[simp] theorem setDe_station (i : Nat) (v : EngineDyn) : (s.setDe i v).station = s.station := rfl
@[simp] theorem setDe_out (i : Nat) (v : EngineDyn) : (s.setDe i v).out = s.out := rfl
@[simp] theorem setDe_drawn (i : Nat) (v : EngineDyn) : (s.setDe i v).drawn = s.drawn := rfl
@[simp] theorem de_setDe (i : Nat) (v : EngineDyn) : (s.setDe i v).de i = v := by simp [de, setDe]
theorem de_setDe_of_ne {i j : Nat} (v : EngineDyn) (h : j ≠ i) : (s.setDe i v).de j = s.de j := by
  simp [de, setDe, Tbl.getD_set_of_ne _ v _ _ h]
@[simp] theorem modDe_eq (i : Nat) (f : EngineDyn → EngineDyn) : s.modDe i f = s.setDe i (f (s.de i)) := rfl

@[simp] theorem setStream_pending (i : Nat) (v : StreamDyn) : (s.setStream i v).pending = s.pending := rfl
@[simp] theorem setStream_regs (i : Nat) (v : StreamDyn) : (s.setStream i v).regs = s.regs := rfl
@[simp] theorem setStream_fwRegs (i : Nat) (v : StreamDyn) : (s.setStream i v).fwRegs = s.fwRegs := rfl
@[simp] theorem setStream_mbx (i : Nat) (v : StreamDyn) : (s.setStream i v).mbx = s.mbx := rfl
@[simp] theorem setStream_pcie (i : Nat) (v : StreamDyn) : (s.setStream i v).pcie = s.pcie := rfl
@[simp] theorem setStream_time (i : Nat) (v : StreamDyn) : (s.setStream i v).time = s.time := rfl
@[simp] theorem setStream_power (i : Nat) (v : StreamDyn) : (s.setStream i v).power = s.power := rfl
@[simp] theorem setStream_weaver (i : Nat) (v : StreamDyn) : (s.setStream i v).weaver = s.weaver := rfl
@[simp] theorem setStream_lanes (i : Nat) (v : StreamDyn) : (s.setStream i v).lanes = s.lanes := rfl
@[simp] theorem setStream_stakes (i : Nat) (v : StreamDyn) : (s.setStream i v).stakes = s.stakes := rfl
@[simp] theorem setStream_ports (i : Nat) (v : StreamDyn) : (s.setStream i v).ports = s.ports := rfl
@[simp] theorem setStream_trig (i : Nat) (v : StreamDyn) : (s.setStream i v).trig = s.trig := rfl
@[simp] theorem setStream_seqs (i : Nat) (v : StreamDyn) : (s.setStream i v).seqs = s.seqs := rfl
@[simp] theorem setStream_touts (i : Nat) (v : StreamDyn) : (s.setStream i v).touts = s.touts := rfl
@[simp] theorem setStream_refs (i : Nat) (v : StreamDyn) : (s.setStream i v).refs = s.refs := rfl
@[simp] theorem setStream_cmps (i : Nat) (v : StreamDyn) : (s.setStream i v).cmps = s.cmps := rfl
@[simp] theorem setStream_hists (i : Nat) (v : StreamDyn) : (s.setStream i v).hists = s.hists := rfl
@[simp] theorem setStream_images (i : Nat) (v : StreamDyn) : (s.setStream i v).images = s.images := rfl
@[simp] theorem setStream_ivals (i : Nat) (v : StreamDyn) : (s.setStream i v).ivals = s.ivals := rfl
@[simp] theorem setStream_queues (i : Nat) (v : StreamDyn) : (s.setStream i v).queues = s.queues := rfl
@[simp] theorem setStream_ces (i : Nat) (v : StreamDyn) : (s.setStream i v).ces = s.ces := rfl
@[simp] theorem setStream_des (i : Nat) (v : StreamDyn) : (s.setStream i v).des = s.des := rfl
@[simp] theorem setStream_mem (i : Nat) (v : StreamDyn) : (s.setStream i v).mem = s.mem := rfl
@[simp] theorem setStream_scheds (i : Nat) (v : StreamDyn) : (s.setStream i v).scheds = s.scheds := rfl
@[simp] theorem setStream_ledger (i : Nat) (v : StreamDyn) : (s.setStream i v).ledger = s.ledger := rfl
@[simp] theorem setStream_station (i : Nat) (v : StreamDyn) : (s.setStream i v).station = s.station := rfl
@[simp] theorem setStream_out (i : Nat) (v : StreamDyn) : (s.setStream i v).out = s.out := rfl
@[simp] theorem setStream_drawn (i : Nat) (v : StreamDyn) : (s.setStream i v).drawn = s.drawn := rfl
@[simp] theorem stream_setStream (i : Nat) (v : StreamDyn) : (s.setStream i v).stream i = v := by simp [stream, setStream]
theorem stream_setStream_of_ne {i j : Nat} (v : StreamDyn) (h : j ≠ i) : (s.setStream i v).stream j = s.stream j := by
  simp [stream, setStream, Tbl.getD_put_of_ne _ v _ h]
@[simp] theorem modStream_eq (i : Nat) (f : StreamDyn → StreamDyn) : s.modStream i f = s.setStream i (f (s.stream i)) := rfl

@[simp] theorem setBox_pending (i : Nat) (v : Mailbox) : (s.setBox i v).pending = s.pending := rfl
@[simp] theorem setBox_regs (i : Nat) (v : Mailbox) : (s.setBox i v).regs = s.regs := rfl
@[simp] theorem setBox_fwRegs (i : Nat) (v : Mailbox) : (s.setBox i v).fwRegs = s.fwRegs := rfl
@[simp] theorem setBox_pcie (i : Nat) (v : Mailbox) : (s.setBox i v).pcie = s.pcie := rfl
@[simp] theorem setBox_time (i : Nat) (v : Mailbox) : (s.setBox i v).time = s.time := rfl
@[simp] theorem setBox_power (i : Nat) (v : Mailbox) : (s.setBox i v).power = s.power := rfl
@[simp] theorem setBox_weaver (i : Nat) (v : Mailbox) : (s.setBox i v).weaver = s.weaver := rfl
@[simp] theorem setBox_lanes (i : Nat) (v : Mailbox) : (s.setBox i v).lanes = s.lanes := rfl
@[simp] theorem setBox_stakes (i : Nat) (v : Mailbox) : (s.setBox i v).stakes = s.stakes := rfl
@[simp] theorem setBox_ports (i : Nat) (v : Mailbox) : (s.setBox i v).ports = s.ports := rfl
@[simp] theorem setBox_trig (i : Nat) (v : Mailbox) : (s.setBox i v).trig = s.trig := rfl
@[simp] theorem setBox_seqs (i : Nat) (v : Mailbox) : (s.setBox i v).seqs = s.seqs := rfl
@[simp] theorem setBox_touts (i : Nat) (v : Mailbox) : (s.setBox i v).touts = s.touts := rfl
@[simp] theorem setBox_refs (i : Nat) (v : Mailbox) : (s.setBox i v).refs = s.refs := rfl
@[simp] theorem setBox_cmps (i : Nat) (v : Mailbox) : (s.setBox i v).cmps = s.cmps := rfl
@[simp] theorem setBox_hists (i : Nat) (v : Mailbox) : (s.setBox i v).hists = s.hists := rfl
@[simp] theorem setBox_images (i : Nat) (v : Mailbox) : (s.setBox i v).images = s.images := rfl
@[simp] theorem setBox_ivals (i : Nat) (v : Mailbox) : (s.setBox i v).ivals = s.ivals := rfl
@[simp] theorem setBox_streams (i : Nat) (v : Mailbox) : (s.setBox i v).streams = s.streams := rfl
@[simp] theorem setBox_queues (i : Nat) (v : Mailbox) : (s.setBox i v).queues = s.queues := rfl
@[simp] theorem setBox_ces (i : Nat) (v : Mailbox) : (s.setBox i v).ces = s.ces := rfl
@[simp] theorem setBox_des (i : Nat) (v : Mailbox) : (s.setBox i v).des = s.des := rfl
@[simp] theorem setBox_mem (i : Nat) (v : Mailbox) : (s.setBox i v).mem = s.mem := rfl
@[simp] theorem setBox_scheds (i : Nat) (v : Mailbox) : (s.setBox i v).scheds = s.scheds := rfl
@[simp] theorem setBox_ledger (i : Nat) (v : Mailbox) : (s.setBox i v).ledger = s.ledger := rfl
@[simp] theorem setBox_station (i : Nat) (v : Mailbox) : (s.setBox i v).station = s.station := rfl
@[simp] theorem setBox_out (i : Nat) (v : Mailbox) : (s.setBox i v).out = s.out := rfl
@[simp] theorem setBox_drawn (i : Nat) (v : Mailbox) : (s.setBox i v).drawn = s.drawn := rfl
@[simp] theorem setBox_mbx_order (i : Nat) (v : Mailbox) : (s.setBox i v).mbx.order = s.mbx.order := rfl
@[simp] theorem setBox_mbx_ringAddr (i : Nat) (v : Mailbox) : (s.setBox i v).mbx.ringAddr = s.mbx.ringAddr := rfl
@[simp] theorem setBox_mbx_ringEntries (i : Nat) (v : Mailbox) : (s.setBox i v).mbx.ringEntries = s.mbx.ringEntries := rfl
@[simp] theorem setBox_mbx_ringVector (i : Nat) (v : Mailbox) : (s.setBox i v).mbx.ringVector = s.mbx.ringVector := rfl
@[simp] theorem setBox_mbx_noticesLost (i : Nat) (v : Mailbox) : (s.setBox i v).mbx.noticesLost = s.mbx.noticesLost := rfl
@[simp] theorem box_setBox (i : Nat) (v : Mailbox) : (s.setBox i v).box i = v := by simp [box, setBox]
theorem box_setBox_of_ne {i j : Nat} (v : Mailbox) (h : j ≠ i) : (s.setBox i v).box j = s.box j := by
  simp [box, setBox, Tbl.getD_set_of_ne _ v _ _ h]
@[simp] theorem modBox_eq (i : Nat) (f : Mailbox → Mailbox) : s.modBox i f = s.setBox i (f (s.box i)) := rfl

@[simp] theorem setChan_pending (i : Nat) (v : ChanDyn) : (s.setChan i v).pending = s.pending := rfl
@[simp] theorem setChan_regs (i : Nat) (v : ChanDyn) : (s.setChan i v).regs = s.regs := rfl
@[simp] theorem setChan_fwRegs (i : Nat) (v : ChanDyn) : (s.setChan i v).fwRegs = s.fwRegs := rfl
@[simp] theorem setChan_mbx (i : Nat) (v : ChanDyn) : (s.setChan i v).mbx = s.mbx := rfl
@[simp] theorem setChan_pcie (i : Nat) (v : ChanDyn) : (s.setChan i v).pcie = s.pcie := rfl
@[simp] theorem setChan_time (i : Nat) (v : ChanDyn) : (s.setChan i v).time = s.time := rfl
@[simp] theorem setChan_power (i : Nat) (v : ChanDyn) : (s.setChan i v).power = s.power := rfl
@[simp] theorem setChan_weaver (i : Nat) (v : ChanDyn) : (s.setChan i v).weaver = s.weaver := rfl
@[simp] theorem setChan_lanes (i : Nat) (v : ChanDyn) : (s.setChan i v).lanes = s.lanes := rfl
@[simp] theorem setChan_stakes (i : Nat) (v : ChanDyn) : (s.setChan i v).stakes = s.stakes := rfl
@[simp] theorem setChan_ports (i : Nat) (v : ChanDyn) : (s.setChan i v).ports = s.ports := rfl
@[simp] theorem setChan_trig (i : Nat) (v : ChanDyn) : (s.setChan i v).trig = s.trig := rfl
@[simp] theorem setChan_seqs (i : Nat) (v : ChanDyn) : (s.setChan i v).seqs = s.seqs := rfl
@[simp] theorem setChan_touts (i : Nat) (v : ChanDyn) : (s.setChan i v).touts = s.touts := rfl
@[simp] theorem setChan_refs (i : Nat) (v : ChanDyn) : (s.setChan i v).refs = s.refs := rfl
@[simp] theorem setChan_cmps (i : Nat) (v : ChanDyn) : (s.setChan i v).cmps = s.cmps := rfl
@[simp] theorem setChan_hists (i : Nat) (v : ChanDyn) : (s.setChan i v).hists = s.hists := rfl
@[simp] theorem setChan_images (i : Nat) (v : ChanDyn) : (s.setChan i v).images = s.images := rfl
@[simp] theorem setChan_ivals (i : Nat) (v : ChanDyn) : (s.setChan i v).ivals = s.ivals := rfl
@[simp] theorem setChan_streams (i : Nat) (v : ChanDyn) : (s.setChan i v).streams = s.streams := rfl
@[simp] theorem setChan_queues (i : Nat) (v : ChanDyn) : (s.setChan i v).queues = s.queues := rfl
@[simp] theorem setChan_ces (i : Nat) (v : ChanDyn) : (s.setChan i v).ces = s.ces := rfl
@[simp] theorem setChan_des (i : Nat) (v : ChanDyn) : (s.setChan i v).des = s.des := rfl
@[simp] theorem setChan_scheds (i : Nat) (v : ChanDyn) : (s.setChan i v).scheds = s.scheds := rfl
@[simp] theorem setChan_ledger (i : Nat) (v : ChanDyn) : (s.setChan i v).ledger = s.ledger := rfl
@[simp] theorem setChan_station (i : Nat) (v : ChanDyn) : (s.setChan i v).station = s.station := rfl
@[simp] theorem setChan_out (i : Nat) (v : ChanDyn) : (s.setChan i v).out = s.out := rfl
@[simp] theorem setChan_drawn (i : Nat) (v : ChanDyn) : (s.setChan i v).drawn = s.drawn := rfl
@[simp] theorem setChan_mem_dram (i : Nat) (v : ChanDyn) : (s.setChan i v).mem.dram = s.mem.dram := rfl
@[simp] theorem setChan_mem_written (i : Nat) (v : ChanDyn) : (s.setChan i v).mem.written = s.mem.written := rfl
@[simp] theorem chan_setChan (i : Nat) (v : ChanDyn) : (s.setChan i v).chan i = v := by simp [chan, setChan]
theorem chan_setChan_of_ne {i j : Nat} (v : ChanDyn) (h : j ≠ i) : (s.setChan i v).chan j = s.chan j := by
  simp [chan, setChan, Tbl.getD_set_of_ne _ v _ _ h]
@[simp] theorem modChan_eq (i : Nat) (f : ChanDyn → ChanDyn) : s.modChan i f = s.setChan i (f (s.chan i)) := rfl

@[simp] theorem setSched_pending (i : Nat) (v : ChanSched) : (s.setSched i v).pending = s.pending := rfl
@[simp] theorem setSched_regs (i : Nat) (v : ChanSched) : (s.setSched i v).regs = s.regs := rfl
@[simp] theorem setSched_fwRegs (i : Nat) (v : ChanSched) : (s.setSched i v).fwRegs = s.fwRegs := rfl
@[simp] theorem setSched_mbx (i : Nat) (v : ChanSched) : (s.setSched i v).mbx = s.mbx := rfl
@[simp] theorem setSched_pcie (i : Nat) (v : ChanSched) : (s.setSched i v).pcie = s.pcie := rfl
@[simp] theorem setSched_time (i : Nat) (v : ChanSched) : (s.setSched i v).time = s.time := rfl
@[simp] theorem setSched_power (i : Nat) (v : ChanSched) : (s.setSched i v).power = s.power := rfl
@[simp] theorem setSched_weaver (i : Nat) (v : ChanSched) : (s.setSched i v).weaver = s.weaver := rfl
@[simp] theorem setSched_lanes (i : Nat) (v : ChanSched) : (s.setSched i v).lanes = s.lanes := rfl
@[simp] theorem setSched_stakes (i : Nat) (v : ChanSched) : (s.setSched i v).stakes = s.stakes := rfl
@[simp] theorem setSched_ports (i : Nat) (v : ChanSched) : (s.setSched i v).ports = s.ports := rfl
@[simp] theorem setSched_trig (i : Nat) (v : ChanSched) : (s.setSched i v).trig = s.trig := rfl
@[simp] theorem setSched_seqs (i : Nat) (v : ChanSched) : (s.setSched i v).seqs = s.seqs := rfl
@[simp] theorem setSched_touts (i : Nat) (v : ChanSched) : (s.setSched i v).touts = s.touts := rfl
@[simp] theorem setSched_refs (i : Nat) (v : ChanSched) : (s.setSched i v).refs = s.refs := rfl
@[simp] theorem setSched_cmps (i : Nat) (v : ChanSched) : (s.setSched i v).cmps = s.cmps := rfl
@[simp] theorem setSched_hists (i : Nat) (v : ChanSched) : (s.setSched i v).hists = s.hists := rfl
@[simp] theorem setSched_images (i : Nat) (v : ChanSched) : (s.setSched i v).images = s.images := rfl
@[simp] theorem setSched_ivals (i : Nat) (v : ChanSched) : (s.setSched i v).ivals = s.ivals := rfl
@[simp] theorem setSched_streams (i : Nat) (v : ChanSched) : (s.setSched i v).streams = s.streams := rfl
@[simp] theorem setSched_queues (i : Nat) (v : ChanSched) : (s.setSched i v).queues = s.queues := rfl
@[simp] theorem setSched_ces (i : Nat) (v : ChanSched) : (s.setSched i v).ces = s.ces := rfl
@[simp] theorem setSched_des (i : Nat) (v : ChanSched) : (s.setSched i v).des = s.des := rfl
@[simp] theorem setSched_mem (i : Nat) (v : ChanSched) : (s.setSched i v).mem = s.mem := rfl
@[simp] theorem setSched_ledger (i : Nat) (v : ChanSched) : (s.setSched i v).ledger = s.ledger := rfl
@[simp] theorem setSched_station (i : Nat) (v : ChanSched) : (s.setSched i v).station = s.station := rfl
@[simp] theorem setSched_out (i : Nat) (v : ChanSched) : (s.setSched i v).out = s.out := rfl
@[simp] theorem setSched_drawn (i : Nat) (v : ChanSched) : (s.setSched i v).drawn = s.drawn := rfl
@[simp] theorem sched_setSched (i : Nat) (v : ChanSched) : (s.setSched i v).sched i = v := by simp [sched, setSched]
theorem sched_setSched_of_ne {i j : Nat} (v : ChanSched) (h : j ≠ i) : (s.setSched i v).sched j = s.sched j := by
  simp [sched, setSched, Tbl.getD_set_of_ne _ v _ _ h]
@[simp] theorem modSched_eq (i : Nat) (f : ChanSched → ChanSched) : s.modSched i f = s.setSched i (f (s.sched i)) := rfl

@[simp] theorem modTrig_pending (f : TrigState → TrigState) : (s.modTrig f).pending = s.pending := rfl
@[simp] theorem modTrig_regs (f : TrigState → TrigState) : (s.modTrig f).regs = s.regs := rfl
@[simp] theorem modTrig_fwRegs (f : TrigState → TrigState) : (s.modTrig f).fwRegs = s.fwRegs := rfl
@[simp] theorem modTrig_mbx (f : TrigState → TrigState) : (s.modTrig f).mbx = s.mbx := rfl
@[simp] theorem modTrig_pcie (f : TrigState → TrigState) : (s.modTrig f).pcie = s.pcie := rfl
@[simp] theorem modTrig_time (f : TrigState → TrigState) : (s.modTrig f).time = s.time := rfl
@[simp] theorem modTrig_power (f : TrigState → TrigState) : (s.modTrig f).power = s.power := rfl
@[simp] theorem modTrig_weaver (f : TrigState → TrigState) : (s.modTrig f).weaver = s.weaver := rfl
@[simp] theorem modTrig_lanes (f : TrigState → TrigState) : (s.modTrig f).lanes = s.lanes := rfl
@[simp] theorem modTrig_stakes (f : TrigState → TrigState) : (s.modTrig f).stakes = s.stakes := rfl
@[simp] theorem modTrig_ports (f : TrigState → TrigState) : (s.modTrig f).ports = s.ports := rfl
@[simp] theorem modTrig_seqs (f : TrigState → TrigState) : (s.modTrig f).seqs = s.seqs := rfl
@[simp] theorem modTrig_touts (f : TrigState → TrigState) : (s.modTrig f).touts = s.touts := rfl
@[simp] theorem modTrig_refs (f : TrigState → TrigState) : (s.modTrig f).refs = s.refs := rfl
@[simp] theorem modTrig_cmps (f : TrigState → TrigState) : (s.modTrig f).cmps = s.cmps := rfl
@[simp] theorem modTrig_hists (f : TrigState → TrigState) : (s.modTrig f).hists = s.hists := rfl
@[simp] theorem modTrig_images (f : TrigState → TrigState) : (s.modTrig f).images = s.images := rfl
@[simp] theorem modTrig_ivals (f : TrigState → TrigState) : (s.modTrig f).ivals = s.ivals := rfl
@[simp] theorem modTrig_streams (f : TrigState → TrigState) : (s.modTrig f).streams = s.streams := rfl
@[simp] theorem modTrig_queues (f : TrigState → TrigState) : (s.modTrig f).queues = s.queues := rfl
@[simp] theorem modTrig_ces (f : TrigState → TrigState) : (s.modTrig f).ces = s.ces := rfl
@[simp] theorem modTrig_des (f : TrigState → TrigState) : (s.modTrig f).des = s.des := rfl
@[simp] theorem modTrig_mem (f : TrigState → TrigState) : (s.modTrig f).mem = s.mem := rfl
@[simp] theorem modTrig_scheds (f : TrigState → TrigState) : (s.modTrig f).scheds = s.scheds := rfl
@[simp] theorem modTrig_ledger (f : TrigState → TrigState) : (s.modTrig f).ledger = s.ledger := rfl
@[simp] theorem modTrig_station (f : TrigState → TrigState) : (s.modTrig f).station = s.station := rfl
@[simp] theorem modTrig_out (f : TrigState → TrigState) : (s.modTrig f).out = s.out := rfl
@[simp] theorem modTrig_drawn (f : TrigState → TrigState) : (s.modTrig f).drawn = s.drawn := rfl
@[simp] theorem modTrig_self (f : TrigState → TrigState) : (s.modTrig f).trig = f s.trig := rfl

@[simp] theorem modTime_pending (f : TimeState → TimeState) : (s.modTime f).pending = s.pending := rfl
@[simp] theorem modTime_regs (f : TimeState → TimeState) : (s.modTime f).regs = s.regs := rfl
@[simp] theorem modTime_fwRegs (f : TimeState → TimeState) : (s.modTime f).fwRegs = s.fwRegs := rfl
@[simp] theorem modTime_mbx (f : TimeState → TimeState) : (s.modTime f).mbx = s.mbx := rfl
@[simp] theorem modTime_pcie (f : TimeState → TimeState) : (s.modTime f).pcie = s.pcie := rfl
@[simp] theorem modTime_power (f : TimeState → TimeState) : (s.modTime f).power = s.power := rfl
@[simp] theorem modTime_weaver (f : TimeState → TimeState) : (s.modTime f).weaver = s.weaver := rfl
@[simp] theorem modTime_lanes (f : TimeState → TimeState) : (s.modTime f).lanes = s.lanes := rfl
@[simp] theorem modTime_stakes (f : TimeState → TimeState) : (s.modTime f).stakes = s.stakes := rfl
@[simp] theorem modTime_ports (f : TimeState → TimeState) : (s.modTime f).ports = s.ports := rfl
@[simp] theorem modTime_trig (f : TimeState → TimeState) : (s.modTime f).trig = s.trig := rfl
@[simp] theorem modTime_seqs (f : TimeState → TimeState) : (s.modTime f).seqs = s.seqs := rfl
@[simp] theorem modTime_touts (f : TimeState → TimeState) : (s.modTime f).touts = s.touts := rfl
@[simp] theorem modTime_refs (f : TimeState → TimeState) : (s.modTime f).refs = s.refs := rfl
@[simp] theorem modTime_cmps (f : TimeState → TimeState) : (s.modTime f).cmps = s.cmps := rfl
@[simp] theorem modTime_hists (f : TimeState → TimeState) : (s.modTime f).hists = s.hists := rfl
@[simp] theorem modTime_images (f : TimeState → TimeState) : (s.modTime f).images = s.images := rfl
@[simp] theorem modTime_ivals (f : TimeState → TimeState) : (s.modTime f).ivals = s.ivals := rfl
@[simp] theorem modTime_streams (f : TimeState → TimeState) : (s.modTime f).streams = s.streams := rfl
@[simp] theorem modTime_queues (f : TimeState → TimeState) : (s.modTime f).queues = s.queues := rfl
@[simp] theorem modTime_ces (f : TimeState → TimeState) : (s.modTime f).ces = s.ces := rfl
@[simp] theorem modTime_des (f : TimeState → TimeState) : (s.modTime f).des = s.des := rfl
@[simp] theorem modTime_mem (f : TimeState → TimeState) : (s.modTime f).mem = s.mem := rfl
@[simp] theorem modTime_scheds (f : TimeState → TimeState) : (s.modTime f).scheds = s.scheds := rfl
@[simp] theorem modTime_ledger (f : TimeState → TimeState) : (s.modTime f).ledger = s.ledger := rfl
@[simp] theorem modTime_station (f : TimeState → TimeState) : (s.modTime f).station = s.station := rfl
@[simp] theorem modTime_out (f : TimeState → TimeState) : (s.modTime f).out = s.out := rfl
@[simp] theorem modTime_drawn (f : TimeState → TimeState) : (s.modTime f).drawn = s.drawn := rfl
@[simp] theorem modTime_self (f : TimeState → TimeState) : (s.modTime f).time = f s.time := rfl

@[simp] theorem modPcie_pending (f : PcieState → PcieState) : (s.modPcie f).pending = s.pending := rfl
@[simp] theorem modPcie_regs (f : PcieState → PcieState) : (s.modPcie f).regs = s.regs := rfl
@[simp] theorem modPcie_fwRegs (f : PcieState → PcieState) : (s.modPcie f).fwRegs = s.fwRegs := rfl
@[simp] theorem modPcie_mbx (f : PcieState → PcieState) : (s.modPcie f).mbx = s.mbx := rfl
@[simp] theorem modPcie_time (f : PcieState → PcieState) : (s.modPcie f).time = s.time := rfl
@[simp] theorem modPcie_power (f : PcieState → PcieState) : (s.modPcie f).power = s.power := rfl
@[simp] theorem modPcie_weaver (f : PcieState → PcieState) : (s.modPcie f).weaver = s.weaver := rfl
@[simp] theorem modPcie_lanes (f : PcieState → PcieState) : (s.modPcie f).lanes = s.lanes := rfl
@[simp] theorem modPcie_stakes (f : PcieState → PcieState) : (s.modPcie f).stakes = s.stakes := rfl
@[simp] theorem modPcie_ports (f : PcieState → PcieState) : (s.modPcie f).ports = s.ports := rfl
@[simp] theorem modPcie_trig (f : PcieState → PcieState) : (s.modPcie f).trig = s.trig := rfl
@[simp] theorem modPcie_seqs (f : PcieState → PcieState) : (s.modPcie f).seqs = s.seqs := rfl
@[simp] theorem modPcie_touts (f : PcieState → PcieState) : (s.modPcie f).touts = s.touts := rfl
@[simp] theorem modPcie_refs (f : PcieState → PcieState) : (s.modPcie f).refs = s.refs := rfl
@[simp] theorem modPcie_cmps (f : PcieState → PcieState) : (s.modPcie f).cmps = s.cmps := rfl
@[simp] theorem modPcie_hists (f : PcieState → PcieState) : (s.modPcie f).hists = s.hists := rfl
@[simp] theorem modPcie_images (f : PcieState → PcieState) : (s.modPcie f).images = s.images := rfl
@[simp] theorem modPcie_ivals (f : PcieState → PcieState) : (s.modPcie f).ivals = s.ivals := rfl
@[simp] theorem modPcie_streams (f : PcieState → PcieState) : (s.modPcie f).streams = s.streams := rfl
@[simp] theorem modPcie_queues (f : PcieState → PcieState) : (s.modPcie f).queues = s.queues := rfl
@[simp] theorem modPcie_ces (f : PcieState → PcieState) : (s.modPcie f).ces = s.ces := rfl
@[simp] theorem modPcie_des (f : PcieState → PcieState) : (s.modPcie f).des = s.des := rfl
@[simp] theorem modPcie_mem (f : PcieState → PcieState) : (s.modPcie f).mem = s.mem := rfl
@[simp] theorem modPcie_scheds (f : PcieState → PcieState) : (s.modPcie f).scheds = s.scheds := rfl
@[simp] theorem modPcie_ledger (f : PcieState → PcieState) : (s.modPcie f).ledger = s.ledger := rfl
@[simp] theorem modPcie_station (f : PcieState → PcieState) : (s.modPcie f).station = s.station := rfl
@[simp] theorem modPcie_out (f : PcieState → PcieState) : (s.modPcie f).out = s.out := rfl
@[simp] theorem modPcie_drawn (f : PcieState → PcieState) : (s.modPcie f).drawn = s.drawn := rfl
@[simp] theorem modPcie_self (f : PcieState → PcieState) : (s.modPcie f).pcie = f s.pcie := rfl

@[simp] theorem modMbx_pending (f : MailboxState → MailboxState) : (s.modMbx f).pending = s.pending := rfl
@[simp] theorem modMbx_regs (f : MailboxState → MailboxState) : (s.modMbx f).regs = s.regs := rfl
@[simp] theorem modMbx_fwRegs (f : MailboxState → MailboxState) : (s.modMbx f).fwRegs = s.fwRegs := rfl
@[simp] theorem modMbx_pcie (f : MailboxState → MailboxState) : (s.modMbx f).pcie = s.pcie := rfl
@[simp] theorem modMbx_time (f : MailboxState → MailboxState) : (s.modMbx f).time = s.time := rfl
@[simp] theorem modMbx_power (f : MailboxState → MailboxState) : (s.modMbx f).power = s.power := rfl
@[simp] theorem modMbx_weaver (f : MailboxState → MailboxState) : (s.modMbx f).weaver = s.weaver := rfl
@[simp] theorem modMbx_lanes (f : MailboxState → MailboxState) : (s.modMbx f).lanes = s.lanes := rfl
@[simp] theorem modMbx_stakes (f : MailboxState → MailboxState) : (s.modMbx f).stakes = s.stakes := rfl
@[simp] theorem modMbx_ports (f : MailboxState → MailboxState) : (s.modMbx f).ports = s.ports := rfl
@[simp] theorem modMbx_trig (f : MailboxState → MailboxState) : (s.modMbx f).trig = s.trig := rfl
@[simp] theorem modMbx_seqs (f : MailboxState → MailboxState) : (s.modMbx f).seqs = s.seqs := rfl
@[simp] theorem modMbx_touts (f : MailboxState → MailboxState) : (s.modMbx f).touts = s.touts := rfl
@[simp] theorem modMbx_refs (f : MailboxState → MailboxState) : (s.modMbx f).refs = s.refs := rfl
@[simp] theorem modMbx_cmps (f : MailboxState → MailboxState) : (s.modMbx f).cmps = s.cmps := rfl
@[simp] theorem modMbx_hists (f : MailboxState → MailboxState) : (s.modMbx f).hists = s.hists := rfl
@[simp] theorem modMbx_images (f : MailboxState → MailboxState) : (s.modMbx f).images = s.images := rfl
@[simp] theorem modMbx_ivals (f : MailboxState → MailboxState) : (s.modMbx f).ivals = s.ivals := rfl
@[simp] theorem modMbx_streams (f : MailboxState → MailboxState) : (s.modMbx f).streams = s.streams := rfl
@[simp] theorem modMbx_queues (f : MailboxState → MailboxState) : (s.modMbx f).queues = s.queues := rfl
@[simp] theorem modMbx_ces (f : MailboxState → MailboxState) : (s.modMbx f).ces = s.ces := rfl
@[simp] theorem modMbx_des (f : MailboxState → MailboxState) : (s.modMbx f).des = s.des := rfl
@[simp] theorem modMbx_mem (f : MailboxState → MailboxState) : (s.modMbx f).mem = s.mem := rfl
@[simp] theorem modMbx_scheds (f : MailboxState → MailboxState) : (s.modMbx f).scheds = s.scheds := rfl
@[simp] theorem modMbx_ledger (f : MailboxState → MailboxState) : (s.modMbx f).ledger = s.ledger := rfl
@[simp] theorem modMbx_station (f : MailboxState → MailboxState) : (s.modMbx f).station = s.station := rfl
@[simp] theorem modMbx_out (f : MailboxState → MailboxState) : (s.modMbx f).out = s.out := rfl
@[simp] theorem modMbx_drawn (f : MailboxState → MailboxState) : (s.modMbx f).drawn = s.drawn := rfl
@[simp] theorem modMbx_self (f : MailboxState → MailboxState) : (s.modMbx f).mbx = f s.mbx := rfl

@[simp] theorem modPower_pending (f : PowerState → PowerState) : (s.modPower f).pending = s.pending := rfl
@[simp] theorem modPower_regs (f : PowerState → PowerState) : (s.modPower f).regs = s.regs := rfl
@[simp] theorem modPower_fwRegs (f : PowerState → PowerState) : (s.modPower f).fwRegs = s.fwRegs := rfl
@[simp] theorem modPower_mbx (f : PowerState → PowerState) : (s.modPower f).mbx = s.mbx := rfl
@[simp] theorem modPower_pcie (f : PowerState → PowerState) : (s.modPower f).pcie = s.pcie := rfl
@[simp] theorem modPower_time (f : PowerState → PowerState) : (s.modPower f).time = s.time := rfl
@[simp] theorem modPower_weaver (f : PowerState → PowerState) : (s.modPower f).weaver = s.weaver := rfl
@[simp] theorem modPower_lanes (f : PowerState → PowerState) : (s.modPower f).lanes = s.lanes := rfl
@[simp] theorem modPower_stakes (f : PowerState → PowerState) : (s.modPower f).stakes = s.stakes := rfl
@[simp] theorem modPower_ports (f : PowerState → PowerState) : (s.modPower f).ports = s.ports := rfl
@[simp] theorem modPower_trig (f : PowerState → PowerState) : (s.modPower f).trig = s.trig := rfl
@[simp] theorem modPower_seqs (f : PowerState → PowerState) : (s.modPower f).seqs = s.seqs := rfl
@[simp] theorem modPower_touts (f : PowerState → PowerState) : (s.modPower f).touts = s.touts := rfl
@[simp] theorem modPower_refs (f : PowerState → PowerState) : (s.modPower f).refs = s.refs := rfl
@[simp] theorem modPower_cmps (f : PowerState → PowerState) : (s.modPower f).cmps = s.cmps := rfl
@[simp] theorem modPower_hists (f : PowerState → PowerState) : (s.modPower f).hists = s.hists := rfl
@[simp] theorem modPower_images (f : PowerState → PowerState) : (s.modPower f).images = s.images := rfl
@[simp] theorem modPower_ivals (f : PowerState → PowerState) : (s.modPower f).ivals = s.ivals := rfl
@[simp] theorem modPower_streams (f : PowerState → PowerState) : (s.modPower f).streams = s.streams := rfl
@[simp] theorem modPower_queues (f : PowerState → PowerState) : (s.modPower f).queues = s.queues := rfl
@[simp] theorem modPower_ces (f : PowerState → PowerState) : (s.modPower f).ces = s.ces := rfl
@[simp] theorem modPower_des (f : PowerState → PowerState) : (s.modPower f).des = s.des := rfl
@[simp] theorem modPower_mem (f : PowerState → PowerState) : (s.modPower f).mem = s.mem := rfl
@[simp] theorem modPower_scheds (f : PowerState → PowerState) : (s.modPower f).scheds = s.scheds := rfl
@[simp] theorem modPower_ledger (f : PowerState → PowerState) : (s.modPower f).ledger = s.ledger := rfl
@[simp] theorem modPower_station (f : PowerState → PowerState) : (s.modPower f).station = s.station := rfl
@[simp] theorem modPower_out (f : PowerState → PowerState) : (s.modPower f).out = s.out := rfl
@[simp] theorem modPower_drawn (f : PowerState → PowerState) : (s.modPower f).drawn = s.drawn := rfl
@[simp] theorem modPower_self (f : PowerState → PowerState) : (s.modPower f).power = f s.power := rfl

@[simp] theorem modWeaver_pending (f : WeaverState → WeaverState) : (s.modWeaver f).pending = s.pending := rfl
@[simp] theorem modWeaver_regs (f : WeaverState → WeaverState) : (s.modWeaver f).regs = s.regs := rfl
@[simp] theorem modWeaver_fwRegs (f : WeaverState → WeaverState) : (s.modWeaver f).fwRegs = s.fwRegs := rfl
@[simp] theorem modWeaver_mbx (f : WeaverState → WeaverState) : (s.modWeaver f).mbx = s.mbx := rfl
@[simp] theorem modWeaver_pcie (f : WeaverState → WeaverState) : (s.modWeaver f).pcie = s.pcie := rfl
@[simp] theorem modWeaver_time (f : WeaverState → WeaverState) : (s.modWeaver f).time = s.time := rfl
@[simp] theorem modWeaver_power (f : WeaverState → WeaverState) : (s.modWeaver f).power = s.power := rfl
@[simp] theorem modWeaver_lanes (f : WeaverState → WeaverState) : (s.modWeaver f).lanes = s.lanes := rfl
@[simp] theorem modWeaver_stakes (f : WeaverState → WeaverState) : (s.modWeaver f).stakes = s.stakes := rfl
@[simp] theorem modWeaver_ports (f : WeaverState → WeaverState) : (s.modWeaver f).ports = s.ports := rfl
@[simp] theorem modWeaver_trig (f : WeaverState → WeaverState) : (s.modWeaver f).trig = s.trig := rfl
@[simp] theorem modWeaver_seqs (f : WeaverState → WeaverState) : (s.modWeaver f).seqs = s.seqs := rfl
@[simp] theorem modWeaver_touts (f : WeaverState → WeaverState) : (s.modWeaver f).touts = s.touts := rfl
@[simp] theorem modWeaver_refs (f : WeaverState → WeaverState) : (s.modWeaver f).refs = s.refs := rfl
@[simp] theorem modWeaver_cmps (f : WeaverState → WeaverState) : (s.modWeaver f).cmps = s.cmps := rfl
@[simp] theorem modWeaver_hists (f : WeaverState → WeaverState) : (s.modWeaver f).hists = s.hists := rfl
@[simp] theorem modWeaver_images (f : WeaverState → WeaverState) : (s.modWeaver f).images = s.images := rfl
@[simp] theorem modWeaver_ivals (f : WeaverState → WeaverState) : (s.modWeaver f).ivals = s.ivals := rfl
@[simp] theorem modWeaver_streams (f : WeaverState → WeaverState) : (s.modWeaver f).streams = s.streams := rfl
@[simp] theorem modWeaver_queues (f : WeaverState → WeaverState) : (s.modWeaver f).queues = s.queues := rfl
@[simp] theorem modWeaver_ces (f : WeaverState → WeaverState) : (s.modWeaver f).ces = s.ces := rfl
@[simp] theorem modWeaver_des (f : WeaverState → WeaverState) : (s.modWeaver f).des = s.des := rfl
@[simp] theorem modWeaver_mem (f : WeaverState → WeaverState) : (s.modWeaver f).mem = s.mem := rfl
@[simp] theorem modWeaver_scheds (f : WeaverState → WeaverState) : (s.modWeaver f).scheds = s.scheds := rfl
@[simp] theorem modWeaver_ledger (f : WeaverState → WeaverState) : (s.modWeaver f).ledger = s.ledger := rfl
@[simp] theorem modWeaver_station (f : WeaverState → WeaverState) : (s.modWeaver f).station = s.station := rfl
@[simp] theorem modWeaver_out (f : WeaverState → WeaverState) : (s.modWeaver f).out = s.out := rfl
@[simp] theorem modWeaver_drawn (f : WeaverState → WeaverState) : (s.modWeaver f).drawn = s.drawn := rfl
@[simp] theorem modWeaver_self (f : WeaverState → WeaverState) : (s.modWeaver f).weaver = f s.weaver := rfl

@[simp] theorem modMem_pending (f : MemState → MemState) : (s.modMem f).pending = s.pending := rfl
@[simp] theorem modMem_regs (f : MemState → MemState) : (s.modMem f).regs = s.regs := rfl
@[simp] theorem modMem_fwRegs (f : MemState → MemState) : (s.modMem f).fwRegs = s.fwRegs := rfl
@[simp] theorem modMem_mbx (f : MemState → MemState) : (s.modMem f).mbx = s.mbx := rfl
@[simp] theorem modMem_pcie (f : MemState → MemState) : (s.modMem f).pcie = s.pcie := rfl
@[simp] theorem modMem_time (f : MemState → MemState) : (s.modMem f).time = s.time := rfl
@[simp] theorem modMem_power (f : MemState → MemState) : (s.modMem f).power = s.power := rfl
@[simp] theorem modMem_weaver (f : MemState → MemState) : (s.modMem f).weaver = s.weaver := rfl
@[simp] theorem modMem_lanes (f : MemState → MemState) : (s.modMem f).lanes = s.lanes := rfl
@[simp] theorem modMem_stakes (f : MemState → MemState) : (s.modMem f).stakes = s.stakes := rfl
@[simp] theorem modMem_ports (f : MemState → MemState) : (s.modMem f).ports = s.ports := rfl
@[simp] theorem modMem_trig (f : MemState → MemState) : (s.modMem f).trig = s.trig := rfl
@[simp] theorem modMem_seqs (f : MemState → MemState) : (s.modMem f).seqs = s.seqs := rfl
@[simp] theorem modMem_touts (f : MemState → MemState) : (s.modMem f).touts = s.touts := rfl
@[simp] theorem modMem_refs (f : MemState → MemState) : (s.modMem f).refs = s.refs := rfl
@[simp] theorem modMem_cmps (f : MemState → MemState) : (s.modMem f).cmps = s.cmps := rfl
@[simp] theorem modMem_hists (f : MemState → MemState) : (s.modMem f).hists = s.hists := rfl
@[simp] theorem modMem_images (f : MemState → MemState) : (s.modMem f).images = s.images := rfl
@[simp] theorem modMem_ivals (f : MemState → MemState) : (s.modMem f).ivals = s.ivals := rfl
@[simp] theorem modMem_streams (f : MemState → MemState) : (s.modMem f).streams = s.streams := rfl
@[simp] theorem modMem_queues (f : MemState → MemState) : (s.modMem f).queues = s.queues := rfl
@[simp] theorem modMem_ces (f : MemState → MemState) : (s.modMem f).ces = s.ces := rfl
@[simp] theorem modMem_des (f : MemState → MemState) : (s.modMem f).des = s.des := rfl
@[simp] theorem modMem_scheds (f : MemState → MemState) : (s.modMem f).scheds = s.scheds := rfl
@[simp] theorem modMem_ledger (f : MemState → MemState) : (s.modMem f).ledger = s.ledger := rfl
@[simp] theorem modMem_station (f : MemState → MemState) : (s.modMem f).station = s.station := rfl
@[simp] theorem modMem_out (f : MemState → MemState) : (s.modMem f).out = s.out := rfl
@[simp] theorem modMem_drawn (f : MemState → MemState) : (s.modMem f).drawn = s.drawn := rfl
@[simp] theorem modMem_self (f : MemState → MemState) : (s.modMem f).mem = f s.mem := rfl

@[simp] theorem modLedger_pending (f : LedgerState → LedgerState) : (s.modLedger f).pending = s.pending := rfl
@[simp] theorem modLedger_regs (f : LedgerState → LedgerState) : (s.modLedger f).regs = s.regs := rfl
@[simp] theorem modLedger_fwRegs (f : LedgerState → LedgerState) : (s.modLedger f).fwRegs = s.fwRegs := rfl
@[simp] theorem modLedger_mbx (f : LedgerState → LedgerState) : (s.modLedger f).mbx = s.mbx := rfl
@[simp] theorem modLedger_pcie (f : LedgerState → LedgerState) : (s.modLedger f).pcie = s.pcie := rfl
@[simp] theorem modLedger_time (f : LedgerState → LedgerState) : (s.modLedger f).time = s.time := rfl
@[simp] theorem modLedger_power (f : LedgerState → LedgerState) : (s.modLedger f).power = s.power := rfl
@[simp] theorem modLedger_weaver (f : LedgerState → LedgerState) : (s.modLedger f).weaver = s.weaver := rfl
@[simp] theorem modLedger_lanes (f : LedgerState → LedgerState) : (s.modLedger f).lanes = s.lanes := rfl
@[simp] theorem modLedger_stakes (f : LedgerState → LedgerState) : (s.modLedger f).stakes = s.stakes := rfl
@[simp] theorem modLedger_ports (f : LedgerState → LedgerState) : (s.modLedger f).ports = s.ports := rfl
@[simp] theorem modLedger_trig (f : LedgerState → LedgerState) : (s.modLedger f).trig = s.trig := rfl
@[simp] theorem modLedger_seqs (f : LedgerState → LedgerState) : (s.modLedger f).seqs = s.seqs := rfl
@[simp] theorem modLedger_touts (f : LedgerState → LedgerState) : (s.modLedger f).touts = s.touts := rfl
@[simp] theorem modLedger_refs (f : LedgerState → LedgerState) : (s.modLedger f).refs = s.refs := rfl
@[simp] theorem modLedger_cmps (f : LedgerState → LedgerState) : (s.modLedger f).cmps = s.cmps := rfl
@[simp] theorem modLedger_hists (f : LedgerState → LedgerState) : (s.modLedger f).hists = s.hists := rfl
@[simp] theorem modLedger_images (f : LedgerState → LedgerState) : (s.modLedger f).images = s.images := rfl
@[simp] theorem modLedger_ivals (f : LedgerState → LedgerState) : (s.modLedger f).ivals = s.ivals := rfl
@[simp] theorem modLedger_streams (f : LedgerState → LedgerState) : (s.modLedger f).streams = s.streams := rfl
@[simp] theorem modLedger_queues (f : LedgerState → LedgerState) : (s.modLedger f).queues = s.queues := rfl
@[simp] theorem modLedger_ces (f : LedgerState → LedgerState) : (s.modLedger f).ces = s.ces := rfl
@[simp] theorem modLedger_des (f : LedgerState → LedgerState) : (s.modLedger f).des = s.des := rfl
@[simp] theorem modLedger_mem (f : LedgerState → LedgerState) : (s.modLedger f).mem = s.mem := rfl
@[simp] theorem modLedger_scheds (f : LedgerState → LedgerState) : (s.modLedger f).scheds = s.scheds := rfl
@[simp] theorem modLedger_station (f : LedgerState → LedgerState) : (s.modLedger f).station = s.station := rfl
@[simp] theorem modLedger_out (f : LedgerState → LedgerState) : (s.modLedger f).out = s.out := rfl
@[simp] theorem modLedger_drawn (f : LedgerState → LedgerState) : (s.modLedger f).drawn = s.drawn := rfl
@[simp] theorem modLedger_self (f : LedgerState → LedgerState) : (s.modLedger f).ledger = f s.ledger := rfl

@[simp] theorem modStation_pending (f : StationState → StationState) : (s.modStation f).pending = s.pending := rfl
@[simp] theorem modStation_regs (f : StationState → StationState) : (s.modStation f).regs = s.regs := rfl
@[simp] theorem modStation_fwRegs (f : StationState → StationState) : (s.modStation f).fwRegs = s.fwRegs := rfl
@[simp] theorem modStation_mbx (f : StationState → StationState) : (s.modStation f).mbx = s.mbx := rfl
@[simp] theorem modStation_pcie (f : StationState → StationState) : (s.modStation f).pcie = s.pcie := rfl
@[simp] theorem modStation_time (f : StationState → StationState) : (s.modStation f).time = s.time := rfl
@[simp] theorem modStation_power (f : StationState → StationState) : (s.modStation f).power = s.power := rfl
@[simp] theorem modStation_weaver (f : StationState → StationState) : (s.modStation f).weaver = s.weaver := rfl
@[simp] theorem modStation_lanes (f : StationState → StationState) : (s.modStation f).lanes = s.lanes := rfl
@[simp] theorem modStation_stakes (f : StationState → StationState) : (s.modStation f).stakes = s.stakes := rfl
@[simp] theorem modStation_ports (f : StationState → StationState) : (s.modStation f).ports = s.ports := rfl
@[simp] theorem modStation_trig (f : StationState → StationState) : (s.modStation f).trig = s.trig := rfl
@[simp] theorem modStation_seqs (f : StationState → StationState) : (s.modStation f).seqs = s.seqs := rfl
@[simp] theorem modStation_touts (f : StationState → StationState) : (s.modStation f).touts = s.touts := rfl
@[simp] theorem modStation_refs (f : StationState → StationState) : (s.modStation f).refs = s.refs := rfl
@[simp] theorem modStation_cmps (f : StationState → StationState) : (s.modStation f).cmps = s.cmps := rfl
@[simp] theorem modStation_hists (f : StationState → StationState) : (s.modStation f).hists = s.hists := rfl
@[simp] theorem modStation_images (f : StationState → StationState) : (s.modStation f).images = s.images := rfl
@[simp] theorem modStation_ivals (f : StationState → StationState) : (s.modStation f).ivals = s.ivals := rfl
@[simp] theorem modStation_streams (f : StationState → StationState) : (s.modStation f).streams = s.streams := rfl
@[simp] theorem modStation_queues (f : StationState → StationState) : (s.modStation f).queues = s.queues := rfl
@[simp] theorem modStation_ces (f : StationState → StationState) : (s.modStation f).ces = s.ces := rfl
@[simp] theorem modStation_des (f : StationState → StationState) : (s.modStation f).des = s.des := rfl
@[simp] theorem modStation_mem (f : StationState → StationState) : (s.modStation f).mem = s.mem := rfl
@[simp] theorem modStation_scheds (f : StationState → StationState) : (s.modStation f).scheds = s.scheds := rfl
@[simp] theorem modStation_ledger (f : StationState → StationState) : (s.modStation f).ledger = s.ledger := rfl
@[simp] theorem modStation_out (f : StationState → StationState) : (s.modStation f).out = s.out := rfl
@[simp] theorem modStation_drawn (f : StationState → StationState) : (s.modStation f).drawn = s.drawn := rfl
@[simp] theorem modStation_self (f : StationState → StationState) : (s.modStation f).station = f s.station := rfl

@[simp] theorem modOut_pending (f : OutState → OutState) : (s.modOut f).pending = s.pending := rfl
@[simp] theorem modOut_regs (f : OutState → OutState) : (s.modOut f).regs = s.regs := rfl
@[simp] theorem modOut_fwRegs (f : OutState → OutState) : (s.modOut f).fwRegs = s.fwRegs := rfl
@[simp] theorem modOut_mbx (f : OutState → OutState) : (s.modOut f).mbx = s.mbx := rfl
@[simp] theorem modOut_pcie (f : OutState → OutState) : (s.modOut f).pcie = s.pcie := rfl
@[simp] theorem modOut_time (f : OutState → OutState) : (s.modOut f).time = s.time := rfl
@[simp] theorem modOut_power (f : OutState → OutState) : (s.modOut f).power = s.power := rfl
@[simp] theorem modOut_weaver (f : OutState → OutState) : (s.modOut f).weaver = s.weaver := rfl
@[simp] theorem modOut_lanes (f : OutState → OutState) : (s.modOut f).lanes = s.lanes := rfl
@[simp] theorem modOut_stakes (f : OutState → OutState) : (s.modOut f).stakes = s.stakes := rfl
@[simp] theorem modOut_ports (f : OutState → OutState) : (s.modOut f).ports = s.ports := rfl
@[simp] theorem modOut_trig (f : OutState → OutState) : (s.modOut f).trig = s.trig := rfl
@[simp] theorem modOut_seqs (f : OutState → OutState) : (s.modOut f).seqs = s.seqs := rfl
@[simp] theorem modOut_touts (f : OutState → OutState) : (s.modOut f).touts = s.touts := rfl
@[simp] theorem modOut_refs (f : OutState → OutState) : (s.modOut f).refs = s.refs := rfl
@[simp] theorem modOut_cmps (f : OutState → OutState) : (s.modOut f).cmps = s.cmps := rfl
@[simp] theorem modOut_hists (f : OutState → OutState) : (s.modOut f).hists = s.hists := rfl
@[simp] theorem modOut_images (f : OutState → OutState) : (s.modOut f).images = s.images := rfl
@[simp] theorem modOut_ivals (f : OutState → OutState) : (s.modOut f).ivals = s.ivals := rfl
@[simp] theorem modOut_streams (f : OutState → OutState) : (s.modOut f).streams = s.streams := rfl
@[simp] theorem modOut_queues (f : OutState → OutState) : (s.modOut f).queues = s.queues := rfl
@[simp] theorem modOut_ces (f : OutState → OutState) : (s.modOut f).ces = s.ces := rfl
@[simp] theorem modOut_des (f : OutState → OutState) : (s.modOut f).des = s.des := rfl
@[simp] theorem modOut_mem (f : OutState → OutState) : (s.modOut f).mem = s.mem := rfl
@[simp] theorem modOut_scheds (f : OutState → OutState) : (s.modOut f).scheds = s.scheds := rfl
@[simp] theorem modOut_ledger (f : OutState → OutState) : (s.modOut f).ledger = s.ledger := rfl
@[simp] theorem modOut_station (f : OutState → OutState) : (s.modOut f).station = s.station := rfl
@[simp] theorem modOut_drawn (f : OutState → OutState) : (s.modOut f).drawn = s.drawn := rfl
@[simp] theorem modOut_self (f : OutState → OutState) : (s.modOut f).out = f s.out := rfl

/-! ### Free values, the queue of commands -/

@[simp] theorem draw_pending (w : Nat) : (s.draw w).2.pending = s.pending := rfl
@[simp] theorem draw_regs (w : Nat) : (s.draw w).2.regs = s.regs := rfl
@[simp] theorem draw_fwRegs (w : Nat) : (s.draw w).2.fwRegs = s.fwRegs := rfl
@[simp] theorem draw_mbx (w : Nat) : (s.draw w).2.mbx = s.mbx := rfl
@[simp] theorem draw_pcie (w : Nat) : (s.draw w).2.pcie = s.pcie := rfl
@[simp] theorem draw_time (w : Nat) : (s.draw w).2.time = s.time := rfl
@[simp] theorem draw_power (w : Nat) : (s.draw w).2.power = s.power := rfl
@[simp] theorem draw_weaver (w : Nat) : (s.draw w).2.weaver = s.weaver := rfl
@[simp] theorem draw_lanes (w : Nat) : (s.draw w).2.lanes = s.lanes := rfl
@[simp] theorem draw_stakes (w : Nat) : (s.draw w).2.stakes = s.stakes := rfl
@[simp] theorem draw_ports (w : Nat) : (s.draw w).2.ports = s.ports := rfl
@[simp] theorem draw_trig (w : Nat) : (s.draw w).2.trig = s.trig := rfl
@[simp] theorem draw_seqs (w : Nat) : (s.draw w).2.seqs = s.seqs := rfl
@[simp] theorem draw_touts (w : Nat) : (s.draw w).2.touts = s.touts := rfl
@[simp] theorem draw_refs (w : Nat) : (s.draw w).2.refs = s.refs := rfl
@[simp] theorem draw_cmps (w : Nat) : (s.draw w).2.cmps = s.cmps := rfl
@[simp] theorem draw_hists (w : Nat) : (s.draw w).2.hists = s.hists := rfl
@[simp] theorem draw_images (w : Nat) : (s.draw w).2.images = s.images := rfl
@[simp] theorem draw_ivals (w : Nat) : (s.draw w).2.ivals = s.ivals := rfl
@[simp] theorem draw_streams (w : Nat) : (s.draw w).2.streams = s.streams := rfl
@[simp] theorem draw_queues (w : Nat) : (s.draw w).2.queues = s.queues := rfl
@[simp] theorem draw_ces (w : Nat) : (s.draw w).2.ces = s.ces := rfl
@[simp] theorem draw_des (w : Nat) : (s.draw w).2.des = s.des := rfl
@[simp] theorem draw_mem (w : Nat) : (s.draw w).2.mem = s.mem := rfl
@[simp] theorem draw_scheds (w : Nat) : (s.draw w).2.scheds = s.scheds := rfl
@[simp] theorem draw_ledger (w : Nat) : (s.draw w).2.ledger = s.ledger := rfl
@[simp] theorem draw_station (w : Nat) : (s.draw w).2.station = s.station := rfl
@[simp] theorem draw_out (w : Nat) : (s.draw w).2.out = s.out := rfl
@[simp] theorem withPending_regs (q : List Instr) : (s.withPending q).regs = s.regs := rfl
@[simp] theorem withPending_fwRegs (q : List Instr) : (s.withPending q).fwRegs = s.fwRegs := rfl
@[simp] theorem withPending_mbx (q : List Instr) : (s.withPending q).mbx = s.mbx := rfl
@[simp] theorem withPending_pcie (q : List Instr) : (s.withPending q).pcie = s.pcie := rfl
@[simp] theorem withPending_time (q : List Instr) : (s.withPending q).time = s.time := rfl
@[simp] theorem withPending_power (q : List Instr) : (s.withPending q).power = s.power := rfl
@[simp] theorem withPending_weaver (q : List Instr) : (s.withPending q).weaver = s.weaver := rfl
@[simp] theorem withPending_lanes (q : List Instr) : (s.withPending q).lanes = s.lanes := rfl
@[simp] theorem withPending_stakes (q : List Instr) : (s.withPending q).stakes = s.stakes := rfl
@[simp] theorem withPending_ports (q : List Instr) : (s.withPending q).ports = s.ports := rfl
@[simp] theorem withPending_trig (q : List Instr) : (s.withPending q).trig = s.trig := rfl
@[simp] theorem withPending_seqs (q : List Instr) : (s.withPending q).seqs = s.seqs := rfl
@[simp] theorem withPending_touts (q : List Instr) : (s.withPending q).touts = s.touts := rfl
@[simp] theorem withPending_refs (q : List Instr) : (s.withPending q).refs = s.refs := rfl
@[simp] theorem withPending_cmps (q : List Instr) : (s.withPending q).cmps = s.cmps := rfl
@[simp] theorem withPending_hists (q : List Instr) : (s.withPending q).hists = s.hists := rfl
@[simp] theorem withPending_images (q : List Instr) : (s.withPending q).images = s.images := rfl
@[simp] theorem withPending_ivals (q : List Instr) : (s.withPending q).ivals = s.ivals := rfl
@[simp] theorem withPending_streams (q : List Instr) : (s.withPending q).streams = s.streams := rfl
@[simp] theorem withPending_queues (q : List Instr) : (s.withPending q).queues = s.queues := rfl
@[simp] theorem withPending_ces (q : List Instr) : (s.withPending q).ces = s.ces := rfl
@[simp] theorem withPending_des (q : List Instr) : (s.withPending q).des = s.des := rfl
@[simp] theorem withPending_mem (q : List Instr) : (s.withPending q).mem = s.mem := rfl
@[simp] theorem withPending_scheds (q : List Instr) : (s.withPending q).scheds = s.scheds := rfl
@[simp] theorem withPending_ledger (q : List Instr) : (s.withPending q).ledger = s.ledger := rfl
@[simp] theorem withPending_station (q : List Instr) : (s.withPending q).station = s.station := rfl
@[simp] theorem withPending_out (q : List Instr) : (s.withPending q).out = s.out := rfl
@[simp] theorem withPending_drawn (q : List Instr) : (s.withPending q).drawn = s.drawn := rfl
@[simp] theorem withPending_pending (q : List Instr) : (s.withPending q).pending = q := rfl

end Sys2Proof.Machine.State
end

