-- ==== Sys2Proof/Laws/Bits.lean ====
section
/-!
SUPPORT. Fields of words: a field that was set reads as set, and every other bit as before; the same for registers.
-/
namespace Sys2Proof

theorem testBit_setFld {w : Nat} (x : BitVec w) {lo len : Nat} (v i : Nat) (h : lo + len ≤ w) :
    (setFld x lo len v).getLsbD i = if lo ≤ i ∧ i < lo + len then v.testBit (i - lo) else x.getLsbD i := by
  have hx : x.toNat = 2 ^ lo * (2 ^ len * (x.toNat >>> (lo + len)) + fld x lo len) + x.toNat % 2 ^ lo := by
    have h1 : x.toNat >>> (lo + len) = (x.toNat >>> lo) / 2 ^ len := by
      rw [Nat.shiftRight_add, Nat.shiftRight_eq_div_pow]
    have h2 : 2 ^ len * (x.toNat >>> (lo + len)) + fld x lo len = x.toNat >>> lo := by
      rw [h1, fld]; exact Nat.div_add_mod _ _
    rw [h2, Nat.shiftRight_eq_div_pow]
    exact (Nat.div_add_mod _ _).symm
  have hs : x.toNat - fld x lo len * 2 ^ lo + v % 2 ^ len * 2 ^ lo =
      2 ^ lo * (2 ^ len * (x.toNat >>> (lo + len)) + v % 2 ^ len) + x.toNat % 2 ^ lo := by
    have : fld x lo len * 2 ^ lo ≤ x.toNat := by
      rw [Nat.mul_comm]
      calc 2 ^ lo * fld x lo len ≤ 2 ^ lo * (2 ^ len * (x.toNat >>> (lo + len)) + fld x lo len) :=
            Nat.mul_le_mul_left _ (Nat.le_add_left _ _)
        _ ≤ x.toNat := by omega
    rw [Nat.mul_add] at hx ⊢
    rw [Nat.mul_comm (fld x lo len), Nat.mul_comm (v % 2 ^ len)] at *
    omega
  have hlo : x.toNat % 2 ^ lo < 2 ^ lo := Nat.mod_lt _ (Nat.two_pow_pos lo)
  have hv : v % 2 ^ len < 2 ^ len := Nat.mod_lt _ (Nat.two_pow_pos len)
  have hf : fld x lo len < 2 ^ len := Nat.mod_lt _ (Nat.two_pow_pos len)
  unfold setFld
  rw [hs, BitVec.getLsbD_ofNat]
  have hb : x.getLsbD i = x.toNat.testBit i := rfl
  rw [hb]
  rw [Nat.testBit_two_pow_mul_add _ hlo]
  by_cases h1 : i < lo
  · have h3 : ¬ (lo ≤ i ∧ i < lo + len) := by omega
    have h4 : i < w := by omega
    simp [h1, h3, h4, Nat.testBit_mod_two_pow]
  · simp only [h1, if_false]
    rw [Nat.testBit_two_pow_mul_add _ hv]
    by_cases h2 : i - lo < len
    · have h3 : lo ≤ i ∧ i < lo + len := by omega
      have h4 : i < w := by omega
      simp [h2, h3, h4, Nat.testBit_mod_two_pow]
    · have h3 : ¬ (lo ≤ i ∧ i < lo + len) := by omega
      simp only [h2, h3, if_false, Nat.testBit_shiftRight]
      have h5 : lo + len + (i - lo - len) = i := by omega
      rw [h5]
      by_cases h4 : i < w
      · simp [h4]
      · have : x.toNat.testBit i = false := Nat.testBit_lt_two_pow (Nat.lt_of_lt_of_le x.isLt (Nat.pow_le_pow_right (by omega) (by omega)))
        simp [h4, this]

theorem testBit_fld {w : Nat} (x : BitVec w) (lo len i : Nat) :
    (fld x lo len).testBit i = (decide (i < len) && x.getLsbD (lo + i)) := by
  simp [fld, Nat.testBit_mod_two_pow, Nat.testBit_shiftRight, BitVec.getLsbD]

/-- The field that was set. -/
theorem fld_setFld_self {w : Nat} (x : BitVec w) {lo len : Nat} (v : Nat) (h : lo + len ≤ w) :
    fld (setFld x lo len v) lo len = v % 2 ^ len := by
  apply Nat.eq_of_testBit_eq
  intro i
  rw [testBit_fld, testBit_setFld x v (lo + i) h, Nat.testBit_mod_two_pow]
  by_cases hi : i < len
  · have : lo ≤ lo + i ∧ lo + i < lo + len := by omega
    simp [hi]
  · simp [hi]

/-- A field that does not meet the one that was set. -/
theorem fld_setFld_of_disjoint {w : Nat} (x : BitVec w) {lo len lo' len' : Nat} (v : Nat) (h : lo + len ≤ w)
    (hd : lo' + len' ≤ lo ∨ lo + len ≤ lo') : fld (setFld x lo len v) lo' len' = fld x lo' len' := by
  apply Nat.eq_of_testBit_eq
  intro i
  rw [testBit_fld, testBit_fld, testBit_setFld x v (lo' + i) h]
  by_cases hi : i < len'
  · have : ¬ (lo ≤ lo' + i ∧ lo' + i < lo + len) := by omega
    simp [this]
  · simp [hi]

namespace Machine.State

variable (s : State)

@[simp] theorem regF_setRegF_self (a lo len v : Nat) (h : lo + len ≤ 32 := by omega) :
    (s.setRegF a lo len v).regF a lo len = v % 2 ^ len := by
  simp [regF, setRegF, fld_setFld_self _ v h]

theorem regF_setRegF_of_disjoint (a lo len v lo' len' : Nat) (h : lo + len ≤ 32) (hd : lo' + len' ≤ lo ∨ lo + len ≤ lo') :
    (s.setRegF a lo len v).regF a lo' len' = s.regF a lo' len' := by
  simp [regF, setRegF, fld_setFld_of_disjoint _ v h hd]

theorem reg_setRegF_of_ne {a b : Nat} (lo len v : Nat) (h : b ≠ a) : (s.setRegF a lo len v).reg b = s.reg b :=
  s.reg_setReg_of_ne _ h

theorem regBit_setRegF (a lo len v i : Nat) (h : lo + len ≤ 32) :
    (s.setRegF a lo len v).regBit a i = if lo ≤ i ∧ i < lo + len then v.testBit (i - lo) else s.regBit a i := by
  simp [regBit, setRegF, bit, testBit_setFld _ v i h]

@[simp] theorem regBit_setRegBit_self (a i : Nat) (b : Bool) (h : i + 1 ≤ 32 := by omega) :
    (s.setRegBit a i b).regBit a i = b := by
  rw [setRegBit, regBit_setRegF _ _ _ _ _ _ h]
  cases b <;> simp

theorem regBit_setRegBit_of_ne (a : Nat) {i j : Nat} (b : Bool) (h : i + 1 ≤ 32) (hj : j ≠ i) :
    (s.setRegBit a i b).regBit a j = s.regBit a j := by
  rw [setRegBit, regBit_setRegF _ _ _ _ _ _ h, if_neg (by omega)]

end Machine.State

end Sys2Proof
end

