-- ==== Sys2Proof/Laws/Memory.lean ====
section
/-!
SUPPORT. The canonical form of DRAM: every operation on memory keeps it, and reads after writes.
-/
namespace Sys2Proof.Machine

theorem memRead_memWrite_self (m : List Host.Cell) (a : Nat) (b : Byte) : memRead (memWrite m a b) a = b := by
  simp [memRead, memWrite]

theorem memRead_memWrite_of_ne (m : List Host.Cell) {a c : Nat} (b : Byte) (h : c ≠ a) :
    memRead (memWrite m a b) c = memRead m c := by
  simp [memRead, memWrite, Tbl.getD_set_of_ne _ _ _ _ h]

/-- Addresses rise strictly and no zero is listed. -/
def cellsOk (m : List Host.Cell) : Prop := Tbl.sorted m = true ∧ Tbl.lean m (fun _ => 0) = true

theorem cellsOk_memWrite {m : List Host.Cell} (a : Nat) (b : Byte) (h : cellsOk m) : cellsOk (memWrite m a b) :=
  ⟨Tbl.sorted_set a b 0 h.1, Tbl.lean_set a b h.2⟩

theorem cellsOk_writes {α : Type} (f : α → Nat) (g : α → Byte) (l : List α) (m : List Host.Cell) (h : cellsOk m) :
    cellsOk (l.foldl (fun d x => memWrite d (f x) (g x)) m) := by
  induction l generalizing m with
  | nil => exact h
  | cons x l ih => exact ih _ (cellsOk_memWrite (f x) (g x) h)

theorem above_filter {α : Type} {t : Tbl α} {i : Nat} (p : Nat × α → Bool) (hs : Tbl.sorted t = true)
    (h : Tbl.above t i = true) : Tbl.above (t.filter p) i = true := by
  induction t with
  | nil => rfl
  | cons e t ih =>
    simp only [Tbl.sorted, Bool.and_eq_true] at hs
    have hi : i < e.1 := by simpa [Tbl.above] using h
    rw [List.filter_cons]
    split
    · simpa [Tbl.above] using hi
    · exact ih hs.2 (Tbl.above_mono hs.1 hi)

theorem sorted_filter {α : Type} {t : Tbl α} (p : Nat × α → Bool) (h : Tbl.sorted t = true) :
    Tbl.sorted (t.filter p) = true := by
  induction t with
  | nil => rfl
  | cons e t ih =>
    simp only [Tbl.sorted, Bool.and_eq_true] at h
    rw [List.filter_cons]
    split
    · simp only [Tbl.sorted, Bool.and_eq_true]
      exact ⟨above_filter p h.2 h.1, ih h.2⟩
    · exact ih h.2

theorem lean_filter {α : Type} [DecidableEq α] {t : Tbl α} {d : Nat → α} (p : Nat × α → Bool)
    (h : Tbl.lean t d = true) : Tbl.lean (t.filter p) d = true := by
  simp only [Tbl.lean, List.all_eq_true, List.mem_filter] at *
  exact fun x hx => h x hx.1

theorem cellsOk_filter {m : List Host.Cell} (p : Host.Cell → Bool) (h : cellsOk m) : cellsOk (m.filter p) :=
  ⟨sorted_filter p h.1, lean_filter p h.2⟩

theorem wf_iff (m : MemState) : Memory.wf m = true ↔ cellsOk m.dram := by
  simp [Memory.wf, cellsOk]

theorem wf_init : Memory.wf MemState.init = true := rfl

theorem MemState.wf_write {m : MemState} (a : Nat) (bytes : List Byte) (h : Memory.wf m = true) :
    Memory.wf (m.write a bytes) = true := by
  rw [wf_iff] at *
  unfold MemState.write
  split
  · exact h
  · exact cellsOk_writes (fun (x : Byte × Nat) => a + x.2) (·.1) _ _ h

theorem MemState.chans_write {m : MemState} (a : Nat) (bytes : List Byte) : (m.write a bytes).chans = m.chans := by
  unfold MemState.write
  split <;> rfl

theorem MemState.wf_forget {m : MemState} (p : Nat → Bool) (h : Memory.wf m = true) : Memory.wf (m.forget p) = true := by
  rw [wf_iff] at *
  exact cellsOk_filter _ h

theorem MemState.wf_retrain {m : MemState} (a base : Nat) (h : Memory.wf m = true) : Memory.wf (m.retrain a base) = true := by
  rw [wf_iff] at *
  exact cellsOk_filter _ h

theorem MemState.wf_put {m : MemState} (pages : List Nat) (off : Nat) (bytes : List Byte) (h : Memory.wf m = true) :
    Memory.wf (m.put pages off bytes) = true := by
  rw [wf_iff] at *
  exact cellsOk_writes
    (fun (x : Byte × Nat) => (pages.getD ((off + x.2) / 2 ^ 21) 0) * 2 ^ 21 + (off + x.2) % 2 ^ 21) (·.1) _ _ h

theorem MemState.wf_move {m : MemState} (mv : List (Nat × Nat)) (h : Memory.wf m = true) :
    Memory.wf (m.move mv) = true := by
  rw [wf_iff] at *
  exact cellsOk_writes (fun (c : Host.Cell) => c.1) (·.2) _ _ (cellsOk_filter _ h)

end Sys2Proof.Machine
end

