-- ==== Sys2Proof/Laws/Closed.lean ====
section
/-!
SUPPORT. What every operation of the machine does to the state, said once: it is built from the updates that `Closed` lists.
The lemma of an operation names the parts of the state that the operation can change (`W` holds of them); a property of states
that each update of those parts keeps is kept by the operation, so by every command built from it.
-/
namespace Sys2Proof.Machine

open Sys2Proof.Safety

/-- Every update of a part that `W` allows keeps `P`. No update touches the queue of commands, and DRAM changes only by changes
that keep its canonical form. -/
structure Closed (W : Part → Prop) (P : State → Prop) : Prop where
  setReg : ∀ {s : State} (a : Nat) (v : Word), W (.reg a) → P s → P (s.setReg a v)
  fwWrite : ∀ {s : State} (a : Nat) (v : Word), W (.reg a) → W .fw → P s → P (s.fwWrite a v)
  setLane : ∀ {s : State} (i : Nat) (v : LaneDyn), W (.lane i) → P s → P (s.setLane i v)
  setStake : ∀ {s : State} (i : Nat) (v : StakeDyn), W (.stake i) → P s → P (s.setStake i v)
  setPort : ∀ {s : State} (i : Nat) (v : PortDyn), W (.port i) → P s → P (s.setPort i v)
  setSeq : ∀ {s : State} (i : Nat) (v : SeqDyn), W (.seq i) → P s → P (s.setSeq i v)
  setTout : ∀ {s : State} (i : Nat) (v : ToutDyn), W (.tout i) → P s → P (s.setTout i v)
  setRef : ∀ {s : State} (i : Nat) (v : RefDyn), W (.ref i) → P s → P (s.setRef i v)
  setCmp : ∀ {s : State} (i : Nat) (v : CmpDyn), W (.cmp i) → P s → P (s.setCmp i v)
  setHist : ∀ {s : State} (i : Nat) (v : HistUnit), W (.hist i) → P s → P (s.setHist i v)
  setImage : ∀ {s : State} (i : Nat) (v : HistImages), W (.image i) → P s → P (s.setImage i v)
  setIval : ∀ {s : State} (i : Nat) (v : IvalDyn), W (.ival i) → P s → P (s.setIval i v)
  setQueue : ∀ {s : State} (i : Nat) (v : QueueDyn), W (.queue i) → P s → P (s.setQueue i v)
  setCe : ∀ {s : State} (i : Nat) (v : EngineDyn), W (.ce i) → P s → P (s.setCe i v)
  setDe : ∀ {s : State} (i : Nat) (v : EngineDyn), W (.de i) → P s → P (s.setDe i v)
  setStream : ∀ {s : State} (i : Nat) (v : StreamDyn), W (.stream i) → P s → P (s.setStream i v)
  setBox : ∀ {s : State} (i : Nat) (v : Mailbox), W (.box i) → P s → P (s.setBox i v)
  setChan : ∀ {s : State} (i : Nat) (v : ChanDyn), W (.chan i) → P s → P (s.setChan i v)
  setSched : ∀ {s : State} (i : Nat) (v : ChanSched), W (.sched i) → P s → P (s.setSched i v)
  modTrig : ∀ {s : State} (f : TrigState → TrigState), W .trig → P s → P (s.modTrig f)
  modTime : ∀ {s : State} (f : TimeState → TimeState), W .time → P s → P (s.modTime f)
  modPcie : ∀ {s : State} (f : PcieState → PcieState), W .pcie → P s → P (s.modPcie f)
  modPower : ∀ {s : State} (f : PowerState → PowerState), W .power → P s → P (s.modPower f)
  modWeaver : ∀ {s : State} (f : WeaverState → WeaverState), W .weaver → P s → P (s.modWeaver f)
  modLedger : ∀ {s : State} (f : LedgerState → LedgerState), W .ledger → P s → P (s.modLedger f)
  modStation : ∀ {s : State} (f : StationState → StationState), W .station → P s → P (s.modStation f)
  modOut : ∀ {s : State} (f : OutState → OutState), W .out → P s → P (s.modOut f)
  modMbx : ∀ {s : State} (f : MailboxState → MailboxState), (∀ x, (f x).boxes = x.boxes) → W .mbx → P s → P (s.modMbx f)
  modMem : ∀ {s : State} (f : MemState → MemState), (∀ m, Memory.wf m = true → Memory.wf (f m) = true) →
    (∀ m, (f m).chans = m.chans) → W .dram → P s → P (s.modMem f)
  drawBytes : ∀ {s : State} (n : Nat), W .drawn → P s → P (s.drawBytes n).2
  delStream : ∀ {s : State} (i : Nat), W (.stream i) → P s → P (s.delStream i)
  delRef : ∀ {s : State} (i : Nat), W (.ref i) → P s → P (s.delRef i)
  delImage : ∀ {s : State} (i : Nat), W (.image i) → P s → P (s.delImage i)
  pruneLanes : ∀ {s : State}, (∀ n, W (.lane n)) → P s → P s.pruneLanes
  abandonCommands : ∀ {s : State}, (∀ n, W (.box n)) → W .mbx → P s → P s.abandonCommands
  resetBase : ∀ {s : State} (keep : List Nat), (∀ p, W p) → P s → P (s.resetBase keep)

namespace Closed

variable {W : Part → Prop} {P : State → Prop}

theorem draw (hP : Closed W P) {s : State} (w : Nat) (h1 : W .drawn) (h : P s) : P (s.draw w).2 := hP.drawBytes 1 h1 h

theorem drawBits (hP : Closed W P) {s : State} (n : Nat) (h1 : W .drawn) (h : P s) : P (s.drawBits n).2 :=
  hP.drawBytes n h1 h

theorem each (hP : Closed W P) {α : Type} {s : State} {l : List α} {f : State → α → State}
    (hf : ∀ t a, P t → P (f t a)) (h : P s) : P (s.each l f) := by
  have _ := hP
  unfold State.each
  induction l generalizing s with
  | nil => exact h
  | cons a l ih => exact ih (hf s a h)

theorem ite (hP : Closed W P) {c : Prop} [Decidable c] {a b : State} (ha : P a) (hb : P b) : P (if c then a else b) := by
  have _ := hP
  split
  · exact ha
  · exact hb

theorem when (hP : Closed W P) {s : State} {c : Bool} {f : State → State} (hf : ∀ t, P t → P (f t)) (h : P s) :
    P (s.when c f) := by
  have _ := hP
  unfold State.when
  split
  · exact hf s h
  · exact h

theorem memPut (hP : Closed W P) {s : State} (a : Nat) (bytes : List Byte) (h1 : W .dram) (h : P s) :
    P (s.memPut a bytes) :=
  hP.modMem _ (fun _ => MemState.wf_write a bytes) (fun _ => MemState.chans_write a bytes) h1 h

theorem forgetPages (hP : Closed W P) {s : State} (p : Nat → Bool) (h1 : W .dram) (h : P s) : P (s.forgetPages p) :=
  hP.modMem _ (fun _ => MemState.wf_forget p) (fun _ => rfl) h1 h

theorem putPages (hP : Closed W P) {s : State} (pages : List Nat) (off : Nat) (bytes : List Byte) (h1 : W .dram)
    (h : P s) : P (s.putPages pages off bytes) :=
  hP.modMem _ (fun _ => MemState.wf_put pages off bytes) (fun _ => rfl) h1 h

theorem addReg (hP : Closed W P) {s : State} (a : Nat) (n : Nat) (w1 : W (.reg a)) (h : P s) :
    P (State.addReg s a n) := by
  unfold State.addReg
  repeat' first
    | with_reducible assumption
    | with_reducible apply hP.setReg
    | intro _
    | split
    | dsimp only
    | dsimp only [id]

theorem incReg (hP : Closed W P) {s : State} (a : Nat) (w1 : W (.reg a)) (h : P s) :
    P (State.incReg s a) := by
  unfold State.incReg
  repeat' first
    | with_reducible assumption
    | with_reducible apply Closed.addReg hP
    | intro _
    | split
    | dsimp only
    | dsimp only [id]

theorem setReg64 (hP : Closed W P) {s : State} (a : Nat) (v : Nat) (w1 : W (.reg a)) (w2 : W (.reg (a + 4)))
    (h : P s) :
    P (State.setReg64 s a v) := by
  unfold State.setReg64
  repeat' first
    | with_reducible assumption
    | with_reducible apply hP.setReg
    | intro _
    | split
    | dsimp only
    | dsimp only [id]

theorem playedMember (hP : Closed W P) {s : State} (cu : Nat) (st : StepDyn) (w1 : ∀ x1', W (.reg (DE x1' 4)))
    (w2 : ∀ x1', W (.reg (DE x1' 4 + 4))) (w3 : ∀ x1', W (.reg (DE x1' 12))) (h : P s) :
    P (State.playedMember s cu st) := by
  unfold State.playedMember
  repeat' first
    | with_reducible assumption
    | with_reducible exact w1 _
    | with_reducible exact w2 _
    | with_reducible exact w3 _
    | with_reducible apply Closed.incReg hP
    | with_reducible apply Closed.setReg64 hP
    | intro _
    | split
    | dsimp only
    | dsimp only [id]

theorem startClock (hP : Closed W P) {s : State} (mhz : Nat) (ppb : Word) (w1 : W .time) (w2 : W (.reg CLK_STATUS))
    (w3 : W (.reg CLK_REF_PPB)) (h : P s) :
    P (State.startClock s mhz ppb) := by
  unfold State.startClock
  repeat' first
    | with_reducible assumption
    | with_reducible apply hP.setReg
    | with_reducible apply hP.modTime
    | intro _
    | split
    | dsimp only
    | dsimp only [id]

theorem modSeq (hP : Closed W P) {s : State} (i : Nat) (f : SeqDyn → SeqDyn) (w1 : W (.seq i)) (h : P s) :
    P (State.modSeq s i f) := by
  unfold State.modSeq
  repeat' first
    | with_reducible assumption
    | with_reducible apply hP.setSeq
    | intro _
    | split
    | dsimp only
    | dsimp only [id]

theorem setTimer (hP : Closed W P) {s : State} (q : Nat) (i : Nat) (value : Nat) (run : Bool)
    (w1 : W (.reg (SQ_TMR_LO q i))) (w2 : W (.reg (SQ_TMR_HI q i))) (h : P s) :
    P (State.setTimer s q i value run) := by
  unfold State.setTimer
  repeat' first
    | with_reducible assumption
    | with_reducible apply hP.setReg
    | intro _
    | split
    | dsimp only
    | dsimp only [id]

theorem expireTimers (hP : Closed W P) {s : State} (q : Nat) (n : Nat) (w1 : W (.seq q))
    (w2 : ∀ x1', W (.reg (SQ_TMR_LO q x1'))) (w3 : ∀ x1', W (.reg (SQ_TMR_HI q x1'))) (h : P s) :
    P (State.expireTimers s q n) := by
  unfold State.expireTimers
  repeat' first
    | with_reducible assumption
    | with_reducible exact w2 _
    | with_reducible exact w3 _
    | with_reducible apply Closed.each hP
    | with_reducible apply Closed.setTimer hP
    | with_reducible apply Closed.modSeq hP
    | intro _
    | split
    | dsimp only
    | dsimp only [id]

theorem setRegF (hP : Closed W P) {s : State} (a : Nat) (lo : Nat) (len : Nat) (v : Nat) (w1 : W (.reg a)) (h : P s) :
    P (State.setRegF s a lo len v) := by
  unfold State.setRegF
  repeat' first
    | with_reducible assumption
    | with_reducible apply hP.setReg
    | intro _
    | split
    | dsimp only
    | dsimp only [id]

theorem addRegF (hP : Closed W P) {s : State} (a : Nat) (lo : Nat) (len : Nat) (n : Nat) (w1 : W (.reg a)) (h : P s) :
    P (State.addRegF s a lo len n) := by
  unfold State.addRegF
  repeat' first
    | with_reducible assumption
    | with_reducible apply Closed.setRegF hP
    | intro _
    | split
    | dsimp only
    | dsimp only [id]

theorem setRegBit (hP : Closed W P) {s : State} (a : Nat) (i : Nat) (b : Bool) (w1 : W (.reg a)) (h : P s) :
    P (State.setRegBit s a i b) := by
  unfold State.setRegBit
  repeat' first
    | with_reducible assumption
    | with_reducible apply Closed.setRegF hP
    | intro _
    | split
    | dsimp only
    | dsimp only [id]

theorem modStream (hP : Closed W P) {s : State} (i : Nat) (f : StreamDyn → StreamDyn) (w1 : W (.stream i)) (h : P s) :
    P (State.modStream s i f) := by
  unfold State.modStream
  repeat' first
    | with_reducible assumption
    | with_reducible apply hP.setStream
    | intro _
    | split
    | dsimp only
    | dsimp only [id]

theorem sendMark (hP : Closed W P) {s : State} (idx : Nat) (m : Mark) (w1 : ∀ x1', W (.stream x1')) (h : P s) :
    P (State.sendMark s idx m) := by
  unfold State.sendMark
  repeat' first
    | with_reducible assumption
    | with_reducible exact w1 _
    | with_reducible apply Closed.each hP
    | with_reducible apply Closed.modStream hP
    | intro _
    | split
    | dsimp only
    | dsimp only [id]

theorem emitMark (hP : Closed W P) {s : State} (q : Nat) (n : Nat) (m : Mark) (w1 : W (.seq q))
    (w2 : ∀ x1', W (.stream x1')) (w3 : W (.reg (SQ_DEAD_LO q))) (w4 : W (.reg (SQ_DEAD_LO q + 4)))
    (w5 : W (.reg (SQ_MISSED q))) (w6 : W (.reg (SQ_FOLDED q))) (w7 : W (.reg (SQ_MARKS q))) (h : P s) :
    P (State.emitMark s q n m) := by
  unfold State.emitMark
  repeat' first
    | with_reducible assumption
    | with_reducible exact w2 _
    | with_reducible apply Closed.setReg64 hP
    | with_reducible apply Closed.incReg hP
    | with_reducible apply Closed.sendMark hP
    | with_reducible apply hP.setReg
    | with_reducible apply hP.setSeq
    | intro _
    | split
    | dsimp only
    | dsimp only [id]

theorem modIval (hP : Closed W P) {s : State} (i : Nat) (f : IvalDyn → IvalDyn) (w1 : W (.ival i)) (h : P s) :
    P (State.modIval s i f) := by
  unfold State.modIval
  repeat' first
    | with_reducible assumption
    | with_reducible apply hP.setIval
    | intro _
    | split
    | dsimp only
    | dsimp only [id]

theorem ivPush (hP : Closed W P) {s : State} (iu : Nat) (e : IvTimed) (w1 : W (.ival iu)) (h : P s) :
    P (State.ivPush s iu e) := by
  unfold State.ivPush
  repeat' first
    | with_reducible assumption
    | with_reducible apply Closed.modIval hP
    | intro _
    | split
    | dsimp only
    | dsimp only [id]

theorem iuEvent (hP : Closed W P) {s : State} (iu : Nat) (ev : IvEv) (b : Bool) (t : SeqInput) (w1 : W (.ival iu))
    (h : P s) :
    P (State.iuEvent s iu ev b t) := by
  unfold State.iuEvent
  repeat' first
    | with_reducible assumption
    | with_reducible apply Closed.ivPush hP
    | intro _
    | split
    | dsimp only
    | dsimp only [id]

theorem modTout (hP : Closed W P) {s : State} (i : Nat) (f : ToutDyn → ToutDyn) (w1 : W (.tout i)) (h : P s) :
    P (State.modTout s i f) := by
  unfold State.modTout
  repeat' first
    | with_reducible assumption
    | with_reducible apply hP.setTout
    | intro _
    | split
    | dsimp only
    | dsimp only [id]

theorem requestPulse (hP : Closed W P) {s : State} (q : Nat) (n : Nat) (pin : Nat) (w1 : W (.tout pin)) (h : P s) :
    P (State.requestPulse s q n pin) := by
  unfold State.requestPulse
  repeat' first
    | with_reducible assumption
    | with_reducible apply Closed.modTout hP
    | intro _
    | split
    | dsimp only
    | dsimp only [id]

theorem windowOpen (hP : Closed W P) {s : State} (i : Nat) (sq : Nat) (w1 : W (.stream i)) (h : P s) :
    P (State.windowOpen s i sq) := by
  unfold State.windowOpen
  repeat' first
    | with_reducible assumption
    | with_reducible apply Closed.modStream hP
    | intro _
    | split
    | dsimp only
    | dsimp only [id]

theorem windowClose (hP : Closed W P) {s : State} (i : Nat) (sq : Nat) (w1 : W (.stream i)) (h : P s) :
    P (State.windowClose s i sq) := by
  unfold State.windowClose
  repeat' first
    | with_reducible assumption
    | with_reducible apply Closed.modStream hP
    | intro _
    | split
    | dsimp only
    | dsimp only [id]

theorem modCmp (hP : Closed W P) {s : State} (i : Nat) (f : CmpDyn → CmpDyn) (w1 : W (.cmp i)) (h : P s) :
    P (State.modCmp s i f) := by
  unfold State.modCmp
  repeat' first
    | with_reducible assumption
    | with_reducible apply hP.setCmp
    | intro _
    | split
    | dsimp only
    | dsimp only [id]

theorem queueAnchor (hP : Closed W P) {s : State} (j : Nat) (src : AnchorSrc) (w1 : ∀ x1', W (.cmp x1'))
    (w2 : W .weaver) (h : P s) :
    P (State.queueAnchor s j src) := by
  unfold State.queueAnchor
  repeat' first
    | with_reducible assumption
    | with_reducible exact w1 _
    | with_reducible apply Closed.modCmp hP
    | with_reducible apply hP.modWeaver
    | intro _
    | split
    | dsimp only
    | dsimp only [id]

theorem cuState (hP : Closed W P) {s : State} (cu : Nat) (v : Nat) (w1 : W (.reg (CU cu 12))) (h : P s) :
    P (State.cuState s cu v) := by
  unfold State.cuState
  repeat' first
    | with_reducible assumption
    | with_reducible apply Closed.setRegF hP
    | intro _
    | split
    | dsimp only
    | dsimp only [id]

theorem takeBack (hP : Closed W P) {s : State} (cu : Nat) (i : Nat) (w1 : W (.cmp cu)) (w2 : W (.reg (CU cu 44)))
    (w3 : W (.reg (CU cu 12))) (h : P s) :
    P (State.takeBack s cu i) := by
  unfold State.takeBack
  repeat' first
    | with_reducible assumption
    | with_reducible apply Closed.modCmp hP
    | with_reducible apply Closed.incReg hP
    | with_reducible apply Closed.cuState hP
    | intro _
    | split
    | dsimp only
    | dsimp only [id]

theorem followWater (hP : Closed W P) {s : State} (n : Nat) (w1 : W .station) (w2 : W (.reg (HUB_Q n 20))) (h : P s) :
    P (State.followWater s n) := by
  unfold State.followWater
  repeat' first
    | with_reducible assumption
    | with_reducible apply Closed.setRegBit hP
    | with_reducible apply hP.modStation
    | intro _
    | split
    | dsimp only
    | dsimp only [id]

theorem settleQueue (hP : Closed W P) {s : State} (n : Nat) (q : QueueDyn) (lost : Nat) (bad : Nat)
    (w1 : W (.queue n)) (w2 : W .station) (w3 : W (.reg (HUB_Q n 16))) (w4 : W (.reg (HUB_Q n 24)))
    (w5 : W (.reg (HUB_Q n 20))) (h : P s) :
    P (State.settleQueue s n q lost bad) := by
  unfold State.settleQueue
  repeat' first
    | with_reducible assumption
    | with_reducible apply Closed.addReg hP
    | with_reducible apply Closed.followWater hP
    | with_reducible apply hP.setQueue
    | with_reducible apply hP.modStation
    | intro _
    | split
    | dsimp only
    | dsimp only [id]

theorem pushPacket (hP : Closed W P) {s : State} (n : Nat) (words : List DWord) (t : Time) (w1 : W (.queue n))
    (w2 : W .station) (w3 : W (.reg (HUB_Q n 16))) (w4 : W (.reg (HUB_Q n 24))) (w5 : W (.reg (HUB_Q n 20)))
    (h : P s) :
    P ((State.pushPacket s n words t).1) := by
  unfold State.pushPacket
  repeat' first
    | with_reducible assumption
    | with_reducible apply Closed.settleQueue hP
    | intro _
    | split
    | dsimp only
    | dsimp only [id]

theorem modSched (hP : Closed W P) {s : State} (c : Nat) (f : ChanSched → ChanSched) (w1 : W (.sched c)) (h : P s) :
    P (State.modSched s c f) := by
  unfold State.modSched
  repeat' first
    | with_reducible assumption
    | with_reducible apply hP.setSched
    | intro _
    | split
    | dsimp only
    | dsimp only [id]

theorem markRing (hP : Closed W P) {s : State} (ch : Nat) (w1 : W (.sched ch)) (h : P s) :
    P (State.markRing s ch) := by
  unfold State.markRing
  repeat' first
    | with_reducible assumption
    | with_reducible apply Closed.modSched hP
    | intro _
    | split
    | dsimp only
    | dsimp only [id]

theorem askWrite (hP : Closed W P) {s : State} (ch : Nat) (port : Nat) (burst : Nat) (n : Nat) (w1 : W (.sched ch))
    (h : P s) :
    P (State.askWrite s ch port burst n) := by
  unfold State.askWrite
  repeat' first
    | with_reducible assumption
    | with_reducible apply Closed.modSched hP
    | intro _
    | split
    | dsimp only
    | dsimp only [id]

theorem closeSegment (hP : Closed W P) {s : State} (i : Nat) (flush : Bool) (memberEnd : Bool)
    (w1 : ∀ x1', W (.sched x1')) (w2 : W (.stream i)) (h : P s) :
    P (State.closeSegment s i flush memberEnd) := by
  unfold State.closeSegment
  repeat' first
    | with_reducible assumption
    | with_reducible exact w1 _
    | with_reducible apply Closed.when hP
    | with_reducible apply Closed.markRing hP
    | with_reducible apply Closed.askWrite hP
    | with_reducible apply hP.setStream
    | intro _
    | split
    | dsimp only
    | dsimp only [id]

theorem memberClose (hP : Closed W P) {s : State} (i : Nat) (w1 : ∀ x1', W (.sched x1')) (w2 : W (.stream i))
    (h : P s) :
    P (State.memberClose s i) := by
  unfold State.memberClose
  repeat' first
    | with_reducible assumption
    | with_reducible exact w1 _
    | with_reducible apply Closed.closeSegment hP
    | intro _
    | split
    | dsimp only
    | dsimp only [id]

theorem writeRec (hP : Closed W P) {s : State} (i : Nat) (r : Rec) (w1 : W (.stream i)) (w2 : ∀ x1', W (.sched x1'))
    (h : P s) :
    P (State.writeRec s i r) := by
  unfold State.writeRec
  repeat' first
    | with_reducible assumption
    | with_reducible exact w2 _
    | with_reducible apply Closed.modStream hP
    | with_reducible apply Closed.closeSegment hP
    | with_reducible apply Closed.memberClose hP
    | intro _
    | split
    | dsimp only
    | dsimp only [id]

theorem writeAll (hP : Closed W P) {s : State} (is : List Nat) (r : Rec) (w1 : ∀ x1', W (.stream x1'))
    (w2 : ∀ x1', W (.sched x1')) (h : P s) :
    P (State.writeAll s is r) := by
  unfold State.writeAll
  repeat' first
    | with_reducible assumption
    | with_reducible exact w1 _
    | with_reducible exact w2 _
    | with_reducible apply Closed.each hP
    | with_reducible apply Closed.writeRec hP
    | intro _
    | split
    | dsimp only
    | dsimp only [id]

theorem issueVerdictOf (hP : Closed W P) {s : State} (cu : Nat) (job : Nat) (streams : List Nat) (v : Verdict)
    (at_ : Time) (w1 : W (.queue 1)) (w2 : W .station) (w3 : ∀ x1', W (.stream x1')) (w4 : ∀ x1', W (.sched x1'))
    (w5 : W (.reg (HUB_Q 1 16))) (w6 : W (.reg (HUB_Q 1 24))) (w7 : W (.reg (HUB_Q 1 20)))
    (w8 : W (.reg (CU cu 12))) (w9 : W (.reg (CU cu 28))) (w10 : W (.reg (CU cu 32))) (h : P s) :
    P (State.issueVerdictOf s cu job streams v at_) := by
  unfold State.issueVerdictOf
  repeat' first
    | with_reducible assumption
    | with_reducible exact w3 _
    | with_reducible exact w4 _
    | with_reducible apply Closed.pushPacket hP
    | with_reducible apply Closed.writeAll hP
    | with_reducible apply Closed.incReg hP
    | with_reducible apply Closed.setRegF hP
    | with_reducible apply hP.modStation
    | intro _
    | split
    | dsimp only
    | dsimp only [id]

theorem issueVerdict (hP : Closed W P) {s : State} (cu : Nat) (v : Verdict) (at_ : Time) (w1 : W (.queue 1))
    (w2 : W .station) (w3 : ∀ x1', W (.stream x1')) (w4 : ∀ x1', W (.sched x1')) (w5 : W (.reg (HUB_Q 1 16)))
    (w6 : W (.reg (HUB_Q 1 24))) (w7 : W (.reg (HUB_Q 1 20))) (w8 : W (.reg (CU cu 12))) (w9 : W (.reg (CU cu 28)))
    (w10 : W (.reg (CU cu 32))) (h : P s) :
    P (State.issueVerdict s cu v at_) := by
  unfold State.issueVerdict
  repeat' first
    | with_reducible assumption
    | with_reducible exact w3 _
    | with_reducible exact w4 _
    | with_reducible apply Closed.issueVerdictOf hP
    | intro _
    | split
    | dsimp only
    | dsimp only [id]

theorem loneVerdict (hP : Closed W P) {s : State} (cu : Nat) (stepId : Nat) (cause : Nat) (at_ : Time)
    (w1 : W (.queue 1)) (w2 : W .station) (w3 : ∀ x1', W (.stream x1')) (w4 : ∀ x1', W (.sched x1'))
    (w5 : W (.reg (HUB_Q 1 16))) (w6 : W (.reg (HUB_Q 1 24))) (w7 : W (.reg (HUB_Q 1 20)))
    (w8 : W (.reg (CU cu 12))) (w9 : W (.reg (CU cu 28))) (w10 : W (.reg (CU cu 32))) (h : P s) :
    P (State.loneVerdict s cu stepId cause at_) := by
  unfold State.loneVerdict
  repeat' first
    | with_reducible assumption
    | with_reducible exact w3 _
    | with_reducible exact w4 _
    | with_reducible apply Closed.issueVerdict hP
    | intro _
    | split
    | dsimp only
    | dsimp only [id]

theorem pruneEvents (hP : Closed W P) {s : State} (cu : Nat) (w1 : W (.cmp cu)) (h : P s) :
    P (State.pruneEvents s cu) := by
  unfold State.pruneEvents
  repeat' first
    | with_reducible assumption
    | with_reducible apply hP.setCmp
    | intro _
    | split
    | dsimp only
    | dsimp only [id]

theorem askPages (hP : Closed W P) {s : State} {ask : State → Nat → Nat → State} (pages : List Nat) (off : Nat)
    (len : Nat) (hf : ∀ t a n, P t → P (ask t a n)) (h : P s) : P (State.askPages s ask pages off len) := by
  unfold State.askPages
  exact Closed.each hP (fun _ _ ht => hf _ _ _ ht) h

theorem askRead (hP : Closed W P) {s : State} (ch : Nat) (port : Nat) (burst : Nat) (n : Nat) (w1 : W (.sched ch))
    (h : P s) :
    P (State.askRead s ch port burst n) := by
  unfold State.askRead
  repeat' first
    | with_reducible assumption
    | with_reducible apply Closed.modSched hP
    | intro _
    | split
    | dsimp only
    | dsimp only [id]

theorem askReadAt (hP : Closed W P) {s : State} (port : Nat) (ma : Nat) (len : Nat) (w1 : ∀ x1', W (.sched x1'))
    (h : P s) :
    P (State.askReadAt s port ma len) := by
  unfold State.askReadAt
  repeat' first
    | with_reducible assumption
    | with_reducible exact w1 _
    | with_reducible apply Closed.askRead hP
    | intro _
    | split
    | dsimp only
    | dsimp only [id]

theorem askMember (hP : Closed W P) {s : State} (r : Nat) (m : Nat) (w1 : ∀ x1', W (.sched x1')) (h : P s) :
    P (State.askMember s r m) := by
  unfold State.askMember
  repeat' first
    | with_reducible assumption
    | with_reducible exact w1 _
    | with_reducible apply Closed.askPages hP
    | with_reducible apply Closed.askReadAt hP
    | intro _
    | split
    | dsimp only
    | dsimp only [id]

theorem modStep (hP : Closed W P) {s : State} (cu : Nat) (f : StepDyn → StepDyn) (w1 : W (.cmp cu)) (h : P s) :
    P (State.modStep s cu f) := by
  unfold State.modStep
  repeat' first
    | with_reducible assumption
    | with_reducible apply Closed.modCmp hP
    | intro _
    | split
    | dsimp only
    | dsimp only [id]

theorem unjudge (hP : Closed W P) {s : State} (cu : Nat) (i : CmpItem) (w1 : W (.cmp cu)) (w2 : W (.reg (CU cu 36)))
    (h : P s) :
    P (State.unjudge s cu i) := by
  unfold State.unjudge
  repeat' first
    | with_reducible assumption
    | with_reducible apply Closed.modStep hP
    | with_reducible apply Closed.incReg hP
    | intro _
    | split
    | dsimp only
    | dsimp only [id]

theorem dropItem (hP : Closed W P) {s : State} (cu : Nat) (i : CmpItem) (w1 : W (.cmp cu)) (h : P s) :
    P (State.dropItem s cu i) := by
  unfold State.dropItem
  repeat' first
    | with_reducible assumption
    | with_reducible apply Closed.modStep hP
    | intro _
    | split
    | dsimp only
    | dsimp only [id]

theorem beginStep (hP : Closed W P) {s : State} (cu : Nat) (n : NextStep) (w1 : ∀ x1', W (.sched x1'))
    (w2 : W (.cmp cu)) (w3 : W (.reg (CU cu 16))) (w4 : W (.reg (CU cu 16 + 4))) (w5 : W (.reg (CU cu 24)))
    (w6 : W (.reg (CU cu 12))) (w7 : W (.reg (CU cu 36))) (h : P s) :
    P (State.beginStep s cu n) := by
  unfold State.beginStep
  repeat' first
    | with_reducible assumption
    | with_reducible exact w1 _
    | with_reducible apply Closed.each hP
    | with_reducible apply Closed.askMember hP
    | with_reducible apply Closed.modCmp hP
    | with_reducible apply Closed.setReg64 hP
    | with_reducible apply Closed.cuState hP
    | with_reducible apply Closed.setRegF hP
    | with_reducible apply Closed.unjudge hP
    | with_reducible apply Closed.dropItem hP
    | with_reducible apply hP.setReg
    | intro _
    | split
    | dsimp only
    | dsimp only [id]

theorem nextBegin (hP : Closed W P) {s : State} (cu : Nat) (w1 : W (.cmp cu)) (w2 : ∀ x1', W (.sched x1'))
    (w3 : W (.reg (CU cu 16))) (w4 : W (.reg (CU cu 16 + 4))) (w5 : W (.reg (CU cu 24))) (w6 : W (.reg (CU cu 12)))
    (w7 : W (.reg (CU cu 36))) (h : P s) :
    P (State.nextBegin s cu) := by
  unfold State.nextBegin
  repeat' first
    | with_reducible assumption
    | with_reducible exact w2 _
    | with_reducible apply Closed.beginStep hP
    | with_reducible apply hP.setCmp
    | intro _
    | split
    | dsimp only
    | dsimp only [id]

theorem anchorStep (hP : Closed W P) {s : State} (cu : Nat) (i : Nat) (a : Time) (byStation : Bool)
    (w1 : W (.cmp cu)) (w2 : ∀ x1', W (.sched x1')) (w3 : W (.reg (CU cu 16))) (w4 : W (.reg (CU cu 16 + 4)))
    (w5 : W (.reg (CU cu 24))) (w6 : W (.reg (CU cu 12))) (w7 : W (.reg (CU cu 36))) (h : P s) :
    P (State.anchorStep s cu i a byStation) := by
  unfold State.anchorStep
  repeat' first
    | with_reducible assumption
    | with_reducible exact w2 _
    | with_reducible apply Closed.pruneEvents hP
    | with_reducible apply Closed.nextBegin hP
    | with_reducible apply hP.setCmp
    | intro _
    | split
    | dsimp only
    | dsimp only [id]

theorem anchorOf (hP : Closed W P) {s : State} (cu : Nat) (a : Time) (x3 : Option Nat) (w1 : W (.queue 1))
    (w2 : W .station) (w3 : ∀ x1', W (.stream x1')) (w4 : ∀ x1', W (.sched x1')) (w5 : W (.cmp cu))
    (w6 : W (.reg (HUB_Q 1 16))) (w7 : W (.reg (HUB_Q 1 24))) (w8 : W (.reg (HUB_Q 1 20)))
    (w9 : W (.reg (CU cu 12))) (w10 : W (.reg (CU cu 28))) (w11 : W (.reg (CU cu 32))) (w12 : W (.reg (CU cu 16)))
    (w13 : W (.reg (CU cu 16 + 4))) (w14 : W (.reg (CU cu 24))) (w15 : W (.reg (CU cu 36))) (h : P s) :
    P (State.anchorOf s cu a x3) := by
  unfold State.anchorOf
  repeat' first
    | with_reducible assumption
    | with_reducible exact w3 _
    | with_reducible exact w4 _
    | with_reducible apply Closed.loneVerdict hP
    | with_reducible apply Closed.anchorStep hP
    | intro _
    | split
    | dsimp only
    | dsimp only [id]

theorem anchor (hP : Closed W P) {s : State} (cu : Nat) (src : AnchorSrc) (w1 : W (.cmp cu)) (w2 : W (.queue 1))
    (w3 : W .station) (w4 : ∀ x1', W (.stream x1')) (w5 : ∀ x1', W (.sched x1')) (w6 : W (.reg (CU cu 44)))
    (w7 : W (.reg (CU cu 12))) (w8 : W (.reg (HUB_Q 1 16))) (w9 : W (.reg (HUB_Q 1 24)))
    (w10 : W (.reg (HUB_Q 1 20))) (w11 : W (.reg (CU cu 28))) (w12 : W (.reg (CU cu 32)))
    (w13 : W (.reg (CU cu 16))) (w14 : W (.reg (CU cu 16 + 4))) (w15 : W (.reg (CU cu 24)))
    (w16 : W (.reg (CU cu 36))) (h : P s) :
    P (State.anchor s cu src) := by
  unfold State.anchor
  repeat' first
    | with_reducible assumption
    | with_reducible exact w4 _
    | with_reducible exact w5 _
    | with_reducible apply Closed.incReg hP
    | with_reducible apply Closed.takeBack hP
    | with_reducible apply Closed.anchorOf hP
    | with_reducible apply Closed.modCmp hP
    | intro _
    | split
    | dsimp only
    | dsimp only [id]

theorem takeAnchors (hP : Closed W P) {s : State} (cu : Nat) (w1 : W (.cmp cu)) (w2 : W (.queue 1))
    (w3 : W .station) (w4 : ∀ x1', W (.stream x1')) (w5 : ∀ x1', W (.sched x1')) (w6 : W (.reg (CU cu 44)))
    (w7 : W (.reg (CU cu 12))) (w8 : W (.reg (HUB_Q 1 16))) (w9 : W (.reg (HUB_Q 1 24)))
    (w10 : W (.reg (HUB_Q 1 20))) (w11 : W (.reg (CU cu 28))) (w12 : W (.reg (CU cu 32)))
    (w13 : W (.reg (CU cu 16))) (w14 : W (.reg (CU cu 16 + 4))) (w15 : W (.reg (CU cu 24)))
    (w16 : W (.reg (CU cu 36))) (h : P s) :
    P (State.takeAnchors s cu) := by
  unfold State.takeAnchors
  repeat' first
    | with_reducible assumption
    | with_reducible exact w4 _
    | with_reducible exact w5 _
    | with_reducible apply Closed.each hP
    | with_reducible apply Closed.modCmp hP
    | with_reducible apply Closed.anchor hP
    | intro _
    | split
    | dsimp only
    | dsimp only [id]

theorem compareEnd (hP : Closed W P) {s : State} (cu : Nat) (t : Time) (w1 : W (.cmp cu)) (w2 : W (.queue 1))
    (w3 : W .station) (w4 : ∀ x1', W (.stream x1')) (w5 : ∀ x1', W (.sched x1')) (w6 : W (.reg (CU cu 44)))
    (w7 : W (.reg (CU cu 12))) (w8 : W (.reg (HUB_Q 1 16))) (w9 : W (.reg (HUB_Q 1 24)))
    (w10 : W (.reg (HUB_Q 1 20))) (w11 : W (.reg (CU cu 28))) (w12 : W (.reg (CU cu 32)))
    (w13 : W (.reg (CU cu 16))) (w14 : W (.reg (CU cu 16 + 4))) (w15 : W (.reg (CU cu 24)))
    (w16 : W (.reg (CU cu 36))) (h : P s) :
    P (State.compareEnd s cu t) := by
  unfold State.compareEnd
  repeat' first
    | with_reducible assumption
    | with_reducible exact w4 _
    | with_reducible exact w5 _
    | with_reducible apply Closed.takeAnchors hP
    | with_reducible apply Closed.modStep hP
    | with_reducible apply Closed.modCmp hP
    | intro _
    | split
    | dsimp only
    | dsimp only [id]

theorem modHist (hP : Closed W P) {s : State} (i : Nat) (f : HistUnit → HistUnit) (w1 : W (.hist i)) (h : P s) :
    P (State.modHist s i f) := by
  unfold State.modHist
  repeat' first
    | with_reducible assumption
    | with_reducible apply hP.setHist
    | intro _
    | split
    | dsimp only
    | dsimp only [id]

theorem setRegion (hP : Closed W P) {s : State} (hu : Nat) (r : Nat) (v : RegionDyn) (w1 : W (.hist hu)) (h : P s) :
    P (State.setRegion s hu r v) := by
  unfold State.setRegion
  repeat' first
    | with_reducible assumption
    | with_reducible apply Closed.modHist hP
    | intro _
    | split
    | dsimp only
    | dsimp only [id]

theorem modRegion (hP : Closed W P) {s : State} (hu : Nat) (r : Nat) (f : RegionDyn → RegionDyn) (w1 : W (.hist hu))
    (h : P s) :
    P (State.modRegion s hu r f) := by
  unfold State.modRegion
  repeat' first
    | with_reducible assumption
    | with_reducible apply Closed.setRegion hP
    | intro _
    | split
    | dsimp only
    | dsimp only [id]

theorem openAccum (hP : Closed W P) {s : State} (hu : Nat) (r : Nat) (t : Time) (flags : Word) (w1 : W (.hist hu))
    (w2 : ∀ x1', W (.reg (HU_RG hu r x1'))) (h : P s) :
    P (State.openAccum s hu r t flags) := by
  unfold State.openAccum
  repeat' first
    | with_reducible assumption
    | with_reducible exact w2 _
    | with_reducible apply Closed.each hP
    | with_reducible apply Closed.modRegion hP
    | with_reducible apply hP.setReg
    | intro _
    | split
    | dsimp only
    | dsimp only [id]

theorem histClear (hP : Closed W P) {s : State} (hu : Nat) (r : Nat) (t : Time) (w1 : W (.hist hu))
    (w2 : ∀ x1', W (.reg (HU_RG hu r x1'))) (h : P s) :
    P (State.histClear s hu r t) := by
  unfold State.histClear
  repeat' first
    | with_reducible assumption
    | with_reducible exact w2 _
    | with_reducible apply Closed.modHist hP
    | with_reducible apply Closed.modRegion hP
    | with_reducible apply Closed.openAccum hP
    | intro _
    | split
    | dsimp only
    | dsimp only [id]

theorem spillPlace (hP : Closed W P) {s : State} (w1 : W .drawn) (h : P s) :
    P ((State.spillPlace s).2) := by
  unfold State.spillPlace
  repeat' first
    | with_reducible assumption
    | with_reducible apply Closed.draw hP
    | intro _
    | split
    | dsimp only
    | dsimp only [id]

theorem startSpill (hP : Closed W P) {s : State} (hu : Nat) (r : Nat) (c : Closing) (w1 : W .drawn)
    (w2 : W (.hist hu)) (w3 : W (.reg (HU_RG hu r 0))) (h : P s) :
    P (State.startSpill s hu r c) := by
  unfold State.startSpill
  repeat' first
    | with_reducible assumption
    | with_reducible apply Closed.spillPlace hP
    | with_reducible apply Closed.modRegion hP
    | with_reducible apply Closed.setRegBit hP
    | with_reducible apply Closed.modHist hP
    | intro _
    | split
    | dsimp only
    | dsimp only [id]

theorem closeAccum (hP : Closed W P) {s : State} (hu : Nat) (r : Nat) (t : Time) (fault : Bool) (w1 : W (.hist hu))
    (w2 : W .drawn) (w3 : ∀ x1', W (.reg (HU_RG hu r x1'))) (h : P s) :
    P (State.closeAccum s hu r t fault) := by
  unfold State.closeAccum
  repeat' first
    | with_reducible assumption
    | with_reducible exact w3 _
    | with_reducible apply Closed.histClear hP
    | with_reducible apply Closed.openAccum hP
    | with_reducible apply Closed.modRegion hP
    | with_reducible apply Closed.startSpill hP
    | with_reducible apply Closed.modHist hP
    | intro _
    | split
    | dsimp only
    | dsimp only [id]

theorem histSwap (hP : Closed W P) {s : State} (hu : Nat) (r : Nat) (t : Time) (w1 : W (.hist hu)) (w2 : W .drawn)
    (w3 : ∀ x1', W (.reg (HU_RG hu r x1'))) (h : P s) :
    P ((State.histSwap s hu r t).1) := by
  unfold State.histSwap
  repeat' first
    | with_reducible assumption
    | with_reducible exact w3 _
    | with_reducible apply Closed.modRegion hP
    | with_reducible apply Closed.addRegF hP
    | with_reducible apply Closed.closeAccum hP
    | intro _
    | split
    | dsimp only
    | dsimp only [id]

theorem storeMeta (hP : Closed W P) {s : State} (i : MetaItem) (w1 : W .ledger) (h : P s) :
    P (State.storeMeta s i) := by
  unfold State.storeMeta
  repeat' first
    | with_reducible assumption
    | with_reducible apply hP.modLedger
    | intro _
    | split
    | dsimp only
    | dsimp only [id]

theorem countRefused (hP : Closed W P) {s : State} (w1 : W .ledger) (w2 : W (.reg LG_REFUSED)) (h : P s) :
    P (State.countRefused s) := by
  unfold State.countRefused
  repeat' first
    | with_reducible assumption
    | with_reducible apply Closed.storeMeta hP
    | with_reducible apply hP.setReg
    | intro _
    | split
    | dsimp only
    | dsimp only [id]

theorem snapshotRequest (hP : Closed W P) {s : State} (q : Nat) (n : Nat) (t : Time) (w1 : W .ledger)
    (w2 : W (.reg LG_REFUSED)) (h : P s) :
    P (State.snapshotRequest s q n t) := by
  unfold State.snapshotRequest
  repeat' first
    | with_reducible assumption
    | with_reducible apply Closed.countRefused hP
    | with_reducible apply hP.modLedger
    | intro _
    | split
    | dsimp only
    | dsimp only [id]

theorem seqAction (hP : Closed W P) {s : State} (q : Nat) (n : Nat) (j : Nat) (next : Nat) (b : Nat) (sat : Nat)
    (ins : Nat) (t : SeqInput) (code : Nat) (w1 : W (.seq q)) (w2 : ∀ x1', W (.stream x1'))
    (w3 : ∀ x1', W (.ival x1')) (w4 : ∀ x1', W (.tout x1')) (w5 : ∀ x1', W (.cmp x1')) (w6 : W .weaver)
    (w7 : W (.queue 1)) (w8 : W .station) (w9 : ∀ x1', W (.sched x1')) (w10 : ∀ x1', W (.hist x1')) (w11 : W .drawn)
    (w12 : W .ledger) (w13 : W (.reg (SQ_DEAD_LO q))) (w14 : W (.reg (SQ_DEAD_LO q + 4)))
    (w15 : W (.reg (SQ_MISSED q))) (w16 : W (.reg (SQ_FOLDED q))) (w17 : W (.reg (SQ_MARKS q)))
    (w18 : ∀ x1', W (.reg (SQ_CNT_LO q x1'))) (w19 : ∀ x1', W (.reg (SQ_CNT_LO q x1' + 4)))
    (w20 : ∀ x1', W (.reg (SQ_TMR_LO q x1'))) (w21 : ∀ x1', W (.reg (SQ_TMR_HI q x1')))
    (w22 : ∀ x1', W (.reg (CU x1' 44))) (w23 : ∀ x1', W (.reg (CU x1' 12))) (w24 : W (.reg (HUB_Q 1 16)))
    (w25 : W (.reg (HUB_Q 1 24))) (w26 : W (.reg (HUB_Q 1 20))) (w27 : ∀ x1', W (.reg (CU x1' 28)))
    (w28 : ∀ x1', W (.reg (CU x1' 32))) (w29 : ∀ x1', W (.reg (CU x1' 16))) (w30 : ∀ x1', W (.reg (CU x1' 16 + 4)))
    (w31 : ∀ x1', W (.reg (CU x1' 24))) (w32 : ∀ x1', W (.reg (CU x1' 36)))
    (w33 : ∀ x1' x2' x3', W (.reg (HU_RG x1' x2' x3'))) (w34 : W (.reg LG_REFUSED)) (h : P s) :
    P (State.seqAction s q n j next b sat ins t code) := by
  unfold State.seqAction
  repeat' first
    | with_reducible assumption
    | with_reducible exact w2 _
    | with_reducible exact w3 _
    | with_reducible exact w4 _
    | with_reducible exact w5 _
    | with_reducible exact w9 _
    | with_reducible exact w10 _
    | with_reducible exact w18 _
    | with_reducible exact w19 _
    | with_reducible exact w20 _
    | with_reducible exact w21 _
    | with_reducible exact w22 _
    | with_reducible exact w23 _
    | with_reducible exact w27 _
    | with_reducible exact w28 _
    | with_reducible exact w29 _
    | with_reducible exact w30 _
    | with_reducible exact w31 _
    | with_reducible exact w32 _
    | with_reducible exact w33 _ _ _
    | with_reducible apply Closed.emitMark hP
    | with_reducible apply Closed.addRegF hP
    | with_reducible apply Closed.setReg64 hP
    | with_reducible apply Closed.modSeq hP
    | with_reducible apply Closed.setTimer hP
    | with_reducible apply Closed.iuEvent hP
    | with_reducible apply Closed.requestPulse hP
    | with_reducible apply Closed.windowOpen hP
    | with_reducible apply Closed.windowClose hP
    | with_reducible apply Closed.queueAnchor hP
    | with_reducible apply Closed.compareEnd hP
    | with_reducible apply Closed.histSwap hP
    | with_reducible apply Closed.snapshotRequest hP
    | intro _
    | split
    | dsimp only
    | dsimp only [id]

theorem takeBranch (hP : Closed W P) {s : State} (q : Nat) (n : Nat) (j : Nat) (b : Nat) (sat : Nat) (ins : Nat)
    (t : SeqInput) (w1 : W (.seq q)) (w2 : ∀ x1', W (.stream x1')) (w3 : ∀ x1', W (.ival x1'))
    (w4 : ∀ x1', W (.tout x1')) (w5 : ∀ x1', W (.cmp x1')) (w6 : W .weaver) (w7 : W (.queue 1)) (w8 : W .station)
    (w9 : ∀ x1', W (.sched x1')) (w10 : ∀ x1', W (.hist x1')) (w11 : W .drawn) (w12 : W .ledger)
    (w13 : W (.reg (SQ_DEAD_LO q))) (w14 : W (.reg (SQ_DEAD_LO q + 4))) (w15 : W (.reg (SQ_MISSED q)))
    (w16 : W (.reg (SQ_FOLDED q))) (w17 : W (.reg (SQ_MARKS q))) (w18 : ∀ x1', W (.reg (SQ_CNT_LO q x1')))
    (w19 : ∀ x1', W (.reg (SQ_CNT_LO q x1' + 4))) (w20 : ∀ x1', W (.reg (SQ_TMR_LO q x1')))
    (w21 : ∀ x1', W (.reg (SQ_TMR_HI q x1'))) (w22 : ∀ x1', W (.reg (CU x1' 44)))
    (w23 : ∀ x1', W (.reg (CU x1' 12))) (w24 : W (.reg (HUB_Q 1 16))) (w25 : W (.reg (HUB_Q 1 24)))
    (w26 : W (.reg (HUB_Q 1 20))) (w27 : ∀ x1', W (.reg (CU x1' 28))) (w28 : ∀ x1', W (.reg (CU x1' 32)))
    (w29 : ∀ x1', W (.reg (CU x1' 16))) (w30 : ∀ x1', W (.reg (CU x1' 16 + 4))) (w31 : ∀ x1', W (.reg (CU x1' 24)))
    (w32 : ∀ x1', W (.reg (CU x1' 36))) (w33 : ∀ x1' x2' x3', W (.reg (HU_RG x1' x2' x3')))
    (w34 : W (.reg LG_REFUSED)) (w35 : W (.reg (SQ_STATUS q))) (h : P s) :
    P (State.takeBranch s q n j b sat ins t) := by
  unfold State.takeBranch
  repeat' first
    | with_reducible assumption
    | with_reducible exact w2 _
    | with_reducible exact w3 _
    | with_reducible exact w4 _
    | with_reducible exact w5 _
    | with_reducible exact w9 _
    | with_reducible exact w10 _
    | with_reducible exact w18 _
    | with_reducible exact w19 _
    | with_reducible exact w20 _
    | with_reducible exact w21 _
    | with_reducible exact w22 _
    | with_reducible exact w23 _
    | with_reducible exact w27 _
    | with_reducible exact w28 _
    | with_reducible exact w29 _
    | with_reducible exact w30 _
    | with_reducible exact w31 _
    | with_reducible exact w32 _
    | with_reducible exact w33 _ _ _
    | with_reducible apply Closed.each hP
    | with_reducible apply Closed.seqAction hP
    | with_reducible apply Closed.setRegF hP
    | with_reducible apply Closed.setRegBit hP
    | with_reducible apply Closed.modSeq hP
    | intro _
    | split
    | dsimp only
    | dsimp only [id]

theorem modBox (hP : Closed W P) {s : State} (m : Nat) (f : Mailbox → Mailbox) (w1 : W (.box m)) (h : P s) :
    P (State.modBox s m f) := by
  unfold State.modBox
  repeat' first
    | with_reducible assumption
    | with_reducible apply hP.setBox
    | intro _
    | split
    | dsimp only
    | dsimp only [id]

theorem respond (hP : Closed W P) {s : State} (m : Nat) (r : Response) (w1 : W (.box m)) (h : P s) :
    P (State.respond s m r) := by
  unfold State.respond
  repeat' first
    | with_reducible assumption
    | with_reducible apply Closed.modBox hP
    | intro _
    | split
    | dsimp only
    | dsimp only [id]

theorem forcedMark (hP : Closed W P) {s : State} (q : Nat) (n : Nat) (w1 : W (.seq q)) (w2 : ∀ x1', W (.stream x1'))
    (w3 : ∀ x1', W (.box x1')) (w4 : W (.reg (SQ_DEAD_LO q))) (w5 : W (.reg (SQ_DEAD_LO q + 4)))
    (w6 : W (.reg (SQ_MISSED q))) (w7 : W (.reg (SQ_FOLDED q))) (w8 : W (.reg (SQ_MARKS q))) (h : P s) :
    P (State.forcedMark s q n) := by
  unfold State.forcedMark
  repeat' first
    | with_reducible assumption
    | with_reducible exact w2 _
    | with_reducible exact w3 _
    | with_reducible apply Closed.modSeq hP
    | with_reducible apply Closed.emitMark hP
    | with_reducible apply Closed.respond hP
    | intro _
    | split
    | dsimp only
    | dsimp only [id]

theorem decideSlot (hP : Closed W P) {s : State} (q : Nat) (n : Nat) (w1 : W (.seq q)) (w2 : ∀ x1', W (.stream x1'))
    (w3 : ∀ x1', W (.ival x1')) (w4 : ∀ x1', W (.tout x1')) (w5 : ∀ x1', W (.cmp x1')) (w6 : W .weaver)
    (w7 : W (.queue 1)) (w8 : W .station) (w9 : ∀ x1', W (.sched x1')) (w10 : ∀ x1', W (.hist x1')) (w11 : W .drawn)
    (w12 : W .ledger) (w13 : ∀ x1', W (.box x1')) (w14 : ∀ x1', W (.reg (SQ_TMR_LO q x1')))
    (w15 : ∀ x1', W (.reg (SQ_TMR_HI q x1'))) (w16 : W (.reg (SQ_DEAD_LO q))) (w17 : W (.reg (SQ_DEAD_LO q + 4)))
    (w18 : W (.reg (SQ_MISSED q))) (w19 : W (.reg (SQ_STATUS q))) (w20 : W (.reg (SQ_FOLDED q)))
    (w21 : W (.reg (SQ_MARKS q))) (w22 : ∀ x1', W (.reg (SQ_CNT_LO q x1')))
    (w23 : ∀ x1', W (.reg (SQ_CNT_LO q x1' + 4))) (w24 : ∀ x1', W (.reg (CU x1' 44)))
    (w25 : ∀ x1', W (.reg (CU x1' 12))) (w26 : W (.reg (HUB_Q 1 16))) (w27 : W (.reg (HUB_Q 1 24)))
    (w28 : W (.reg (HUB_Q 1 20))) (w29 : ∀ x1', W (.reg (CU x1' 28))) (w30 : ∀ x1', W (.reg (CU x1' 32)))
    (w31 : ∀ x1', W (.reg (CU x1' 16))) (w32 : ∀ x1', W (.reg (CU x1' 16 + 4))) (w33 : ∀ x1', W (.reg (CU x1' 24)))
    (w34 : ∀ x1', W (.reg (CU x1' 36))) (w35 : ∀ x1' x2' x3', W (.reg (HU_RG x1' x2' x3')))
    (w36 : W (.reg LG_REFUSED)) (h : P s) :
    P (State.decideSlot s q n) := by
  unfold State.decideSlot
  repeat' first
    | with_reducible assumption
    | with_reducible exact w2 _
    | with_reducible exact w3 _
    | with_reducible exact w4 _
    | with_reducible exact w5 _
    | with_reducible exact w9 _
    | with_reducible exact w10 _
    | with_reducible exact w13 _
    | with_reducible exact w14 _
    | with_reducible exact w15 _
    | with_reducible exact w22 _
    | with_reducible exact w23 _
    | with_reducible exact w24 _
    | with_reducible exact w25 _
    | with_reducible exact w29 _
    | with_reducible exact w30 _
    | with_reducible exact w31 _
    | with_reducible exact w32 _
    | with_reducible exact w33 _
    | with_reducible exact w34 _
    | with_reducible exact w35 _ _ _
    | with_reducible apply Closed.expireTimers hP
    | with_reducible apply Closed.setReg64 hP
    | with_reducible apply Closed.addRegF hP
    | with_reducible apply Closed.setRegBit hP
    | with_reducible apply Closed.modSeq hP
    | with_reducible apply Closed.takeBranch hP
    | with_reducible apply Closed.forcedMark hP
    | intro _
    | split
    | dsimp only
    | dsimp only [id]

theorem decideNext (hP : Closed W P) {s : State} (q : Nat) (w1 : W (.seq q)) (w2 : ∀ x1', W (.stream x1'))
    (w3 : ∀ x1', W (.ival x1')) (w4 : ∀ x1', W (.tout x1')) (w5 : ∀ x1', W (.cmp x1')) (w6 : W .weaver)
    (w7 : W (.queue 1)) (w8 : W .station) (w9 : ∀ x1', W (.sched x1')) (w10 : ∀ x1', W (.hist x1')) (w11 : W .drawn)
    (w12 : W .ledger) (w13 : ∀ x1', W (.box x1')) (w14 : ∀ x1', W (.reg (SQ_TMR_LO q x1')))
    (w15 : ∀ x1', W (.reg (SQ_TMR_HI q x1'))) (w16 : W (.reg (SQ_DEAD_LO q))) (w17 : W (.reg (SQ_DEAD_LO q + 4)))
    (w18 : W (.reg (SQ_MISSED q))) (w19 : W (.reg (SQ_STATUS q))) (w20 : W (.reg (SQ_FOLDED q)))
    (w21 : W (.reg (SQ_MARKS q))) (w22 : ∀ x1', W (.reg (SQ_CNT_LO q x1')))
    (w23 : ∀ x1', W (.reg (SQ_CNT_LO q x1' + 4))) (w24 : ∀ x1', W (.reg (CU x1' 44)))
    (w25 : ∀ x1', W (.reg (CU x1' 12))) (w26 : W (.reg (HUB_Q 1 16))) (w27 : W (.reg (HUB_Q 1 24)))
    (w28 : W (.reg (HUB_Q 1 20))) (w29 : ∀ x1', W (.reg (CU x1' 28))) (w30 : ∀ x1', W (.reg (CU x1' 32)))
    (w31 : ∀ x1', W (.reg (CU x1' 16))) (w32 : ∀ x1', W (.reg (CU x1' 16 + 4))) (w33 : ∀ x1', W (.reg (CU x1' 24)))
    (w34 : ∀ x1', W (.reg (CU x1' 36))) (w35 : ∀ x1' x2' x3', W (.reg (HU_RG x1' x2' x3')))
    (w36 : W (.reg LG_REFUSED)) (h : P s) :
    P (State.decideNext s q) := by
  unfold State.decideNext
  repeat' first
    | with_reducible assumption
    | with_reducible exact w2 _
    | with_reducible exact w3 _
    | with_reducible exact w4 _
    | with_reducible exact w5 _
    | with_reducible exact w9 _
    | with_reducible exact w10 _
    | with_reducible exact w13 _
    | with_reducible exact w14 _
    | with_reducible exact w15 _
    | with_reducible exact w22 _
    | with_reducible exact w23 _
    | with_reducible exact w24 _
    | with_reducible exact w25 _
    | with_reducible exact w29 _
    | with_reducible exact w30 _
    | with_reducible exact w31 _
    | with_reducible exact w32 _
    | with_reducible exact w33 _
    | with_reducible exact w34 _
    | with_reducible exact w35 _ _ _
    | with_reducible apply Closed.modSeq hP
    | with_reducible apply Closed.decideSlot hP
    | intro _
    | split
    | dsimp only
    | dsimp only [id]

theorem enterJob (hP : Closed W P) {s : State} (n : Nat) (j : Nat) (ok : Bool) (w1 : ∀ x1', W (.sched x1'))
    (w2 : W (.de n)) (w3 : W (.reg (DE n 40))) (w4 : W (.reg (DE n 0))) (w5 : W (.reg (DE n 44))) (h : P s) :
    P (State.enterJob s n j ok) := by
  unfold State.enterJob
  repeat' first
    | with_reducible assumption
    | with_reducible exact w1 _
    | with_reducible apply Closed.askRead hP
    | with_reducible apply Closed.setRegF hP
    | with_reducible apply Closed.addReg hP
    | with_reducible apply Closed.incReg hP
    | with_reducible apply hP.setDe
    | intro _
    | split
    | dsimp only
    | dsimp only [id]

theorem unjudgeSpan (hP : Closed W P) {s : State} (cu : Nat) (cin : Nat) (a : Time) (b : Time) (w1 : W (.cmp cu))
    (w2 : W (.reg (CU cu 36))) (h : P s) :
    P (State.unjudgeSpan s cu cin a b) := by
  unfold State.unjudgeSpan
  repeat' first
    | with_reducible assumption
    | with_reducible apply Closed.each hP
    | with_reducible apply Closed.unjudge hP
    | with_reducible apply Closed.dropItem hP
    | intro _
    | split
    | dsimp only
    | dsimp only [id]

theorem cmpEvent (hP : Closed W P) {s : State} (cu : Nat) (cin : Nat) (t : Time) (v : Bool) (f : EvFlags)
    (w1 : W (.cmp cu)) (w2 : W (.reg (CU cu 40))) (w3 : W (.reg (CU cu 36))) (h : P s) :
    P (State.cmpEvent s cu cin t v f) := by
  unfold State.cmpEvent
  repeat' first
    | with_reducible assumption
    | with_reducible apply Closed.pruneEvents hP
    | with_reducible apply Closed.unjudgeSpan hP
    | with_reducible apply Closed.incReg hP
    | with_reducible apply hP.setCmp
    | intro _
    | split
    | dsimp only
    | dsimp only [id]

theorem fwSetF (hP : Closed W P) {s : State} (a : Nat) (lo : Nat) (len : Nat) (v : Nat) (w1 : W .fw)
    (w2 : W (.reg a)) (h : P s) :
    P (State.fwSetF s a lo len v) := by
  unfold State.fwSetF
  repeat' first
    | with_reducible assumption
    | with_reducible apply hP.fwWrite
    | intro _
    | split
    | dsimp only
    | dsimp only [id]

theorem modChan (hP : Closed W P) {s : State} (c : Nat) (f : ChanDyn → ChanDyn) (w1 : W (.chan c)) (h : P s) :
    P (State.modChan s c f) := by
  unfold State.modChan
  repeat' first
    | with_reducible assumption
    | with_reducible apply hP.setChan
    | intro _
    | split
    | dsimp only
    | dsimp only [id]

theorem trackDrift (hP : Closed W P) {s : State} (ch : Nat) (steps : Int) (temp : Half) (w1 : W .fw)
    (w2 : W (.chan ch)) (w3 : ∀ x1', W (.reg (MC_TRN_DELAY ch x1'))) (w4 : W (.reg (MC_TRAIN_TEMP ch)))
    (w5 : W (.reg (MC_STATUS ch))) (h : P s) :
    P (State.trackDrift s ch steps temp) := by
  unfold State.trackDrift
  repeat' first
    | with_reducible assumption
    | with_reducible exact w3 _
    | with_reducible apply Closed.each hP
    | with_reducible apply Closed.fwSetF hP
    | with_reducible apply Closed.modChan hP
    | with_reducible apply Closed.setRegF hP
    | with_reducible apply Closed.setRegBit hP
    | intro _
    | split
    | dsimp only
    | dsimp only [id]

theorem setMcState (hP : Closed W P) {s : State} (ch : Nat) (v : Nat) (w1 : W (.reg (MC_STATUS ch))) (h : P s) :
    P (State.setMcState s ch v) := by
  unfold State.setMcState
  repeat' first
    | with_reducible assumption
    | with_reducible apply Closed.setRegF hP
    | intro _
    | split
    | dsimp only
    | dsimp only [id]

theorem wakeChannel (hP : Closed W P) {s : State} (ch : Nat) (w1 : W .drawn) (w2 : W .fw) (w3 : W (.chan ch))
    (w4 : W (.reg (MC_STATUS ch))) (w5 : ∀ x1', W (.reg (MC_TRN_DELAY ch x1'))) (w6 : W (.reg (MC_TRAIN_TEMP ch)))
    (h : P s) :
    P (State.wakeChannel s ch) := by
  unfold State.wakeChannel
  repeat' first
    | with_reducible assumption
    | with_reducible exact w5 _
    | with_reducible apply Closed.draw hP
    | with_reducible apply Closed.trackDrift hP
    | with_reducible apply Closed.setRegF hP
    | with_reducible apply Closed.setMcState hP
    | intro _
    | split
    | dsimp only
    | dsimp only [id]

theorem wakePlaced (hP : Closed W P) {s : State} (pl : Placement) (w1 : W .drawn) (w2 : W .fw)
    (w3 : ∀ x1', W (.chan x1')) (w4 : ∀ x1', W (.reg (MC_STATUS x1')))
    (w5 : ∀ x1' x2', W (.reg (MC_TRN_DELAY x1' x2'))) (w6 : ∀ x1', W (.reg (MC_TRAIN_TEMP x1'))) (h : P s) :
    P (State.wakePlaced s pl) := by
  unfold State.wakePlaced
  repeat' first
    | with_reducible assumption
    | with_reducible exact w3 _
    | with_reducible exact w4 _
    | with_reducible exact w5 _ _
    | with_reducible exact w6 _
    | with_reducible apply Closed.each hP
    | with_reducible apply Closed.wakeChannel hP
    | intro _
    | split
    | dsimp only
    | dsimp only [id]

theorem emit (hP : Closed W P) {s : State} (o : List DmaOut) (w1 : W .pcie) (h : P s) :
    P (State.emit s o) := by
  unfold State.emit
  repeat' first
    | with_reducible assumption
    | with_reducible apply hP.modPcie
    | intro _
    | split
    | dsimp only
    | dsimp only [id]

theorem sendPending (hP : Closed W P) {s : State} (w1 : W .pcie) (h : P s) :
    P (State.sendPending s) := by
  unfold State.sendPending
  repeat' first
    | with_reducible assumption
    | with_reducible apply Closed.emit hP
    | with_reducible apply hP.modPcie
    | intro _
    | split
    | dsimp only
    | dsimp only [id]

theorem resumeDma (hP : Closed W P) {s : State} (w1 : W .pcie) (h : P s) :
    P (State.resumeDma s) := by
  unfold State.resumeDma
  repeat' first
    | with_reducible assumption
    | with_reducible apply Closed.sendPending hP
    | with_reducible apply hP.modPcie
    | intro _
    | split
    | dsimp only
    | dsimp only [id]

theorem modLane (hP : Closed W P) {s : State} (i : Nat) (f : LaneDyn → LaneDyn) (w1 : W (.lane i)) (h : P s) :
    P (State.modLane s i f) := by
  unfold State.modLane
  repeat' first
    | with_reducible assumption
    | with_reducible apply hP.setLane
    | intro _
    | split
    | dsimp only
    | dsimp only [id]

theorem newState (hP : Closed W P) {s : State} (n : Nat) (freshL : Bool) (freshU : Bool) (t : Time) (w1 : W .drawn)
    (w2 : W (.lane n)) (h : P s) :
    P (State.newState s n freshL freshU t) := by
  unfold State.newState
  repeat' first
    | with_reducible assumption
    | with_reducible apply Closed.draw hP
    | with_reducible apply Closed.modLane hP
    | intro _
    | split
    | dsimp only
    | dsimp only [id]

theorem startComparators (hP : Closed W P) {s : State} (w1 : W .drawn) (w2 : ∀ x1', W (.lane x1')) (h : P s) :
    P (State.startComparators s) := by
  unfold State.startComparators
  repeat' first
    | with_reducible assumption
    | with_reducible exact w2 _
    | with_reducible apply Closed.each hP
    | with_reducible apply Closed.newState hP
    | intro _
    | split
    | dsimp only
    | dsimp only [id]

theorem abortStep (hP : Closed W P) {s : State} (cu : Nat) (cause : Nat) (at_ : Time) (w1 : W (.queue 1))
    (w2 : W .station) (w3 : ∀ x1', W (.stream x1')) (w4 : ∀ x1', W (.sched x1')) (w5 : W (.cmp cu))
    (w6 : W (.reg (HUB_Q 1 16))) (w7 : W (.reg (HUB_Q 1 24))) (w8 : W (.reg (HUB_Q 1 20)))
    (w9 : W (.reg (CU cu 12))) (w10 : W (.reg (CU cu 28))) (w11 : W (.reg (CU cu 32))) (h : P s) :
    P (State.abortStep s cu cause at_) := by
  unfold State.abortStep
  repeat' first
    | with_reducible assumption
    | with_reducible exact w3 _
    | with_reducible exact w4 _
    | with_reducible apply Closed.each hP
    | with_reducible apply Closed.issueVerdict hP
    | with_reducible apply Closed.loneVerdict hP
    | with_reducible apply Closed.cuState hP
    | with_reducible apply Closed.modCmp hP
    | intro _
    | split
    | dsimp only
    | dsimp only [id]

theorem done (hP : Closed W P) {s : State} (bytes : List Byte) (h : P s) : P (Sys2Proof.Machine.done s bytes).1 := by
  have _ := hP
  exact h

theorem createCmd (hP : Closed W P) (img : MbImage) {s : State} (w1 : W .weaver) (w2 : ∀ x1', W (.stream x1'))
    (h : P s) :
    P ((createCmd img s).1) := by
  unfold Sys2Proof.Machine.createCmd
  repeat' first
    | with_reducible assumption
    | with_reducible exact w2 _
    | with_reducible apply Closed.done hP
    | with_reducible apply hP.setStream
    | with_reducible apply hP.modWeaver
    | intro _
    | split
    | dsimp only
    | dsimp only [id]

theorem setMeas (hP : Closed W P) {s : State} (t : TermUnit) (m : MeasDyn) (w1 : W .trig) (h : P s) :
    P (State.setMeas s t m) := by
  unfold State.setMeas
  repeat' first
    | with_reducible assumption
    | with_reducible apply hP.modTrig
    | intro _
    | split
    | dsimp only
    | dsimp only [id]

theorem startTerm (hP : Closed W P) {s : State} (u : TermUnit) (t : Time) (w1 : W .trig) (h : P s) :
    P (State.startTerm s u t) := by
  unfold State.startTerm
  repeat' first
    | with_reducible assumption
    | with_reducible apply Closed.setMeas hP
    | with_reducible apply hP.modTrig
    | intro _
    | split
    | dsimp only
    | dsimp only [id]

theorem modComp (hP : Closed W P) {s : State} (n : Nat) (c : Comp) (f : CompDyn → CompDyn) (w1 : W (.lane n))
    (h : P s) :
    P (State.modComp s n c f) := by
  unfold State.modComp
  repeat' first
    | with_reducible assumption
    | with_reducible apply Closed.modLane hP
    | intro _
    | split
    | dsimp only
    | dsimp only [id]

theorem moveOutput (hP : Closed W P) {s : State} (n : Nat) (c : Comp) (rise : Bool) (t : Time) (w1 : W (.lane n))
    (h : P s) :
    P (State.moveOutput s n c rise t) := by
  unfold State.moveOutput
  repeat' first
    | with_reducible assumption
    | with_reducible apply Closed.modLane hP
    | with_reducible apply Closed.modComp hP
    | intro _
    | split
    | dsimp only
    | dsimp only [id]

theorem powerFailCleared (hP : Closed W P) {s : State} (us : Word) (w1 : W .ledger) (h : P s) :
    P (State.powerFailCleared s us) := by
  unfold State.powerFailCleared
  repeat' first
    | with_reducible assumption
    | with_reducible apply hP.modLedger
    | intro _
    | split
    | dsimp only
    | dsimp only [id]

theorem cmpLossSpan (hP : Closed W P) {s : State} (cu : Nat) (cin : Nat) (t0 : Time) (t1 : Time) (w1 : W (.cmp cu))
    (w2 : W (.reg (CU cu 36))) (h : P s) :
    P (State.cmpLossSpan s cu cin t0 t1) := by
  unfold State.cmpLossSpan
  repeat' first
    | with_reducible assumption
    | with_reducible apply Closed.unjudgeSpan hP
    | with_reducible apply Closed.modCmp hP
    | intro _
    | split
    | dsimp only
    | dsimp only [id]

theorem endCompare (hP : Closed W P) {s : State} (cu : Nat) (w1 : W (.cmp cu)) (w2 : W (.queue 1)) (w3 : W .station)
    (w4 : ∀ x1', W (.stream x1')) (w5 : ∀ x1', W (.sched x1')) (w6 : W (.reg (CU cu 44))) (w7 : W (.reg (CU cu 12)))
    (w8 : W (.reg (HUB_Q 1 16))) (w9 : W (.reg (HUB_Q 1 24))) (w10 : W (.reg (HUB_Q 1 20)))
    (w11 : W (.reg (CU cu 28))) (w12 : W (.reg (CU cu 32))) (w13 : W (.reg (CU cu 16)))
    (w14 : W (.reg (CU cu 16 + 4))) (w15 : W (.reg (CU cu 24))) (w16 : W (.reg (CU cu 36))) (h : P s) :
    P (State.endCompare s cu) := by
  unfold State.endCompare
  repeat' first
    | with_reducible assumption
    | with_reducible exact w4 _
    | with_reducible exact w5 _
    | with_reducible apply Closed.cuState hP
    | with_reducible apply Closed.abortStep hP
    | with_reducible apply Closed.takeAnchors hP
    | intro _
    | split
    | dsimp only
    | dsimp only [id]

theorem modPort (hP : Closed W P) {s : State} (i : Nat) (f : PortDyn → PortDyn) (w1 : W (.port i)) (h : P s) :
    P (State.modPort s i f) := by
  unfold State.modPort
  repeat' first
    | with_reducible assumption
    | with_reducible apply hP.setPort
    | intro _
    | split
    | dsimp only
    | dsimp only [id]

theorem setPod (hP : Closed W P) {s : State} (p : Nat) (pos : Nat) (v : PodDyn) (w1 : W (.port p)) (h : P s) :
    P (State.setPod s p pos v) := by
  unfold State.setPod
  repeat' first
    | with_reducible assumption
    | with_reducible apply Closed.modPort hP
    | intro _
    | split
    | dsimp only
    | dsimp only [id]

theorem modPod (hP : Closed W P) {s : State} (p : Nat) (pos : Nat) (f : PodDyn → PodDyn) (w1 : W (.port p))
    (h : P s) :
    P (State.modPod s p pos f) := by
  unfold State.modPod
  repeat' first
    | with_reducible assumption
    | with_reducible apply Closed.setPod hP
    | intro _
    | split
    | dsimp only
    | dsimp only [id]

theorem podAck (hP : Closed W P) {s : State} (p : Nat) (q : Nat) (seq : Byte) (w1 : W (.port p)) (h : P s) :
    P (State.podAck s p q seq) := by
  unfold State.podAck
  repeat' first
    | with_reducible assumption
    | with_reducible apply Closed.modPod hP
    | intro _
    | split
    | dsimp only
    | dsimp only [id]

theorem lossSegmentOpen (hP : Closed W P) {s : State} (i : Nat) (w1 : W (.stream i)) (w2 : ∀ x1', W (.sched x1'))
    (h : P s) :
    P (State.lossSegmentOpen s i) := by
  unfold State.lossSegmentOpen
  repeat' first
    | with_reducible assumption
    | with_reducible exact w2 _
    | with_reducible apply Closed.modStream hP
    | with_reducible apply Closed.closeSegment hP
    | intro _
    | split
    | dsimp only
    | dsimp only [id]

theorem ivLossEnd (hP : Closed W P) {s : State} (iu : Nat) (isA : Bool) (t : Time) (w1 : W (.ival iu)) (h : P s) :
    P (State.ivLossEnd s iu isA t) := by
  unfold State.ivLossEnd
  repeat' first
    | with_reducible assumption
    | with_reducible apply Closed.modIval hP
    | intro _
    | split
    | dsimp only
    | dsimp only [id]

theorem writeRecs (hP : Closed W P) {s : State} (i : Nat) (rs : List Rec) (w1 : W (.stream i))
    (w2 : ∀ x1', W (.sched x1')) (h : P s) :
    P (State.writeRecs s i rs) := by
  unfold State.writeRecs
  repeat' first
    | with_reducible assumption
    | with_reducible exact w2 _
    | with_reducible apply Closed.each hP
    | with_reducible apply Closed.writeRec hP
    | intro _
    | split
    | dsimp only
    | dsimp only [id]

theorem closeLosses (hP : Closed W P) {s : State} (i : Nat) (which : OpenLoss → Bool) (stop : Time)
    (w1 : W (.stream i)) (w2 : ∀ x1', W (.sched x1')) (h : P s) :
    P (State.closeLosses s i which stop) := by
  unfold State.closeLosses
  repeat' first
    | with_reducible assumption
    | with_reducible exact w2 _
    | with_reducible apply Closed.each hP
    | with_reducible apply Closed.modStream hP
    | with_reducible apply Closed.writeRecs hP
    | intro _
    | split
    | dsimp only
    | dsimp only [id]

theorem closeLoss (hP : Closed W P) {s : State} (i : Nat) (cause : Nat) (scope : Nat) (index : Nat) (stop : Time)
    (w1 : W (.stream i)) (w2 : ∀ x1', W (.sched x1')) (h : P s) :
    P (State.closeLoss s i cause scope index stop) := by
  unfold State.closeLoss
  repeat' first
    | with_reducible assumption
    | with_reducible exact w2 _
    | with_reducible apply Closed.closeLosses hP
    | intro _
    | split
    | dsimp only
    | dsimp only [id]

theorem ivLossBegin (hP : Closed W P) {s : State} (iu : Nat) (isA : Bool) (t : Time) (w1 : W (.ival iu)) (h : P s) :
    P (State.ivLossBegin s iu isA t) := by
  unfold State.ivLossBegin
  repeat' first
    | with_reducible assumption
    | with_reducible apply Closed.ivPush hP
    | with_reducible apply Closed.modIval hP
    | intro _
    | split
    | dsimp only
    | dsimp only [id]

theorem srcLoss (hP : Closed W P) {s : State} (w : Nat) (p : Nat → Bool) (begin_ : Bool) (t : Time)
    (w1 : ∀ x1', W (.ival x1')) (h : P s) :
    P (State.srcLoss s w p begin_ t) := by
  unfold State.srcLoss
  repeat' first
    | with_reducible assumption
    | with_reducible exact w1 _
    | with_reducible apply Closed.each hP
    | with_reducible apply Closed.ivLossBegin hP
    | with_reducible apply Closed.ivLossEnd hP
    | intro _
    | split
    | dsimp only
    | dsimp only [id]

theorem cmpLossBegin (hP : Closed W P) {s : State} (cu : Nat) (cin : Nat) (t : Time) (w1 : W (.cmp cu))
    (w2 : W (.reg (CU cu 36))) (h : P s) :
    P (State.cmpLossBegin s cu cin t) := by
  unfold State.cmpLossBegin
  repeat' first
    | with_reducible assumption
    | with_reducible apply Closed.unjudgeSpan hP
    | with_reducible apply Closed.modCmp hP
    | intro _
    | split
    | dsimp only
    | dsimp only [id]

theorem cmpLossEnd (hP : Closed W P) {s : State} (cu : Nat) (cin : Nat) (t : Time) (w1 : W (.cmp cu))
    (w2 : W (.reg (CU cu 36))) (h : P s) :
    P (State.cmpLossEnd s cu cin t) := by
  unfold State.cmpLossEnd
  repeat' first
    | with_reducible assumption
    | with_reducible apply Closed.unjudgeSpan hP
    | with_reducible apply Closed.modCmp hP
    | intro _
    | split
    | dsimp only
    | dsimp only [id]

theorem podUnitLoss (hP : Closed W P) {s : State} (p : Nat) (pos : Nat) (begin_ : Bool) (t : Time)
    (w1 : ∀ x1', W (.ival x1')) (w2 : ∀ x1', W (.cmp x1')) (w3 : ∀ x1', W (.reg (CU x1' 36))) (h : P s) :
    P (State.podUnitLoss s p pos begin_ t) := by
  unfold State.podUnitLoss
  repeat' first
    | with_reducible assumption
    | with_reducible exact w1 _
    | with_reducible exact w2 _
    | with_reducible exact w3 _
    | with_reducible apply Closed.each hP
    | with_reducible apply Closed.srcLoss hP
    | with_reducible apply Closed.cmpLossBegin hP
    | with_reducible apply Closed.cmpLossEnd hP
    | intro _
    | split
    | dsimp only
    | dsimp only [id]

theorem podRestored (hP : Closed W P) {s : State} (p : Nat) (pos : Nat) (w1 : ∀ x1', W (.stream x1'))
    (w2 : ∀ x1', W (.sched x1')) (w3 : ∀ x1', W (.ival x1')) (w4 : ∀ x1', W (.cmp x1')) (w5 : W (.port p))
    (w6 : ∀ x1', W (.reg (CU x1' 36))) (h : P s) :
    P (State.podRestored s p pos) := by
  unfold State.podRestored
  repeat' first
    | with_reducible assumption
    | with_reducible exact w1 _
    | with_reducible exact w2 _
    | with_reducible exact w3 _
    | with_reducible exact w4 _
    | with_reducible exact w6 _
    | with_reducible apply Closed.closeLoss hP
    | with_reducible apply Closed.modPod hP
    | with_reducible apply Closed.podUnitLoss hP
    | intro _
    | split
    | dsimp only
    | dsimp only [id]

theorem sendPod (hP : Closed W P) {s : State} (p : Nat) (pos : Nat) (bcast : Bool) (op : Nat) (addr : Nat)
    (data : Nat) (w1 : W (.port p)) (h : P s) :
    P (State.sendPod s p pos bcast op addr data) := by
  unfold State.sendPod
  repeat' first
    | with_reducible assumption
    | with_reducible apply Closed.modPort hP
    | intro _
    | split
    | dsimp only
    | dsimp only [id]

theorem writeAddresses (hP : Closed W P) {s : State} (p : Nat) (pos : Nat) (d : PodDyn) (w1 : W (.port p)) (h : P s) :
    P (State.writeAddresses s p pos d) := by
  unfold State.writeAddresses
  repeat' first
    | with_reducible assumption
    | with_reducible apply Closed.each hP
    | with_reducible apply Closed.setPod hP
    | with_reducible apply Closed.sendPod hP
    | intro _
    | split
    | dsimp only
    | dsimp only [id]

theorem writeImage (hP : Closed W P) {s : State} (p : Nat) (pos : Nat) (im : List Byte) (w1 : W (.port p)) (h : P s) :
    P (State.writeImage s p pos im) := by
  unfold State.writeImage
  repeat' first
    | with_reducible assumption
    | with_reducible apply Closed.writeAddresses hP
    | intro _
    | split
    | dsimp only
    | dsimp only [id]

theorem writeIdle (hP : Closed W P) {s : State} (p : Nat) (pos : Nat) (w1 : W (.port p)) (h : P s) :
    P (State.writeIdle s p pos) := by
  unfold State.writeIdle
  repeat' first
    | with_reducible assumption
    | with_reducible apply Closed.writeAddresses hP
    | intro _
    | split
    | dsimp only
    | dsimp only [id]

theorem writePod (hP : Closed W P) {s : State} (p : Nat) (pos : Nat) (addr : Nat) (v : Nat) (w1 : W (.port p))
    (h : P s) :
    P (State.writePod s p pos addr v) := by
  unfold State.writePod
  repeat' first
    | with_reducible assumption
    | with_reducible apply Closed.modPod hP
    | with_reducible apply Closed.sendPod hP
    | intro _
    | split
    | dsimp only
    | dsimp only [id]

theorem Change_startPod (hP : Closed W P) (c : Change) {s : State} (p : Nat) (q : Nat) (w1 : ∀ x1', W (.stream x1'))
    (w2 : ∀ x1', W (.sched x1')) (w3 : ∀ x1', W (.ival x1')) (w4 : ∀ x1', W (.cmp x1')) (w5 : W (.port p))
    (w6 : ∀ x1', W (.reg (CU x1' 36))) (h : P s) :
    P (Change.startPod c s p q) := by
  unfold Sys2Proof.Machine.Change.startPod
  repeat' first
    | with_reducible assumption
    | with_reducible exact w1 _
    | with_reducible exact w2 _
    | with_reducible exact w3 _
    | with_reducible exact w4 _
    | with_reducible exact w6 _
    | with_reducible apply Closed.podRestored hP
    | with_reducible apply Closed.writeImage hP
    | with_reducible apply Closed.writeIdle hP
    | with_reducible apply Closed.writePod hP
    | intro _
    | split
    | dsimp only
    | dsimp only [id]

theorem podAction (hP : Closed W P) {s : State} (p : Nat) (pos : Nat) (bcast : Bool) (code : Nat) (data : Nat)
    (w1 : W (.port p)) (h : P s) :
    P (State.podAction s p pos bcast code data) := by
  unfold State.podAction
  repeat' first
    | with_reducible assumption
    | with_reducible apply Closed.sendPod hP
    | intro _
    | split
    | dsimp only
    | dsimp only [id]

theorem announceSwitch (hP : Closed W P) {s : State} (p : Nat) (ahead : Nat) (w1 : W (.port p))
    (w2 : W (.reg (PP_SWITCH p))) (h : P s) :
    P (State.announceSwitch s p ahead) := by
  unfold State.announceSwitch
  repeat' first
    | with_reducible assumption
    | with_reducible apply Closed.podAction hP
    | with_reducible apply hP.setReg
    | intro _
    | split
    | dsimp only
    | dsimp only [id]

theorem startPods (hP : Closed W P) {s : State} (c : Change) (w1 : ∀ x1', W (.stream x1'))
    (w2 : ∀ x1', W (.sched x1')) (w3 : ∀ x1', W (.ival x1')) (w4 : ∀ x1', W (.cmp x1')) (w5 : ∀ x1', W (.port x1'))
    (w6 : W .drawn) (w7 : ∀ x1', W (.reg (CU x1' 36))) (w8 : ∀ x1', W (.reg (PP_SWITCH x1'))) (h : P s) :
    P (State.startPods s c) := by
  unfold State.startPods
  repeat' first
    | with_reducible assumption
    | with_reducible exact w1 _
    | with_reducible exact w2 _
    | with_reducible exact w3 _
    | with_reducible exact w4 _
    | with_reducible exact w5 _
    | with_reducible exact w7 _
    | with_reducible exact w8 _
    | with_reducible apply Closed.each hP
    | with_reducible apply Closed.draw hP
    | with_reducible apply Closed.Change_startPod hP
    | with_reducible apply Closed.announceSwitch hP
    | with_reducible apply Closed.modPort hP
    | intro _
    | split
    | dsimp only
    | dsimp only [id]

theorem matchItem (hP : Closed W P) {s : State} (cu : Nat) (i : CmpItem) (w1 : W (.cmp cu)) (h : P s) :
    P (State.matchItem s cu i) := by
  unfold State.matchItem
  repeat' first
    | with_reducible assumption
    | with_reducible apply Closed.modStep hP
    | intro _
    | split
    | dsimp only
    | dsimp only [id]

theorem deviate (hP : Closed W P) {s : State} (cu : Nat) (d : Deviation) (w1 : W (.cmp cu))
    (w2 : ∀ x1', W (.stream x1')) (w3 : ∀ x1', W (.sched x1')) (w4 : W .trig) (w5 : W (.reg (CU cu 24))) (h : P s) :
    P (State.deviate s cu d) := by
  unfold State.deviate
  repeat' first
    | with_reducible assumption
    | with_reducible exact w2 _
    | with_reducible exact w3 _
    | with_reducible apply Closed.modStep hP
    | with_reducible apply Closed.writeAll hP
    | with_reducible apply Closed.modCmp hP
    | with_reducible apply hP.setReg
    | with_reducible apply hP.modTrig
    | intro _
    | split
    | dsimp only
    | dsimp only [id]

theorem classify (hP : Closed W P) {s : State} (cu : Nat) (cin : Nat) (a : Time) (v : Bool) (f : EvFlags)
    (w1 : W (.cmp cu)) (w2 : ∀ x1', W (.stream x1')) (w3 : ∀ x1', W (.sched x1')) (w4 : W .trig)
    (w5 : W (.reg (CU cu 24))) (h : P s) :
    P (State.classify s cu cin a v f) := by
  unfold State.classify
  repeat' first
    | with_reducible assumption
    | with_reducible exact w2 _
    | with_reducible exact w3 _
    | with_reducible apply Closed.matchItem hP
    | with_reducible apply Closed.deviate hP
    | intro _
    | split
    | dsimp only
    | dsimp only [id]

theorem takeEdge (hP : Closed W P) {s : State} (cu : Nat) (e : CmpEv) (w1 : W (.cmp cu))
    (w2 : ∀ x1', W (.stream x1')) (w3 : ∀ x1', W (.sched x1')) (w4 : W .trig) (w5 : W (.reg (CU cu 24))) (h : P s) :
    P (State.takeEdge s cu e) := by
  unfold State.takeEdge
  repeat' first
    | with_reducible assumption
    | with_reducible exact w2 _
    | with_reducible exact w3 _
    | with_reducible apply Closed.classify hP
    | with_reducible apply Closed.modCmp hP
    | intro _
    | split
    | dsimp only
    | dsimp only [id]

theorem cmpLevel (hP : Closed W P) {s : State} (cu : Nat) (cin : Nat) (t : Time) (w1 : W .drawn) (h : P s) :
    P ((State.cmpLevel s cu cin t).2) := by
  unfold State.cmpLevel
  repeat' first
    | with_reducible assumption
    | with_reducible apply Closed.draw hP
    | intro _
    | split
    | dsimp only
    | dsimp only [id]

theorem decideItem (hP : Closed W P) {s : State} (cu : Nat) (i : CmpItem) (w1 : W (.cmp cu)) (w2 : W .drawn)
    (w3 : ∀ x1', W (.stream x1')) (w4 : ∀ x1', W (.sched x1')) (w5 : W .trig) (w6 : W (.reg (CU cu 36)))
    (w7 : W (.reg (CU cu 24))) (h : P s) :
    P (State.decideItem s cu i) := by
  unfold State.decideItem
  repeat' first
    | with_reducible assumption
    | with_reducible exact w3 _
    | with_reducible exact w4 _
    | with_reducible apply Closed.dropItem hP
    | with_reducible apply Closed.unjudge hP
    | with_reducible apply Closed.cmpLevel hP
    | with_reducible apply Closed.deviate hP
    | intro _
    | split
    | dsimp only
    | dsimp only [id]

theorem advanceAll (hP : Closed W P) (cu : Nat) (upTo : Time) (x2 : Nat) {x3 : State} (w1 : W (.cmp cu))
    (w2 : ∀ x1', W (.stream x1')) (w3 : ∀ x1', W (.sched x1')) (w4 : W .trig) (w5 : W .drawn)
    (w6 : W (.reg (CU cu 24))) (w7 : W (.reg (CU cu 36))) (h : P x3) :
    P (State.advanceAll cu upTo x2 x3) := by
  induction x2 generalizing cu upTo x3 with
  | zero =>
    unfold State.advanceAll
    repeat' first
      | with_reducible assumption
      | with_reducible exact w2 _
      | with_reducible exact w3 _
      | with_reducible apply Closed.takeEdge hP
      | with_reducible apply Closed.decideItem hP
      | intro _
      | split
      | dsimp only
      | dsimp only [id]
  | succ fuel ih =>
    unfold State.advanceAll
    repeat' first
      | with_reducible apply ih
      | with_reducible assumption
      | with_reducible exact w2 _
      | with_reducible exact w3 _
      | with_reducible apply Closed.takeEdge hP
      | with_reducible apply Closed.decideItem hP
      | intro _
      | split
      | dsimp only
      | dsimp only [id]

theorem advanceTo (hP : Closed W P) {s : State} (cu : Nat) (upTo : Time) (w1 : W (.cmp cu))
    (w2 : ∀ x1', W (.stream x1')) (w3 : ∀ x1', W (.sched x1')) (w4 : W .trig) (w5 : W .drawn)
    (w6 : W (.reg (CU cu 24))) (w7 : W (.reg (CU cu 36))) (h : P s) :
    P (State.advanceTo s cu upTo) := by
  unfold State.advanceTo
  repeat' first
    | with_reducible assumption
    | with_reducible exact w2 _
    | with_reducible exact w3 _
    | with_reducible apply Closed.advanceAll hP
    | intro _
    | split
    | dsimp only
    | dsimp only [id]

theorem modQueue (hP : Closed W P) {s : State} (i : Nat) (f : QueueDyn → QueueDyn) (w1 : W (.queue i)) (h : P s) :
    P (State.modQueue s i f) := by
  unfold State.modQueue
  repeat' first
    | with_reducible assumption
    | with_reducible apply hP.setQueue
    | intro _
    | split
    | dsimp only
    | dsimp only [id]

theorem passStake (hP : Closed W P) {s : State} (n : Nat) (words : Nat) (w1 : ∀ x1', W (.queue (stakeQ x1')))
    (h : P s) :
    P (State.passStake s n words) := by
  unfold State.passStake
  repeat' first
    | with_reducible assumption
    | with_reducible exact w1 _
    | with_reducible apply Closed.modQueue hP
    | intro _
    | split
    | dsimp only
    | dsimp only [id]

theorem putLaneRec (hP : Closed W P) {s : State} (n : Nat) (r : Rec) (t : Time)
    (w1 : ∀ x1', W (.queue (stakeQ x1'))) (w2 : ∀ x1', W (.stream x1')) (w3 : ∀ x1', W (.sched x1'))
    (w4 : W (.lane n)) (h : P s) :
    P (State.putLaneRec s n r t) := by
  unfold State.putLaneRec
  repeat' first
    | with_reducible assumption
    | with_reducible exact w1 _
    | with_reducible exact w2 _
    | with_reducible exact w3 _
    | with_reducible apply Closed.modLane hP
    | with_reducible apply Closed.writeRec hP
    | with_reducible apply Closed.passStake hP
    | intro _
    | split
    | dsimp only
    | dsimp only [id]

theorem flushLevel (hP : Closed W P) {s : State} (n : Nat) (w1 : W (.lane n)) (w2 : ∀ x1', W (.queue (stakeQ x1')))
    (w3 : ∀ x1', W (.stream x1')) (w4 : ∀ x1', W (.sched x1')) (h : P s) :
    P (State.flushLevel s n) := by
  unfold State.flushLevel
  repeat' first
    | with_reducible assumption
    | with_reducible exact w2 _
    | with_reducible exact w3 _
    | with_reducible exact w4 _
    | with_reducible apply Closed.putLaneRec hP
    | with_reducible apply Closed.modLane hP
    | intro _
    | split
    | dsimp only
    | dsimp only [id]

theorem laneRec (hP : Closed W P) {s : State} (n : Nat) (r : Rec) (t : Time) (w1 : W (.lane n))
    (w2 : ∀ x1', W (.queue (stakeQ x1'))) (w3 : ∀ x1', W (.stream x1')) (w4 : ∀ x1', W (.sched x1')) (h : P s) :
    P (State.laneRec s n r t) := by
  unfold State.laneRec
  repeat' first
    | with_reducible assumption
    | with_reducible exact w2 _
    | with_reducible exact w3 _
    | with_reducible exact w4 _
    | with_reducible apply Closed.putLaneRec hP
    | with_reducible apply Closed.flushLevel hP
    | intro _
    | split
    | dsimp only
    | dsimp only [id]

theorem closeBurst (hP : Closed W P) {s : State} (n : Nat) (c : Comp) (t : Time) (w1 : W (.lane n))
    (w2 : ∀ x1', W (.queue (stakeQ x1'))) (w3 : ∀ x1', W (.stream x1')) (w4 : ∀ x1', W (.sched x1'))
    (w5 : W (.reg (LN_BURSTS n))) (h : P s) :
    P (State.closeBurst s n c t) := by
  unfold State.closeBurst
  repeat' first
    | with_reducible assumption
    | with_reducible exact w2 _
    | with_reducible exact w3 _
    | with_reducible exact w4 _
    | with_reducible apply Closed.laneRec hP
    | with_reducible apply Closed.modComp hP
    | with_reducible apply Closed.incReg hP
    | intro _
    | split
    | dsimp only
    | dsimp only [id]

theorem keepPre (hP : Closed W P) {s : State} (i : Nat) (w1 : W (.stream i)) (h : P s) :
    P (State.keepPre s i) := by
  unfold State.keepPre
  repeat' first
    | with_reducible assumption
    | with_reducible apply Closed.modStream hP
    | intro _
    | split
    | dsimp only
    | dsimp only [id]

theorem skipOutside (hP : Closed W P) (i : Nat) (x1 : Nat) {x2 : State} (w1 : W (.stream i)) (h : P x2) :
    P (State.skipOutside i x1 x2) := by
  induction x1 generalizing i x2 with
  | zero =>
    unfold State.skipOutside
    repeat' first
      | with_reducible assumption
      | with_reducible apply Closed.keepPre hP
      | with_reducible apply hP.setStream
      | intro _
      | split
      | dsimp only
      | dsimp only [id]
  | succ fuel ih =>
    unfold State.skipOutside
    repeat' first
      | with_reducible apply ih
      | with_reducible assumption
      | with_reducible apply Closed.keepPre hP
      | with_reducible apply hP.setStream
      | intro _
      | split
      | dsimp only
      | dsimp only [id]

theorem takeSegment (hP : Closed W P) {s : State} (i : Nat) (g : Segment) (w1 : W (.stream i)) (h : P s) :
    P ((State.takeSegment s i g).1) := by
  unfold State.takeSegment
  repeat' first
    | with_reducible assumption
    | with_reducible apply Closed.keepPre hP
    | with_reducible apply hP.setStream
    | intro _
    | split
    | dsimp only
    | dsimp only [id]

theorem takeBlock (hP : Closed W P) (i : Nat) (size : Nat) (interval : Nat) (x3 : Nat)
    (x4 : List Segment) {x5 : State} (w1 : W (.stream i)) (h : P x5) :
    P ((State.takeBlock i size interval x3 x4 x5).1) := by
  induction x3 generalizing i size interval x4 x5 with
  | zero =>
    unfold State.takeBlock
    repeat' first
      | with_reducible assumption
      | with_reducible apply Closed.skipOutside hP
      | with_reducible apply Closed.takeSegment hP
      | intro _
      | split
      | dsimp only
      | dsimp only [id]
  | succ fuel ih =>
    unfold State.takeBlock
    repeat' first
      | with_reducible apply ih
      | with_reducible assumption
      | with_reducible apply Closed.skipOutside hP
      | with_reducible apply Closed.takeSegment hP
      | intro _
      | split
      | dsimp only
      | dsimp only [id]

theorem ledgerReq (hP : Closed W P) {s : State} (type : Nat) (sev : Nat) (unit : Word) (trigger : Nat)
    (body : List Byte) (w1 : W .ledger) (h : P s) :
    P (State.ledgerReq s type sev unit trigger body) := by
  unfold State.ledgerReq
  repeat' first
    | with_reducible assumption
    | with_reducible apply hP.modLedger
    | intro _
    | split
    | dsimp only
    | dsimp only [id]

theorem ledVerdict (hP : Closed W P) {s : State} (unit : Word) (cls : Nat) (lasting : Bool) (window : Nat)
    (result : Word) (w1 : W .ledger) (h : P s) :
    P (State.ledVerdict s unit cls lasting window result) := by
  unfold State.ledVerdict
  repeat' first
    | with_reducible assumption
    | with_reducible apply Closed.ledgerReq hP
    | intro _
    | split
    | dsimp only
    | dsimp only [id]

theorem alertEvent (hP : Closed W P) {s : State} (spare : Bool) (w1 : W .station) (w2 : W .pcie) (h : P s) :
    P (State.alertEvent s spare) := by
  unfold State.alertEvent
  repeat' first
    | with_reducible assumption
    | with_reducible apply hP.modPcie
    | with_reducible apply hP.modStation
    | intro _
    | split
    | dsimp only
    | dsimp only [id]

theorem modStake (hP : Closed W P) {s : State} (i : Nat) (f : StakeDyn → StakeDyn) (w1 : W (.stake i)) (h : P s) :
    P (State.modStake s i f) := by
  unfold State.modStake
  repeat' first
    | with_reducible assumption
    | with_reducible apply hP.setStake
    | intro _
    | split
    | dsimp only
    | dsimp only [id]

theorem writeBlk (hP : Closed W P) {s : State} (n : Nat) (b : BlockDyn) (t : Time) (w1 : W (.lane n))
    (w2 : ∀ x1', W (.queue (stakeQ x1'))) (w3 : ∀ x1', W (.stream x1')) (w4 : ∀ x1', W (.sched x1')) (h : P s) :
    P (State.writeBlk s n b t) := by
  unfold State.writeBlk
  repeat' first
    | with_reducible assumption
    | with_reducible exact w2 _
    | with_reducible exact w3 _
    | with_reducible exact w4 _
    | with_reducible apply Closed.laneRec hP
    | intro _
    | split
    | dsimp only
    | dsimp only [id]

theorem closeBlocks (hP : Closed W P) {s : State} (n : Nat) (t : Time) (known : Time → Bool) (w1 : W (.lane n))
    (w2 : ∀ x1', W (.queue (stakeQ x1'))) (w3 : ∀ x1', W (.stream x1')) (w4 : ∀ x1', W (.sched x1')) (h : P s) :
    P (State.closeBlocks s n t known) := by
  unfold State.closeBlocks
  repeat' first
    | with_reducible assumption
    | with_reducible exact w2 _
    | with_reducible exact w3 _
    | with_reducible exact w4 _
    | with_reducible apply Closed.each hP
    | with_reducible apply Closed.modLane hP
    | with_reducible apply Closed.writeBlk hP
    | intro _
    | split
    | dsimp only
    | dsimp only [id]

theorem endBlock (hP : Closed W P) {s : State} (n : Nat) (t : Time) (w1 : W (.lane n))
    (w2 : ∀ x1', W (.queue (stakeQ x1'))) (w3 : ∀ x1', W (.stream x1')) (w4 : ∀ x1', W (.sched x1')) (h : P s) :
    P (State.endBlock s n t) := by
  unfold State.endBlock
  repeat' first
    | with_reducible assumption
    | with_reducible exact w2 _
    | with_reducible exact w3 _
    | with_reducible exact w4 _
    | with_reducible apply Closed.modLane hP
    | with_reducible apply Closed.closeBlocks hP
    | intro _
    | split
    | dsimp only
    | dsimp only [id]

theorem addRetired (hP : Closed W P) {s : State} (u : Word) (w1 : W .weaver) (w2 : W .ledger)
    (w3 : W (.reg HUB_RETIRED)) (h : P s) :
    P (State.addRetired s u) := by
  unfold State.addRetired
  repeat' first
    | with_reducible assumption
    | with_reducible apply Closed.storeMeta hP
    | with_reducible apply hP.setReg
    | with_reducible apply hP.modWeaver
    | intro _
    | split
    | dsimp only
    | dsimp only [id]

theorem openLoss (hP : Closed W P) {s : State} (i : Nat) (cause : Nat) (scope : Nat) (index : Nat) (start : Time)
    (stop : Time) (count : Nat) (w1 : W (.stream i)) (w2 : ∀ x1', W (.sched x1')) (h : P s) :
    P (State.openLoss s i cause scope index start stop count) := by
  unfold State.openLoss
  repeat' first
    | with_reducible assumption
    | with_reducible exact w2 _
    | with_reducible apply Closed.lossSegmentOpen hP
    | with_reducible apply Closed.modStream hP
    | intro _
    | split
    | dsimp only
    | dsimp only [id]

theorem noticeWords (hP : Closed W P) {s : State} (code : Nat) (words : List DWord) (w1 : W (.queue 2))
    (w2 : W .station) (w3 : W .mbx) (w4 : W (.reg (HUB_Q 2 16))) (w5 : W (.reg (HUB_Q 2 24)))
    (w6 : W (.reg (HUB_Q 2 20))) (w7 : W (.reg MB_NTF_NSEQ)) (h : P s) :
    P (State.noticeWords s code words) := by
  unfold State.noticeWords
  repeat' first
    | with_reducible assumption
    | with_reducible apply Closed.pushPacket hP
    | with_reducible apply Closed.setRegF hP
    | with_reducible apply hP.modMbx
    | intro _
    | split
    | dsimp only
    | dsimp only [id]
    | rfl

theorem notice (hP : Closed W P) {s : State} (code : Nat) (fs : List NField) (w1 : W (.queue 2)) (w2 : W .station)
    (w3 : W .mbx) (w4 : W (.reg (HUB_Q 2 16))) (w5 : W (.reg (HUB_Q 2 24))) (w6 : W (.reg (HUB_Q 2 20)))
    (w7 : W (.reg MB_NTF_NSEQ)) (h : P s) :
    P (State.notice s code fs) := by
  unfold State.notice
  repeat' first
    | with_reducible assumption
    | with_reducible apply Closed.noticeWords hP
    | intro _
    | split
    | dsimp only
    | dsimp only [id]

theorem noticeRetired (hP : Closed W P) {s : State} (unit : Word) (cls : Nat) (w1 : W (.queue 2)) (w2 : W .station)
    (w3 : W .mbx) (w4 : W (.reg (HUB_Q 2 16))) (w5 : W (.reg (HUB_Q 2 24))) (w6 : W (.reg (HUB_Q 2 20)))
    (w7 : W (.reg MB_NTF_NSEQ)) (h : P s) :
    P (State.noticeRetired s unit cls) := by
  unfold State.noticeRetired
  repeat' first
    | with_reducible assumption
    | with_reducible apply Closed.notice hP
    | intro _
    | split
    | dsimp only
    | dsimp only [id]

theorem ledRetired (hP : Closed W P) {s : State} (unit : Word) (cls : Nat) (w1 : W .ledger) (h : P s) :
    P (State.ledRetired s unit cls) := by
  unfold State.ledRetired
  repeat' first
    | with_reducible assumption
    | with_reducible apply Closed.ledgerReq hP
    | intro _
    | split
    | dsimp only
    | dsimp only [id]

theorem retireLane (hP : Closed W P) {s : State} (n : Nat) (cls : Nat) (t : Time)
    (w1 : ∀ x1', W (.queue (stakeQ x1'))) (w2 : ∀ x1', W (.stream x1')) (w3 : ∀ x1', W (.sched x1'))
    (w4 : W .weaver) (w5 : W .ledger) (w6 : ∀ x1', W (.lane x1')) (w7 : ∀ x1', W (.cmp x1'))
    (w8 : ∀ x1', W (.ival x1')) (w9 : W (.queue 2)) (w10 : W .station) (w11 : W .mbx) (w12 : W .pcie)
    (w13 : W (.reg (LN_BURSTS n))) (w14 : W (.reg (LN_STATUS n))) (w15 : W (.reg HUB_RETIRED))
    (w16 : ∀ x1', W (.reg (CU x1' 36))) (w17 : W (.reg (HUB_Q 2 16))) (w18 : W (.reg (HUB_Q 2 24)))
    (w19 : W (.reg (HUB_Q 2 20))) (w20 : W (.reg MB_NTF_NSEQ)) (h : P s) :
    P (State.retireLane s n cls t) := by
  unfold State.retireLane
  repeat' first
    | with_reducible assumption
    | with_reducible exact w1 _
    | with_reducible exact w2 _
    | with_reducible exact w3 _
    | with_reducible exact w6 _
    | with_reducible exact w7 _
    | with_reducible exact w8 _
    | with_reducible exact w16 _
    | with_reducible apply Closed.each hP
    | with_reducible apply Closed.closeBurst hP
    | with_reducible apply Closed.endBlock hP
    | with_reducible apply Closed.addRetired hP
    | with_reducible apply Closed.setRegBit hP
    | with_reducible apply Closed.modLane hP
    | with_reducible apply Closed.openLoss hP
    | with_reducible apply Closed.cmpLossBegin hP
    | with_reducible apply Closed.srcLoss hP
    | with_reducible apply Closed.noticeRetired hP
    | with_reducible apply Closed.ledRetired hP
    | with_reducible apply Closed.alertEvent hP
    | intro _
    | split
    | dsimp only
    | dsimp only [id]

theorem retireDacLane (hP : Closed W P) {s : State} (k : Nat) (t : Nat) (w1 : W .weaver)
    (w2 : ∀ x1', W (.queue (stakeQ x1'))) (w3 : ∀ x1', W (.stream x1')) (w4 : ∀ x1', W (.sched x1'))
    (w5 : W .ledger) (w6 : ∀ x1', W (.lane x1')) (w7 : ∀ x1', W (.cmp x1')) (w8 : ∀ x1', W (.ival x1'))
    (w9 : W (.queue 2)) (w10 : W .station) (w11 : W .mbx) (w12 : W .pcie) (w13 : ∀ x1', W (.reg (LN_BURSTS x1')))
    (w14 : ∀ x1', W (.reg (LN_STATUS x1'))) (w15 : W (.reg HUB_RETIRED)) (w16 : ∀ x1', W (.reg (CU x1' 36)))
    (w17 : W (.reg (HUB_Q 2 16))) (w18 : W (.reg (HUB_Q 2 24))) (w19 : W (.reg (HUB_Q 2 20)))
    (w20 : W (.reg MB_NTF_NSEQ)) (h : P s) :
    P (State.retireDacLane s k t) := by
  unfold State.retireDacLane
  repeat' first
    | with_reducible assumption
    | with_reducible exact w2 _
    | with_reducible exact w3 _
    | with_reducible exact w4 _
    | with_reducible exact w6 _
    | with_reducible exact w7 _
    | with_reducible exact w8 _
    | with_reducible exact w13 _
    | with_reducible exact w14 _
    | with_reducible exact w16 _
    | with_reducible apply Closed.retireLane hP
    | with_reducible apply hP.modWeaver
    | intro _
    | split
    | dsimp only
    | dsimp only [id]

theorem dacFail (hP : Closed W P) {s : State} (k : Nat) (w1 : ∀ x1', W (.lane x1')) (w2 : W .station) (w3 : W .pcie)
    (w4 : W (.stake k)) (w5 : W .weaver) (w6 : ∀ x1', W (.queue (stakeQ x1'))) (w7 : ∀ x1', W (.stream x1'))
    (w8 : ∀ x1', W (.sched x1')) (w9 : W .ledger) (w10 : ∀ x1', W (.cmp x1')) (w11 : ∀ x1', W (.ival x1'))
    (w12 : W (.queue 2)) (w13 : W .mbx) (w14 : W (.reg (STK_SPARE k))) (w15 : ∀ x1', W (.reg (LN_BURSTS x1')))
    (w16 : ∀ x1', W (.reg (LN_STATUS x1'))) (w17 : W (.reg HUB_RETIRED)) (w18 : ∀ x1', W (.reg (CU x1' 36)))
    (w19 : W (.reg (HUB_Q 2 16))) (w20 : W (.reg (HUB_Q 2 24))) (w21 : W (.reg (HUB_Q 2 20)))
    (w22 : W (.reg MB_NTF_NSEQ)) (h : P s) :
    P (State.dacFail s k) := by
  unfold State.dacFail
  repeat' first
    | with_reducible assumption
    | with_reducible exact w1 _
    | with_reducible exact w6 _
    | with_reducible exact w7 _
    | with_reducible exact w8 _
    | with_reducible exact w10 _
    | with_reducible exact w11 _
    | with_reducible exact w15 _
    | with_reducible exact w16 _
    | with_reducible exact w18 _
    | with_reducible apply Closed.each hP
    | with_reducible apply Closed.setRegBit hP
    | with_reducible apply Closed.modLane hP
    | with_reducible apply Closed.alertEvent hP
    | with_reducible apply Closed.modStake hP
    | with_reducible apply Closed.retireDacLane hP
    | intro _
    | split
    | dsimp only
    | dsimp only [id]

theorem updateLimits (hP : Closed W P) {s : State} (w1 : W (.reg HUB_GUAR_INGEST)) (w2 : W (.reg HUB_HEALTH))
    (h : P s) :
    P (State.updateLimits s) := by
  unfold State.updateLimits
  repeat' first
    | with_reducible assumption
    | with_reducible apply Closed.setRegBit hP
    | with_reducible apply hP.setReg
    | intro _
    | split
    | dsimp only
    | dsimp only [id]

theorem announceRetired (hP : Closed W P) {s : State} (u : Word) (cls : Nat) (w1 : W .ledger) (w2 : W (.queue 2))
    (w3 : W .station) (w4 : W .mbx) (w5 : W .pcie) (w6 : W (.reg HUB_GUAR_INGEST)) (w7 : W (.reg HUB_HEALTH))
    (w8 : W (.reg (HUB_Q 2 16))) (w9 : W (.reg (HUB_Q 2 24))) (w10 : W (.reg (HUB_Q 2 20)))
    (w11 : W (.reg MB_NTF_NSEQ)) (h : P s) :
    P (State.announceRetired s u cls) := by
  unfold State.announceRetired
  repeat' first
    | with_reducible assumption
    | with_reducible apply Closed.alertEvent hP
    | with_reducible apply Closed.noticeRetired hP
    | with_reducible apply Closed.ledRetired hP
    | with_reducible apply Closed.updateLimits hP
    | intro _
    | split
    | dsimp only
    | dsimp only [id]

theorem dueReplacement (hP : Closed W P) {s : State} (w1 : W .weaver) (h : P s) :
    P (State.dueReplacement s) := by
  unfold State.dueReplacement
  repeat' first
    | with_reducible assumption
    | with_reducible apply hP.modWeaver
    | intro _
    | split
    | dsimp only
    | dsimp only [id]

theorem summaryMark (hP : Closed W P) {s : State} (q : Nat) (t : Time) (w1 : W (.seq q))
    (w2 : ∀ x1', W (.stream x1')) (w3 : W (.reg (SQ_DEAD_LO q))) (w4 : W (.reg (SQ_DEAD_LO q + 4)))
    (w5 : W (.reg (SQ_MISSED q))) (w6 : W (.reg (SQ_FOLDED q))) (w7 : W (.reg (SQ_MARKS q))) (h : P s) :
    P (State.summaryMark s q t) := by
  unfold State.summaryMark
  repeat' first
    | with_reducible assumption
    | with_reducible exact w2 _
    | with_reducible apply Closed.emitMark hP
    | intro _
    | split
    | dsimp only
    | dsimp only [id]

theorem dropForced (hP : Closed W P) {s : State} (q : Nat) (w1 : ∀ x1', W (.box x1')) (w2 : W (.seq q)) (h : P s) :
    P (State.dropForced s q) := by
  unfold State.dropForced
  repeat' first
    | with_reducible assumption
    | with_reducible exact w1 _
    | with_reducible apply Closed.each hP
    | with_reducible apply Closed.respond hP
    | with_reducible apply Closed.modSeq hP
    | intro _
    | split
    | dsimp only
    | dsimp only [id]

theorem retireSequencer (hP : Closed W P) {s : State} (q : Nat) (w1 : ∀ x1', W (.box x1')) (w2 : W (.seq q))
    (w3 : ∀ x1', W (.stream x1')) (w4 : W .fw) (w5 : W (.reg (SQ_DEAD_LO q))) (w6 : W (.reg (SQ_DEAD_LO q + 4)))
    (w7 : W (.reg (SQ_MISSED q))) (w8 : W (.reg (SQ_FOLDED q))) (w9 : W (.reg (SQ_MARKS q)))
    (w10 : W (.reg (SQ_CFG q))) (w11 : W (.reg (SQ_STATUS q))) (h : P s) :
    P (State.retireSequencer s q) := by
  unfold State.retireSequencer
  repeat' first
    | with_reducible assumption
    | with_reducible exact w1 _
    | with_reducible exact w3 _
    | with_reducible apply Closed.summaryMark hP
    | with_reducible apply Closed.dropForced hP
    | with_reducible apply hP.setReg
    | with_reducible apply hP.fwWrite
    | intro _
    | split
    | dsimp only
    | dsimp only [id]

theorem histAutoSwap (hP : Closed W P) {s : State} (hu : Nat) (r : Nat) (t : Time) (fault : Bool)
    (w1 : W (.hist hu)) (w2 : W .drawn) (w3 : ∀ x1', W (.reg (HU_RG hu r x1'))) (h : P s) :
    P (State.histAutoSwap s hu r t fault) := by
  unfold State.histAutoSwap
  repeat' first
    | with_reducible assumption
    | with_reducible exact w3 _
    | with_reducible apply Closed.closeAccum hP
    | intro _
    | split
    | dsimp only
    | dsimp only [id]

theorem retireHist (hP : Closed W P) {s : State} (hu : Nat) (badBank : Option Bool) (w1 : W (.hist hu))
    (w2 : W .drawn) (w3 : W .fw) (w4 : ∀ x1' x2', W (.reg (HU_RG hu x1' x2'))) (w5 : W (.reg (HU_STATUS hu)))
    (h : P s) :
    P (State.retireHist s hu badBank) := by
  unfold State.retireHist
  repeat' first
    | with_reducible assumption
    | with_reducible exact w4 _ _
    | with_reducible apply Closed.each hP
    | with_reducible apply Closed.modRegion hP
    | with_reducible apply Closed.histAutoSwap hP
    | with_reducible apply Closed.modHist hP
    | with_reducible apply Closed.setRegBit hP
    | with_reducible apply hP.fwWrite
    | intro _
    | split
    | dsimp only
    | dsimp only [id]

theorem stopJob (hP : Closed W P) {s : State} (cu : Nat) (w1 : W (.queue 1)) (w2 : W .station)
    (w3 : ∀ x1', W (.stream x1')) (w4 : ∀ x1', W (.sched x1')) (w5 : W (.cmp cu)) (w6 : W (.reg (HUB_Q 1 16)))
    (w7 : W (.reg (HUB_Q 1 24))) (w8 : W (.reg (HUB_Q 1 20))) (w9 : W (.reg (CU cu 12))) (w10 : W (.reg (CU cu 28)))
    (w11 : W (.reg (CU cu 32))) (h : P s) :
    P (State.stopJob s cu) := by
  unfold State.stopJob
  repeat' first
    | with_reducible assumption
    | with_reducible exact w3 _
    | with_reducible exact w4 _
    | with_reducible apply Closed.modCmp hP
    | with_reducible apply Closed.abortStep hP
    | intro _
    | split
    | dsimp only
    | dsimp only [id]

theorem retireCompare (hP : Closed W P) {s : State} (cu : Nat) (w1 : W (.queue 1)) (w2 : W .station)
    (w3 : ∀ x1', W (.stream x1')) (w4 : ∀ x1', W (.sched x1')) (w5 : W (.cmp cu)) (w6 : W .fw)
    (w7 : W (.reg (HUB_Q 1 16))) (w8 : W (.reg (HUB_Q 1 24))) (w9 : W (.reg (HUB_Q 1 20)))
    (w10 : W (.reg (CU cu 12))) (w11 : W (.reg (CU cu 28))) (w12 : W (.reg (CU cu 32))) (w13 : W (.reg (CU cu 0)))
    (h : P s) :
    P (State.retireCompare s cu) := by
  unfold State.retireCompare
  repeat' first
    | with_reducible assumption
    | with_reducible exact w3 _
    | with_reducible exact w4 _
    | with_reducible apply Closed.stopJob hP
    | with_reducible apply Closed.cuState hP
    | with_reducible apply hP.fwWrite
    | intro _
    | split
    | dsimp only
    | dsimp only [id]

theorem ivCount (hP : Closed W P) {s : State} (iu : Nat) (t : Time) (w1 : W (.ival iu)) (w2 : W (.reg (IU iu 88)))
    (h : P s) :
    P (State.ivCount s iu t) := by
  unfold State.ivCount
  repeat' first
    | with_reducible assumption
    | with_reducible apply Closed.modIval hP
    | with_reducible apply Closed.addReg hP
    | intro _
    | split
    | dsimp only
    | dsimp only [id]

theorem ivAbandon (hP : Closed W P) {s : State} (iu : Nat) (t : Nat) (w1 : W (.ival iu)) (w2 : W (.reg (IU iu 88)))
    (w3 : W (.reg (IU iu 92))) (h : P s) :
    P (State.ivAbandon s iu t) := by
  unfold State.ivAbandon
  repeat' first
    | with_reducible assumption
    | with_reducible apply Closed.ivCount hP
    | with_reducible apply Closed.incReg hP
    | with_reducible apply Closed.modIval hP
    | intro _
    | split
    | dsimp only
    | dsimp only [id]

theorem ivResult (hP : Closed W P) {s : State} (iu : Nat) (r : IvResult) (w1 : W (.ival iu))
    (w2 : ∀ x1', W (.stream x1')) (w3 : ∀ x1', W (.sched x1')) (w4 : W (.reg (IU iu 32)))
    (w5 : W (.reg (IU iu 32 + 4))) (w6 : W (.reg (IU iu 40))) (w7 : W (.reg (IU iu 40 + 4)))
    (w8 : W (.reg (IU iu 48))) (w9 : W (.reg (IU iu 48 + 4))) (w10 : W (.reg (IU iu 56)))
    (w11 : W (.reg (IU iu 56 + 4))) (w12 : W (.reg (IU iu 64))) (w13 : W (.reg (IU iu 68)))
    (w14 : W (.reg (IU iu 80))) (h : P s) :
    P (State.ivResult s iu r) := by
  unfold State.ivResult
  repeat' first
    | with_reducible assumption
    | with_reducible exact w2 _
    | with_reducible exact w3 _
    | with_reducible apply Closed.modIval hP
    | with_reducible apply Closed.setReg64 hP
    | with_reducible apply Closed.incReg hP
    | with_reducible apply Closed.writeAll hP
    | with_reducible apply hP.setReg
    | intro _
    | split
    | dsimp only
    | dsimp only [id]

theorem ivWindowEnd (hP : Closed W P) {s : State} (iu : Nat) (t : Time) (partial_ : Bool) (loss : Bool)
    (f : EvFlags) (w1 : W (.ival iu)) (w2 : W .drawn) (w3 : ∀ x1', W (.stream x1')) (w4 : ∀ x1', W (.sched x1'))
    (w5 : W (.reg (IU iu 88))) (w6 : W (.reg (IU iu 32))) (w7 : W (.reg (IU iu 32 + 4))) (w8 : W (.reg (IU iu 40)))
    (w9 : W (.reg (IU iu 40 + 4))) (w10 : W (.reg (IU iu 48))) (w11 : W (.reg (IU iu 48 + 4)))
    (w12 : W (.reg (IU iu 56))) (w13 : W (.reg (IU iu 56 + 4))) (w14 : W (.reg (IU iu 64)))
    (w15 : W (.reg (IU iu 68))) (w16 : W (.reg (IU iu 80))) (h : P s) :
    P (State.ivWindowEnd s iu t partial_ loss f) := by
  unfold State.ivWindowEnd
  repeat' first
    | with_reducible assumption
    | with_reducible exact w3 _
    | with_reducible exact w4 _
    | with_reducible apply Closed.draw hP
    | with_reducible apply Closed.ivCount hP
    | with_reducible apply Closed.ivResult hP
    | intro _
    | split
    | dsimp only
    | dsimp only [id]

theorem ivValue (hP : Closed W P) {s : State} (iu : Nat) (start : Nat) (time : Nat) (count : Nat) (high : Bool)
    (f : EvFlags) (w1 : W (.ival iu)) (w2 : ∀ x1', W (.stream x1')) (w3 : ∀ x1', W (.sched x1'))
    (w4 : W (.reg (IU iu 88))) (w5 : W (.reg (IU iu 92))) (w6 : W (.reg (IU iu 32))) (w7 : W (.reg (IU iu 32 + 4)))
    (w8 : W (.reg (IU iu 40))) (w9 : W (.reg (IU iu 40 + 4))) (w10 : W (.reg (IU iu 48)))
    (w11 : W (.reg (IU iu 48 + 4))) (w12 : W (.reg (IU iu 56))) (w13 : W (.reg (IU iu 56 + 4)))
    (w14 : W (.reg (IU iu 64))) (w15 : W (.reg (IU iu 68))) (w16 : W (.reg (IU iu 80))) (h : P s) :
    P (State.ivValue s iu start time count high f) := by
  unfold State.ivValue
  repeat' first
    | with_reducible assumption
    | with_reducible exact w2 _
    | with_reducible exact w3 _
    | with_reducible apply Closed.ivAbandon hP
    | with_reducible apply Closed.ivResult hP
    | with_reducible apply Closed.modIval hP
    | with_reducible apply Closed.ivCount hP
    | intro _
    | split
    | dsimp only
    | dsimp only [id]

theorem ivA (hP : Closed W P) {s : State} (iu : Nat) (t : Time) (rise : Bool) (f : EvFlags) (w1 : W (.ival iu))
    (w2 : ∀ x1', W (.stream x1')) (w3 : ∀ x1', W (.sched x1')) (w4 : W (.reg (IU iu 88))) (w5 : W (.reg (IU iu 92)))
    (w6 : W (.reg (IU iu 32))) (w7 : W (.reg (IU iu 32 + 4))) (w8 : W (.reg (IU iu 40)))
    (w9 : W (.reg (IU iu 40 + 4))) (w10 : W (.reg (IU iu 48))) (w11 : W (.reg (IU iu 48 + 4)))
    (w12 : W (.reg (IU iu 56))) (w13 : W (.reg (IU iu 56 + 4))) (w14 : W (.reg (IU iu 64)))
    (w15 : W (.reg (IU iu 68))) (w16 : W (.reg (IU iu 80))) (h : P s) :
    P (State.ivA s iu t rise f) := by
  unfold State.ivA
  repeat' first
    | with_reducible assumption
    | with_reducible exact w2 _
    | with_reducible exact w3 _
    | with_reducible apply Closed.modIval hP
    | with_reducible apply Closed.ivValue hP
    | intro _
    | split
    | dsimp only
    | dsimp only [id]

theorem ivB (hP : Closed W P) {s : State} (iu : Nat) (t : Time) (f : EvFlags) (w1 : W (.ival iu))
    (w2 : ∀ x1', W (.stream x1')) (w3 : ∀ x1', W (.sched x1')) (w4 : W (.reg (IU iu 84))) (w5 : W (.reg (IU iu 88)))
    (w6 : W (.reg (IU iu 92))) (w7 : W (.reg (IU iu 32))) (w8 : W (.reg (IU iu 32 + 4))) (w9 : W (.reg (IU iu 40)))
    (w10 : W (.reg (IU iu 40 + 4))) (w11 : W (.reg (IU iu 48))) (w12 : W (.reg (IU iu 48 + 4)))
    (w13 : W (.reg (IU iu 56))) (w14 : W (.reg (IU iu 56 + 4))) (w15 : W (.reg (IU iu 64)))
    (w16 : W (.reg (IU iu 68))) (w17 : W (.reg (IU iu 80))) (h : P s) :
    P (State.ivB s iu t f) := by
  unfold State.ivB
  repeat' first
    | with_reducible assumption
    | with_reducible exact w2 _
    | with_reducible exact w3 _
    | with_reducible apply Closed.incReg hP
    | with_reducible apply Closed.modIval hP
    | with_reducible apply Closed.ivValue hP
    | intro _
    | split
    | dsimp only
    | dsimp only [id]

theorem ivTake (hP : Closed W P) {s : State} (iu : Nat) (e : IvTimed) (w1 : W (.ival iu)) (w2 : W .drawn)
    (w3 : ∀ x1', W (.stream x1')) (w4 : ∀ x1', W (.sched x1')) (w5 : W (.reg (IU iu 88))) (w6 : W (.reg (IU iu 92)))
    (w7 : W (.reg (IU iu 32))) (w8 : W (.reg (IU iu 32 + 4))) (w9 : W (.reg (IU iu 40)))
    (w10 : W (.reg (IU iu 40 + 4))) (w11 : W (.reg (IU iu 48))) (w12 : W (.reg (IU iu 48 + 4)))
    (w13 : W (.reg (IU iu 56))) (w14 : W (.reg (IU iu 56 + 4))) (w15 : W (.reg (IU iu 64)))
    (w16 : W (.reg (IU iu 68))) (w17 : W (.reg (IU iu 80))) (w18 : W (.reg (IU iu 84))) (h : P s) :
    P (State.ivTake s iu e) := by
  unfold State.ivTake
  repeat' first
    | with_reducible assumption
    | with_reducible exact w3 _
    | with_reducible exact w4 _
    | with_reducible apply Closed.modIval hP
    | with_reducible apply Closed.ivAbandon hP
    | with_reducible apply Closed.ivWindowEnd hP
    | with_reducible apply Closed.ivA hP
    | with_reducible apply Closed.ivB hP
    | with_reducible apply Closed.ivCount hP
    | intro _
    | split
    | dsimp only
    | dsimp only [id]

theorem freeNext (hP : Closed W P) {s : State} (iu : Nat) (t : Time) (w1 : W (.ival iu)) (w2 : W .drawn)
    (w3 : ∀ x1', W (.stream x1')) (w4 : ∀ x1', W (.sched x1')) (w5 : W (.reg (IU iu 88))) (w6 : W (.reg (IU iu 32)))
    (w7 : W (.reg (IU iu 32 + 4))) (w8 : W (.reg (IU iu 40))) (w9 : W (.reg (IU iu 40 + 4)))
    (w10 : W (.reg (IU iu 48))) (w11 : W (.reg (IU iu 48 + 4))) (w12 : W (.reg (IU iu 56)))
    (w13 : W (.reg (IU iu 56 + 4))) (w14 : W (.reg (IU iu 64))) (w15 : W (.reg (IU iu 68)))
    (w16 : W (.reg (IU iu 80))) (h : P s) :
    P (State.freeNext s iu t) := by
  unfold State.freeNext
  repeat' first
    | with_reducible assumption
    | with_reducible exact w3 _
    | with_reducible exact w4 _
    | with_reducible apply Closed.modIval hP
    | with_reducible apply Closed.ivWindowEnd hP
    | intro _
    | split
    | dsimp only
    | dsimp only [id]

theorem ivStep (hP : Closed W P) {s t : State} (iu : Nat) (bound : Int) (w1 : W (.ival iu)) (w2 : W .drawn)
    (w3 : ∀ x1', W (.stream x1')) (w4 : ∀ x1', W (.sched x1')) (w5 : W (.reg (IU iu 88))) (w6 : W (.reg (IU iu 92)))
    (w7 : W (.reg (IU iu 32))) (w8 : W (.reg (IU iu 32 + 4))) (w9 : W (.reg (IU iu 40)))
    (w10 : W (.reg (IU iu 40 + 4))) (w11 : W (.reg (IU iu 48))) (w12 : W (.reg (IU iu 48 + 4)))
    (w13 : W (.reg (IU iu 56))) (w14 : W (.reg (IU iu 56 + 4))) (w15 : W (.reg (IU iu 64)))
    (w16 : W (.reg (IU iu 68))) (w17 : W (.reg (IU iu 80))) (w18 : W (.reg (IU iu 84))) (h : P s)
    (ht : s.ivStep iu bound = some t) : P t := by
  unfold State.ivStep at ht
  split at ht
  · cases ht
  · dsimp only at ht
    rw [Option.ite_none_left_eq_some] at ht
    cases ht.2
    repeat' first
      | with_reducible assumption
      | with_reducible exact w3 _
      | with_reducible exact w4 _
      | with_reducible apply Closed.ivTake hP
      | with_reducible apply Closed.modIval hP

theorem ivDrain (hP : Closed W P) (iu : Nat) (upTo : Time) (x2 : Nat) {x3 : State} (w1 : W (.ival iu))
    (w2 : W .drawn) (w3 : ∀ x1', W (.stream x1')) (w4 : ∀ x1', W (.sched x1')) (w5 : W (.reg (IU iu 88)))
    (w6 : W (.reg (IU iu 92))) (w7 : W (.reg (IU iu 32))) (w8 : W (.reg (IU iu 32 + 4))) (w9 : W (.reg (IU iu 40)))
    (w10 : W (.reg (IU iu 40 + 4))) (w11 : W (.reg (IU iu 48))) (w12 : W (.reg (IU iu 48 + 4)))
    (w13 : W (.reg (IU iu 56))) (w14 : W (.reg (IU iu 56 + 4))) (w15 : W (.reg (IU iu 64)))
    (w16 : W (.reg (IU iu 68))) (w17 : W (.reg (IU iu 80))) (w18 : W (.reg (IU iu 84))) (h : P x3) :
    P (State.ivDrain iu upTo x2 x3) := by
  induction x2 generalizing x3 with
  | zero => exact h
  | succ fuel ih =>
    unfold State.ivDrain
    split
    · refine ih (Closed.ivStep hP iu _ ?_ ?_ ?_ ?_ ?_ ?_ ?_ ?_ ?_ ?_ ?_ ?_ ?_ ?_ ?_ ?_ ?_ ?_ h (by assumption)) <;> assumption
    · split
      · refine Closed.ite hP (ih (Closed.freeNext hP _ _ ?_ ?_ ?_ ?_ ?_ ?_ ?_ ?_ ?_ ?_ ?_ ?_ ?_ ?_ ?_ ?_ h)) h <;> assumption
      · exact h

theorem ivStop (hP : Closed W P) {s : State} (iu : Nat) (t : Time) (loss : Bool) (w1 : W (.ival iu)) (w2 : W .drawn)
    (w3 : ∀ x1', W (.stream x1')) (w4 : ∀ x1', W (.sched x1')) (w5 : W (.reg (IU iu 88))) (w6 : W (.reg (IU iu 92)))
    (w7 : W (.reg (IU iu 32))) (w8 : W (.reg (IU iu 32 + 4))) (w9 : W (.reg (IU iu 40)))
    (w10 : W (.reg (IU iu 40 + 4))) (w11 : W (.reg (IU iu 48))) (w12 : W (.reg (IU iu 48 + 4)))
    (w13 : W (.reg (IU iu 56))) (w14 : W (.reg (IU iu 56 + 4))) (w15 : W (.reg (IU iu 64)))
    (w16 : W (.reg (IU iu 68))) (w17 : W (.reg (IU iu 80))) (w18 : W (.reg (IU iu 84))) (h : P s) :
    P (State.ivStop s iu t loss) := by
  unfold State.ivStop
  repeat' first
    | with_reducible assumption
    | with_reducible exact w3 _
    | with_reducible exact w4 _
    | with_reducible apply Closed.ivDrain hP
    | with_reducible apply Closed.ivAbandon hP
    | with_reducible apply Closed.ivWindowEnd hP
    | with_reducible apply Closed.ivResult hP
    | with_reducible apply Closed.modIval hP
    | intro _
    | split
    | dsimp only
    | dsimp only [id]

theorem retireInterval (hP : Closed W P) {s : State} (iu : Nat) (w1 : W (.ival iu)) (w2 : W .drawn)
    (w3 : ∀ x1', W (.stream x1')) (w4 : ∀ x1', W (.sched x1')) (w5 : W .fw) (w6 : W (.reg (IU iu 88)))
    (w7 : W (.reg (IU iu 92))) (w8 : W (.reg (IU iu 32))) (w9 : W (.reg (IU iu 32 + 4))) (w10 : W (.reg (IU iu 40)))
    (w11 : W (.reg (IU iu 40 + 4))) (w12 : W (.reg (IU iu 48))) (w13 : W (.reg (IU iu 48 + 4)))
    (w14 : W (.reg (IU iu 56))) (w15 : W (.reg (IU iu 56 + 4))) (w16 : W (.reg (IU iu 64)))
    (w17 : W (.reg (IU iu 68))) (w18 : W (.reg (IU iu 80))) (w19 : W (.reg (IU iu 84))) (w20 : W (.reg (IU iu 0)))
    (h : P s) :
    P (State.retireInterval s iu) := by
  unfold State.retireInterval
  repeat' first
    | with_reducible assumption
    | with_reducible exact w3 _
    | with_reducible exact w4 _
    | with_reducible apply Closed.ivStop hP
    | with_reducible apply hP.fwWrite
    | intro _
    | split
    | dsimp only
    | dsimp only [id]

theorem podMeasLoss (hP : Closed W P) {s : State} (p : Nat) (pos : Nat) (begin_ : Bool) (t : Time) (w1 : W .trig)
    (h : P s) :
    P (State.podMeasLoss s p pos begin_ t) := by
  unfold State.podMeasLoss
  repeat' first
    | with_reducible assumption
    | with_reducible apply Closed.each hP
    | with_reducible apply hP.modTrig
    | intro _
    | split
    | dsimp only
    | dsimp only [id]

theorem linkLossEnd (hP : Closed W P) {s : State} (p : Nat) (pos : Nat) (t : Time) (w1 : ∀ x1', W (.stream x1'))
    (w2 : ∀ x1', W (.sched x1')) (w3 : ∀ x1', W (.ival x1')) (w4 : ∀ x1', W (.cmp x1')) (w5 : W .trig)
    (w6 : W (.port p)) (w7 : ∀ x1', W (.reg (CU x1' 36))) (h : P s) :
    P (State.linkLossEnd s p pos t) := by
  unfold State.linkLossEnd
  repeat' first
    | with_reducible assumption
    | with_reducible exact w1 _
    | with_reducible exact w2 _
    | with_reducible exact w3 _
    | with_reducible exact w4 _
    | with_reducible exact w7 _
    | with_reducible apply Closed.closeLoss hP
    | with_reducible apply Closed.modPod hP
    | with_reducible apply Closed.podMeasLoss hP
    | with_reducible apply Closed.podUnitLoss hP
    | intro _
    | split
    | dsimp only
    | dsimp only [id]

theorem forgetLevels (hP : Closed W P) {s : State} (p : Nat) (pos : Nat) (w1 : W (.port p)) (h : P s) :
    P (State.forgetLevels s p pos) := by
  unfold State.forgetLevels
  repeat' first
    | with_reducible assumption
    | with_reducible apply Closed.modPort hP
    | intro _
    | split
    | dsimp only
    | dsimp only [id]

theorem podBreak (hP : Closed W P) {s : State} (p : Nat) (pos : Nat) (cause : Nat) (w1 : ∀ x1', W (.stream x1'))
    (w2 : ∀ x1', W (.sched x1')) (w3 : ∀ x1', W (.ival x1')) (w4 : ∀ x1', W (.cmp x1')) (w5 : W .trig)
    (w6 : W (.port p)) (w7 : ∀ x1', W (.reg (CU x1' 36))) (h : P s) :
    P (State.podBreak s p pos cause) := by
  unfold State.podBreak
  repeat' first
    | with_reducible assumption
    | with_reducible exact w1 _
    | with_reducible exact w2 _
    | with_reducible exact w3 _
    | with_reducible exact w4 _
    | with_reducible exact w7 _
    | with_reducible apply Closed.linkLossEnd hP
    | with_reducible apply Closed.openLoss hP
    | with_reducible apply Closed.forgetLevels hP
    | with_reducible apply Closed.podUnitLoss hP
    | with_reducible apply Closed.modPod hP
    | intro _
    | split
    | dsimp only
    | dsimp only [id]

theorem retirePort (hP : Closed W P) {s : State} (p : Nat) (cls : Nat) (w1 : ∀ x1', W (.stream x1'))
    (w2 : ∀ x1', W (.sched x1')) (w3 : ∀ x1', W (.ival x1')) (w4 : ∀ x1', W (.cmp x1')) (w5 : W .trig)
    (w6 : W (.port p)) (w7 : W .weaver) (w8 : W .ledger) (w9 : W (.queue 2)) (w10 : W .station) (w11 : W .mbx)
    (w12 : W .pcie) (w13 : ∀ x1', W (.reg (CU x1' 36))) (w14 : W (.reg (PP_STATUS p)))
    (w15 : W (.reg (PP_PRESENT p))) (w16 : W (.reg HUB_RETIRED)) (w17 : W (.reg (HUB_Q 2 16)))
    (w18 : W (.reg (HUB_Q 2 24))) (w19 : W (.reg (HUB_Q 2 20))) (w20 : W (.reg MB_NTF_NSEQ)) (h : P s) :
    P (State.retirePort s p cls) := by
  unfold State.retirePort
  repeat' first
    | with_reducible assumption
    | with_reducible exact w1 _
    | with_reducible exact w2 _
    | with_reducible exact w3 _
    | with_reducible exact w4 _
    | with_reducible exact w13 _
    | with_reducible apply Closed.each hP
    | with_reducible apply Closed.podBreak hP
    | with_reducible apply Closed.setRegF hP
    | with_reducible apply Closed.setRegBit hP
    | with_reducible apply Closed.addRetired hP
    | with_reducible apply Closed.noticeRetired hP
    | with_reducible apply Closed.ledRetired hP
    | with_reducible apply Closed.alertEvent hP
    | with_reducible apply hP.setReg
    | intro _
    | split
    | dsimp only
    | dsimp only [id]

theorem ledPod (hP : Closed W P) {s : State} (unit : Word) (event : Nat) (serial : BitVec 48) (w1 : W .ledger)
    (h : P s) :
    P (State.ledPod s unit event serial) := by
  unfold State.ledPod
  repeat' first
    | with_reducible assumption
    | with_reducible apply Closed.ledgerReq hP
    | intro _
    | split
    | dsimp only
    | dsimp only [id]

theorem chainBreak (hP : Closed W P) {s : State} (p : Nat) (pos : Nat) (event : Nat) (w1 : ∀ x1', W (.stream x1'))
    (w2 : ∀ x1', W (.sched x1')) (w3 : ∀ x1', W (.ival x1')) (w4 : ∀ x1', W (.cmp x1')) (w5 : W .trig)
    (w6 : W (.port p)) (w7 : W (.queue 2)) (w8 : W .station) (w9 : W .mbx) (w10 : W .ledger)
    (w11 : W (.reg (PP_BREAKS p))) (w12 : ∀ x1', W (.reg (CU x1' 36))) (w13 : W (.reg (PP_PRESENT p)))
    (w14 : W (.reg (PP_STATUS p))) (w15 : W (.reg (HUB_Q 2 16))) (w16 : W (.reg (HUB_Q 2 24)))
    (w17 : W (.reg (HUB_Q 2 20))) (w18 : W (.reg MB_NTF_NSEQ)) (h : P s) :
    P (State.chainBreak s p pos event) := by
  unfold State.chainBreak
  repeat' first
    | with_reducible assumption
    | with_reducible exact w1 _
    | with_reducible exact w2 _
    | with_reducible exact w3 _
    | with_reducible exact w4 _
    | with_reducible exact w12 _
    | with_reducible apply Closed.each hP
    | with_reducible apply Closed.incReg hP
    | with_reducible apply Closed.podBreak hP
    | with_reducible apply Closed.setRegBit hP
    | with_reducible apply Closed.setRegF hP
    | with_reducible apply Closed.modPort hP
    | with_reducible apply Closed.podAction hP
    | with_reducible apply Closed.ledPod hP
    | with_reducible apply Closed.notice hP
    | intro _
    | split
    | dsimp only
    | dsimp only [id]

theorem retireSegment (hP : Closed W P) {s : State} (p : Nat) (seg : Nat) (cls : Nat) (w1 : ∀ x1', W (.stream x1'))
    (w2 : ∀ x1', W (.sched x1')) (w3 : ∀ x1', W (.ival x1')) (w4 : ∀ x1', W (.cmp x1')) (w5 : W .trig)
    (w6 : W (.port p)) (w7 : W .weaver) (w8 : W .ledger) (w9 : W (.queue 2)) (w10 : W .station) (w11 : W .mbx)
    (w12 : W .pcie) (w13 : ∀ x1', W (.reg (CU x1' 36))) (w14 : W (.reg (PP_STATUS p)))
    (w15 : W (.reg (PP_PRESENT p))) (w16 : W (.reg HUB_RETIRED)) (w17 : W (.reg (HUB_Q 2 16)))
    (w18 : W (.reg (HUB_Q 2 24))) (w19 : W (.reg (HUB_Q 2 20))) (w20 : W (.reg MB_NTF_NSEQ))
    (w21 : W (.reg (PP_BREAKS p))) (w22 : W (.reg HUB_GUAR_INGEST)) (w23 : W (.reg HUB_HEALTH)) (h : P s) :
    P (State.retireSegment s p seg cls) := by
  unfold State.retireSegment
  repeat' first
    | with_reducible assumption
    | with_reducible exact w1 _
    | with_reducible exact w2 _
    | with_reducible exact w3 _
    | with_reducible exact w4 _
    | with_reducible exact w13 _
    | with_reducible apply Closed.retirePort hP
    | with_reducible apply Closed.announceRetired hP
    | with_reducible apply Closed.chainBreak hP
    | with_reducible apply Closed.addRetired hP
    | intro _
    | split
    | dsimp only
    | dsimp only [id]

theorem modImage (hP : Closed W P) {s : State} (i : Nat) (f : HistImages → HistImages) (w1 : W (.image i)) (h : P s) :
    P (State.modImage s i f) := by
  unfold State.modImage
  repeat' first
    | with_reducible assumption
    | with_reducible apply hP.setImage
    | intro _
    | split
    | dsimp only
    | dsimp only [id]

theorem loseImages (hP : Closed W P) {s : State} (ch : Nat) (w1 : ∀ x1', W (.image x1')) (w2 : ∀ x1', W (.hist x1'))
    (w3 : ∀ x1', W (.reg (HU_IMG_LOST x1'))) (h : P s) :
    P (State.loseImages s ch) := by
  unfold State.loseImages
  repeat' first
    | with_reducible assumption
    | with_reducible exact w1 _
    | with_reducible exact w2 _
    | with_reducible exact w3 _
    | with_reducible apply Closed.each hP
    | with_reducible apply Closed.addReg hP
    | with_reducible apply Closed.incReg hP
    | with_reducible apply Closed.modRegion hP
    | with_reducible apply Closed.modImage hP
    | with_reducible apply hP.setImage
    | intro _
    | split
    | dsimp only
    | dsimp only [id]

theorem modRef (hP : Closed W P) {s : State} (i : Nat) (f : RefDyn → RefDyn) (w1 : W (.ref i)) (h : P s) :
    P (State.modRef s i f) := by
  unfold State.modRef
  repeat' first
    | with_reducible assumption
    | with_reducible apply hP.setRef
    | intro _
    | split
    | dsimp only
    | dsimp only [id]

theorem ledReference (hP : Closed W P) {s : State} (ref : Nat) (member : Nat) (offset : Nat) (result : Nat)
    (code : Nat) (bitNo : Nat) (byte : Nat) (out : Nat) (w1 : W .ledger) (h : P s) :
    P (State.ledReference s ref member offset result code bitNo byte out) := by
  unfold State.ledReference
  repeat' first
    | with_reducible assumption
    | with_reducible apply Closed.ledgerReq hP
    | intro _
    | split
    | dsimp only
    | dsimp only [id]

theorem loseReference (hP : Closed W P) {s : State} (r : Nat) (cause : RefLossCause) (failed : List Nat)
    (w1 : W (.ref r)) (w2 : W (.queue 2)) (w3 : W .station) (w4 : W .mbx) (w5 : W .ledger) (w6 : W (.queue 1))
    (w7 : ∀ x1', W (.stream x1')) (w8 : ∀ x1', W (.sched x1')) (w9 : ∀ x1', W (.cmp x1'))
    (w10 : W (.reg (HUB_Q 2 16))) (w11 : W (.reg (HUB_Q 2 24))) (w12 : W (.reg (HUB_Q 2 20)))
    (w13 : W (.reg MB_NTF_NSEQ)) (w14 : W (.reg (HUB_Q 1 16))) (w15 : W (.reg (HUB_Q 1 24)))
    (w16 : W (.reg (HUB_Q 1 20))) (w17 : ∀ x1', W (.reg (CU x1' 12))) (w18 : ∀ x1', W (.reg (CU x1' 28)))
    (w19 : ∀ x1', W (.reg (CU x1' 32))) (h : P s) :
    P (State.loseReference s r cause failed) := by
  unfold State.loseReference
  repeat' first
    | with_reducible assumption
    | with_reducible exact w7 _
    | with_reducible exact w8 _
    | with_reducible exact w9 _
    | with_reducible exact w17 _
    | with_reducible exact w18 _
    | with_reducible exact w19 _
    | with_reducible apply Closed.each hP
    | with_reducible apply Closed.modRef hP
    | with_reducible apply Closed.notice hP
    | with_reducible apply Closed.ledReference hP
    | with_reducible apply Closed.abortStep hP
    | intro _
    | split
    | dsimp only
    | dsimp only [id]

theorem freeRef (hP : Closed W P) {s : State} (r : Nat) (w1 : W .dram) (h : P s) :
    P (State.freeRef s r) := by
  unfold State.freeRef
  repeat' first
    | with_reducible assumption
    | with_reducible apply Closed.forgetPages hP
    | intro _
    | split
    | dsimp only
    | dsimp only [id]

theorem loseRefs (hP : Closed W P) {s : State} (ch : Nat) (ma : BitVec 37) (w1 : ∀ x1', W (.ref x1'))
    (w2 : W (.queue 2)) (w3 : W .station) (w4 : W .mbx) (w5 : W .ledger) (w6 : W (.queue 1))
    (w7 : ∀ x1', W (.stream x1')) (w8 : ∀ x1', W (.sched x1')) (w9 : ∀ x1', W (.cmp x1')) (w10 : W .dram)
    (w11 : W (.reg (HUB_Q 2 16))) (w12 : W (.reg (HUB_Q 2 24))) (w13 : W (.reg (HUB_Q 2 20)))
    (w14 : W (.reg MB_NTF_NSEQ)) (w15 : W (.reg (HUB_Q 1 16))) (w16 : W (.reg (HUB_Q 1 24)))
    (w17 : W (.reg (HUB_Q 1 20))) (w18 : ∀ x1', W (.reg (CU x1' 12))) (w19 : ∀ x1', W (.reg (CU x1' 28)))
    (w20 : ∀ x1', W (.reg (CU x1' 32))) (h : P s) :
    P (State.loseRefs s ch ma) := by
  unfold State.loseRefs
  repeat' first
    | with_reducible assumption
    | with_reducible exact w1 _
    | with_reducible exact w7 _
    | with_reducible exact w8 _
    | with_reducible exact w9 _
    | with_reducible exact w18 _
    | with_reducible exact w19 _
    | with_reducible exact w20 _
    | with_reducible apply Closed.each hP
    | with_reducible apply Closed.loseReference hP
    | with_reducible apply Closed.freeRef hP
    | with_reducible apply hP.setRef
    | intro _
    | split
    | dsimp only
    | dsimp only [id]

theorem modDe (hP : Closed W P) {s : State} (i : Nat) (f : EngineDyn → EngineDyn) (w1 : W (.de i)) (h : P s) :
    P (State.modDe s i f) := by
  unfold State.modDe
  repeat' first
    | with_reducible assumption
    | with_reducible apply hP.setDe
    | intro _
    | split
    | dsimp only
    | dsimp only [id]

theorem loseContexts (hP : Closed W P) {s : State} (ch : Nat) (w1 : ∀ x1', W (.stream x1'))
    (w2 : ∀ x1', W (.de x1')) (h : P s) :
    P (State.loseContexts s ch) := by
  unfold State.loseContexts
  repeat' first
    | with_reducible assumption
    | with_reducible exact w1 _
    | with_reducible exact w2 _
    | with_reducible apply Closed.each hP
    | with_reducible apply Closed.modStream hP
    | with_reducible apply Closed.modDe hP
    | intro _
    | split
    | dsimp only
    | dsimp only [id]

theorem loseContents (hP : Closed W P) {s : State} (ch : Nat) (ma : BitVec 37) (w1 : ∀ x1', W (.stream x1'))
    (w2 : ∀ x1', W (.de x1')) (w3 : ∀ x1', W (.ref x1')) (w4 : W (.queue 2)) (w5 : W .station) (w6 : W .mbx)
    (w7 : W .ledger) (w8 : W (.queue 1)) (w9 : ∀ x1', W (.sched x1')) (w10 : ∀ x1', W (.cmp x1')) (w11 : W .dram)
    (w12 : ∀ x1', W (.image x1')) (w13 : ∀ x1', W (.hist x1')) (w14 : W (.reg (HUB_Q 2 16)))
    (w15 : W (.reg (HUB_Q 2 24))) (w16 : W (.reg (HUB_Q 2 20))) (w17 : W (.reg MB_NTF_NSEQ))
    (w18 : W (.reg (HUB_Q 1 16))) (w19 : W (.reg (HUB_Q 1 24))) (w20 : W (.reg (HUB_Q 1 20)))
    (w21 : ∀ x1', W (.reg (CU x1' 12))) (w22 : ∀ x1', W (.reg (CU x1' 28))) (w23 : ∀ x1', W (.reg (CU x1' 32)))
    (w24 : ∀ x1', W (.reg (HU_IMG_LOST x1'))) (h : P s) :
    P (State.loseContents s ch ma) := by
  unfold State.loseContents
  repeat' first
    | with_reducible assumption
    | with_reducible exact w1 _
    | with_reducible exact w2 _
    | with_reducible exact w3 _
    | with_reducible exact w9 _
    | with_reducible exact w10 _
    | with_reducible exact w12 _
    | with_reducible exact w13 _
    | with_reducible exact w21 _
    | with_reducible exact w22 _
    | with_reducible exact w23 _
    | with_reducible exact w24 _
    | with_reducible apply Closed.each hP
    | with_reducible apply Closed.modStream hP
    | with_reducible apply Closed.loseImages hP
    | with_reducible apply Closed.loseRefs hP
    | with_reducible apply Closed.loseContexts hP
    | intro _
    | split
    | dsimp only
    | dsimp only [id]

theorem bumpWindows (hP : Closed W P) {s : State} (ws : List Nat) (w1 : W (.reg PCI_BAR2_GEN_NEXT))
    (w2 : ∀ x1', W (.reg (PCI_BAR2_GEN x1'))) (h : P s) :
    P (State.bumpWindows s ws) := by
  unfold State.bumpWindows
  repeat' first
    | with_reducible assumption
    | with_reducible exact w2 _
    | with_reducible apply Closed.each hP
    | with_reducible apply hP.setReg
    | intro _
    | split
    | dsimp only
    | dsimp only [id]

theorem invalidateWindows (hP : Closed W P) {s : State} (p : Word → Bool) (w1 : W .pcie)
    (w2 : W (.reg PCI_BAR2_GEN_NEXT)) (w3 : ∀ x1', W (.reg (PCI_BAR2_GEN x1'))) (h : P s) :
    P (State.invalidateWindows s p) := by
  unfold State.invalidateWindows
  repeat' first
    | with_reducible assumption
    | with_reducible exact w3 _
    | with_reducible apply Closed.bumpWindows hP
    | with_reducible apply hP.modPcie
    | intro _
    | split
    | dsimp only
    | dsimp only [id]

theorem forgetAreas (hP : Closed W P) {s : State} (ch : Nat) (w1 : W .dram) (w2 : W (.sched ch)) (h : P s) :
    P (s.forgetAreas ch) :=
  Closed.modSched hP _ _ w2 (hP.modMem _ (fun _ h => h) (fun _ => rfl) w1 h)

theorem forgetChannel (hP : Closed W P) {s : State} (ch : Nat) (w1 : W .dram) (w2 : W (.sched ch)) (h : P s) :
    P (State.forgetChannel s ch) := by
  unfold State.forgetChannel
  repeat' first
    | with_reducible assumption
    | with_reducible apply Closed.forgetPages hP
    | with_reducible apply Closed.forgetAreas hP
    | intro _
    | split
    | dsimp only
    | dsimp only [id]

theorem retireChannel (hP : Closed W P) {s : State} (ch : Nat) (w1 : ∀ x1', W (.stream x1'))
    (w2 : ∀ x1', W (.de x1')) (w3 : ∀ x1', W (.ref x1')) (w4 : W (.queue 2)) (w5 : W .station) (w6 : W .mbx)
    (w7 : W .ledger) (w8 : W (.queue 1)) (w9 : ∀ x1', W (.sched x1')) (w10 : ∀ x1', W (.cmp x1')) (w11 : W .dram)
    (w12 : ∀ x1', W (.image x1')) (w13 : ∀ x1', W (.hist x1')) (w14 : W .pcie) (w15 : W (.reg (HUB_Q 2 16)))
    (w16 : W (.reg (HUB_Q 2 24))) (w17 : W (.reg (HUB_Q 2 20))) (w18 : W (.reg MB_NTF_NSEQ))
    (w19 : W (.reg (HUB_Q 1 16))) (w20 : W (.reg (HUB_Q 1 24))) (w21 : W (.reg (HUB_Q 1 20)))
    (w22 : ∀ x1', W (.reg (CU x1' 12))) (w23 : ∀ x1', W (.reg (CU x1' 28))) (w24 : ∀ x1', W (.reg (CU x1' 32)))
    (w25 : ∀ x1', W (.reg (HU_IMG_LOST x1'))) (w26 : W (.reg (MC_STATUS ch))) (w27 : W (.reg PCI_BAR2_GEN_NEXT))
    (w28 : ∀ x1', W (.reg (PCI_BAR2_GEN x1'))) (h : P s) :
    P (State.retireChannel s ch) := by
  unfold State.retireChannel
  repeat' first
    | with_reducible assumption
    | with_reducible exact w1 _
    | with_reducible exact w2 _
    | with_reducible exact w3 _
    | with_reducible exact w9 _
    | with_reducible exact w10 _
    | with_reducible exact w12 _
    | with_reducible exact w13 _
    | with_reducible exact w22 _
    | with_reducible exact w23 _
    | with_reducible exact w24 _
    | with_reducible exact w25 _
    | with_reducible exact w28 _
    | with_reducible apply Closed.loseContents hP
    | with_reducible apply Closed.setRegF hP
    | with_reducible apply Closed.setMcState hP
    | with_reducible apply Closed.invalidateWindows hP
    | with_reducible apply Closed.forgetChannel hP
    | with_reducible apply Closed.modSched hP
    | intro _
    | split
    | dsimp only
    | dsimp only [id]

theorem wholeLoss (hP : Closed W P) {s : State} (i : Nat) (cause : Nat) (scope : Nat) (index : Nat) (start : Time)
    (stop : Time) (count : Nat) (w1 : W (.stream i)) (w2 : ∀ x1', W (.sched x1')) (h : P s) :
    P (State.wholeLoss s i cause scope index start stop count) := by
  unfold State.wholeLoss
  repeat' first
    | with_reducible assumption
    | with_reducible exact w2 _
    | with_reducible apply Closed.closeLoss hP
    | with_reducible apply Closed.openLoss hP
    | intro _
    | split
    | dsimp only
    | dsimp only [id]

theorem abortStreamMember (hP : Closed W P) {s : State} (i : Nat) (w1 : W (.stream i)) (w2 : ∀ x1', W (.sched x1'))
    (h : P s) :
    P (State.abortStreamMember s i) := by
  unfold State.abortStreamMember
  repeat' first
    | with_reducible assumption
    | with_reducible exact w2 _
    | with_reducible apply Closed.wholeLoss hP
    | with_reducible apply hP.setStream
    | intro _
    | split
    | dsimp only
    | dsimp only [id]

theorem abortMembers (hP : Closed W P) {s : State} (ce : Nat) (w1 : ∀ x1', W (.stream x1'))
    (w2 : ∀ x1', W (.sched x1')) (h : P s) :
    P (State.abortMembers s ce) := by
  unfold State.abortMembers
  repeat' first
    | with_reducible assumption
    | with_reducible exact w1 _
    | with_reducible exact w2 _
    | with_reducible apply Closed.each hP
    | with_reducible apply Closed.abortStreamMember hP
    | intro _
    | split
    | dsimp only
    | dsimp only [id]

theorem setPwr (hP : Closed W P) {s : State} (v : Nat) (w1 : W (.reg PWR_STATE)) (h : P s) :
    P (State.setPwr s v) := by
  unfold State.setPwr
  repeat' first
    | with_reducible assumption
    | with_reducible apply Closed.setRegF hP
    | intro _
    | split
    | dsimp only
    | dsimp only [id]

theorem ledStateChange (hP : Closed W P) {s : State} (old : Nat) (new : Nat) (w1 : W .ledger) (h : P s) :
    P (State.ledStateChange s old new) := by
  unfold State.ledStateChange
  repeat' first
    | with_reducible assumption
    | with_reducible apply Closed.ledgerReq hP
    | intro _
    | split
    | dsimp only
    | dsimp only [id]

theorem enterState (hP : Closed W P) {s : State} (v : Nat) (w1 : W .ledger) (w2 : W (.reg PWR_STATE)) (h : P s) :
    P (State.enterState s v) := by
  unfold State.enterState
  repeat' first
    | with_reducible assumption
    | with_reducible apply Closed.setPwr hP
    | with_reducible apply Closed.ledStateChange hP
    | intro _
    | split
    | dsimp only
    | dsimp only [id]

theorem addResult (hP : Closed W P) {s : State} (t : TermUnit) (res : TermResult) (w1 : W .trig) (h : P s) :
    P (State.addResult s t res) := by
  unfold State.addResult
  repeat' first
    | with_reducible assumption
    | with_reducible apply hP.modTrig
    | intro _
    | split
    | dsimp only
    | dsimp only [id]

theorem detect (hP : Closed W P) {s : State} (t : TermUnit) (time : Time) (f : EvFlags) (w1 : W .trig)
    (w2 : ∀ a, W (.reg a)) (h : P s) :
    P (State.detect s t time f) := by
  unfold State.detect
  repeat' first
    | with_reducible assumption
    | with_reducible exact w2 _
    | with_reducible apply Closed.addResult hP
    | with_reducible apply Closed.incReg hP
    | with_reducible apply hP.modTrig
    | intro _
    | split
    | dsimp only
    | dsimp only [id]

theorem levelTerm (hP : Closed W P) {s : State} (t : TermUnit) (p : Time → Bool) (fl : Time → EvFlags)
    (late : List Time) (ins : List Time) (w1 : W .trig) (w2 : ∀ a, W (.reg a)) (h : P s) :
    P (State.levelTerm s t p fl late ins) := by
  unfold State.levelTerm
  repeat' first
    | with_reducible assumption
    | with_reducible exact w2 _
    | with_reducible apply Closed.addReg hP
    | with_reducible apply Closed.addResult hP
    | with_reducible apply hP.modTrig
    | intro _
    | split
    | dsimp only
    | dsimp only [id]

theorem runPattern (hP : Closed W P) {s : State} (k : Nat) (u : Nat) (evs : List TimedEv) (w1 : W .trig)
    (w2 : ∀ a, W (.reg a)) (h : P s) :
    P (State.runPattern s k u evs) := by
  unfold State.runPattern
  repeat' first
    | with_reducible assumption
    | with_reducible exact w2 _
    | with_reducible apply Closed.each hP
    | with_reducible apply Closed.detect hP
    | with_reducible apply Closed.levelTerm hP
    | intro _
    | split
    | dsimp only
    | dsimp only [id]

theorem takeConfirmed (hP : Closed W P) {s : State} (t : TermUnit) (w1 : W .trig) (w2 : ∀ a, W (.reg a)) (h : P s) :
    P (State.takeConfirmed s t) := by
  unfold State.takeConfirmed
  repeat' first
    | with_reducible assumption
    | with_reducible exact w2 _
    | with_reducible apply Closed.each hP
    | with_reducible apply Closed.detect hP
    | with_reducible apply hP.modTrig
    | intro _
    | split
    | dsimp only
    | dsimp only [id]

theorem detectDue (hP : Closed W P) {s : State} (t : TermUnit) (x : Time) (f : EvFlags) (w1 : W .trig)
    (w2 : ∀ a, W (.reg a)) (h : P s) :
    P (State.detectDue s t x f) := by
  unfold State.detectDue
  repeat' first
    | with_reducible assumption
    | with_reducible exact w2 _
    | with_reducible apply Closed.detect hP
    | with_reducible apply hP.modTrig
    | intro _
    | split
    | dsimp only
    | dsimp only [id]

theorem fireDeadlines (hP : Closed W P) (t : TermUnit) (upTo : Time) (x2 : Nat) {x3 : State} (w1 : W .trig)
    (w2 : ∀ a, W (.reg a)) (h : P x3) :
    P (State.fireDeadlines t upTo x2 x3) := by
  induction x2 generalizing t upTo x3 with
  | zero =>
    unfold State.fireDeadlines
    repeat' first
      | with_reducible assumption
      | with_reducible exact w2 _
      | with_reducible apply Closed.detectDue hP
      | with_reducible apply Closed.setMeas hP
      | intro _
      | split
      | dsimp only
      | dsimp only [id]
  | succ fuel ih =>
    unfold State.fireDeadlines
    repeat' first
      | with_reducible apply ih
      | with_reducible assumption
      | with_reducible exact w2 _
      | with_reducible apply Closed.detectDue hP
      | with_reducible apply Closed.setMeas hP
      | intro _
      | split
      | dsimp only
      | dsimp only [id]

theorem startMeasure (hP : Closed W P) {s : State} (t : TermUnit) (e : DurEdge) (w1 : W .trig) (h : P s) :
    P (State.startMeasure s t e) := by
  unfold State.startMeasure
  repeat' first
    | with_reducible assumption
    | with_reducible apply Closed.setMeas hP
    | intro _
    | split
    | dsimp only
    | dsimp only [id]

theorem stopMeasure (hP : Closed W P) {s : State} (t : TermUnit) (w1 : W .trig) (h : P s) :
    P (State.stopMeasure s t) := by
  unfold State.stopMeasure
  repeat' first
    | with_reducible assumption
    | with_reducible apply Closed.setMeas hP
    | intro _
    | split
    | dsimp only
    | dsimp only [id]

theorem endMeasure (hP : Closed W P) {s : State} (t : TermUnit) (t0 : Time) (te : Time) (f : EvFlags) (w1 : W .trig)
    (w2 : ∀ a, W (.reg a)) (h : P s) :
    P (State.endMeasure s t t0 te f) := by
  unfold State.endMeasure
  repeat' first
    | with_reducible assumption
    | with_reducible exact w2 _
    | with_reducible apply Closed.detect hP
    | with_reducible apply hP.setReg
    | intro _
    | split
    | dsimp only
    | dsimp only [id]

theorem durEdge (hP : Closed W P) {s : State} (t : TermUnit) (e : DurEdge) (w1 : W .trig) (w2 : ∀ a, W (.reg a))
    (h : P s) :
    P (State.durEdge s t e) := by
  unfold State.durEdge
  repeat' first
    | with_reducible assumption
    | with_reducible exact w2 _
    | with_reducible apply Closed.fireDeadlines hP
    | with_reducible apply Closed.startMeasure hP
    | with_reducible apply Closed.stopMeasure hP
    | with_reducible apply Closed.endMeasure hP
    | intro _
    | split
    | dsimp only
    | dsimp only [id]

theorem runDuration (hP : Closed W P) {s : State} (t : TermUnit) (evs : List TimedEv) (w1 : W .trig)
    (w2 : ∀ a, W (.reg a)) (h : P s) :
    P (State.runDuration s t evs) := by
  unfold State.runDuration
  repeat' first
    | with_reducible assumption
    | with_reducible exact w2 _
    | with_reducible apply Closed.each hP
    | with_reducible apply Closed.takeConfirmed hP
    | with_reducible apply Closed.durEdge hP
    | with_reducible apply Closed.fireDeadlines hP
    | intro _
    | split
    | dsimp only
    | dsimp only [id]

theorem runQuality (hP : Closed W P) {s : State} (k : Nat) (u : Nat) (evs : List TimedEv) (w1 : W .trig)
    (w2 : ∀ a, W (.reg a)) (h : P s) :
    P (State.runQuality s k u evs) := by
  unfold State.runQuality
  repeat' first
    | with_reducible assumption
    | with_reducible exact w2 _
    | with_reducible apply Closed.each hP
    | with_reducible apply Closed.setMeas hP
    | with_reducible apply Closed.detect hP
    | with_reducible apply hP.setReg
    | intro _
    | split
    | dsimp only
    | dsimp only [id]

theorem runDeviation (hP : Closed W P) {s : State} (k : Nat) (u : Nat) (evs : List TimedEv) (w1 : W .trig)
    (w2 : ∀ a, W (.reg a)) (h : P s) :
    P (State.runDeviation s k u evs) := by
  unfold State.runDeviation
  repeat' first
    | with_reducible assumption
    | with_reducible exact w2 _
    | with_reducible apply Closed.each hP
    | with_reducible apply Closed.detect hP
    | intro _
    | split
    | dsimp only
    | dsimp only [id]

theorem runPodPattern (hP : Closed W P) {s : State} (p : Nat) (u : Nat) (evs : List TimedEv) (w1 : W .trig)
    (w2 : ∀ a, W (.reg a)) (h : P s) :
    P (State.runPodPattern s p u evs) := by
  unfold State.runPodPattern
  repeat' first
    | with_reducible assumption
    | with_reducible exact w2 _
    | with_reducible apply Closed.each hP
    | with_reducible apply Closed.levelTerm hP
    | with_reducible apply Closed.detect hP
    | intro _
    | split
    | dsimp only
    | dsimp only [id]

theorem runDropout (hP : Closed W P) {s : State} (p : Nat) (evs : List TimedEv) (w1 : W .trig)
    (w2 : ∀ a, W (.reg a)) (h : P s) :
    P (State.runDropout s p evs) := by
  unfold State.runDropout
  repeat' first
    | with_reducible assumption
    | with_reducible exact w2 _
    | with_reducible apply Closed.each hP
    | with_reducible apply Closed.detect hP
    | intro _
    | split
    | dsimp only
    | dsimp only [id]

theorem runTrigIn (hP : Closed W P) {s : State} (w : Nat) (i : Nat) (evs : List TimedEv) (w1 : W .trig)
    (w2 : ∀ a, W (.reg a)) (h : P s) :
    P (State.runTrigIn s w i evs) := by
  unfold State.runTrigIn
  repeat' first
    | with_reducible assumption
    | with_reducible exact w2 _
    | with_reducible apply Closed.each hP
    | with_reducible apply Closed.detect hP
    | intro _
    | split
    | dsimp only
    | dsimp only [id]

theorem runTerm (hP : Closed W P) {s : State} (evs : List TimedEv) (t : TermUnit) (w1 : W .trig)
    (w2 : ∀ a, W (.reg a)) (h : P s) :
    P (State.runTerm s evs t) := by
  unfold State.runTerm
  repeat' first
    | with_reducible assumption
    | with_reducible exact w2 _
    | with_reducible apply Closed.runPattern hP
    | with_reducible apply Closed.runDuration hP
    | with_reducible apply Closed.runQuality hP
    | with_reducible apply Closed.runDeviation hP
    | with_reducible apply Closed.runPodPattern hP
    | with_reducible apply Closed.runDropout hP
    | with_reducible apply Closed.runTrigIn hP
    | intro _
    | split
    | dsimp only
    | dsimp only [id]

theorem keepLevels (hP : Closed W P) {s : State} (evs : List TimedEv) (w1 : ∀ x1', W (.port x1')) (h : P s) :
    P (State.keepLevels s evs) := by
  unfold State.keepLevels
  repeat' first
    | with_reducible assumption
    | with_reducible exact w1 _
    | with_reducible apply Closed.each hP
    | with_reducible apply Closed.modPort hP
    | intro _
    | split
    | dsimp only
    | dsimp only [id]

theorem modClosing (hP : Closed W P) {s : State} (hu : Nat) (r : Nat) (t : Time) (f : Closing → Closing)
    (w1 : W (.hist hu)) (h : P s) :
    P (State.modClosing s hu r t f) := by
  unfold State.modClosing
  repeat' first
    | with_reducible assumption
    | with_reducible apply Closed.modRegion hP
    | intro _
    | split
    | dsimp only
    | dsimp only [id]

theorem rgCount (hP : Closed W P) {s : State} (hu : Nat) (r : Nat) (t : Time) (i : Nat) (w1 : W (.hist hu))
    (w2 : ∀ x1', W (.reg (HU_RG hu r x1'))) (h : P s) :
    P (State.rgCount s hu r t i) := by
  unfold State.rgCount
  repeat' first
    | with_reducible assumption
    | with_reducible exact w2 _
    | with_reducible apply Closed.modClosing hP
    | with_reducible apply Closed.incReg hP
    | intro _
    | split
    | dsimp only
    | dsimp only [id]

theorem rgCountLate (hP : Closed W P) {s : State} (hu : Nat) (r : Nat) (t : Time) (i : Nat) (w1 : W (.hist hu))
    (w2 : ∀ x1', W (.reg (HU_RG hu r x1'))) (h : P s) :
    P (State.rgCountLate s hu r t i) := by
  unfold State.rgCountLate
  repeat' first
    | with_reducible assumption
    | with_reducible exact w2 _
    | with_reducible apply Closed.modRegion hP
    | with_reducible apply Closed.rgCount hP
    | intro _
    | split
    | dsimp only
    | dsimp only [id]

theorem histRef (hP : Closed W P) {s : State} (hu : Nat) (r : Nat) (ts : List (Time × EvFlags)) (w1 : W (.hist hu))
    (w2 : ∀ x1', W (.reg (HU_RG hu r x1'))) (h : P s) :
    P (State.histRef s hu r ts) := by
  unfold State.histRef
  repeat' first
    | with_reducible assumption
    | with_reducible exact w2 _
    | with_reducible apply Closed.each hP
    | with_reducible apply Closed.rgCountLate hP
    | with_reducible apply Closed.modRegion hP
    | intro _
    | split
    | dsimp only
    | dsimp only [id]

theorem evalTerms (hP : Closed W P) {s : State} (w1 : W .trig) (w2 : ∀ x1', W (.port x1'))
    (w3 : ∀ x1', W (.hist x1')) (w4 : ∀ a, W (.reg a)) (h : P s) :
    P (State.evalTerms s) := by
  unfold State.evalTerms
  repeat' first
    | with_reducible assumption
    | with_reducible exact w2 _
    | with_reducible exact w3 _
    | with_reducible exact w4 _
    | with_reducible apply Closed.each hP
    | with_reducible apply Closed.runTerm hP
    | with_reducible apply Closed.keepLevels hP
    | with_reducible apply Closed.histRef hP
    | with_reducible apply hP.modTrig
    | intro _
    | split
    | dsimp only
    | dsimp only [id]

theorem decideThrough (hP : Closed W P) (qs : List Nat) (upTo : Nat) (x2 : Nat) {x3 : State}
    (w1 : ∀ x1', W (.seq x1')) (w2 : ∀ x1', W (.stream x1')) (w3 : ∀ x1', W (.ival x1')) (w4 : ∀ x1', W (.tout x1'))
    (w5 : ∀ x1', W (.cmp x1')) (w6 : W .weaver) (w7 : W (.queue 1)) (w8 : W .station) (w9 : ∀ x1', W (.sched x1'))
    (w10 : ∀ x1', W (.hist x1')) (w11 : W .drawn) (w12 : W .ledger) (w13 : ∀ x1', W (.box x1'))
    (w14 : ∀ x1' x2', W (.reg (SQ_TMR_LO x1' x2'))) (w15 : ∀ x1' x2', W (.reg (SQ_TMR_HI x1' x2')))
    (w16 : ∀ x1', W (.reg (SQ_DEAD_LO x1'))) (w17 : ∀ x1', W (.reg (SQ_DEAD_LO x1' + 4)))
    (w18 : ∀ x1', W (.reg (SQ_MISSED x1'))) (w19 : ∀ x1', W (.reg (SQ_STATUS x1')))
    (w20 : ∀ x1', W (.reg (SQ_FOLDED x1'))) (w21 : ∀ x1', W (.reg (SQ_MARKS x1')))
    (w22 : ∀ x1' x2', W (.reg (SQ_CNT_LO x1' x2'))) (w23 : ∀ x1' x2', W (.reg (SQ_CNT_LO x1' x2' + 4)))
    (w24 : ∀ x1', W (.reg (CU x1' 44))) (w25 : ∀ x1', W (.reg (CU x1' 12))) (w26 : W (.reg (HUB_Q 1 16)))
    (w27 : W (.reg (HUB_Q 1 24))) (w28 : W (.reg (HUB_Q 1 20))) (w29 : ∀ x1', W (.reg (CU x1' 28)))
    (w30 : ∀ x1', W (.reg (CU x1' 32))) (w31 : ∀ x1', W (.reg (CU x1' 16))) (w32 : ∀ x1', W (.reg (CU x1' 16 + 4)))
    (w33 : ∀ x1', W (.reg (CU x1' 24))) (w34 : ∀ x1', W (.reg (CU x1' 36)))
    (w35 : ∀ x1' x2' x3', W (.reg (HU_RG x1' x2' x3'))) (w36 : W (.reg LG_REFUSED)) (h : P x3) :
    P (State.decideThrough qs upTo x2 x3) := by
  induction x2 generalizing qs upTo x3 with
  | zero =>
    unfold State.decideThrough
    repeat' first
      | with_reducible assumption
      | with_reducible exact w1 _
      | with_reducible exact w2 _
      | with_reducible exact w3 _
      | with_reducible exact w4 _
      | with_reducible exact w5 _
      | with_reducible exact w9 _
      | with_reducible exact w10 _
      | with_reducible exact w13 _
      | with_reducible exact w14 _ _
      | with_reducible exact w15 _ _
      | with_reducible exact w16 _
      | with_reducible exact w17 _
      | with_reducible exact w18 _
      | with_reducible exact w19 _
      | with_reducible exact w20 _
      | with_reducible exact w21 _
      | with_reducible exact w22 _ _
      | with_reducible exact w23 _ _
      | with_reducible exact w24 _
      | with_reducible exact w25 _
      | with_reducible exact w29 _
      | with_reducible exact w30 _
      | with_reducible exact w31 _
      | with_reducible exact w32 _
      | with_reducible exact w33 _
      | with_reducible exact w34 _
      | with_reducible exact w35 _ _ _
      | with_reducible apply Closed.each hP
      | with_reducible apply Closed.decideNext hP
      | intro _
      | split
      | dsimp only
      | dsimp only [id]
  | succ fuel ih =>
    unfold State.decideThrough
    repeat' first
      | with_reducible apply ih
      | with_reducible assumption
      | with_reducible exact w1 _
      | with_reducible exact w2 _
      | with_reducible exact w3 _
      | with_reducible exact w4 _
      | with_reducible exact w5 _
      | with_reducible exact w9 _
      | with_reducible exact w10 _
      | with_reducible exact w13 _
      | with_reducible exact w14 _ _
      | with_reducible exact w15 _ _
      | with_reducible exact w16 _
      | with_reducible exact w17 _
      | with_reducible exact w18 _
      | with_reducible exact w19 _
      | with_reducible exact w20 _
      | with_reducible exact w21 _
      | with_reducible exact w22 _ _
      | with_reducible exact w23 _ _
      | with_reducible exact w24 _
      | with_reducible exact w25 _
      | with_reducible exact w29 _
      | with_reducible exact w30 _
      | with_reducible exact w31 _
      | with_reducible exact w32 _
      | with_reducible exact w33 _
      | with_reducible exact w34 _
      | with_reducible exact w35 _ _ _
      | with_reducible apply Closed.each hP
      | with_reducible apply Closed.decideNext hP
      | intro _
      | split
      | dsimp only
      | dsimp only [id]

theorem endSequencers (hP : Closed W P) {s : State} (w1 : W .trig) (w2 : ∀ x1', W (.port x1'))
    (w3 : ∀ x1', W (.hist x1')) (w4 : ∀ x1', W (.seq x1')) (w5 : ∀ x1', W (.stream x1')) (w6 : ∀ x1', W (.ival x1'))
    (w7 : ∀ x1', W (.tout x1')) (w8 : ∀ x1', W (.cmp x1')) (w9 : W .weaver) (w10 : W (.queue 1)) (w11 : W .station)
    (w12 : ∀ x1', W (.sched x1')) (w13 : W .drawn) (w14 : W .ledger) (w15 : ∀ x1', W (.box x1'))
    (w16 : ∀ a, W (.reg a)) (h : P s) :
    P (State.endSequencers s) := by
  unfold State.endSequencers
  repeat' first
    | with_reducible assumption
    | with_reducible exact w2 _
    | with_reducible exact w3 _
    | with_reducible exact w4 _
    | with_reducible exact w5 _
    | with_reducible exact w6 _
    | with_reducible exact w7 _
    | with_reducible exact w8 _
    | with_reducible exact w12 _
    | with_reducible exact w15 _
    | with_reducible exact w16 _
    | with_reducible apply Closed.each hP
    | with_reducible apply Closed.evalTerms hP
    | with_reducible apply Closed.decideThrough hP
    | with_reducible apply Closed.summaryMark hP
    | with_reducible apply Closed.dropForced hP
    | with_reducible apply Closed.setRegF hP
    | intro _
    | split
    | dsimp only
    | dsimp only [id]

theorem routePacket (hP : Closed W P) {s : State} (ws : List Half) (t : Time) (w1 : ∀ x1', W (.stream x1'))
    (w2 : ∀ x1', W (.sched x1')) (w3 : ∀ x1', W (.cmp x1')) (w4 : W .weaver) (w5 : W (.reg STN_ERR)) (h : P s) :
    P (State.routePacket s ws t) := by
  unfold State.routePacket
  repeat' first
    | with_reducible assumption
    | with_reducible exact w1 _
    | with_reducible exact w2 _
    | with_reducible exact w3 _
    | with_reducible apply Closed.each hP
    | with_reducible apply Closed.writeRecs hP
    | with_reducible apply Closed.queueAnchor hP
    | with_reducible apply Closed.incReg hP
    | intro _
    | split
    | dsimp only
    | dsimp only [id]

theorem routeNext (hP : Closed W P) {s : State} (w1 : W (.queue 0)) (w2 : W .station) (w3 : ∀ x1', W (.stream x1'))
    (w4 : ∀ x1', W (.sched x1')) (w5 : ∀ x1', W (.cmp x1')) (w6 : W .weaver) (w7 : W (.reg (HUB_Q 0 16)))
    (w8 : W (.reg (HUB_Q 0 24))) (w9 : W (.reg (HUB_Q 0 20))) (w10 : W (.reg STN_ERR))
    (w11 : W (.reg STN_DISCARDED)) (h : P s) :
    P (State.routeNext s) := by
  unfold State.routeNext
  repeat' first
    | with_reducible assumption
    | with_reducible exact w3 _
    | with_reducible exact w4 _
    | with_reducible exact w5 _
    | with_reducible apply Closed.settleQueue hP
    | with_reducible apply Closed.routePacket hP
    | with_reducible apply Closed.incReg hP
    | intro _
    | split
    | dsimp only
    | dsimp only [id]

theorem routeWaiting (hP : Closed W P) {s : State} (w1 : W (.queue 0)) (w2 : W .station)
    (w3 : ∀ x1', W (.stream x1')) (w4 : ∀ x1', W (.sched x1')) (w5 : ∀ x1', W (.cmp x1')) (w6 : W .weaver)
    (w7 : W (.reg (HUB_Q 0 16))) (w8 : W (.reg (HUB_Q 0 24))) (w9 : W (.reg (HUB_Q 0 20))) (w10 : W (.reg STN_ERR))
    (w11 : W (.reg STN_DISCARDED)) (h : P s) :
    P (State.routeWaiting s) := by
  unfold State.routeWaiting
  repeat' first
    | with_reducible assumption
    | with_reducible exact w3 _
    | with_reducible exact w4 _
    | with_reducible exact w5 _
    | with_reducible apply Closed.each hP
    | with_reducible apply Closed.routeNext hP
    | intro _
    | split
    | dsimp only
    | dsimp only [id]

theorem shedAnchor (hP : Closed W P) {s : State} (j : Nat) (x2 : HeldJob) (src : AnchorSrc) (w1 : W (.queue 1))
    (w2 : W .station) (w3 : ∀ x1', W (.stream x1')) (w4 : ∀ x1', W (.sched x1')) (w5 : W .weaver)
    (w6 : ∀ x1', W (.reg (CU x1' 44))) (w7 : W (.reg (HUB_Q 1 16))) (w8 : W (.reg (HUB_Q 1 24)))
    (w9 : W (.reg (HUB_Q 1 20))) (w10 : ∀ x1', W (.reg (CU x1' 12))) (w11 : ∀ x1', W (.reg (CU x1' 28)))
    (w12 : ∀ x1', W (.reg (CU x1' 32))) (h : P s) :
    P (State.shedAnchor s j x2 src) := by
  unfold State.shedAnchor
  repeat' first
    | with_reducible assumption
    | with_reducible exact w3 _
    | with_reducible exact w4 _
    | with_reducible exact w6 _
    | with_reducible exact w10 _
    | with_reducible exact w11 _
    | with_reducible exact w12 _
    | with_reducible apply Closed.incReg hP
    | with_reducible apply Closed.issueVerdictOf hP
    | with_reducible apply hP.modWeaver
    | intro _
    | split
    | dsimp only
    | dsimp only [id]

theorem takeShed (hP : Closed W P) {s : State} (cu : Nat) (src : AnchorSrc) (w1 : W .weaver) (w2 : W (.queue 1))
    (w3 : W .station) (w4 : ∀ x1', W (.stream x1')) (w5 : ∀ x1', W (.sched x1')) (w6 : ∀ x1', W (.reg (CU x1' 44)))
    (w7 : W (.reg (HUB_Q 1 16))) (w8 : W (.reg (HUB_Q 1 24))) (w9 : W (.reg (HUB_Q 1 20)))
    (w10 : ∀ x1', W (.reg (CU x1' 12))) (w11 : ∀ x1', W (.reg (CU x1' 28))) (w12 : ∀ x1', W (.reg (CU x1' 32)))
    (h : P s) :
    P (State.takeShed s cu src) := by
  unfold State.takeShed
  repeat' first
    | with_reducible assumption
    | with_reducible exact w4 _
    | with_reducible exact w5 _
    | with_reducible exact w6 _
    | with_reducible exact w10 _
    | with_reducible exact w11 _
    | with_reducible exact w12 _
    | with_reducible apply Closed.shedAnchor hP
    | with_reducible apply hP.modWeaver
    | intro _
    | split
    | dsimp only
    | dsimp only [id]

theorem takeAllShed (hP : Closed W P) {s : State} (w1 : W .weaver) (w2 : W (.queue 1)) (w3 : W .station)
    (w4 : ∀ x1', W (.stream x1')) (w5 : ∀ x1', W (.sched x1')) (w6 : ∀ x1', W (.reg (CU x1' 44)))
    (w7 : W (.reg (HUB_Q 1 16))) (w8 : W (.reg (HUB_Q 1 24))) (w9 : W (.reg (HUB_Q 1 20)))
    (w10 : ∀ x1', W (.reg (CU x1' 12))) (w11 : ∀ x1', W (.reg (CU x1' 28))) (w12 : ∀ x1', W (.reg (CU x1' 32)))
    (h : P s) :
    P (State.takeAllShed s) := by
  unfold State.takeAllShed
  repeat' first
    | with_reducible assumption
    | with_reducible exact w4 _
    | with_reducible exact w5 _
    | with_reducible exact w6 _
    | with_reducible exact w10 _
    | with_reducible exact w11 _
    | with_reducible exact w12 _
    | with_reducible apply Closed.each hP
    | with_reducible apply Closed.takeShed hP
    | intro _
    | split
    | dsimp only
    | dsimp only [id]

theorem closeBlock (hP : Closed W P) {s : State} (n : Nat) (t : Time) (w1 : W (.lane n))
    (w2 : ∀ x1', W (.queue (stakeQ x1'))) (w3 : ∀ x1', W (.stream x1')) (w4 : ∀ x1', W (.sched x1')) (h : P s) :
    P (State.closeBlock s n t) := by
  unfold State.closeBlock
  repeat' first
    | with_reducible assumption
    | with_reducible exact w2 _
    | with_reducible exact w3 _
    | with_reducible exact w4 _
    | with_reducible apply Closed.closeBlocks hP
    | intro _
    | split
    | dsimp only
    | dsimp only [id]

theorem closeStreamBlocks (hP : Closed W P) {s : State} (i : Nat) (t : Time) (w1 : ∀ x1', W (.lane x1'))
    (w2 : ∀ x1', W (.queue (stakeQ x1'))) (w3 : ∀ x1', W (.stream x1')) (w4 : ∀ x1', W (.sched x1')) (h : P s) :
    P (State.closeStreamBlocks s i t) := by
  unfold State.closeStreamBlocks
  repeat' first
    | with_reducible assumption
    | with_reducible exact w1 _
    | with_reducible exact w2 _
    | with_reducible exact w3 _
    | with_reducible exact w4 _
    | with_reducible apply Closed.each hP
    | with_reducible apply Closed.closeBlock hP
    | intro _
    | split
    | dsimp only
    | dsimp only [id]

theorem roomFor (hP : Closed W P) {s : State} (i : Nat) (r : Rec) (w1 : W (.stream i)) (w2 : ∀ x1', W (.sched x1'))
    (h : P s) :
    P (State.roomFor s i r) := by
  unfold State.roomFor
  repeat' first
    | with_reducible assumption
    | with_reducible exact w2 _
    | with_reducible apply Closed.modStream hP
    | with_reducible apply Closed.closeSegment hP
    | intro _
    | split
    | dsimp only
    | dsimp only [id]

theorem putMark (hP : Closed W P) {s : State} (i : Nat) (r : Rec) (summary : Bool) (w1 : W (.stream i))
    (w2 : ∀ x1', W (.sched x1')) (h : P s) :
    P (State.putMark s i r summary) := by
  unfold State.putMark
  repeat' first
    | with_reducible assumption
    | with_reducible exact w2 _
    | with_reducible apply Closed.closeSegment hP
    | with_reducible apply hP.setStream
    | intro _
    | split
    | dsimp only
    | dsimp only [id]

theorem writeMark (hP : Closed W P) {s : State} (i : Nat) (m : Mark) (w1 : ∀ x1', W (.sched x1'))
    (w2 : ∀ x1', W (.lane x1')) (w3 : ∀ x1', W (.queue (stakeQ x1'))) (w4 : ∀ x1', W (.stream x1')) (h : P s) :
    P (State.writeMark s i m) := by
  unfold State.writeMark
  repeat' first
    | with_reducible assumption
    | with_reducible exact w1 _
    | with_reducible exact w2 _
    | with_reducible exact w3 _
    | with_reducible exact w4 _
    | with_reducible apply Closed.writeRec hP
    | with_reducible apply Closed.closeStreamBlocks hP
    | with_reducible apply Closed.roomFor hP
    | with_reducible apply Closed.putMark hP
    | intro _
    | split
    | dsimp only
    | dsimp only [id]

theorem writeMarks (hP : Closed W P) {s : State} (i : Nat) (w1 : ∀ x1', W (.sched x1')) (w2 : ∀ x1', W (.lane x1'))
    (w3 : ∀ x1', W (.queue (stakeQ x1'))) (w4 : ∀ x1', W (.stream x1')) (h : P s) :
    P (State.writeMarks s i) := by
  unfold State.writeMarks
  repeat' first
    | with_reducible assumption
    | with_reducible exact w1 _
    | with_reducible exact w2 _
    | with_reducible exact w3 _
    | with_reducible exact w4 _
    | with_reducible apply Closed.each hP
    | with_reducible apply Closed.writeMark hP
    | with_reducible apply Closed.modStream hP
    | intro _
    | split
    | dsimp only
    | dsimp only [id]

theorem closeStream (hP : Closed W P) {s : State} (i : Nat) (w1 : ∀ x1', W (.sched x1')) (w2 : ∀ x1', W (.lane x1'))
    (w3 : ∀ x1', W (.queue (stakeQ x1'))) (w4 : ∀ x1', W (.stream x1')) (h : P s) :
    P (State.closeStream s i) := by
  unfold State.closeStream
  repeat' first
    | with_reducible assumption
    | with_reducible exact w1 _
    | with_reducible exact w2 _
    | with_reducible exact w3 _
    | with_reducible exact w4 _
    | with_reducible apply Closed.writeMarks hP
    | with_reducible apply Closed.modStream hP
    | with_reducible apply Closed.closeSegment hP
    | intro _
    | split
    | dsimp only
    | dsimp only [id]

theorem addReg64 (hP : Closed W P) {s : State} (a : Nat) (n : Nat) (w1 : W (.reg a)) (w2 : W (.reg (a + 4)))
    (h : P s) :
    P (State.addReg64 s a n) := by
  unfold State.addReg64
  repeat' first
    | with_reducible assumption
    | with_reducible apply Closed.setReg64 hP
    | intro _
    | split
    | dsimp only
    | dsimp only [id]

theorem countOut (hP : Closed W P) {s : State} (i : Nat) (bytes : Nat) (stored : Nat)
    (w1 : ∀ x1', W (.reg (CE x1' 12))) (w2 : ∀ x1', W (.reg (CE x1' 12 + 4))) (w3 : ∀ x1', W (.reg (CE x1' 20)))
    (h : P s) :
    P (State.countOut s i bytes stored) := by
  unfold State.countOut
  repeat' first
    | with_reducible assumption
    | with_reducible exact w1 _
    | with_reducible exact w2 _
    | with_reducible exact w3 _
    | with_reducible apply Closed.addReg hP
    | with_reducible apply Closed.addReg64 hP
    | intro _
    | split
    | dsimp only
    | dsimp only [id]

theorem endMember (hP : Closed W P) {s : State} (i : Nat) (w1 : W (.stream i)) (w2 : ∀ x1', W (.reg (CE x1' 12)))
    (w3 : ∀ x1', W (.reg (CE x1' 12 + 4))) (w4 : ∀ x1', W (.reg (CE x1' 20))) (h : P s) :
    P (State.endMember s i) := by
  unfold State.endMember
  repeat' first
    | with_reducible assumption
    | with_reducible exact w2 _
    | with_reducible exact w3 _
    | with_reducible exact w4 _
    | with_reducible apply Closed.countOut hP
    | with_reducible apply hP.setStream
    | intro _
    | split
    | dsimp only
    | dsimp only [id]

theorem countSlots (hP : Closed W P) {s : State} (e : Nat) (w1 : W (.reg (CE e 0))) (h : P s) :
    P (State.countSlots s e) := by
  unfold State.countSlots
  repeat' first
    | with_reducible assumption
    | with_reducible apply Closed.setRegF hP
    | intro _
    | split
    | dsimp only
    | dsimp only [id]

theorem freeSlot (hP : Closed W P) {s : State} (i : Nat) (w1 : ∀ x1' x2', W (.reg (CE_SLOT x1' x2')))
    (w2 : ∀ x1', W (.reg (CE x1' 0))) (h : P s) :
    P (State.freeSlot s i) := by
  unfold State.freeSlot
  repeat' first
    | with_reducible assumption
    | with_reducible exact w1 _ _
    | with_reducible exact w2 _
    | with_reducible apply Closed.countSlots hP
    | with_reducible apply hP.setReg
    | intro _
    | split
    | dsimp only
    | dsimp only [id]

theorem passBinds (hP : Closed W P) {s : State} (i : Nat) (w1 : W (.stream i)) (w2 : ∀ x1', W (.reg (CE x1' 12)))
    (w3 : ∀ x1', W (.reg (CE x1' 12 + 4))) (w4 : ∀ x1', W (.reg (CE x1' 20)))
    (w5 : ∀ x1' x2', W (.reg (CE_SLOT x1' x2'))) (w6 : ∀ x1', W (.reg (CE x1' 0))) (h : P s) :
    P (State.passBinds s i) := by
  unfold State.passBinds
  repeat' first
    | with_reducible assumption
    | with_reducible exact w2 _
    | with_reducible exact w3 _
    | with_reducible exact w4 _
    | with_reducible exact w5 _ _
    | with_reducible exact w6 _
    | with_reducible apply Closed.modStream hP
    | with_reducible apply Closed.endMember hP
    | with_reducible apply Closed.freeSlot hP
    | intro _
    | split
    | dsimp only
    | dsimp only [id]

theorem dmaWrite (hP : Closed W P) {s : State} (addr : Nat) (bytes : List Byte) (relaxed : Bool) (w1 : W .pcie)
    (h : P s) :
    P (State.dmaWrite s addr bytes relaxed) := by
  unfold State.dmaWrite
  repeat' first
    | with_reducible assumption
    | with_reducible apply Closed.emit hP
    | intro _
    | split
    | dsimp only
    | dsimp only [id]

theorem writeCompletion (hP : Closed W P) {s : State} (i : Nat) (bufId : Half) (flags : Nat) (bytes : Nat)
    (first : Nat) (starts : Nat) (w1 : W .pcie) (w2 : W (.stream i)) (h : P s) :
    P (State.writeCompletion s i bufId flags bytes first starts) := by
  unfold State.writeCompletion
  repeat' first
    | with_reducible assumption
    | with_reducible apply Closed.modStream hP
    | with_reducible apply Closed.dmaWrite hP
    | intro _
    | split
    | dsimp only
    | dsimp only [id]

theorem msix (hP : Closed W P) {s : State} (v : Nat) (w1 : W .pcie) (h : P s) :
    P (State.msix s v) := by
  unfold State.msix
  repeat' first
    | with_reducible assumption
    | with_reducible apply Closed.emit hP
    | with_reducible apply hP.modPcie
    | intro _
    | split
    | dsimp only
    | dsimp only [id]

theorem signalStream (hP : Closed W P) {s : State} (i : Nat) (w1 : W .pcie) (h : P s) :
    P (State.signalStream s i) := by
  unfold State.signalStream
  repeat' first
    | with_reducible assumption
    | with_reducible apply Closed.msix hP
    | intro _
    | split
    | dsimp only
    | dsimp only [id]

theorem completeWithoutData (hP : Closed W P) {s : State} (i : Nat) (d : Desc) (w1 : W .pcie) (w2 : W (.stream i))
    (h : P s) :
    P (State.completeWithoutData s i d) := by
  unfold State.completeWithoutData
  repeat' first
    | with_reducible assumption
    | with_reducible apply Closed.writeCompletion hP
    | with_reducible apply Closed.signalStream hP
    | intro _
    | split
    | dsimp only
    | dsimp only [id]

theorem completeBad (hP : Closed W P) (i : Nat) (x1 : Nat) {x2 : State} (w1 : W (.stream i)) (w2 : W .pcie)
    (h : P x2) :
    P (State.completeBad i x1 x2) := by
  induction x1 generalizing i x2 with
  | zero =>
    unfold State.completeBad
    repeat' first
      | with_reducible assumption
      | with_reducible apply Closed.completeWithoutData hP
      | with_reducible apply Closed.modStream hP
      | intro _
      | split
      | dsimp only
      | dsimp only [id]
  | succ fuel ih =>
    unfold State.completeBad
    repeat' first
      | with_reducible apply ih
      | with_reducible assumption
      | with_reducible apply Closed.completeWithoutData hP
      | with_reducible apply Closed.modStream hP
      | intro _
      | split
      | dsimp only
      | dsimp only [id]

theorem noticeMark (hP : Closed W P) {s : State} (stream : Nat) (seg : Nat) (time : Nat) (w1 : W (.queue 2))
    (w2 : W .station) (w3 : W .mbx) (w4 : W (.reg (HUB_Q 2 16))) (w5 : W (.reg (HUB_Q 2 24)))
    (w6 : W (.reg (HUB_Q 2 20))) (w7 : W (.reg MB_NTF_NSEQ)) (h : P s) :
    P (State.noticeMark s stream seg time) := by
  unfold State.noticeMark
  repeat' first
    | with_reducible assumption
    | with_reducible apply Closed.notice hP
    | intro _
    | split
    | dsimp only
    | dsimp only [id]

theorem completeBuffer (hP : Closed W P) {s : State} (i : Nat) (memberEnd : Bool) (memberAbort : Bool)
    (w1 : W .pcie) (w2 : W (.stream i)) (w3 : W (.queue 2)) (w4 : W .station) (w5 : W .mbx)
    (w6 : W (.reg (HUB_Q 2 16))) (w7 : W (.reg (HUB_Q 2 24))) (w8 : W (.reg (HUB_Q 2 20)))
    (w9 : W (.reg MB_NTF_NSEQ)) (h : P s) :
    P (State.completeBuffer s i memberEnd memberAbort) := by
  unfold State.completeBuffer
  repeat' first
    | with_reducible assumption
    | with_reducible apply Closed.writeCompletion hP
    | with_reducible apply Closed.modStream hP
    | with_reducible apply Closed.msix hP
    | with_reducible apply Closed.noticeMark hP
    | intro _
    | split
    | dsimp only
    | dsimp only [id]

theorem askSegment (hP : Closed W P) {s : State} (i : Nat) (g : Segment) (w1 : ∀ x1', W (.sched x1'))
    (w2 : W (.stream i)) (h : P s) :
    P (State.askSegment s i g) := by
  unfold State.askSegment
  repeat' first
    | with_reducible assumption
    | with_reducible exact w1 _
    | with_reducible apply Closed.modStream hP
    | with_reducible apply Closed.askRead hP
    | intro _
    | split
    | dsimp only
    | dsimp only [id]

theorem fillBytes (hP : Closed W P) {s : State} (i : Nat) (bytes : List Byte) (c : OutChunk) (starts : Nat)
    (w1 : W .pcie) (w2 : W (.stream i)) (h : P s) :
    P (State.fillBytes s i bytes c starts) := by
  unfold State.fillBytes
  repeat' first
    | with_reducible assumption
    | with_reducible apply Closed.dmaWrite hP
    | with_reducible apply Closed.modStream hP
    | intro _
    | split
    | dsimp only
    | dsimp only [id]

theorem deliverOne (hP : Closed W P) {s : State} (i : Nat) (w1 : W (.stream i)) (w2 : W .pcie) (w3 : W (.queue 2))
    (w4 : W .station) (w5 : W .mbx) (w6 : ∀ x1', W (.sched x1')) (w7 : ∀ x1', W (.reg (CE x1' 12)))
    (w8 : ∀ x1', W (.reg (CE x1' 12 + 4))) (w9 : ∀ x1', W (.reg (CE x1' 20)))
    (w10 : ∀ x1' x2', W (.reg (CE_SLOT x1' x2'))) (w11 : ∀ x1', W (.reg (CE x1' 0))) (w12 : W (.reg (HUB_Q 2 16)))
    (w13 : W (.reg (HUB_Q 2 24))) (w14 : W (.reg (HUB_Q 2 20))) (w15 : W (.reg MB_NTF_NSEQ)) (h : P s) :
    P ((State.deliverOne s i).1) := by
  unfold State.deliverOne
  repeat' first
    | with_reducible assumption
    | with_reducible exact w6 _
    | with_reducible exact w7 _
    | with_reducible exact w8 _
    | with_reducible exact w9 _
    | with_reducible exact w10 _ _
    | with_reducible exact w11 _
    | with_reducible apply Closed.passBinds hP
    | with_reducible apply Closed.completeBad hP
    | with_reducible apply Closed.completeBuffer hP
    | with_reducible apply Closed.skipOutside hP
    | with_reducible apply Closed.askSegment hP
    | with_reducible apply Closed.takeSegment hP
    | with_reducible apply Closed.fillBytes hP
    | with_reducible apply Closed.modStream hP
    | intro _
    | split
    | dsimp only
    | dsimp only [id]

theorem deliverLoop (hP : Closed W P) (i : Nat) (x1 : Nat) {x2 : State} (w1 : W (.stream i)) (w2 : W .pcie)
    (w3 : W (.queue 2)) (w4 : W .station) (w5 : W .mbx) (w6 : ∀ x1', W (.sched x1'))
    (w7 : ∀ x1', W (.reg (CE x1' 12))) (w8 : ∀ x1', W (.reg (CE x1' 12 + 4))) (w9 : ∀ x1', W (.reg (CE x1' 20)))
    (w10 : ∀ x1' x2', W (.reg (CE_SLOT x1' x2'))) (w11 : ∀ x1', W (.reg (CE x1' 0))) (w12 : W (.reg (HUB_Q 2 16)))
    (w13 : W (.reg (HUB_Q 2 24))) (w14 : W (.reg (HUB_Q 2 20))) (w15 : W (.reg MB_NTF_NSEQ)) (h : P x2) :
    P (State.deliverLoop i x1 x2) := by
  induction x1 generalizing i x2 with
  | zero =>
    unfold State.deliverLoop
    repeat' first
      | with_reducible assumption
      | with_reducible exact w6 _
      | with_reducible exact w7 _
      | with_reducible exact w8 _
      | with_reducible exact w9 _
      | with_reducible exact w10 _ _
      | with_reducible exact w11 _
      | with_reducible apply Closed.deliverOne hP
      | intro _
      | split
      | dsimp only
      | dsimp only [id]
  | succ fuel ih =>
    unfold State.deliverLoop
    repeat' first
      | with_reducible apply ih
      | with_reducible assumption
      | with_reducible exact w6 _
      | with_reducible exact w7 _
      | with_reducible exact w8 _
      | with_reducible exact w9 _
      | with_reducible exact w10 _ _
      | with_reducible exact w11 _
      | with_reducible apply Closed.deliverOne hP
      | intro _
      | split
      | dsimp only
      | dsimp only [id]

theorem deliver (hP : Closed W P) {s : State} (i : Nat) (w1 : W (.stream i)) (w2 : W .pcie) (w3 : W (.queue 2))
    (w4 : W .station) (w5 : W .mbx) (w6 : ∀ x1', W (.sched x1')) (w7 : ∀ x1', W (.reg (CE x1' 12)))
    (w8 : ∀ x1', W (.reg (CE x1' 12 + 4))) (w9 : ∀ x1', W (.reg (CE x1' 20)))
    (w10 : ∀ x1' x2', W (.reg (CE_SLOT x1' x2'))) (w11 : ∀ x1', W (.reg (CE x1' 0))) (w12 : W (.reg (HUB_Q 2 16)))
    (w13 : W (.reg (HUB_Q 2 24))) (w14 : W (.reg (HUB_Q 2 20))) (w15 : W (.reg MB_NTF_NSEQ)) (h : P s) :
    P (State.deliver s i) := by
  unfold State.deliver
  repeat' first
    | with_reducible assumption
    | with_reducible exact w6 _
    | with_reducible exact w7 _
    | with_reducible exact w8 _
    | with_reducible exact w9 _
    | with_reducible exact w10 _ _
    | with_reducible exact w11 _
    | with_reducible apply Closed.deliverLoop hP
    | intro _
    | split
    | dsimp only
    | dsimp only [id]

theorem disarm (hP : Closed W P) {s : State} (w1 : W .time) (w2 : W (.queue 0)) (w3 : W .station)
    (w4 : ∀ x1', W (.stream x1')) (w5 : ∀ x1', W (.sched x1')) (w6 : ∀ x1', W (.cmp x1')) (w7 : W .weaver)
    (w8 : W .trig) (w9 : ∀ x1', W (.port x1')) (w10 : ∀ x1', W (.hist x1')) (w11 : ∀ x1', W (.seq x1'))
    (w12 : ∀ x1', W (.ival x1')) (w13 : ∀ x1', W (.tout x1')) (w14 : W (.queue 1)) (w15 : W .drawn)
    (w16 : W .ledger) (w17 : ∀ x1', W (.box x1')) (w18 : ∀ x1', W (.lane x1'))
    (w19 : ∀ x1', W (.queue (stakeQ x1'))) (w20 : W .pcie) (w21 : W (.queue 2)) (w22 : W .mbx)
    (w23 : ∀ a, W (.reg a)) (h : P s) :
    P (State.disarm s) := by
  unfold State.disarm
  repeat' first
    | with_reducible assumption
    | with_reducible exact w4 _
    | with_reducible exact w5 _
    | with_reducible exact w6 _
    | with_reducible exact w9 _
    | with_reducible exact w10 _
    | with_reducible exact w11 _
    | with_reducible exact w12 _
    | with_reducible exact w13 _
    | with_reducible exact w17 _
    | with_reducible exact w18 _
    | with_reducible exact w19 _
    | with_reducible exact w23 _
    | with_reducible apply Closed.each hP
    | with_reducible apply Closed.setRegBit hP
    | with_reducible apply Closed.endSequencers hP
    | with_reducible apply Closed.routeWaiting hP
    | with_reducible apply Closed.takeAllShed hP
    | with_reducible apply Closed.endCompare hP
    | with_reducible apply Closed.ivStop hP
    | with_reducible apply Closed.endBlock hP
    | with_reducible apply Closed.closeBurst hP
    | with_reducible apply Closed.flushLevel hP
    | with_reducible apply Closed.histAutoSwap hP
    | with_reducible apply Closed.closeStream hP
    | with_reducible apply Closed.keepLevels hP
    | with_reducible apply Closed.enterState hP
    | with_reducible apply Closed.deliver hP
    | with_reducible apply hP.modTrig
    | with_reducible apply hP.modTime
    | intro _
    | split
    | dsimp only
    | dsimp only [id]

theorem faultCommands (hP : Closed W P) {s : State} (cls : Nat) (w1 : ∀ x1', W (.box x1')) (h : P s) :
    P (State.faultCommands s cls) := by
  unfold State.faultCommands
  repeat' first
    | with_reducible assumption
    | with_reducible exact w1 _
    | with_reducible apply Closed.each hP
    | with_reducible apply Closed.respond hP
    | intro _
    | split
    | dsimp only
    | dsimp only [id]

theorem stopDevice (hP : Closed W P) {s : State} (u : Word) (cls : Nat) (w1 : W .ledger) (w2 : ∀ x1', W (.box x1'))
    (w3 : W .time) (w4 : W (.queue 0)) (w5 : W .station) (w6 : ∀ x1', W (.stream x1')) (w7 : ∀ x1', W (.sched x1'))
    (w8 : ∀ x1', W (.cmp x1')) (w9 : W .weaver) (w10 : W .trig) (w11 : ∀ x1', W (.port x1'))
    (w12 : ∀ x1', W (.hist x1')) (w13 : ∀ x1', W (.seq x1')) (w14 : ∀ x1', W (.ival x1'))
    (w15 : ∀ x1', W (.tout x1')) (w16 : W (.queue 1)) (w17 : W .drawn) (w18 : ∀ x1', W (.lane x1'))
    (w19 : ∀ x1', W (.queue (stakeQ x1'))) (w20 : W .pcie) (w21 : W (.queue 2)) (w22 : W .mbx)
    (w23 : ∀ a, W (.reg a)) (h : P s) :
    P (State.stopDevice s u cls) := by
  unfold State.stopDevice
  repeat' first
    | with_reducible assumption
    | with_reducible exact w2 _
    | with_reducible exact w6 _
    | with_reducible exact w7 _
    | with_reducible exact w8 _
    | with_reducible exact w11 _
    | with_reducible exact w12 _
    | with_reducible exact w13 _
    | with_reducible exact w14 _
    | with_reducible exact w15 _
    | with_reducible exact w18 _
    | with_reducible exact w19 _
    | with_reducible exact w23 _
    | with_reducible apply Closed.ledgerReq hP
    | with_reducible apply Closed.enterState hP
    | with_reducible apply Closed.disarm hP
    | with_reducible apply Closed.faultCommands hP
    | intro _
    | split
    | dsimp only
    | dsimp only [id]

theorem recordNotices (hP : Closed W P) {s : State} (r : LedgerRec) (w1 : W (.queue 2)) (w2 : W .station)
    (w3 : W .mbx) (w4 : W (.reg (HUB_Q 2 16))) (w5 : W (.reg (HUB_Q 2 24))) (w6 : W (.reg (HUB_Q 2 20)))
    (w7 : W (.reg MB_NTF_NSEQ)) (h : P s) :
    P (State.recordNotices s r) := by
  unfold State.recordNotices
  repeat' first
    | with_reducible assumption
    | with_reducible apply Closed.each hP
    | with_reducible apply Closed.noticeWords hP
    | intro _
    | split
    | dsimp only
    | dsimp only [id]

theorem enterVolatile (hP : Closed W P) {s : State} (w1 : W (.queue 2)) (w2 : W .station) (w3 : W .mbx)
    (w4 : W (.reg LG_STATUS)) (w5 : W (.reg (HUB_Q 2 16))) (w6 : W (.reg (HUB_Q 2 24))) (w7 : W (.reg (HUB_Q 2 20)))
    (w8 : W (.reg MB_NTF_NSEQ)) (h : P s) :
    P (State.enterVolatile s) := by
  unfold State.enterVolatile
  repeat' first
    | with_reducible assumption
    | with_reducible apply Closed.each hP
    | with_reducible apply Closed.notice hP
    | with_reducible apply Closed.setRegBit hP
    | with_reducible apply Closed.recordNotices hP
    | intro _
    | split
    | dsimp only
    | dsimp only [id]

theorem bankOut (hP : Closed W P) {s : State} (b : Nat) (w1 : W (.queue 2)) (w2 : W .station) (w3 : W .mbx)
    (w4 : W (.reg LG_STATUS)) (w5 : W (.reg (HUB_Q 2 16))) (w6 : W (.reg (HUB_Q 2 24))) (w7 : W (.reg (HUB_Q 2 20)))
    (w8 : W (.reg MB_NTF_NSEQ)) (h : P s) :
    P (State.bankOut s b) := by
  unfold State.bankOut
  repeat' first
    | with_reducible assumption
    | with_reducible apply Closed.setRegBit hP
    | with_reducible apply Closed.notice hP
    | with_reducible apply Closed.enterVolatile hP
    | intro _
    | split
    | dsimp only
    | dsimp only [id]

theorem retireUnit (hP : Closed W P) {s : State} (slice : Word) (cls : Nat) (w1 : W .weaver) (w2 : W .ledger)
    (w3 : W (.queue 2)) (w4 : W .station) (w5 : W .mbx) (w6 : W .pcie) (w7 : ∀ x1', W (.queue (stakeQ x1')))
    (w8 : ∀ x1', W (.stream x1')) (w9 : ∀ x1', W (.sched x1')) (w10 : ∀ x1', W (.lane x1'))
    (w11 : ∀ x1', W (.cmp x1')) (w12 : ∀ x1', W (.ival x1')) (w13 : ∀ x1', W (.box x1')) (w14 : ∀ x1', W (.seq x1'))
    (w15 : W .fw) (w16 : ∀ x1', W (.hist x1')) (w17 : W .drawn) (w18 : W (.queue 1)) (w19 : W .trig)
    (w20 : ∀ x1', W (.port x1')) (w21 : ∀ x1', W (.de x1')) (w22 : ∀ x1', W (.ref x1')) (w23 : W .dram)
    (w24 : ∀ x1', W (.image x1')) (w25 : W .time) (w26 : W (.queue 0)) (w27 : ∀ x1', W (.tout x1'))
    (w28 : ∀ a, W (.reg a)) (h : P s) :
    P (State.retireUnit s slice cls) := by
  unfold State.retireUnit
  repeat' first
    | with_reducible assumption
    | with_reducible exact w7 _
    | with_reducible exact w8 _
    | with_reducible exact w9 _
    | with_reducible exact w10 _
    | with_reducible exact w11 _
    | with_reducible exact w12 _
    | with_reducible exact w13 _
    | with_reducible exact w14 _
    | with_reducible exact w16 _
    | with_reducible exact w20 _
    | with_reducible exact w21 _
    | with_reducible exact w22 _
    | with_reducible exact w24 _
    | with_reducible exact w27 _
    | with_reducible exact w28 _
    | with_reducible apply Closed.each hP
    | with_reducible apply Closed.announceRetired hP
    | with_reducible apply Closed.addRetired hP
    | with_reducible apply Closed.retireLane hP
    | with_reducible apply Closed.dueReplacement hP
    | with_reducible apply Closed.retireSequencer hP
    | with_reducible apply Closed.retireHist hP
    | with_reducible apply Closed.retireCompare hP
    | with_reducible apply Closed.retireInterval hP
    | with_reducible apply Closed.retirePort hP
    | with_reducible apply Closed.retireSegment hP
    | with_reducible apply Closed.retireChannel hP
    | with_reducible apply Closed.abortMembers hP
    | with_reducible apply Closed.stopJob hP
    | with_reducible apply Closed.stopDevice hP
    | with_reducible apply Closed.bankOut hP
    | intro _
    | split
    | dsimp only
    | dsimp only [id]

theorem loseUnit (hP : Closed W P) {s : State} (u : Word) (cls : Nat) (w1 : ∀ x1', W (.lane x1')) (w2 : W .station)
    (w3 : W .pcie) (w4 : ∀ x1', W (.stake x1')) (w5 : W .weaver) (w6 : ∀ x1', W (.queue (stakeQ x1')))
    (w7 : ∀ x1', W (.stream x1')) (w8 : ∀ x1', W (.sched x1')) (w9 : W .ledger) (w10 : ∀ x1', W (.cmp x1'))
    (w11 : ∀ x1', W (.ival x1')) (w12 : W (.queue 2)) (w13 : W .mbx) (w14 : ∀ x1', W (.box x1'))
    (w15 : ∀ x1', W (.seq x1')) (w16 : W .fw) (w17 : ∀ x1', W (.hist x1')) (w18 : W .drawn) (w19 : W (.queue 1))
    (w20 : W .trig) (w21 : ∀ x1', W (.port x1')) (w22 : ∀ x1', W (.de x1')) (w23 : ∀ x1', W (.ref x1'))
    (w24 : W .dram) (w25 : ∀ x1', W (.image x1')) (w26 : W .time) (w27 : W (.queue 0)) (w28 : ∀ x1', W (.tout x1'))
    (w29 : ∀ a, W (.reg a)) (h : P s) :
    P (State.loseUnit s u cls) := by
  unfold State.loseUnit
  repeat' first
    | with_reducible assumption
    | with_reducible exact w1 _
    | with_reducible exact w4 _
    | with_reducible exact w6 _
    | with_reducible exact w7 _
    | with_reducible exact w8 _
    | with_reducible exact w10 _
    | with_reducible exact w11 _
    | with_reducible exact w14 _
    | with_reducible exact w15 _
    | with_reducible exact w17 _
    | with_reducible exact w21 _
    | with_reducible exact w22 _
    | with_reducible exact w23 _
    | with_reducible exact w25 _
    | with_reducible exact w28 _
    | with_reducible exact w29 _
    | with_reducible apply Closed.dacFail hP
    | with_reducible apply Closed.retireUnit hP
    | intro _
    | split
    | dsimp only
    | dsimp only [id]

theorem noticeSelftest (hP : Closed W P) {s : State} (id : Nat) (unit : Word) (result : Nat) (w1 : W (.queue 2))
    (w2 : W .station) (w3 : W .mbx) (w4 : W (.reg (HUB_Q 2 16))) (w5 : W (.reg (HUB_Q 2 24)))
    (w6 : W (.reg (HUB_Q 2 20))) (w7 : W (.reg MB_NTF_NSEQ)) (h : P s) :
    P (State.noticeSelftest s id unit result) := by
  unfold State.noticeSelftest
  repeat' first
    | with_reducible assumption
    | with_reducible apply Closed.notice hP
    | intro _
    | split
    | dsimp only
    | dsimp only [id]

theorem hostResult (hP : Closed W P) {s : State} (u : Word) (result : Nat) (w1 : W (.queue 2)) (w2 : W .station)
    (w3 : W .mbx) (w4 : W .weaver) (w5 : W (.reg (HUB_Q 2 16))) (w6 : W (.reg (HUB_Q 2 24)))
    (w7 : W (.reg (HUB_Q 2 20))) (w8 : W (.reg MB_NTF_NSEQ)) (h : P s) :
    P (State.hostResult s u result) := by
  unfold State.hostResult
  repeat' first
    | with_reducible assumption
    | with_reducible apply Closed.each hP
    | with_reducible apply Closed.noticeSelftest hP
    | with_reducible apply hP.modWeaver
    | intro _
    | split
    | dsimp only
    | dsimp only [id]

theorem ledReturned (hP : Closed W P) {s : State} (unit : Word) (w1 : W .ledger) (h : P s) :
    P (State.ledReturned s unit) := by
  unfold State.ledReturned
  repeat' first
    | with_reducible assumption
    | with_reducible apply Closed.ledgerReq hP
    | intro _
    | split
    | dsimp only
    | dsimp only [id]

theorem returnUnit (hP : Closed W P) {s : State} (u : Word) (w1 : W .weaver) (w2 : W .ledger)
    (w3 : ∀ x1', W (.lane x1')) (w4 : W (.reg HUB_RETIRED)) (w5 : ∀ x1', W (.reg (LN_STATUS x1')))
    (w6 : ∀ x1', W (.reg (HU_STATUS x1'))) (w7 : ∀ x1', W (.reg (PP_STATUS x1')))
    (w8 : ∀ x1', W (.reg (MC_STATUS x1'))) (w9 : W (.reg HUB_GUAR_INGEST)) (w10 : W (.reg HUB_HEALTH)) (h : P s) :
    P (State.returnUnit s u) := by
  unfold State.returnUnit
  repeat' first
    | with_reducible assumption
    | with_reducible exact w3 _
    | with_reducible exact w5 _
    | with_reducible exact w6 _
    | with_reducible exact w7 _
    | with_reducible exact w8 _
    | with_reducible apply Closed.storeMeta hP
    | with_reducible apply Closed.modLane hP
    | with_reducible apply Closed.setRegBit hP
    | with_reducible apply Closed.setMcState hP
    | with_reducible apply Closed.dueReplacement hP
    | with_reducible apply Closed.ledReturned hP
    | with_reducible apply Closed.updateLimits hP
    | with_reducible apply hP.setReg
    | with_reducible apply hP.modWeaver
    | intro _
    | split
    | dsimp only
    | dsimp only [id]

theorem flushQueue (hP : Closed W P) {s : State} (n : Nat) (w1 : W (.queue n)) (w2 : W .station) (w3 : W .mbx)
    (w4 : W (.reg (HUB_Q n 16))) (w5 : W (.reg (HUB_Q n 24))) (w6 : W (.reg (HUB_Q n 20))) (h : P s) :
    P (State.flushQueue s n) := by
  unfold State.flushQueue
  repeat' first
    | with_reducible assumption
    | with_reducible apply Closed.settleQueue hP
    | with_reducible apply hP.modMbx
    | intro _
    | split
    | dsimp only
    | dsimp only [id]
    | rfl

theorem useSpare (hP : Closed W P) {s : State} (k : Nat) (t : Nat) (w1 : W (.stake k)) (w2 : W (.reg (STK_SPARE k)))
    (w3 : ∀ x1', W (.reg (LN_STATUS x1'))) (h : P s) :
    P (State.useSpare s k t) := by
  unfold State.useSpare
  repeat' first
    | with_reducible assumption
    | with_reducible exact w3 _
    | with_reducible apply Closed.setRegBit hP
    | with_reducible apply Closed.modStake hP
    | with_reducible apply hP.setReg
    | intro _
    | split
    | dsimp only
    | dsimp only [id]

theorem nextSpare (hP : Closed W P) {s : State} (k : Nat) (x2 : List Nat) (w1 : W (.stake k))
    (w2 : W (.reg (STK_SPARE k))) (w3 : ∀ x1', W (.reg (LN_STATUS x1'))) (h : P s) :
    P (State.nextSpare s k x2) := by
  induction x2 generalizing s k with
  | nil =>
    unfold State.nextSpare
    repeat' first
      | with_reducible assumption
      | with_reducible exact w3 _
      | with_reducible apply Closed.modStake hP
      | with_reducible apply Closed.useSpare hP
      | intro _
      | split
      | dsimp only
      | dsimp only [id]
  | cons e l ih =>
    unfold State.nextSpare
    repeat' first
      | with_reducible apply ih
      | with_reducible assumption
      | with_reducible exact w3 _
      | with_reducible apply Closed.modStake hP
      | with_reducible apply Closed.useSpare hP
      | intro _
      | split
      | dsimp only
      | dsimp only [id]

theorem dacPass (hP : Closed W P) {s : State} (k : Nat) (w1 : W (.stake k)) (w2 : W (.reg (STK_SPARE k)))
    (w3 : ∀ x1', W (.reg (LN_STATUS x1'))) (h : P s) :
    P (State.dacPass s k) := by
  unfold State.dacPass
  repeat' first
    | with_reducible assumption
    | with_reducible exact w3 _
    | with_reducible apply Closed.setRegBit hP
    | with_reducible apply Closed.modStake hP
    | with_reducible apply Closed.nextSpare hP
    | with_reducible apply hP.setReg
    | intro _
    | split
    | dsimp only
    | dsimp only [id]

theorem thawChannel (hP : Closed W P) {s : State} (ch : Nat) (w1 : W .dram) (w2 : W (.sched ch))
    (w3 : W (.reg (MC_STATUS ch))) (h : P s) :
    P (State.thawChannel s ch) := by
  unfold State.thawChannel
  repeat' first
    | with_reducible assumption
    | with_reducible apply Closed.modSched hP
    | with_reducible apply Closed.forgetChannel hP
    | with_reducible apply Closed.setMcState hP
    | intro _
    | split
    | dsimp only
    | dsimp only [id]

theorem modCe (hP : Closed W P) {s : State} (i : Nat) (f : EngineDyn → EngineDyn) (w1 : W (.ce i)) (h : P s) :
    P (State.modCe s i f) := by
  unfold State.modCe
  repeat' first
    | with_reducible assumption
    | with_reducible apply hP.setCe
    | intro _
    | split
    | dsimp only
    | dsimp only [id]

theorem resumeUnit (hP : Closed W P) {s : State} (u : Word) (w1 : ∀ x1', W (.queue x1')) (w2 : W .station)
    (w3 : W .mbx) (w4 : ∀ x1', W (.stake x1')) (w5 : ∀ x1', W (.lane x1')) (w6 : W .dram)
    (w7 : ∀ x1', W (.sched x1')) (w8 : ∀ x1', W (.ce x1')) (w9 : ∀ x1', W (.de x1'))
    (w10 : ∀ x1', W (.reg (HUB_Q x1' 16))) (w11 : ∀ x1', W (.reg (HUB_Q x1' 24)))
    (w12 : ∀ x1', W (.reg (HUB_Q x1' 20))) (w13 : ∀ x1', W (.reg (STK_SPARE x1')))
    (w14 : ∀ x1', W (.reg (LN_STATUS x1'))) (w15 : ∀ x1', W (.reg (MC_STATUS x1'))) (h : P s) :
    P (State.resumeUnit s u) := by
  unfold State.resumeUnit
  repeat' first
    | with_reducible assumption
    | with_reducible exact w1 _
    | with_reducible exact w4 _
    | with_reducible exact w5 _
    | with_reducible exact w7 _
    | with_reducible exact w8 _
    | with_reducible exact w9 _
    | with_reducible exact w10 _
    | with_reducible exact w11 _
    | with_reducible exact w12 _
    | with_reducible exact w13 _
    | with_reducible exact w14 _
    | with_reducible exact w15 _
    | with_reducible apply Closed.flushQueue hP
    | with_reducible apply Closed.dacPass hP
    | with_reducible apply Closed.modLane hP
    | with_reducible apply Closed.setRegF hP
    | with_reducible apply Closed.setRegBit hP
    | with_reducible apply Closed.thawChannel hP
    | with_reducible apply Closed.modCe hP
    | with_reducible apply Closed.modDe hP
    | intro _
    | split
    | dsimp only
    | dsimp only [id]

theorem verdict (hP : Closed W P) {s : State} (u : Word) (cls : Nat) (errors : Bool) (fail : Bool) (result : Word)
    (w1 : W .weaver) (w2 : W .ledger) (w3 : ∀ x1', W (.lane x1')) (w4 : W .station) (w5 : W .pcie)
    (w6 : ∀ x1', W (.stake x1')) (w7 : ∀ x1', W (.stream x1')) (w8 : ∀ x1', W (.sched x1'))
    (w9 : ∀ x1', W (.cmp x1')) (w10 : ∀ x1', W (.ival x1')) (w11 : W .mbx) (w12 : ∀ x1', W (.box x1'))
    (w13 : ∀ x1', W (.seq x1')) (w14 : W .fw) (w15 : ∀ x1', W (.hist x1')) (w16 : W .drawn) (w17 : W .trig)
    (w18 : ∀ x1', W (.port x1')) (w19 : ∀ x1', W (.de x1')) (w20 : ∀ x1', W (.ref x1')) (w21 : W .dram)
    (w22 : ∀ x1', W (.image x1')) (w23 : W .time) (w24 : ∀ x1', W (.tout x1')) (w25 : ∀ x1', W (.queue x1'))
    (w26 : ∀ x1', W (.ce x1')) (w27 : ∀ a, W (.reg a)) (h : P s) :
    P (State.verdict s u cls errors fail result) := by
  unfold State.verdict
  repeat' first
    | with_reducible assumption
    | with_reducible exact w3 _
    | with_reducible exact w6 _
    | with_reducible exact w7 _
    | with_reducible exact w8 _
    | with_reducible exact w9 _
    | with_reducible exact w10 _
    | with_reducible exact w12 _
    | with_reducible exact w13 _
    | with_reducible exact w15 _
    | with_reducible exact w18 _
    | with_reducible exact w19 _
    | with_reducible exact w20 _
    | with_reducible exact w22 _
    | with_reducible exact w24 _
    | with_reducible exact w25 _
    | with_reducible exact w26 _
    | with_reducible exact w27 _
    | with_reducible apply Closed.storeMeta hP
    | with_reducible apply Closed.ledVerdict hP
    | with_reducible apply Closed.incReg hP
    | with_reducible apply Closed.loseUnit hP
    | with_reducible apply Closed.hostResult hP
    | with_reducible apply Closed.dueReplacement hP
    | with_reducible apply Closed.returnUnit hP
    | with_reducible apply Closed.resumeUnit hP
    | with_reducible apply hP.modWeaver
    | intro _
    | split
    | dsimp only
    | dsimp only [id]

theorem testResult (hP : Closed W P) {s : State} (u : Word) (cls : Nat) (pass : Bool) (result : Word)
    (w1 : W .weaver) (w2 : W .ledger) (w3 : ∀ x1', W (.lane x1')) (w4 : W .station) (w5 : W .pcie)
    (w6 : ∀ x1', W (.stake x1')) (w7 : ∀ x1', W (.stream x1')) (w8 : ∀ x1', W (.sched x1'))
    (w9 : ∀ x1', W (.cmp x1')) (w10 : ∀ x1', W (.ival x1')) (w11 : W .mbx) (w12 : ∀ x1', W (.box x1'))
    (w13 : ∀ x1', W (.seq x1')) (w14 : W .fw) (w15 : ∀ x1', W (.hist x1')) (w16 : W .drawn) (w17 : W .trig)
    (w18 : ∀ x1', W (.port x1')) (w19 : ∀ x1', W (.de x1')) (w20 : ∀ x1', W (.ref x1')) (w21 : W .dram)
    (w22 : ∀ x1', W (.image x1')) (w23 : W .time) (w24 : ∀ x1', W (.tout x1')) (w25 : ∀ x1', W (.queue x1'))
    (w26 : ∀ x1', W (.ce x1')) (w27 : ∀ a, W (.reg a)) (h : P s) :
    P (State.testResult s u cls pass result) := by
  unfold State.testResult
  repeat' first
    | with_reducible assumption
    | with_reducible exact w3 _
    | with_reducible exact w6 _
    | with_reducible exact w7 _
    | with_reducible exact w8 _
    | with_reducible exact w9 _
    | with_reducible exact w10 _
    | with_reducible exact w12 _
    | with_reducible exact w13 _
    | with_reducible exact w15 _
    | with_reducible exact w18 _
    | with_reducible exact w19 _
    | with_reducible exact w20 _
    | with_reducible exact w22 _
    | with_reducible exact w24 _
    | with_reducible exact w25 _
    | with_reducible exact w26 _
    | with_reducible exact w27 _
    | with_reducible apply Closed.verdict hP
    | with_reducible apply hP.modWeaver
    | intro _
    | split
    | dsimp only
    | dsimp only [id]

theorem testEnds (hP : Closed W P) {s : State} (u : Word) (cls : Nat) (pass : Bool) (w1 : W .drawn) (w2 : W .weaver)
    (w3 : W .ledger) (w4 : ∀ x1', W (.lane x1')) (w5 : W .station) (w6 : W .pcie) (w7 : ∀ x1', W (.stake x1'))
    (w8 : ∀ x1', W (.stream x1')) (w9 : ∀ x1', W (.sched x1')) (w10 : ∀ x1', W (.cmp x1'))
    (w11 : ∀ x1', W (.ival x1')) (w12 : W .mbx) (w13 : ∀ x1', W (.box x1')) (w14 : ∀ x1', W (.seq x1'))
    (w15 : W .fw) (w16 : ∀ x1', W (.hist x1')) (w17 : W .trig) (w18 : ∀ x1', W (.port x1'))
    (w19 : ∀ x1', W (.de x1')) (w20 : ∀ x1', W (.ref x1')) (w21 : W .dram) (w22 : ∀ x1', W (.image x1'))
    (w23 : W .time) (w24 : ∀ x1', W (.tout x1')) (w25 : ∀ x1', W (.queue x1')) (w26 : ∀ x1', W (.ce x1'))
    (w27 : ∀ a, W (.reg a)) (h : P s) :
    P (State.testEnds s u cls pass) := by
  unfold State.testEnds
  repeat' first
    | with_reducible assumption
    | with_reducible exact w4 _
    | with_reducible exact w7 _
    | with_reducible exact w8 _
    | with_reducible exact w9 _
    | with_reducible exact w10 _
    | with_reducible exact w11 _
    | with_reducible exact w13 _
    | with_reducible exact w14 _
    | with_reducible exact w16 _
    | with_reducible exact w18 _
    | with_reducible exact w19 _
    | with_reducible exact w20 _
    | with_reducible exact w22 _
    | with_reducible exact w24 _
    | with_reducible exact w25 _
    | with_reducible exact w26 _
    | with_reducible exact w27 _
    | with_reducible apply Closed.draw hP
    | with_reducible apply Closed.testResult hP
    | intro _
    | split
    | dsimp only
    | dsimp only [id]

theorem deFault (hP : Closed W P) {s : State} (n : Nat) (code : Nat) (bitNo : Nat) (byte : Nat) (out : Nat)
    (diag : Bool) (w1 : W (.reg (DE n 20))) (w2 : W (.reg (DE n 24))) (w3 : W (.reg (DE n 28)))
    (w4 : W (.reg (DE n 32))) (w5 : W (.reg (DE n 36))) (h : P s) :
    P (State.deFault s n code bitNo byte out diag) := by
  unfold State.deFault
  repeat' first
    | with_reducible assumption
    | with_reducible apply hP.setReg
    | intro _
    | split
    | dsimp only
    | dsimp only [id]

theorem corruptFound (hP : Closed W P) {s : State} (e : Nat) (c : Corrupt) (w1 : W (.de e))
    (w2 : W (.reg (DE e 16))) (w3 : W (.reg (DE e 20))) (w4 : W (.reg (DE e 24))) (w5 : W (.reg (DE e 28)))
    (w6 : W (.reg (DE e 32))) (w7 : W (.reg (DE e 36))) (h : P s) :
    P (State.corruptFound s e c) := by
  unfold State.corruptFound
  repeat' first
    | with_reducible assumption
    | with_reducible apply Closed.modDe hP
    | with_reducible apply Closed.deFault hP
    | with_reducible apply Closed.incReg hP
    | intro _
    | split
    | dsimp only
    | dsimp only [id]

theorem playedCorrupt (hP : Closed W P) {s : State} (cu : Nat) (r : Nat) (j : Nat) (offset : Nat)
    (w1 : ∀ x1', W (.de x1')) (w2 : ∀ x1', W (.reg (DE x1' 16))) (w3 : ∀ x1', W (.reg (DE x1' 20)))
    (w4 : ∀ x1', W (.reg (DE x1' 24))) (w5 : ∀ x1', W (.reg (DE x1' 28))) (w6 : ∀ x1', W (.reg (DE x1' 32)))
    (w7 : ∀ x1', W (.reg (DE x1' 36))) (h : P s) :
    P (State.playedCorrupt s cu r j offset) := by
  unfold State.playedCorrupt
  repeat' first
    | with_reducible assumption
    | with_reducible exact w1 _
    | with_reducible exact w2 _
    | with_reducible exact w3 _
    | with_reducible exact w4 _
    | with_reducible exact w5 _
    | with_reducible exact w6 _
    | with_reducible exact w7 _
    | with_reducible apply Closed.corruptFound hP
    | intro _
    | split
    | dsimp only
    | dsimp only [id]

theorem noticeRingFault (hP : Closed W P) {s : State} (stream : Nat) (value : Nat) (cause : Nat) (w1 : W (.queue 2))
    (w2 : W .station) (w3 : W .mbx) (w4 : W (.reg (HUB_Q 2 16))) (w5 : W (.reg (HUB_Q 2 24)))
    (w6 : W (.reg (HUB_Q 2 20))) (w7 : W (.reg MB_NTF_NSEQ)) (h : P s) :
    P (State.noticeRingFault s stream value cause) := by
  unfold State.noticeRingFault
  repeat' first
    | with_reducible assumption
    | with_reducible apply Closed.notice hP
    | intro _
    | split
    | dsimp only
    | dsimp only [id]

theorem takeDescriptor (hP : Closed W P) {s : State} (i : Nat) (num : Nat) (b : List Byte) (w1 : W (.stream i))
    (w2 : W (.queue 2)) (w3 : W .station) (w4 : W .mbx) (w5 : W .pcie) (w6 : W (.reg (HUB_Q 2 16)))
    (w7 : W (.reg (HUB_Q 2 24))) (w8 : W (.reg (HUB_Q 2 20))) (w9 : W (.reg MB_NTF_NSEQ)) (h : P s) :
    P (State.takeDescriptor s i num b) := by
  unfold State.takeDescriptor
  repeat' first
    | with_reducible assumption
    | with_reducible apply Closed.modStream hP
    | with_reducible apply Closed.noticeRingFault hP
    | with_reducible apply Closed.completeWithoutData hP
    | intro _
    | split
    | dsimp only
    | dsimp only [id]

theorem retireModule (hP : Closed W P) {s : State} (d : Nat) (m : Nat) (w1 : W .weaver) (w2 : W .ledger)
    (w3 : W (.queue 2)) (w4 : W .station) (w5 : W .mbx) (w6 : W .pcie) (w7 : ∀ x1', W (.queue (stakeQ x1')))
    (w8 : ∀ x1', W (.stream x1')) (w9 : ∀ x1', W (.sched x1')) (w10 : ∀ x1', W (.lane x1'))
    (w11 : ∀ x1', W (.cmp x1')) (w12 : ∀ x1', W (.ival x1')) (w13 : ∀ x1', W (.box x1')) (w14 : ∀ x1', W (.seq x1'))
    (w15 : W .fw) (w16 : ∀ x1', W (.hist x1')) (w17 : W .drawn) (w18 : W (.queue 1)) (w19 : W .trig)
    (w20 : ∀ x1', W (.port x1')) (w21 : ∀ x1', W (.de x1')) (w22 : ∀ x1', W (.ref x1')) (w23 : W .dram)
    (w24 : ∀ x1', W (.image x1')) (w25 : W .time) (w26 : W (.queue 0)) (w27 : ∀ x1', W (.tout x1'))
    (w28 : ∀ a, W (.reg a)) (h : P s) :
    P (State.retireModule s d m) := by
  unfold State.retireModule
  repeat' first
    | with_reducible assumption
    | with_reducible exact w7 _
    | with_reducible exact w8 _
    | with_reducible exact w9 _
    | with_reducible exact w10 _
    | with_reducible exact w11 _
    | with_reducible exact w12 _
    | with_reducible exact w13 _
    | with_reducible exact w14 _
    | with_reducible exact w16 _
    | with_reducible exact w20 _
    | with_reducible exact w21 _
    | with_reducible exact w22 _
    | with_reducible exact w24 _
    | with_reducible exact w27 _
    | with_reducible exact w28 _
    | with_reducible apply Closed.each hP
    | with_reducible apply Closed.dueReplacement hP
    | with_reducible apply Closed.announceRetired hP
    | with_reducible apply Closed.addRetired hP
    | with_reducible apply Closed.ledgerReq hP
    | with_reducible apply Closed.retireUnit hP
    | intro _
    | split
    | dsimp only
    | dsimp only [id]

theorem applyClear (hP : Closed W P) {s : State} (r : LedgerRec) (w1 : W .ledger) (w2 : W (.reg LG_GENERATION))
    (w3 : W (.reg LG_FIRST_SEQ_LO)) (w4 : W (.reg (LG_FIRST_SEQ_LO + 4))) (w5 : W (.reg LG_NEXT_SEQ_LO))
    (w6 : W (.reg (LG_NEXT_SEQ_LO + 4))) (w7 : W (.reg LG_REFUSED)) (w8 : W (.reg LG_STATUS)) (h : P s) :
    P (State.applyClear s r) := by
  unfold State.applyClear
  repeat' first
    | with_reducible assumption
    | with_reducible apply Closed.setReg64 hP
    | with_reducible apply Closed.setRegF hP
    | with_reducible apply Closed.storeMeta hP
    | with_reducible apply hP.setReg
    | with_reducible apply hP.modLedger
    | intro _
    | split
    | dsimp only
    | dsimp only [id]

theorem mountLedger (hP : Closed W P) {s : State} (w1 : W .ledger) (w2 : W (.reg LG_GENERATION))
    (w3 : W (.reg LG_FIRST_SEQ_LO)) (w4 : W (.reg (LG_FIRST_SEQ_LO + 4))) (w5 : W (.reg LG_NEXT_SEQ_LO))
    (w6 : W (.reg (LG_NEXT_SEQ_LO + 4))) (w7 : W (.reg LG_REFUSED)) (w8 : W (.reg LG_STATUS)) (h : P s) :
    P ((State.mountLedger s).1) := by
  unfold State.mountLedger
  repeat' first
    | with_reducible assumption
    | with_reducible apply Closed.applyClear hP
    | with_reducible apply Closed.setReg64 hP
    | with_reducible apply hP.modLedger
    | intro _
    | split
    | dsimp only
    | dsimp only [id]

theorem dropResults (hP : Closed W P) {s : State} (ch : Nat) (w1 : ∀ x1', W (.reg (MC_TRN_ERR ch x1')))
    (w2 : W (.reg (MC_TRN_FAIL_BITS ch))) (h : P s) :
    P (State.dropResults s ch) := by
  unfold State.dropResults
  repeat' first
    | with_reducible assumption
    | with_reducible exact w1 _
    | with_reducible apply Closed.each hP
    | with_reducible apply hP.setReg
    | intro _
    | split
    | dsimp only
    | dsimp only [id]

theorem ledMemRate (hP : Closed W P) {s : State} (ch : Nat) (rate : Nat) (w1 : W .ledger) (h : P s) :
    P (State.ledMemRate s ch rate) := by
  unfold State.ledMemRate
  repeat' first
    | with_reducible assumption
    | with_reducible apply Closed.ledgerReq hP
    | intro _
    | split
    | dsimp only
    | dsimp only [id]

theorem setRate (hP : Closed W P) {s : State} (ch : Nat) (rate : Nat) (w1 : W (.queue 2)) (w2 : W .station)
    (w3 : W .mbx) (w4 : W .ledger) (w5 : W (.reg (MC_STATUS ch))) (w6 : ∀ x1', W (.reg (MC_TRN_ERR ch x1')))
    (w7 : W (.reg (MC_TRN_FAIL_BITS ch))) (w8 : W (.reg (MC_STEPDOWNS ch))) (w9 : W (.reg HUB_GUAR_INGEST))
    (w10 : W (.reg HUB_HEALTH)) (w11 : W (.reg (HUB_Q 2 16))) (w12 : W (.reg (HUB_Q 2 24)))
    (w13 : W (.reg (HUB_Q 2 20))) (w14 : W (.reg MB_NTF_NSEQ)) (h : P s) :
    P (State.setRate s ch rate) := by
  unfold State.setRate
  repeat' first
    | with_reducible assumption
    | with_reducible exact w6 _
    | with_reducible apply Closed.dropResults hP
    | with_reducible apply Closed.setRegF hP
    | with_reducible apply Closed.ledMemRate hP
    | with_reducible apply Closed.notice hP
    | with_reducible apply Closed.updateLimits hP
    | intro _
    | split
    | dsimp only
    | dsimp only [id]

theorem stepDown (hP : Closed W P) {s : State} (ch : Nat) (w1 : W .weaver) (w2 : W .ledger) (w3 : W (.queue 2))
    (w4 : W .station) (w5 : W .mbx) (w6 : W .pcie) (w7 : ∀ x1', W (.queue (stakeQ x1')))
    (w8 : ∀ x1', W (.stream x1')) (w9 : ∀ x1', W (.sched x1')) (w10 : ∀ x1', W (.lane x1'))
    (w11 : ∀ x1', W (.cmp x1')) (w12 : ∀ x1', W (.ival x1')) (w13 : ∀ x1', W (.box x1')) (w14 : ∀ x1', W (.seq x1'))
    (w15 : W .fw) (w16 : ∀ x1', W (.hist x1')) (w17 : W .drawn) (w18 : W (.queue 1)) (w19 : W .trig)
    (w20 : ∀ x1', W (.port x1')) (w21 : ∀ x1', W (.de x1')) (w22 : ∀ x1', W (.ref x1')) (w23 : W .dram)
    (w24 : ∀ x1', W (.image x1')) (w25 : W .time) (w26 : W (.queue 0)) (w27 : ∀ x1', W (.tout x1'))
    (w28 : W (.chan ch)) (w29 : ∀ a, W (.reg a)) (h : P s) :
    P (State.stepDown s ch) := by
  unfold State.stepDown
  repeat' first
    | with_reducible assumption
    | with_reducible exact w7 _
    | with_reducible exact w8 _
    | with_reducible exact w9 _
    | with_reducible exact w10 _
    | with_reducible exact w11 _
    | with_reducible exact w12 _
    | with_reducible exact w13 _
    | with_reducible exact w14 _
    | with_reducible exact w16 _
    | with_reducible exact w20 _
    | with_reducible exact w21 _
    | with_reducible exact w22 _
    | with_reducible exact w24 _
    | with_reducible exact w27 _
    | with_reducible exact w29 _
    | with_reducible apply Closed.retireUnit hP
    | with_reducible apply Closed.modChan hP
    | with_reducible apply Closed.setRate hP
    | intro _
    | split
    | dsimp only
    | dsimp only [id]

theorem chooseField (hP : Closed W P) {s : State} (a : Nat) (lo : Nat) (span : Nat) (w1 : W .drawn) (w2 : W .fw)
    (w3 : W (.reg a)) (h : P s) :
    P (State.chooseField s a lo span) := by
  unfold State.chooseField
  repeat' first
    | with_reducible assumption
    | with_reducible apply Closed.draw hP
    | with_reducible apply Closed.fwSetF hP
    | intro _
    | split
    | dsimp only
    | dsimp only [id]

theorem chooseSetting (hP : Closed W P) {s : State} (ch : Nat) (again : Bool) (w1 : W .drawn) (w2 : W .fw)
    (w3 : ∀ x1', W (.reg (MC_TRN_DELAY ch x1'))) (w4 : W (.reg (MC_TRN_VREF ch))) (w5 : W (.reg (MC_TRN_CA ch)))
    (h : P s) :
    P (State.chooseSetting s ch again) := by
  unfold State.chooseSetting
  repeat' first
    | with_reducible assumption
    | with_reducible exact w3 _
    | with_reducible apply Closed.each hP
    | with_reducible apply Closed.chooseField hP
    | intro _
    | split
    | dsimp only
    | dsimp only [id]

theorem writeTraining (hP : Closed W P) {s : State} (ch : Nat) (w1 : W .drawn) (w2 : W .dram) (h : P s) :
    P (s.writeTraining ch) :=
  hP.modMem _ (fun _ => MemState.wf_retrain _ _) (fun _ => rfl) w2 (hP.drawBytes _ w1 h)

theorem trained (hP : Closed W P) {s : State} (ch : Nat) (temp : Half) (again : Bool) (w1 : W .drawn) (w2 : W .dram)
    (w3 : W .fw) (w4 : W (.chan ch)) (w5 : ∀ x1', W (.reg (MC_TRN_DELAY ch x1'))) (w6 : W (.reg (MC_TRN_VREF ch)))
    (w7 : W (.reg (MC_TRN_CA ch))) (w8 : W (.reg (MC_STATUS ch))) (w9 : W (.reg (MC_TRAIN_TIME ch)))
    (w10 : W (.reg (MC_TRAIN_TEMP ch))) (h : P s) :
    P (State.trained s ch temp again) := by
  unfold State.trained
  repeat' first
    | with_reducible assumption
    | with_reducible exact w5 _
    | with_reducible apply Closed.setMcState hP
    | with_reducible apply Closed.chooseSetting hP
    | with_reducible apply Closed.writeTraining hP
    | with_reducible apply Closed.setRegF hP
    | with_reducible apply Closed.modChan hP
    | with_reducible apply hP.setReg
    | intro _
    | split
    | dsimp only
    | dsimp only [id]

theorem trainInitial (hP : Closed W P) {s : State} (ch : Nat) (fails : Nat) (density : BitVec 2) (temp : Half)
    (w1 : W .dram) (w2 : W .weaver) (w3 : W .ledger) (w4 : W (.queue 2)) (w5 : W .station) (w6 : W .mbx)
    (w7 : W .pcie) (w8 : ∀ x1', W (.queue (stakeQ x1'))) (w9 : ∀ x1', W (.stream x1')) (w10 : ∀ x1', W (.sched x1'))
    (w11 : ∀ x1', W (.lane x1')) (w12 : ∀ x1', W (.cmp x1')) (w13 : ∀ x1', W (.ival x1'))
    (w14 : ∀ x1', W (.box x1')) (w15 : ∀ x1', W (.seq x1')) (w16 : W .fw) (w17 : ∀ x1', W (.hist x1'))
    (w18 : W .drawn) (w19 : W (.queue 1)) (w20 : W .trig) (w21 : ∀ x1', W (.port x1')) (w22 : ∀ x1', W (.de x1'))
    (w23 : ∀ x1', W (.ref x1')) (w24 : ∀ x1', W (.image x1')) (w25 : W .time) (w26 : W (.queue 0))
    (w27 : ∀ x1', W (.tout x1')) (w28 : W (.chan ch)) (w29 : ∀ a, W (.reg a)) (h : P s) :
    P (State.trainInitial s ch fails density temp) := by
  unfold State.trainInitial
  repeat' first
    | with_reducible assumption
    | with_reducible exact w8 _
    | with_reducible exact w9 _
    | with_reducible exact w10 _
    | with_reducible exact w11 _
    | with_reducible exact w12 _
    | with_reducible exact w13 _
    | with_reducible exact w14 _
    | with_reducible exact w15 _
    | with_reducible exact w17 _
    | with_reducible exact w21 _
    | with_reducible exact w22 _
    | with_reducible exact w23 _
    | with_reducible exact w24 _
    | with_reducible exact w27 _
    | with_reducible exact w29 _
    | with_reducible apply Closed.each hP
    | with_reducible apply Closed.setRegF hP
    | with_reducible apply Closed.forgetChannel hP
    | with_reducible apply Closed.retireUnit hP
    | with_reducible apply Closed.stepDown hP
    | with_reducible apply Closed.trained hP
    | intro _
    | split
    | dsimp only
    | dsimp only [id]

theorem calLane (hP : Closed W P) {s : State} (results : List LaneCal) (temp : Half) (n : Nat)
    (w1 : ∀ x1', W (.queue (stakeQ x1'))) (w2 : ∀ x1', W (.stream x1')) (w3 : ∀ x1', W (.sched x1'))
    (w4 : W .weaver) (w5 : W .ledger) (w6 : ∀ x1', W (.lane x1')) (w7 : ∀ x1', W (.cmp x1'))
    (w8 : ∀ x1', W (.ival x1')) (w9 : W (.queue 2)) (w10 : W .station) (w11 : W .mbx) (w12 : W .pcie)
    (w13 : W (.reg (LN_BURSTS n))) (w14 : W (.reg HUB_RETIRED)) (w15 : ∀ x1', W (.reg (CU x1' 36)))
    (w16 : W (.reg (HUB_Q 2 16))) (w17 : W (.reg (HUB_Q 2 24))) (w18 : W (.reg (HUB_Q 2 20)))
    (w19 : W (.reg MB_NTF_NSEQ)) (w20 : W (.reg (LN_DESKEW n))) (w21 : ∀ x1', W (.reg (LN_STATUS x1')))
    (w22 : ∀ x1', W (.reg (HU_STATUS x1'))) (w23 : ∀ x1', W (.reg (PP_STATUS x1')))
    (w24 : ∀ x1', W (.reg (MC_STATUS x1'))) (w25 : W (.reg HUB_GUAR_INGEST)) (w26 : W (.reg HUB_HEALTH)) (h : P s) :
    P (State.calLane s results temp n) := by
  unfold State.calLane
  repeat' first
    | with_reducible assumption
    | with_reducible exact w1 _
    | with_reducible exact w2 _
    | with_reducible exact w3 _
    | with_reducible exact w6 _
    | with_reducible exact w7 _
    | with_reducible exact w8 _
    | with_reducible exact w15 _
    | with_reducible exact w21 _
    | with_reducible exact w22 _
    | with_reducible exact w23 _
    | with_reducible exact w24 _
    | with_reducible apply Closed.retireLane hP
    | with_reducible apply Closed.setRegF hP
    | with_reducible apply Closed.setRegBit hP
    | with_reducible apply Closed.modLane hP
    | with_reducible apply Closed.returnUnit hP
    | intro _
    | split
    | dsimp only
    | dsimp only [id]

theorem calibrate (hP : Closed W P) {s : State} (run : List Nat) (results : List LaneCal) (cd0 : Half) (cd1 : Half)
    (w1 : ∀ x1', W (.queue (stakeQ x1'))) (w2 : ∀ x1', W (.stream x1')) (w3 : ∀ x1', W (.sched x1'))
    (w4 : W .weaver) (w5 : W .ledger) (w6 : ∀ x1', W (.lane x1')) (w7 : ∀ x1', W (.cmp x1'))
    (w8 : ∀ x1', W (.ival x1')) (w9 : W (.queue 2)) (w10 : W .station) (w11 : W .mbx) (w12 : W .pcie)
    (w13 : ∀ x1', W (.reg (LN_BURSTS x1'))) (w14 : W (.reg HUB_RETIRED)) (w15 : ∀ x1', W (.reg (CU x1' 36)))
    (w16 : W (.reg (HUB_Q 2 16))) (w17 : W (.reg (HUB_Q 2 24))) (w18 : W (.reg (HUB_Q 2 20)))
    (w19 : W (.reg MB_NTF_NSEQ)) (w20 : ∀ x1', W (.reg (LN_DESKEW x1'))) (w21 : ∀ x1', W (.reg (LN_STATUS x1')))
    (w22 : ∀ x1', W (.reg (HU_STATUS x1'))) (w23 : ∀ x1', W (.reg (PP_STATUS x1')))
    (w24 : ∀ x1', W (.reg (MC_STATUS x1'))) (w25 : W (.reg HUB_GUAR_INGEST)) (w26 : W (.reg HUB_HEALTH))
    (w27 : ∀ x1', W (.reg (STK_CAL_TEMP x1'))) (w28 : ∀ x1', W (.reg (STK_CAL_TIME x1'))) (h : P s) :
    P (State.calibrate s run results cd0 cd1) := by
  unfold State.calibrate
  repeat' first
    | with_reducible assumption
    | with_reducible exact w1 _
    | with_reducible exact w2 _
    | with_reducible exact w3 _
    | with_reducible exact w6 _
    | with_reducible exact w7 _
    | with_reducible exact w8 _
    | with_reducible exact w13 _
    | with_reducible exact w15 _
    | with_reducible exact w20 _
    | with_reducible exact w21 _
    | with_reducible exact w22 _
    | with_reducible exact w23 _
    | with_reducible exact w24 _
    | with_reducible exact w27 _
    | with_reducible exact w28 _
    | with_reducible apply Closed.each hP
    | with_reducible apply Closed.calLane hP
    | with_reducible apply hP.setReg
    | intro _
    | split
    | dsimp only
    | dsimp only [id]

theorem startUnits (hP : Closed W P) {s : State} (o : StartOutcome) (w1 : W .weaver) (w2 : W .ledger)
    (w3 : W (.queue 2)) (w4 : W .station) (w5 : W .mbx) (w6 : W .pcie) (w7 : ∀ x1', W (.queue (stakeQ x1')))
    (w8 : ∀ x1', W (.stream x1')) (w9 : ∀ x1', W (.sched x1')) (w10 : ∀ x1', W (.lane x1'))
    (w11 : ∀ x1', W (.cmp x1')) (w12 : ∀ x1', W (.ival x1')) (w13 : ∀ x1', W (.box x1')) (w14 : ∀ x1', W (.seq x1'))
    (w15 : W .fw) (w16 : ∀ x1', W (.hist x1')) (w17 : W .drawn) (w18 : W (.queue 1)) (w19 : W .trig)
    (w20 : ∀ x1', W (.port x1')) (w21 : ∀ x1', W (.de x1')) (w22 : ∀ x1', W (.ref x1')) (w23 : W .dram)
    (w24 : ∀ x1', W (.image x1')) (w25 : W .time) (w26 : W (.queue 0)) (w27 : ∀ x1', W (.tout x1'))
    (w28 : ∀ x1', W (.chan x1')) (w29 : ∀ a, W (.reg a)) (h : P s) :
    P ((State.startUnits s o).1) := by
  unfold State.startUnits
  repeat' first
    | with_reducible assumption
    | with_reducible exact w7 _
    | with_reducible exact w8 _
    | with_reducible exact w9 _
    | with_reducible exact w10 _
    | with_reducible exact w11 _
    | with_reducible exact w12 _
    | with_reducible exact w13 _
    | with_reducible exact w14 _
    | with_reducible exact w16 _
    | with_reducible exact w20 _
    | with_reducible exact w21 _
    | with_reducible exact w22 _
    | with_reducible exact w24 _
    | with_reducible exact w27 _
    | with_reducible exact w28 _
    | with_reducible exact w29 _
    | with_reducible apply Closed.each hP
    | with_reducible apply Closed.storeMeta hP
    | with_reducible apply Closed.retireModule hP
    | with_reducible apply Closed.mountLedger hP
    | with_reducible apply Closed.trainInitial hP
    | with_reducible apply Closed.calibrate hP
    | with_reducible apply Closed.retireUnit hP
    | with_reducible apply hP.setReg
    | with_reducible apply hP.modWeaver
    | intro _
    | split
    | dsimp only
    | dsimp only [id]

theorem refuse (hP : Closed W P) {s : State} (status : Nat) (detail : Nat) (h : P s) :
    P (Sys2Proof.Machine.refuse s status detail).1 := by
  have _ := hP
  exact h

theorem diagUnlockCmd (hP : Closed W P) (img : MbImage) {s : State} (w1 : W .ledger) (w2 : W (.reg HUB_RF_STATE))
    (w3 : W (.reg HUB_RF_LAPSE)) (h : P s) :
    P ((diagUnlockCmd img s).1) := by
  unfold Sys2Proof.Machine.diagUnlockCmd
  repeat' first
    | with_reducible assumption
    | with_reducible apply Closed.refuse hP
    | with_reducible apply Closed.ledgerReq hP
    | with_reducible apply Closed.done hP
    | with_reducible apply hP.setReg
    | intro _
    | split
    | dsimp only
    | dsimp only [id]

theorem modFw (hP : Closed W P) {s : State} (f : FwState → FwState) (w1 : W .power) (h : P s) :
    P (State.modFw s f) := by
  unfold State.modFw
  repeat' first
    | with_reducible assumption
    | with_reducible apply hP.modPower
    | intro _
    | split
    | dsimp only
    | dsimp only [id]

theorem fwBeginCmd (hP : Closed W P) (img : MbImage) {s : State} (w1 : W .power) (h : P s) :
    P ((fwBeginCmd img s).1) := by
  unfold Sys2Proof.Machine.fwBeginCmd
  repeat' first
    | with_reducible assumption
    | with_reducible apply Closed.done hP
    | with_reducible apply Closed.modFw hP
    | intro _
    | split
    | dsimp only
    | dsimp only [id]

theorem histValue (hP : Closed W P) {s : State} (hu : Nat) (v : HistValue) (w1 : W (.hist hu))
    (w2 : ∀ x1' x2', W (.reg (HU_RG hu x1' x2'))) (w3 : W (.reg (HU_OVERFLOW hu))) (h : P s) :
    P (State.histValue s hu v) := by
  unfold State.histValue
  repeat' first
    | with_reducible assumption
    | with_reducible exact w2 _ _
    | with_reducible apply Closed.modHist hP
    | with_reducible apply Closed.incReg hP
    | with_reducible apply Closed.rgCountLate hP
    | intro _
    | split
    | dsimp only
    | dsimp only [id]

theorem histEvent (hP : Closed W P) {s : State} (hu : Nat) (r : Nat) (e : TimedEv) (w1 : W (.hist hu))
    (w2 : ∀ x1' x2', W (.reg (HU_RG hu x1' x2'))) (w3 : W (.reg (HU_OVERFLOW hu))) (h : P s) :
    P (State.histEvent s hu r e) := by
  unfold State.histEvent
  repeat' first
    | with_reducible assumption
    | with_reducible exact w2 _ _
    | with_reducible apply Closed.histValue hP
    | with_reducible apply Closed.modRegion hP
    | intro _
    | split
    | dsimp only
    | dsimp only [id]

theorem ivalEvent (hP : Closed W P) {s : State} (iu : Nat) (e : TimedEv) (w1 : W (.ival iu)) (h : P s) :
    P (s.ivalEvent iu e) := by
  unfold State.ivalEvent
  refine Closed.ite hP h ?_
  exact Closed.ite hP (Closed.ivPush hP _ _ w1 h) (Closed.ite hP (Closed.ivPush hP _ _ w1 h)
    (Closed.ite hP (Closed.ivPush hP _ _ w1 h) h))

theorem feedInterval (hP : Closed W P) {s : State} (w : Nat) (e : TimedEv) (w1 : ∀ x1', W (.ival x1')) (h : P s) :
    P (State.feedInterval s w e) := by
  unfold State.feedInterval
  repeat' first
    | with_reducible assumption
    | with_reducible exact w1 _
    | with_reducible apply Closed.each hP
    | with_reducible apply Closed.ivalEvent hP
    | intro _
    | split
    | dsimp only
    | dsimp only [id]

theorem feed (hP : Closed W P) {s : State} (w : Nat) (e : TimedEv) (w1 : W .trig) (w2 : W (.hist w))
    (w3 : ∀ x1', W (.ival x1')) (w4 : ∀ x1' x2', W (.reg (HU_RG w x1' x2'))) (w5 : W (.reg (HU_OVERFLOW w)))
    (h : P s) :
    P (State.feed s w e) := by
  unfold State.feed
  repeat' first
    | with_reducible assumption
    | with_reducible exact w3 _
    | with_reducible exact w4 _ _
    | with_reducible apply Closed.each hP
    | with_reducible apply Closed.histEvent hP
    | with_reducible apply Closed.feedInterval hP
    | with_reducible apply hP.modTrig
    | intro _
    | split
    | dsimp only
    | dsimp only [id]

theorem setLevel (hP : Closed W P) {s : State} (cu : Nat) (cin : Nat) (t : Time) (v : Bool) (w1 : W (.cmp cu))
    (h : P s) :
    P (State.setLevel s cu cin t v) := by
  unfold State.setLevel
  repeat' first
    | with_reducible assumption
    | with_reducible apply Closed.modCmp hP
    | intro _
    | split
    | dsimp only
    | dsimp only [id]

theorem takeLevel (hP : Closed W P) {s : State} (n : Nat) (w1 : W (.lane n)) (w2 : ∀ x1', W (.cmp x1')) (h : P s) :
    P (State.takeLevel s n) := by
  unfold State.takeLevel
  repeat' first
    | with_reducible assumption
    | with_reducible exact w2 _
    | with_reducible apply Closed.each hP
    | with_reducible apply Closed.modLane hP
    | with_reducible apply Closed.setLevel hP
    | intro _
    | split
    | dsimp only
    | dsimp only [id]

theorem feedCompare (hP : Closed W P) {s : State} (w : Nat) (cin : Nat) (t : Time) (v : Bool) (f : EvFlags)
    (w1 : ∀ x1', W (.cmp x1')) (w2 : ∀ x1', W (.reg (CU x1' 40))) (w3 : ∀ x1', W (.reg (CU x1' 36))) (h : P s) :
    P (State.feedCompare s w cin t v f) := by
  unfold State.feedCompare
  repeat' first
    | with_reducible assumption
    | with_reducible exact w1 _
    | with_reducible exact w2 _
    | with_reducible exact w3 _
    | with_reducible apply Closed.each hP
    | with_reducible apply Closed.cmpEvent hP
    | intro _
    | split
    | dsimp only
    | dsimp only [id]

theorem crossing (hP : Closed W P) {s : State} (n : Nat) (rise : Bool) (t : Time) (later : Time) (pair : Option Nat)
    (f : EvFlags) (w1 : W (.lane n)) (w2 : W .trig) (w3 : ∀ x1', W (.hist x1')) (w4 : ∀ x1', W (.ival x1'))
    (w5 : ∀ x1', W (.cmp x1')) (w6 : ∀ x1' x2' x3', W (.reg (HU_RG x1' x2' x3')))
    (w7 : ∀ x1', W (.reg (HU_OVERFLOW x1'))) (w8 : ∀ x1', W (.reg (CU x1' 40))) (w9 : ∀ x1', W (.reg (CU x1' 36)))
    (h : P s) :
    P (State.crossing s n rise t later pair f) := by
  unfold State.crossing
  repeat' first
    | with_reducible assumption
    | with_reducible exact w3 _
    | with_reducible exact w4 _
    | with_reducible exact w5 _
    | with_reducible exact w6 _ _ _
    | with_reducible exact w7 _
    | with_reducible exact w8 _
    | with_reducible exact w9 _
    | with_reducible apply Closed.modLane hP
    | with_reducible apply Closed.feed hP
    | with_reducible apply Closed.feedCompare hP
    | intro _
    | split
    | dsimp only
    | dsimp only [id]

theorem pairEdge (hP : Closed W P) {s : State} (n : Nat) (c : Comp) (rise : Bool) (t : Time) (f : EvFlags)
    (w1 : W (.lane n)) (w2 : W .trig) (w3 : ∀ x1', W (.hist x1')) (w4 : ∀ x1', W (.ival x1'))
    (w5 : ∀ x1', W (.cmp x1')) (w6 : ∀ x1' x2' x3', W (.reg (HU_RG x1' x2' x3')))
    (w7 : ∀ x1', W (.reg (HU_OVERFLOW x1'))) (w8 : ∀ x1', W (.reg (CU x1' 40))) (w9 : ∀ x1', W (.reg (CU x1' 36)))
    (h : P s) :
    P (State.pairEdge s n c rise t f) := by
  unfold State.pairEdge
  repeat' first
    | with_reducible assumption
    | with_reducible exact w3 _
    | with_reducible exact w4 _
    | with_reducible exact w5 _
    | with_reducible exact w6 _ _ _
    | with_reducible exact w7 _
    | with_reducible exact w8 _
    | with_reducible exact w9 _
    | with_reducible apply Closed.modLane hP
    | with_reducible apply Closed.crossing hP
    | intro _
    | split
    | dsimp only
    | dsimp only [id]

theorem edgeCrossing (hP : Closed W P) {s : State} (n : Nat) (c : Comp) (rise : Bool) (t : Time) (f : EvFlags)
    (w1 : W (.lane n)) (w2 : W .trig) (w3 : ∀ x1', W (.hist x1')) (w4 : ∀ x1', W (.ival x1'))
    (w5 : ∀ x1', W (.cmp x1')) (w6 : ∀ x1' x2' x3', W (.reg (HU_RG x1' x2' x3')))
    (w7 : ∀ x1', W (.reg (HU_OVERFLOW x1'))) (w8 : ∀ x1', W (.reg (CU x1' 40))) (w9 : ∀ x1', W (.reg (CU x1' 36)))
    (h : P s) :
    P (State.edgeCrossing s n c rise t f) := by
  unfold State.edgeCrossing
  repeat' first
    | with_reducible assumption
    | with_reducible exact w3 _
    | with_reducible exact w4 _
    | with_reducible exact w5 _
    | with_reducible exact w6 _ _ _
    | with_reducible exact w7 _
    | with_reducible exact w8 _
    | with_reducible exact w9 _
    | with_reducible apply Closed.crossing hP
    | with_reducible apply Closed.pairEdge hP
    | intro _
    | split
    | dsimp only
    | dsimp only [id]

theorem followEdge (hP : Closed W P) {s : State} (n : Nat) (c : Comp) (rise : Bool) (t : Time) (f : EvFlags)
    (w1 : W .trig) (w2 : ∀ x1', W (.hist x1')) (w3 : ∀ x1', W (.ival x1')) (w4 : W (.lane n))
    (w5 : ∀ x1', W (.cmp x1')) (w6 : ∀ x1' x2' x3', W (.reg (HU_RG x1' x2' x3')))
    (w7 : ∀ x1', W (.reg (HU_OVERFLOW x1'))) (w8 : ∀ x1', W (.reg (CU x1' 40))) (w9 : ∀ x1', W (.reg (CU x1' 36)))
    (h : P s) :
    P (State.followEdge s n c rise t f) := by
  unfold State.followEdge
  repeat' first
    | with_reducible assumption
    | with_reducible exact w2 _
    | with_reducible exact w3 _
    | with_reducible exact w5 _
    | with_reducible exact w6 _ _ _
    | with_reducible exact w7 _
    | with_reducible exact w8 _
    | with_reducible exact w9 _
    | with_reducible apply Closed.feed hP
    | with_reducible apply Closed.takeLevel hP
    | with_reducible apply Closed.edgeCrossing hP
    | intro _
    | split
    | dsimp only
    | dsimp only [id]

theorem ringRecord (hP : Closed W P) {s : State} (i : Nat) (ws : List DWord) (base : Time)
    (w1 : ∀ x1', W (.sched x1')) (w2 : W (.stream i)) (h : P s) :
    P (State.ringRecord s i ws base) := by
  unfold State.ringRecord
  repeat' first
    | with_reducible assumption
    | with_reducible exact w1 _
    | with_reducible apply Closed.closeSegment hP
    | with_reducible apply Closed.modStream hP
    | with_reducible apply Closed.writeRec hP
    | with_reducible apply Closed.putMark hP
    | with_reducible apply Closed.roomFor hP
    | intro _
    | split
    | dsimp only
    | dsimp only [id]

theorem ringWord (hP : Closed W P) {s : State} (i : Nat) (w : DWord) (w1 : W (.stream i))
    (w2 : ∀ x1', W (.sched x1')) (h : P s) :
    P (State.ringWord s i w) := by
  unfold State.ringWord
  repeat' first
    | with_reducible assumption
    | with_reducible exact w2 _
    | with_reducible apply Closed.ringRecord hP
    | with_reducible apply hP.setStream
    | intro _
    | split
    | dsimp only
    | dsimp only [id]

theorem stakeWord (hP : Closed W P) {s : State} (k : Nat) (w : DWord) (w1 : ∀ x1', W (.queue (stakeQ x1')))
    (w2 : ∀ x1', W (.stream x1')) (w3 : ∀ x1', W (.sched x1')) (h : P s) :
    P (State.stakeWord s k w) := by
  unfold State.stakeWord
  repeat' first
    | with_reducible assumption
    | with_reducible exact w1 _
    | with_reducible exact w2 _
    | with_reducible exact w3 _
    | with_reducible apply Closed.each hP
    | with_reducible apply Closed.modQueue hP
    | with_reducible apply Closed.ringWord hP
    | intro _
    | split
    | dsimp only
    | dsimp only [id]

theorem laneBack (hP : Closed W P) {s : State} (n : Nat) (t : Time) (w1 : ∀ x1', W (.cmp x1'))
    (w2 : ∀ x1', W (.ival x1')) (w3 : ∀ x1', W (.reg (CU x1' 36))) (h : P s) :
    P (State.laneBack s n t) := by
  unfold State.laneBack
  repeat' first
    | with_reducible assumption
    | with_reducible exact w1 _
    | with_reducible exact w2 _
    | with_reducible exact w3 _
    | with_reducible apply Closed.each hP
    | with_reducible apply Closed.cmpLossEnd hP
    | with_reducible apply Closed.srcLoss hP
    | intro _
    | split
    | dsimp only
    | dsimp only [id]

theorem copyRegs (hP : Closed W P) {s : State} (s0 : State) (src : Nat → Nat) (dst : Nat → Nat) (offs : List Nat)
    (w1 : ∀ a, W (.reg a)) (h : P s) :
    P (State.copyRegs s s0 src dst offs) := by
  unfold State.copyRegs
  repeat' first
    | with_reducible assumption
    | with_reducible exact w1 _
    | with_reducible apply Closed.each hP
    | with_reducible apply hP.setReg
    | intro _
    | split
    | dsimp only
    | dsimp only [id]

theorem Change_moveJobs (hP : Closed W P) (c : Change) (s0 : State) {s : State} (w1 : ∀ x1', W (.ival x1'))
    (w2 : ∀ x1', W (.cmp x1')) (w3 : ∀ a, W (.reg a)) (h : P s) :
    P (Change.moveJobs c s0 s) := by
  unfold Sys2Proof.Machine.Change.moveJobs
  repeat' first
    | with_reducible assumption
    | with_reducible exact w1 _
    | with_reducible exact w2 _
    | with_reducible exact w3 _
    | with_reducible apply Closed.each hP
    | with_reducible apply Closed.copyRegs hP
    | with_reducible apply hP.setReg
    | with_reducible apply hP.setCmp
    | with_reducible apply hP.setIval
    | intro _
    | split
    | dsimp only
    | dsimp only [id]

theorem histStart (hP : Closed W P) {s : State} (hu : Nat) (r : Nat) (t : Time) (w1 : W (.hist hu))
    (w2 : ∀ x1', W (.reg (HU_RG hu r x1'))) (h : P s) :
    P (State.histStart s hu r t) := by
  unfold State.histStart
  repeat' first
    | with_reducible assumption
    | with_reducible exact w2 _
    | with_reducible apply Closed.modRegion hP
    | with_reducible apply Closed.openAccum hP
    | intro _
    | split
    | dsimp only
    | dsimp only [id]

theorem ivStart (hP : Closed W P) {s : State} (iu : Nat) (t : Time) (keepSeq : Bool) (w1 : W (.ival iu))
    (w2 : ∀ x1', W (.reg (IU iu x1'))) (h : P s) :
    P (State.ivStart s iu t keepSeq) := by
  unfold State.ivStart
  repeat' first
    | with_reducible assumption
    | with_reducible exact w2 _
    | with_reducible apply Closed.each hP
    | with_reducible apply hP.setReg
    | with_reducible apply hP.setIval
    | intro _
    | split
    | dsimp only
    | dsimp only [id]

theorem freshCompare (hP : Closed W P) {s : State} (cu : Nat) (t : Time) (w1 : W (.cmp cu)) (h : P s) :
    P (State.freshCompare s cu t) := by
  unfold State.freshCompare
  repeat' first
    | with_reducible assumption
    | with_reducible apply hP.setCmp
    | intro _
    | split
    | dsimp only
    | dsimp only [id]

theorem startSequencer (hP : Closed W P) {s : State} (q : Nat) (n : Nat) (keepMarks : Bool)
    (w1 : ∀ x1', W (.box x1')) (w2 : W (.seq q)) (w3 : W (.reg (SQ_STATUS q))) (w4 : W (.reg (SQ_DEAD_LO q)))
    (w5 : W (.reg (SQ_DEAD_LO q + 4))) (w6 : W (.reg (SQ_MISSED q))) (w7 : W (.reg (SQ_FOLDED q)))
    (w8 : ∀ x1', W (.reg (SQ_CNT_LO q x1'))) (w9 : ∀ x1', W (.reg (SQ_CNT_LO q x1' + 4)))
    (w10 : ∀ x1', W (.reg (SQ_TMR_LO q x1'))) (w11 : ∀ x1', W (.reg (SQ_TMR_HI q x1'))) (h : P s) :
    P (State.startSequencer s q n keepMarks) := by
  unfold State.startSequencer
  repeat' first
    | with_reducible assumption
    | with_reducible exact w1 _
    | with_reducible exact w8 _
    | with_reducible exact w9 _
    | with_reducible exact w10 _
    | with_reducible exact w11 _
    | with_reducible apply Closed.each hP
    | with_reducible apply Closed.dropForced hP
    | with_reducible apply Closed.setReg64 hP
    | with_reducible apply Closed.setTimer hP
    | with_reducible apply hP.setReg
    | with_reducible apply hP.setSeq
    | intro _
    | split
    | dsimp only
    | dsimp only [id]

theorem Change_startUnits (hP : Closed W P) (c : Change) {s : State} (w1 : ∀ x1', W (.ival x1'))
    (w2 : ∀ x1', W (.cmp x1')) (w3 : ∀ x1', W (.hist x1')) (w4 : ∀ x1', W (.box x1')) (w5 : ∀ x1', W (.seq x1'))
    (w6 : ∀ a, W (.reg a)) (h : P s) :
    P (Change.startUnits c s) := by
  unfold Sys2Proof.Machine.Change.startUnits
  repeat' first
    | with_reducible assumption
    | with_reducible exact w1 _
    | with_reducible exact w2 _
    | with_reducible exact w3 _
    | with_reducible exact w4 _
    | with_reducible exact w5 _
    | with_reducible exact w6 _
    | with_reducible apply Closed.each hP
    | with_reducible apply Closed.Change_moveJobs hP
    | with_reducible apply Closed.histStart hP
    | with_reducible apply Closed.ivStart hP
    | with_reducible apply Closed.modCmp hP
    | with_reducible apply Closed.freshCompare hP
    | with_reducible apply Closed.cuState hP
    | with_reducible apply Closed.startSequencer hP
    | with_reducible apply hP.setReg
    | intro _
    | split
    | dsimp only
    | dsimp only [id]

theorem configurePod (hP : Closed W P) {s : State} (p : Nat) (q : Nat) (w1 : W (.port p))
    (w2 : ∀ x1', W (.stream x1')) (w3 : ∀ x1', W (.sched x1')) (w4 : ∀ x1', W (.ival x1'))
    (w5 : ∀ x1', W (.cmp x1')) (w6 : ∀ x1', W (.reg (CU x1' 36))) (h : P s) :
    P (State.configurePod s p q) := by
  unfold State.configurePod
  repeat' first
    | with_reducible assumption
    | with_reducible exact w2 _
    | with_reducible exact w3 _
    | with_reducible exact w4 _
    | with_reducible exact w5 _
    | with_reducible exact w6 _
    | with_reducible apply Closed.podRestored hP
    | with_reducible apply Closed.writeImage hP
    | with_reducible apply Closed.writeIdle hP
    | intro _
    | split
    | dsimp only
    | dsimp only [id]

theorem levelLater (hP : Closed W P) {s : State} (n : Nat) (reason : Nat) (t : Time) (w1 : W (.lane n))
    (w2 : ∀ x1', W (.queue (stakeQ x1'))) (w3 : ∀ x1', W (.stream x1')) (w4 : ∀ x1', W (.sched x1')) (h : P s) :
    P (State.levelLater s n reason t) := by
  unfold State.levelLater
  repeat' first
    | with_reducible assumption
    | with_reducible exact w2 _
    | with_reducible exact w3 _
    | with_reducible exact w4 _
    | with_reducible apply Closed.modLane hP
    | with_reducible apply Closed.flushLevel hP
    | intro _
    | split
    | dsimp only
    | dsimp only [id]

theorem Change_startLane (hP : Closed W P) (c : Change) (back : List Nat) {s : State} (n : Nat) (w1 : W (.lane n))
    (w2 : ∀ x1', W (.cmp x1')) (w3 : ∀ x1', W (.ival x1')) (w4 : W .drawn) (w5 : ∀ x1', W (.queue (stakeQ x1')))
    (w6 : ∀ x1', W (.stream x1')) (w7 : ∀ x1', W (.sched x1')) (w8 : ∀ x1', W (.reg (CU x1' 36))) (h : P s) :
    P (Change.startLane c back s n) := by
  unfold Sys2Proof.Machine.Change.startLane
  repeat' first
    | with_reducible assumption
    | with_reducible exact w2 _
    | with_reducible exact w3 _
    | with_reducible exact w5 _
    | with_reducible exact w6 _
    | with_reducible exact w7 _
    | with_reducible exact w8 _
    | with_reducible apply Closed.laneBack hP
    | with_reducible apply Closed.modLane hP
    | with_reducible apply Closed.newState hP
    | with_reducible apply Closed.takeLevel hP
    | with_reducible apply Closed.levelLater hP
    | intro _
    | split
    | dsimp only
    | dsimp only [id]

theorem ledgerChallengeCmd (hP : Closed W P) (x0 : MbImage) {s : State} (w1 : W .drawn) (w2 : W .ledger) (h : P s) :
    P ((ledgerChallengeCmd x0 s).1) := by
  unfold Sys2Proof.Machine.ledgerChallengeCmd
  repeat' first
    | with_reducible assumption
    | with_reducible apply Closed.draw hP
    | with_reducible apply Closed.done hP
    | with_reducible apply hP.modLedger
    | intro _
    | split
    | dsimp only
    | dsimp only [id]

theorem writeFull (hP : Closed W P) {s : State} (n : Nat) (t : Time) (w1 : W (.lane n))
    (w2 : ∀ x1', W (.queue (stakeQ x1'))) (w3 : ∀ x1', W (.stream x1')) (w4 : ∀ x1', W (.sched x1')) (h : P s) :
    P (State.writeFull s n t) := by
  unfold State.writeFull
  repeat' first
    | with_reducible assumption
    | with_reducible exact w2 _
    | with_reducible exact w3 _
    | with_reducible exact w4 _
    | with_reducible apply Closed.each hP
    | with_reducible apply Closed.modLane hP
    | with_reducible apply Closed.writeBlk hP
    | intro _
    | split
    | dsimp only
    | dsimp only [id]

theorem refuseRecord (hP : Closed W P) {s : State} (fatal : Bool) (w1 : W .ledger) (w2 : W (.reg LG_REFUSED))
    (w3 : W (.reg LG_STATUS)) (h : P s) :
    P (State.refuseRecord s fatal) := by
  unfold State.refuseRecord
  repeat' first
    | with_reducible assumption
    | with_reducible apply Closed.setRegBit hP
    | with_reducible apply Closed.countRefused hP
    | intro _
    | split
    | dsimp only
    | dsimp only [id]

theorem putDigest (hP : Closed W P) {s : State} (f : Nat → Nat) (dig : List Byte) (w1 : ∀ a, W (.reg a)) (h : P s) :
    P (State.putDigest s f dig) := by
  unfold State.putDigest
  repeat' first
    | with_reducible assumption
    | with_reducible exact w1 _
    | with_reducible apply Closed.each hP
    | with_reducible apply hP.setReg
    | intro _
    | split
    | dsimp only
    | dsimp only [id]

theorem compareDie (hP : Closed W P) {s : State} (d : Nat) (w1 : ∀ a, W (.reg a)) (h : P s) :
    P (State.compareDie s d) := by
  unfold State.compareDie
  repeat' first
    | with_reducible assumption
    | with_reducible exact w1 _
    | with_reducible apply Closed.putDigest hP
    | with_reducible apply Closed.setRegBit hP
    | intro _
    | split
    | dsimp only
    | dsimp only [id]

theorem moveCompare (hP : Closed W P) {s : State} (c : CmpPlace) (w1 : ∀ x1', W (.cmp x1')) (w2 : W .weaver)
    (w3 : ∀ x1', W (.reg (CU x1' 12))) (h : P s) :
    P (State.moveCompare s c) := by
  unfold State.moveCompare
  repeat' first
    | with_reducible assumption
    | with_reducible exact w1 _
    | with_reducible exact w3 _
    | with_reducible apply Closed.cuState hP
    | with_reducible apply Closed.freshCompare hP
    | with_reducible apply Closed.modCmp hP
    | with_reducible apply hP.modWeaver
    | intro _
    | split
    | dsimp only
    | dsimp only [id]

theorem contextChan (hP : Closed W P) {s : State} (w1 : W .drawn) (h : P s) :
    P ((State.contextChan s).2) := by
  unfold State.contextChan
  repeat' first
    | with_reducible assumption
    | with_reducible apply Closed.draw hP
    | intro _
    | split
    | dsimp only
    | dsimp only [id]

theorem leaveJob (hP : Closed W P) {s : State} (n : Nat) (diag : Bool) (w1 : W (.de n)) (w2 : W .drawn)
    (w3 : ∀ x1', W (.sched x1')) (w4 : W (.reg (DE n 40))) (h : P s) :
    P (State.leaveJob s n diag) := by
  unfold State.leaveJob
  repeat' first
    | with_reducible assumption
    | with_reducible exact w3 _
    | with_reducible apply Closed.modDe hP
    | with_reducible apply Closed.contextChan hP
    | with_reducible apply Closed.askWrite hP
    | with_reducible apply Closed.addReg hP
    | intro _
    | split
    | dsimp only
    | dsimp only [id]

theorem ledFault (hP : Closed W P) {s : State} (unit : Word) (cls : Nat) (detail : List Byte) (w1 : W .ledger)
    (h : P s) :
    P (State.ledFault s unit cls detail) := by
  unfold State.ledFault
  repeat' first
    | with_reducible assumption
    | with_reducible apply Closed.ledgerReq hP
    | intro _
    | split
    | dsimp only
    | dsimp only [id]

theorem raiseFault (hP : Closed W P) {s : State} (unit : Word) (cls : Nat) (detail : List Byte) (w1 : W .ledger)
    (w2 : W .weaver) (h : P s) :
    P (State.raiseFault s unit cls detail) := by
  unfold State.raiseFault
  repeat' first
    | with_reducible assumption
    | with_reducible apply Closed.ledFault hP
    | with_reducible apply hP.modWeaver
    | intro _
    | split
    | dsimp only
    | dsimp only [id]

theorem rerunOn (hP : Closed W P) {s : State} (e : Nat) (n : Nat) (c : Corrupt) (w1 : W (.de e)) (w2 : W (.de n))
    (w3 : W .drawn) (w4 : ∀ x1', W (.sched x1')) (w5 : W .ledger) (w6 : W .weaver) (w7 : W (.reg (DE n 40)))
    (w8 : W (.reg (DE n 4))) (w9 : W (.reg (DE n 4 + 4))) (w10 : W (.reg (DE n 12))) (w11 : W (.reg (DE n 20)))
    (w12 : W (.reg (DE n 24))) (w13 : W (.reg (DE n 28))) (w14 : W (.reg (DE n 32))) (w15 : W (.reg (DE n 36)))
    (h : P s) :
    P (State.rerunOn s e n c) := by
  unfold State.rerunOn
  repeat' first
    | with_reducible assumption
    | with_reducible exact w4 _
    | with_reducible apply Closed.modDe hP
    | with_reducible apply Closed.addReg64 hP
    | with_reducible apply Closed.leaveJob hP
    | with_reducible apply Closed.incReg hP
    | with_reducible apply Closed.deFault hP
    | with_reducible apply Closed.ledReference hP
    | with_reducible apply Closed.raiseFault hP
    | intro _
    | split
    | dsimp only
    | dsimp only [id]

theorem rerun (hP : Closed W P) {s : State} (e : Nat) (c : Corrupt) (w1 : ∀ x1', W (.de x1')) (w2 : W .drawn)
    (w3 : ∀ x1', W (.sched x1')) (w4 : W .ledger) (w5 : W .weaver) (w6 : ∀ x1', W (.reg (DE x1' 40)))
    (w7 : ∀ x1', W (.reg (DE x1' 4))) (w8 : ∀ x1', W (.reg (DE x1' 4 + 4))) (w9 : ∀ x1', W (.reg (DE x1' 12)))
    (w10 : ∀ x1', W (.reg (DE x1' 20))) (w11 : ∀ x1', W (.reg (DE x1' 24))) (w12 : ∀ x1', W (.reg (DE x1' 28)))
    (w13 : ∀ x1', W (.reg (DE x1' 32))) (w14 : ∀ x1', W (.reg (DE x1' 36))) (h : P s) :
    P (State.rerun s e c) := by
  unfold State.rerun
  repeat' first
    | with_reducible assumption
    | with_reducible exact w1 _
    | with_reducible exact w3 _
    | with_reducible exact w6 _
    | with_reducible exact w7 _
    | with_reducible exact w8 _
    | with_reducible exact w9 _
    | with_reducible exact w10 _
    | with_reducible exact w11 _
    | with_reducible exact w12 _
    | with_reducible exact w13 _
    | with_reducible exact w14 _
    | with_reducible apply Closed.rerunOn hP
    | with_reducible apply Closed.modDe hP
    | intro _
    | split
    | dsimp only
    | dsimp only [id]

theorem decompressorCorrupt (hP : Closed W P) {s : State} (e : Nat) (c : Corrupt) (w1 : ∀ x1', W (.de x1'))
    (w2 : W .drawn) (w3 : ∀ x1', W (.sched x1')) (w4 : W .ledger) (w5 : W .weaver)
    (w6 : ∀ x1', W (.reg (DE x1' 40))) (w7 : ∀ x1', W (.reg (DE x1' 4))) (w8 : ∀ x1', W (.reg (DE x1' 4 + 4)))
    (w9 : ∀ x1', W (.reg (DE x1' 12))) (w10 : ∀ x1', W (.reg (DE x1' 20))) (w11 : ∀ x1', W (.reg (DE x1' 24)))
    (w12 : ∀ x1', W (.reg (DE x1' 28))) (w13 : ∀ x1', W (.reg (DE x1' 32))) (w14 : ∀ x1', W (.reg (DE x1' 36)))
    (w15 : W (.reg (DE e 16))) (h : P s) :
    P (State.decompressorCorrupt s e c) := by
  unfold State.decompressorCorrupt
  repeat' first
    | with_reducible assumption
    | with_reducible exact w1 _
    | with_reducible exact w3 _
    | with_reducible exact w6 _
    | with_reducible exact w7 _
    | with_reducible exact w8 _
    | with_reducible exact w9 _
    | with_reducible exact w10 _
    | with_reducible exact w11 _
    | with_reducible exact w12 _
    | with_reducible exact w13 _
    | with_reducible exact w14 _
    | with_reducible apply Closed.rerun hP
    | with_reducible apply Closed.corruptFound hP
    | intro _
    | split
    | dsimp only
    | dsimp only [id]

theorem suspectBank (hP : Closed W P) {s : State} (hu : Nat) (r : Nat) (bank : Bool) (w1 : W (.hist hu)) (h : P s) :
    P (State.suspectBank s hu r bank) := by
  unfold State.suspectBank
  repeat' first
    | with_reducible assumption
    | with_reducible apply Closed.modRegion hP
    | intro _
    | split
    | dsimp only
    | dsimp only [id]

theorem rgParity (hP : Closed W P) {s : State} (hu : Nat) (r : Nat) (t : Time) (w1 : W (.hist hu))
    (w2 : W (.reg (HU_RG hu r 60))) (h : P s) :
    P (State.rgParity s hu r t) := by
  unfold State.rgParity
  repeat' first
    | with_reducible assumption
    | with_reducible apply Closed.modClosing hP
    | with_reducible apply Closed.setRegBit hP
    | intro _
    | split
    | dsimp only
    | dsimp only [id]

theorem rgSat (hP : Closed W P) {s : State} (hu : Nat) (r : Nat) (t : Time) (w1 : W (.hist hu))
    (w2 : W (.reg (HU_RG hu r 60))) (h : P s) :
    P (State.rgSat s hu r t) := by
  unfold State.rgSat
  repeat' first
    | with_reducible assumption
    | with_reducible apply Closed.modClosing hP
    | with_reducible apply Closed.setRegBit hP
    | intro _
    | split
    | dsimp only
    | dsimp only [id]

theorem binAt (hP : Closed W P) {s : State} (hu : Nat) (r : Nat) (t : Time) (k : Nat) (top : Nat) (parity : Bool)
    (w1 : W (.hist hu)) (w2 : W (.reg (HU_RG hu r 60))) (w3 : W (.reg (HU_PARITY hu))) (h : P s) :
    P (State.binAt s hu r t k top parity) := by
  unfold State.binAt
  repeat' first
    | with_reducible assumption
    | with_reducible apply Closed.suspectBank hP
    | with_reducible apply Closed.incReg hP
    | with_reducible apply Closed.rgParity hP
    | with_reducible apply Closed.modRegion hP
    | with_reducible apply Closed.rgSat hP
    | intro _
    | split
    | dsimp only
    | dsimp only [id]

theorem emptyRef (hP : Closed W P) {s : State} (r : Nat) (w1 : W .dram) (w2 : W (.ref r)) (h : P s) :
    P (State.emptyRef s r) := by
  unfold State.emptyRef
  repeat' first
    | with_reducible assumption
    | with_reducible apply Closed.freeRef hP
    | with_reducible apply hP.setRef
    | intro _
    | split
    | dsimp only
    | dsimp only [id]

theorem failCommand (hP : Closed W P) {s : State} (m : Nat) (status : Nat) (w1 : W .dram) (w2 : ∀ x1', W (.ref x1'))
    (w3 : W (.box m)) (h : P s) :
    P (State.failCommand s m status) := by
  unfold State.failCommand
  repeat' first
    | with_reducible assumption
    | with_reducible exact w2 _
    | with_reducible apply Closed.respond hP
    | with_reducible apply Closed.emptyRef hP
    | intro _
    | split
    | dsimp only
    | dsimp only [id]

theorem checked (hP : Closed W P) {s : State} (l : List (Option Response)) (body : State × Option Response) (h : P s)
    (hb : P body.1) : P (Sys2Proof.Machine.checked s l body).1 := by
  have _ := hP
  unfold Sys2Proof.Machine.checked
  split
  · exact h
  · exact hb

theorem modStaged (hP : Closed W P) {s : State} (f : Intent → Intent) (w1 : W .weaver) (h : P s) :
    P (State.modStaged s f) := by
  unfold State.modStaged
  repeat' first
    | with_reducible assumption
    | with_reducible apply hP.modWeaver
    | intro _
    | split
    | dsimp only
    | dsimp only [id]

theorem configureLanesCmd (hP : Closed W P) (img : MbImage) {s : State} (w1 : W .weaver) (h : P s) :
    P ((configureLanesCmd img s).1) := by
  unfold Sys2Proof.Machine.configureLanesCmd
  repeat' first
    | with_reducible assumption
    | with_reducible apply Closed.checked hP
    | with_reducible apply Closed.done hP
    | with_reducible apply Closed.modStaged hP
    | intro _
    | split
    | dsimp only
    | dsimp only [id]

theorem syncResponse (hP : Closed W P) {s : State} (m : Nat) (w1 : W (.box m)) (h : P s) :
    P (State.syncResponse s m) := by
  unfold State.syncResponse
  repeat' first
    | with_reducible assumption
    | with_reducible apply hP.setBox
    | intro _
    | split
    | dsimp only
    | dsimp only [id]

theorem laterTerm (hP : Closed W P) {s : State} (e : TimedEv) (w1 : W .trig) (h : P s) :
    P (State.laterTerm s e) := by
  unfold State.laterTerm
  repeat' first
    | with_reducible assumption
    | with_reducible apply hP.modTrig
    | intro _
    | split
    | dsimp only
    | dsimp only [id]

theorem swapWindow (hP : Closed W P) {s : State} (w : Nat) (w1 : W .pcie) (w2 : ∀ x1', W (.box x1'))
    (w3 : W (.reg PCI_BAR2_GEN_NEXT)) (w4 : ∀ x1', W (.reg (PCI_BAR2_GEN x1'))) (h : P s) :
    P (State.swapWindow s w) := by
  unfold State.swapWindow
  repeat' first
    | with_reducible assumption
    | with_reducible exact w2 _
    | with_reducible exact w4 _
    | with_reducible apply Closed.bumpWindows hP
    | with_reducible apply Closed.respond hP
    | with_reducible apply hP.modPcie
    | intro _
    | split
    | dsimp only
    | dsimp only [id]

theorem startFails (hP : Closed W P) {s : State} (code : Nat) (mounted : Bool) (pending : Option Nat)
    (w1 : W .power) (w2 : W .ledger) (w3 : W (.reg PWR_STATE)) (h : P s) :
    P (State.startFails s code mounted pending) := by
  unfold State.startFails
  repeat' first
    | with_reducible assumption
    | with_reducible apply Closed.modFw hP
    | with_reducible apply Closed.setPwr hP
    | with_reducible apply Closed.setRegF hP
    | with_reducible apply Closed.ledgerReq hP
    | intro _
    | split
    | dsimp only
    | dsimp only [id]

theorem stageDef (hP : Closed W P) {s : State} (kind : Nat) (idx : Nat) (p : List Byte) (w1 : W .weaver) (h : P s) :
    P (State.stageDef s kind idx p) := by
  unfold State.stageDef
  repeat' first
    | with_reducible assumption
    | with_reducible apply Closed.modStaged hP
    | intro _
    | split
    | dsimp only
    | dsimp only [id]

theorem bindStreamCmd (hP : Closed W P) (img : MbImage) {s : State} (w1 : W .weaver) (h : P s) :
    P ((bindStreamCmd img s).1) := by
  unfold Sys2Proof.Machine.bindStreamCmd
  repeat' first
    | with_reducible assumption
    | with_reducible apply Closed.checked hP
    | with_reducible apply Closed.done hP
    | with_reducible apply Closed.stageDef hP
    | intro _
    | split
    | dsimp only
    | dsimp only [id]

theorem hardReset (hP : Closed W P) {s : State} (w1 : ∀ p, W p) (h : P s) :
    P (State.hardReset s) := by
  unfold State.hardReset
  repeat' first
    | with_reducible assumption
    | with_reducible exact w1 _
    | with_reducible apply Closed.each hP
    | with_reducible apply Closed.setMcState hP
    | with_reducible apply Closed.setRegF hP
    | with_reducible apply Closed.setPwr hP
    | with_reducible apply hP.setReg
    | with_reducible apply hP.resetBase
    | intro _
    | split
    | dsimp only
    | dsimp only [id]

theorem ledShed (hP : Closed W P) {s : State} (key : Nat) (restored : Bool) (w1 : W .ledger) (h : P s) :
    P (State.ledShed s key restored) := by
  unfold State.ledShed
  repeat' first
    | with_reducible assumption
    | with_reducible apply Closed.ledgerReq hP
    | intro _
    | split
    | dsimp only
    | dsimp only [id]

theorem latch (hP : Closed W P) {s : State} (a : Nat) (w1 : ∀ x1', W (.ce x1')) (w2 : ∀ x1', W (.de x1'))
    (w3 : ∀ x1', W (.ival x1')) (h : P s) :
    P (State.latch s a) := by
  unfold State.latch
  repeat' first
    | with_reducible assumption
    | with_reducible exact w1 _
    | with_reducible exact w2 _
    | with_reducible exact w3 _
    | with_reducible apply Closed.modCe hP
    | with_reducible apply Closed.modDe hP
    | with_reducible apply Closed.modIval hP
    | intro _
    | split
    | dsimp only
    | dsimp only [id]

theorem noticeReady (hP : Closed W P) {s : State} (hist : Nat) (seq : Nat) (w1 : W (.queue 2)) (w2 : W .station)
    (w3 : W .mbx) (w4 : W (.reg (HUB_Q 2 16))) (w5 : W (.reg (HUB_Q 2 24))) (w6 : W (.reg (HUB_Q 2 20)))
    (w7 : W (.reg MB_NTF_NSEQ)) (h : P s) :
    P (State.noticeReady s hist seq) := by
  unfold State.noticeReady
  repeat' first
    | with_reducible assumption
    | with_reducible apply Closed.notice hP
    | intro _
    | split
    | dsimp only
    | dsimp only [id]

theorem schedule (hP : Closed W P) {s : State} (w1 : ∀ x1', W (.sched x1')) (h : P s) :
    P (State.schedule s) := by
  unfold State.schedule
  repeat' first
    | with_reducible assumption
    | with_reducible exact w1 _
    | with_reducible apply Closed.each hP
    | with_reducible apply Closed.modSched hP
    | intro _
    | split
    | dsimp only
    | dsimp only [id]

theorem abandonReads (hP : Closed W P) {s : State} (w1 : W .pcie) (h : P s) :
    P (State.abandonReads s) := by
  unfold State.abandonReads
  repeat' first
    | with_reducible assumption
    | with_reducible apply hP.modPcie
    | intro _
    | split
    | dsimp only
    | dsimp only [id]

theorem stopUnits (hP : Closed W P) {s : State} (w1 : W .time) (w2 : W .trig) (w3 : ∀ x1', W (.seq x1'))
    (w4 : ∀ x1', W (.cmp x1')) (w5 : ∀ x1', W (.ival x1')) (w6 : ∀ x1', W (.hist x1')) (w7 : ∀ x1', W (.lane x1'))
    (w8 : ∀ x1', W (.tout x1')) (w9 : W (.reg STN_SYNC)) (w10 : ∀ x1', W (.reg (SQ_STATUS x1')))
    (w11 : ∀ x1', W (.reg (CU x1' 12))) (w12 : ∀ x1' x2', W (.reg (HU_RG x1' x2' 4))) (h : P s) :
    P (State.stopUnits s) := by
  unfold State.stopUnits
  repeat' first
    | with_reducible assumption
    | with_reducible exact w3 _
    | with_reducible exact w4 _
    | with_reducible exact w5 _
    | with_reducible exact w6 _
    | with_reducible exact w7 _
    | with_reducible exact w8 _
    | with_reducible exact w10 _
    | with_reducible exact w11 _
    | with_reducible exact w12 _ _
    | with_reducible apply Closed.each hP
    | with_reducible apply Closed.setRegBit hP
    | with_reducible apply Closed.setRegF hP
    | with_reducible apply Closed.setRegion hP
    | with_reducible apply Closed.modHist hP
    | with_reducible apply Closed.modLane hP
    | with_reducible apply hP.setReg
    | with_reducible apply hP.setSeq
    | with_reducible apply hP.setTout
    | with_reducible apply hP.setCmp
    | with_reducible apply hP.setIval
    | with_reducible apply hP.modTrig
    | with_reducible apply hP.modTime
    | intro _
    | split
    | dsimp only
    | dsimp only [id]

theorem verifyFail (hP : Closed W P) {s : State} (b : Nat) (offset : Nat) (w1 : W (.queue 2)) (w2 : W .station)
    (w3 : W .mbx) (w4 : W .ledger) (w5 : W .weaver) (w6 : W (.reg LG_VERIFY_FAIL)) (w7 : W (.reg LG_STATUS))
    (w8 : W (.reg (HUB_Q 2 16))) (w9 : W (.reg (HUB_Q 2 24))) (w10 : W (.reg (HUB_Q 2 20)))
    (w11 : W (.reg MB_NTF_NSEQ)) (h : P s) :
    P (State.verifyFail s b offset) := by
  unfold State.verifyFail
  repeat' first
    | with_reducible assumption
    | with_reducible apply Closed.raiseFault hP
    | with_reducible apply Closed.bankOut hP
    | with_reducible apply Closed.incReg hP
    | with_reducible apply Closed.ledgerReq hP
    | intro _
    | split
    | dsimp only
    | dsimp only [id]

theorem bankWrite (hP : Closed W P) {s : State} (b : Nat) (r : LedgerRec) (w1 : W .ledger) (h : P s) :
    P (State.bankWrite s b r) := by
  unfold State.bankWrite
  repeat' first
    | with_reducible assumption
    | with_reducible apply hP.modLedger
    | intro _
    | split
    | dsimp only
    | dsimp only [id]

theorem popLedger (hP : Closed W P) {s : State} (w1 : W (.queue 3)) (w2 : W .station) (w3 : W (.reg (HUB_Q 3 16)))
    (w4 : W (.reg (HUB_Q 3 24))) (w5 : W (.reg (HUB_Q 3 20))) (h : P s) :
    P (State.popLedger s) := by
  unfold State.popLedger
  repeat' first
    | with_reducible assumption
    | with_reducible apply Closed.settleQueue hP
    | intro _
    | split
    | dsimp only
    | dsimp only [id]

theorem flushRecords (hP : Closed W P) (fail : Option (Nat × Nat)) (x1 : List LedgerRec) (x2 : Nat) {x3 : State}
    (w1 : W (.queue 2)) (w2 : W .station) (w3 : W .mbx) (w4 : W .ledger) (w5 : W .weaver) (w6 : W (.queue 3))
    (w7 : W (.reg LG_VERIFY_FAIL)) (w8 : W (.reg LG_STATUS)) (w9 : W (.reg (HUB_Q 2 16)))
    (w10 : W (.reg (HUB_Q 2 24))) (w11 : W (.reg (HUB_Q 2 20))) (w12 : W (.reg MB_NTF_NSEQ))
    (w13 : W (.reg (HUB_Q 3 16))) (w14 : W (.reg (HUB_Q 3 24))) (w15 : W (.reg (HUB_Q 3 20))) (h : P x3) :
    P (State.flushRecords fail x1 x2 x3) := by
  induction x1 generalizing fail x2 x3 with
  | nil =>
    unfold State.flushRecords
    repeat' first
      | with_reducible assumption
      | with_reducible apply Closed.verifyFail hP
      | with_reducible apply Closed.bankWrite hP
      | with_reducible apply Closed.popLedger hP
      | intro _
      | split
      | dsimp only
      | dsimp only [id]
  | cons e l ih =>
    unfold State.flushRecords
    repeat' first
      | with_reducible apply ih
      | with_reducible assumption
      | with_reducible apply Closed.verifyFail hP
      | with_reducible apply Closed.bankWrite hP
      | with_reducible apply Closed.popLedger hP
      | intro _
      | split
      | dsimp only
      | dsimp only [id]

theorem flushLedger (hP : Closed W P) {s : State} (fail : Option (Nat × Nat)) (w1 : W (.queue 2)) (w2 : W .station)
    (w3 : W .mbx) (w4 : W .ledger) (w5 : W .weaver) (w6 : W (.queue 3)) (w7 : W (.reg LG_FLUSHES))
    (w8 : W (.reg LG_VERIFY_FAIL)) (w9 : W (.reg LG_STATUS)) (w10 : W (.reg (HUB_Q 2 16)))
    (w11 : W (.reg (HUB_Q 2 24))) (w12 : W (.reg (HUB_Q 2 20))) (w13 : W (.reg MB_NTF_NSEQ))
    (w14 : W (.reg (HUB_Q 3 16))) (w15 : W (.reg (HUB_Q 3 24))) (w16 : W (.reg (HUB_Q 3 20))) (h : P s) :
    P (State.flushLedger s fail) := by
  unfold State.flushLedger
  repeat' first
    | with_reducible assumption
    | with_reducible apply Closed.setRegBit hP
    | with_reducible apply Closed.flushRecords hP
    | with_reducible apply Closed.incReg hP
    | intro _
    | split
    | dsimp only
    | dsimp only [id]

theorem snapWord (hP : Closed W P) {s : State} (unit : Word) (e : Word) (w1 : W .drawn) (h : P s) :
    P ((State.snapWord s unit e).2) := by
  unfold State.snapWord
  repeat' first
    | with_reducible assumption
    | with_reducible apply Closed.draw hP
    | intro _
    | split
    | dsimp only
    | dsimp only [id]

theorem snapWords (hP : Closed W P) {s : State} (unit : Word) (x2 : List Word) (w1 : W .drawn) (h : P s) :
    P ((State.snapWords s unit x2).2) := by
  induction x2 generalizing s unit with
  | nil =>
    unfold State.snapWords
    repeat' first
      | with_reducible assumption
      | with_reducible apply Closed.snapWord hP
      | intro _
      | split
      | dsimp only
      | dsimp only [id]
  | cons e l ih =>
    unfold State.snapWords
    repeat' first
      | with_reducible apply ih
      | with_reducible assumption
      | with_reducible apply Closed.snapWord hP
      | intro _
      | split
      | dsimp only
      | dsimp only [id]

theorem dueFlush (hP : Closed W P) {s : State} (w1 : W (.reg LG_STATUS)) (h : P s) :
    P (State.dueFlush s) := by
  unfold State.dueFlush
  repeat' first
    | with_reducible assumption
    | with_reducible apply Closed.setRegBit hP
    | intro _
    | split
    | dsimp only
    | dsimp only [id]

theorem createRecord (hP : Closed W P) {s : State} (r : LedgerReq) (backward : Bool) (w1 : W .ledger)
    (w2 : W .drawn) (w3 : W (.queue 3)) (w4 : W .station) (w5 : W (.queue 2)) (w6 : W .mbx)
    (w7 : W (.reg LG_REFUSED)) (w8 : W (.reg LG_STATUS)) (w9 : W (.reg LG_NEXT_SEQ_LO))
    (w10 : W (.reg (LG_NEXT_SEQ_LO + 4))) (w11 : W (.reg (HUB_Q 3 16))) (w12 : W (.reg (HUB_Q 3 24)))
    (w13 : W (.reg (HUB_Q 3 20))) (w14 : W (.reg (HUB_Q 2 16))) (w15 : W (.reg (HUB_Q 2 24)))
    (w16 : W (.reg (HUB_Q 2 20))) (w17 : W (.reg MB_NTF_NSEQ)) (h : P s) :
    P ((State.createRecord s r backward).1) := by
  unfold State.createRecord
  repeat' first
    | with_reducible assumption
    | with_reducible apply Closed.when hP
    | with_reducible apply Closed.refuseRecord hP
    | with_reducible apply Closed.snapWords hP
    | with_reducible apply Closed.pushPacket hP
    | with_reducible apply Closed.setReg64 hP
    | with_reducible apply Closed.dueFlush hP
    | with_reducible apply Closed.recordNotices hP
    | intro _
    | split
    | dsimp only
    | dsimp only [id]

theorem createNext (hP : Closed W P) {s : State} (w1 : W .ledger) (w2 : W .drawn) (w3 : W (.queue 3))
    (w4 : W .station) (w5 : W (.queue 2)) (w6 : W .mbx) (w7 : W (.reg LG_REFUSED)) (w8 : W (.reg LG_STATUS))
    (w9 : W (.reg LG_NEXT_SEQ_LO)) (w10 : W (.reg (LG_NEXT_SEQ_LO + 4))) (w11 : W (.reg (HUB_Q 3 16)))
    (w12 : W (.reg (HUB_Q 3 24))) (w13 : W (.reg (HUB_Q 3 20))) (w14 : W (.reg (HUB_Q 2 16)))
    (w15 : W (.reg (HUB_Q 2 24))) (w16 : W (.reg (HUB_Q 2 20))) (w17 : W (.reg MB_NTF_NSEQ)) (h : P s) :
    P (State.createNext s) := by
  unfold State.createNext
  repeat' first
    | with_reducible assumption
    | with_reducible apply Closed.createRecord hP
    | with_reducible apply hP.modLedger
    | intro _
    | split
    | dsimp only
    | dsimp only [id]

theorem createAll (hP : Closed W P) (x0 : Nat) {x1 : State} (w1 : W .ledger) (w2 : W .drawn) (w3 : W (.queue 3))
    (w4 : W .station) (w5 : W (.queue 2)) (w6 : W .mbx) (w7 : W (.reg LG_REFUSED)) (w8 : W (.reg LG_STATUS))
    (w9 : W (.reg LG_NEXT_SEQ_LO)) (w10 : W (.reg (LG_NEXT_SEQ_LO + 4))) (w11 : W (.reg (HUB_Q 3 16)))
    (w12 : W (.reg (HUB_Q 3 24))) (w13 : W (.reg (HUB_Q 3 20))) (w14 : W (.reg (HUB_Q 2 16)))
    (w15 : W (.reg (HUB_Q 2 24))) (w16 : W (.reg (HUB_Q 2 20))) (w17 : W (.reg MB_NTF_NSEQ)) (h : P x1) :
    P (State.createAll x0 x1) := by
  induction x0 generalizing x1 with
  | zero =>
    unfold State.createAll
    repeat' first
      | with_reducible assumption
      | with_reducible apply Closed.createNext hP
      | intro _
      | split
      | dsimp only
      | dsimp only [id]
  | succ fuel ih =>
    unfold State.createAll
    repeat' first
      | with_reducible apply ih
      | with_reducible assumption
      | with_reducible apply Closed.createNext hP
      | intro _
      | split
      | dsimp only
      | dsimp only [id]

theorem upset (hP : Closed W P) {s : State} (l : List (BitVec 26 × Word)) (w1 : ∀ a, W (.reg a)) (h : P s) :
    P (State.upset s l) := by
  unfold State.upset
  repeat' first
    | with_reducible assumption
    | with_reducible exact w1 _
    | with_reducible apply Closed.each hP
    | with_reducible apply hP.setReg
    | intro _
    | split
    | dsimp only
    | dsimp only [id]

theorem ledMismatch (hP : Closed W P) {s : State} (unit : Word) (kind : Nat) (restored : Bool)
    (expected : List Byte) (reported : List Byte) (w1 : W .ledger) (h : P s) :
    P (State.ledMismatch s unit kind restored expected reported) := by
  unfold State.ledMismatch
  repeat' first
    | with_reducible assumption
    | with_reducible apply Closed.ledgerReq hP
    | intro _
    | split
    | dsimp only
    | dsimp only [id]

theorem noticeMismatch (hP : Closed W P) {s : State} (unit : Word) (kind : Nat) (restored : Bool)
    (w1 : W (.queue 2)) (w2 : W .station) (w3 : W .mbx) (w4 : W (.reg (HUB_Q 2 16))) (w5 : W (.reg (HUB_Q 2 24)))
    (w6 : W (.reg (HUB_Q 2 20))) (w7 : W (.reg MB_NTF_NSEQ)) (h : P s) :
    P (State.noticeMismatch s unit kind restored) := by
  unfold State.noticeMismatch
  repeat' first
    | with_reducible assumption
    | with_reducible apply Closed.notice hP
    | intro _
    | split
    | dsimp only
    | dsimp only [id]

theorem clearMismatch (hP : Closed W P) {s : State} (u : Word) (kind : Nat) (expected : List Byte)
    (reported : List Byte) (w1 : W .weaver) (w2 : W (.queue 2)) (w3 : W .station) (w4 : W .mbx) (w5 : W .ledger)
    (w6 : W (.reg (HUB_Q 2 16))) (w7 : W (.reg (HUB_Q 2 24))) (w8 : W (.reg (HUB_Q 2 20)))
    (w9 : W (.reg MB_NTF_NSEQ)) (w10 : W (.reg HUB_HEALTH)) (h : P s) :
    P (State.clearMismatch s u kind expected reported) := by
  unfold State.clearMismatch
  repeat' first
    | with_reducible assumption
    | with_reducible apply Closed.ledMismatch hP
    | with_reducible apply Closed.noticeMismatch hP
    | with_reducible apply Closed.setRegBit hP
    | with_reducible apply hP.modWeaver
    | intro _
    | split
    | dsimp only
    | dsimp only [id]

theorem rewriteDie (hP : Closed W P) {s : State} (d : Nat) (w1 : ∀ a, W (.reg a)) (h : P s) :
    P (State.rewriteDie s d) := by
  unfold State.rewriteDie
  repeat' first
    | with_reducible assumption
    | with_reducible exact w1 _
    | with_reducible apply Closed.each hP
    | with_reducible apply hP.setReg
    | intro _
    | split
    | dsimp only
    | dsimp only [id]

theorem raiseMismatch (hP : Closed W P) {s : State} (u : Word) (kind : Nat) (expected : List Byte)
    (reported : List Byte) (w1 : W .weaver) (w2 : W (.queue 2)) (w3 : W .station) (w4 : W .mbx) (w5 : W .ledger)
    (w6 : W (.reg (HUB_Q 2 16))) (w7 : W (.reg (HUB_Q 2 24))) (w8 : W (.reg (HUB_Q 2 20)))
    (w9 : W (.reg MB_NTF_NSEQ)) (w10 : W (.reg HUB_HEALTH)) (h : P s) :
    P (State.raiseMismatch s u kind expected reported) := by
  unfold State.raiseMismatch
  repeat' first
    | with_reducible assumption
    | with_reducible apply Closed.ledMismatch hP
    | with_reducible apply Closed.noticeMismatch hP
    | with_reducible apply Closed.setRegBit hP
    | with_reducible apply hP.modWeaver
    | intro _
    | split
    | dsimp only
    | dsimp only [id]

theorem checkDie (hP : Closed W P) {s : State} (d : Nat) (upsets : List (BitVec 26 × Word)) (sticky : Bool)
    (w1 : W .weaver) (w2 : W (.queue 2)) (w3 : W .station) (w4 : W .mbx) (w5 : W .ledger) (w6 : ∀ a, W (.reg a))
    (h : P s) :
    P (State.checkDie s d upsets sticky) := by
  unfold State.checkDie
  repeat' first
    | with_reducible assumption
    | with_reducible exact w6 _
    | with_reducible apply Closed.upset hP
    | with_reducible apply Closed.compareDie hP
    | with_reducible apply Closed.clearMismatch hP
    | with_reducible apply Closed.rewriteDie hP
    | with_reducible apply Closed.raiseMismatch hP
    | with_reducible apply hP.modWeaver
    | intro _
    | split
    | dsimp only
    | dsimp only [id]

theorem lockFile (hP : Closed W P) {s : State} (w1 : W .station) (w2 : W .weaver) (w3 : W (.queue 2)) (w4 : W .mbx)
    (w5 : W .ledger) (w6 : ∀ a, W (.reg a)) (h : P s) :
    P (State.lockFile s) := by
  unfold State.lockFile
  repeat' first
    | with_reducible assumption
    | with_reducible exact w6 _
    | with_reducible apply Closed.each hP
    | with_reducible apply Closed.setRegBit hP
    | with_reducible apply Closed.followWater hP
    | with_reducible apply Closed.checkDie hP
    | with_reducible apply Closed.ledgerReq hP
    | with_reducible apply hP.setReg
    | intro _
    | split
    | dsimp only
    | dsimp only [id]

theorem clearWindows (hP : Closed W P) {s : State} (w1 : W .pcie) (w2 : W (.reg PCI_BAR2_GEN_NEXT))
    (w3 : ∀ x1', W (.reg (PCI_BAR2_GEN x1'))) (h : P s) :
    P (State.clearWindows s) := by
  unfold State.clearWindows
  repeat' first
    | with_reducible assumption
    | with_reducible exact w3 _
    | with_reducible apply Closed.bumpWindows hP
    | with_reducible apply hP.modPcie
    | intro _
    | split
    | dsimp only
    | dsimp only [id]

theorem destroyHist (hP : Closed W P) {s : State} (idx : Nat) (w1 : ∀ x1', W (.hist x1')) (w2 : W (.image idx))
    (h : P s) :
    P (State.destroyHist s idx) := by
  unfold State.destroyHist
  repeat' first
    | with_reducible assumption
    | with_reducible exact w1 _
    | with_reducible apply Closed.each hP
    | with_reducible apply Closed.modRegion hP
    | with_reducible apply hP.delImage
    | intro _
    | split
    | dsimp only
    | dsimp only [id]

theorem destroyObject (hP : Closed W P) {s : State} (key : Nat) (w1 : W .dram) (w2 : W .weaver)
    (w3 : ∀ x1', W (.stream x1')) (w4 : ∀ x1', W (.ref x1')) (w5 : ∀ x1', W (.hist x1'))
    (w6 : ∀ x1', W (.image x1')) (h : P s) :
    P (State.destroyObject s key) := by
  unfold State.destroyObject
  repeat' first
    | with_reducible assumption
    | with_reducible exact w3 _
    | with_reducible exact w4 _
    | with_reducible exact w5 _
    | with_reducible exact w6 _
    | with_reducible apply Closed.freeRef hP
    | with_reducible apply Closed.destroyHist hP
    | with_reducible apply hP.modWeaver
    | with_reducible apply hP.delStream
    | with_reducible apply hP.delRef
    | intro _
    | split
    | dsimp only
    | dsimp only [id]

theorem writePlaceRo (hP : Closed W P) {s : State} (i : Intent) (pl : Placement) (w1 : ∀ x1', W (.port x1'))
    (w2 : ∀ x1', W (.de x1')) (w3 : ∀ x1' x2', W (.reg (HU_RG x1' x2' 32)))
    (w4 : ∀ x1' x2', W (.reg (HU_RG x1' x2' 4))) (w5 : ∀ x1', W (.reg (PP_STATUS x1')))
    (w6 : ∀ x1' x2', W (.reg (CE_SLOT x1' x2'))) (w7 : ∀ x1', W (.reg (CE x1' 0))) (w8 : ∀ x1', W (.reg (DE x1' 0)))
    (h : P s) :
    P (State.writePlaceRo s i pl) := by
  unfold State.writePlaceRo
  repeat' first
    | with_reducible assumption
    | with_reducible exact w1 _
    | with_reducible exact w2 _
    | with_reducible exact w3 _ _
    | with_reducible exact w4 _ _
    | with_reducible exact w5 _
    | with_reducible exact w6 _ _
    | with_reducible exact w7 _
    | with_reducible exact w8 _
    | with_reducible apply Closed.each hP
    | with_reducible apply Closed.setRegF hP
    | with_reducible apply Closed.modPort hP
    | with_reducible apply Closed.setRegBit hP
    | with_reducible apply Closed.countSlots hP
    | with_reducible apply Closed.modDe hP
    | with_reducible apply hP.setReg
    | intro _
    | split
    | dsimp only
    | dsimp only [id]

theorem writeTout (hP : Closed W P) {s : State} (pins : List Nat) (w1 : W .fw)
    (w2 : ∀ x1', W (.reg (HUB_TOUT_CTL x1'))) (h : P s) :
    P (State.writeTout s pins) := by
  unfold State.writeTout
  repeat' first
    | with_reducible assumption
    | with_reducible exact w2 _
    | with_reducible apply Closed.each hP
    | with_reducible apply hP.fwWrite
    | intro _
    | split
    | dsimp only
    | dsimp only [id]

theorem writeConfig (hP : Closed W P) {s : State} (img : Image) (w1 : W .fw) (w2 : ∀ a, W (.reg a)) (h : P s) :
    P (State.writeConfig s img) := by
  unfold State.writeConfig
  repeat' first
    | with_reducible assumption
    | with_reducible exact w2 _
    | with_reducible apply Closed.each hP
    | with_reducible apply hP.fwWrite
    | intro _
    | split
    | dsimp only
    | dsimp only [id]

theorem destroyAll (hP : Closed W P) {s : State} (w1 : W .dram) (w2 : W .weaver) (w3 : ∀ x1', W (.stream x1'))
    (w4 : ∀ x1', W (.ref x1')) (w5 : ∀ x1', W (.hist x1')) (w6 : ∀ x1', W (.image x1')) (w7 : W .fw)
    (w8 : ∀ x1', W (.port x1')) (w9 : ∀ x1', W (.de x1')) (w10 : W .drawn) (w11 : ∀ a, W (.reg a)) (h : P s) :
    P (State.destroyAll s) := by
  unfold State.destroyAll
  repeat' first
    | with_reducible assumption
    | with_reducible exact w3 _
    | with_reducible exact w4 _
    | with_reducible exact w5 _
    | with_reducible exact w6 _
    | with_reducible exact w8 _
    | with_reducible exact w9 _
    | with_reducible exact w11 _
    | with_reducible apply Closed.each hP
    | with_reducible apply Closed.draw hP
    | with_reducible apply Closed.destroyObject hP
    | with_reducible apply Closed.writePlaceRo hP
    | with_reducible apply Closed.writeTout hP
    | with_reducible apply Closed.writeConfig hP
    | with_reducible apply Closed.writeIdle hP
    | with_reducible apply Closed.announceSwitch hP
    | with_reducible apply Closed.modPort hP
    | with_reducible apply Closed.putDigest hP
    | with_reducible apply Closed.setRegBit hP
    | with_reducible apply hP.modWeaver
    | intro _
    | split
    | dsimp only
    | dsimp only [id]

theorem unbindRing (hP : Closed W P) {s : State} (w1 : W .mbx) (w2 : W (.reg MB_NTF_CFG)) (h : P s) :
    P (State.unbindRing s) := by
  unfold State.unbindRing
  repeat' first
    | with_reducible assumption
    | with_reducible apply Closed.setRegBit hP
    | with_reducible apply hP.modMbx
    | intro _
    | split
    | dsimp only
    | dsimp only [id]
    | rfl

theorem loadRom (hP : Closed W P) {s : State} (w1 : W .pcie) (h : P s) :
    P (State.loadRom s) := by
  unfold State.loadRom
  repeat' first
    | with_reducible assumption
    | with_reducible apply hP.modPcie
    | intro _
    | split
    | dsimp only
    | dsimp only [id]

theorem functionReset (hP : Closed W P) {s : State} (w1 : W .pcie) (w2 : W .time) (w3 : W .trig)
    (w4 : ∀ x1', W (.seq x1')) (w5 : ∀ x1', W (.cmp x1')) (w6 : ∀ x1', W (.ival x1')) (w7 : ∀ x1', W (.hist x1'))
    (w8 : ∀ x1', W (.lane x1')) (w9 : ∀ x1', W (.tout x1')) (w10 : ∀ x1', W (.queue x1')) (w11 : W .station)
    (w12 : W .mbx) (w13 : W .ledger) (w14 : W .drawn) (w15 : W .weaver) (w16 : ∀ x1', W (.box x1')) (w17 : W .dram)
    (w18 : ∀ x1', W (.stream x1')) (w19 : ∀ x1', W (.ref x1')) (w20 : ∀ x1', W (.image x1')) (w21 : W .fw)
    (w22 : ∀ x1', W (.port x1')) (w23 : ∀ x1', W (.de x1')) (w24 : W .power) (w25 : ∀ a, W (.reg a)) (h : P s) :
    P (State.functionReset s) := by
  unfold State.functionReset
  repeat' first
    | with_reducible assumption
    | with_reducible exact w4 _
    | with_reducible exact w5 _
    | with_reducible exact w6 _
    | with_reducible exact w7 _
    | with_reducible exact w8 _
    | with_reducible exact w9 _
    | with_reducible exact w10 _
    | with_reducible exact w16 _
    | with_reducible exact w18 _
    | with_reducible exact w19 _
    | with_reducible exact w20 _
    | with_reducible exact w22 _
    | with_reducible exact w23 _
    | with_reducible exact w25 _
    | with_reducible apply Closed.each hP
    | with_reducible apply Closed.abandonReads hP
    | with_reducible apply Closed.stopUnits hP
    | with_reducible apply Closed.flushQueue hP
    | with_reducible apply Closed.ledgerReq hP
    | with_reducible apply Closed.flushLedger hP
    | with_reducible apply Closed.createAll hP
    | with_reducible apply Closed.lockFile hP
    | with_reducible apply Closed.clearWindows hP
    | with_reducible apply Closed.destroyAll hP
    | with_reducible apply Closed.unbindRing hP
    | with_reducible apply hP.abandonCommands
    | with_reducible apply Closed.addReg hP
    | with_reducible apply Closed.modFw hP
    | with_reducible apply Closed.loadRom hP
    | with_reducible apply hP.modPcie
    | intro _
    | split
    | dsimp only
    | dsimp only [id]

theorem wrapBase (hP : Closed W P) {s : State} (i : Nat) (w1 : W (.stream i)) (w2 : ∀ x1', W (.sched x1')) (h : P s) :
    P (State.wrapBase s i) := by
  unfold State.wrapBase
  repeat' first
    | with_reducible assumption
    | with_reducible exact w2 _
    | with_reducible apply Closed.modStream hP
    | with_reducible apply Closed.closeSegment hP
    | intro _
    | split
    | dsimp only
    | dsimp only [id]

theorem linkLossAdd (hP : Closed W P) {s : State} (p : Nat) (pos : Nat) (words : Nat) (w1 : ∀ x1', W (.stream x1'))
    (w2 : ∀ x1', W (.sched x1')) (w3 : ∀ x1', W (.ival x1')) (w4 : ∀ x1', W (.cmp x1')) (w5 : W .trig)
    (w6 : W (.port p)) (w7 : W (.reg (PP_LOST_LINK p))) (w8 : ∀ x1', W (.reg (CU x1' 36))) (h : P s) :
    P (State.linkLossAdd s p pos words) := by
  unfold State.linkLossAdd
  repeat' first
    | with_reducible assumption
    | with_reducible exact w1 _
    | with_reducible exact w2 _
    | with_reducible exact w3 _
    | with_reducible exact w4 _
    | with_reducible exact w8 _
    | with_reducible apply Closed.addReg hP
    | with_reducible apply Closed.openLoss hP
    | with_reducible apply Closed.podMeasLoss hP
    | with_reducible apply Closed.podUnitLoss hP
    | with_reducible apply Closed.forgetLevels hP
    | with_reducible apply Closed.modPod hP
    | intro _
    | split
    | dsimp only
    | dsimp only [id]

theorem retryPods (hP : Closed W P) {s : State} (p : Nat) (n : Nat) (w1 : W (.port p)) (h : P s) :
    P (State.retryPods s p n) := by
  unfold State.retryPods
  repeat' first
    | with_reducible assumption
    | with_reducible apply Closed.each hP
    | with_reducible apply Closed.modPort hP
    | intro _
    | split
    | dsimp only
    | dsimp only [id]

theorem sendBeacon (hP : Closed W P) {s : State} (p : Nat) (n : Nat) (rdev : Option (Fin 67584))
    (w1 : ∀ x1', W (.stream x1')) (w2 : ∀ x1', W (.sched x1')) (w3 : ∀ x1', W (.ival x1'))
    (w4 : ∀ x1', W (.cmp x1')) (w5 : W .trig) (w6 : W (.port p)) (w7 : W (.reg (PP_LOST_LINK p)))
    (w8 : ∀ x1', W (.reg (CU x1' 36))) (w9 : W (.reg (PP_RDEV p))) (w10 : W (.reg (PP_SFN p))) (h : P s) :
    P (State.sendBeacon s p n rdev) := by
  unfold State.sendBeacon
  repeat' first
    | with_reducible assumption
    | with_reducible exact w1 _
    | with_reducible exact w2 _
    | with_reducible exact w3 _
    | with_reducible exact w4 _
    | with_reducible exact w8 _
    | with_reducible apply Closed.each hP
    | with_reducible apply Closed.linkLossAdd hP
    | with_reducible apply Closed.modPod hP
    | with_reducible apply Closed.modPort hP
    | with_reducible apply Closed.retryPods hP
    | with_reducible apply hP.setReg
    | intro _
    | split
    | dsimp only
    | dsimp only [id]

theorem takeRate (hP : Closed W P) {s : State} (ch : Nat) (w1 : W (.chan ch)) (w2 : W (.queue 2)) (w3 : W .station)
    (w4 : W .mbx) (w5 : W .ledger) (w6 : W (.reg (MC_STATUS ch))) (w7 : ∀ x1', W (.reg (MC_TRN_ERR ch x1')))
    (w8 : W (.reg (MC_TRN_FAIL_BITS ch))) (w9 : W (.reg (MC_STEPDOWNS ch))) (w10 : W (.reg HUB_GUAR_INGEST))
    (w11 : W (.reg HUB_HEALTH)) (w12 : W (.reg (HUB_Q 2 16))) (w13 : W (.reg (HUB_Q 2 24)))
    (w14 : W (.reg (HUB_Q 2 20))) (w15 : W (.reg MB_NTF_NSEQ)) (h : P s) :
    P (State.takeRate s ch) := by
  unfold State.takeRate
  repeat' first
    | with_reducible assumption
    | with_reducible exact w7 _
    | with_reducible apply Closed.setRate hP
    | with_reducible apply Closed.modChan hP
    | intro _
    | split
    | dsimp only
    | dsimp only [id]

theorem askRate (hP : Closed W P) {s : State} (ch : Nat) (rate : Nat) (w1 : W (.chan ch)) (w2 : W (.queue 2))
    (w3 : W .station) (w4 : W .mbx) (w5 : W .ledger) (w6 : W (.reg (MC_STATUS ch)))
    (w7 : ∀ x1', W (.reg (MC_TRN_ERR ch x1'))) (w8 : W (.reg (MC_TRN_FAIL_BITS ch)))
    (w9 : W (.reg (MC_STEPDOWNS ch))) (w10 : W (.reg HUB_GUAR_INGEST)) (w11 : W (.reg HUB_HEALTH))
    (w12 : W (.reg (HUB_Q 2 16))) (w13 : W (.reg (HUB_Q 2 24))) (w14 : W (.reg (HUB_Q 2 20)))
    (w15 : W (.reg MB_NTF_NSEQ)) (h : P s) :
    P (State.askRate s ch rate) := by
  unfold State.askRate
  repeat' first
    | with_reducible assumption
    | with_reducible exact w7 _
    | with_reducible apply Closed.modChan hP
    | with_reducible apply Closed.setRegBit hP
    | with_reducible apply Closed.takeRate hP
    | intro _
    | split
    | dsimp only
    | dsimp only [id]

theorem startHostTest (hP : Closed W P) {s : State} (u : Word) (rate : Nat) (w1 : W .weaver)
    (w2 : ∀ x1', W (.chan x1')) (w3 : W (.queue 2)) (w4 : W .station) (w5 : W .mbx) (w6 : W .ledger)
    (w7 : ∀ x1', W (.reg (MC_STATUS x1'))) (w8 : ∀ x1' x2', W (.reg (MC_TRN_ERR x1' x2')))
    (w9 : ∀ x1', W (.reg (MC_TRN_FAIL_BITS x1'))) (w10 : ∀ x1', W (.reg (MC_STEPDOWNS x1')))
    (w11 : W (.reg HUB_GUAR_INGEST)) (w12 : W (.reg HUB_HEALTH)) (w13 : W (.reg (HUB_Q 2 16)))
    (w14 : W (.reg (HUB_Q 2 24))) (w15 : W (.reg (HUB_Q 2 20))) (w16 : W (.reg MB_NTF_NSEQ)) (h : P s) :
    P (State.startHostTest s u rate) := by
  unfold State.startHostTest
  repeat' first
    | with_reducible assumption
    | with_reducible exact w2 _
    | with_reducible exact w7 _
    | with_reducible exact w8 _ _
    | with_reducible exact w9 _
    | with_reducible exact w10 _
    | with_reducible apply Closed.askRate hP
    | with_reducible apply hP.modWeaver
    | intro _
    | split
    | dsimp only
    | dsimp only [id]

theorem stateClock (hP : Closed W P) {s : State} (n : Nat) (t : Time) (w1 : W (.lane n)) (h : P s) :
    P (State.stateClock s n t) := by
  unfold State.stateClock
  repeat' first
    | with_reducible assumption
    | with_reducible apply Closed.modLane hP
    | intro _
    | split
    | dsimp only
    | dsimp only [id]

theorem setWindowCmd (hP : Closed W P) (img : MbImage) {s : State} (w1 : W .weaver) (h : P s) :
    P ((setWindowCmd img s).1) := by
  unfold Sys2Proof.Machine.setWindowCmd
  repeat' first
    | with_reducible assumption
    | with_reducible apply Closed.done hP
    | with_reducible apply Closed.stageDef hP
    | intro _
    | split
    | dsimp only
    | dsimp only [id]

theorem askWriteAt (hP : Closed W P) {s : State} (port : Nat) (ma : Nat) (len : Nat) (w1 : ∀ x1', W (.sched x1'))
    (h : P s) :
    P (State.askWriteAt s port ma len) := by
  unfold State.askWriteAt
  repeat' first
    | with_reducible assumption
    | with_reducible exact w1 _
    | with_reducible apply Closed.askWrite hP
    | intro _
    | split
    | dsimp only
    | dsimp only [id]

theorem badFrames (hP : Closed W P) {s : State} (p : Nat) (seg : Nat) (n : Nat) (w1 : W (.port p)) (h : P s) :
    P (State.badFrames s p seg n) := by
  unfold State.badFrames
  repeat' first
    | with_reducible assumption
    | with_reducible apply Closed.modPort hP
    | intro _
    | split
    | dsimp only
    | dsimp only [id]

theorem ledBoard (hP : Closed W P) {s : State} (what : Nat) (off : Nat) (w1 : W .ledger) (h : P s) :
    P (State.ledBoard s what off) := by
  unfold State.ledBoard
  repeat' first
    | with_reducible assumption
    | with_reducible apply Closed.ledgerReq hP
    | intro _
    | split
    | dsimp only
    | dsimp only [id]

theorem loadWater (hP : Closed W P) {s : State} (b : List Byte) (q : Nat) (w1 : W .fw) (w2 : W .station)
    (w3 : W .ledger) (w4 : W (.reg (HUB_Q q 0))) (w5 : W (.reg (HUB_Q q 20))) (h : P s) :
    P (State.loadWater s b q) := by
  unfold State.loadWater
  repeat' first
    | with_reducible assumption
    | with_reducible apply Closed.followWater hP
    | with_reducible apply Closed.ledBoard hP
    | with_reducible apply hP.fwWrite
    | intro _
    | split
    | dsimp only
    | dsimp only [id]

theorem loadTout (hP : Closed W P) {s : State} (b : List Byte) (w1 : W .fw) (w2 : W .ledger)
    (w3 : ∀ x1', W (.reg (HUB_TOUT_CTL x1'))) (h : P s) :
    P (State.loadTout s b) := by
  unfold State.loadTout
  repeat' first
    | with_reducible assumption
    | with_reducible exact w3 _
    | with_reducible apply Closed.each hP
    | with_reducible apply Closed.ledBoard hP
    | with_reducible apply hP.fwWrite
    | intro _
    | split
    | dsimp only
    | dsimp only [id]

theorem loadBlock (hP : Closed W P) {s : State} (b : List Byte) (mc0 : BitVec 2) (w1 : W .power) (w2 : W .fw)
    (w3 : W .station) (w4 : W .ledger) (w5 : ∀ x1', W (.reg (HUB_Q x1' 0))) (w6 : ∀ x1', W (.reg (HUB_Q x1' 20)))
    (w7 : ∀ x1', W (.reg (HUB_TOUT_CTL x1'))) (h : P s) :
    P (State.loadBlock s b mc0) := by
  unfold State.loadBlock
  repeat' first
    | with_reducible assumption
    | with_reducible exact w5 _
    | with_reducible exact w6 _
    | with_reducible exact w7 _
    | with_reducible apply Closed.each hP
    | with_reducible apply Closed.loadWater hP
    | with_reducible apply Closed.ledBoard hP
    | with_reducible apply Closed.loadTout hP
    | with_reducible apply hP.modPower
    | intro _
    | split
    | dsimp only
    | dsimp only [id]

theorem noBlock (hP : Closed W P) {s : State} (mc0 : BitVec 2) (w1 : W .power) (w2 : W .ledger) (h : P s) :
    P (State.noBlock s mc0) := by
  unfold State.noBlock
  repeat' first
    | with_reducible assumption
    | with_reducible apply Closed.ledBoard hP
    | with_reducible apply hP.modPower
    | intro _
    | split
    | dsimp only
    | dsimp only [id]

theorem takeItem (hP : Closed W P) {s : State} (o : StartOutcome) (c : MetaCopy) (x3 : MetaItem) (w1 : W .ledger)
    (w2 : W .weaver) (w3 : W (.reg LG_OP_SECONDS)) (w4 : W (.reg LG_POWER_CYCLES)) (w5 : W (.reg LG_GENERATION))
    (w6 : W (.reg LG_FIRST_SEQ_LO)) (w7 : W (.reg (LG_FIRST_SEQ_LO + 4))) (w8 : W (.reg LG_REFUSED))
    (w9 : W (.reg HUB_RETIRED)) (w10 : W (.reg LG_SCRUB)) (w11 : W (.reg LG_SCRUB_PASSES)) (h : P s) :
    P (State.takeItem s o c x3) := by
  unfold State.takeItem
  repeat' first
    | with_reducible assumption
    | with_reducible apply Closed.setReg64 hP
    | with_reducible apply hP.setReg
    | with_reducible apply hP.modWeaver
    | with_reducible apply hP.modLedger
    | intro _
    | split
    | dsimp only
    | dsimp only [id]

theorem recoverLog (hP : Closed W P) {s : State} (w1 : W .ledger) (w2 : W (.reg LG_GENERATION))
    (w3 : W (.reg LG_FIRST_SEQ_LO)) (w4 : W (.reg (LG_FIRST_SEQ_LO + 4))) (h : P s) :
    P (State.recoverLog s) := by
  unfold State.recoverLog
  repeat' first
    | with_reducible assumption
    | with_reducible apply Closed.setReg64 hP
    | with_reducible apply hP.setReg
    | with_reducible apply hP.modLedger
    | intro _
    | split
    | dsimp only
    | dsimp only [id]

theorem takeFallback (hP : Closed W P) {s : State} (o : StartOutcome) (x2 : MetaItem) (w1 : W .ledger)
    (w2 : W .weaver) (w3 : W (.reg LG_OP_SECONDS)) (w4 : W (.reg LG_POWER_CYCLES)) (w5 : W (.reg LG_GENERATION))
    (w6 : W (.reg LG_FIRST_SEQ_LO)) (w7 : W (.reg (LG_FIRST_SEQ_LO + 4))) (w8 : W (.reg LG_REFUSED))
    (w9 : W (.reg HUB_RETIRED)) (w10 : W (.reg LG_SCRUB)) (h : P s) :
    P (State.takeFallback s o x2) := by
  unfold State.takeFallback
  repeat' first
    | with_reducible assumption
    | with_reducible apply Closed.recoverLog hP
    | with_reducible apply hP.setReg
    | with_reducible apply hP.modWeaver
    | with_reducible apply hP.modLedger
    | intro _
    | split
    | dsimp only
    | dsimp only [id]

theorem loseItem (hP : Closed W P) {s : State} (o : StartOutcome) (i : MetaItem) (w1 : W .drawn) (w2 : W .ledger)
    (w3 : W .weaver) (w4 : W (.reg LG_OP_SECONDS)) (w5 : W (.reg LG_POWER_CYCLES)) (w6 : W (.reg LG_GENERATION))
    (w7 : W (.reg LG_FIRST_SEQ_LO)) (w8 : W (.reg (LG_FIRST_SEQ_LO + 4))) (w9 : W (.reg LG_REFUSED))
    (w10 : W (.reg HUB_RETIRED)) (w11 : W (.reg LG_SCRUB)) (h : P s) :
    P (State.loseItem s o i) := by
  unfold State.loseItem
  repeat' first
    | with_reducible assumption
    | with_reducible apply Closed.takeFallback hP
    | with_reducible apply Closed.ledFault hP
    | with_reducible apply hP.drawBytes
    | intro _
    | split
    | dsimp only
    | dsimp only [id]

theorem readItem (hP : Closed W P) {s : State} (o : StartOutcome) (i : MetaItem) (w1 : W .ledger) (w2 : W .weaver)
    (w3 : W .drawn) (w4 : W (.reg LG_OP_SECONDS)) (w5 : W (.reg LG_POWER_CYCLES)) (w6 : W (.reg LG_GENERATION))
    (w7 : W (.reg LG_FIRST_SEQ_LO)) (w8 : W (.reg (LG_FIRST_SEQ_LO + 4))) (w9 : W (.reg LG_REFUSED))
    (w10 : W (.reg HUB_RETIRED)) (w11 : W (.reg LG_SCRUB)) (w12 : W (.reg LG_SCRUB_PASSES)) (h : P s) :
    P (State.readItem s o i) := by
  unfold State.readItem
  repeat' first
    | with_reducible assumption
    | with_reducible apply Closed.takeItem hP
    | with_reducible apply Closed.loseItem hP
    | with_reducible apply Closed.storeMeta hP
    | intro _
    | split
    | dsimp only
    | dsimp only [id]

theorem commitSeconds (hP : Closed W P) {s : State} (w1 : W .ledger) (h : P s) :
    P (State.commitSeconds s) := by
  unfold State.commitSeconds
  repeat' first
    | with_reducible assumption
    | with_reducible apply hP.modLedger
    | intro _
    | split
    | dsimp only
    | dsimp only [id]

theorem readMeta (hP : Closed W P) {s : State} (o : StartOutcome) (w1 : W .ledger) (w2 : W .weaver) (w3 : W .drawn)
    (w4 : W (.reg LG_OP_SECONDS)) (w5 : W (.reg LG_POWER_CYCLES)) (w6 : W (.reg LG_GENERATION))
    (w7 : W (.reg LG_FIRST_SEQ_LO)) (w8 : W (.reg (LG_FIRST_SEQ_LO + 4))) (w9 : W (.reg LG_REFUSED))
    (w10 : W (.reg HUB_RETIRED)) (w11 : W (.reg LG_SCRUB)) (w12 : W (.reg LG_SCRUB_PASSES)) (h : P s) :
    P (State.readMeta s o) := by
  unfold State.readMeta
  repeat' first
    | with_reducible assumption
    | with_reducible apply Closed.each hP
    | with_reducible apply Closed.readItem hP
    | with_reducible apply Closed.storeMeta hP
    | with_reducible apply Closed.commitSeconds hP
    | with_reducible apply hP.modLedger
    | intro _
    | split
    | dsimp only
    | dsimp only [id]

theorem ledFwUpdate (hP : Closed W P) {s : State} (m : List Byte) (slot : Nat) (status : Half) (w1 : W .ledger)
    (h : P s) :
    P (State.ledFwUpdate s m slot status) := by
  unfold State.ledFwUpdate
  repeat' first
    | with_reducible assumption
    | with_reducible apply Closed.ledgerReq hP
    | intro _
    | split
    | dsimp only
    | dsimp only [id]

theorem startSlot (hP : Closed W P) {s : State} (k : Nat) (m : List Byte × Tbl Byte) (w1 : W .power) (w2 : W .drawn)
    (w3 : W .ledger) (h : P s) :
    P (State.startSlot s k m) := by
  unfold State.startSlot
  repeat' first
    | with_reducible assumption
    | with_reducible apply Closed.draw hP
    | with_reducible apply Closed.modFw hP
    | with_reducible apply Closed.ledFwUpdate hP
    | intro _
    | split
    | dsimp only
    | dsimp only [id]

theorem startPorts (hP : Closed W P) {s : State} (w1 : ∀ x1', W (.port x1')) (h : P s) :
    P (State.startPorts s) := by
  unfold State.startPorts
  repeat' first
    | with_reducible assumption
    | with_reducible exact w1 _
    | with_reducible apply Closed.each hP
    | with_reducible apply Closed.podAction hP
    | intro _
    | split
    | dsimp only
    | dsimp only [id]

theorem startReady (hP : Closed W P) {s : State} (o : StartOutcome) (old : List Word) (tail : Option (Nat × Nat))
    (w1 : W .pcie) (w2 : W .drawn) (w3 : ∀ x1', W (.lane x1')) (w4 : ∀ x1', W (.port x1')) (w5 : W .ledger)
    (w6 : W (.reg HUB_GUAR_INGEST)) (w7 : W (.reg HUB_HEALTH)) (w8 : W (.reg PWR_STARTUP_US))
    (w9 : W (.reg PWR_STATE)) (h : P s) :
    P (State.startReady s o old tail) := by
  unfold State.startReady
  repeat' first
    | with_reducible assumption
    | with_reducible exact w3 _
    | with_reducible exact w4 _
    | with_reducible apply Closed.each hP
    | with_reducible apply Closed.ledgerReq hP
    | with_reducible apply Closed.startPorts hP
    | with_reducible apply Closed.startComparators hP
    | with_reducible apply Closed.setPwr hP
    | with_reducible apply Closed.loadRom hP
    | with_reducible apply Closed.updateLimits hP
    | with_reducible apply Closed.ledReturned hP
    | with_reducible apply Closed.storeMeta hP
    | with_reducible apply hP.setReg
    | with_reducible apply hP.modLedger
    | intro _
    | split
    | dsimp only
    | dsimp only [id]

theorem startUp (hP : Closed W P) {s : State} (o : StartOutcome) (w1 : W .power) (w2 : W .pcie) (w3 : W .fw)
    (w4 : W .station) (w5 : W .ledger) (w6 : W .drawn) (w7 : W .weaver) (w8 : W .dram) (w9 : W (.queue 2))
    (w10 : W .mbx) (w11 : ∀ x1', W (.queue (stakeQ x1'))) (w12 : ∀ x1', W (.stream x1'))
    (w13 : ∀ x1', W (.sched x1')) (w14 : ∀ x1', W (.lane x1')) (w15 : ∀ x1', W (.cmp x1'))
    (w16 : ∀ x1', W (.ival x1')) (w17 : ∀ x1', W (.box x1')) (w18 : ∀ x1', W (.seq x1'))
    (w19 : ∀ x1', W (.hist x1')) (w20 : W (.queue 1)) (w21 : W .trig) (w22 : ∀ x1', W (.port x1'))
    (w23 : ∀ x1', W (.de x1')) (w24 : ∀ x1', W (.ref x1')) (w25 : ∀ x1', W (.image x1')) (w26 : W .time)
    (w27 : W (.queue 0)) (w28 : ∀ x1', W (.tout x1')) (w29 : ∀ x1', W (.chan x1')) (w30 : ∀ a, W (.reg a))
    (h : P s) :
    P (State.startUp s o) := by
  unfold State.startUp
  repeat' first
    | with_reducible assumption
    | with_reducible exact w11 _
    | with_reducible exact w12 _
    | with_reducible exact w13 _
    | with_reducible exact w14 _
    | with_reducible exact w15 _
    | with_reducible exact w16 _
    | with_reducible exact w17 _
    | with_reducible exact w18 _
    | with_reducible exact w19 _
    | with_reducible exact w22 _
    | with_reducible exact w23 _
    | with_reducible exact w24 _
    | with_reducible exact w25 _
    | with_reducible exact w28 _
    | with_reducible exact w29 _
    | with_reducible exact w30 _
    | with_reducible apply Closed.each hP
    | with_reducible apply Closed.draw hP
    | with_reducible apply Closed.loadBlock hP
    | with_reducible apply Closed.noBlock hP
    | with_reducible apply Closed.readMeta hP
    | with_reducible apply Closed.startFails hP
    | with_reducible apply Closed.trainInitial hP
    | with_reducible apply Closed.startSlot hP
    | with_reducible apply Closed.startUnits hP
    | with_reducible apply Closed.startClock hP
    | with_reducible apply Closed.startReady hP
    | with_reducible apply hP.setReg
    | with_reducible apply hP.modPcie
    | with_reducible apply hP.modPower
    | intro _
    | split
    | dsimp only
    | dsimp only [id]

theorem pruneResults (hP : Closed W P) {s : State} (w1 : W .trig) (h : P s) :
    P (State.pruneResults s) := by
  unfold State.pruneResults
  repeat' first
    | with_reducible assumption
    | with_reducible apply hP.modTrig
    | intro _
    | split
    | dsimp only
    | dsimp only [id]

theorem levelSlot (hP : Closed W P) {s : State} (n : Nat) (w1 : W (.lane n)) (w2 : ∀ x1', W (.queue (stakeQ x1')))
    (w3 : ∀ x1', W (.stream x1')) (w4 : ∀ x1', W (.sched x1')) (h : P s) :
    P (State.levelSlot s n) := by
  unfold State.levelSlot
  repeat' first
    | with_reducible assumption
    | with_reducible exact w2 _
    | with_reducible exact w3 _
    | with_reducible exact w4 _
    | with_reducible apply Closed.flushLevel hP
    | intro _
    | split
    | dsimp only
    | dsimp only [id]

theorem defineSequenceLevelsCmd (hP : Closed W P) (img : MbImage) {s : State} (w1 : W .weaver) (h : P s) :
    P ((defineSequenceLevelsCmd img s).1) := by
  unfold Sys2Proof.Machine.defineSequenceLevelsCmd
  repeat' first
    | with_reducible assumption
    | with_reducible apply Closed.done hP
    | with_reducible apply Closed.stageDef hP
    | intro _
    | split
    | dsimp only
    | dsimp only [id]

theorem histPair (hP : Closed W P) {s : State} (hu : Nat) (r : Nat) (due : List (Time × Bool × Bool))
    (w1 : W (.hist hu)) (w2 : ∀ x1' x2', W (.reg (HU_RG hu x1' x2'))) (w3 : W (.reg (HU_OVERFLOW hu))) (h : P s) :
    P (State.histPair s hu r due) := by
  unfold State.histPair
  repeat' first
    | with_reducible assumption
    | with_reducible exact w2 _ _
    | with_reducible apply Closed.each hP
    | with_reducible apply Closed.histValue hP
    | with_reducible apply Closed.rgCountLate hP
    | with_reducible apply Closed.modRegion hP
    | intro _
    | split
    | dsimp only
    | dsimp only [id]

theorem histEnd (hP : Closed W P) {s : State} (hu : Nat) (r : Nat) (t : Time) (w1 : W (.hist hu)) (w2 : W .drawn)
    (w3 : ∀ x1' x2', W (.reg (HU_RG hu x1' x2'))) (w4 : W (.reg (HU_OVERFLOW hu))) (h : P s) :
    P (State.histEnd s hu r t) := by
  unfold State.histEnd
  repeat' first
    | with_reducible assumption
    | with_reducible exact w3 _ _
    | with_reducible apply Closed.histAutoSwap hP
    | with_reducible apply Closed.histPair hP
    | intro _
    | split
    | dsimp only
    | dsimp only [id]

theorem annotationLoss (hP : Closed W P) {s : State} (staged : Bool) (gone : List (Time × Nat))
    (w1 : ∀ x1', W (.stream x1')) (w2 : ∀ x1', W (.sched x1')) (h : P s) :
    P (State.annotationLoss s staged gone) := by
  unfold State.annotationLoss
  repeat' first
    | with_reducible assumption
    | with_reducible exact w1 _
    | with_reducible exact w2 _
    | with_reducible apply Closed.each hP
    | with_reducible apply Closed.closeLoss hP
    | with_reducible apply Closed.openLoss hP
    | intro _
    | split
    | dsimp only
    | dsimp only [id]

theorem restoreBank (hP : Closed W P) {s : State} (b : Nat) (w1 : W .ledger) (w2 : W (.queue 2)) (w3 : W .station)
    (w4 : W .mbx) (w5 : W .weaver) (w6 : W (.queue 3)) (w7 : W (.reg LG_STATUS)) (w8 : W (.reg LG_FLUSHES))
    (w9 : W (.reg LG_VERIFY_FAIL)) (w10 : W (.reg (HUB_Q 2 16))) (w11 : W (.reg (HUB_Q 2 24)))
    (w12 : W (.reg (HUB_Q 2 20))) (w13 : W (.reg MB_NTF_NSEQ)) (w14 : W (.reg (HUB_Q 3 16)))
    (w15 : W (.reg (HUB_Q 3 24))) (w16 : W (.reg (HUB_Q 3 20))) (h : P s) :
    P (State.restoreBank s b) := by
  unfold State.restoreBank
  repeat' first
    | with_reducible assumption
    | with_reducible apply Closed.setRegBit hP
    | with_reducible apply Closed.flushLedger hP
    | with_reducible apply Closed.ledgerReq hP
    | with_reducible apply hP.modLedger
    | intro _
    | split
    | dsimp only
    | dsimp only [id]

theorem fetchImage (hP : Closed W P) (idx : Nat) (p : List Byte) (swapT : Nat) {s : State}
    (w1 : ∀ x1', W (.sched x1')) (w2 : W .pcie) (w3 : W (.image idx)) (h : P s) :
    P ((fetchImage idx p swapT s).1) := by
  unfold Sys2Proof.Machine.fetchImage
  repeat' first
    | with_reducible assumption
    | with_reducible exact w1 _
    | with_reducible apply Closed.refuse hP
    | with_reducible apply Closed.askReadAt hP
    | with_reducible apply Closed.dmaWrite hP
    | with_reducible apply Closed.done hP
    | with_reducible apply hP.setImage
    | intro _
    | split
    | dsimp only
    | dsimp only [id]

theorem destroyPending (hP : Closed W P) {s : State} (w1 : W .dram) (w2 : W .weaver) (w3 : ∀ x1', W (.stream x1'))
    (w4 : ∀ x1', W (.ref x1')) (w5 : ∀ x1', W (.hist x1')) (w6 : ∀ x1', W (.image x1')) (h : P s) :
    P (State.destroyPending s) := by
  unfold State.destroyPending
  repeat' first
    | with_reducible assumption
    | with_reducible exact w3 _
    | with_reducible exact w4 _
    | with_reducible exact w5 _
    | with_reducible exact w6 _
    | with_reducible apply Closed.each hP
    | with_reducible apply Closed.destroyObject hP
    | intro _
    | split
    | dsimp only
    | dsimp only [id]

theorem noticeStreamFault (hP : Closed W P) {s : State} (stream : Nat) (status : Nat) (w1 : W (.queue 2))
    (w2 : W .station) (w3 : W .mbx) (w4 : W (.reg (HUB_Q 2 16))) (w5 : W (.reg (HUB_Q 2 24)))
    (w6 : W (.reg (HUB_Q 2 20))) (w7 : W (.reg MB_NTF_NSEQ)) (h : P s) :
    P (State.noticeStreamFault s stream status) := by
  unfold State.noticeStreamFault
  repeat' first
    | with_reducible assumption
    | with_reducible apply Closed.notice hP
    | intro _
    | split
    | dsimp only
    | dsimp only [id]

theorem Change_endSeqs (hP : Closed W P) (c : Change) {s : State} (w1 : ∀ x1', W (.seq x1'))
    (w2 : ∀ x1', W (.stream x1')) (w3 : ∀ x1', W (.ival x1')) (w4 : ∀ x1', W (.tout x1')) (w5 : ∀ x1', W (.cmp x1'))
    (w6 : W .weaver) (w7 : W (.queue 1)) (w8 : W .station) (w9 : ∀ x1', W (.sched x1')) (w10 : ∀ x1', W (.hist x1'))
    (w11 : W .drawn) (w12 : W .ledger) (w13 : ∀ x1', W (.box x1')) (w14 : ∀ x1' x2', W (.reg (SQ_TMR_LO x1' x2')))
    (w15 : ∀ x1' x2', W (.reg (SQ_TMR_HI x1' x2'))) (w16 : ∀ x1', W (.reg (SQ_DEAD_LO x1')))
    (w17 : ∀ x1', W (.reg (SQ_DEAD_LO x1' + 4))) (w18 : ∀ x1', W (.reg (SQ_MISSED x1')))
    (w19 : ∀ x1', W (.reg (SQ_STATUS x1'))) (w20 : ∀ x1', W (.reg (SQ_FOLDED x1')))
    (w21 : ∀ x1', W (.reg (SQ_MARKS x1'))) (w22 : ∀ x1' x2', W (.reg (SQ_CNT_LO x1' x2')))
    (w23 : ∀ x1' x2', W (.reg (SQ_CNT_LO x1' x2' + 4))) (w24 : ∀ x1', W (.reg (CU x1' 44)))
    (w25 : ∀ x1', W (.reg (CU x1' 12))) (w26 : W (.reg (HUB_Q 1 16))) (w27 : W (.reg (HUB_Q 1 24)))
    (w28 : W (.reg (HUB_Q 1 20))) (w29 : ∀ x1', W (.reg (CU x1' 28))) (w30 : ∀ x1', W (.reg (CU x1' 32)))
    (w31 : ∀ x1', W (.reg (CU x1' 16))) (w32 : ∀ x1', W (.reg (CU x1' 16 + 4))) (w33 : ∀ x1', W (.reg (CU x1' 24)))
    (w34 : ∀ x1', W (.reg (CU x1' 36))) (w35 : ∀ x1' x2' x3', W (.reg (HU_RG x1' x2' x3')))
    (w36 : W (.reg LG_REFUSED)) (h : P s) :
    P (Change.endSeqs c s) := by
  unfold Sys2Proof.Machine.Change.endSeqs
  repeat' first
    | with_reducible assumption
    | with_reducible exact w1 _
    | with_reducible exact w2 _
    | with_reducible exact w3 _
    | with_reducible exact w4 _
    | with_reducible exact w5 _
    | with_reducible exact w9 _
    | with_reducible exact w10 _
    | with_reducible exact w13 _
    | with_reducible exact w14 _ _
    | with_reducible exact w15 _ _
    | with_reducible exact w16 _
    | with_reducible exact w17 _
    | with_reducible exact w18 _
    | with_reducible exact w19 _
    | with_reducible exact w20 _
    | with_reducible exact w21 _
    | with_reducible exact w22 _ _
    | with_reducible exact w23 _ _
    | with_reducible exact w24 _
    | with_reducible exact w25 _
    | with_reducible exact w29 _
    | with_reducible exact w30 _
    | with_reducible exact w31 _
    | with_reducible exact w32 _
    | with_reducible exact w33 _
    | with_reducible exact w34 _
    | with_reducible exact w35 _ _ _
    | with_reducible apply Closed.each hP
    | with_reducible apply Closed.decideThrough hP
    | with_reducible apply Closed.summaryMark hP
    | with_reducible apply Closed.dropForced hP
    | intro _
    | split
    | dsimp only
    | dsimp only [id]

theorem dropData (hP : Closed W P) {s : State} (m : Nat) (w1 : W .pcie) (h : P s) :
    P (State.dropData s m) := by
  unfold State.dropData
  repeat' first
    | with_reducible assumption
    | with_reducible apply hP.modPcie
    | intro _
    | split
    | dsimp only
    | dsimp only [id]

theorem fwChunkCmd (hP : Closed W P) (m : Nat) (img : MbImage) {s : State} (w1 : W .pcie) (w2 : W .power) (h : P s) :
    P ((fwChunkCmd m img s).1) := by
  unfold Sys2Proof.Machine.fwChunkCmd
  repeat' first
    | with_reducible assumption
    | with_reducible apply Closed.done hP
    | with_reducible apply Closed.modFw hP
    | with_reducible apply Closed.dropData hP
    | intro _
    | split
    | dsimp only
    | dsimp only [id]

theorem Change_endPods (hP : Closed W P) (c : Change) {s : State} (w1 : ∀ x1', W (.port x1')) (h : P s) :
    P (Change.endPods c s) := by
  unfold Sys2Proof.Machine.Change.endPods
  repeat' first
    | with_reducible assumption
    | with_reducible exact w1 _
    | with_reducible apply Closed.each hP
    | with_reducible apply Closed.modPod hP
    | intro _
    | split
    | dsimp only
    | dsimp only [id]

theorem Change_startStreams (hP : Closed W P) (c : Change) {s : State} (w1 : ∀ x1', W (.stream x1')) (h : P s) :
    P (Change.startStreams c s) := by
  unfold Sys2Proof.Machine.Change.startStreams
  repeat' first
    | with_reducible assumption
    | with_reducible exact w1 _
    | with_reducible apply Closed.each hP
    | with_reducible apply Closed.modStream hP
    | with_reducible apply hP.setStream
    | intro _
    | split
    | dsimp only
    | dsimp only [id]

theorem snapshotFetchCmd (hP : Closed W P) (img : MbImage) {s : State} (w1 : W .drawn) (w2 : ∀ x1', W (.sched x1'))
    (w3 : W .pcie) (w4 : ∀ x1', W (.image x1')) (h : P s) :
    P ((snapshotFetchCmd img s).1) := by
  unfold Sys2Proof.Machine.snapshotFetchCmd
  repeat' first
    | with_reducible assumption
    | with_reducible exact w2 _
    | with_reducible exact w4 _
    | with_reducible apply Closed.draw hP
    | with_reducible apply Closed.refuse hP
    | with_reducible apply Closed.fetchImage hP
    | intro _
    | split
    | dsimp only
    | dsimp only [id]

theorem Change_startTerms (hP : Closed W P) (c : Change) {s : State} (w1 : W .trig) (h : P s) :
    P (Change.startTerms c s) := by
  unfold Sys2Proof.Machine.Change.startTerms
  repeat' first
    | with_reducible assumption
    | with_reducible apply Closed.each hP
    | with_reducible apply Closed.startTerm hP
    | with_reducible apply hP.modTrig
    | intro _
    | split
    | dsimp only
    | dsimp only [id]

theorem histogramClearCmd (hP : Closed W P) (img : MbImage) {s : State} (w1 : ∀ x1', W (.hist x1')) (h : P s) :
    P ((histogramClearCmd img s).1) := by
  unfold Sys2Proof.Machine.histogramClearCmd
  repeat' first
    | with_reducible assumption
    | with_reducible exact w1 _
    | with_reducible apply Closed.refuse hP
    | with_reducible apply Closed.done hP
    | with_reducible apply Closed.modRegion hP
    | intro _
    | split
    | dsimp only
    | dsimp only [id]

theorem writeBlock (hP : Closed W P) {s : State} (i : Nat) (segs : List Segment) (block : Option (List Bool))
    (cuts : List Nat) (w1 : W (.stream i)) (w2 : ∀ x1', W (.reg (CE x1' 12))) (w3 : ∀ x1', W (.reg (CE x1' 12 + 4)))
    (w4 : ∀ x1', W (.reg (CE x1' 20))) (w5 : ∀ x1', W (.reg (CE x1' 4))) (w6 : ∀ x1', W (.reg (CE x1' 4 + 4)))
    (w7 : ∀ x1', W (.reg (CE x1' 24))) (w8 : ∀ x1' x2', W (.reg (CE_SLOT x1' x2')))
    (w9 : ∀ x1', W (.reg (CE x1' 0))) (h : P s) :
    P (State.writeBlock s i segs block cuts) := by
  unfold State.writeBlock
  repeat' first
    | with_reducible assumption
    | with_reducible exact w2 _
    | with_reducible exact w3 _
    | with_reducible exact w4 _
    | with_reducible exact w5 _
    | with_reducible exact w6 _
    | with_reducible exact w7 _
    | with_reducible exact w8 _ _
    | with_reducible exact w9 _
    | with_reducible apply Closed.countOut hP
    | with_reducible apply Closed.addReg hP
    | with_reducible apply Closed.addReg64 hP
    | with_reducible apply Closed.passBinds hP
    | with_reducible apply Closed.endMember hP
    | with_reducible apply hP.setStream
    | intro _
    | split
    | dsimp only
    | dsimp only [id]

theorem captureOff (hP : Closed W P) {s : State} (w1 : ∀ x1', W (.port x1')) (w2 : ∀ x1', W (.lane x1'))
    (w3 : ∀ x1', W (.reg (PP_STATUS x1'))) (h : P s) :
    P (State.captureOff s) := by
  unfold State.captureOff
  repeat' first
    | with_reducible assumption
    | with_reducible exact w1 _
    | with_reducible exact w2 _
    | with_reducible exact w3 _
    | with_reducible apply Closed.each hP
    | with_reducible apply Closed.setRegBit hP
    | with_reducible apply Closed.modPort hP
    | with_reducible apply Closed.modLane hP
    | intro _
    | split
    | dsimp only
    | dsimp only [id]

theorem laneLevel (hP : Closed W P) {s : State} (n : Nat) (reason : Nat) (t : Time) (w1 : W (.lane n))
    (w2 : ∀ x1', W (.queue (stakeQ x1'))) (w3 : ∀ x1', W (.stream x1')) (w4 : ∀ x1', W (.sched x1')) (h : P s) :
    P (State.laneLevel s n reason t) := by
  unfold State.laneLevel
  repeat' first
    | with_reducible assumption
    | with_reducible exact w2 _
    | with_reducible exact w3 _
    | with_reducible exact w4 _
    | with_reducible apply Closed.laneRec hP
    | intro _
    | split
    | dsimp only
    | dsimp only [id]

theorem destroyCmd (hP : Closed W P) (img : MbImage) {s : State} (w1 : W .weaver) (w2 : W .dram)
    (w3 : ∀ x1', W (.stream x1')) (w4 : ∀ x1', W (.ref x1')) (w5 : ∀ x1', W (.hist x1'))
    (w6 : ∀ x1', W (.image x1')) (h : P s) :
    P ((destroyCmd img s).1) := by
  unfold Sys2Proof.Machine.destroyCmd
  repeat' first
    | with_reducible assumption
    | with_reducible exact w3 _
    | with_reducible exact w4 _
    | with_reducible exact w5 _
    | with_reducible exact w6 _
    | with_reducible apply Closed.refuse hP
    | with_reducible apply Closed.modStaged hP
    | with_reducible apply Closed.done hP
    | with_reducible apply Closed.destroyObject hP
    | with_reducible apply hP.modWeaver
    | intro _
    | split
    | dsimp only
    | dsimp only [id]

theorem cmpSlot (hP : Closed W P) {s : State} (cu : Nat) (w1 : W (.cmp cu)) (w2 : ∀ x1', W (.stream x1'))
    (w3 : ∀ x1', W (.sched x1')) (w4 : W .trig) (w5 : W .drawn) (w6 : W (.reg (CU cu 24)))
    (w7 : W (.reg (CU cu 36))) (h : P s) :
    P (State.cmpSlot s cu) := by
  unfold State.cmpSlot
  repeat' first
    | with_reducible assumption
    | with_reducible exact w2 _
    | with_reducible exact w3 _
    | with_reducible apply Closed.advanceTo hP
    | intro _
    | split
    | dsimp only
    | dsimp only [id]

theorem rerunOwn (hP : Closed W P) {s : State} (e : Nat) (w1 : W (.de e)) (w2 : W .drawn)
    (w3 : ∀ x1', W (.sched x1')) (w4 : W .ledger) (w5 : W .weaver) (w6 : W (.reg (DE e 40)))
    (w7 : W (.reg (DE e 4))) (w8 : W (.reg (DE e 4 + 4))) (w9 : W (.reg (DE e 12))) (w10 : W (.reg (DE e 20)))
    (w11 : W (.reg (DE e 24))) (w12 : W (.reg (DE e 28))) (w13 : W (.reg (DE e 32))) (w14 : W (.reg (DE e 36)))
    (h : P s) :
    P (State.rerunOwn s e) := by
  unfold State.rerunOwn
  repeat' first
    | with_reducible assumption
    | with_reducible exact w3 _
    | with_reducible apply Closed.each hP
    | with_reducible apply Closed.rerunOn hP
    | intro _
    | split
    | dsimp only
    | dsimp only [id]

theorem diagRun (hP : Closed W P) {s : State} (p : List Byte) (bytes : List Byte) (w1 : W .pcie)
    (w2 : ∀ x1', W (.de x1')) (w3 : W .drawn) (w4 : ∀ x1', W (.sched x1')) (w5 : ∀ x1', W (.reg (DE x1' 40)))
    (w6 : ∀ x1', W (.reg (DE x1' 4))) (w7 : ∀ x1', W (.reg (DE x1' 4 + 4))) (w8 : ∀ x1', W (.reg (DE x1' 12)))
    (w9 : ∀ x1', W (.reg (DE x1' 20))) (w10 : ∀ x1', W (.reg (DE x1' 24))) (w11 : ∀ x1', W (.reg (DE x1' 28)))
    (w12 : ∀ x1', W (.reg (DE x1' 32))) (w13 : ∀ x1', W (.reg (DE x1' 36))) (h : P s) :
    P ((State.diagRun s p bytes).1) := by
  unfold State.diagRun
  repeat' first
    | with_reducible assumption
    | with_reducible exact w2 _
    | with_reducible exact w4 _
    | with_reducible exact w5 _
    | with_reducible exact w6 _
    | with_reducible exact w7 _
    | with_reducible exact w8 _
    | with_reducible exact w9 _
    | with_reducible exact w10 _
    | with_reducible exact w11 _
    | with_reducible exact w12 _
    | with_reducible exact w13 _
    | with_reducible apply Closed.dmaWrite hP
    | with_reducible apply Closed.addReg64 hP
    | with_reducible apply Closed.leaveJob hP
    | with_reducible apply Closed.done hP
    | with_reducible apply Closed.incReg hP
    | with_reducible apply Closed.deFault hP
    | intro _
    | split
    | dsimp only
    | dsimp only [id]

theorem armLane (hP : Closed W P) {s : State} (n : Nat) (w1 : W (.lane n)) (w2 : ∀ x1', W (.queue (stakeQ x1')))
    (w3 : ∀ x1', W (.stream x1')) (w4 : ∀ x1', W (.sched x1')) (h : P s) :
    P (State.armLane s n) := by
  unfold State.armLane
  repeat' first
    | with_reducible assumption
    | with_reducible exact w2 _
    | with_reducible exact w3 _
    | with_reducible exact w4 _
    | with_reducible apply Closed.modLane hP
    | with_reducible apply Closed.levelLater hP
    | intro _
    | split
    | dsimp only
    | dsimp only [id]

theorem noticeShed (hP : Closed W P) {s : State} (key : Nat) (restored : Bool) (w1 : W (.queue 2)) (w2 : W .station)
    (w3 : W .mbx) (w4 : W (.reg (HUB_Q 2 16))) (w5 : W (.reg (HUB_Q 2 24))) (w6 : W (.reg (HUB_Q 2 20)))
    (w7 : W (.reg MB_NTF_NSEQ)) (h : P s) :
    P (State.noticeShed s key restored) := by
  unfold State.noticeShed
  repeat' first
    | with_reducible assumption
    | with_reducible apply Closed.notice hP
    | intro _
    | split
    | dsimp only
    | dsimp only [id]

theorem shedObject (hP : Closed W P) {s : State} (key : Nat) (w1 : ∀ x1', W (.stream x1'))
    (w2 : ∀ x1', W (.sched x1')) (w3 : ∀ x1', W (.box x1')) (w4 : ∀ x1', W (.seq x1')) (w5 : W .fw)
    (w6 : ∀ x1', W (.ival x1')) (w7 : W .drawn) (w8 : W .weaver) (w9 : W (.queue 1)) (w10 : W .station)
    (w11 : ∀ x1', W (.cmp x1')) (w12 : W (.queue 2)) (w13 : W .mbx) (w14 : W .ledger) (w15 : ∀ a, W (.reg a))
    (h : P s) :
    P (State.shedObject s key) := by
  unfold State.shedObject
  repeat' first
    | with_reducible assumption
    | with_reducible exact w1 _
    | with_reducible exact w2 _
    | with_reducible exact w3 _
    | with_reducible exact w4 _
    | with_reducible exact w6 _
    | with_reducible exact w11 _
    | with_reducible exact w15 _
    | with_reducible apply Closed.closeSegment hP
    | with_reducible apply Closed.openLoss hP
    | with_reducible apply Closed.retireSequencer hP
    | with_reducible apply Closed.ivStop hP
    | with_reducible apply Closed.abortStep hP
    | with_reducible apply Closed.cuState hP
    | with_reducible apply Closed.modCmp hP
    | with_reducible apply Closed.ledShed hP
    | with_reducible apply Closed.noticeShed hP
    | with_reducible apply hP.modWeaver
    | intro _
    | split
    | dsimp only
    | dsimp only [id]

theorem saveContext (hP : Closed W P) {s : State} (i : Nat) (w1 : W .drawn) (w2 : ∀ x1', W (.sched x1'))
    (w3 : W (.stream i)) (h : P s) :
    P (State.saveContext s i) := by
  unfold State.saveContext
  repeat' first
    | with_reducible assumption
    | with_reducible exact w2 _
    | with_reducible apply Closed.contextChan hP
    | with_reducible apply Closed.modStream hP
    | with_reducible apply Closed.askWrite hP
    | intro _
    | split
    | dsimp only
    | dsimp only [id]

theorem moveSaved (hP : Closed W P) {s : State} (w1 : W .drawn) (w2 : ∀ x1', W (.sched x1'))
    (w3 : ∀ x1', W (.stream x1')) (w4 : ∀ x1', W (.de x1')) (w5 : ∀ x1', W (.image x1')) (w6 : ∀ x1', W (.hist x1'))
    (h : P s) :
    P (State.moveSaved s) := by
  unfold State.moveSaved
  repeat' first
    | with_reducible assumption
    | with_reducible exact w2 _
    | with_reducible exact w3 _
    | with_reducible exact w4 _
    | with_reducible exact w5 _
    | with_reducible exact w6 _
    | with_reducible apply Closed.each hP
    | with_reducible apply Closed.saveContext hP
    | with_reducible apply Closed.contextChan hP
    | with_reducible apply Closed.modDe hP
    | with_reducible apply Closed.spillPlace hP
    | with_reducible apply Closed.modImage hP
    | with_reducible apply Closed.modRegion hP
    | intro _
    | split
    | dsimp only
    | dsimp only [id]

theorem breakRun (hP : Closed W P) {s : State} (i : Nat) (w1 : W (.stream i)) (w2 : ∀ x1', W (.reg (CE x1' 12)))
    (w3 : ∀ x1', W (.reg (CE x1' 12 + 4))) (w4 : ∀ x1', W (.reg (CE x1' 20))) (h : P s) :
    P (State.breakRun s i) := by
  unfold State.breakRun
  repeat' first
    | with_reducible assumption
    | with_reducible exact w2 _
    | with_reducible exact w3 _
    | with_reducible exact w4 _
    | with_reducible apply Closed.countOut hP
    | with_reducible apply hP.setStream
    | intro _
    | split
    | dsimp only
    | dsimp only [id]

theorem Change_moveContexts (hP : Closed W P) (c : Change) {s : State} (w1 : ∀ x1', W (.stream x1')) (w2 : W .drawn)
    (w3 : ∀ x1', W (.sched x1')) (w4 : ∀ x1', W (.reg (CE x1' 12))) (w5 : ∀ x1', W (.reg (CE x1' 12 + 4)))
    (w6 : ∀ x1', W (.reg (CE x1' 20))) (w7 : ∀ x1', W (.reg (CE x1' 32))) (h : P s) :
    P (Change.moveContexts c s) := by
  unfold Sys2Proof.Machine.Change.moveContexts
  repeat' first
    | with_reducible assumption
    | with_reducible exact w1 _
    | with_reducible exact w3 _
    | with_reducible exact w4 _
    | with_reducible exact w5 _
    | with_reducible exact w6 _
    | with_reducible exact w7 _
    | with_reducible apply Closed.each hP
    | with_reducible apply Closed.addReg hP
    | with_reducible apply Closed.breakRun hP
    | with_reducible apply Closed.saveContext hP
    | intro _
    | split
    | dsimp only
    | dsimp only [id]

theorem restoreObject (hP : Closed W P) {s : State} (key : Nat) (w1 : W .weaver) (w2 : ∀ x1', W (.stream x1'))
    (w3 : ∀ x1', W (.sched x1')) (w4 : W (.queue 2)) (w5 : W .station) (w6 : W .mbx) (w7 : W .ledger)
    (w8 : W (.reg (HUB_Q 2 16))) (w9 : W (.reg (HUB_Q 2 24))) (w10 : W (.reg (HUB_Q 2 20)))
    (w11 : W (.reg MB_NTF_NSEQ)) (h : P s) :
    P (State.restoreObject s key) := by
  unfold State.restoreObject
  repeat' first
    | with_reducible assumption
    | with_reducible exact w2 _
    | with_reducible exact w3 _
    | with_reducible apply Closed.closeLoss hP
    | with_reducible apply Closed.modStream hP
    | with_reducible apply Closed.ledShed hP
    | with_reducible apply Closed.noticeShed hP
    | with_reducible apply hP.modWeaver
    | intro _
    | split
    | dsimp only
    | dsimp only [id]

theorem moveInterval (hP : Closed W P) {s : State} (u : IvalPlace) (old : Option Nat) (w1 : W .weaver)
    (w2 : ∀ x1', W (.ival x1')) (w3 : ∀ x1' x2', W (.reg (IU x1' x2'))) (h : P s) :
    P (State.moveInterval s u old) := by
  unfold State.moveInterval
  repeat' first
    | with_reducible assumption
    | with_reducible exact w2 _
    | with_reducible exact w3 _ _
    | with_reducible apply Closed.modIval hP
    | with_reducible apply Closed.ivStart hP
    | with_reducible apply hP.modWeaver
    | intro _
    | split
    | dsimp only
    | dsimp only [id]

theorem moveRing (hP : Closed W P) {s : State} (i : Nat) (old : List Nat) (w1 : W (.stream i))
    (w2 : ∀ x1', W (.sched x1')) (h : P s) :
    P (State.moveRing s i old) := by
  unfold State.moveRing
  repeat' first
    | with_reducible assumption
    | with_reducible exact w2 _
    | with_reducible apply Closed.wholeLoss hP
    | with_reducible apply hP.setStream
    | intro _
    | split
    | dsimp only
    | dsimp only [id]

theorem startMoved (hP : Closed W P) {s : State} (c : Change) (w1 : W .weaver) (w2 : ∀ x1', W (.ival x1'))
    (w3 : ∀ x1', W (.cmp x1')) (w4 : ∀ x1', W (.box x1')) (w5 : ∀ x1', W (.seq x1')) (w6 : ∀ x1', W (.stream x1'))
    (w7 : ∀ x1', W (.sched x1')) (w8 : ∀ x1' x2', W (.reg (IU x1' x2'))) (w9 : ∀ x1', W (.reg (CU x1' 12)))
    (w10 : ∀ x1', W (.reg (SQ_STATUS x1'))) (w11 : ∀ x1', W (.reg (SQ_DEAD_LO x1')))
    (w12 : ∀ x1', W (.reg (SQ_DEAD_LO x1' + 4))) (w13 : ∀ x1', W (.reg (SQ_MISSED x1')))
    (w14 : ∀ x1', W (.reg (SQ_FOLDED x1'))) (w15 : ∀ x1' x2', W (.reg (SQ_CNT_LO x1' x2')))
    (w16 : ∀ x1' x2', W (.reg (SQ_CNT_LO x1' x2' + 4))) (w17 : ∀ x1' x2', W (.reg (SQ_TMR_LO x1' x2')))
    (w18 : ∀ x1' x2', W (.reg (SQ_TMR_HI x1' x2'))) (h : P s) :
    P (State.startMoved s c) := by
  unfold State.startMoved
  repeat' first
    | with_reducible assumption
    | with_reducible exact w2 _
    | with_reducible exact w3 _
    | with_reducible exact w4 _
    | with_reducible exact w5 _
    | with_reducible exact w6 _
    | with_reducible exact w7 _
    | with_reducible exact w8 _ _
    | with_reducible exact w9 _
    | with_reducible exact w10 _
    | with_reducible exact w11 _
    | with_reducible exact w12 _
    | with_reducible exact w13 _
    | with_reducible exact w14 _
    | with_reducible exact w15 _ _
    | with_reducible exact w16 _ _
    | with_reducible exact w17 _ _
    | with_reducible exact w18 _ _
    | with_reducible apply Closed.each hP
    | with_reducible apply Closed.moveInterval hP
    | with_reducible apply Closed.moveCompare hP
    | with_reducible apply Closed.startSequencer hP
    | with_reducible apply Closed.moveRing hP
    | intro _
    | split
    | dsimp only
    | dsimp only [id]

theorem writeDigests (hP : Closed W P) {s : State} (periodic : Bool) (w1 : ∀ x1', W (.stream x1'))
    (w2 : ∀ x1', W (.sched x1')) (h : P s) :
    P (State.writeDigests s periodic) := by
  unfold State.writeDigests
  repeat' first
    | with_reducible assumption
    | with_reducible exact w1 _
    | with_reducible exact w2 _
    | with_reducible apply Closed.each hP
    | with_reducible apply Closed.writeRecs hP
    | intro _
    | split
    | dsimp only
    | dsimp only [id]

theorem applyReplacement (hP : Closed W P) {s : State} (pl : Placement) (shed : List Nat) (health : List Byte)
    (w1 : ∀ x1', W (.stream x1')) (w2 : ∀ x1', W (.sched x1')) (w3 : ∀ x1', W (.box x1')) (w4 : ∀ x1', W (.seq x1'))
    (w5 : W .fw) (w6 : ∀ x1', W (.ival x1')) (w7 : W .drawn) (w8 : W .weaver) (w9 : W (.queue 1)) (w10 : W .station)
    (w11 : ∀ x1', W (.cmp x1')) (w12 : W (.queue 2)) (w13 : W .mbx) (w14 : W .ledger) (w15 : ∀ x1', W (.port x1'))
    (w16 : ∀ x1', W (.de x1')) (w17 : ∀ x1', W (.image x1')) (w18 : ∀ x1', W (.hist x1'))
    (w19 : ∀ x1', W (.chan x1')) (w20 : W .trig) (w21 : ∀ a, W (.reg a)) (h : P s) :
    P (State.applyReplacement s pl shed health) := by
  unfold State.applyReplacement
  repeat' first
    | with_reducible assumption
    | with_reducible exact w1 _
    | with_reducible exact w2 _
    | with_reducible exact w3 _
    | with_reducible exact w4 _
    | with_reducible exact w6 _
    | with_reducible exact w11 _
    | with_reducible exact w15 _
    | with_reducible exact w16 _
    | with_reducible exact w17 _
    | with_reducible exact w18 _
    | with_reducible exact w19 _
    | with_reducible exact w21 _
    | with_reducible apply Closed.each hP
    | with_reducible apply Closed.shedObject hP
    | with_reducible apply Closed.writeTout hP
    | with_reducible apply Closed.writeConfig hP
    | with_reducible apply Closed.wakePlaced hP
    | with_reducible apply Closed.moveSaved hP
    | with_reducible apply Closed.writePlaceRo hP
    | with_reducible apply Closed.Change_moveContexts hP
    | with_reducible apply Closed.restoreObject hP
    | with_reducible apply Closed.Change_startTerms hP
    | with_reducible apply Closed.startMoved hP
    | with_reducible apply Closed.histStart hP
    | with_reducible apply Closed.startPods hP
    | with_reducible apply Closed.putDigest hP
    | with_reducible apply Closed.incReg hP
    | with_reducible apply Closed.setRegBit hP
    | with_reducible apply Closed.updateLimits hP
    | with_reducible apply Closed.writeDigests hP
    | with_reducible apply hP.modWeaver
    | intro _
    | split
    | dsimp only
    | dsimp only [id]

theorem enumPod (hP : Closed W P) {s : State} (p : Nat) (pos : Nat) (serial : BitVec 48)
    (w1 : ∀ x1', W (.stream x1')) (w2 : ∀ x1', W (.sched x1')) (w3 : ∀ x1', W (.ival x1'))
    (w4 : ∀ x1', W (.cmp x1')) (w5 : W .trig) (w6 : W (.port p)) (w7 : W .drawn) (w8 : W .weaver)
    (w9 : W (.queue 2)) (w10 : W .station) (w11 : W .mbx) (w12 : W .ledger) (w13 : ∀ x1', W (.reg (CU x1' 36)))
    (w14 : W (.reg (PP_PRESENT p))) (w15 : W (.reg (HUB_Q 2 16))) (w16 : W (.reg (HUB_Q 2 24)))
    (w17 : W (.reg (HUB_Q 2 20))) (w18 : W (.reg MB_NTF_NSEQ)) (w19 : W (.reg HUB_HEALTH)) (h : P s) :
    P (State.enumPod s p pos serial) := by
  unfold State.enumPod
  repeat' first
    | with_reducible assumption
    | with_reducible exact w1 _
    | with_reducible exact w2 _
    | with_reducible exact w3 _
    | with_reducible exact w4 _
    | with_reducible exact w13 _
    | with_reducible apply Closed.draw hP
    | with_reducible apply Closed.podBreak hP
    | with_reducible apply Closed.setRegBit hP
    | with_reducible apply Closed.setPod hP
    | with_reducible apply Closed.clearMismatch hP
    | with_reducible apply Closed.raiseMismatch hP
    | intro _
    | split
    | dsimp only
    | dsimp only [id]

theorem replace (hP : Closed W P) {s : State} (w1 : W .weaver) (w2 : ∀ x1', W (.stream x1'))
    (w3 : ∀ x1', W (.sched x1')) (w4 : ∀ x1', W (.box x1')) (w5 : ∀ x1', W (.seq x1')) (w6 : W .fw)
    (w7 : ∀ x1', W (.ival x1')) (w8 : W .drawn) (w9 : W (.queue 1)) (w10 : W .station) (w11 : ∀ x1', W (.cmp x1'))
    (w12 : W (.queue 2)) (w13 : W .mbx) (w14 : W .ledger) (w15 : ∀ x1', W (.port x1')) (w16 : ∀ x1', W (.de x1'))
    (w17 : ∀ x1', W (.image x1')) (w18 : ∀ x1', W (.hist x1')) (w19 : ∀ x1', W (.chan x1')) (w20 : W .trig)
    (w21 : ∀ a, W (.reg a)) (h : P s) :
    P (State.replace s) := by
  unfold State.replace
  repeat' first
    | with_reducible assumption
    | with_reducible exact w2 _
    | with_reducible exact w3 _
    | with_reducible exact w4 _
    | with_reducible exact w5 _
    | with_reducible exact w7 _
    | with_reducible exact w11 _
    | with_reducible exact w15 _
    | with_reducible exact w16 _
    | with_reducible exact w17 _
    | with_reducible exact w18 _
    | with_reducible exact w19 _
    | with_reducible exact w21 _
    | with_reducible apply Closed.updateLimits hP
    | with_reducible apply Closed.applyReplacement hP
    | with_reducible apply hP.modWeaver
    | intro _
    | split
    | dsimp only
    | dsimp only [id]

theorem readBytes (hP : Closed W P) {s : State} (r : LedgerRec) (w1 : W .drawn) (h : P s) :
    P ((State.readBytes s r).2) := by
  unfold State.readBytes
  repeat' first
    | with_reducible assumption
    | with_reducible apply hP.drawBytes
    | intro _
    | split
    | dsimp only
    | dsimp only [id]

theorem takeRecords (hP : Closed W P) (x0 : List LedgerRec) (x1 : Nat) (x2 : Nat) {x3 : State} (w1 : W .drawn)
    (h : P x3) :
    P ((State.takeRecords x0 x1 x2 x3).2.2) := by
  induction x0 generalizing x1 x2 x3 with
  | nil =>
    unfold State.takeRecords
    repeat' first
      | with_reducible assumption
      | with_reducible apply Closed.readBytes hP
      | intro _
      | split
      | dsimp only
      | dsimp only [id]
  | cons e l ih =>
    unfold State.takeRecords
    repeat' first
      | with_reducible apply ih
      | with_reducible assumption
      | with_reducible apply Closed.readBytes hP
      | intro _
      | split
      | dsimp only
      | dsimp only [id]

theorem Change_endLane (hP : Closed W P) (c : Change) {s : State} (n : Nat) (w1 : W (.lane n))
    (w2 : ∀ x1', W (.queue (stakeQ x1'))) (w3 : ∀ x1', W (.stream x1')) (w4 : ∀ x1', W (.sched x1'))
    (w5 : W (.reg (LN_BURSTS n))) (h : P s) :
    P (Change.endLane c s n) := by
  unfold Sys2Proof.Machine.Change.endLane
  repeat' first
    | with_reducible assumption
    | with_reducible exact w2 _
    | with_reducible exact w3 _
    | with_reducible exact w4 _
    | with_reducible apply Closed.closeBurst hP
    | with_reducible apply Closed.endBlock hP
    | intro _
    | split
    | dsimp only
    | dsimp only [id]

theorem noticePower (hP : Closed W P) {s : State} (st : Nat) (w1 : W (.queue 2)) (w2 : W .station) (w3 : W .mbx)
    (w4 : W (.reg (HUB_Q 2 16))) (w5 : W (.reg (HUB_Q 2 24))) (w6 : W (.reg (HUB_Q 2 20)))
    (w7 : W (.reg MB_NTF_NSEQ)) (h : P s) :
    P (State.noticePower s st) := by
  unfold State.noticePower
  repeat' first
    | with_reducible assumption
    | with_reducible apply Closed.notice hP
    | intro _
    | split
    | dsimp only
    | dsimp only [id]

theorem smbus (hP : Closed W P) {s : State} (bytes : List Byte) (w1 : W .out) (h : P s) :
    P (State.smbus s bytes) := by
  unfold State.smbus
  repeat' first
    | with_reducible assumption
    | with_reducible apply hP.modOut
    | intro _
    | split
    | dsimp only
    | dsimp only [id]

theorem corruptRef (hP : Closed W P) {s : State} (r : Nat) (member : Nat) (cause : Nat) (pos : Nat)
    (rerun : Option (Nat × Rerun)) (w1 : W .dram) (w2 : W (.ref r)) (w3 : ∀ x1', W (.de x1')) (w4 : W .ledger)
    (w5 : ∀ x1', W (.reg (DE x1' 16))) (w6 : ∀ x1', W (.reg (DE x1' 20))) (w7 : ∀ x1', W (.reg (DE x1' 24)))
    (w8 : ∀ x1', W (.reg (DE x1' 28))) (w9 : ∀ x1', W (.reg (DE x1' 32))) (w10 : ∀ x1', W (.reg (DE x1' 36)))
    (h : P s) :
    P ((State.corruptRef s r member cause pos rerun).1) := by
  unfold State.corruptRef
  repeat' first
    | with_reducible assumption
    | with_reducible exact w3 _
    | with_reducible exact w5 _
    | with_reducible exact w6 _
    | with_reducible exact w7 _
    | with_reducible exact w8 _
    | with_reducible exact w9 _
    | with_reducible exact w10 _
    | with_reducible apply Closed.emptyRef hP
    | with_reducible apply Closed.corruptFound hP
    | with_reducible apply Closed.ledReference hP
    | intro _
    | split
    | dsimp only
    | dsimp only [id]

theorem finishLoad (hP : Closed W P) {s : State} (r : Nat) (w1 : W .dram) (w2 : W (.ref r))
    (w3 : ∀ x1', W (.de x1')) (w4 : W .ledger) (w5 : ∀ x1', W (.reg (DE x1' 16))) (w6 : ∀ x1', W (.reg (DE x1' 20)))
    (w7 : ∀ x1', W (.reg (DE x1' 24))) (w8 : ∀ x1', W (.reg (DE x1' 28))) (w9 : ∀ x1', W (.reg (DE x1' 32)))
    (w10 : ∀ x1', W (.reg (DE x1' 36))) (h : P s) :
    P ((State.finishLoad s r).1) := by
  unfold State.finishLoad
  repeat' first
    | with_reducible assumption
    | with_reducible exact w3 _
    | with_reducible exact w5 _
    | with_reducible exact w6 _
    | with_reducible exact w7 _
    | with_reducible exact w8 _
    | with_reducible exact w9 _
    | with_reducible exact w10 _
    | with_reducible apply Closed.corruptRef hP
    | with_reducible apply Closed.emptyRef hP
    | with_reducible apply Closed.modRef hP
    | with_reducible apply Closed.done hP
    | intro _
    | split
    | dsimp only
    | dsimp only [id]

theorem provisionKeyCmd (hP : Closed W P) (img : MbImage) {s : State} (w1 : W .ledger) (h : P s) :
    P ((provisionKeyCmd img s).1) := by
  unfold Sys2Proof.Machine.provisionKeyCmd
  repeat' first
    | with_reducible assumption
    | with_reducible apply Closed.refuse hP
    | with_reducible apply Closed.done hP
    | with_reducible apply Closed.ledgerReq hP
    | with_reducible apply Closed.storeMeta hP
    | with_reducible apply hP.modLedger
    | intro _
    | split
    | dsimp only
    | dsimp only [id]

theorem stateSlot (hP : Closed W P) {s : State} (n : Nat) (w1 : W (.lane n)) (w2 : ∀ x1', W (.queue (stakeQ x1')))
    (w3 : ∀ x1', W (.stream x1')) (w4 : ∀ x1', W (.sched x1')) (h : P s) :
    P (State.stateSlot s n) := by
  unfold State.stateSlot
  repeat' first
    | with_reducible assumption
    | with_reducible exact w2 _
    | with_reducible exact w3 _
    | with_reducible exact w4 _
    | with_reducible apply Closed.writeFull hP
    | with_reducible apply Closed.modLane hP
    | intro _
    | split
    | dsimp only
    | dsimp only [id]

theorem ivLossSpan (hP : Closed W P) {s : State} (iu : Nat) (isA : Bool) (t0 : Time) (t1 : Time) (w1 : W (.ival iu))
    (h : P s) :
    P (State.ivLossSpan s iu isA t0 t1) := by
  unfold State.ivLossSpan
  repeat' first
    | with_reducible assumption
    | with_reducible apply Closed.ivPush hP
    | with_reducible apply Closed.modIval hP
    | intro _
    | split
    | dsimp only
    | dsimp only [id]

theorem hostWrite (hP : Closed W P) {s : State} (a : Nat) (v : Word) (w1 : ∀ x1', W (.chan x1'))
    (w2 : ∀ x1', W (.tout x1')) (w3 : W .station) (w4 : W (.reg a)) (w5 : ∀ x1' x2', W (.reg (MC_TRN_ERR x1' x2')))
    (w6 : ∀ x1', W (.reg (HUB_Q x1' 20))) (h : P s) :
    P (State.hostWrite s a v) := by
  unfold State.hostWrite
  repeat' first
    | with_reducible assumption
    | with_reducible exact w1 _
    | with_reducible exact w2 _
    | with_reducible exact w5 _ _
    | with_reducible exact w6 _
    | with_reducible apply Closed.each hP
    | with_reducible apply Closed.setRegBit hP
    | with_reducible apply Closed.modChan hP
    | with_reducible apply Closed.followWater hP
    | with_reducible apply hP.setReg
    | with_reducible apply hP.setTout
    | intro _
    | split
    | dsimp only
    | dsimp only [id]

theorem decideFirst (hP : Closed W P) {s : State} (cu : Nat) (check : Bool) (w1 : W (.cmp cu))
    (w2 : ∀ x1', W (.stream x1')) (w3 : ∀ x1', W (.sched x1')) (w4 : W .trig) (w5 : W .drawn)
    (w6 : W (.reg (CU cu 24))) (w7 : W (.reg (CU cu 36))) (h : P s) :
    P (State.decideFirst s cu check) := by
  unfold State.decideFirst
  repeat' first
    | with_reducible assumption
    | with_reducible exact w2 _
    | with_reducible exact w3 _
    | with_reducible apply Closed.advanceTo hP
    | intro _
    | split
    | dsimp only
    | dsimp only [id]

theorem srcLossSpan (hP : Closed W P) {s : State} (w : Nat) (p : Nat → Bool) (t0 : Time) (t1 : Time)
    (w1 : ∀ x1', W (.ival x1')) (h : P s) :
    P (State.srcLossSpan s w p t0 t1) := by
  unfold State.srcLossSpan
  repeat' first
    | with_reducible assumption
    | with_reducible exact w1 _
    | with_reducible apply Closed.each hP
    | with_reducible apply Closed.ivLossSpan hP
    | intro _
    | split
    | dsimp only
    | dsimp only [id]

theorem putRead (hP : Closed W P) {s : State} (data : DWord) (bytes : List Byte) (ur : Bool) (w1 : W .out) (h : P s) :
    P (State.putRead s data bytes ur) := by
  unfold State.putRead
  repeat' first
    | with_reducible assumption
    | with_reducible apply hP.modOut
    | intro _
    | split
    | dsimp only
    | dsimp only [id]

theorem aerError (hP : Closed W P) {s : State} (i : Nat) (header : Bool) (advisory : Bool) (w1 : W .drawn)
    (w2 : W .pcie) (h : P s) :
    P (State.aerError s i header advisory) := by
  unfold State.aerError
  repeat' first
    | with_reducible assumption
    | with_reducible apply Closed.draw hP
    | with_reducible apply hP.modPcie
    | intro _
    | split
    | dsimp only
    | dsimp only [id]

theorem romBytes (hP : Closed W P) {s : State} (a : Nat) (len : Nat) (w1 : W .drawn) (h : P s) :
    P ((State.romBytes s a len).2) := by
  unfold State.romBytes
  repeat' first
    | with_reducible assumption
    | with_reducible apply hP.drawBytes
    | intro _
    | split
    | dsimp only
    | dsimp only [id]

theorem romRead (hP : Closed W P) {s : State} (a : Nat) (bits : Nat) (w1 : W .drawn) (w2 : W .pcie) (w3 : W .out)
    (h : P s) :
    P (State.romRead s a bits) := by
  unfold State.romRead
  repeat' first
    | with_reducible assumption
    | with_reducible apply Closed.putRead hP
    | with_reducible apply Closed.aerError hP
    | with_reducible apply Closed.romBytes hP
    | intro _
    | split
    | dsimp only
    | dsimp only [id]

theorem diagLockCmd (hP : Closed W P) (x0 : MbImage) {s : State} (w1 : W .station) (w2 : W .weaver)
    (w3 : W (.queue 2)) (w4 : W .mbx) (w5 : W .ledger) (w6 : ∀ a, W (.reg a)) (h : P s) :
    P ((diagLockCmd x0 s).1) := by
  unfold Sys2Proof.Machine.diagLockCmd
  repeat' first
    | with_reducible assumption
    | with_reducible exact w6 _
    | with_reducible apply Closed.refuse hP
    | with_reducible apply Closed.done hP
    | with_reducible apply Closed.lockFile hP
    | intro _
    | split
    | dsimp only
    | dsimp only [id]

theorem podCommand (hP : Closed W P) {s : State} (p : Nat) (q : Nat) (c : PodCommand) (w1 : W (.port p)) (h : P s) :
    P (State.podCommand s p q c) := by
  unfold State.podCommand
  repeat' first
    | with_reducible assumption
    | with_reducible apply Closed.modPod hP
    | intro _
    | split
    | dsimp only
    | dsimp only [id]

theorem failDescriptors (hP : Closed W P) {s : State} (i : Nat) (status : Nat) (w1 : W (.stream i))
    (w2 : W (.queue 2)) (w3 : W .station) (w4 : W .mbx) (w5 : W (.reg (HUB_Q 2 16))) (w6 : W (.reg (HUB_Q 2 24)))
    (w7 : W (.reg (HUB_Q 2 20))) (w8 : W (.reg MB_NTF_NSEQ)) (h : P s) :
    P (State.failDescriptors s i status) := by
  unfold State.failDescriptors
  repeat' first
    | with_reducible assumption
    | with_reducible apply Closed.noticeStreamFault hP
    | with_reducible apply Closed.modStream hP
    | intro _
    | split
    | dsimp only
    | dsimp only [id]

theorem failRead (hP : Closed W P) {s : State} (o : ReadOwner) (status : Nat) (w1 : W .dram)
    (w2 : ∀ x1', W (.ref x1')) (w3 : ∀ x1', W (.box x1')) (w4 : ∀ x1', W (.stream x1')) (w5 : W (.queue 2))
    (w6 : W .station) (w7 : W .mbx) (w8 : W (.reg (HUB_Q 2 16))) (w9 : W (.reg (HUB_Q 2 24)))
    (w10 : W (.reg (HUB_Q 2 20))) (w11 : W (.reg MB_NTF_NSEQ)) (h : P s) :
    P (State.failRead s o status) := by
  unfold State.failRead
  repeat' first
    | with_reducible assumption
    | with_reducible exact w2 _
    | with_reducible exact w3 _
    | with_reducible exact w4 _
    | with_reducible apply Closed.failCommand hP
    | with_reducible apply Closed.failDescriptors hP
    | intro _
    | split
    | dsimp only
    | dsimp only [id]

theorem finishVword (hP : Closed W P) {s : State} (w1 : W .station) (h : P s) :
    P (State.finishVword s) := by
  unfold State.finishVword
  repeat' first
    | with_reducible assumption
    | with_reducible apply hP.modStation
    | intro _
    | split
    | dsimp only
    | dsimp only [id]

theorem flushStream (hP : Closed W P) {s : State} (i : Nat) (w1 : W (.stream i)) (w2 : ∀ x1', W (.reg (CE x1' 12)))
    (w3 : ∀ x1', W (.reg (CE x1' 12 + 4))) (w4 : ∀ x1', W (.reg (CE x1' 20))) (h : P s) :
    P (State.flushStream s i) := by
  unfold State.flushStream
  repeat' first
    | with_reducible assumption
    | with_reducible exact w2 _
    | with_reducible exact w3 _
    | with_reducible exact w4 _
    | with_reducible apply Closed.modStream hP
    | with_reducible apply Closed.endMember hP
    | intro _
    | split
    | dsimp only
    | dsimp only [id]

theorem armCompare (hP : Closed W P) {s : State} (cu : Nat) (w1 : W (.cmp cu)) (w2 : W (.reg (CU cu 12))) (h : P s) :
    P (State.armCompare s cu) := by
  unfold State.armCompare
  repeat' first
    | with_reducible assumption
    | with_reducible apply Closed.freshCompare hP
    | with_reducible apply Closed.cuState hP
    | with_reducible apply Closed.setRegF hP
    | intro _
    | split
    | dsimp only
    | dsimp only [id]

theorem rawSample (hP : Closed W P) {s : State} (n : Nat) (t : Time) (v : BitVec 2) (w1 : W (.lane n))
    (w2 : ∀ x1', W (.queue (stakeQ x1'))) (w3 : ∀ x1', W (.stream x1')) (w4 : ∀ x1', W (.sched x1')) (h : P s) :
    P (State.rawSample s n t v) := by
  unfold State.rawSample
  repeat' first
    | with_reducible assumption
    | with_reducible exact w2 _
    | with_reducible exact w3 _
    | with_reducible exact w4 _
    | with_reducible apply Closed.closeBlock hP
    | with_reducible apply Closed.modLane hP
    | intro _
    | split
    | dsimp only
    | dsimp only [id]

theorem rawSlot (hP : Closed W P) {s : State} (n : Nat) (w1 : W (.lane n)) (w2 : ∀ x1', W (.queue (stakeQ x1')))
    (w3 : ∀ x1', W (.stream x1')) (w4 : ∀ x1', W (.sched x1')) (h : P s) :
    P (State.rawSlot s n) := by
  unfold State.rawSlot
  repeat' first
    | with_reducible assumption
    | with_reducible exact w2 _
    | with_reducible exact w3 _
    | with_reducible exact w4 _
    | with_reducible apply Closed.each hP
    | with_reducible apply Closed.rawSample hP
    | intro _
    | split
    | dsimp only
    | dsimp only [id]

theorem histResolve (hP : Closed W P) {s : State} (hu : Nat) (r : Nat) (w1 : W (.hist hu))
    (w2 : ∀ x1' x2', W (.reg (HU_RG hu x1' x2'))) (w3 : W (.reg (HU_OVERFLOW hu))) (h : P s) :
    P (State.histResolve s hu r) := by
  unfold State.histResolve
  repeat' first
    | with_reducible assumption
    | with_reducible exact w2 _ _
    | with_reducible apply Closed.histPair hP
    | with_reducible apply Closed.modRegion hP
    | intro _
    | split
    | dsimp only
    | dsimp only [id]

theorem histSlot (hP : Closed W P) {s : State} (hu : Nat) (r : Nat) (w1 : W (.hist hu))
    (w2 : ∀ x1' x2', W (.reg (HU_RG hu x1' x2'))) (w3 : W (.reg (HU_OVERFLOW hu))) (h : P s) :
    P (State.histSlot s hu r) := by
  unfold State.histSlot
  repeat' first
    | with_reducible assumption
    | with_reducible exact w2 _ _
    | with_reducible apply Closed.each hP
    | with_reducible apply Closed.histClear hP
    | with_reducible apply Closed.modRegion hP
    | with_reducible apply Closed.histResolve hP
    | intro _
    | split
    | dsimp only
    | dsimp only [id]

theorem advance (hP : Closed W P) {s : State} (w1 : W .time) (h : P s) :
    P (State.advance s) := by
  unfold State.advance
  repeat' first
    | with_reducible assumption
    | with_reducible apply hP.modTime
    | intro _
    | split
    | dsimp only
    | dsimp only [id]

theorem sampleSlot (hP : Closed W P) {s : State} (w1 : ∀ x1', W (.lane x1')) (w2 : ∀ x1', W (.queue (stakeQ x1')))
    (w3 : ∀ x1', W (.stream x1')) (w4 : ∀ x1', W (.sched x1')) (w5 : ∀ x1', W (.cmp x1')) (w6 : W .trig)
    (w7 : W .drawn) (w8 : ∀ x1', W (.ival x1')) (w9 : ∀ x1', W (.port x1')) (w10 : ∀ x1', W (.hist x1'))
    (w11 : W .time) (w12 : ∀ a, W (.reg a)) (h : P s) :
    P (State.sampleSlot s) := by
  unfold State.sampleSlot
  repeat' first
    | with_reducible assumption
    | with_reducible exact w1 _
    | with_reducible exact w2 _
    | with_reducible exact w3 _
    | with_reducible exact w4 _
    | with_reducible exact w5 _
    | with_reducible exact w8 _
    | with_reducible exact w9 _
    | with_reducible exact w10 _
    | with_reducible exact w12 _
    | with_reducible apply Closed.each hP
    | with_reducible apply Closed.rawSlot hP
    | with_reducible apply Closed.stateSlot hP
    | with_reducible apply Closed.levelSlot hP
    | with_reducible apply Closed.cmpSlot hP
    | with_reducible apply Closed.ivCount hP
    | with_reducible apply Closed.evalTerms hP
    | with_reducible apply Closed.modHist hP
    | with_reducible apply Closed.histSlot hP
    | with_reducible apply Closed.advance hP
    | with_reducible apply Closed.schedule hP
    | with_reducible apply hP.pruneLanes
    | intro _
    | split
    | dsimp only
    | dsimp only [id]

theorem podPacket (hP : Closed W P) {s : State} (b : DWord) (w1 : W .drawn) (w2 : W (.queue 4)) (w3 : W .station)
    (w4 : W (.reg (HUB_Q 4 16))) (w5 : W (.reg (HUB_Q 4 24))) (w6 : W (.reg (HUB_Q 4 20))) (h : P s) :
    P (State.podPacket s b) := by
  unfold State.podPacket
  repeat' first
    | with_reducible assumption
    | with_reducible apply Closed.draw hP
    | with_reducible apply Closed.pushPacket hP
    | intro _
    | split
    | dsimp only
    | dsimp only [id]

theorem setBusMaster (hP : Closed W P) {s : State} (w1 : W .pcie) (w2 : ∀ x1', W (.stream x1')) (h : P s) :
    P (State.setBusMaster s) := by
  unfold State.setBusMaster
  repeat' first
    | with_reducible assumption
    | with_reducible exact w2 _
    | with_reducible apply Closed.each hP
    | with_reducible apply Closed.resumeDma hP
    | with_reducible apply Closed.modStream hP
    | with_reducible apply hP.modPcie
    | intro _
    | split
    | dsimp only
    | dsimp only [id]

theorem timebase (hP : Closed W P) {s : State} (new : Nat) (cause : Nat) (w1 : W .time)
    (w2 : ∀ x1', W (.stream x1')) (w3 : ∀ x1', W (.sched x1')) (w4 : W .drawn) (w5 : W (.queue 2)) (w6 : W .station)
    (w7 : W .mbx) (w8 : W .ledger) (w9 : W (.reg CLK_STATUS)) (w10 : W (.reg CLK_EVENTS))
    (w11 : W (.reg (HUB_Q 2 16))) (w12 : W (.reg (HUB_Q 2 24))) (w13 : W (.reg (HUB_Q 2 20)))
    (w14 : W (.reg MB_NTF_NSEQ)) (h : P s) :
    P (State.timebase s new cause) := by
  unfold State.timebase
  repeat' first
    | with_reducible assumption
    | with_reducible exact w2 _
    | with_reducible exact w3 _
    | with_reducible apply Closed.draw hP
    | with_reducible apply Closed.setRegF hP
    | with_reducible apply Closed.incReg hP
    | with_reducible apply Closed.writeAll hP
    | with_reducible apply Closed.ledgerReq hP
    | with_reducible apply Closed.noticeWords hP
    | with_reducible apply hP.modTime
    | intro _
    | split
    | dsimp only
    | dsimp only [id]

theorem refFails (hP : Closed W P) {s : State} (cause : HoldCause) (w1 : W .power) (w2 : W .time)
    (w3 : ∀ x1', W (.stream x1')) (w4 : ∀ x1', W (.sched x1')) (w5 : W .drawn) (w6 : W (.queue 2)) (w7 : W .station)
    (w8 : W .mbx) (w9 : W .ledger) (w10 : W (.reg CLK_STATUS)) (w11 : W (.reg CLK_EVENTS))
    (w12 : W (.reg (HUB_Q 2 16))) (w13 : W (.reg (HUB_Q 2 24))) (w14 : W (.reg (HUB_Q 2 20)))
    (w15 : W (.reg MB_NTF_NSEQ)) (h : P s) :
    P (State.refFails s cause) := by
  unfold State.refFails
  repeat' first
    | with_reducible assumption
    | with_reducible exact w3 _
    | with_reducible exact w4 _
    | with_reducible apply Closed.setRegBit hP
    | with_reducible apply Closed.timebase hP
    | with_reducible apply hP.modPower
    | intro _
    | split
    | dsimp only
    | dsimp only [id]

theorem packerLoss (hP : Closed W P) {s : State} (k : Nat) (staged : Bool) (w : DWord) (lost : Nat)
    (w1 : ∀ x1', W (.stream x1')) (w2 : ∀ x1', W (.sched x1')) (w3 : ∀ x1', W (.lane x1'))
    (w4 : ∀ x1', W (.queue (stakeQ x1'))) (w5 : W (.reg (STK_PACK_LOST k))) (h : P s) :
    P (State.packerLoss s k staged w lost) := by
  unfold State.packerLoss
  repeat' first
    | with_reducible assumption
    | with_reducible exact w1 _
    | with_reducible exact w2 _
    | with_reducible exact w3 _
    | with_reducible exact w4 _
    | with_reducible apply Closed.each hP
    | with_reducible apply Closed.closeLoss hP
    | with_reducible apply Closed.laneLevel hP
    | with_reducible apply Closed.addReg hP
    | with_reducible apply Closed.openLoss hP
    | intro _
    | split
    | dsimp only
    | dsimp only [id]

theorem queueArriveAt (hP : Closed W P) {s : State} (n : Nat) (w : DWord) (last : Bool) (parity : Bool) (t : Time)
    (w1 : W (.queue n)) (w2 : W .station) (w3 : ∀ x1', W (.stream x1')) (w4 : ∀ x1', W (.sched x1')) (w5 : W .mbx)
    (w6 : ∀ x1', W (.lane x1')) (w7 : ∀ x1', W (.queue (stakeQ x1'))) (w8 : W (.reg (HUB_Q n 16)))
    (w9 : W (.reg (HUB_Q n 24))) (w10 : W (.reg (HUB_Q n 20))) (w11 : ∀ x1', W (.reg (STK_PACK_LOST x1')))
    (h : P s) :
    P (State.queueArriveAt s n w last parity t) := by
  unfold State.queueArriveAt
  repeat' first
    | with_reducible assumption
    | with_reducible exact w3 _
    | with_reducible exact w4 _
    | with_reducible exact w6 _
    | with_reducible exact w7 _
    | with_reducible exact w11 _
    | with_reducible apply Closed.settleQueue hP
    | with_reducible apply Closed.annotationLoss hP
    | with_reducible apply Closed.packerLoss hP
    | with_reducible apply hP.modMbx
    | with_reducible apply hP.modStation
    | intro _
    | split
    | dsimp only
    | dsimp only [id]
    | rfl

theorem recomputeDelay (hP : Closed W P) {s : State} (p : Nat) (q : Nat) (always : Bool) (w1 : W .drawn)
    (w2 : W (.port p)) (w3 : W (.reg (PP_DELAY p q))) (h : P s) :
    P (State.recomputeDelay s p q always) := by
  unfold State.recomputeDelay
  repeat' first
    | with_reducible assumption
    | with_reducible apply Closed.draw hP
    | with_reducible apply Closed.writePod hP
    | with_reducible apply hP.setReg
    | intro _
    | split
    | dsimp only
    | dsimp only [id]

theorem presentLoss (hP : Closed W P) {s : State} (i : Nat) (w1 : W (.stream i)) (h : P s) :
    P (State.presentLoss s i) := by
  unfold State.presentLoss
  repeat' first
    | with_reducible assumption
    | with_reducible apply Closed.skipOutside hP
    | with_reducible apply hP.setStream
    | intro _
    | split
    | dsimp only
    | dsimp only [id]

theorem storeImage (hP : Closed W P) {s : State} (hu : Nat) (r : Nat) (c : Closing) (w1 : ∀ x1', W (.image x1'))
    (w2 : ∀ x1', W (.sched x1')) (w3 : W (.queue 2)) (w4 : W .station) (w5 : W .mbx)
    (w6 : W (.reg (HU_IMG_LOST hu))) (w7 : W (.reg (HU_SPILLS hu))) (w8 : W (.reg (HU_RG hu r 32)))
    (w9 : W (.reg (HUB_Q 2 16))) (w10 : W (.reg (HUB_Q 2 24))) (w11 : W (.reg (HUB_Q 2 20)))
    (w12 : W (.reg MB_NTF_NSEQ)) (h : P s) :
    P (State.storeImage s hu r c) := by
  unfold State.storeImage
  repeat' first
    | with_reducible assumption
    | with_reducible exact w1 _
    | with_reducible exact w2 _
    | with_reducible apply Closed.incReg hP
    | with_reducible apply Closed.askWriteAt hP
    | with_reducible apply Closed.noticeReady hP
    | with_reducible apply hP.setReg
    | with_reducible apply hP.setImage
    | intro _
    | split
    | dsimp only
    | dsimp only [id]

theorem podUnitSpan (hP : Closed W P) {s : State} (p : Nat) (pos : Nat) (t0 : Time) (t1 : Time)
    (w1 : ∀ x1', W (.ival x1')) (w2 : ∀ x1', W (.cmp x1')) (w3 : ∀ x1', W (.reg (CU x1' 36))) (h : P s) :
    P (State.podUnitSpan s p pos t0 t1) := by
  unfold State.podUnitSpan
  repeat' first
    | with_reducible assumption
    | with_reducible exact w1 _
    | with_reducible exact w2 _
    | with_reducible exact w3 _
    | with_reducible apply Closed.each hP
    | with_reducible apply Closed.srcLossSpan hP
    | with_reducible apply Closed.cmpLossSpan hP
    | intro _
    | split
    | dsimp only
    | dsimp only [id]

theorem loadContext (hP : Closed W P) {s : State} (i : Nat) (w1 : ∀ x1', W (.sched x1')) (w2 : W (.stream i))
    (h : P s) :
    P ((State.loadContext s i).1) := by
  unfold State.loadContext
  repeat' first
    | with_reducible assumption
    | with_reducible exact w1 _
    | with_reducible apply Closed.askRead hP
    | with_reducible apply Closed.modStream hP
    | intro _
    | split
    | dsimp only
    | dsimp only [id]

theorem evictSlot (hP : Closed W P) {s : State} (n : Nat) (k : Nat) (w1 : ∀ x1', W (.stream x1')) (w2 : W .drawn)
    (w3 : ∀ x1', W (.sched x1')) (w4 : ∀ x1', W (.reg (CE x1' 12))) (w5 : ∀ x1', W (.reg (CE x1' 12 + 4)))
    (w6 : ∀ x1', W (.reg (CE x1' 20))) (w7 : W (.reg (CE n 28))) (h : P s) :
    P (State.evictSlot s n k) := by
  unfold State.evictSlot
  repeat' first
    | with_reducible assumption
    | with_reducible exact w1 _
    | with_reducible exact w3 _
    | with_reducible exact w4 _
    | with_reducible exact w5 _
    | with_reducible exact w6 _
    | with_reducible apply Closed.incReg hP
    | with_reducible apply Closed.breakRun hP
    | with_reducible apply Closed.saveContext hP
    | intro _
    | split
    | dsimp only
    | dsimp only [id]

theorem enterSlot (hP : Closed W P) {s : State} (n : Nat) (k : Nat) (i : Nat) (ok : Bool)
    (w1 : ∀ x1', W (.stream x1')) (w2 : W .drawn) (w3 : ∀ x1', W (.sched x1')) (w4 : ∀ x1', W (.reg (CE x1' 12)))
    (w5 : ∀ x1', W (.reg (CE x1' 12 + 4))) (w6 : ∀ x1', W (.reg (CE x1' 20))) (w7 : W (.reg (CE n 28)))
    (w8 : W (.reg (CE_SLOT n k))) (w9 : W (.reg (CE n 0))) (w10 : W (.reg (CE n 32))) (w11 : W (.reg (CE n 40)))
    (h : P s) :
    P (State.enterSlot s n k i ok) := by
  unfold State.enterSlot
  repeat' first
    | with_reducible assumption
    | with_reducible exact w1 _
    | with_reducible exact w3 _
    | with_reducible exact w4 _
    | with_reducible exact w5 _
    | with_reducible exact w6 _
    | with_reducible apply Closed.loadContext hP
    | with_reducible apply Closed.evictSlot hP
    | with_reducible apply Closed.addReg hP
    | with_reducible apply Closed.countSlots hP
    | with_reducible apply Closed.abortStreamMember hP
    | with_reducible apply Closed.incReg hP
    | with_reducible apply hP.setReg
    | intro _
    | split
    | dsimp only
    | dsimp only [id]

theorem freezeSched (hP : Closed W P) {s : State} (ch : Nat) (w1 : W (.sched ch)) (h : P s) :
    P (State.freezeSched s ch) := by
  unfold State.freezeSched
  repeat' first
    | with_reducible assumption
    | with_reducible apply Closed.modSched hP
    | intro _
    | split
    | dsimp only
    | dsimp only [id]

theorem freezeChannel (hP : Closed W P) {s : State} (ch : Nat) (off : BitVec 33) (port : Nat) (kind : Nat)
    (synd : Word) (w1 : W .ledger) (w2 : W .weaver) (w3 : ∀ x1', W (.stream x1')) (w4 : ∀ x1', W (.de x1'))
    (w5 : ∀ x1', W (.ref x1')) (w6 : W (.queue 2)) (w7 : W .station) (w8 : W .mbx) (w9 : W (.queue 1))
    (w10 : ∀ x1', W (.sched x1')) (w11 : ∀ x1', W (.cmp x1')) (w12 : W .dram) (w13 : ∀ x1', W (.image x1'))
    (w14 : ∀ x1', W (.hist x1')) (w15 : ∀ a, W (.reg a)) (h : P s) :
    P (State.freezeChannel s ch off port kind synd) := by
  unfold State.freezeChannel
  repeat' first
    | with_reducible assumption
    | with_reducible exact w3 _
    | with_reducible exact w4 _
    | with_reducible exact w5 _
    | with_reducible exact w10 _
    | with_reducible exact w11 _
    | with_reducible exact w13 _
    | with_reducible exact w14 _
    | with_reducible exact w15 _
    | with_reducible apply Closed.incReg hP
    | with_reducible apply Closed.raiseFault hP
    | with_reducible apply Closed.setRegBit hP
    | with_reducible apply Closed.setMcState hP
    | with_reducible apply Closed.freezeSched hP
    | with_reducible apply Closed.loseContents hP
    | with_reducible apply Closed.notice hP
    | with_reducible apply hP.setReg
    | with_reducible apply hP.modWeaver
    | intro _
    | split
    | dsimp only
    | dsimp only [id]

theorem ackAlert (hP : Closed W P) {s : State} (w1 : W .station) (h : P s) :
    P (State.ackAlert s) := by
  unfold State.ackAlert
  repeat' first
    | with_reducible assumption
    | with_reducible apply hP.modStation
    | intro _
    | split
    | dsimp only
    | dsimp only [id]

theorem cancel (hP : Closed W P) {s : State} (t : Nat) (img : MbImage) (w1 : W .dram) (w2 : ∀ x1', W (.ref x1'))
    (w3 : W .mbx) (w4 : W (.box t)) (h : P s) :
    P (State.cancel s t img) := by
  unfold State.cancel
  repeat' first
    | with_reducible assumption
    | with_reducible exact w2 _
    | with_reducible apply Closed.emptyRef hP
    | with_reducible apply Closed.respond hP
    | with_reducible apply hP.modMbx
    | intro _
    | split
    | dsimp only
    | dsimp only [id]
    | rfl

theorem endStep (hP : Closed W P) {s : State} (ch : Nat) (w1 : W .drawn) (w2 : W .dram) (w3 : W (.chan ch))
    (w4 : W (.reg (MC_TRN_CTL ch))) (w5 : ∀ x1', W (.reg (MC_TRN_ERR ch x1'))) (w6 : W (.reg (MC_TRN_FAIL_BITS ch)))
    (h : P s) :
    P (State.endStep s ch) := by
  unfold State.endStep
  repeat' first
    | with_reducible assumption
    | with_reducible exact w5 _
    | with_reducible apply Closed.each hP
    | with_reducible apply Closed.draw hP
    | with_reducible apply Closed.writeTraining hP
    | with_reducible apply Closed.setRegBit hP
    | with_reducible apply Closed.modChan hP
    | with_reducible apply hP.setReg
    | intro _
    | split
    | dsimp only
    | dsimp only [id]

theorem retainChannel (hP : Closed W P) {s : State} (ch : Nat) (w1 : W .drawn) (w2 : W .dram) (w3 : W (.chan ch))
    (w4 : W (.reg (MC_TRN_CTL ch))) (w5 : ∀ x1', W (.reg (MC_TRN_ERR ch x1'))) (w6 : W (.reg (MC_TRN_FAIL_BITS ch)))
    (w7 : W (.reg (MC_STATUS ch))) (h : P s) :
    P (State.retainChannel s ch) := by
  unfold State.retainChannel
  repeat' first
    | with_reducible assumption
    | with_reducible exact w5 _
    | with_reducible apply Closed.draw hP
    | with_reducible apply Closed.forgetPages hP
    | with_reducible apply Closed.endStep hP
    | with_reducible apply Closed.setMcState hP
    | with_reducible apply Closed.setRegF hP
    | intro _
    | split
    | dsimp only
    | dsimp only [id]

theorem moveRefs (hP : Closed W P) {s : State} (refs : List RefPlace) (w1 : W .dram) (w2 : ∀ x1', W (.ref x1')) (h : P s) :
    P (s.moveRefs refs) := by
  unfold State.moveRefs
  refine Closed.each hP (fun t a ht => Closed.modRef hP _ _ (w2 _) ht) ?_
  split
  · exact h
  · exact hP.modMem _ (fun m => MemState.wf_move _) (fun _ => rfl) w1 h

theorem readAttr (hP : Closed W P) {s : State} (attr : BitVec 3) (w1 : W .out) (h : P s) :
    P (State.readAttr s attr) := by
  unfold State.readAttr
  repeat' first
    | with_reducible assumption
    | with_reducible apply hP.modOut
    | intro _
    | split
    | dsimp only
    | dsimp only [id]

theorem rotation (hP : Closed W P) {s : State} (p : Nat) (q : Nat) (w1 : W (.port p)) (w2 : W .weaver)
    (w3 : W (.queue 2)) (w4 : W .station) (w5 : W .mbx) (w6 : W .ledger) (w7 : W (.reg (PP_MISMATCH p)))
    (w8 : W (.reg (HUB_Q 2 16))) (w9 : W (.reg (HUB_Q 2 24))) (w10 : W (.reg (HUB_Q 2 20)))
    (w11 : W (.reg MB_NTF_NSEQ)) (w12 : W (.reg HUB_HEALTH)) (h : P s) :
    P (State.rotation s p q) := by
  unfold State.rotation
  repeat' first
    | with_reducible assumption
    | with_reducible apply Closed.each hP
    | with_reducible apply Closed.modPod hP
    | with_reducible apply Closed.clearMismatch hP
    | with_reducible apply Closed.setRegBit hP
    | with_reducible apply Closed.raiseMismatch hP
    | with_reducible apply Closed.sendPod hP
    | intro _
    | split
    | dsimp only
    | dsimp only [id]

theorem deliverAll (hP : Closed W P) {s : State} (i : Nat) (w1 : W (.stream i)) (w2 : W .pcie) (w3 : W (.queue 2))
    (w4 : W .station) (w5 : W .mbx) (w6 : ∀ x1', W (.sched x1')) (w7 : ∀ x1', W (.reg (CE x1' 12)))
    (w8 : ∀ x1', W (.reg (CE x1' 12 + 4))) (w9 : ∀ x1', W (.reg (CE x1' 20)))
    (w10 : ∀ x1' x2', W (.reg (CE_SLOT x1' x2'))) (w11 : ∀ x1', W (.reg (CE x1' 0))) (w12 : W (.reg (HUB_Q 2 16)))
    (w13 : W (.reg (HUB_Q 2 24))) (w14 : W (.reg (HUB_Q 2 20))) (w15 : W (.reg MB_NTF_NSEQ)) (h : P s) :
    P (State.deliverAll s i) := by
  unfold State.deliverAll
  repeat' first
    | with_reducible assumption
    | with_reducible exact w6 _
    | with_reducible exact w7 _
    | with_reducible exact w8 _
    | with_reducible exact w9 _
    | with_reducible exact w10 _ _
    | with_reducible exact w11 _
    | with_reducible apply Closed.each hP
    | with_reducible apply Closed.deliver hP
    | intro _
    | split
    | dsimp only
    | dsimp only [id]

theorem Change_keepBind (hP : Closed W P) (c : Change) {s : State} (i : Nat) (w1 : W (.stream i))
    (w2 : ∀ x1', W (.reg (CE x1' 12))) (w3 : ∀ x1', W (.reg (CE x1' 12 + 4))) (w4 : ∀ x1', W (.reg (CE x1' 20)))
    (h : P s) :
    P (Change.keepBind c s i) := by
  unfold Sys2Proof.Machine.Change.keepBind
  repeat' first
    | with_reducible assumption
    | with_reducible exact w2 _
    | with_reducible exact w3 _
    | with_reducible exact w4 _
    | with_reducible apply Closed.modStream hP
    | with_reducible apply Closed.endMember hP
    | intro _
    | split
    | dsimp only
    | dsimp only [id]

theorem completePart (hP : Closed W P) {s : State} (i : Nat) (w1 : W .pcie) (w2 : W (.stream i)) (w3 : W (.queue 2))
    (w4 : W .station) (w5 : W .mbx) (w6 : W (.reg (HUB_Q 2 16))) (w7 : W (.reg (HUB_Q 2 24)))
    (w8 : W (.reg (HUB_Q 2 20))) (w9 : W (.reg MB_NTF_NSEQ)) (h : P s) :
    P (State.completePart s i) := by
  unfold State.completePart
  repeat' first
    | with_reducible assumption
    | with_reducible apply Closed.completeBuffer hP
    | intro _
    | split
    | dsimp only
    | dsimp only [id]

theorem Change_endStreams (hP : Closed W P) (c : Change) {s : State} (w1 : ∀ x1', W (.sched x1'))
    (w2 : ∀ x1', W (.lane x1')) (w3 : ∀ x1', W (.queue (stakeQ x1'))) (w4 : ∀ x1', W (.stream x1')) (w5 : W .pcie)
    (w6 : W (.queue 2)) (w7 : W .station) (w8 : W .mbx) (w9 : ∀ x1', W (.reg (CE x1' 12)))
    (w10 : ∀ x1', W (.reg (CE x1' 12 + 4))) (w11 : ∀ x1', W (.reg (CE x1' 20)))
    (w12 : ∀ x1' x2', W (.reg (CE_SLOT x1' x2'))) (w13 : ∀ x1', W (.reg (CE x1' 0))) (w14 : W (.reg (HUB_Q 2 16)))
    (w15 : W (.reg (HUB_Q 2 24))) (w16 : W (.reg (HUB_Q 2 20))) (w17 : W (.reg MB_NTF_NSEQ)) (h : P s) :
    P (Change.endStreams c s) := by
  unfold Sys2Proof.Machine.Change.endStreams
  repeat' first
    | with_reducible assumption
    | with_reducible exact w1 _
    | with_reducible exact w2 _
    | with_reducible exact w3 _
    | with_reducible exact w4 _
    | with_reducible exact w9 _
    | with_reducible exact w10 _
    | with_reducible exact w11 _
    | with_reducible exact w12 _ _
    | with_reducible exact w13 _
    | with_reducible apply Closed.each hP
    | with_reducible apply Closed.deliverAll hP
    | with_reducible apply Closed.flushStream hP
    | with_reducible apply Closed.closeStream hP
    | with_reducible apply Closed.deliver hP
    | with_reducible apply Closed.writeMarks hP
    | with_reducible apply Closed.closeSegment hP
    | with_reducible apply Closed.Change_keepBind hP
    | with_reducible apply Closed.modStream hP
    | with_reducible apply Closed.completePart hP
    | intro _
    | split
    | dsimp only
    | dsimp only [id]

theorem goTo (hP : Closed W P) {s : State} (t : Nat) (w1 : W (.reg PWR_STATE)) (h : P s) :
    P (State.goTo s t) := by
  unfold State.goTo
  repeat' first
    | with_reducible assumption
    | with_reducible apply Closed.setRegF hP
    | with_reducible apply Closed.setRegBit hP
    | intro _
    | split
    | dsimp only
    | dsimp only [id]

theorem setPowerStateCmd (hP : Closed W P) (img : MbImage) {s : State} (w1 : W .drawn) (w2 : W (.reg PWR_STATE))
    (h : P s) :
    P ((setPowerStateCmd img s).1) := by
  unfold Sys2Proof.Machine.setPowerStateCmd
  repeat' first
    | with_reducible assumption
    | with_reducible apply Closed.draw hP
    | with_reducible apply Closed.refuse hP
    | with_reducible apply Closed.goTo hP
    | with_reducible apply Closed.done hP
    | intro _
    | split
    | dsimp only
    | dsimp only [id]

theorem diagDecompressCmd (hP : Closed W P) (m : Nat) (img : MbImage) {s : State} (w1 : W .pcie)
    (w2 : ∀ x1', W (.de x1')) (w3 : W .drawn) (w4 : ∀ x1', W (.sched x1')) (w5 : ∀ x1', W (.reg (DE x1' 40)))
    (w6 : ∀ x1', W (.reg (DE x1' 4))) (w7 : ∀ x1', W (.reg (DE x1' 4 + 4))) (w8 : ∀ x1', W (.reg (DE x1' 12)))
    (w9 : ∀ x1', W (.reg (DE x1' 20))) (w10 : ∀ x1', W (.reg (DE x1' 24))) (w11 : ∀ x1', W (.reg (DE x1' 28)))
    (w12 : ∀ x1', W (.reg (DE x1' 32))) (w13 : ∀ x1', W (.reg (DE x1' 36))) (h : P s) :
    P ((diagDecompressCmd m img s).1) := by
  unfold Sys2Proof.Machine.diagDecompressCmd
  repeat' first
    | with_reducible assumption
    | with_reducible exact w2 _
    | with_reducible exact w4 _
    | with_reducible exact w5 _
    | with_reducible exact w6 _
    | with_reducible exact w7 _
    | with_reducible exact w8 _
    | with_reducible exact w9 _
    | with_reducible exact w10 _
    | with_reducible exact w11 _
    | with_reducible exact w12 _
    | with_reducible exact w13 _
    | with_reducible apply Closed.diagRun hP
    | with_reducible apply Closed.dropData hP
    | intro _
    | split
    | dsimp only
    | dsimp only [id]

theorem endReset (hP : Closed W P) {s : State} (w1 : W .pcie) (w2 : W .ledger) (w3 : W (.reg PWR_STATE)) (h : P s) :
    P (State.endReset s) := by
  unfold State.endReset
  repeat' first
    | with_reducible assumption
    | with_reducible apply Closed.enterState hP
    | with_reducible apply hP.modPcie
    | intro _
    | split
    | dsimp only
    | dsimp only [id]

theorem dacReading (hP : Closed W P) {s : State} (n : Nat) (c : Comp) (mv : Int) (w1 : W .ledger) (w2 : W .weaver)
    (w3 : ∀ x1', W (.stake x1')) (w4 : W (.reg (LN_EVT n))) (w5 : ∀ x1', W (.reg (STK_SPARE x1')))
    (w6 : ∀ x1', W (.reg (LN_STATUS x1'))) (h : P s) :
    P (State.dacReading s n c mv) := by
  unfold State.dacReading
  repeat' first
    | with_reducible assumption
    | with_reducible exact w3 _
    | with_reducible exact w5 _
    | with_reducible exact w6 _
    | with_reducible apply Closed.setRegBit hP
    | with_reducible apply Closed.raiseFault hP
    | with_reducible apply Closed.modStake hP
    | with_reducible apply Closed.useSpare hP
    | intro _
    | split
    | dsimp only
    | dsimp only [id]

theorem abortCompareCmd (hP : Closed W P) (img : MbImage) {s : State} (w1 : W (.queue 1)) (w2 : W .station)
    (w3 : ∀ x1', W (.stream x1')) (w4 : ∀ x1', W (.sched x1')) (w5 : ∀ x1', W (.cmp x1'))
    (w6 : W (.reg (HUB_Q 1 16))) (w7 : W (.reg (HUB_Q 1 24))) (w8 : W (.reg (HUB_Q 1 20)))
    (w9 : ∀ x1', W (.reg (CU x1' 12))) (w10 : ∀ x1', W (.reg (CU x1' 28))) (w11 : ∀ x1', W (.reg (CU x1' 32)))
    (h : P s) :
    P ((abortCompareCmd img s).1) := by
  unfold Sys2Proof.Machine.abortCompareCmd
  repeat' first
    | with_reducible assumption
    | with_reducible exact w3 _
    | with_reducible exact w4 _
    | with_reducible exact w5 _
    | with_reducible exact w9 _
    | with_reducible exact w10 _
    | with_reducible exact w11 _
    | with_reducible apply Closed.done hP
    | with_reducible apply Closed.abortStep hP
    | intro _
    | split
    | dsimp only
    | dsimp only [id]

theorem closeAll (hP : Closed W P) {s : State} (w1 : ∀ x1', W (.sched x1')) (w2 : ∀ x1', W (.stream x1')) (h : P s) :
    P (State.closeAll s) := by
  unfold State.closeAll
  repeat' first
    | with_reducible assumption
    | with_reducible exact w1 _
    | with_reducible exact w2 _
    | with_reducible apply Closed.each hP
    | with_reducible apply Closed.closeSegment hP
    | intro _
    | split
    | dsimp only
    | dsimp only [id]

theorem armLosses (hP : Closed W P) {s : State} (w1 : ∀ x1', W (.cmp x1')) (w2 : ∀ x1', W (.ival x1'))
    (w3 : ∀ x1', W (.stream x1')) (w4 : ∀ x1', W (.sched x1')) (w5 : ∀ x1', W (.reg (CU x1' 36))) (h : P s) :
    P (State.armLosses s) := by
  unfold State.armLosses
  repeat' first
    | with_reducible assumption
    | with_reducible exact w1 _
    | with_reducible exact w2 _
    | with_reducible exact w3 _
    | with_reducible exact w4 _
    | with_reducible exact w5 _
    | with_reducible apply Closed.each hP
    | with_reducible apply Closed.cmpLossBegin hP
    | with_reducible apply Closed.srcLoss hP
    | with_reducible apply Closed.openLoss hP
    | with_reducible apply Closed.podUnitLoss hP
    | intro _
    | split
    | dsimp only
    | dsimp only [id]

theorem startSession (hP : Closed W P) {s : State} (w1 : W .time) (w2 : W .ledger) (w3 : W .trig)
    (w4 : ∀ x1', W (.sched x1')) (w5 : ∀ x1', W (.stream x1')) (w6 : ∀ x1', W (.lane x1'))
    (w7 : ∀ x1', W (.queue (stakeQ x1'))) (w8 : ∀ x1', W (.seq x1')) (w9 : ∀ x1', W (.box x1'))
    (w10 : ∀ x1', W (.hist x1')) (w11 : ∀ x1', W (.ival x1')) (w12 : ∀ x1', W (.cmp x1')) (w13 : W .weaver)
    (w14 : W (.reg PWR_STATE)) (w15 : W (.reg STN_SYNC)) (w16 : ∀ x1', W (.reg (SQ_STATUS x1')))
    (w17 : ∀ x1', W (.reg (SQ_DEAD_LO x1'))) (w18 : ∀ x1', W (.reg (SQ_DEAD_LO x1' + 4)))
    (w19 : ∀ x1', W (.reg (SQ_MISSED x1'))) (w20 : ∀ x1', W (.reg (SQ_FOLDED x1')))
    (w21 : ∀ x1' x2', W (.reg (SQ_CNT_LO x1' x2'))) (w22 : ∀ x1' x2', W (.reg (SQ_CNT_LO x1' x2' + 4)))
    (w23 : ∀ x1' x2', W (.reg (SQ_TMR_LO x1' x2'))) (w24 : ∀ x1' x2', W (.reg (SQ_TMR_HI x1' x2')))
    (w25 : ∀ x1' x2' x3', W (.reg (HU_RG x1' x2' x3'))) (w26 : ∀ x1' x2', W (.reg (IU x1' x2')))
    (w27 : ∀ x1', W (.reg (CU x1' 12))) (w28 : ∀ x1', W (.reg (CU x1' 36))) (h : P s) :
    P (State.startSession s) := by
  unfold State.startSession
  repeat' first
    | with_reducible assumption
    | with_reducible exact w4 _
    | with_reducible exact w5 _
    | with_reducible exact w6 _
    | with_reducible exact w7 _
    | with_reducible exact w8 _
    | with_reducible exact w9 _
    | with_reducible exact w10 _
    | with_reducible exact w11 _
    | with_reducible exact w12 _
    | with_reducible exact w16 _
    | with_reducible exact w17 _
    | with_reducible exact w18 _
    | with_reducible exact w19 _
    | with_reducible exact w20 _
    | with_reducible exact w21 _ _
    | with_reducible exact w22 _ _
    | with_reducible exact w23 _ _
    | with_reducible exact w24 _ _
    | with_reducible exact w25 _ _ _
    | with_reducible exact w26 _ _
    | with_reducible exact w27 _
    | with_reducible exact w28 _
    | with_reducible apply Closed.each hP
    | with_reducible apply Closed.enterState hP
    | with_reducible apply Closed.setRegBit hP
    | with_reducible apply Closed.closeAll hP
    | with_reducible apply Closed.modStream hP
    | with_reducible apply Closed.writeDigests hP
    | with_reducible apply Closed.armLane hP
    | with_reducible apply Closed.startTerm hP
    | with_reducible apply Closed.modSeq hP
    | with_reducible apply Closed.startSequencer hP
    | with_reducible apply Closed.histStart hP
    | with_reducible apply Closed.ivStart hP
    | with_reducible apply Closed.armCompare hP
    | with_reducible apply Closed.setRegF hP
    | with_reducible apply Closed.armLosses hP
    | with_reducible apply hP.modTrig
    | with_reducible apply hP.modTime
    | with_reducible apply hP.modWeaver
    | intro _
    | split
    | dsimp only
    | dsimp only [id]

theorem loadEpoch (hP : Closed W P) {s : State} (value : DWord) (w1 : W .time) (w2 : ∀ x1', W (.port x1'))
    (w3 : ∀ x1', W (.tout x1')) (h : P s) :
    P (State.loadEpoch s value) := by
  unfold State.loadEpoch
  repeat' first
    | with_reducible assumption
    | with_reducible exact w2 _
    | with_reducible exact w3 _
    | with_reducible apply Closed.each hP
    | with_reducible apply Closed.modPort hP
    | with_reducible apply Closed.modTout hP
    | with_reducible apply hP.modTime
    | intro _
    | split
    | dsimp only
    | dsimp only [id]

theorem armCmd (hP : Closed W P) (x0 : MbImage) {s : State} (w1 : ∀ x1', W (.sched x1'))
    (w2 : ∀ x1', W (.stream x1')) (w3 : W .time) (w4 : ∀ x1', W (.port x1')) (w5 : ∀ x1', W (.tout x1'))
    (w6 : W .ledger) (w7 : W .trig) (w8 : ∀ x1', W (.lane x1')) (w9 : ∀ x1', W (.queue (stakeQ x1')))
    (w10 : ∀ x1', W (.seq x1')) (w11 : ∀ x1', W (.box x1')) (w12 : ∀ x1', W (.hist x1'))
    (w13 : ∀ x1', W (.ival x1')) (w14 : ∀ x1', W (.cmp x1')) (w15 : W .weaver) (w16 : W (.reg PWR_STATE))
    (w17 : W (.reg STN_SYNC)) (w18 : ∀ x1', W (.reg (SQ_STATUS x1'))) (w19 : ∀ x1', W (.reg (SQ_DEAD_LO x1')))
    (w20 : ∀ x1', W (.reg (SQ_DEAD_LO x1' + 4))) (w21 : ∀ x1', W (.reg (SQ_MISSED x1')))
    (w22 : ∀ x1', W (.reg (SQ_FOLDED x1'))) (w23 : ∀ x1' x2', W (.reg (SQ_CNT_LO x1' x2')))
    (w24 : ∀ x1' x2', W (.reg (SQ_CNT_LO x1' x2' + 4))) (w25 : ∀ x1' x2', W (.reg (SQ_TMR_LO x1' x2')))
    (w26 : ∀ x1' x2', W (.reg (SQ_TMR_HI x1' x2'))) (w27 : ∀ x1' x2' x3', W (.reg (HU_RG x1' x2' x3')))
    (w28 : ∀ x1' x2', W (.reg (IU x1' x2'))) (w29 : ∀ x1', W (.reg (CU x1' 12))) (w30 : ∀ x1', W (.reg (CU x1' 36)))
    (h : P s) :
    P ((armCmd x0 s).1) := by
  unfold Sys2Proof.Machine.armCmd
  repeat' first
    | with_reducible assumption
    | with_reducible exact w1 _
    | with_reducible exact w2 _
    | with_reducible exact w4 _
    | with_reducible exact w5 _
    | with_reducible exact w8 _
    | with_reducible exact w9 _
    | with_reducible exact w10 _
    | with_reducible exact w11 _
    | with_reducible exact w12 _
    | with_reducible exact w13 _
    | with_reducible exact w14 _
    | with_reducible exact w18 _
    | with_reducible exact w19 _
    | with_reducible exact w20 _
    | with_reducible exact w21 _
    | with_reducible exact w22 _
    | with_reducible exact w23 _ _
    | with_reducible exact w24 _ _
    | with_reducible exact w25 _ _
    | with_reducible exact w26 _ _
    | with_reducible exact w27 _ _ _
    | with_reducible exact w28 _ _
    | with_reducible exact w29 _
    | with_reducible exact w30 _
    | with_reducible apply Closed.startSession hP
    | with_reducible apply Closed.loadEpoch hP
    | with_reducible apply Closed.closeAll hP
    | with_reducible apply Closed.done hP
    | intro _
    | split
    | dsimp only
    | dsimp only [id]

theorem configRead (hP : Closed W P) {s : State} (a : Nat) (w1 : W .out) (w2 : W .drawn) (h : P s) :
    P (State.configRead s a) := by
  unfold State.configRead
  repeat' first
    | with_reducible assumption
    | with_reducible apply Closed.draw hP
    | with_reducible apply Closed.putRead hP
    | with_reducible apply hP.modOut
    | intro _
    | split
    | dsimp only
    | dsimp only [id]

theorem timeNoteCmd (hP : Closed W P) (img : MbImage) {s : State} (w1 : W .ledger) (w2 : W .drawn)
    (w3 : W (.queue 3)) (w4 : W .station) (w5 : W (.queue 2)) (w6 : W .mbx) (w7 : W (.reg LG_REFUSED))
    (w8 : W (.reg LG_STATUS)) (w9 : W (.reg LG_NEXT_SEQ_LO)) (w10 : W (.reg (LG_NEXT_SEQ_LO + 4)))
    (w11 : W (.reg (HUB_Q 3 16))) (w12 : W (.reg (HUB_Q 3 24))) (w13 : W (.reg (HUB_Q 3 20)))
    (w14 : W (.reg (HUB_Q 2 16))) (w15 : W (.reg (HUB_Q 2 24))) (w16 : W (.reg (HUB_Q 2 20)))
    (w17 : W (.reg MB_NTF_NSEQ)) (h : P s) :
    P ((timeNoteCmd img s).1) := by
  unfold Sys2Proof.Machine.timeNoteCmd
  repeat' first
    | with_reducible assumption
    | with_reducible apply Closed.createAll hP
    | with_reducible apply Closed.createRecord hP
    | with_reducible apply Closed.refuse hP
    | with_reducible apply Closed.done hP
    | with_reducible apply Closed.storeMeta hP
    | with_reducible apply hP.modLedger
    | intro _
    | split
    | dsimp only
    | dsimp only [id]

theorem powerFail (hP : Closed W P) {s : State} (unit : Word) (w1 : W .ledger) (w2 : W .drawn) (w3 : W (.queue 3))
    (w4 : W .station) (w5 : W (.queue 2)) (w6 : W .mbx) (w7 : W .weaver) (w8 : W (.reg LG_REFUSED))
    (w9 : W (.reg LG_STATUS)) (w10 : W (.reg LG_NEXT_SEQ_LO)) (w11 : W (.reg (LG_NEXT_SEQ_LO + 4)))
    (w12 : W (.reg (HUB_Q 3 16))) (w13 : W (.reg (HUB_Q 3 24))) (w14 : W (.reg (HUB_Q 3 20)))
    (w15 : W (.reg (HUB_Q 2 16))) (w16 : W (.reg (HUB_Q 2 24))) (w17 : W (.reg (HUB_Q 2 20)))
    (w18 : W (.reg MB_NTF_NSEQ)) (w19 : W (.reg LG_FLUSHES)) (w20 : W (.reg LG_VERIFY_FAIL)) (h : P s) :
    P (State.powerFail s unit) := by
  unfold State.powerFail
  repeat' first
    | with_reducible assumption
    | with_reducible apply Closed.flushLedger hP
    | with_reducible apply Closed.createRecord hP
    | with_reducible apply Closed.commitSeconds hP
    | intro _
    | split
    | dsimp only
    | dsimp only [id]

theorem notifyRingCmd (hP : Closed W P) (img : MbImage) {s : State} (w1 : W .mbx) (w2 : W (.reg MB_NTF_CFG))
    (w3 : W (.reg MB_NTF_TAIL)) (w4 : W (.reg MB_NTF_HEAD)) (h : P s) :
    P ((notifyRingCmd img s).1) := by
  unfold Sys2Proof.Machine.notifyRingCmd
  repeat' first
    | with_reducible assumption
    | with_reducible apply Closed.done hP
    | with_reducible apply Closed.unbindRing hP
    | with_reducible apply Closed.setRegF hP
    | with_reducible apply hP.setReg
    | with_reducible apply hP.modMbx
    | intro _
    | split
    | dsimp only
    | dsimp only [id]
    | rfl

theorem consume (hP : Closed W P) {s : State} (q : QRef) (f : QKind → QueueDyn → QueueDyn)
    (g : StreamDyn → StreamDyn) (w1 : ∀ x1', W (.stream x1')) (w2 : ∀ x1', W (.queue x1'))
    (w3 : ∀ x1', W (.sched x1')) (h : P s) :
    P (State.consume s q f g) := by
  unfold State.consume
  repeat' first
    | with_reducible assumption
    | with_reducible exact w1 _
    | with_reducible exact w2 _
    | with_reducible exact w3 _
    | with_reducible apply Closed.each hP
    | with_reducible apply Closed.modStream hP
    | with_reducible apply Closed.modQueue hP
    | with_reducible apply Closed.stakeWord hP
    | intro _
    | split
    | dsimp only
    | dsimp only [id]

theorem corrected (hP : Closed W P) {s : State} (ch : Nat) (off : BitVec 33) (w1 : W (.chan ch))
    (w2 : W (.reg (MC_CE_COUNT ch))) (h : P s) :
    P (State.corrected s ch off) := by
  unfold State.corrected
  repeat' first
    | with_reducible assumption
    | with_reducible apply Closed.modChan hP
    | with_reducible apply Closed.incReg hP
    | intro _
    | split
    | dsimp only
    | dsimp only [id]

theorem wakeFirmware (hP : Closed W P) {s : State} (w1 : W .drawn) (w2 : W .fw) (w3 : ∀ x1', W (.chan x1'))
    (w4 : ∀ x1', W (.reg (MC_STATUS x1'))) (w5 : ∀ x1' x2', W (.reg (MC_TRN_DELAY x1' x2')))
    (w6 : ∀ x1', W (.reg (MC_TRAIN_TEMP x1'))) (h : P s) :
    P (State.wakeFirmware s) := by
  unfold State.wakeFirmware
  repeat' first
    | with_reducible assumption
    | with_reducible exact w3 _
    | with_reducible exact w4 _
    | with_reducible exact w5 _ _
    | with_reducible exact w6 _
    | with_reducible apply Closed.each hP
    | with_reducible apply Closed.wakeChannel hP
    | intro _
    | split
    | dsimp only
    | dsimp only [id]

theorem considerEvacuation (hP : Closed W P) {s : State} (ch : Nat) (w1 : W .weaver) (w2 : W .drawn) (w3 : W .fw)
    (w4 : ∀ x1', W (.chan x1')) (w5 : W (.queue 2)) (w6 : W .station) (w7 : W .mbx)
    (w8 : ∀ x1', W (.reg (MC_STATUS x1'))) (w9 : ∀ x1' x2', W (.reg (MC_TRN_DELAY x1' x2')))
    (w10 : ∀ x1', W (.reg (MC_TRAIN_TEMP x1'))) (w11 : W (.reg (HUB_Q 2 16))) (w12 : W (.reg (HUB_Q 2 24)))
    (w13 : W (.reg (HUB_Q 2 20))) (w14 : W (.reg MB_NTF_NSEQ)) (h : P s) :
    P (State.considerEvacuation s ch) := by
  unfold State.considerEvacuation
  repeat' first
    | with_reducible assumption
    | with_reducible exact w4 _
    | with_reducible exact w8 _
    | with_reducible exact w9 _ _
    | with_reducible exact w10 _
    | with_reducible apply Closed.wakeFirmware hP
    | with_reducible apply Closed.dueReplacement hP
    | with_reducible apply Closed.modChan hP
    | with_reducible apply Closed.setRegBit hP
    | with_reducible apply Closed.setMcState hP
    | with_reducible apply Closed.notice hP
    | intro _
    | split
    | dsimp only
    | dsimp only [id]

theorem encodeEdge (hP : Closed W P) {s : State} (n : Nat) (c : Comp) (rise : Bool) (stamped : Bool) (coarse : Bool)
    (t : Time) (w1 : W (.lane n)) (w2 : ∀ x1', W (.queue (stakeQ x1'))) (w3 : ∀ x1', W (.stream x1'))
    (w4 : ∀ x1', W (.sched x1')) (h : P s) :
    P (State.encodeEdge s n c rise stamped coarse t) := by
  unfold State.encodeEdge
  repeat' first
    | with_reducible assumption
    | with_reducible exact w2 _
    | with_reducible exact w3 _
    | with_reducible exact w4 _
    | with_reducible apply Closed.modComp hP
    | with_reducible apply Closed.laneRec hP
    | intro _
    | split
    | dsimp only
    | dsimp only [id]

theorem recordEdge (hP : Closed W P) {s : State} (n : Nat) (c : Comp) (rise : Bool) (t : Time) (f : EvFlags)
    (w1 : ∀ x1', W (.queue (stakeQ x1'))) (w2 : ∀ x1', W (.stream x1')) (w3 : ∀ x1', W (.sched x1'))
    (w4 : ∀ x1', W (.lane x1')) (h : P s) :
    P (State.recordEdge s n c rise t f) := by
  unfold State.recordEdge
  repeat' first
    | with_reducible assumption
    | with_reducible exact w1 _
    | with_reducible exact w2 _
    | with_reducible exact w3 _
    | with_reducible exact w4 _
    | with_reducible apply Closed.each hP
    | with_reducible apply Closed.when hP
    | with_reducible apply Closed.encodeEdge hP
    | with_reducible apply Closed.stateClock hP
    | intro _
    | split
    | dsimp only
    | dsimp only [id]

theorem mapWindowCmd (hP : Closed W P) (m : Nat) (img : MbImage) {s : State} (w1 : W .pcie) (h : P s) :
    P ((mapWindowCmd m img s).1) := by
  unfold Sys2Proof.Machine.mapWindowCmd
  repeat' first
    | with_reducible assumption
    | with_reducible apply hP.modPcie
    | intro _
    | split
    | dsimp only
    | dsimp only [id]

theorem consumeOp (hP : Closed W P) {s : State} (q : QRef) (op : ConsumerOp) (w1 : ∀ x1', W (.stream x1'))
    (w2 : ∀ x1', W (.queue x1')) (w3 : ∀ x1', W (.sched x1')) (h : P s) :
    P (State.consumeOp s q op) := by
  unfold State.consumeOp
  repeat' first
    | with_reducible assumption
    | with_reducible exact w1 _
    | with_reducible exact w2 _
    | with_reducible exact w3 _
    | with_reducible apply Closed.consume hP
    | intro _
    | split
    | dsimp only
    | dsimp only [id]

theorem endColumn (hP : Closed W P) {s : State} (hu : Nat) (r : Nat) (x : Sweep) (parity : List (Fin 144))
    (w1 : W (.hist hu)) (w2 : W (.reg (HU_PARITY hu))) (w3 : ∀ x1', W (.reg (HU_RG hu r x1'))) (h : P s) :
    P (State.endColumn s hu r x parity) := by
  unfold State.endColumn
  repeat' first
    | with_reducible assumption
    | with_reducible exact w3 _
    | with_reducible apply Closed.each hP
    | with_reducible apply Closed.binAt hP
    | with_reducible apply Closed.modRegion hP
    | with_reducible apply Closed.rgCount hP
    | intro _
    | split
    | dsimp only
    | dsimp only [id]

theorem defineSequenceTermsCmd (hP : Closed W P) (img : MbImage) {s : State} (w1 : W .weaver) (h : P s) :
    P ((defineSequenceTermsCmd img s).1) := by
  unfold Sys2Proof.Machine.defineSequenceTermsCmd
  repeat' first
    | with_reducible assumption
    | with_reducible apply Closed.checked hP
    | with_reducible apply Closed.done hP
    | with_reducible apply Closed.stageDef hP
    | intro _
    | split
    | dsimp only
    | dsimp only [id]

theorem fwCancelCmd (hP : Closed W P) (x0 : MbImage) {s : State} (w1 : W .power) (h : P s) :
    P ((fwCancelCmd x0 s).1) := by
  unfold Sys2Proof.Machine.fwCancelCmd
  repeat' first
    | with_reducible assumption
    | with_reducible apply Closed.done hP
    | with_reducible apply Closed.modFw hP
    | intro _
    | split
    | dsimp only
    | dsimp only [id]

theorem sendReads (hP : Closed W P) {s : State} (w1 : W .pcie) (h : P s) :
    P (State.sendReads s) := by
  unfold State.sendReads
  repeat' first
    | with_reducible assumption
    | with_reducible apply hP.modPcie
    | intro _
    | split
    | dsimp only
    | dsimp only [id]

theorem issueRead (hP : Closed W P) {s : State} (owner : ReadOwner) (addr : Nat) (len : Nat) (w1 : W .pcie)
    (h : P s) :
    P (State.issueRead s owner addr len) := by
  unfold State.issueRead
  repeat' first
    | with_reducible assumption
    | with_reducible apply Closed.sendReads hP
    | with_reducible apply hP.modPcie
    | intro _
    | split
    | dsimp only
    | dsimp only [id]

theorem startCommand (hP : Closed W P) {s : State} (m : Nat) (w1 : W .drawn) (w2 : W (.box m)) (w3 : W .pcie)
    (w4 : W .dram) (w5 : ∀ x1', W (.ref x1')) (h : P s) :
    P (State.startCommand s m) := by
  unfold State.startCommand
  repeat' first
    | with_reducible assumption
    | with_reducible exact w5 _
    | with_reducible apply Closed.draw hP
    | with_reducible apply Closed.modBox hP
    | with_reducible apply Closed.respond hP
    | with_reducible apply Closed.issueRead hP
    | with_reducible apply Closed.failCommand hP
    | intro _
    | split
    | dsimp only
    | dsimp only [id]

theorem startNext (hP : Closed W P) {s : State} (w1 : W .drawn) (w2 : ∀ x1', W (.box x1')) (w3 : W .pcie)
    (w4 : W .dram) (w5 : ∀ x1', W (.ref x1')) (h : P s) :
    P (State.startNext s) := by
  unfold State.startNext
  repeat' first
    | with_reducible assumption
    | with_reducible exact w2 _
    | with_reducible exact w5 _
    | with_reducible apply Closed.startCommand hP
    | intro _
    | split
    | dsimp only
    | dsimp only [id]

theorem Change_endUnits (hP : Closed W P) (c : Change) {s : State} (w1 : ∀ x1', W (.seq x1'))
    (w2 : ∀ x1', W (.stream x1')) (w3 : ∀ x1', W (.ival x1')) (w4 : ∀ x1', W (.tout x1')) (w5 : ∀ x1', W (.cmp x1'))
    (w6 : W .weaver) (w7 : W (.queue 1)) (w8 : W .station) (w9 : ∀ x1', W (.sched x1')) (w10 : ∀ x1', W (.hist x1'))
    (w11 : W .drawn) (w12 : W .ledger) (w13 : ∀ x1', W (.box x1')) (w14 : ∀ a, W (.reg a)) (h : P s) :
    P (Change.endUnits c s) := by
  unfold Sys2Proof.Machine.Change.endUnits
  repeat' first
    | with_reducible assumption
    | with_reducible exact w1 _
    | with_reducible exact w2 _
    | with_reducible exact w3 _
    | with_reducible exact w4 _
    | with_reducible exact w5 _
    | with_reducible exact w9 _
    | with_reducible exact w10 _
    | with_reducible exact w13 _
    | with_reducible exact w14 _
    | with_reducible apply Closed.each hP
    | with_reducible apply Closed.Change_endSeqs hP
    | with_reducible apply Closed.ivStop hP
    | with_reducible apply Closed.histEnd hP
    | with_reducible apply Closed.abortStep hP
    | intro _
    | split
    | dsimp only
    | dsimp only [id]

theorem Change_endLosses (hP : Closed W P) (c : Change) {s : State} (w1 : ∀ x1', W (.port x1'))
    (w2 : ∀ x1', W (.stream x1')) (w3 : ∀ x1', W (.sched x1')) (w4 : W .weaver) (h : P s) :
    P (Change.endLosses c s) := by
  unfold Sys2Proof.Machine.Change.endLosses
  repeat' first
    | with_reducible assumption
    | with_reducible exact w1 _
    | with_reducible exact w2 _
    | with_reducible exact w3 _
    | with_reducible apply Closed.each hP
    | with_reducible apply Closed.Change_endPods hP
    | with_reducible apply Closed.closeLosses hP
    | with_reducible apply Closed.closeLoss hP
    | with_reducible apply Closed.modStream hP
    | with_reducible apply hP.modWeaver
    | intro _
    | split
    | dsimp only
    | dsimp only [id]

theorem startEpoch (hP : Closed W P) {s : State} (new : Intent) (pl : Placement) (health : List Byte)
    (w1 : ∀ x1', W (.lane x1')) (w2 : ∀ x1', W (.queue (stakeQ x1'))) (w3 : ∀ x1', W (.stream x1'))
    (w4 : ∀ x1', W (.sched x1')) (w5 : ∀ x1', W (.seq x1')) (w6 : ∀ x1', W (.ival x1')) (w7 : ∀ x1', W (.tout x1'))
    (w8 : ∀ x1', W (.cmp x1')) (w9 : W .weaver) (w10 : W (.queue 1)) (w11 : W .station) (w12 : ∀ x1', W (.hist x1'))
    (w13 : W .drawn) (w14 : W .ledger) (w15 : ∀ x1', W (.box x1')) (w16 : W .pcie) (w17 : W (.queue 2))
    (w18 : W .mbx) (w19 : ∀ x1', W (.port x1')) (w20 : W .fw) (w21 : ∀ x1', W (.de x1'))
    (w22 : ∀ x1', W (.chan x1')) (w23 : W .trig) (w24 : W .dram) (w25 : ∀ x1', W (.ref x1'))
    (w26 : ∀ x1', W (.image x1')) (w27 : W .time) (w28 : ∀ a, W (.reg a)) (h : P s) :
    P (State.startEpoch s new pl health) := by
  unfold State.startEpoch
  repeat' first
    | with_reducible assumption
    | with_reducible exact w1 _
    | with_reducible exact w2 _
    | with_reducible exact w3 _
    | with_reducible exact w4 _
    | with_reducible exact w5 _
    | with_reducible exact w6 _
    | with_reducible exact w7 _
    | with_reducible exact w8 _
    | with_reducible exact w12 _
    | with_reducible exact w15 _
    | with_reducible exact w19 _
    | with_reducible exact w21 _
    | with_reducible exact w22 _
    | with_reducible exact w25 _
    | with_reducible exact w26 _
    | with_reducible exact w28 _
    | with_reducible apply Closed.each hP
    | with_reducible apply Closed.moveRefs hP
    | with_reducible apply Closed.Change_endLane hP
    | with_reducible apply Closed.Change_endUnits hP
    | with_reducible apply Closed.Change_endStreams hP
    | with_reducible apply Closed.Change_endLosses hP
    | with_reducible apply Closed.closeSegment hP
    | with_reducible apply Closed.writeTout hP
    | with_reducible apply Closed.writeConfig hP
    | with_reducible apply Closed.writePlaceRo hP
    | with_reducible apply Closed.Change_moveContexts hP
    | with_reducible apply Closed.wakePlaced hP
    | with_reducible apply Closed.Change_startStreams hP
    | with_reducible apply Closed.Change_startLane hP
    | with_reducible apply Closed.Change_startUnits hP
    | with_reducible apply Closed.Change_startTerms hP
    | with_reducible apply Closed.startPods hP
    | with_reducible apply Closed.putDigest hP
    | with_reducible apply Closed.destroyPending hP
    | with_reducible apply Closed.setRegBit hP
    | with_reducible apply Closed.moveRefs hP
    | with_reducible apply Closed.writeDigests hP
    | with_reducible apply hP.setReg
    | with_reducible apply hP.modTime
    | with_reducible apply hP.modWeaver
    | intro _
    | split
    | dsimp only
    | dsimp only [id]

theorem commitCmd (hP : Closed W P) (img : MbImage) {s : State} (w1 : W .drawn) (w2 : W .weaver)
    (w3 : ∀ x1', W (.lane x1')) (w4 : ∀ x1', W (.queue (stakeQ x1'))) (w5 : ∀ x1', W (.stream x1'))
    (w6 : ∀ x1', W (.sched x1')) (w7 : ∀ x1', W (.seq x1')) (w8 : ∀ x1', W (.ival x1')) (w9 : ∀ x1', W (.tout x1'))
    (w10 : ∀ x1', W (.cmp x1')) (w11 : W (.queue 1)) (w12 : W .station) (w13 : ∀ x1', W (.hist x1'))
    (w14 : W .ledger) (w15 : ∀ x1', W (.box x1')) (w16 : W .pcie) (w17 : W (.queue 2)) (w18 : W .mbx)
    (w19 : ∀ x1', W (.port x1')) (w20 : W .fw) (w21 : ∀ x1', W (.de x1')) (w22 : ∀ x1', W (.chan x1'))
    (w23 : W .trig) (w24 : W .dram) (w25 : ∀ x1', W (.ref x1')) (w26 : ∀ x1', W (.image x1')) (w27 : W .time)
    (w28 : ∀ a, W (.reg a)) (h : P s) :
    P ((commitCmd img s).1) := by
  unfold Sys2Proof.Machine.commitCmd
  repeat' first
    | with_reducible assumption
    | with_reducible exact w3 _
    | with_reducible exact w4 _
    | with_reducible exact w5 _
    | with_reducible exact w6 _
    | with_reducible exact w7 _
    | with_reducible exact w8 _
    | with_reducible exact w9 _
    | with_reducible exact w10 _
    | with_reducible exact w13 _
    | with_reducible exact w15 _
    | with_reducible exact w19 _
    | with_reducible exact w21 _
    | with_reducible exact w22 _
    | with_reducible exact w25 _
    | with_reducible exact w26 _
    | with_reducible exact w28 _
    | with_reducible apply Closed.draw hP
    | with_reducible apply Closed.refuse hP
    | with_reducible apply Closed.startEpoch hP
    | with_reducible apply Closed.done hP
    | with_reducible apply hP.modWeaver
    | intro _
    | split
    | dsimp only
    | dsimp only [id]

theorem lapseLock (hP : Closed W P) {s : State} (w1 : W .station) (w2 : W .weaver) (w3 : W (.queue 2)) (w4 : W .mbx)
    (w5 : W .ledger) (w6 : ∀ a, W (.reg a)) (h : P s) :
    P (State.lapseLock s) := by
  unfold State.lapseLock
  repeat' first
    | with_reducible assumption
    | with_reducible exact w6 _
    | with_reducible apply Closed.notice hP
    | with_reducible apply Closed.lockFile hP
    | intro _
    | split
    | dsimp only
    | dsimp only [id]

theorem endCycle (hP : Closed W P) {s : State} (q : QRef) (w1 : W .station) (w2 : ∀ x1', W (.reg (HUB_Q x1' 20)))
    (h : P s) :
    P (State.endCycle s q) := by
  unfold State.endCycle
  repeat' first
    | with_reducible assumption
    | with_reducible exact w2 _
    | with_reducible apply Closed.followWater hP
    | intro _
    | split
    | dsimp only
    | dsimp only [id]

theorem getStatusCmd (hP : Closed W P) (img : MbImage) {s : State} (w1 : W .station) (w2 : W .mbx) (h : P s) :
    P ((getStatusCmd img s).1) := by
  unfold Sys2Proof.Machine.getStatusCmd
  repeat' first
    | with_reducible assumption
    | with_reducible apply Closed.done hP
    | with_reducible apply Closed.ackAlert hP
    | with_reducible apply hP.modMbx
    | intro _
    | split
    | dsimp only
    | dsimp only [id]
    | rfl

theorem readReg (hP : Closed W P) {s : State} (a : Nat) (w1 : W .drawn) (w2 : ∀ x1', W (.ce x1'))
    (w3 : ∀ x1', W (.de x1')) (w4 : ∀ x1', W (.ival x1')) (w5 : W (.reg a)) (h : P s) :
    P ((State.readReg s a).2) := by
  unfold State.readReg
  repeat' first
    | with_reducible assumption
    | with_reducible exact w2 _
    | with_reducible exact w3 _
    | with_reducible exact w4 _
    | with_reducible apply Closed.draw hP
    | with_reducible apply Closed.latch hP
    | with_reducible apply hP.setReg
    | intro _
    | split
    | dsimp only
    | dsimp only [id]

theorem bar2Poison (hP : Closed W P) {s : State} (len : Nat) (w1 : W .drawn) (w2 : W .pcie) (w3 : W .out)
    (w4 : W (.reg PCI_BAR2_POISON)) (h : P s) :
    P (State.bar2Poison s len) := by
  unfold State.bar2Poison
  repeat' first
    | with_reducible assumption
    | with_reducible apply Closed.aerError hP
    | with_reducible apply Closed.incReg hP
    | with_reducible apply Closed.putRead hP
    | with_reducible apply hP.modOut
    | intro _
    | split
    | dsimp only
    | dsimp only [id]

theorem podBudget (hP : Closed W P) {s : State} (p : Nat) (q : Nat) (words : Nat) (w1 : ∀ x1', W (.stream x1'))
    (w2 : ∀ x1', W (.sched x1')) (w3 : ∀ x1', W (.ival x1')) (w4 : ∀ x1', W (.cmp x1'))
    (w5 : W (.reg (PP_LOST_BUDGET p))) (w6 : ∀ x1', W (.reg (CU x1' 36))) (h : P s) :
    P (State.podBudget s p q words) := by
  unfold State.podBudget
  repeat' first
    | with_reducible assumption
    | with_reducible exact w1 _
    | with_reducible exact w2 _
    | with_reducible exact w3 _
    | with_reducible exact w4 _
    | with_reducible exact w6 _
    | with_reducible apply Closed.addReg hP
    | with_reducible apply Closed.wholeLoss hP
    | with_reducible apply Closed.podUnitSpan hP
    | intro _
    | split
    | dsimp only
    | dsimp only [id]

theorem discardContexts (hP : Closed W P) {s : State} (w1 : ∀ x1', W (.hist x1')) (w2 : ∀ x1', W (.image x1'))
    (w3 : ∀ x1', W (.ce x1')) (w4 : ∀ x1', W (.stream x1')) (w5 : ∀ x1', W (.de x1'))
    (w6 : ∀ x1' x2', W (.reg (CE_SLOT x1' x2'))) (w7 : ∀ x1', W (.reg (CE x1' 0))) (h : P s) :
    P (State.discardContexts s) := by
  unfold State.discardContexts
  repeat' first
    | with_reducible assumption
    | with_reducible exact w1 _
    | with_reducible exact w2 _
    | with_reducible exact w3 _
    | with_reducible exact w4 _
    | with_reducible exact w5 _
    | with_reducible exact w6 _ _
    | with_reducible exact w7 _
    | with_reducible apply Closed.each hP
    | with_reducible apply Closed.setRegion hP
    | with_reducible apply Closed.modHist hP
    | with_reducible apply Closed.modImage hP
    | with_reducible apply Closed.countSlots hP
    | with_reducible apply Closed.modStream hP
    | with_reducible apply hP.setReg
    | with_reducible apply hP.setCe
    | with_reducible apply hP.setDe
    | intro _
    | split
    | dsimp only
    | dsimp only [id]

theorem standbyEntry (hP : Closed W P) {s : State} (w1 : W .station) (w2 : W .weaver) (w3 : W (.queue 2))
    (w4 : W .mbx) (w5 : W .ledger) (w6 : W (.queue 3)) (w7 : ∀ x1', W (.hist x1')) (w8 : ∀ x1', W (.image x1'))
    (w9 : ∀ x1', W (.ce x1')) (w10 : ∀ x1', W (.stream x1')) (w11 : ∀ x1', W (.de x1')) (w12 : W .drawn)
    (w13 : W .dram) (w14 : ∀ x1', W (.chan x1')) (w15 : ∀ x1', W (.port x1')) (w16 : ∀ x1', W (.lane x1'))
    (w17 : ∀ a, W (.reg a)) (h : P s) :
    P (State.standbyEntry s) := by
  unfold State.standbyEntry
  repeat' first
    | with_reducible assumption
    | with_reducible exact w7 _
    | with_reducible exact w8 _
    | with_reducible exact w9 _
    | with_reducible exact w10 _
    | with_reducible exact w11 _
    | with_reducible exact w14 _
    | with_reducible exact w15 _
    | with_reducible exact w16 _
    | with_reducible exact w17 _
    | with_reducible apply Closed.each hP
    | with_reducible apply Closed.flushLedger hP
    | with_reducible apply Closed.lapseLock hP
    | with_reducible apply Closed.discardContexts hP
    | with_reducible apply Closed.retainChannel hP
    | with_reducible apply Closed.enterState hP
    | with_reducible apply Closed.captureOff hP
    | intro _
    | split
    | dsimp only
    | dsimp only [id]

theorem bar2Invalid (hP : Closed W P) {s : State} (off : BitVec 36) (read : Bool) (w1 : W .drawn) (w2 : W .pcie)
    (w3 : W (.reg PCI_BAR2_UR)) (w4 : W (.reg PCI_BAR2_UR_ADDR_LO)) (w5 : W (.reg PCI_BAR2_UR_ADDR_HI)) (h : P s) :
    P (State.bar2Invalid s off read) := by
  unfold State.bar2Invalid
  repeat' first
    | with_reducible assumption
    | with_reducible apply Closed.aerError hP
    | with_reducible apply Closed.incReg hP
    | with_reducible apply hP.setReg
    | intro _
    | split
    | dsimp only
    | dsimp only [id]

theorem bar2Bytes (hP : Closed W P) {s : State} (ma : Nat) (len : Nat) (w1 : W .drawn) (h : P s) :
    P ((State.bar2Bytes s ma len).2) := by
  unfold State.bar2Bytes
  repeat' first
    | with_reducible assumption
    | with_reducible apply Closed.draw hP
    | intro _
    | split
    | dsimp only
    | dsimp only [id]

theorem bar2Read (hP : Closed W P) {s : State} (off : BitVec 36) (len : Nat) (ask : ReadAsk) (w1 : W .out)
    (w2 : W .drawn) (w3 : W .pcie) (w4 : W .ledger) (w5 : W .weaver) (w6 : ∀ x1', W (.stream x1'))
    (w7 : ∀ x1', W (.de x1')) (w8 : ∀ x1', W (.ref x1')) (w9 : W (.queue 2)) (w10 : W .station) (w11 : W .mbx)
    (w12 : W (.queue 1)) (w13 : ∀ x1', W (.sched x1')) (w14 : ∀ x1', W (.cmp x1')) (w15 : W .dram)
    (w16 : ∀ x1', W (.image x1')) (w17 : ∀ x1', W (.hist x1')) (w18 : ∀ a, W (.reg a)) (h : P s) :
    P (State.bar2Read s off len ask) := by
  unfold State.bar2Read
  repeat' first
    | with_reducible assumption
    | with_reducible exact w6 _
    | with_reducible exact w7 _
    | with_reducible exact w8 _
    | with_reducible exact w13 _
    | with_reducible exact w14 _
    | with_reducible exact w16 _
    | with_reducible exact w17 _
    | with_reducible exact w18 _
    | with_reducible apply Closed.draw hP
    | with_reducible apply Closed.readAttr hP
    | with_reducible apply Closed.putRead hP
    | with_reducible apply Closed.aerError hP
    | with_reducible apply Closed.bar2Invalid hP
    | with_reducible apply Closed.bar2Poison hP
    | with_reducible apply Closed.freezeChannel hP
    | with_reducible apply Closed.bar2Bytes hP
    | with_reducible apply Closed.askReadAt hP
    | with_reducible apply hP.modPcie
    | intro _
    | split
    | dsimp only
    | dsimp only [id]

theorem answerBar2 (hP : Closed W P) {s : State} (w1 : W .out) (w2 : W .drawn) (w3 : W .pcie) (w4 : W .ledger)
    (w5 : W .weaver) (w6 : ∀ x1', W (.stream x1')) (w7 : ∀ x1', W (.de x1')) (w8 : ∀ x1', W (.ref x1'))
    (w9 : W (.queue 2)) (w10 : W .station) (w11 : W .mbx) (w12 : W (.queue 1)) (w13 : ∀ x1', W (.sched x1'))
    (w14 : ∀ x1', W (.cmp x1')) (w15 : W .dram) (w16 : ∀ x1', W (.image x1')) (w17 : ∀ x1', W (.hist x1'))
    (w18 : ∀ a, W (.reg a)) (h : P s) :
    P (State.answerBar2 s) := by
  unfold State.answerBar2
  repeat' first
    | with_reducible assumption
    | with_reducible exact w6 _
    | with_reducible exact w7 _
    | with_reducible exact w8 _
    | with_reducible exact w13 _
    | with_reducible exact w14 _
    | with_reducible exact w16 _
    | with_reducible exact w17 _
    | with_reducible exact w18 _
    | with_reducible apply Closed.each hP
    | with_reducible apply Closed.bar2Read hP
    | with_reducible apply hP.modPcie
    | intro _
    | split
    | dsimp only
    | dsimp only [id]

theorem stationWord (hP : Closed W P) {s : State} (item : StationWord) (last : Bool) (t : Time)
    (w1 : ∀ x1', W (.stream x1')) (w2 : ∀ x1', W (.queue x1')) (w3 : ∀ x1', W (.sched x1')) (w4 : W .station)
    (w5 : W .mbx) (w6 : ∀ x1', W (.lane x1')) (w7 : W (.reg (HUB_Q 0 16))) (w8 : W (.reg (HUB_Q 0 24)))
    (w9 : W (.reg (HUB_Q 0 20))) (w10 : ∀ x1', W (.reg (STK_PACK_LOST x1'))) (h : P s) :
    P (State.stationWord s item last t) := by
  unfold State.stationWord
  repeat' first
    | with_reducible assumption
    | with_reducible exact w1 _
    | with_reducible exact w2 _
    | with_reducible exact w3 _
    | with_reducible exact w6 _
    | with_reducible exact w10 _
    | with_reducible apply Closed.each hP
    | with_reducible apply Closed.queueArriveAt hP
    | with_reducible apply Closed.consumeOp hP
    | intro _
    | split
    | dsimp only
    | dsimp only [id]

theorem writeNotice (hP : Closed W P) {s : State} (w1 : W (.queue 2)) (w2 : W .station) (w3 : W .pcie)
    (w4 : W (.reg (HUB_Q 2 16))) (w5 : W (.reg (HUB_Q 2 24))) (w6 : W (.reg (HUB_Q 2 20)))
    (w7 : W (.reg MB_NTF_TAIL)) (w8 : W (.reg MB_NTF_CFG)) (h : P s) :
    P (State.writeNotice s) := by
  unfold State.writeNotice
  repeat' first
    | with_reducible assumption
    | with_reducible apply Closed.settleQueue hP
    | with_reducible apply Closed.dmaWrite hP
    | with_reducible apply Closed.setRegBit hP
    | with_reducible apply Closed.msix hP
    | with_reducible apply hP.setReg
    | intro _
    | split
    | dsimp only
    | dsimp only [id]

theorem doorbell (hP : Closed W P) {s : State} (m : Nat) (value : Word) (image : MbImage) (w1 : W .drawn)
    (w2 : W .pcie) (w3 : W .dram) (w4 : ∀ x1', W (.ref x1')) (w5 : W .mbx) (w6 : ∀ x1', W (.box x1'))
    (w7 : W (.reg (MB_IGNORED m))) (w8 : W (.reg (MB_STATE m))) (h : P s) :
    P (State.doorbell s m value image) := by
  unfold State.doorbell
  repeat' first
    | with_reducible assumption
    | with_reducible exact w4 _
    | with_reducible exact w6 _
    | with_reducible apply Closed.modBox hP
    | with_reducible apply Closed.incReg hP
    | with_reducible apply Closed.setRegF hP
    | with_reducible apply Closed.startCommand hP
    | with_reducible apply Closed.startNext hP
    | with_reducible apply hP.modMbx
    | intro _
    | split
    | dsimp only
    | dsimp only [id]
    | rfl

theorem selfCheckFails (hP : Closed W P) {s : State} (n : Nat) (w1 : W .ledger) (w2 : W .weaver) (w3 : W (.ce n))
    (w4 : W (.reg (CE n 36))) (h : P s) :
    P (State.selfCheckFails s n) := by
  unfold State.selfCheckFails
  repeat' first
    | with_reducible assumption
    | with_reducible apply Closed.modCe hP
    | with_reducible apply Closed.raiseFault hP
    | with_reducible apply Closed.incReg hP
    | intro _
    | split
    | dsimp only
    | dsimp only [id]

theorem configurePodsCmd (hP : Closed W P) (img : MbImage) {s : State} (w1 : W .weaver) (h : P s) :
    P ((configurePodsCmd img s).1) := by
  unfold Sys2Proof.Machine.configurePodsCmd
  repeat' first
    | with_reducible assumption
    | with_reducible apply Closed.checked hP
    | with_reducible apply Closed.done hP
    | with_reducible apply Closed.modStaged hP
    | intro _
    | split
    | dsimp only
    | dsimp only [id]

theorem extendQ (hP : Closed W P) {s : State} (p : Nat) (q : Nat) (w1 : W .drawn) (h : P s) :
    P ((State.extendQ s p q).2) := by
  unfold State.extendQ
  repeat' first
    | with_reducible assumption
    | with_reducible apply Closed.draw hP
    | intro _
    | split
    | dsimp only
    | dsimp only [id]

theorem podWord (hP : Closed W P) {s : State} (p : Nat) (pos : Nat) (w : DWord) (w1 : W .drawn) (w2 : W (.port p))
    (w3 : ∀ x1', W (.stream x1')) (w4 : ∀ x1', W (.sched x1')) (w5 : W .trig) (w6 : ∀ x1', W (.ival x1'))
    (w7 : ∀ x1', W (.cmp x1')) (w8 : ∀ x1', W (.hist x1')) (w9 : W (.reg (PP_LOST_LINK p)))
    (w10 : ∀ x1', W (.reg (CU x1' 40))) (w11 : ∀ x1', W (.reg (CU x1' 36)))
    (w12 : ∀ x1' x2' x3', W (.reg (HU_RG x1' x2' x3'))) (w13 : ∀ x1', W (.reg (HU_OVERFLOW x1'))) (h : P s) :
    P (State.podWord s p pos w) := by
  unfold State.podWord
  repeat' first
    | with_reducible assumption
    | with_reducible exact w3 _
    | with_reducible exact w4 _
    | with_reducible exact w6 _
    | with_reducible exact w7 _
    | with_reducible exact w8 _
    | with_reducible exact w10 _
    | with_reducible exact w11 _
    | with_reducible exact w12 _ _ _
    | with_reducible exact w13 _
    | with_reducible apply Closed.each hP
    | with_reducible apply Closed.addReg hP
    | with_reducible apply Closed.extendQ hP
    | with_reducible apply Closed.modPod hP
    | with_reducible apply Closed.modPort hP
    | with_reducible apply Closed.writeRec hP
    | with_reducible apply Closed.laterTerm hP
    | with_reducible apply Closed.feedCompare hP
    | with_reducible apply Closed.feedInterval hP
    | with_reducible apply Closed.histEvent hP
    | intro _
    | split
    | dsimp only
    | dsimp only [id]

theorem fwCommitCmd (hP : Closed W P) (x0 : MbImage) {s : State} (w1 : W .power) (h : P s) :
    P ((fwCommitCmd x0 s).1) := by
  unfold Sys2Proof.Machine.fwCommitCmd
  repeat' first
    | with_reducible assumption
    | with_reducible apply Closed.refuse hP
    | with_reducible apply Closed.done hP
    | with_reducible apply Closed.modFw hP
    | intro _
    | split
    | dsimp only
    | dsimp only [id]

theorem ledLink (hP : Closed W P) {s : State} (action : Nat) (w1 : W .ledger) (h : P s) :
    P (State.ledLink s action) := by
  unfold State.ledLink
  repeat' first
    | with_reducible assumption
    | with_reducible apply Closed.ledgerReq hP
    | intro _
    | split
    | dsimp only
    | dsimp only [id]

theorem additionTurn (hP : Closed W P) {s : State} (p : Nat) (q : Nat) (w1 : W (.port p)) (w2 : W .drawn)
    (w3 : ∀ x1', W (.stream x1')) (w4 : ∀ x1', W (.sched x1')) (w5 : ∀ x1', W (.ival x1'))
    (w6 : ∀ x1', W (.cmp x1')) (w7 : W .weaver) (w8 : W (.reg (PP_DELAY p q))) (w9 : ∀ x1', W (.reg (CU x1' 36)))
    (h : P s) :
    P (State.additionTurn s p q) := by
  unfold State.additionTurn
  repeat' first
    | with_reducible assumption
    | with_reducible exact w3 _
    | with_reducible exact w4 _
    | with_reducible exact w5 _
    | with_reducible exact w6 _
    | with_reducible exact w9 _
    | with_reducible apply Closed.modPod hP
    | with_reducible apply Closed.dueReplacement hP
    | with_reducible apply Closed.configurePod hP
    | with_reducible apply Closed.recomputeDelay hP
    | intro _
    | split
    | dsimp only
    | dsimp only [id]

theorem management (hP : Closed W P) {s : State} (p : Nat) (q : Nat) (sfn : Half) (b : DWord) (w1 : W (.port p))
    (w2 : ∀ x1', W (.stream x1')) (w3 : ∀ x1', W (.sched x1')) (w4 : ∀ x1', W (.ival x1'))
    (w5 : ∀ x1', W (.cmp x1')) (w6 : W .drawn) (w7 : W (.queue 4)) (w8 : W .station)
    (w9 : W (.reg (PP_LOST_BUDGET p))) (w10 : ∀ x1', W (.reg (CU x1' 36))) (w11 : W (.reg (HUB_Q 4 16)))
    (w12 : W (.reg (HUB_Q 4 24))) (w13 : W (.reg (HUB_Q 4 20))) (h : P s) :
    P (State.management s p q sfn b) := by
  unfold State.management
  repeat' first
    | with_reducible assumption
    | with_reducible exact w2 _
    | with_reducible exact w3 _
    | with_reducible exact w4 _
    | with_reducible exact w5 _
    | with_reducible exact w10 _
    | with_reducible apply Closed.modPod hP
    | with_reducible apply Closed.podBudget hP
    | with_reducible apply Closed.badFrames hP
    | with_reducible apply Closed.podPacket hP
    | with_reducible apply Closed.podAck hP
    | intro _
    | split
    | dsimp only
    | dsimp only [id]

theorem armSyncCmd (hP : Closed W P) (m : Nat) (x1 : MbImage) {s : State} (w1 : W .time) (w2 : W (.reg STN_SYNC))
    (h : P s) :
    P ((armSyncCmd m x1 s).1) := by
  unfold Sys2Proof.Machine.armSyncCmd
  repeat' first
    | with_reducible assumption
    | with_reducible apply Closed.setRegBit hP
    | with_reducible apply Closed.done hP
    | with_reducible apply hP.modTime
    | intro _
    | split
    | dsimp only
    | dsimp only [id]

theorem completeBox (hP : Closed W P) {s : State} (m : Nat) (us : Nat) (w1 : W .pcie) (w2 : W .mbx) (w3 : W .drawn)
    (w4 : ∀ x1', W (.box x1')) (w5 : W .dram) (w6 : ∀ x1', W (.ref x1')) (w7 : W (.reg (MB_CMDS m)))
    (w8 : W (.reg (MB_RESP_MAX m))) (h : P s) :
    P (State.completeBox s m us) := by
  unfold State.completeBox
  repeat' first
    | with_reducible assumption
    | with_reducible exact w4 _
    | with_reducible exact w6 _
    | with_reducible apply Closed.modBox hP
    | with_reducible apply Closed.dropData hP
    | with_reducible apply Closed.incReg hP
    | with_reducible apply Closed.msix hP
    | with_reducible apply Closed.startNext hP
    | with_reducible apply hP.setReg
    | with_reducible apply hP.modMbx
    | intro _
    | split
    | dsimp only
    | dsimp only [id]
    | rfl

theorem scrubLoss (hP : Closed W P) {s : State} (seq : Nat) (w1 : W .ledger) (h : P s) :
    P (State.scrubLoss s seq) := by
  unfold State.scrubLoss
  repeat' first
    | with_reducible assumption
    | with_reducible apply Closed.ledgerReq hP
    | with_reducible apply hP.modLedger
    | intro _
    | split
    | dsimp only
    | dsimp only [id]

theorem clearLedger (hP : Closed W P) {s : State} (w1 : W .drawn) (w2 : W .ledger) (w3 : W (.reg LG_GENERATION))
    (w4 : W (.reg LG_FIRST_SEQ_LO)) (w5 : W (.reg (LG_FIRST_SEQ_LO + 4))) (w6 : W (.reg LG_NEXT_SEQ_LO))
    (w7 : W (.reg (LG_NEXT_SEQ_LO + 4))) (w8 : W (.reg LG_REFUSED)) (w9 : W (.reg LG_STATUS)) (h : P s) :
    P ((State.clearLedger s).1) := by
  unfold State.clearLedger
  repeat' first
    | with_reducible assumption
    | with_reducible apply Closed.snapWords hP
    | with_reducible apply Closed.applyClear hP
    | with_reducible apply Closed.storeMeta hP
    | with_reducible apply hP.modLedger
    | intro _
    | split
    | dsimp only
    | dsimp only [id]

theorem ledgerClearCmd (hP : Closed W P) (img : MbImage) {s : State} (w1 : W (.queue 2)) (w2 : W .station)
    (w3 : W .mbx) (w4 : W .ledger) (w5 : W .weaver) (w6 : W (.queue 3)) (w7 : W .drawn) (w8 : W (.reg LG_FLUSHES))
    (w9 : W (.reg LG_VERIFY_FAIL)) (w10 : W (.reg LG_STATUS)) (w11 : W (.reg (HUB_Q 2 16)))
    (w12 : W (.reg (HUB_Q 2 24))) (w13 : W (.reg (HUB_Q 2 20))) (w14 : W (.reg MB_NTF_NSEQ))
    (w15 : W (.reg (HUB_Q 3 16))) (w16 : W (.reg (HUB_Q 3 24))) (w17 : W (.reg (HUB_Q 3 20)))
    (w18 : W (.reg LG_GENERATION)) (w19 : W (.reg LG_FIRST_SEQ_LO)) (w20 : W (.reg (LG_FIRST_SEQ_LO + 4)))
    (w21 : W (.reg LG_NEXT_SEQ_LO)) (w22 : W (.reg (LG_NEXT_SEQ_LO + 4))) (w23 : W (.reg LG_REFUSED)) (h : P s) :
    P ((ledgerClearCmd img s).1) := by
  unfold Sys2Proof.Machine.ledgerClearCmd
  repeat' first
    | with_reducible assumption
    | with_reducible apply Closed.refuse hP
    | with_reducible apply Closed.flushLedger hP
    | with_reducible apply Closed.clearLedger hP
    | with_reducible apply Closed.done hP
    | with_reducible apply Closed.ledgerReq hP
    | with_reducible apply hP.modLedger
    | intro _
    | split
    | dsimp only
    | dsimp only [id]

theorem enumerate (hP : Closed W P) {s : State} (p : Nat) (serials : List (BitVec 48)) (w1 : W .weaver)
    (w2 : ∀ x1', W (.stream x1')) (w3 : ∀ x1', W (.sched x1')) (w4 : ∀ x1', W (.ival x1'))
    (w5 : ∀ x1', W (.cmp x1')) (w6 : W .trig) (w7 : W (.port p)) (w8 : W .drawn) (w9 : W (.queue 2))
    (w10 : W .station) (w11 : W .mbx) (w12 : W .ledger) (w13 : ∀ x1', W (.reg (CU x1' 36)))
    (w14 : W (.reg (PP_PRESENT p))) (w15 : W (.reg (HUB_Q 2 16))) (w16 : W (.reg (HUB_Q 2 24)))
    (w17 : W (.reg (HUB_Q 2 20))) (w18 : W (.reg MB_NTF_NSEQ)) (w19 : W (.reg HUB_HEALTH))
    (w20 : W (.reg (PP_STATUS p))) (h : P s) :
    P (State.enumerate s p serials) := by
  unfold State.enumerate
  repeat' first
    | with_reducible assumption
    | with_reducible exact w2 _
    | with_reducible exact w3 _
    | with_reducible exact w4 _
    | with_reducible exact w5 _
    | with_reducible exact w13 _
    | with_reducible apply Closed.each hP
    | with_reducible apply Closed.setRegBit hP
    | with_reducible apply Closed.podBreak hP
    | with_reducible apply Closed.enumPod hP
    | with_reducible apply Closed.configurePod hP
    | with_reducible apply Closed.setRegF hP
    | with_reducible apply hP.modWeaver
    | intro _
    | split
    | dsimp only
    | dsimp only [id]

theorem countMembers (hP : Closed W P) {s : State} (e : Nat) (members : Nat) (out : Nat) (w1 : W (.reg (DE e 12)))
    (w2 : W (.reg (DE e 4))) (w3 : W (.reg (DE e 4 + 4))) (h : P s) :
    P (State.countMembers s e members out) := by
  unfold State.countMembers
  repeat' first
    | with_reducible assumption
    | with_reducible apply Closed.addReg64 hP
    | with_reducible apply Closed.addReg hP
    | intro _
    | split
    | dsimp only
    | dsimp only [id]

theorem loadChunk (hP : Closed W P) {s : State} (img : MbImage) (bytes : List Byte) (w1 : W .dram)
    (w2 : ∀ x1', W (.ref x1')) (w3 : ∀ x1', W (.sched x1')) (w4 : ∀ x1', W (.de x1')) (w5 : W .drawn)
    (w6 : W .ledger) (w7 : ∀ x1', W (.reg (DE x1' 40))) (w8 : ∀ x1', W (.reg (DE x1' 12)))
    (w9 : ∀ x1', W (.reg (DE x1' 4))) (w10 : ∀ x1', W (.reg (DE x1' 4 + 4))) (w11 : ∀ x1', W (.reg (DE x1' 16)))
    (w12 : ∀ x1', W (.reg (DE x1' 20))) (w13 : ∀ x1', W (.reg (DE x1' 24))) (w14 : ∀ x1', W (.reg (DE x1' 28)))
    (w15 : ∀ x1', W (.reg (DE x1' 32))) (w16 : ∀ x1', W (.reg (DE x1' 36))) (h : P s) :
    P ((State.loadChunk s img bytes).1) := by
  unfold State.loadChunk
  repeat' first
    | with_reducible assumption
    | with_reducible exact w2 _
    | with_reducible exact w3 _
    | with_reducible exact w4 _
    | with_reducible exact w7 _
    | with_reducible exact w8 _
    | with_reducible exact w9 _
    | with_reducible exact w10 _
    | with_reducible exact w11 _
    | with_reducible exact w12 _
    | with_reducible exact w13 _
    | with_reducible exact w14 _
    | with_reducible exact w15 _
    | with_reducible exact w16 _
    | with_reducible apply Closed.putPages hP
    | with_reducible apply Closed.emptyRef hP
    | with_reducible apply Closed.modRef hP
    | with_reducible apply Closed.askPages hP
    | with_reducible apply Closed.askWriteAt hP
    | with_reducible apply Closed.leaveJob hP
    | with_reducible apply Closed.corruptRef hP
    | with_reducible apply Closed.countMembers hP
    | with_reducible apply Closed.finishLoad hP
    | with_reducible apply Closed.done hP
    | intro _
    | split
    | dsimp only
    | dsimp only [id]

theorem loadReferenceCmd (hP : Closed W P) (m : Nat) (img : MbImage) {s : State} (w1 : ∀ x1', W (.ref x1'))
    (w2 : W .dram) (w3 : ∀ x1', W (.sched x1')) (w4 : ∀ x1', W (.de x1')) (w5 : W .drawn) (w6 : W .ledger)
    (w7 : W .pcie) (w8 : ∀ x1', W (.reg (DE x1' 40))) (w9 : ∀ x1', W (.reg (DE x1' 12)))
    (w10 : ∀ x1', W (.reg (DE x1' 4))) (w11 : ∀ x1', W (.reg (DE x1' 4 + 4))) (w12 : ∀ x1', W (.reg (DE x1' 16)))
    (w13 : ∀ x1', W (.reg (DE x1' 20))) (w14 : ∀ x1', W (.reg (DE x1' 24))) (w15 : ∀ x1', W (.reg (DE x1' 28)))
    (w16 : ∀ x1', W (.reg (DE x1' 32))) (w17 : ∀ x1', W (.reg (DE x1' 36))) (h : P s) :
    P ((loadReferenceCmd m img s).1) := by
  unfold Sys2Proof.Machine.loadReferenceCmd
  repeat' first
    | with_reducible assumption
    | with_reducible exact w1 _
    | with_reducible exact w3 _
    | with_reducible exact w4 _
    | with_reducible exact w8 _
    | with_reducible exact w9 _
    | with_reducible exact w10 _
    | with_reducible exact w11 _
    | with_reducible exact w12 _
    | with_reducible exact w13 _
    | with_reducible exact w14 _
    | with_reducible exact w15 _
    | with_reducible exact w16 _
    | with_reducible exact w17 _
    | with_reducible apply Closed.modRef hP
    | with_reducible apply Closed.refuse hP
    | with_reducible apply Closed.loadChunk hP
    | with_reducible apply Closed.dropData hP
    | intro _
    | split
    | dsimp only
    | dsimp only [id]

theorem takeDescriptors (hP : Closed W P) {s : State} (i : Nat) (first : Nat) (count : Nat) (bytes : List Byte)
    (w1 : W (.stream i)) (w2 : W (.queue 2)) (w3 : W .station) (w4 : W .mbx) (w5 : W .pcie)
    (w6 : W (.reg (HUB_Q 2 16))) (w7 : W (.reg (HUB_Q 2 24))) (w8 : W (.reg (HUB_Q 2 20)))
    (w9 : W (.reg MB_NTF_NSEQ)) (h : P s) :
    P (State.takeDescriptors s i first count bytes) := by
  unfold State.takeDescriptors
  repeat' first
    | with_reducible assumption
    | with_reducible apply Closed.each hP
    | with_reducible apply Closed.takeDescriptor hP
    | intro _
    | split
    | dsimp only
    | dsimp only [id]

theorem readArrives (hP : Closed W P) {s : State} (o : ReadOwner) (bytes : List Byte) (w1 : W .pcie)
    (w2 : ∀ x1', W (.stream x1')) (w3 : W (.queue 2)) (w4 : W .station) (w5 : W .mbx) (w6 : W (.reg (HUB_Q 2 16)))
    (w7 : W (.reg (HUB_Q 2 24))) (w8 : W (.reg (HUB_Q 2 20))) (w9 : W (.reg MB_NTF_NSEQ)) (h : P s) :
    P (State.readArrives s o bytes) := by
  unfold State.readArrives
  repeat' first
    | with_reducible assumption
    | with_reducible exact w2 _
    | with_reducible apply Closed.takeDescriptors hP
    | with_reducible apply hP.modPcie
    | intro _
    | split
    | dsimp only
    | dsimp only [id]

theorem partArrives (hP : Closed W P) {s : State} (r : DevRead) (data : List Byte) (w1 : W .pcie)
    (w2 : ∀ x1', W (.stream x1')) (w3 : W (.queue 2)) (w4 : W .station) (w5 : W .mbx) (w6 : W (.reg (HUB_Q 2 16)))
    (w7 : W (.reg (HUB_Q 2 24))) (w8 : W (.reg (HUB_Q 2 20))) (w9 : W (.reg MB_NTF_NSEQ)) (h : P s) :
    P (State.partArrives s r data) := by
  unfold State.partArrives
  repeat' first
    | with_reducible assumption
    | with_reducible exact w2 _
    | with_reducible apply Closed.readArrives hP
    | with_reducible apply hP.modPcie
    | intro _
    | split
    | dsimp only
    | dsimp only [id]

theorem abortStreamCmd (hP : Closed W P) (img : MbImage) {s : State} (w1 : ∀ x1', W (.stream x1')) (w2 : W .pcie)
    (w3 : W (.queue 2)) (w4 : W .station) (w5 : W .mbx) (w6 : ∀ x1', W (.sched x1'))
    (w7 : ∀ x1', W (.reg (CE x1' 12))) (w8 : ∀ x1', W (.reg (CE x1' 12 + 4))) (w9 : ∀ x1', W (.reg (CE x1' 20)))
    (w10 : ∀ x1' x2', W (.reg (CE_SLOT x1' x2'))) (w11 : ∀ x1', W (.reg (CE x1' 0))) (w12 : W (.reg (HUB_Q 2 16)))
    (w13 : W (.reg (HUB_Q 2 24))) (w14 : W (.reg (HUB_Q 2 20))) (w15 : W (.reg MB_NTF_NSEQ)) (h : P s) :
    P ((abortStreamCmd img s).1) := by
  unfold Sys2Proof.Machine.abortStreamCmd
  repeat' first
    | with_reducible assumption
    | with_reducible exact w1 _
    | with_reducible exact w6 _
    | with_reducible exact w7 _
    | with_reducible exact w8 _
    | with_reducible exact w9 _
    | with_reducible exact w10 _ _
    | with_reducible exact w11 _
    | with_reducible apply Closed.done hP
    | with_reducible apply Closed.deliver hP
    | with_reducible apply Closed.modStream hP
    | with_reducible apply Closed.flushStream hP
    | intro _
    | split
    | dsimp only
    | dsimp only [id]

theorem setSnapshotCmd (hP : Closed W P) (img : MbImage) {s : State} (w1 : W .ledger) (h : P s) :
    P ((setSnapshotCmd img s).1) := by
  unfold Sys2Proof.Machine.setSnapshotCmd
  repeat' first
    | with_reducible assumption
    | with_reducible apply Closed.done hP
    | with_reducible apply Closed.storeMeta hP
    | with_reducible apply hP.modLedger
    | intro _
    | split
    | dsimp only
    | dsimp only [id]

theorem queueArrive (hP : Closed W P) {s : State} (n : Nat) (w : DWord) (last : Bool) (parity : Bool)
    (w1 : W (.queue n)) (w2 : W .station) (w3 : ∀ x1', W (.stream x1')) (w4 : ∀ x1', W (.sched x1')) (w5 : W .mbx)
    (w6 : ∀ x1', W (.lane x1')) (w7 : ∀ x1', W (.queue (stakeQ x1'))) (w8 : W (.reg (HUB_Q n 16)))
    (w9 : W (.reg (HUB_Q n 24))) (w10 : W (.reg (HUB_Q n 20))) (w11 : ∀ x1', W (.reg (STK_PACK_LOST x1')))
    (h : P s) :
    P (State.queueArrive s n w last parity) := by
  unfold State.queueArrive
  repeat' first
    | with_reducible assumption
    | with_reducible exact w3 _
    | with_reducible exact w4 _
    | with_reducible exact w6 _
    | with_reducible exact w7 _
    | with_reducible exact w11 _
    | with_reducible apply Closed.queueArriveAt hP
    | intro _
    | split
    | dsimp only
    | dsimp only [id]

theorem queueWrite (hP : Closed W P) {s : State} (q : QRef) (w : DWord) (last : Bool) (parity : Bool)
    (w1 : ∀ x1', W (.stream x1')) (w2 : ∀ x1', W (.sched x1')) (w3 : ∀ x1', W (.queue x1')) (w4 : W .station)
    (w5 : W .mbx) (w6 : ∀ x1', W (.lane x1')) (w7 : ∀ x1', W (.reg (HUB_Q x1' 16)))
    (w8 : ∀ x1', W (.reg (HUB_Q x1' 24))) (w9 : ∀ x1', W (.reg (HUB_Q x1' 20)))
    (w10 : ∀ x1', W (.reg (STK_PACK_LOST x1'))) (h : P s) :
    P (State.queueWrite s q w last parity) := by
  unfold State.queueWrite
  repeat' first
    | with_reducible assumption
    | with_reducible exact w1 _
    | with_reducible exact w2 _
    | with_reducible exact w3 _
    | with_reducible exact w6 _
    | with_reducible exact w7 _
    | with_reducible exact w8 _
    | with_reducible exact w9 _
    | with_reducible exact w10 _
    | with_reducible apply Closed.ringWord hP
    | with_reducible apply Closed.queueArrive hP
    | intro _
    | split
    | dsimp only
    | dsimp only [id]

theorem defineHistogramCmd (hP : Closed W P) (img : MbImage) {s : State} (w1 : W .weaver) (h : P s) :
    P ((defineHistogramCmd img s).1) := by
  unfold Sys2Proof.Machine.defineHistogramCmd
  repeat' first
    | with_reducible assumption
    | with_reducible apply Closed.checked hP
    | with_reducible apply Closed.done hP
    | with_reducible apply Closed.stageDef hP
    | intro _
    | split
    | dsimp only
    | dsimp only [id]

theorem forceMarkCmd (hP : Closed W P) (m : Nat) (img : MbImage) {s : State} (w1 : ∀ x1', W (.seq x1')) (h : P s) :
    P ((forceMarkCmd m img s).1) := by
  unfold Sys2Proof.Machine.forceMarkCmd
  repeat' first
    | with_reducible assumption
    | with_reducible exact w1 _
    | with_reducible apply Closed.refuse hP
    | with_reducible apply Closed.modSeq hP
    | intro _
    | split
    | dsimp only
    | dsimp only [id]

theorem annotateCmd (hP : Closed W P) (img : MbImage) {s : State} (w1 : ∀ x1', W (.stream x1'))
    (w2 : ∀ x1', W (.sched x1')) (h : P s) :
    P ((annotateCmd img s).1) := by
  unfold Sys2Proof.Machine.annotateCmd
  repeat' first
    | with_reducible assumption
    | with_reducible exact w1 _
    | with_reducible exact w2 _
    | with_reducible apply Closed.each hP
    | with_reducible apply Closed.checked hP
    | with_reducible apply Closed.done hP
    | with_reducible apply Closed.writeRecs hP
    | intro _
    | split
    | dsimp only
    | dsimp only [id]

theorem msixWrite (hP : Closed W P) {s : State} (a : Nat) (value : DWord) (bits : Nat) (w1 : W .pcie) (h : P s) :
    P (State.msixWrite s a value bits) := by
  unfold State.msixWrite
  repeat' first
    | with_reducible assumption
    | with_reducible apply Closed.sendPending hP
    | with_reducible apply hP.modPcie
    | intro _
    | split
    | dsimp only
    | dsimp only [id]

theorem seeWrite (hP : Closed W P) {s : State} (poisoned : Bool) (w1 : W .drawn) (w2 : W .pcie) (h : P s) :
    P (State.seeWrite s poisoned) := by
  unfold State.seeWrite
  repeat' first
    | with_reducible assumption
    | with_reducible apply Closed.aerError hP
    | intro _
    | split
    | dsimp only
    | dsimp only [id]

theorem mailboxWrite (hP : Closed W P) {s : State} (a : Nat) (bytes : List Byte) (w1 : ∀ x1', W (.box x1'))
    (h : P s) :
    P (State.mailboxWrite s a bytes) := by
  unfold State.mailboxWrite
  repeat' first
    | with_reducible assumption
    | with_reducible exact w1 _
    | with_reducible apply Closed.each hP
    | with_reducible apply Closed.modBox hP
    | intro _
    | split
    | dsimp only
    | dsimp only [id]

theorem registerWrite (hP : Closed W P) {s : State} (a : Nat) (value : DWord) (attr : WriteAttr) (collides : Bool)
    (w1 : W .drawn) (w2 : W .pcie) (w3 : ∀ x1', W (.box x1')) (w4 : ∀ x1', W (.chan x1'))
    (w5 : ∀ x1', W (.tout x1')) (w6 : W .station) (w7 : W (.reg HUB_RF_STATE)) (w8 : W (.reg a))
    (w9 : ∀ x1' x2', W (.reg (MC_TRN_ERR x1' x2'))) (w10 : ∀ x1', W (.reg (HUB_Q x1' 20))) (w11 : W (.reg (a + 4)))
    (h : P s) :
    P (State.registerWrite s a value attr collides) := by
  unfold State.registerWrite
  repeat' first
    | with_reducible assumption
    | with_reducible exact w3 _
    | with_reducible exact w4 _
    | with_reducible exact w5 _
    | with_reducible exact w9 _ _
    | with_reducible exact w10 _
    | with_reducible apply Closed.seeWrite hP
    | with_reducible apply Closed.msixWrite hP
    | with_reducible apply Closed.mailboxWrite hP
    | with_reducible apply Closed.addRegF hP
    | with_reducible apply Closed.hostWrite hP
    | intro _
    | split
    | dsimp only
    | dsimp only [id]

theorem flushTime (hP : Closed W P) {s : State} (i : Nat) (w1 : ∀ x1', W (.lane x1'))
    (w2 : ∀ x1', W (.queue (stakeQ x1'))) (w3 : ∀ x1', W (.stream x1')) (w4 : ∀ x1', W (.sched x1')) (h : P s) :
    P (State.flushTime s i) := by
  unfold State.flushTime
  repeat' first
    | with_reducible assumption
    | with_reducible exact w1 _
    | with_reducible exact w2 _
    | with_reducible exact w3 _
    | with_reducible exact w4 _
    | with_reducible apply Closed.closeSegment hP
    | with_reducible apply Closed.closeStreamBlocks hP
    | intro _
    | split
    | dsimp only
    | dsimp only [id]

theorem extendChain (hP : Closed W P) {s : State} (p : Nat) (e : Nat) (w1 : W .drawn) (w2 : W (.port p)) (h : P s) :
    P (State.extendChain s p e) := by
  unfold State.extendChain
  repeat' first
    | with_reducible assumption
    | with_reducible apply Closed.draw hP
    | with_reducible apply Closed.podAction hP
    | intro _
    | split
    | dsimp only
    | dsimp only [id]

theorem hubSlot (hP : Closed W P) {s : State} (w1 : W .time) (h : P s) :
    P (State.hubSlot s) := by
  unfold State.hubSlot
  repeat' first
    | with_reducible assumption
    | with_reducible apply hP.modTime
    | intro _
    | split
    | dsimp only
    | dsimp only [id]

theorem abortCommandCmd (hP : Closed W P) (img : MbImage) {s : State} (w1 : W .dram) (w2 : ∀ x1', W (.ref x1'))
    (w3 : W .mbx) (w4 : ∀ x1', W (.box x1')) (h : P s) :
    P ((abortCommandCmd img s).1) := by
  unfold Sys2Proof.Machine.abortCommandCmd
  repeat' first
    | with_reducible assumption
    | with_reducible exact w2 _
    | with_reducible exact w4 _
    | with_reducible apply Closed.done hP
    | with_reducible apply Closed.cancel hP
    | intro _
    | split
    | dsimp only
    | dsimp only [id]

theorem abortAnnotation (hP : Closed W P) {s : State} (w1 : W (.queue 0)) (w2 : W .station)
    (w3 : W (.reg (HUB_Q 0 16))) (w4 : W (.reg (HUB_Q 0 24))) (w5 : W (.reg (HUB_Q 0 20))) (h : P s) :
    P (State.abortAnnotation s) := by
  unfold State.abortAnnotation
  repeat' first
    | with_reducible assumption
    | with_reducible apply Closed.settleQueue hP
    | intro _
    | split
    | dsimp only
    | dsimp only [id]

theorem comparatorEdge (hP : Closed W P) {s : State} (n : Nat) (c : Comp) (rise : Bool) (sclk : Nat) (taps : Nat)
    (second : Bool) (w1 : ∀ x1', W (.queue (stakeQ x1'))) (w2 : ∀ x1', W (.stream x1')) (w3 : ∀ x1', W (.sched x1'))
    (w4 : ∀ x1', W (.lane x1')) (w5 : W .trig) (w6 : ∀ x1', W (.hist x1')) (w7 : ∀ x1', W (.ival x1'))
    (w8 : ∀ x1', W (.cmp x1')) (w9 : ∀ x1' x2' x3', W (.reg (HU_RG x1' x2' x3')))
    (w10 : ∀ x1', W (.reg (HU_OVERFLOW x1'))) (w11 : ∀ x1', W (.reg (CU x1' 40)))
    (w12 : ∀ x1', W (.reg (CU x1' 36))) (h : P s) :
    P (State.comparatorEdge s n c rise sclk taps second) := by
  unfold State.comparatorEdge
  repeat' first
    | with_reducible assumption
    | with_reducible exact w1 _
    | with_reducible exact w2 _
    | with_reducible exact w3 _
    | with_reducible exact w4 _
    | with_reducible exact w6 _
    | with_reducible exact w7 _
    | with_reducible exact w8 _
    | with_reducible exact w9 _ _ _
    | with_reducible exact w10 _
    | with_reducible exact w11 _
    | with_reducible exact w12 _
    | with_reducible apply Closed.flushLevel hP
    | with_reducible apply Closed.moveOutput hP
    | with_reducible apply Closed.followEdge hP
    | with_reducible apply Closed.recordEdge hP
    | intro _
    | split
    | dsimp only
    | dsimp only [id]

theorem restartCounters (hP : Closed W P) {s : State} (w1 : ∀ a, W (.reg a)) (h : P s) :
    P (State.restartCounters s) := by
  unfold State.restartCounters
  repeat' first
    | with_reducible assumption
    | with_reducible exact w1 _
    | with_reducible apply Closed.each hP
    | with_reducible apply hP.setReg
    | intro _
    | split
    | dsimp only
    | dsimp only [id]

theorem spillParity (hP : Closed W P) {s : State} (hu : Nat) (r : Nat) (c : Closing) (bad : List Nat)
    (w1 : W (.hist hu)) (w2 : W (.reg (HU_PARITY hu))) (h : P s) :
    P (State.spillParity s hu r c bad) := by
  unfold State.spillParity
  repeat' first
    | with_reducible assumption
    | with_reducible apply Closed.each hP
    | with_reducible apply Closed.modRegion hP
    | with_reducible apply Closed.suspectBank hP
    | with_reducible apply Closed.incReg hP
    | with_reducible apply Closed.modClosing hP
    | intro _
    | split
    | dsimp only
    | dsimp only [id]

theorem spillOne (hP : Closed W P) {s : State} (hu : Nat) (parity : List Nat) (w1 : W (.hist hu))
    (w2 : ∀ x1', W (.image x1')) (w3 : ∀ x1', W (.sched x1')) (w4 : W (.queue 2)) (w5 : W .station) (w6 : W .mbx)
    (w7 : W .ledger) (w8 : W .weaver) (w9 : W (.reg (HU_PARITY hu))) (w10 : W (.reg (HU_IMG_LOST hu)))
    (w11 : W (.reg (HU_SPILLS hu))) (w12 : ∀ x1', W (.reg (HU_RG hu x1' 32))) (w13 : W (.reg (HUB_Q 2 16)))
    (w14 : W (.reg (HUB_Q 2 24))) (w15 : W (.reg (HUB_Q 2 20))) (w16 : W (.reg MB_NTF_NSEQ))
    (w17 : ∀ x1', W (.reg (HU_RG hu x1' 0))) (h : P s) :
    P (State.spillOne s hu parity) := by
  unfold State.spillOne
  repeat' first
    | with_reducible assumption
    | with_reducible exact w2 _
    | with_reducible exact w3 _
    | with_reducible exact w12 _
    | with_reducible exact w17 _
    | with_reducible apply Closed.spillParity hP
    | with_reducible apply Closed.storeImage hP
    | with_reducible apply Closed.modRegion hP
    | with_reducible apply Closed.modHist hP
    | with_reducible apply Closed.setRegBit hP
    | with_reducible apply Closed.raiseFault hP
    | intro _
    | split
    | dsimp only
    | dsimp only [id]

theorem scrubRegion (hP : Closed W P) {s : State} (bad0 : List Nat) (bad1 : List Nat) (w1 : W .ledger)
    (w2 : W (.reg LG_SCRUB)) (w3 : W (.reg LG_SCRUB_PASSES)) (h : P s) :
    P (State.scrubRegion s bad0 bad1) := by
  unfold State.scrubRegion
  repeat' first
    | with_reducible assumption
    | with_reducible apply Closed.each hP
    | with_reducible apply Closed.scrubLoss hP
    | with_reducible apply Closed.setRegF hP
    | with_reducible apply Closed.storeMeta hP
    | with_reducible apply hP.setReg
    | with_reducible apply hP.modLedger
    | intro _
    | split
    | dsimp only
    | dsimp only [id]

theorem leaveSlot (hP : Closed W P) {s : State} (n : Nat) (k : Nat) (w1 : ∀ x1', W (.stream x1'))
    (w2 : ∀ x1', W (.reg (CE x1' 12))) (w3 : ∀ x1', W (.reg (CE x1' 12 + 4))) (w4 : ∀ x1', W (.reg (CE x1' 20)))
    (w5 : W (.reg (CE n 28))) (w6 : W (.reg (CE n 0))) (h : P s) :
    P (State.leaveSlot s n k) := by
  unfold State.leaveSlot
  repeat' first
    | with_reducible assumption
    | with_reducible exact w1 _
    | with_reducible exact w2 _
    | with_reducible exact w3 _
    | with_reducible exact w4 _
    | with_reducible apply Closed.breakRun hP
    | with_reducible apply Closed.setRegF hP
    | with_reducible apply Closed.incReg hP
    | intro _
    | split
    | dsimp only
    | dsimp only [id]

theorem serveSlot (hP : Closed W P) {s : State} (n : Nat) (k : Nat) (segs : Nat) (out : List Bool) (cuts : List Nat)
    (decodeOk : Bool) (w1 : ∀ x1', W (.stream x1')) (w2 : ∀ x1', W (.sched x1')) (w3 : W (.ce n)) (w4 : W .ledger)
    (w5 : W .weaver) (w6 : ∀ x1', W (.reg (CE x1' 12))) (w7 : ∀ x1', W (.reg (CE x1' 12 + 4)))
    (w8 : ∀ x1', W (.reg (CE x1' 20))) (w9 : ∀ x1' x2', W (.reg (CE_SLOT x1' x2')))
    (w10 : ∀ x1', W (.reg (CE x1' 0))) (w11 : W (.reg (CE n 28))) (w12 : ∀ x1', W (.reg (CE x1' 4)))
    (w13 : ∀ x1', W (.reg (CE x1' 4 + 4))) (w14 : ∀ x1', W (.reg (CE x1' 24))) (w15 : W (.reg (CE n 36)))
    (h : P s) :
    P (State.serveSlot s n k segs out cuts decodeOk) := by
  unfold State.serveSlot
  repeat' first
    | with_reducible assumption
    | with_reducible exact w1 _
    | with_reducible exact w2 _
    | with_reducible exact w6 _
    | with_reducible exact w7 _
    | with_reducible exact w8 _
    | with_reducible exact w9 _ _
    | with_reducible exact w10 _
    | with_reducible exact w12 _
    | with_reducible exact w13 _
    | with_reducible exact w14 _
    | with_reducible apply Closed.each hP
    | with_reducible apply Closed.passBinds hP
    | with_reducible apply Closed.endMember hP
    | with_reducible apply Closed.leaveSlot hP
    | with_reducible apply Closed.takeBlock hP
    | with_reducible apply Closed.askSegment hP
    | with_reducible apply Closed.modCe hP
    | with_reducible apply Closed.writeBlock hP
    | with_reducible apply Closed.selfCheckFails hP
    | intro _
    | split
    | dsimp only
    | dsimp only [id]

theorem queryPlacementCmd (hP : Closed W P) (img : MbImage) {s : State} (w1 : W .drawn) (w2 : W .pcie) (h : P s) :
    P ((queryPlacementCmd img s).1) := by
  unfold Sys2Proof.Machine.queryPlacementCmd
  repeat' first
    | with_reducible assumption
    | with_reducible apply Closed.draw hP
    | with_reducible apply Closed.done hP
    | with_reducible apply Closed.dmaWrite hP
    | intro _
    | split
    | dsimp only
    | dsimp only [id]

theorem bar0Read (hP : Closed W P) {s : State} (a : Nat) (bits : Nat) (w1 : W .drawn) (w2 : W .pcie) (w3 : W .out)
    (w4 : ∀ x1', W (.ce x1')) (w5 : ∀ x1', W (.de x1')) (w6 : ∀ x1', W (.ival x1')) (w7 : W (.reg a))
    (w8 : W (.reg (a + 4))) (h : P s) :
    P (State.bar0Read s a bits) := by
  unfold State.bar0Read
  repeat' first
    | with_reducible assumption
    | with_reducible exact w4 _
    | with_reducible exact w5 _
    | with_reducible exact w6 _
    | with_reducible apply Closed.putRead hP
    | with_reducible apply Closed.aerError hP
    | with_reducible apply Closed.readReg hP
    | intro _
    | split
    | dsimp only
    | dsimp only [id]

theorem logBar2 (hP : Closed W P) {s : State} (w : Nat) (w1 : W .pcie) (w2 : W .drawn) (w3 : W .ledger) (h : P s) :
    P (State.logBar2 s w) := by
  unfold State.logBar2
  repeat' first
    | with_reducible assumption
    | with_reducible apply Closed.draw hP
    | with_reducible apply Closed.ledgerReq hP
    | with_reducible apply hP.modPcie
    | intro _
    | split
    | dsimp only
    | dsimp only [id]

theorem selftestCmd (hP : Closed W P) (img : MbImage) {s : State} (w1 : W .weaver) (w2 : W .ledger)
    (w3 : ∀ x1', W (.chan x1')) (w4 : W (.queue 2)) (w5 : W .station) (w6 : W .mbx)
    (w7 : ∀ x1', W (.reg (MC_STATUS x1'))) (w8 : ∀ x1' x2', W (.reg (MC_TRN_ERR x1' x2')))
    (w9 : ∀ x1', W (.reg (MC_TRN_FAIL_BITS x1'))) (w10 : ∀ x1', W (.reg (MC_STEPDOWNS x1')))
    (w11 : W (.reg HUB_GUAR_INGEST)) (w12 : W (.reg HUB_HEALTH)) (w13 : W (.reg (HUB_Q 2 16)))
    (w14 : W (.reg (HUB_Q 2 24))) (w15 : W (.reg (HUB_Q 2 20))) (w16 : W (.reg MB_NTF_NSEQ)) (h : P s) :
    P ((selftestCmd img s).1) := by
  unfold Sys2Proof.Machine.selftestCmd
  repeat' first
    | with_reducible assumption
    | with_reducible exact w3 _
    | with_reducible exact w7 _
    | with_reducible exact w8 _ _
    | with_reducible exact w9 _
    | with_reducible exact w10 _
    | with_reducible apply Closed.each hP
    | with_reducible apply Closed.checked hP
    | with_reducible apply Closed.ledgerReq hP
    | with_reducible apply Closed.startHostTest hP
    | with_reducible apply Closed.done hP
    | with_reducible apply hP.modWeaver
    | intro _
    | split
    | dsimp only
    | dsimp only [id]

theorem calDue (hP : Closed W P) {s : State} (k : Nat) (temp : Half) (w1 : W (.queue 2)) (w2 : W .station)
    (w3 : W .mbx) (w4 : ∀ x1', W (.reg (LN_STATUS x1'))) (w5 : W (.reg (HUB_Q 2 16))) (w6 : W (.reg (HUB_Q 2 24)))
    (w7 : W (.reg (HUB_Q 2 20))) (w8 : W (.reg MB_NTF_NSEQ)) (h : P s) :
    P (State.calDue s k temp) := by
  unfold State.calDue
  repeat' first
    | with_reducible assumption
    | with_reducible exact w4 _
    | with_reducible apply Closed.each hP
    | with_reducible apply Closed.setRegBit hP
    | with_reducible apply Closed.notice hP
    | intro _
    | split
    | dsimp only
    | dsimp only [id]

theorem wake (hP : Closed W P) {s : State} (cd0 : Half) (cd1 : Half) (w1 : W .drawn) (w2 : W .fw)
    (w3 : ∀ x1', W (.chan x1')) (w4 : W .power) (w5 : W .time) (w6 : W .ledger) (w7 : ∀ x1', W (.lane x1'))
    (w8 : ∀ x1', W (.port x1')) (w9 : W (.queue 2)) (w10 : W .station) (w11 : W .mbx) (w12 : ∀ a, W (.reg a))
    (h : P s) :
    P (State.wake s cd0 cd1) := by
  unfold State.wake
  repeat' first
    | with_reducible assumption
    | with_reducible exact w3 _
    | with_reducible exact w7 _
    | with_reducible exact w8 _
    | with_reducible exact w12 _
    | with_reducible apply Closed.each hP
    | with_reducible apply Closed.wakeChannel hP
    | with_reducible apply Closed.restartCounters hP
    | with_reducible apply Closed.enterState hP
    | with_reducible apply Closed.startPorts hP
    | with_reducible apply Closed.startComparators hP
    | with_reducible apply Closed.calDue hP
    | with_reducible apply hP.modTime
    | with_reducible apply hP.modPower
    | intro _
    | split
    | dsimp only
    | dsimp only [id]

theorem snapshotSwapCmd (hP : Closed W P) (img : MbImage) {s : State} (w1 : ∀ x1', W (.hist x1')) (w2 : W .drawn)
    (w3 : ∀ x1', W (.sched x1')) (w4 : W .pcie) (w5 : ∀ x1', W (.image x1'))
    (w6 : ∀ x1' x2' x3', W (.reg (HU_RG x1' x2' x3'))) (h : P s) :
    P ((snapshotSwapCmd img s).1) := by
  unfold Sys2Proof.Machine.snapshotSwapCmd
  repeat' first
    | with_reducible assumption
    | with_reducible exact w1 _
    | with_reducible exact w3 _
    | with_reducible exact w5 _
    | with_reducible exact w6 _ _ _
    | with_reducible apply Closed.draw hP
    | with_reducible apply Closed.refuse hP
    | with_reducible apply Closed.histSwap hP
    | with_reducible apply Closed.fetchImage hP
    | with_reducible apply Closed.done hP
    | intro _
    | split
    | dsimp only
    | dsimp only [id]

theorem binValue (hP : Closed W P) {s : State} (hu : Nat) (v : HistValue) (parity : Bool) (w1 : W (.hist hu))
    (w2 : ∀ x1' x2', W (.reg (HU_RG hu x1' x2'))) (w3 : W (.reg (HU_PARITY hu))) (h : P s) :
    P (State.binValue s hu v parity) := by
  unfold State.binValue
  repeat' first
    | with_reducible assumption
    | with_reducible exact w2 _ _
    | with_reducible apply Closed.rgCount hP
    | with_reducible apply Closed.binAt hP
    | intro _
    | split
    | dsimp only
    | dsimp only [id]

theorem finishStep (hP : Closed W P) {s : State} (cu : Nat) (at_ : Time) (w1 : W (.cmp cu))
    (w2 : ∀ x1', W (.stream x1')) (w3 : ∀ x1', W (.sched x1')) (w4 : W .trig) (w5 : W .drawn) (w6 : W (.queue 1))
    (w7 : W .station) (w8 : W (.reg (CU cu 24))) (w9 : W (.reg (CU cu 36))) (w10 : W (.reg (HUB_Q 1 16)))
    (w11 : W (.reg (HUB_Q 1 24))) (w12 : W (.reg (HUB_Q 1 20))) (w13 : W (.reg (CU cu 12)))
    (w14 : W (.reg (CU cu 28))) (w15 : W (.reg (CU cu 32))) (w16 : W (.reg (CU cu 16)))
    (w17 : W (.reg (CU cu 16 + 4))) (h : P s) :
    P (State.finishStep s cu at_) := by
  unfold State.finishStep
  repeat' first
    | with_reducible assumption
    | with_reducible exact w2 _
    | with_reducible exact w3 _
    | with_reducible apply Closed.each hP
    | with_reducible apply Closed.advanceTo hP
    | with_reducible apply Closed.unjudge hP
    | with_reducible apply Closed.dropItem hP
    | with_reducible apply Closed.issueVerdict hP
    | with_reducible apply Closed.nextBegin hP
    | with_reducible apply Closed.cuState hP
    | with_reducible apply Closed.modCmp hP
    | intro _
    | split
    | dsimp only
    | dsimp only [id]

theorem bar2Write (hP : Closed W P) {s : State} (off : BitVec 36) (data : List Byte) (poisoned : Bool)
    (w1 : W .drawn) (w2 : W .pcie) (w3 : W .ledger) (w4 : ∀ x1', W (.sched x1')) (w5 : W .dram)
    (w6 : W (.reg PCI_BAR2_UR)) (w7 : W (.reg PCI_BAR2_UR_ADDR_LO)) (w8 : W (.reg PCI_BAR2_UR_ADDR_HI))
    (w9 : W (.reg PCI_BAR2_WDROP)) (h : P s) :
    P (State.bar2Write s off data poisoned) := by
  unfold State.bar2Write
  repeat' first
    | with_reducible assumption
    | with_reducible exact w4 _
    | with_reducible apply Closed.memPut hP
    | with_reducible apply Closed.seeWrite hP
    | with_reducible apply Closed.bar2Invalid hP
    | with_reducible apply Closed.incReg hP
    | with_reducible apply Closed.logBar2 hP
    | with_reducible apply Closed.askWriteAt hP
    | intro _
    | split
    | dsimp only
    | dsimp only [id]

theorem clearBusMaster (hP : Closed W P) {s : State} (w1 : W .pcie) (w2 : W .dram) (w3 : ∀ x1', W (.ref x1'))
    (w4 : ∀ x1', W (.box x1')) (w5 : W (.reg PCI_BME_CLEARS)) (h : P s) :
    P (State.clearBusMaster s) := by
  unfold State.clearBusMaster
  repeat' first
    | with_reducible assumption
    | with_reducible exact w3 _
    | with_reducible exact w4 _
    | with_reducible apply Closed.each hP
    | with_reducible apply Closed.abandonReads hP
    | with_reducible apply Closed.incReg hP
    | with_reducible apply Closed.failCommand hP
    | with_reducible apply hP.modPcie
    | intro _
    | split
    | dsimp only
    | dsimp only [id]

theorem commitRevertCmd (hP : Closed W P) (x0 : MbImage) {s : State} (w1 : W .weaver) (h : P s) :
    P ((commitRevertCmd x0 s).1) := by
  unfold Sys2Proof.Machine.commitRevertCmd
  repeat' first
    | with_reducible assumption
    | with_reducible apply Closed.refuse hP
    | with_reducible apply Closed.done hP
    | with_reducible apply hP.modWeaver
    | intro _
    | split
    | dsimp only
    | dsimp only [id]

theorem frame (hP : Closed W P) {s : State} (p : Nat) (f : Nat) (fr : PodFrame) (w1 : W (.port p))
    (w2 : ∀ x1', W (.stream x1')) (w3 : ∀ x1', W (.sched x1')) (w4 : ∀ x1', W (.ival x1'))
    (w5 : ∀ x1', W (.cmp x1')) (w6 : W .trig) (w7 : W .drawn) (w8 : ∀ x1', W (.hist x1'))
    (w9 : W (.reg (PP_BAD_FRAMES p))) (w10 : ∀ x1', W (.reg (CU x1' 36))) (w11 : W (.reg (PP_LOST_LINK p)))
    (w12 : ∀ x1', W (.reg (CU x1' 40))) (w13 : ∀ x1' x2' x3', W (.reg (HU_RG x1' x2' x3')))
    (w14 : ∀ x1', W (.reg (HU_OVERFLOW x1'))) (h : P s) :
    P (State.frame s p f fr) := by
  unfold State.frame
  repeat' first
    | with_reducible assumption
    | with_reducible exact w2 _
    | with_reducible exact w3 _
    | with_reducible exact w4 _
    | with_reducible exact w5 _
    | with_reducible exact w8 _
    | with_reducible exact w10 _
    | with_reducible exact w12 _
    | with_reducible exact w13 _ _ _
    | with_reducible exact w14 _
    | with_reducible apply Closed.each hP
    | with_reducible apply Closed.badFrames hP
    | with_reducible apply Closed.incReg hP
    | with_reducible apply Closed.linkLossEnd hP
    | with_reducible apply Closed.modPod hP
    | with_reducible apply Closed.podWord hP
    | with_reducible apply Closed.linkLossAdd hP
    | intro _
    | split
    | dsimp only
    | dsimp only [id]

theorem disarmCmd (hP : Closed W P) (x0 : MbImage) {s : State} (w1 : W .time) (w2 : W (.queue 0)) (w3 : W .station)
    (w4 : ∀ x1', W (.stream x1')) (w5 : ∀ x1', W (.sched x1')) (w6 : ∀ x1', W (.cmp x1')) (w7 : W .weaver)
    (w8 : W .trig) (w9 : ∀ x1', W (.port x1')) (w10 : ∀ x1', W (.hist x1')) (w11 : ∀ x1', W (.seq x1'))
    (w12 : ∀ x1', W (.ival x1')) (w13 : ∀ x1', W (.tout x1')) (w14 : W (.queue 1)) (w15 : W .drawn)
    (w16 : W .ledger) (w17 : ∀ x1', W (.box x1')) (w18 : ∀ x1', W (.lane x1'))
    (w19 : ∀ x1', W (.queue (stakeQ x1'))) (w20 : W .pcie) (w21 : W (.queue 2)) (w22 : W .mbx)
    (w23 : ∀ a, W (.reg a)) (h : P s) :
    P ((disarmCmd x0 s).1) := by
  unfold Sys2Proof.Machine.disarmCmd
  repeat' first
    | with_reducible assumption
    | with_reducible exact w4 _
    | with_reducible exact w5 _
    | with_reducible exact w6 _
    | with_reducible exact w9 _
    | with_reducible exact w10 _
    | with_reducible exact w11 _
    | with_reducible exact w12 _
    | with_reducible exact w13 _
    | with_reducible exact w17 _
    | with_reducible exact w18 _
    | with_reducible exact w19 _
    | with_reducible exact w23 _
    | with_reducible apply Closed.done hP
    | with_reducible apply Closed.disarm hP
    | intro _
    | split
    | dsimp only
    | dsimp only [id]

theorem startCompareCmd (hP : Closed W P) (img : MbImage) {s : State} (w1 : W .weaver) (h : P s) :
    P ((startCompareCmd img s).1) := by
  unfold Sys2Proof.Machine.startCompareCmd
  repeat' first
    | with_reducible assumption
    | with_reducible apply Closed.checked hP
    | with_reducible apply Closed.done hP
    | with_reducible apply Closed.stageDef hP
    | intro _
    | split
    | dsimp only
    | dsimp only [id]

theorem setTemp (hP : Closed W P) {s : State} (d : Die) (t : Half) (w1 : W .power) (h : P s) :
    P (State.setTemp s d t) := by
  unfold State.setTemp
  repeat' first
    | with_reducible assumption
    | with_reducible apply hP.modPower
    | intro _
    | split
    | dsimp only
    | dsimp only [id]

theorem ledgerReadCmd (hP : Closed W P) (img : MbImage) {s : State} (w1 : W (.queue 2)) (w2 : W .station)
    (w3 : W .mbx) (w4 : W .ledger) (w5 : W .weaver) (w6 : W (.queue 3)) (w7 : W .drawn) (w8 : W .pcie)
    (w9 : W (.reg LG_FLUSHES)) (w10 : W (.reg LG_VERIFY_FAIL)) (w11 : W (.reg LG_STATUS))
    (w12 : W (.reg (HUB_Q 2 16))) (w13 : W (.reg (HUB_Q 2 24))) (w14 : W (.reg (HUB_Q 2 20)))
    (w15 : W (.reg MB_NTF_NSEQ)) (w16 : W (.reg (HUB_Q 3 16))) (w17 : W (.reg (HUB_Q 3 24)))
    (w18 : W (.reg (HUB_Q 3 20))) (h : P s) :
    P ((ledgerReadCmd img s).1) := by
  unfold Sys2Proof.Machine.ledgerReadCmd
  repeat' first
    | with_reducible assumption
    | with_reducible apply Closed.flushLedger hP
    | with_reducible apply Closed.takeRecords hP
    | with_reducible apply Closed.dmaWrite hP
    | with_reducible apply Closed.done hP
    | intro _
    | split
    | dsimp only
    | dsimp only [id]

theorem switchSlots (hP : Closed W P) {s : State} (p : Nat) (w1 : W (.port p))
    (w2 : ∀ x1', W (.reg (PP_SLOT p x1'))) (w3 : W (.reg (PP_SWITCH p))) (h : P s) :
    P (State.switchSlots s p) := by
  unfold State.switchSlots
  repeat' first
    | with_reducible assumption
    | with_reducible exact w2 _
    | with_reducible apply Closed.each hP
    | with_reducible apply Closed.setRegBit hP
    | with_reducible apply Closed.modPort hP
    | with_reducible apply hP.setReg
    | intro _
    | split
    | dsimp only
    | dsimp only [id]

theorem defineIntervalCmd (hP : Closed W P) (img : MbImage) {s : State} (w1 : W .weaver) (h : P s) :
    P ((defineIntervalCmd img s).1) := by
  unfold Sys2Proof.Machine.defineIntervalCmd
  repeat' first
    | with_reducible assumption
    | with_reducible apply Closed.checked hP
    | with_reducible apply Closed.done hP
    | with_reducible apply Closed.stageDef hP
    | intro _
    | split
    | dsimp only
    | dsimp only [id]

theorem trainingsAge (hP : Closed W P) {s : State} (w1 : ∀ x1', W (.reg (MC_STATUS x1'))) (h : P s) :
    P (State.trainingsAge s) := by
  unfold State.trainingsAge
  repeat' first
    | with_reducible assumption
    | with_reducible exact w1 _
    | with_reducible apply Closed.each hP
    | with_reducible apply Closed.setRegBit hP
    | intro _
    | split
    | dsimp only
    | dsimp only [id]

end Closed

end Sys2Proof.Machine
end

