-- ==== Sys2Proof/Laws/Exec.lean ====
section
/-!
SUPPORT. What every command can change, and a property that every update keeps is kept by every command, so by every step.
-/
namespace Sys2Proof.Machine.Closed

open Sys2Proof.Safety

variable {W : Part → Prop} {P : State → Prop}

theorem runCommand (hP : Closed W P) {s : State} {m code : Nat} {sel : MbImage → Bool}
    {body : MbImage → State → State × Option Response} (hb : ∀ img t, P t → P (body img t).1) (w1 : W (.box m)) (h : P s) :
    P (s.runCommand m code sel body) := by
  unfold State.runCommand
  split
  · exact h
  · split
    · dsimp only
      split
      · exact Closed.respond hP _ _ w1 (hb _ _ h)
      · exact hb _ _ h
    · exact h

theorem execDeviceInfo (hP : Closed W P) (m : Fin 32) {s : State} {t : State} (w1 : W (.box m.val)) (h : P s)
    (ht : execDeviceInfo m s = .next t) : P t := by
  unfold Sys2Proof.Machine.execDeviceInfo at ht
  cases ht
  repeat' first
    | with_reducible assumption
    | with_reducible apply Closed.runCommand hP
    | with_reducible apply Closed.done hP
    | intro _
    | split
    | dsimp only

theorem execGetStatus (hP : Closed W P) (m : Fin 32) {s : State} {t : State} (w1 : W .station) (w2 : W .mbx)
    (w3 : W (.box m.val)) (h : P s)
    (ht : execGetStatus m s = .next t) : P t := by
  unfold Sys2Proof.Machine.execGetStatus at ht
  cases ht
  repeat' first
    | with_reducible assumption
    | with_reducible apply Closed.runCommand hP
    | with_reducible apply Closed.getStatusCmd hP
    | intro _
    | split
    | dsimp only

theorem execGetDigests (hP : Closed W P) (m : Fin 32) {s : State} {t : State} (w1 : W (.box m.val)) (h : P s)
    (ht : execGetDigests m s = .next t) : P t := by
  unfold Sys2Proof.Machine.execGetDigests at ht
  cases ht
  repeat' first
    | with_reducible assumption
    | with_reducible apply Closed.runCommand hP
    | with_reducible apply Closed.done hP
    | intro _
    | split
    | dsimp only

theorem execNotifyRing (hP : Closed W P) (m : Fin 32) {s : State} {t : State} (w1 : W .mbx) (w2 : W (.box m.val))
    (w3 : W (.reg MB_NTF_CFG)) (w4 : W (.reg MB_NTF_TAIL)) (w5 : W (.reg MB_NTF_HEAD)) (h : P s)
    (ht : execNotifyRing m s = .next t) : P t := by
  unfold Sys2Proof.Machine.execNotifyRing at ht
  cases ht
  repeat' first
    | with_reducible assumption
    | with_reducible apply Closed.runCommand hP
    | with_reducible apply Closed.notifyRingCmd hP
    | intro _
    | split
    | dsimp only

theorem execCreate (hP : Closed W P) (m : Fin 32) {s : State} {t : State} (w1 : W .weaver)
    (w2 : ∀ x1', W (.stream x1')) (w3 : W (.box m.val)) (h : P s)
    (ht : execCreate m s = .next t) : P t := by
  unfold Sys2Proof.Machine.execCreate at ht
  cases ht
  repeat' first
    | with_reducible assumption
    | with_reducible exact w2 _
    | with_reducible apply Closed.runCommand hP
    | with_reducible apply Closed.createCmd hP
    | intro _
    | split
    | dsimp only

theorem execDestroy (hP : Closed W P) (m : Fin 32) {s : State} {t : State} (w1 : W .weaver) (w2 : W .dram)
    (w3 : ∀ x1', W (.stream x1')) (w4 : ∀ x1', W (.ref x1')) (w5 : ∀ x1', W (.hist x1'))
    (w6 : ∀ x1', W (.image x1')) (w7 : W (.box m.val)) (h : P s)
    (ht : execDestroy m s = .next t) : P t := by
  unfold Sys2Proof.Machine.execDestroy at ht
  cases ht
  repeat' first
    | with_reducible assumption
    | with_reducible exact w3 _
    | with_reducible exact w4 _
    | with_reducible exact w5 _
    | with_reducible exact w6 _
    | with_reducible apply Closed.runCommand hP
    | with_reducible apply Closed.destroyCmd hP
    | intro _
    | split
    | dsimp only

theorem execConfigureLanes (hP : Closed W P) (m : Fin 32) {s : State} {t : State} (w1 : W .weaver)
    (w2 : W (.box m.val)) (h : P s)
    (ht : execConfigureLanes m s = .next t) : P t := by
  unfold Sys2Proof.Machine.execConfigureLanes at ht
  cases ht
  repeat' first
    | with_reducible assumption
    | with_reducible apply Closed.runCommand hP
    | with_reducible apply Closed.configureLanesCmd hP
    | intro _
    | split
    | dsimp only

theorem execConfigurePods (hP : Closed W P) (m : Fin 32) {s : State} {t : State} (w1 : W .weaver)
    (w2 : W (.box m.val)) (h : P s)
    (ht : execConfigurePods m s = .next t) : P t := by
  unfold Sys2Proof.Machine.execConfigurePods at ht
  cases ht
  repeat' first
    | with_reducible assumption
    | with_reducible apply Closed.runCommand hP
    | with_reducible apply Closed.configurePodsCmd hP
    | intro _
    | split
    | dsimp only

theorem execDefineSequenceLevels (hP : Closed W P) (m : Fin 32) {s : State} {t : State} (w1 : W .weaver)
    (w2 : W (.box m.val)) (h : P s)
    (ht : execDefineSequenceLevels m s = .next t) : P t := by
  unfold Sys2Proof.Machine.execDefineSequenceLevels at ht
  cases ht
  repeat' first
    | with_reducible assumption
    | with_reducible apply Closed.runCommand hP
    | with_reducible apply Closed.defineSequenceLevelsCmd hP
    | intro _
    | split
    | dsimp only

theorem execDefineSequenceTerms (hP : Closed W P) (m : Fin 32) {s : State} {t : State} (w1 : W .weaver)
    (w2 : W (.box m.val)) (h : P s)
    (ht : execDefineSequenceTerms m s = .next t) : P t := by
  unfold Sys2Proof.Machine.execDefineSequenceTerms at ht
  cases ht
  repeat' first
    | with_reducible assumption
    | with_reducible apply Closed.runCommand hP
    | with_reducible apply Closed.defineSequenceTermsCmd hP
    | intro _
    | split
    | dsimp only

theorem execDefineHistogram (hP : Closed W P) (m : Fin 32) {s : State} {t : State} (w1 : W .weaver)
    (w2 : W (.box m.val)) (h : P s)
    (ht : execDefineHistogram m s = .next t) : P t := by
  unfold Sys2Proof.Machine.execDefineHistogram at ht
  cases ht
  repeat' first
    | with_reducible assumption
    | with_reducible apply Closed.runCommand hP
    | with_reducible apply Closed.defineHistogramCmd hP
    | intro _
    | split
    | dsimp only

theorem execDefineInterval (hP : Closed W P) (m : Fin 32) {s : State} {t : State} (w1 : W .weaver)
    (w2 : W (.box m.val)) (h : P s)
    (ht : execDefineInterval m s = .next t) : P t := by
  unfold Sys2Proof.Machine.execDefineInterval at ht
  cases ht
  repeat' first
    | with_reducible assumption
    | with_reducible apply Closed.runCommand hP
    | with_reducible apply Closed.defineIntervalCmd hP
    | intro _
    | split
    | dsimp only

theorem execBindStream (hP : Closed W P) (m : Fin 32) {s : State} {t : State} (w1 : W .weaver) (w2 : W (.box m.val))
    (h : P s)
    (ht : execBindStream m s = .next t) : P t := by
  unfold Sys2Proof.Machine.execBindStream at ht
  cases ht
  repeat' first
    | with_reducible assumption
    | with_reducible apply Closed.runCommand hP
    | with_reducible apply Closed.bindStreamCmd hP
    | intro _
    | split
    | dsimp only

theorem execSetWindow (hP : Closed W P) (m : Fin 32) {s : State} {t : State} (w1 : W .weaver) (w2 : W (.box m.val))
    (h : P s)
    (ht : execSetWindow m s = .next t) : P t := by
  unfold Sys2Proof.Machine.execSetWindow at ht
  cases ht
  repeat' first
    | with_reducible assumption
    | with_reducible apply Closed.runCommand hP
    | with_reducible apply Closed.setWindowCmd hP
    | intro _
    | split
    | dsimp only

theorem execStartCompare (hP : Closed W P) (m : Fin 32) {s : State} {t : State} (w1 : W .weaver)
    (w2 : W (.box m.val)) (h : P s)
    (ht : execStartCompare m s = .next t) : P t := by
  unfold Sys2Proof.Machine.execStartCompare at ht
  cases ht
  repeat' first
    | with_reducible assumption
    | with_reducible apply Closed.runCommand hP
    | with_reducible apply Closed.startCompareCmd hP
    | intro _
    | split
    | dsimp only

theorem execCommit (hP : Closed W P) (m : Fin 32) {s : State} {t : State} (w1 : W .drawn) (w2 : W .weaver)
    (w3 : ∀ x1', W (.lane x1')) (w4 : ∀ x1', W (.queue (stakeQ x1'))) (w5 : ∀ x1', W (.stream x1'))
    (w6 : ∀ x1', W (.sched x1')) (w7 : ∀ x1', W (.seq x1')) (w8 : ∀ x1', W (.ival x1')) (w9 : ∀ x1', W (.tout x1'))
    (w10 : ∀ x1', W (.cmp x1')) (w11 : W (.queue 1)) (w12 : W .station) (w13 : ∀ x1', W (.hist x1'))
    (w14 : W .ledger) (w15 : ∀ x1', W (.box x1')) (w16 : W .pcie) (w17 : W (.queue 2)) (w18 : W .mbx)
    (w19 : ∀ x1', W (.port x1')) (w20 : W .fw) (w21 : ∀ x1', W (.de x1')) (w22 : ∀ x1', W (.chan x1'))
    (w23 : W .trig) (w24 : W .dram) (w25 : ∀ x1', W (.ref x1')) (w26 : ∀ x1', W (.image x1')) (w27 : W .time)
    (w28 : ∀ a, W (.reg a)) (h : P s)
    (ht : execCommit m s = .next t) : P t := by
  unfold Sys2Proof.Machine.execCommit at ht
  cases ht
  repeat' first
    | with_reducible assumption
    | with_reducible exact w3 _
    | with_reducible exact w4 _
    | with_reducible exact w5 _
    | with_reducible exact w6 _
    | with_reducible exact w7 _
    | with_reducible exact w8 _
    | with_reducible exact w9 _
    | with_reducible exact w10 _
    | with_reducible exact w13 _
    | with_reducible exact w15 _
    | with_reducible exact w19 _
    | with_reducible exact w21 _
    | with_reducible exact w22 _
    | with_reducible exact w25 _
    | with_reducible exact w26 _
    | with_reducible exact w28 _
    | with_reducible apply Closed.runCommand hP
    | with_reducible apply Closed.commitCmd hP
    | intro _
    | split
    | dsimp only

theorem execCommitRevert (hP : Closed W P) (m : Fin 32) {s : State} {t : State} (w1 : W .weaver)
    (w2 : W (.box m.val)) (h : P s)
    (ht : execCommitRevert m s = .next t) : P t := by
  unfold Sys2Proof.Machine.execCommitRevert at ht
  cases ht
  repeat' first
    | with_reducible assumption
    | with_reducible apply Closed.runCommand hP
    | with_reducible apply Closed.commitRevertCmd hP
    | intro _
    | split
    | dsimp only

theorem execQueryPlacement (hP : Closed W P) (m : Fin 32) {s : State} {t : State} (w1 : W .drawn) (w2 : W .pcie)
    (w3 : W (.box m.val)) (h : P s)
    (ht : execQueryPlacement m s = .next t) : P t := by
  unfold Sys2Proof.Machine.execQueryPlacement at ht
  cases ht
  repeat' first
    | with_reducible assumption
    | with_reducible apply Closed.runCommand hP
    | with_reducible apply Closed.queryPlacementCmd hP
    | intro _
    | split
    | dsimp only

theorem execArm (hP : Closed W P) (m : Fin 32) {s : State} {t : State} (w1 : ∀ x1', W (.sched x1'))
    (w2 : ∀ x1', W (.stream x1')) (w3 : W .time) (w4 : ∀ x1', W (.port x1')) (w5 : ∀ x1', W (.tout x1'))
    (w6 : W .ledger) (w7 : W .trig) (w8 : ∀ x1', W (.lane x1')) (w9 : ∀ x1', W (.queue (stakeQ x1')))
    (w10 : ∀ x1', W (.seq x1')) (w11 : ∀ x1', W (.box x1')) (w12 : ∀ x1', W (.hist x1'))
    (w13 : ∀ x1', W (.ival x1')) (w14 : ∀ x1', W (.cmp x1')) (w15 : W .weaver) (w16 : W (.reg PWR_STATE))
    (w17 : W (.reg STN_SYNC)) (w18 : ∀ x1', W (.reg (SQ_STATUS x1'))) (w19 : ∀ x1', W (.reg (SQ_DEAD_LO x1')))
    (w20 : ∀ x1', W (.reg (SQ_DEAD_LO x1' + 4))) (w21 : ∀ x1', W (.reg (SQ_MISSED x1')))
    (w22 : ∀ x1', W (.reg (SQ_FOLDED x1'))) (w23 : ∀ x1' x2', W (.reg (SQ_CNT_LO x1' x2')))
    (w24 : ∀ x1' x2', W (.reg (SQ_CNT_LO x1' x2' + 4))) (w25 : ∀ x1' x2', W (.reg (SQ_TMR_LO x1' x2')))
    (w26 : ∀ x1' x2', W (.reg (SQ_TMR_HI x1' x2'))) (w27 : ∀ x1' x2' x3', W (.reg (HU_RG x1' x2' x3')))
    (w28 : ∀ x1' x2', W (.reg (IU x1' x2'))) (w29 : ∀ x1', W (.reg (CU x1' 12))) (w30 : ∀ x1', W (.reg (CU x1' 36)))
    (h : P s)
    (ht : execArm m s = .next t) : P t := by
  unfold Sys2Proof.Machine.execArm at ht
  cases ht
  repeat' first
    | with_reducible assumption
    | with_reducible exact w1 _
    | with_reducible exact w2 _
    | with_reducible exact w4 _
    | with_reducible exact w5 _
    | with_reducible exact w8 _
    | with_reducible exact w9 _
    | with_reducible exact w10 _
    | with_reducible exact w11 _
    | with_reducible exact w12 _
    | with_reducible exact w13 _
    | with_reducible exact w14 _
    | with_reducible exact w18 _
    | with_reducible exact w19 _
    | with_reducible exact w20 _
    | with_reducible exact w21 _
    | with_reducible exact w22 _
    | with_reducible exact w23 _ _
    | with_reducible exact w24 _ _
    | with_reducible exact w25 _ _
    | with_reducible exact w26 _ _
    | with_reducible exact w27 _ _ _
    | with_reducible exact w28 _ _
    | with_reducible exact w29 _
    | with_reducible exact w30 _
    | with_reducible apply Closed.runCommand hP
    | with_reducible apply Closed.armCmd hP
    | intro _
    | split
    | dsimp only

theorem execArmSync (hP : Closed W P) (m : Fin 32) {s : State} {t : State} (w1 : W .time) (w2 : W (.box m.val))
    (w3 : W (.reg STN_SYNC)) (h : P s)
    (ht : execArmSync m s = .next t) : P t := by
  unfold Sys2Proof.Machine.execArmSync at ht
  cases ht
  repeat' first
    | with_reducible assumption
    | with_reducible apply Closed.runCommand hP
    | with_reducible apply Closed.armSyncCmd hP
    | intro _
    | split
    | dsimp only

theorem execDisarm (hP : Closed W P) (m : Fin 32) {s : State} {t : State} (w1 : W .time) (w2 : W (.queue 0))
    (w3 : W .station) (w4 : ∀ x1', W (.stream x1')) (w5 : ∀ x1', W (.sched x1')) (w6 : ∀ x1', W (.cmp x1'))
    (w7 : W .weaver) (w8 : W .trig) (w9 : ∀ x1', W (.port x1')) (w10 : ∀ x1', W (.hist x1'))
    (w11 : ∀ x1', W (.seq x1')) (w12 : ∀ x1', W (.ival x1')) (w13 : ∀ x1', W (.tout x1')) (w14 : W (.queue 1))
    (w15 : W .drawn) (w16 : W .ledger) (w17 : ∀ x1', W (.box x1')) (w18 : ∀ x1', W (.lane x1'))
    (w19 : ∀ x1', W (.queue (stakeQ x1'))) (w20 : W .pcie) (w21 : W (.queue 2)) (w22 : W .mbx)
    (w23 : ∀ a, W (.reg a)) (h : P s)
    (ht : execDisarm m s = .next t) : P t := by
  unfold Sys2Proof.Machine.execDisarm at ht
  cases ht
  repeat' first
    | with_reducible assumption
    | with_reducible exact w4 _
    | with_reducible exact w5 _
    | with_reducible exact w6 _
    | with_reducible exact w9 _
    | with_reducible exact w10 _
    | with_reducible exact w11 _
    | with_reducible exact w12 _
    | with_reducible exact w13 _
    | with_reducible exact w17 _
    | with_reducible exact w18 _
    | with_reducible exact w19 _
    | with_reducible exact w23 _
    | with_reducible apply Closed.runCommand hP
    | with_reducible apply Closed.disarmCmd hP
    | intro _
    | split
    | dsimp only

theorem execForceMark (hP : Closed W P) (m : Fin 32) {s : State} {t : State} (w1 : ∀ x1', W (.seq x1'))
    (w2 : W (.box m.val)) (h : P s)
    (ht : execForceMark m s = .next t) : P t := by
  unfold Sys2Proof.Machine.execForceMark at ht
  cases ht
  repeat' first
    | with_reducible assumption
    | with_reducible exact w1 _
    | with_reducible apply Closed.runCommand hP
    | with_reducible apply Closed.forceMarkCmd hP
    | intro _
    | split
    | dsimp only

theorem execAbortStream (hP : Closed W P) (m : Fin 32) {s : State} {t : State} (w1 : ∀ x1', W (.stream x1'))
    (w2 : W .pcie) (w3 : W (.queue 2)) (w4 : W .station) (w5 : W .mbx) (w6 : ∀ x1', W (.sched x1'))
    (w7 : W (.box m.val)) (w8 : ∀ x1', W (.reg (CE x1' 12))) (w9 : ∀ x1', W (.reg (CE x1' 12 + 4)))
    (w10 : ∀ x1', W (.reg (CE x1' 20))) (w11 : ∀ x1' x2', W (.reg (CE_SLOT x1' x2')))
    (w12 : ∀ x1', W (.reg (CE x1' 0))) (w13 : W (.reg (HUB_Q 2 16))) (w14 : W (.reg (HUB_Q 2 24)))
    (w15 : W (.reg (HUB_Q 2 20))) (w16 : W (.reg MB_NTF_NSEQ)) (h : P s)
    (ht : execAbortStream m s = .next t) : P t := by
  unfold Sys2Proof.Machine.execAbortStream at ht
  cases ht
  repeat' first
    | with_reducible assumption
    | with_reducible exact w1 _
    | with_reducible exact w6 _
    | with_reducible exact w8 _
    | with_reducible exact w9 _
    | with_reducible exact w10 _
    | with_reducible exact w11 _ _
    | with_reducible exact w12 _
    | with_reducible apply Closed.runCommand hP
    | with_reducible apply Closed.abortStreamCmd hP
    | intro _
    | split
    | dsimp only

theorem execAbortCompareJob (hP : Closed W P) (m : Fin 32) {s : State} {t : State} (w1 : W (.queue 1))
    (w2 : W .station) (w3 : ∀ x1', W (.stream x1')) (w4 : ∀ x1', W (.sched x1')) (w5 : ∀ x1', W (.cmp x1'))
    (w6 : W (.box m.val)) (w7 : W (.reg (HUB_Q 1 16))) (w8 : W (.reg (HUB_Q 1 24))) (w9 : W (.reg (HUB_Q 1 20)))
    (w10 : ∀ x1', W (.reg (CU x1' 12))) (w11 : ∀ x1', W (.reg (CU x1' 28))) (w12 : ∀ x1', W (.reg (CU x1' 32)))
    (h : P s)
    (ht : execAbortCompareJob m s = .next t) : P t := by
  unfold Sys2Proof.Machine.execAbortCompareJob at ht
  cases ht
  repeat' first
    | with_reducible assumption
    | with_reducible exact w3 _
    | with_reducible exact w4 _
    | with_reducible exact w5 _
    | with_reducible exact w10 _
    | with_reducible exact w11 _
    | with_reducible exact w12 _
    | with_reducible apply Closed.runCommand hP
    | with_reducible apply Closed.abortCompareCmd hP
    | intro _
    | split
    | dsimp only

theorem execAbortCommand (hP : Closed W P) (m : Fin 32) {s : State} {t : State} (w1 : W .dram)
    (w2 : ∀ x1', W (.ref x1')) (w3 : W .mbx) (w4 : ∀ x1', W (.box x1')) (h : P s)
    (ht : execAbortCommand m s = .next t) : P t := by
  unfold Sys2Proof.Machine.execAbortCommand at ht
  cases ht
  repeat' first
    | with_reducible assumption
    | with_reducible exact w2 _
    | with_reducible exact w4 _
    | with_reducible apply Closed.runCommand hP
    | with_reducible apply Closed.abortCommandCmd hP
    | intro _
    | split
    | dsimp only

theorem execLoadReference (hP : Closed W P) (m : Fin 32) {s : State} {t : State} (w1 : ∀ x1', W (.ref x1'))
    (w2 : W .dram) (w3 : ∀ x1', W (.sched x1')) (w4 : ∀ x1', W (.de x1')) (w5 : W .drawn) (w6 : W .ledger)
    (w7 : W .pcie) (w8 : W (.box m.val)) (w9 : ∀ x1', W (.reg (DE x1' 40))) (w10 : ∀ x1', W (.reg (DE x1' 12)))
    (w11 : ∀ x1', W (.reg (DE x1' 4))) (w12 : ∀ x1', W (.reg (DE x1' 4 + 4))) (w13 : ∀ x1', W (.reg (DE x1' 16)))
    (w14 : ∀ x1', W (.reg (DE x1' 20))) (w15 : ∀ x1', W (.reg (DE x1' 24))) (w16 : ∀ x1', W (.reg (DE x1' 28)))
    (w17 : ∀ x1', W (.reg (DE x1' 32))) (w18 : ∀ x1', W (.reg (DE x1' 36))) (h : P s)
    (ht : execLoadReference m s = .next t) : P t := by
  unfold Sys2Proof.Machine.execLoadReference at ht
  cases ht
  repeat' first
    | with_reducible assumption
    | with_reducible exact w1 _
    | with_reducible exact w3 _
    | with_reducible exact w4 _
    | with_reducible exact w9 _
    | with_reducible exact w10 _
    | with_reducible exact w11 _
    | with_reducible exact w12 _
    | with_reducible exact w13 _
    | with_reducible exact w14 _
    | with_reducible exact w15 _
    | with_reducible exact w16 _
    | with_reducible exact w17 _
    | with_reducible exact w18 _
    | with_reducible apply Closed.runCommand hP
    | with_reducible apply Closed.loadReferenceCmd hP
    | intro _
    | split
    | dsimp only

theorem execHistogramSnapshotSwap (hP : Closed W P) (m : Fin 32) {s : State} {t : State} (w1 : ∀ x1', W (.hist x1'))
    (w2 : W .drawn) (w3 : ∀ x1', W (.sched x1')) (w4 : W .pcie) (w5 : ∀ x1', W (.image x1')) (w6 : W (.box m.val))
    (w7 : ∀ x1' x2' x3', W (.reg (HU_RG x1' x2' x3'))) (h : P s)
    (ht : execHistogramSnapshotSwap m s = .next t) : P t := by
  unfold Sys2Proof.Machine.execHistogramSnapshotSwap at ht
  cases ht
  repeat' first
    | with_reducible assumption
    | with_reducible exact w1 _
    | with_reducible exact w3 _
    | with_reducible exact w5 _
    | with_reducible exact w7 _ _ _
    | with_reducible apply Closed.runCommand hP
    | with_reducible apply Closed.snapshotSwapCmd hP
    | intro _
    | split
    | dsimp only

theorem execHistogramSnapshotFetch (hP : Closed W P) (m : Fin 32) {s : State} {t : State} (w1 : W .drawn)
    (w2 : ∀ x1', W (.sched x1')) (w3 : W .pcie) (w4 : ∀ x1', W (.image x1')) (w5 : W (.box m.val)) (h : P s)
    (ht : execHistogramSnapshotFetch m s = .next t) : P t := by
  unfold Sys2Proof.Machine.execHistogramSnapshotFetch at ht
  cases ht
  repeat' first
    | with_reducible assumption
    | with_reducible exact w2 _
    | with_reducible exact w4 _
    | with_reducible apply Closed.runCommand hP
    | with_reducible apply Closed.snapshotFetchCmd hP
    | intro _
    | split
    | dsimp only

theorem execHistogramClear (hP : Closed W P) (m : Fin 32) {s : State} {t : State} (w1 : ∀ x1', W (.hist x1'))
    (w2 : W (.box m.val)) (h : P s)
    (ht : execHistogramClear m s = .next t) : P t := by
  unfold Sys2Proof.Machine.execHistogramClear at ht
  cases ht
  repeat' first
    | with_reducible assumption
    | with_reducible exact w1 _
    | with_reducible apply Closed.runCommand hP
    | with_reducible apply Closed.histogramClearCmd hP
    | intro _
    | split
    | dsimp only

theorem execAnnotate (hP : Closed W P) (m : Fin 32) {s : State} {t : State} (w1 : ∀ x1', W (.stream x1'))
    (w2 : ∀ x1', W (.sched x1')) (w3 : W (.box m.val)) (h : P s)
    (ht : execAnnotate m s = .next t) : P t := by
  unfold Sys2Proof.Machine.execAnnotate at ht
  cases ht
  repeat' first
    | with_reducible assumption
    | with_reducible exact w1 _
    | with_reducible exact w2 _
    | with_reducible apply Closed.runCommand hP
    | with_reducible apply Closed.annotateCmd hP
    | intro _
    | split
    | dsimp only

theorem execTimeNote (hP : Closed W P) (m : Fin 32) {s : State} {t : State} (w1 : W .ledger) (w2 : W .drawn)
    (w3 : W (.queue 3)) (w4 : W .station) (w5 : W (.queue 2)) (w6 : W .mbx) (w7 : W (.box m.val))
    (w8 : W (.reg LG_REFUSED)) (w9 : W (.reg LG_STATUS)) (w10 : W (.reg LG_NEXT_SEQ_LO))
    (w11 : W (.reg (LG_NEXT_SEQ_LO + 4))) (w12 : W (.reg (HUB_Q 3 16))) (w13 : W (.reg (HUB_Q 3 24)))
    (w14 : W (.reg (HUB_Q 3 20))) (w15 : W (.reg (HUB_Q 2 16))) (w16 : W (.reg (HUB_Q 2 24)))
    (w17 : W (.reg (HUB_Q 2 20))) (w18 : W (.reg MB_NTF_NSEQ)) (h : P s)
    (ht : execTimeNote m s = .next t) : P t := by
  unfold Sys2Proof.Machine.execTimeNote at ht
  cases ht
  repeat' first
    | with_reducible assumption
    | with_reducible apply Closed.runCommand hP
    | with_reducible apply Closed.timeNoteCmd hP
    | intro _
    | split
    | dsimp only

theorem execLedgerRead (hP : Closed W P) (m : Fin 32) {s : State} {t : State} (w1 : W (.queue 2)) (w2 : W .station)
    (w3 : W .mbx) (w4 : W .ledger) (w5 : W .weaver) (w6 : W (.queue 3)) (w7 : W .drawn) (w8 : W .pcie)
    (w9 : W (.box m.val)) (w10 : W (.reg LG_FLUSHES)) (w11 : W (.reg LG_VERIFY_FAIL)) (w12 : W (.reg LG_STATUS))
    (w13 : W (.reg (HUB_Q 2 16))) (w14 : W (.reg (HUB_Q 2 24))) (w15 : W (.reg (HUB_Q 2 20)))
    (w16 : W (.reg MB_NTF_NSEQ)) (w17 : W (.reg (HUB_Q 3 16))) (w18 : W (.reg (HUB_Q 3 24)))
    (w19 : W (.reg (HUB_Q 3 20))) (h : P s)
    (ht : execLedgerRead m s = .next t) : P t := by
  unfold Sys2Proof.Machine.execLedgerRead at ht
  cases ht
  repeat' first
    | with_reducible assumption
    | with_reducible apply Closed.runCommand hP
    | with_reducible apply Closed.ledgerReadCmd hP
    | intro _
    | split
    | dsimp only

theorem execLedgerClearChallenge (hP : Closed W P) (m : Fin 32) {s : State} {t : State} (w1 : W .drawn)
    (w2 : W .ledger) (w3 : W (.box m.val)) (h : P s)
    (ht : execLedgerClearChallenge m s = .next t) : P t := by
  unfold Sys2Proof.Machine.execLedgerClearChallenge at ht
  cases ht
  repeat' first
    | with_reducible assumption
    | with_reducible apply Closed.runCommand hP
    | with_reducible apply Closed.ledgerChallengeCmd hP
    | intro _
    | split
    | dsimp only

theorem execLedgerClear (hP : Closed W P) (m : Fin 32) {s : State} {t : State} (w1 : W (.queue 2)) (w2 : W .station)
    (w3 : W .mbx) (w4 : W .ledger) (w5 : W .weaver) (w6 : W (.queue 3)) (w7 : W .drawn) (w8 : W (.box m.val))
    (w9 : W (.reg LG_FLUSHES)) (w10 : W (.reg LG_VERIFY_FAIL)) (w11 : W (.reg LG_STATUS))
    (w12 : W (.reg (HUB_Q 2 16))) (w13 : W (.reg (HUB_Q 2 24))) (w14 : W (.reg (HUB_Q 2 20)))
    (w15 : W (.reg MB_NTF_NSEQ)) (w16 : W (.reg (HUB_Q 3 16))) (w17 : W (.reg (HUB_Q 3 24)))
    (w18 : W (.reg (HUB_Q 3 20))) (w19 : W (.reg LG_GENERATION)) (w20 : W (.reg LG_FIRST_SEQ_LO))
    (w21 : W (.reg (LG_FIRST_SEQ_LO + 4))) (w22 : W (.reg LG_NEXT_SEQ_LO)) (w23 : W (.reg (LG_NEXT_SEQ_LO + 4)))
    (w24 : W (.reg LG_REFUSED)) (h : P s)
    (ht : execLedgerClear m s = .next t) : P t := by
  unfold Sys2Proof.Machine.execLedgerClear at ht
  cases ht
  repeat' first
    | with_reducible assumption
    | with_reducible apply Closed.runCommand hP
    | with_reducible apply Closed.ledgerClearCmd hP
    | intro _
    | split
    | dsimp only

theorem execLedgerSetSnapshot (hP : Closed W P) (m : Fin 32) {s : State} {t : State} (w1 : W .ledger)
    (w2 : W (.box m.val)) (h : P s)
    (ht : execLedgerSetSnapshot m s = .next t) : P t := by
  unfold Sys2Proof.Machine.execLedgerSetSnapshot at ht
  cases ht
  repeat' first
    | with_reducible assumption
    | with_reducible apply Closed.runCommand hP
    | with_reducible apply Closed.setSnapshotCmd hP
    | intro _
    | split
    | dsimp only

theorem execLedgerProvisionKey (hP : Closed W P) (m : Fin 32) {s : State} {t : State} (w1 : W .ledger)
    (w2 : W (.box m.val)) (h : P s)
    (ht : execLedgerProvisionKey m s = .next t) : P t := by
  unfold Sys2Proof.Machine.execLedgerProvisionKey at ht
  cases ht
  repeat' first
    | with_reducible assumption
    | with_reducible apply Closed.runCommand hP
    | with_reducible apply Closed.provisionKeyCmd hP
    | intro _
    | split
    | dsimp only

theorem execSelftest (hP : Closed W P) (m : Fin 32) {s : State} {t : State} (w1 : W .weaver) (w2 : W .ledger)
    (w3 : ∀ x1', W (.chan x1')) (w4 : W (.queue 2)) (w5 : W .station) (w6 : W .mbx) (w7 : W (.box m.val))
    (w8 : ∀ x1', W (.reg (MC_STATUS x1'))) (w9 : ∀ x1' x2', W (.reg (MC_TRN_ERR x1' x2')))
    (w10 : ∀ x1', W (.reg (MC_TRN_FAIL_BITS x1'))) (w11 : ∀ x1', W (.reg (MC_STEPDOWNS x1')))
    (w12 : W (.reg HUB_GUAR_INGEST)) (w13 : W (.reg HUB_HEALTH)) (w14 : W (.reg (HUB_Q 2 16)))
    (w15 : W (.reg (HUB_Q 2 24))) (w16 : W (.reg (HUB_Q 2 20))) (w17 : W (.reg MB_NTF_NSEQ)) (h : P s)
    (ht : execSelftest m s = .next t) : P t := by
  unfold Sys2Proof.Machine.execSelftest at ht
  cases ht
  repeat' first
    | with_reducible assumption
    | with_reducible exact w3 _
    | with_reducible exact w8 _
    | with_reducible exact w9 _ _
    | with_reducible exact w10 _
    | with_reducible exact w11 _
    | with_reducible apply Closed.runCommand hP
    | with_reducible apply Closed.selftestCmd hP
    | intro _
    | split
    | dsimp only

theorem execDiagDecompress (hP : Closed W P) (m : Fin 32) {s : State} {t : State} (w1 : W .pcie)
    (w2 : ∀ x1', W (.de x1')) (w3 : W .drawn) (w4 : ∀ x1', W (.sched x1')) (w5 : W (.box m.val))
    (w6 : ∀ x1', W (.reg (DE x1' 40))) (w7 : ∀ x1', W (.reg (DE x1' 4))) (w8 : ∀ x1', W (.reg (DE x1' 4 + 4)))
    (w9 : ∀ x1', W (.reg (DE x1' 12))) (w10 : ∀ x1', W (.reg (DE x1' 20))) (w11 : ∀ x1', W (.reg (DE x1' 24)))
    (w12 : ∀ x1', W (.reg (DE x1' 28))) (w13 : ∀ x1', W (.reg (DE x1' 32))) (w14 : ∀ x1', W (.reg (DE x1' 36)))
    (h : P s)
    (ht : execDiagDecompress m s = .next t) : P t := by
  unfold Sys2Proof.Machine.execDiagDecompress at ht
  cases ht
  repeat' first
    | with_reducible assumption
    | with_reducible exact w2 _
    | with_reducible exact w4 _
    | with_reducible exact w6 _
    | with_reducible exact w7 _
    | with_reducible exact w8 _
    | with_reducible exact w9 _
    | with_reducible exact w10 _
    | with_reducible exact w11 _
    | with_reducible exact w12 _
    | with_reducible exact w13 _
    | with_reducible exact w14 _
    | with_reducible apply Closed.runCommand hP
    | with_reducible apply Closed.diagDecompressCmd hP
    | intro _
    | split
    | dsimp only

theorem execDiagUnlock (hP : Closed W P) (m : Fin 32) {s : State} {t : State} (w1 : W .ledger) (w2 : W (.box m.val))
    (w3 : W (.reg HUB_RF_STATE)) (w4 : W (.reg HUB_RF_LAPSE)) (h : P s)
    (ht : execDiagUnlock m s = .next t) : P t := by
  unfold Sys2Proof.Machine.execDiagUnlock at ht
  cases ht
  repeat' first
    | with_reducible assumption
    | with_reducible apply Closed.runCommand hP
    | with_reducible apply Closed.diagUnlockCmd hP
    | intro _
    | split
    | dsimp only

theorem execDiagLock (hP : Closed W P) (m : Fin 32) {s : State} {t : State} (w1 : W .station) (w2 : W .weaver)
    (w3 : W (.queue 2)) (w4 : W .mbx) (w5 : W .ledger) (w6 : W (.box m.val)) (w7 : ∀ a, W (.reg a)) (h : P s)
    (ht : execDiagLock m s = .next t) : P t := by
  unfold Sys2Proof.Machine.execDiagLock at ht
  cases ht
  repeat' first
    | with_reducible assumption
    | with_reducible exact w7 _
    | with_reducible apply Closed.runCommand hP
    | with_reducible apply Closed.diagLockCmd hP
    | intro _
    | split
    | dsimp only

theorem execMapWindow (hP : Closed W P) (m : Fin 32) {s : State} {t : State} (w1 : W .pcie) (w2 : W (.box m.val))
    (h : P s)
    (ht : execMapWindow m s = .next t) : P t := by
  unfold Sys2Proof.Machine.execMapWindow at ht
  cases ht
  repeat' first
    | with_reducible assumption
    | with_reducible apply Closed.runCommand hP
    | with_reducible apply Closed.mapWindowCmd hP
    | intro _
    | split
    | dsimp only

theorem execSetPowerState (hP : Closed W P) (m : Fin 32) {s : State} {t : State} (w1 : W .drawn)
    (w2 : W (.box m.val)) (w3 : W (.reg PWR_STATE)) (h : P s)
    (ht : execSetPowerState m s = .next t) : P t := by
  unfold Sys2Proof.Machine.execSetPowerState at ht
  cases ht
  repeat' first
    | with_reducible assumption
    | with_reducible apply Closed.runCommand hP
    | with_reducible apply Closed.setPowerStateCmd hP
    | intro _
    | split
    | dsimp only

theorem execFwUpdateBegin (hP : Closed W P) (m : Fin 32) {s : State} {t : State} (w1 : W .power)
    (w2 : W (.box m.val)) (h : P s)
    (ht : execFwUpdateBegin m s = .next t) : P t := by
  unfold Sys2Proof.Machine.execFwUpdateBegin at ht
  cases ht
  repeat' first
    | with_reducible assumption
    | with_reducible apply Closed.runCommand hP
    | with_reducible apply Closed.fwBeginCmd hP
    | intro _
    | split
    | dsimp only

theorem execFwUpdateCancel (hP : Closed W P) (m : Fin 32) {s : State} {t : State} (w1 : W .power)
    (w2 : W (.box m.val)) (h : P s)
    (ht : execFwUpdateCancel m s = .next t) : P t := by
  unfold Sys2Proof.Machine.execFwUpdateCancel at ht
  cases ht
  repeat' first
    | with_reducible assumption
    | with_reducible apply Closed.runCommand hP
    | with_reducible apply Closed.fwCancelCmd hP
    | intro _
    | split
    | dsimp only

theorem execFwUpdateChunk (hP : Closed W P) (m : Fin 32) {s : State} {t : State} (w1 : W .pcie) (w2 : W .power)
    (w3 : W (.box m.val)) (h : P s)
    (ht : execFwUpdateChunk m s = .next t) : P t := by
  unfold Sys2Proof.Machine.execFwUpdateChunk at ht
  cases ht
  repeat' first
    | with_reducible assumption
    | with_reducible apply Closed.runCommand hP
    | with_reducible apply Closed.fwChunkCmd hP
    | intro _
    | split
    | dsimp only

theorem execFwUpdateCommit (hP : Closed W P) (m : Fin 32) {s : State} {t : State} (w1 : W .power)
    (w2 : W (.box m.val)) (h : P s)
    (ht : execFwUpdateCommit m s = .next t) : P t := by
  unfold Sys2Proof.Machine.execFwUpdateCommit at ht
  cases ht
  repeat' first
    | with_reducible assumption
    | with_reducible apply Closed.runCommand hP
    | with_reducible apply Closed.fwCommitCmd hP
    | intro _
    | split
    | dsimp only

theorem execFwUpdateDone (hP : Closed W P) (ok : Bool) {s : State} {t : State} (w1 : W .drawn) (w2 : W .power)
    (w3 : W .ledger) (w4 : W (.queue 2)) (w5 : W .station) (w6 : W .mbx) (w7 : W (.reg (HUB_Q 2 16)))
    (w8 : W (.reg (HUB_Q 2 24))) (w9 : W (.reg (HUB_Q 2 20))) (w10 : W (.reg MB_NTF_NSEQ)) (h : P s)
    (ht : execFwUpdateDone ok s = .next t) : P t := by
  unfold Sys2Proof.Machine.execFwUpdateDone at ht
  cases ht
  repeat' first
    | with_reducible assumption
    | with_reducible apply Closed.draw hP
    | with_reducible apply Closed.modFw hP
    | with_reducible apply Closed.notice hP
    | with_reducible apply Closed.ledFwUpdate hP
    | intro _
    | split
    | dsimp only

theorem execMailboxDoorbell (hP : Closed W P) (m : Fin 32) (value : Word) (attr : WriteAttr)
    (image : MbImage) {s : State} {t : State} (w1 : W .drawn) (w2 : W .pcie) (w3 : W .dram)
    (w4 : ∀ x1', W (.ref x1')) (w5 : W .mbx) (w6 : ∀ x1', W (.box x1')) (w7 : W (.reg (MB_IGNORED m.val)))
    (w8 : W (.reg (MB_STATE m.val))) (h : P s)
    (ht : execMailboxDoorbell m value attr image s = .next t) : P t := by
  unfold Sys2Proof.Machine.execMailboxDoorbell at ht
  cases ht
  repeat' first
    | with_reducible assumption
    | with_reducible exact w4 _
    | with_reducible exact w6 _
    | with_reducible apply Closed.seeWrite hP
    | with_reducible apply Closed.doorbell hP
    | intro _
    | split
    | dsimp only

theorem execCommandCompletion (hP : Closed W P) (m : Fin 32) (us : Nat) {s : State} {t : State} (w1 : W .pcie)
    (w2 : W .mbx) (w3 : W .drawn) (w4 : ∀ x1', W (.box x1')) (w5 : W .dram) (w6 : ∀ x1', W (.ref x1'))
    (w7 : W (.reg (MB_CMDS m.val))) (w8 : W (.reg (MB_RESP_MAX m.val))) (h : P s)
    (ht : execCommandCompletion m us s = .next t) : P t := by
  unfold Sys2Proof.Machine.execCommandCompletion at ht
  cases ht
  repeat' first
    | with_reducible assumption
    | with_reducible exact w4 _
    | with_reducible exact w6 _
    | with_reducible apply Closed.completeBox hP
    | intro _
    | split
    | dsimp only

theorem execDescTail (hP : Closed W P) (stream : Fin 4096) (value : Word) (attr : WriteAttr) {s : State} {t : State}
    (w1 : W .drawn) (w2 : W .pcie) (w3 : W (.queue 2)) (w4 : W .station) (w5 : W .mbx) (w6 : W (.stream stream.val))
    (w7 : W (.reg (HUB_Q 2 16))) (w8 : W (.reg (HUB_Q 2 24))) (w9 : W (.reg (HUB_Q 2 20)))
    (w10 : W (.reg MB_NTF_NSEQ)) (h : P s)
    (ht : execDescTail stream value attr s = .next t) : P t := by
  unfold Sys2Proof.Machine.execDescTail at ht
  cases ht
  repeat' first
    | with_reducible assumption
    | with_reducible apply Closed.seeWrite hP
    | with_reducible apply Closed.noticeRingFault hP
    | with_reducible apply Closed.modStream hP
    | intro _
    | split
    | dsimp only

theorem execCplHead (hP : Closed W P) (stream : Fin 4096) (value : Word) (attr : WriteAttr) {s : State} {t : State}
    (w1 : W .drawn) (w2 : W .pcie) (w3 : W (.stream stream.val)) (h : P s)
    (ht : execCplHead stream value attr s = .next t) : P t := by
  unfold Sys2Proof.Machine.execCplHead at ht
  cases ht
  repeat' first
    | with_reducible assumption
    | with_reducible apply Closed.seeWrite hP
    | with_reducible apply Closed.modStream hP
    | intro _
    | split
    | dsimp only

theorem execNotificationConsumerDoorbell (hP : Closed W P) (value : Word) (attr : WriteAttr) {s : State} {t : State}
    (w1 : W .drawn) (w2 : W .pcie) (w3 : W (.reg MB_NTF_HEAD)) (h : P s)
    (ht : execNotificationConsumerDoorbell value attr s = .next t) : P t := by
  unfold Sys2Proof.Machine.execNotificationConsumerDoorbell at ht
  cases ht
  repeat' first
    | with_reducible assumption
    | with_reducible apply hP.setReg
    | with_reducible apply Closed.seeWrite hP
    | intro _
    | split
    | dsimp only

theorem execRegisterWrite (hP : Closed W P) (addr : HostAddr) (value : DWord) (attr : WriteAttr)
    (collides : Bool) {s : State} {t : State} (w1 : W .drawn) (w2 : W .pcie) (w3 : ∀ x1', W (.box x1'))
    (w4 : ∀ x1', W (.chan x1')) (w5 : ∀ x1', W (.tout x1')) (w6 : W .station) (w7 : ∀ a, W (.reg a)) (h : P s)
    (ht : execRegisterWrite addr value attr collides s = .next t) : P t := by
  unfold Sys2Proof.Machine.execRegisterWrite at ht
  cases ht
  repeat' first
    | with_reducible assumption
    | with_reducible exact w3 _
    | with_reducible exact w4 _
    | with_reducible exact w5 _
    | with_reducible exact w7 _
    | with_reducible apply Closed.registerWrite hP
    | with_reducible apply Closed.seeWrite hP
    | with_reducible apply hP.modPcie
    | with_reducible apply Closed.sendPending hP
    | intro _
    | split
    | dsimp only

theorem execRcRegisterRead (hP : Closed W P) (addr : HostAddr) (bits : Nat) {s : State} {t : State} (w1 : W .out)
    (w2 : W .drawn) (w3 : W .pcie) (w4 : ∀ x1', W (.ce x1')) (w5 : ∀ x1', W (.de x1')) (w6 : ∀ x1', W (.ival x1'))
    (w7 : ∀ a, W (.reg a)) (h : P s)
    (ht : execRcRegisterRead addr bits s = .next t) : P t := by
  unfold Sys2Proof.Machine.execRcRegisterRead at ht
  cases ht
  repeat' first
    | with_reducible assumption
    | with_reducible exact w4 _
    | with_reducible exact w5 _
    | with_reducible exact w6 _
    | with_reducible exact w7 _
    | with_reducible apply Closed.readAttr hP
    | with_reducible apply Closed.bar0Read hP
    | with_reducible apply Closed.romRead hP
    | with_reducible apply Closed.configRead hP
    | intro _
    | split
    | dsimp only

theorem execIuResValueLoRead (hP : Closed W P) (iu : Fin 16) {s : State} {t : State} (w1 : W .drawn) (w2 : W .pcie)
    (w3 : W .out) (w4 : ∀ x1', W (.ce x1')) (w5 : ∀ x1', W (.de x1')) (w6 : ∀ x1', W (.ival x1'))
    (w7 : W (.reg (IU iu.val 32))) (w8 : W (.reg (IU iu.val 32 + 4))) (h : P s)
    (ht : execIuResValueLoRead iu s = .next t) : P t := by
  unfold Sys2Proof.Machine.execIuResValueLoRead at ht
  cases ht
  repeat' first
    | with_reducible assumption
    | with_reducible exact w4 _
    | with_reducible exact w5 _
    | with_reducible exact w6 _
    | with_reducible apply Closed.bar0Read hP
    | intro _
    | split
    | dsimp only

theorem execLoCounterRead (hP : Closed W P) (c : LoCounter) {s : State} {t : State} (w1 : W .drawn) (w2 : W .pcie)
    (w3 : W .out) (w4 : ∀ x1', W (.ce x1')) (w5 : ∀ x1', W (.de x1')) (w6 : ∀ x1', W (.ival x1'))
    (w7 : W (.reg (loAddr c))) (w8 : W (.reg (loAddr c + 4))) (h : P s)
    (ht : execLoCounterRead c s = .next t) : P t := by
  unfold Sys2Proof.Machine.execLoCounterRead at ht
  cases ht
  repeat' first
    | with_reducible assumption
    | with_reducible exact w4 _
    | with_reducible exact w5 _
    | with_reducible exact w6 _
    | with_reducible apply Closed.bar0Read hP
    | intro _
    | split
    | dsimp only

theorem execBar2Read (hP : Closed W P) (off : BitVec 36) (len : Nat) (ask : ReadAsk) {s : State} {t : State}
    (w1 : W .out) (w2 : W .drawn) (w3 : W .pcie) (w4 : W .ledger) (w5 : W .weaver) (w6 : ∀ x1', W (.stream x1'))
    (w7 : ∀ x1', W (.de x1')) (w8 : ∀ x1', W (.ref x1')) (w9 : W (.queue 2)) (w10 : W .station) (w11 : W .mbx)
    (w12 : W (.queue 1)) (w13 : ∀ x1', W (.sched x1')) (w14 : ∀ x1', W (.cmp x1')) (w15 : W .dram)
    (w16 : ∀ x1', W (.image x1')) (w17 : ∀ x1', W (.hist x1')) (w18 : ∀ a, W (.reg a)) (h : P s)
    (ht : execBar2Read off len ask s = .next t) : P t := by
  unfold Sys2Proof.Machine.execBar2Read at ht
  cases ht
  repeat' first
    | with_reducible assumption
    | with_reducible exact w6 _
    | with_reducible exact w7 _
    | with_reducible exact w8 _
    | with_reducible exact w13 _
    | with_reducible exact w14 _
    | with_reducible exact w16 _
    | with_reducible exact w17 _
    | with_reducible exact w18 _
    | with_reducible apply Closed.bar2Read hP
    | intro _
    | split
    | dsimp only

theorem execBar2Write (hP : Closed W P) (off : BitVec 36) (data : List Byte)
    (poisoned : Bool) {s : State} {t : State} (w1 : W .drawn) (w2 : W .pcie) (w3 : W .ledger)
    (w4 : ∀ x1', W (.sched x1')) (w5 : W .dram) (w6 : W (.reg PCI_BAR2_UR)) (w7 : W (.reg PCI_BAR2_UR_ADDR_LO))
    (w8 : W (.reg PCI_BAR2_UR_ADDR_HI)) (w9 : W (.reg PCI_BAR2_WDROP)) (h : P s)
    (ht : execBar2Write off data poisoned s = .next t) : P t := by
  unfold Sys2Proof.Machine.execBar2Write at ht
  cases ht
  repeat' first
    | with_reducible assumption
    | with_reducible exact w4 _
    | with_reducible apply Closed.bar2Write hP
    | intro _
    | split
    | dsimp only

theorem execWindowTableSwap (hP : Closed W P) (w : Fin 64) {s : State} {t : State} (w1 : W .pcie)
    (w2 : ∀ x1', W (.box x1')) (w3 : W (.reg PCI_BAR2_GEN_NEXT)) (w4 : ∀ x1', W (.reg (PCI_BAR2_GEN x1'))) (h : P s)
    (ht : execWindowTableSwap w s = .next t) : P t := by
  unfold Sys2Proof.Machine.execWindowTableSwap at ht
  cases ht
  repeat' first
    | with_reducible assumption
    | with_reducible exact w2 _
    | with_reducible exact w4 _
    | with_reducible apply Closed.swapWindow hP
    | intro _
    | split
    | dsimp only

theorem execD3hot (hP : Closed W P) {s : State} {t : State} (w1 : W .pcie) (w2 : W .time) (w3 : W (.queue 0))
    (w4 : W .station) (w5 : ∀ x1', W (.stream x1')) (w6 : ∀ x1', W (.sched x1')) (w7 : ∀ x1', W (.cmp x1'))
    (w8 : W .weaver) (w9 : W .trig) (w10 : ∀ x1', W (.port x1')) (w11 : ∀ x1', W (.hist x1'))
    (w12 : ∀ x1', W (.seq x1')) (w13 : ∀ x1', W (.ival x1')) (w14 : ∀ x1', W (.tout x1')) (w15 : W (.queue 1))
    (w16 : W .drawn) (w17 : W .ledger) (w18 : ∀ x1', W (.box x1')) (w19 : ∀ x1', W (.lane x1'))
    (w20 : ∀ x1', W (.queue (stakeQ x1'))) (w21 : W (.queue 2)) (w22 : W .mbx) (w23 : ∀ a, W (.reg a)) (h : P s)
    (ht : execD3hot s = .next t) : P t := by
  unfold Sys2Proof.Machine.execD3hot at ht
  cases ht
  repeat' first
    | with_reducible assumption
    | with_reducible exact w5 _
    | with_reducible exact w6 _
    | with_reducible exact w7 _
    | with_reducible exact w10 _
    | with_reducible exact w11 _
    | with_reducible exact w12 _
    | with_reducible exact w13 _
    | with_reducible exact w14 _
    | with_reducible exact w18 _
    | with_reducible exact w19 _
    | with_reducible exact w20 _
    | with_reducible exact w23 _
    | with_reducible apply hP.modPcie
    | with_reducible apply Closed.disarm hP
    | with_reducible apply Closed.goTo hP
    | intro _
    | split
    | dsimp only

theorem execD0 (hP : Closed W P) {s : State} {t : State} (w1 : W .pcie) (w2 : W .station) (w3 : W (.reg PWR_STATE))
    (h : P s)
    (ht : execD0 s = .next t) : P t := by
  unfold Sys2Proof.Machine.execD0 at ht
  cases ht
  repeat' first
    | with_reducible assumption
    | with_reducible apply hP.modStation
    | with_reducible apply hP.modPcie
    | with_reducible apply Closed.resumeDma hP
    | with_reducible apply Closed.goTo hP
    | intro _
    | split
    | dsimp only

theorem execBusMasterEnableCleared (hP : Closed W P) {s : State} {t : State} (w1 : W .pcie) (w2 : W .dram)
    (w3 : ∀ x1', W (.ref x1')) (w4 : ∀ x1', W (.box x1')) (w5 : W (.reg PCI_BME_CLEARS)) (h : P s)
    (ht : execBusMasterEnableCleared s = .next t) : P t := by
  unfold Sys2Proof.Machine.execBusMasterEnableCleared at ht
  cases ht
  repeat' first
    | with_reducible assumption
    | with_reducible exact w3 _
    | with_reducible exact w4 _
    | with_reducible apply Closed.clearBusMaster hP
    | intro _
    | split
    | dsimp only

theorem execBusMasterEnableSet (hP : Closed W P) {s : State} {t : State} (w1 : W .pcie)
    (w2 : ∀ x1', W (.stream x1')) (h : P s)
    (ht : execBusMasterEnableSet s = .next t) : P t := by
  unfold Sys2Proof.Machine.execBusMasterEnableSet at ht
  cases ht
  repeat' first
    | with_reducible assumption
    | with_reducible exact w2 _
    | with_reducible apply Closed.setBusMaster hP
    | intro _
    | split
    | dsimp only

theorem execFunctionLevelReset (hP : Closed W P) {s : State} {t : State} (w1 : W .pcie) (w2 : W .time)
    (w3 : W .trig) (w4 : ∀ x1', W (.seq x1')) (w5 : ∀ x1', W (.cmp x1')) (w6 : ∀ x1', W (.ival x1'))
    (w7 : ∀ x1', W (.hist x1')) (w8 : ∀ x1', W (.lane x1')) (w9 : ∀ x1', W (.tout x1'))
    (w10 : ∀ x1', W (.queue x1')) (w11 : W .station) (w12 : W .mbx) (w13 : W .ledger) (w14 : W .drawn)
    (w15 : W .weaver) (w16 : ∀ x1', W (.box x1')) (w17 : W .dram) (w18 : ∀ x1', W (.stream x1'))
    (w19 : ∀ x1', W (.ref x1')) (w20 : ∀ x1', W (.image x1')) (w21 : W .fw) (w22 : ∀ x1', W (.port x1'))
    (w23 : ∀ x1', W (.de x1')) (w24 : W .power) (w25 : ∀ a, W (.reg a)) (h : P s)
    (ht : execFunctionLevelReset s = .next t) : P t := by
  unfold Sys2Proof.Machine.execFunctionLevelReset at ht
  cases ht
  repeat' first
    | with_reducible assumption
    | with_reducible exact w4 _
    | with_reducible exact w5 _
    | with_reducible exact w6 _
    | with_reducible exact w7 _
    | with_reducible exact w8 _
    | with_reducible exact w9 _
    | with_reducible exact w10 _
    | with_reducible exact w16 _
    | with_reducible exact w18 _
    | with_reducible exact w19 _
    | with_reducible exact w20 _
    | with_reducible exact w22 _
    | with_reducible exact w23 _
    | with_reducible exact w25 _
    | with_reducible apply Closed.functionReset hP
    | intro _
    | split
    | dsimp only

theorem execLinkDown (hP : Closed W P) {s : State} {t : State} (w1 : W .pcie) (w2 : W .dram)
    (w3 : ∀ x1', W (.ref x1')) (w4 : ∀ x1', W (.box x1')) (w5 : W .ledger) (w6 : W (.reg PCI_BME_CLEARS))
    (w7 : W (.reg PCI_LINK)) (w8 : W (.reg PCI_LINK_DOWNS)) (h : P s)
    (ht : execLinkDown s = .next t) : P t := by
  unfold Sys2Proof.Machine.execLinkDown at ht
  cases ht
  repeat' first
    | with_reducible assumption
    | with_reducible exact w3 _
    | with_reducible exact w4 _
    | with_reducible apply hP.modPcie
    | with_reducible apply Closed.clearBusMaster hP
    | with_reducible apply Closed.ledLink hP
    | with_reducible apply Closed.incReg hP
    | with_reducible apply Closed.setRegBit hP
    | intro _
    | split
    | dsimp only

theorem execLinkUp (hP : Closed W P) (rate : BitVec 4) (width : BitVec 5) (flit : Bool) {s : State} {t : State}
    (w1 : W .pcie) (w2 : W .ledger) (w3 : W (.reg PCI_LINK)) (h : P s)
    (ht : execLinkUp rate width flit s = .next t) : P t := by
  unfold Sys2Proof.Machine.execLinkUp at ht
  cases ht
  repeat' first
    | with_reducible assumption
    | with_reducible apply Closed.ledLink hP
    | with_reducible apply hP.setReg
    | with_reducible apply hP.modPcie
    | intro _
    | split
    | dsimp only

theorem execLinkHoldExpiry (hP : Closed W P) {s : State} {t : State} (w1 : W .time) (w2 : W (.queue 0))
    (w3 : W .station) (w4 : ∀ x1', W (.stream x1')) (w5 : ∀ x1', W (.sched x1')) (w6 : ∀ x1', W (.cmp x1'))
    (w7 : W .weaver) (w8 : W .trig) (w9 : ∀ x1', W (.port x1')) (w10 : ∀ x1', W (.hist x1'))
    (w11 : ∀ x1', W (.seq x1')) (w12 : ∀ x1', W (.ival x1')) (w13 : ∀ x1', W (.tout x1')) (w14 : W (.queue 1))
    (w15 : W .drawn) (w16 : W .ledger) (w17 : ∀ x1', W (.box x1')) (w18 : ∀ x1', W (.lane x1'))
    (w19 : ∀ x1', W (.queue (stakeQ x1'))) (w20 : W .pcie) (w21 : W (.queue 2)) (w22 : W .mbx)
    (w23 : ∀ a, W (.reg a)) (h : P s)
    (ht : execLinkHoldExpiry s = .next t) : P t := by
  unfold Sys2Proof.Machine.execLinkHoldExpiry at ht
  cases ht
  repeat' first
    | with_reducible assumption
    | with_reducible exact w4 _
    | with_reducible exact w5 _
    | with_reducible exact w6 _
    | with_reducible exact w9 _
    | with_reducible exact w10 _
    | with_reducible exact w11 _
    | with_reducible exact w12 _
    | with_reducible exact w13 _
    | with_reducible exact w17 _
    | with_reducible exact w18 _
    | with_reducible exact w19 _
    | with_reducible exact w23 _
    | with_reducible apply Closed.goTo hP
    | with_reducible apply Closed.ledLink hP
    | with_reducible apply Closed.disarm hP
    | intro _
    | split
    | dsimp only

theorem execLinkRetrain (hP : Closed W P) (rate : BitVec 4) (width : BitVec 5) (flit : Bool) {s : State} {t : State}
    (w1 : W .ledger) (w2 : W (.reg PCI_LINK)) (h : P s)
    (ht : execLinkRetrain rate width flit s = .next t) : P t := by
  unfold Sys2Proof.Machine.execLinkRetrain at ht
  cases ht
  repeat' first
    | with_reducible assumption
    | with_reducible apply hP.setReg
    | with_reducible apply Closed.ledLink hP
    | intro _
    | split
    | dsimp only

theorem execCompletionTimeout (hP : Closed W P) (tag : Nat) {s : State} {t : State} (w1 : W .pcie) (w2 : W .drawn)
    (w3 : W .dram) (w4 : ∀ x1', W (.ref x1')) (w5 : ∀ x1', W (.box x1')) (w6 : ∀ x1', W (.stream x1'))
    (w7 : W (.queue 2)) (w8 : W .station) (w9 : W .mbx) (w10 : W (.reg PCI_CTO)) (w11 : W (.reg (HUB_Q 2 16)))
    (w12 : W (.reg (HUB_Q 2 24))) (w13 : W (.reg (HUB_Q 2 20))) (w14 : W (.reg MB_NTF_NSEQ)) (h : P s)
    (ht : execCompletionTimeout tag s = .next t) : P t := by
  unfold Sys2Proof.Machine.execCompletionTimeout at ht
  cases ht
  repeat' first
    | with_reducible assumption
    | with_reducible exact w4 _
    | with_reducible exact w5 _
    | with_reducible exact w6 _
    | with_reducible apply Closed.incReg hP
    | with_reducible apply hP.modPcie
    | with_reducible apply Closed.sendReads hP
    | with_reducible apply Closed.failRead hP
    | with_reducible apply Closed.aerError hP
    | intro _
    | split
    | dsimp only

theorem execCompletionReceived (hP : Closed W P) (tag : Nat) (status : CplStatus)
    (data : List Byte) {s : State} {t : State} (w1 : W .pcie) (w2 : ∀ x1', W (.stream x1')) (w3 : W (.queue 2))
    (w4 : W .station) (w5 : W .mbx) (w6 : W .dram) (w7 : ∀ x1', W (.ref x1')) (w8 : ∀ x1', W (.box x1'))
    (w9 : W .drawn) (w10 : W (.reg (HUB_Q 2 16))) (w11 : W (.reg (HUB_Q 2 24))) (w12 : W (.reg (HUB_Q 2 20)))
    (w13 : W (.reg MB_NTF_NSEQ)) (w14 : W (.reg PCI_LATE_CPL)) (h : P s)
    (ht : execCompletionReceived tag status data s = .next t) : P t := by
  unfold Sys2Proof.Machine.execCompletionReceived at ht
  cases ht
  repeat' first
    | with_reducible assumption
    | with_reducible exact w2 _
    | with_reducible exact w7 _
    | with_reducible exact w8 _
    | with_reducible apply hP.modPcie
    | with_reducible apply Closed.sendReads hP
    | with_reducible apply Closed.partArrives hP
    | with_reducible apply Closed.failRead hP
    | with_reducible apply Closed.incReg hP
    | with_reducible apply Closed.aerError hP
    | intro _
    | split
    | dsimp only

theorem execDescriptorFetch (hP : Closed W P) (stream : Fin 4096) {s : State} {t : State} (w1 : W .pcie) (h : P s)
    (ht : execDescriptorFetch stream s = .next t) : P t := by
  unfold Sys2Proof.Machine.execDescriptorFetch at ht
  cases ht
  repeat' first
    | with_reducible assumption
    | with_reducible apply Closed.issueRead hP
    | intro _
    | split
    | dsimp only

theorem execUncorrectableInternalError (hP : Closed W P) (headerLog : List Byte) {s : State} {t : State}
    (w1 : W .pcie) (w2 : W .ledger) (h : P s)
    (ht : execUncorrectableInternalError headerLog s = .next t) : P t := by
  unfold Sys2Proof.Machine.execUncorrectableInternalError at ht
  cases ht
  repeat' first
    | with_reducible assumption
    | with_reducible apply hP.modPcie
    | with_reducible apply Closed.ledgerReq hP
    | intro _
    | split
    | dsimp only

theorem execPerstNAssert (hP : Closed W P) {s : State} {t : State} (w1 : ∀ p, W p) (h : P s)
    (ht : execPerstNAssert s = .next t) : P t := by
  unfold Sys2Proof.Machine.execPerstNAssert at ht
  cases ht
  repeat' first
    | with_reducible assumption
    | with_reducible exact w1 _
    | with_reducible apply Closed.flushLedger hP
    | with_reducible apply hP.modPower
    | with_reducible apply Closed.hardReset hP
    | intro _
    | split
    | dsimp only

theorem execStartUp (hP : Closed W P) (o : StartOutcome) {s : State} {t : State} (w1 : W .power) (w2 : W .pcie)
    (w3 : W .fw) (w4 : W .station) (w5 : W .ledger) (w6 : W .drawn) (w7 : W .weaver) (w8 : W .dram)
    (w9 : W (.queue 2)) (w10 : W .mbx) (w11 : ∀ x1', W (.queue (stakeQ x1'))) (w12 : ∀ x1', W (.stream x1'))
    (w13 : ∀ x1', W (.sched x1')) (w14 : ∀ x1', W (.lane x1')) (w15 : ∀ x1', W (.cmp x1'))
    (w16 : ∀ x1', W (.ival x1')) (w17 : ∀ x1', W (.box x1')) (w18 : ∀ x1', W (.seq x1'))
    (w19 : ∀ x1', W (.hist x1')) (w20 : W (.queue 1)) (w21 : W .trig) (w22 : ∀ x1', W (.port x1'))
    (w23 : ∀ x1', W (.de x1')) (w24 : ∀ x1', W (.ref x1')) (w25 : ∀ x1', W (.image x1')) (w26 : W .time)
    (w27 : W (.queue 0)) (w28 : ∀ x1', W (.tout x1')) (w29 : ∀ x1', W (.chan x1')) (w30 : ∀ a, W (.reg a)) (h : P s)
    (ht : execStartUp o s = .next t) : P t := by
  unfold Sys2Proof.Machine.execStartUp at ht
  cases ht
  repeat' first
    | with_reducible assumption
    | with_reducible exact w11 _
    | with_reducible exact w12 _
    | with_reducible exact w13 _
    | with_reducible exact w14 _
    | with_reducible exact w15 _
    | with_reducible exact w16 _
    | with_reducible exact w17 _
    | with_reducible exact w18 _
    | with_reducible exact w19 _
    | with_reducible exact w22 _
    | with_reducible exact w23 _
    | with_reducible exact w24 _
    | with_reducible exact w25 _
    | with_reducible exact w28 _
    | with_reducible exact w29 _
    | with_reducible exact w30 _
    | with_reducible apply Closed.startUp hP
    | intro _
    | split
    | dsimp only

theorem execLaneCalibration (hP : Closed W P) (results : List LaneCal) (tempCd0 : Half)
    (tempCd1 : Half) {s : State} {t : State} (w1 : W .weaver) (w2 : ∀ x1', W (.queue (stakeQ x1')))
    (w3 : ∀ x1', W (.stream x1')) (w4 : ∀ x1', W (.sched x1')) (w5 : W .ledger) (w6 : ∀ x1', W (.lane x1'))
    (w7 : ∀ x1', W (.cmp x1')) (w8 : ∀ x1', W (.ival x1')) (w9 : W (.queue 2)) (w10 : W .station) (w11 : W .mbx)
    (w12 : W .pcie) (w13 : ∀ x1', W (.reg (LN_BURSTS x1'))) (w14 : W (.reg HUB_RETIRED))
    (w15 : ∀ x1', W (.reg (CU x1' 36))) (w16 : W (.reg (HUB_Q 2 16))) (w17 : W (.reg (HUB_Q 2 24)))
    (w18 : W (.reg (HUB_Q 2 20))) (w19 : W (.reg MB_NTF_NSEQ)) (w20 : ∀ x1', W (.reg (LN_DESKEW x1')))
    (w21 : ∀ x1', W (.reg (LN_STATUS x1'))) (w22 : ∀ x1', W (.reg (HU_STATUS x1')))
    (w23 : ∀ x1', W (.reg (PP_STATUS x1'))) (w24 : ∀ x1', W (.reg (MC_STATUS x1'))) (w25 : W (.reg HUB_GUAR_INGEST))
    (w26 : W (.reg HUB_HEALTH)) (w27 : ∀ x1', W (.reg (STK_CAL_TEMP x1')))
    (w28 : ∀ x1', W (.reg (STK_CAL_TIME x1'))) (h : P s)
    (ht : execLaneCalibration results tempCd0 tempCd1 s = .next t) : P t := by
  unfold Sys2Proof.Machine.execLaneCalibration at ht
  cases ht
  repeat' first
    | with_reducible assumption
    | with_reducible exact w2 _
    | with_reducible exact w3 _
    | with_reducible exact w4 _
    | with_reducible exact w6 _
    | with_reducible exact w7 _
    | with_reducible exact w8 _
    | with_reducible exact w13 _
    | with_reducible exact w15 _
    | with_reducible exact w20 _
    | with_reducible exact w21 _
    | with_reducible exact w22 _
    | with_reducible exact w23 _
    | with_reducible exact w24 _
    | with_reducible exact w27 _
    | with_reducible exact w28 _
    | with_reducible apply Closed.calibrate hP
    | with_reducible apply hP.modWeaver
    | with_reducible apply Closed.each hP
    | with_reducible apply Closed.hostResult hP
    | intro _
    | split
    | dsimp only

theorem execInitialTraining (hP : Closed W P) (ch : Fin 16) (fails : Nat) (density : BitVec 2)
    (temp : Half) {s : State} {t : State} (w1 : W .dram) (w2 : W .weaver) (w3 : W .ledger) (w4 : W (.queue 2))
    (w5 : W .station) (w6 : W .mbx) (w7 : W .pcie) (w8 : ∀ x1', W (.queue (stakeQ x1')))
    (w9 : ∀ x1', W (.stream x1')) (w10 : ∀ x1', W (.sched x1')) (w11 : ∀ x1', W (.lane x1'))
    (w12 : ∀ x1', W (.cmp x1')) (w13 : ∀ x1', W (.ival x1')) (w14 : ∀ x1', W (.box x1')) (w15 : ∀ x1', W (.seq x1'))
    (w16 : W .fw) (w17 : ∀ x1', W (.hist x1')) (w18 : W .drawn) (w19 : W (.queue 1)) (w20 : W .trig)
    (w21 : ∀ x1', W (.port x1')) (w22 : ∀ x1', W (.de x1')) (w23 : ∀ x1', W (.ref x1'))
    (w24 : ∀ x1', W (.image x1')) (w25 : W .time) (w26 : W (.queue 0)) (w27 : ∀ x1', W (.tout x1'))
    (w28 : W (.chan ch.val)) (w29 : ∀ a, W (.reg a)) (h : P s)
    (ht : execInitialTraining ch fails density temp s = .next t) : P t := by
  unfold Sys2Proof.Machine.execInitialTraining at ht
  cases ht
  repeat' first
    | with_reducible assumption
    | with_reducible exact w8 _
    | with_reducible exact w9 _
    | with_reducible exact w10 _
    | with_reducible exact w11 _
    | with_reducible exact w12 _
    | with_reducible exact w13 _
    | with_reducible exact w14 _
    | with_reducible exact w15 _
    | with_reducible exact w17 _
    | with_reducible exact w21 _
    | with_reducible exact w22 _
    | with_reducible exact w23 _
    | with_reducible exact w24 _
    | with_reducible exact w27 _
    | with_reducible exact w29 _
    | with_reducible apply Closed.trainInitial hP
    | intro _
    | split
    | dsimp only

theorem execPwrFailNAssert (hP : Closed W P) {s : State} {t : State} (w1 : W .power) (w2 : W .ledger)
    (w3 : W .drawn) (w4 : W (.queue 3)) (w5 : W .station) (w6 : W (.queue 2)) (w7 : W .mbx) (w8 : W .weaver)
    (w9 : W (.reg PWR_FAILS)) (w10 : W (.reg LG_REFUSED)) (w11 : W (.reg LG_STATUS)) (w12 : W (.reg LG_NEXT_SEQ_LO))
    (w13 : W (.reg (LG_NEXT_SEQ_LO + 4))) (w14 : W (.reg (HUB_Q 3 16))) (w15 : W (.reg (HUB_Q 3 24)))
    (w16 : W (.reg (HUB_Q 3 20))) (w17 : W (.reg (HUB_Q 2 16))) (w18 : W (.reg (HUB_Q 2 24)))
    (w19 : W (.reg (HUB_Q 2 20))) (w20 : W (.reg MB_NTF_NSEQ)) (w21 : W (.reg LG_FLUSHES))
    (w22 : W (.reg LG_VERIFY_FAIL)) (h : P s)
    (ht : execPwrFailNAssert s = .next t) : P t := by
  unfold Sys2Proof.Machine.execPwrFailNAssert at ht
  cases ht
  repeat' first
    | with_reducible assumption
    | with_reducible apply Closed.incReg hP
    | with_reducible apply hP.modPower
    | with_reducible apply Closed.powerFail hP
    | intro _
    | split
    | dsimp only

theorem execPwrFailNDeassert (hP : Closed W P) (us : Word) {s : State} {t : State} (w1 : ∀ p, W p) (h : P s)
    (ht : execPwrFailNDeassert us s = .next t) : P t := by
  unfold Sys2Proof.Machine.execPwrFailNDeassert at ht
  cases ht
  repeat' first
    | with_reducible assumption
    | with_reducible exact w1 _
    | with_reducible apply Closed.powerFailCleared hP
    | with_reducible apply hP.modPower
    | with_reducible apply Closed.hardReset hP
    | intro _
    | split
    | dsimp only

theorem execBrownOut (hP : Closed W P) {s : State} {t : State} (w1 : ∀ p, W p) (h : P s)
    (ht : execBrownOut s = .next t) : P t := by
  unfold Sys2Proof.Machine.execBrownOut at ht
  cases ht
  repeat' first
    | with_reducible assumption
    | with_reducible exact w1 _
    | with_reducible apply Closed.draw hP
    | with_reducible apply hP.modPower
    | with_reducible apply hP.setReg
    | with_reducible apply Closed.hardReset hP
    | intro _
    | split
    | dsimp only

theorem execThermalTrip (hP : Closed W P) (die : Die) (temp : Half) {s : State} {t : State} (w1 : ∀ p, W p) (h : P s)
    (ht : execThermalTrip die temp s = .next t) : P t := by
  unfold Sys2Proof.Machine.execThermalTrip at ht
  cases ht
  repeat' first
    | with_reducible assumption
    | with_reducible exact w1 _
    | with_reducible apply Closed.setTemp hP
    | with_reducible apply Closed.powerFail hP
    | with_reducible apply hP.modPower
    | with_reducible apply Closed.hardReset hP
    | intro _
    | split
    | dsimp only

theorem execThermalRelease (hP : Closed W P) (tempHd : Half) (tempCd0 : Half)
    (tempCd1 : Half) {s : State} {t : State} (w1 : W .power) (h : P s)
    (ht : execThermalRelease tempHd tempCd0 tempCd1 s = .next t) : P t := by
  unfold Sys2Proof.Machine.execThermalRelease at ht
  cases ht
  repeat' first
    | with_reducible assumption
    | with_reducible apply hP.modPower
    | intro _
    | split
    | dsimp only

theorem execStateTransitionDone (hP : Closed W P) {s : State} {t : State} (w1 : W (.queue 2)) (w2 : W .station)
    (w3 : W .mbx) (w4 : W (.reg PWR_STATE)) (w5 : W (.reg (HUB_Q 2 16))) (w6 : W (.reg (HUB_Q 2 24)))
    (w7 : W (.reg (HUB_Q 2 20))) (w8 : W (.reg MB_NTF_NSEQ)) (h : P s)
    (ht : execStateTransitionDone s = .next t) : P t := by
  unfold Sys2Proof.Machine.execStateTransitionDone at ht
  cases ht
  repeat' first
    | with_reducible assumption
    | with_reducible apply Closed.noticePower hP
    | with_reducible apply Closed.setRegBit hP
    | intro _
    | split
    | dsimp only

theorem execStandbyEntry (hP : Closed W P) {s : State} {t : State} (w1 : W .station) (w2 : W .weaver)
    (w3 : W (.queue 2)) (w4 : W .mbx) (w5 : W .ledger) (w6 : W (.queue 3)) (w7 : ∀ x1', W (.hist x1'))
    (w8 : ∀ x1', W (.image x1')) (w9 : ∀ x1', W (.ce x1')) (w10 : ∀ x1', W (.stream x1')) (w11 : ∀ x1', W (.de x1'))
    (w12 : W .drawn) (w13 : W .dram) (w14 : ∀ x1', W (.chan x1')) (w15 : ∀ x1', W (.port x1'))
    (w16 : ∀ x1', W (.lane x1')) (w17 : ∀ a, W (.reg a)) (h : P s)
    (ht : execStandbyEntry s = .next t) : P t := by
  unfold Sys2Proof.Machine.execStandbyEntry at ht
  cases ht
  repeat' first
    | with_reducible assumption
    | with_reducible exact w7 _
    | with_reducible exact w8 _
    | with_reducible exact w9 _
    | with_reducible exact w10 _
    | with_reducible exact w11 _
    | with_reducible exact w14 _
    | with_reducible exact w15 _
    | with_reducible exact w16 _
    | with_reducible exact w17 _
    | with_reducible apply Closed.standbyEntry hP
    | intro _
    | split
    | dsimp only

theorem execWake (hP : Closed W P) (tempCd0 : Half) (tempCd1 : Half) {s : State} {t : State} (w1 : W .drawn)
    (w2 : W .fw) (w3 : ∀ x1', W (.chan x1')) (w4 : W .power) (w5 : W .time) (w6 : W .ledger)
    (w7 : ∀ x1', W (.lane x1')) (w8 : ∀ x1', W (.port x1')) (w9 : W (.queue 2)) (w10 : W .station) (w11 : W .mbx)
    (w12 : ∀ a, W (.reg a)) (h : P s)
    (ht : execWake tempCd0 tempCd1 s = .next t) : P t := by
  unfold Sys2Proof.Machine.execWake at ht
  cases ht
  repeat' first
    | with_reducible assumption
    | with_reducible exact w3 _
    | with_reducible exact w7 _
    | with_reducible exact w8 _
    | with_reducible exact w12 _
    | with_reducible apply Closed.wake hP
    | intro _
    | split
    | dsimp only

theorem execRefLost (hP : Closed W P) {s : State} {t : State} (w1 : W .power) (w2 : W .time)
    (w3 : ∀ x1', W (.stream x1')) (w4 : ∀ x1', W (.sched x1')) (w5 : W .drawn) (w6 : W (.queue 2)) (w7 : W .station)
    (w8 : W .mbx) (w9 : W .ledger) (w10 : W (.reg CLK_REF_LOSTS)) (w11 : W (.reg CLK_STATUS))
    (w12 : W (.reg CLK_REF_PPB)) (w13 : W (.reg CLK_EVENTS)) (w14 : W (.reg (HUB_Q 2 16)))
    (w15 : W (.reg (HUB_Q 2 24))) (w16 : W (.reg (HUB_Q 2 20))) (w17 : W (.reg MB_NTF_NSEQ)) (h : P s)
    (ht : execRefLost s = .next t) : P t := by
  unfold Sys2Proof.Machine.execRefLost at ht
  cases ht
  repeat' first
    | with_reducible assumption
    | with_reducible exact w3 _
    | with_reducible exact w4 _
    | with_reducible apply Closed.setRegF hP
    | with_reducible apply Closed.setRegBit hP
    | with_reducible apply Closed.incReg hP
    | with_reducible apply Closed.refFails hP
    | with_reducible apply hP.setReg
    | intro _
    | split
    | dsimp only

theorem execRefBad (hP : Closed W P) {s : State} {t : State} (w1 : W .drawn) (w2 : W .power) (w3 : W .time)
    (w4 : ∀ x1', W (.stream x1')) (w5 : ∀ x1', W (.sched x1')) (w6 : W (.queue 2)) (w7 : W .station) (w8 : W .mbx)
    (w9 : W .ledger) (w10 : W (.reg CLK_REF_PPB)) (w11 : W (.reg CLK_REF_BADS)) (w12 : W (.reg CLK_STATUS))
    (w13 : W (.reg CLK_EVENTS)) (w14 : W (.reg (HUB_Q 2 16))) (w15 : W (.reg (HUB_Q 2 24)))
    (w16 : W (.reg (HUB_Q 2 20))) (w17 : W (.reg MB_NTF_NSEQ)) (h : P s)
    (ht : execRefBad s = .next t) : P t := by
  unfold Sys2Proof.Machine.execRefBad at ht
  cases ht
  repeat' first
    | with_reducible assumption
    | with_reducible exact w4 _
    | with_reducible exact w5 _
    | with_reducible apply Closed.draw hP
    | with_reducible apply Closed.refFails hP
    | with_reducible apply Closed.setRegBit hP
    | with_reducible apply Closed.incReg hP
    | with_reducible apply hP.setReg
    | intro _
    | split
    | dsimp only

theorem execRefQualified (hP : Closed W P) (mhz : Nat) (ppb : Word) {s : State} {t : State}
    (w1 : W (.reg CLK_STATUS)) (w2 : W (.reg CLK_REF_PPB)) (h : P s)
    (ht : execRefQualified mhz ppb s = .next t) : P t := by
  unfold Sys2Proof.Machine.execRefQualified at ht
  cases ht
  repeat' first
    | with_reducible assumption
    | with_reducible apply Closed.setRegF hP
    | with_reducible apply Closed.setRegBit hP
    | with_reducible apply hP.setReg
    | intro _
    | split
    | dsimp only

theorem execRefLocked (hP : Closed W P) {s : State} {t : State} (w1 : W .power) (w2 : W .time)
    (w3 : ∀ x1', W (.stream x1')) (w4 : ∀ x1', W (.sched x1')) (w5 : W .drawn) (w6 : W (.queue 2)) (w7 : W .station)
    (w8 : W .mbx) (w9 : W .ledger) (w10 : W (.reg CLK_STATUS)) (w11 : W (.reg CLK_EVENTS))
    (w12 : W (.reg (HUB_Q 2 16))) (w13 : W (.reg (HUB_Q 2 24))) (w14 : W (.reg (HUB_Q 2 20)))
    (w15 : W (.reg MB_NTF_NSEQ)) (h : P s)
    (ht : execRefLocked s = .next t) : P t := by
  unfold Sys2Proof.Machine.execRefLocked at ht
  cases ht
  repeat' first
    | with_reducible assumption
    | with_reducible exact w3 _
    | with_reducible exact w4 _
    | with_reducible apply hP.modPower
    | with_reducible apply Closed.setRegF hP
    | with_reducible apply Closed.timebase hP
    | intro _
    | split
    | dsimp only

theorem execHoldoverEnd (hP : Closed W P) {s : State} {t : State} (w1 : W .drawn) (w2 : W .power) (w3 : W .time)
    (w4 : ∀ x1', W (.stream x1')) (w5 : ∀ x1', W (.sched x1')) (w6 : W (.queue 2)) (w7 : W .station) (w8 : W .mbx)
    (w9 : W .ledger) (w10 : W (.reg CLK_STATUS)) (w11 : W (.reg CLK_EVENTS)) (w12 : W (.reg (HUB_Q 2 16)))
    (w13 : W (.reg (HUB_Q 2 24))) (w14 : W (.reg (HUB_Q 2 20))) (w15 : W (.reg MB_NTF_NSEQ)) (h : P s)
    (ht : execHoldoverEnd s = .next t) : P t := by
  unfold Sys2Proof.Machine.execHoldoverEnd at ht
  cases ht
  repeat' first
    | with_reducible assumption
    | with_reducible exact w4 _
    | with_reducible exact w5 _
    | with_reducible apply Closed.draw hP
    | with_reducible apply hP.modPower
    | with_reducible apply Closed.setRegF hP
    | with_reducible apply Closed.timebase hP
    | intro _
    | split
    | dsimp only

theorem execTimestampWrap (hP : Closed W P) {s : State} {t : State} (w1 : W .time) (w2 : ∀ x1', W (.stream x1'))
    (w3 : ∀ x1', W (.sched x1')) (h : P s)
    (ht : execTimestampWrap s = .next t) : P t := by
  unfold Sys2Proof.Machine.execTimestampWrap at ht
  cases ht
  repeat' first
    | with_reducible assumption
    | with_reducible exact w2 _
    | with_reducible exact w3 _
    | with_reducible apply hP.modTime
    | with_reducible apply Closed.each hP
    | with_reducible apply Closed.wrapBase hP
    | intro _
    | split
    | dsimp only

theorem execSessionEpochPulse (hP : Closed W P) (value : DWord) {s : State} {t : State} (w1 : W .time)
    (w2 : ∀ x1', W (.port x1')) (w3 : ∀ x1', W (.tout x1')) (h : P s)
    (ht : execSessionEpochPulse value s = .next t) : P t := by
  unfold Sys2Proof.Machine.execSessionEpochPulse at ht
  cases ht
  repeat' first
    | with_reducible assumption
    | with_reducible exact w2 _
    | with_reducible exact w3 _
    | with_reducible apply Closed.loadEpoch hP
    | intro _
    | split
    | dsimp only

theorem execComparatorEdge (hP : Closed W P) (n : Fin 192) (comp : Comp) (rise : Bool) (sclk : Nat) (taps : Nat)
    (second : Bool) {s : State} {t : State} (w1 : ∀ x1', W (.queue (stakeQ x1'))) (w2 : ∀ x1', W (.stream x1'))
    (w3 : ∀ x1', W (.sched x1')) (w4 : ∀ x1', W (.lane x1')) (w5 : W .trig) (w6 : ∀ x1', W (.hist x1'))
    (w7 : ∀ x1', W (.ival x1')) (w8 : ∀ x1', W (.cmp x1')) (w9 : ∀ x1' x2' x3', W (.reg (HU_RG x1' x2' x3')))
    (w10 : ∀ x1', W (.reg (HU_OVERFLOW x1'))) (w11 : ∀ x1', W (.reg (CU x1' 40)))
    (w12 : ∀ x1', W (.reg (CU x1' 36))) (h : P s)
    (ht : execComparatorEdge n comp rise sclk taps second s = .next t) : P t := by
  unfold Sys2Proof.Machine.execComparatorEdge at ht
  cases ht
  repeat' first
    | with_reducible assumption
    | with_reducible exact w1 _
    | with_reducible exact w2 _
    | with_reducible exact w3 _
    | with_reducible exact w4 _
    | with_reducible exact w6 _
    | with_reducible exact w7 _
    | with_reducible exact w8 _
    | with_reducible exact w9 _ _ _
    | with_reducible exact w10 _
    | with_reducible exact w11 _
    | with_reducible exact w12 _
    | with_reducible apply Closed.comparatorEdge hP
    | intro _
    | split
    | dsimp only

theorem execBurstClose (hP : Closed W P) (n : Fin 192) (comp : Comp) (sclk : Nat) {s : State} {t : State}
    (w1 : W (.lane n.val)) (w2 : ∀ x1', W (.queue (stakeQ x1'))) (w3 : ∀ x1', W (.stream x1'))
    (w4 : ∀ x1', W (.sched x1')) (w5 : W (.reg (LN_BURSTS n.val))) (h : P s)
    (ht : execBurstClose n comp sclk s = .next t) : P t := by
  unfold Sys2Proof.Machine.execBurstClose at ht
  cases ht
  repeat' first
    | with_reducible assumption
    | with_reducible exact w2 _
    | with_reducible exact w3 _
    | with_reducible exact w4 _
    | with_reducible apply Closed.closeBurst hP
    | intro _
    | split
    | dsimp only

theorem execLevelKeepalive (hP : Closed W P) (n : Fin 192) {s : State} {t : State} (w1 : W (.lane n.val))
    (w2 : ∀ x1', W (.queue (stakeQ x1'))) (w3 : ∀ x1', W (.stream x1')) (w4 : ∀ x1', W (.sched x1')) (h : P s)
    (ht : execLevelKeepalive n s = .next t) : P t := by
  unfold Sys2Proof.Machine.execLevelKeepalive at ht
  cases ht
  repeat' first
    | with_reducible assumption
    | with_reducible exact w2 _
    | with_reducible exact w3 _
    | with_reducible exact w4 _
    | with_reducible apply Closed.laneLevel hP
    | intro _
    | split
    | dsimp only

theorem execRawBlockClose (hP : Closed W P) (n : Fin 192) {s : State} {t : State} (w1 : W (.lane n.val))
    (w2 : ∀ x1', W (.queue (stakeQ x1'))) (w3 : ∀ x1', W (.stream x1')) (w4 : ∀ x1', W (.sched x1')) (h : P s)
    (ht : execRawBlockClose n s = .next t) : P t := by
  unfold Sys2Proof.Machine.execRawBlockClose at ht
  cases ht
  repeat' first
    | with_reducible assumption
    | with_reducible exact w2 _
    | with_reducible exact w3 _
    | with_reducible exact w4 _
    | with_reducible apply Closed.writeFull hP
    | with_reducible apply Closed.closeBlock hP
    | intro _
    | split
    | dsimp only

theorem execLossOfLock (hP : Closed W P) (n : Fin 192) (comp : Comp) {s : State} {t : State} (w1 : W (.lane n.val))
    (w2 : W .ledger) (w3 : W .weaver) (w4 : W (.reg (LN_EVT n.val))) (w5 : W (.reg (LN_STATUS n.val))) (h : P s)
    (ht : execLossOfLock n comp s = .next t) : P t := by
  unfold Sys2Proof.Machine.execLossOfLock at ht
  cases ht
  repeat' first
    | with_reducible assumption
    | with_reducible apply Closed.setRegBit hP
    | with_reducible apply Closed.modComp hP
    | with_reducible apply Closed.raiseFault hP
    | intro _
    | split
    | dsimp only

theorem execTdcSelftestDone (hP : Closed W P) (n : Fin 192) (pass : Bool) {s : State} {t : State} (w1 : W .drawn)
    (w2 : W .weaver) (w3 : W .ledger) (w4 : ∀ x1', W (.lane x1')) (w5 : W .station) (w6 : W .pcie)
    (w7 : ∀ x1', W (.stake x1')) (w8 : ∀ x1', W (.stream x1')) (w9 : ∀ x1', W (.sched x1'))
    (w10 : ∀ x1', W (.cmp x1')) (w11 : ∀ x1', W (.ival x1')) (w12 : W .mbx) (w13 : ∀ x1', W (.box x1'))
    (w14 : ∀ x1', W (.seq x1')) (w15 : W .fw) (w16 : ∀ x1', W (.hist x1')) (w17 : W .trig)
    (w18 : ∀ x1', W (.port x1')) (w19 : ∀ x1', W (.de x1')) (w20 : ∀ x1', W (.ref x1')) (w21 : W .dram)
    (w22 : ∀ x1', W (.image x1')) (w23 : W .time) (w24 : ∀ x1', W (.tout x1')) (w25 : ∀ x1', W (.queue x1'))
    (w26 : ∀ x1', W (.ce x1')) (w27 : ∀ a, W (.reg a)) (h : P s)
    (ht : execTdcSelftestDone n pass s = .next t) : P t := by
  unfold Sys2Proof.Machine.execTdcSelftestDone at ht
  cases ht
  repeat' first
    | with_reducible assumption
    | with_reducible exact w4 _
    | with_reducible exact w7 _
    | with_reducible exact w8 _
    | with_reducible exact w9 _
    | with_reducible exact w10 _
    | with_reducible exact w11 _
    | with_reducible exact w13 _
    | with_reducible exact w14 _
    | with_reducible exact w16 _
    | with_reducible exact w18 _
    | with_reducible exact w19 _
    | with_reducible exact w20 _
    | with_reducible exact w22 _
    | with_reducible exact w24 _
    | with_reducible exact w25 _
    | with_reducible exact w26 _
    | with_reducible exact w27 _
    | with_reducible apply Closed.testEnds hP
    | intro _
    | split
    | dsimp only

theorem execDacReadback (hP : Closed W P) (n : Fin 192) (comp : Comp) (mv : Int) {s : State} {t : State}
    (w1 : W .ledger) (w2 : W .weaver) (w3 : ∀ x1', W (.stake x1')) (w4 : W (.reg (LN_EVT n.val)))
    (w5 : ∀ x1', W (.reg (STK_SPARE x1'))) (w6 : ∀ x1', W (.reg (LN_STATUS x1'))) (h : P s)
    (ht : execDacReadback n comp mv s = .next t) : P t := by
  unfold Sys2Proof.Machine.execDacReadback at ht
  cases ht
  repeat' first
    | with_reducible assumption
    | with_reducible exact w3 _
    | with_reducible exact w5 _
    | with_reducible exact w6 _
    | with_reducible apply Closed.dacReading hP
    | intro _
    | split
    | dsimp only

theorem execDacSweepDone (hP : Closed W P) (stake : Fin 12) (pass : Bool) {s : State} {t : State} (w1 : W .drawn)
    (w2 : W .weaver) (w3 : W .ledger) (w4 : ∀ x1', W (.lane x1')) (w5 : W .station) (w6 : W .pcie)
    (w7 : ∀ x1', W (.stake x1')) (w8 : ∀ x1', W (.stream x1')) (w9 : ∀ x1', W (.sched x1'))
    (w10 : ∀ x1', W (.cmp x1')) (w11 : ∀ x1', W (.ival x1')) (w12 : W .mbx) (w13 : ∀ x1', W (.box x1'))
    (w14 : ∀ x1', W (.seq x1')) (w15 : W .fw) (w16 : ∀ x1', W (.hist x1')) (w17 : W .trig)
    (w18 : ∀ x1', W (.port x1')) (w19 : ∀ x1', W (.de x1')) (w20 : ∀ x1', W (.ref x1')) (w21 : W .dram)
    (w22 : ∀ x1', W (.image x1')) (w23 : W .time) (w24 : ∀ x1', W (.tout x1')) (w25 : ∀ x1', W (.queue x1'))
    (w26 : ∀ x1', W (.ce x1')) (w27 : ∀ a, W (.reg a)) (h : P s)
    (ht : execDacSweepDone stake pass s = .next t) : P t := by
  unfold Sys2Proof.Machine.execDacSweepDone at ht
  cases ht
  repeat' first
    | with_reducible assumption
    | with_reducible exact w4 _
    | with_reducible exact w7 _
    | with_reducible exact w8 _
    | with_reducible exact w9 _
    | with_reducible exact w10 _
    | with_reducible exact w11 _
    | with_reducible exact w13 _
    | with_reducible exact w14 _
    | with_reducible exact w16 _
    | with_reducible exact w18 _
    | with_reducible exact w19 _
    | with_reducible exact w20 _
    | with_reducible exact w22 _
    | with_reducible exact w24 _
    | with_reducible exact w25 _
    | with_reducible exact w26 _
    | with_reducible exact w27 _
    | with_reducible apply Closed.testEnds hP
    | intro _
    | split
    | dsimp only

theorem execCalDue (hP : Closed W P) (stake : Fin 12) (temp : Half) {s : State} {t : State} (w1 : W (.queue 2))
    (w2 : W .station) (w3 : W .mbx) (w4 : ∀ x1', W (.reg (LN_STATUS x1'))) (w5 : W (.reg (HUB_Q 2 16)))
    (w6 : W (.reg (HUB_Q 2 24))) (w7 : W (.reg (HUB_Q 2 20))) (w8 : W (.reg MB_NTF_NSEQ)) (h : P s)
    (ht : execCalDue stake temp s = .next t) : P t := by
  unfold Sys2Proof.Machine.execCalDue at ht
  cases ht
  repeat' first
    | with_reducible assumption
    | with_reducible exact w4 _
    | with_reducible apply Closed.calDue hP
    | intro _
    | split
    | dsimp only

theorem execSuperframeBeacon (hP : Closed W P) (beacon : Beacon) {s : State} {t : State}
    (w1 : ∀ x1', W (.stream x1')) (w2 : ∀ x1', W (.sched x1')) (w3 : ∀ x1', W (.ival x1'))
    (w4 : ∀ x1', W (.cmp x1')) (w5 : W .trig) (w6 : W (.port beacon.port.val))
    (w7 : W (.reg (PP_LOST_LINK beacon.port.val))) (w8 : ∀ x1', W (.reg (CU x1' 36)))
    (w9 : W (.reg (PP_RDEV beacon.port.val))) (w10 : W (.reg (PP_SFN beacon.port.val))) (h : P s)
    (ht : execSuperframeBeacon beacon s = .next t) : P t := by
  unfold Sys2Proof.Machine.execSuperframeBeacon at ht
  cases ht
  repeat' first
    | with_reducible assumption
    | with_reducible exact w1 _
    | with_reducible exact w2 _
    | with_reducible exact w3 _
    | with_reducible exact w4 _
    | with_reducible exact w8 _
    | with_reducible apply Closed.sendBeacon hP
    | intro _
    | split
    | dsimp only

theorem execFrameReceived (hP : Closed W P) (port : Fin 16) (slot : Fin 62)
    (frame : PodFrame) {s : State} {t : State} (w1 : W (.port port.val)) (w2 : ∀ x1', W (.stream x1'))
    (w3 : ∀ x1', W (.sched x1')) (w4 : ∀ x1', W (.ival x1')) (w5 : ∀ x1', W (.cmp x1')) (w6 : W .trig)
    (w7 : W .drawn) (w8 : ∀ x1', W (.hist x1')) (w9 : W (.reg (PP_BAD_FRAMES port.val)))
    (w10 : ∀ x1', W (.reg (CU x1' 36))) (w11 : W (.reg (PP_LOST_LINK port.val))) (w12 : ∀ x1', W (.reg (CU x1' 40)))
    (w13 : ∀ x1' x2' x3', W (.reg (HU_RG x1' x2' x3'))) (w14 : ∀ x1', W (.reg (HU_OVERFLOW x1'))) (h : P s)
    (ht : execFrameReceived port slot frame s = .next t) : P t := by
  unfold Sys2Proof.Machine.execFrameReceived at ht
  cases ht
  repeat' first
    | with_reducible assumption
    | with_reducible exact w2 _
    | with_reducible exact w3 _
    | with_reducible exact w4 _
    | with_reducible exact w5 _
    | with_reducible exact w8 _
    | with_reducible exact w10 _
    | with_reducible exact w12 _
    | with_reducible exact w13 _ _ _
    | with_reducible exact w14 _
    | with_reducible apply Closed.modPort hP
    | with_reducible apply Closed.frame hP
    | intro _
    | split
    | dsimp only

theorem execManagementBlockReceived (hP : Closed W P) (port : Fin 16) (pos : Fin 32)
    (block : MgmtBlock) {s : State} {t : State} (w1 : W (.port port.val)) (w2 : ∀ x1', W (.stream x1'))
    (w3 : ∀ x1', W (.sched x1')) (w4 : ∀ x1', W (.ival x1')) (w5 : ∀ x1', W (.cmp x1')) (w6 : W .drawn)
    (w7 : W (.queue 4)) (w8 : W .station) (w9 : W (.reg (PP_LOST_BUDGET port.val)))
    (w10 : ∀ x1', W (.reg (CU x1' 36))) (w11 : W (.reg (HUB_Q 4 16))) (w12 : W (.reg (HUB_Q 4 24)))
    (w13 : W (.reg (HUB_Q 4 20))) (h : P s)
    (ht : execManagementBlockReceived port pos block s = .next t) : P t := by
  unfold Sys2Proof.Machine.execManagementBlockReceived at ht
  cases ht
  repeat' first
    | with_reducible assumption
    | with_reducible exact w2 _
    | with_reducible exact w3 _
    | with_reducible exact w4 _
    | with_reducible exact w5 _
    | with_reducible exact w10 _
    | with_reducible apply Closed.management hP
    | intro _
    | split
    | dsimp only

theorem execBlockLockLost (hP : Closed W P) (port : Fin 16) {s : State} {t : State} (w1 : W (.port port.val))
    (w2 : ∀ x1', W (.stream x1')) (w3 : ∀ x1', W (.sched x1')) (w4 : ∀ x1', W (.ival x1'))
    (w5 : ∀ x1', W (.cmp x1')) (w6 : W .trig) (w7 : W (.reg (PP_STATUS port.val)))
    (w8 : W (.reg (PP_LOST_LINK port.val))) (w9 : ∀ x1', W (.reg (CU x1' 36))) (h : P s)
    (ht : execBlockLockLost port s = .next t) : P t := by
  unfold Sys2Proof.Machine.execBlockLockLost at ht
  cases ht
  repeat' first
    | with_reducible assumption
    | with_reducible exact w2 _
    | with_reducible exact w3 _
    | with_reducible exact w4 _
    | with_reducible exact w5 _
    | with_reducible exact w9 _
    | with_reducible apply Closed.modPort hP
    | with_reducible apply Closed.setRegBit hP
    | with_reducible apply Closed.each hP
    | with_reducible apply Closed.linkLossAdd hP
    | intro _
    | split
    | dsimp only

theorem execDelayRecompute (hP : Closed W P) (port : Fin 16) (pos : Fin 32) {s : State} {t : State} (w1 : W .drawn)
    (w2 : W (.port port.val)) (w3 : W (.reg (PP_DELAY port.val pos.val))) (h : P s)
    (ht : execDelayRecompute port pos s = .next t) : P t := by
  unfold Sys2Proof.Machine.execDelayRecompute at ht
  cases ht
  repeat' first
    | with_reducible assumption
    | with_reducible apply Closed.recomputeDelay hP
    | intro _
    | split
    | dsimp only

theorem execCommandBlockSent (hP : Closed W P) (port : Fin 16) (block : Fin 1023) {s : State} {t : State}
    (w1 : W (.port port.val)) (h : P s)
    (ht : execCommandBlockSent port block s = .next t) : P t := by
  unfold Sys2Proof.Machine.execCommandBlockSent at ht
  cases ht
  repeat' first
    | with_reducible assumption
    | with_reducible apply Closed.modPort hP
    | with_reducible apply Closed.each hP
    | with_reducible apply Closed.podCommand hP
    | intro _
    | split
    | dsimp only

theorem execPodFault (hP : Closed W P) (port : Fin 16) (pos : Fin 32) {s : State} {t : State}
    (w1 : W (.port port.val)) (w2 : W .ledger) (w3 : W (.queue 2)) (w4 : W .station) (w5 : W .mbx)
    (w6 : W (.reg (HUB_Q 2 16))) (w7 : W (.reg (HUB_Q 2 24))) (w8 : W (.reg (HUB_Q 2 20)))
    (w9 : W (.reg MB_NTF_NSEQ)) (h : P s)
    (ht : execPodFault port pos s = .next t) : P t := by
  unfold Sys2Proof.Machine.execPodFault at ht
  cases ht
  repeat' first
    | with_reducible assumption
    | with_reducible apply Closed.modPod hP
    | with_reducible apply Closed.notice hP
    | with_reducible apply Closed.ledPod hP
    | intro _
    | split
    | dsimp only

theorem execSlotSwitch (hP : Closed W P) (port : Fin 16) {s : State} {t : State} (w1 : W (.port port.val))
    (w2 : ∀ x1', W (.reg (PP_SLOT port.val x1'))) (w3 : W (.reg (PP_SWITCH port.val))) (h : P s)
    (ht : execSlotSwitch port s = .next t) : P t := by
  unfold Sys2Proof.Machine.execSlotSwitch at ht
  cases ht
  repeat' first
    | with_reducible assumption
    | with_reducible exact w2 _
    | with_reducible apply Closed.switchSlots hP
    | intro _
    | split
    | dsimp only

theorem execSlotSwitchCancel (hP : Closed W P) (port : Fin 16) (ahead : Byte) {s : State} {t : State}
    (w1 : W (.port port.val)) (w2 : W (.reg (PP_SWITCH port.val))) (h : P s)
    (ht : execSlotSwitchCancel port ahead s = .next t) : P t := by
  unfold Sys2Proof.Machine.execSlotSwitchCancel at ht
  cases ht
  repeat' first
    | with_reducible assumption
    | with_reducible apply Closed.announceSwitch hP
    | intro _
    | split
    | dsimp only

theorem execEnum (hP : Closed W P) (port : Fin 16) (serials : List (BitVec 48)) {s : State} {t : State}
    (w1 : W .weaver) (w2 : ∀ x1', W (.stream x1')) (w3 : ∀ x1', W (.sched x1')) (w4 : ∀ x1', W (.ival x1'))
    (w5 : ∀ x1', W (.cmp x1')) (w6 : W .trig) (w7 : W (.port port.val)) (w8 : W .drawn) (w9 : W (.queue 2))
    (w10 : W .station) (w11 : W .mbx) (w12 : W .ledger) (w13 : ∀ x1', W (.reg (CU x1' 36)))
    (w14 : W (.reg (PP_PRESENT port.val))) (w15 : W (.reg (HUB_Q 2 16))) (w16 : W (.reg (HUB_Q 2 24)))
    (w17 : W (.reg (HUB_Q 2 20))) (w18 : W (.reg MB_NTF_NSEQ)) (w19 : W (.reg HUB_HEALTH))
    (w20 : W (.reg (PP_STATUS port.val))) (h : P s)
    (ht : execEnum port serials s = .next t) : P t := by
  unfold Sys2Proof.Machine.execEnum at ht
  cases ht
  repeat' first
    | with_reducible assumption
    | with_reducible exact w2 _
    | with_reducible exact w3 _
    | with_reducible exact w4 _
    | with_reducible exact w5 _
    | with_reducible exact w13 _
    | with_reducible apply Closed.enumerate hP
    | intro _
    | split
    | dsimp only

theorem execChainBreak (hP : Closed W P) (port : Fin 16) (pos : Fin 32) {s : State} {t : State}
    (w1 : ∀ x1', W (.stream x1')) (w2 : ∀ x1', W (.sched x1')) (w3 : ∀ x1', W (.ival x1'))
    (w4 : ∀ x1', W (.cmp x1')) (w5 : W .trig) (w6 : W (.port port.val)) (w7 : W (.queue 2)) (w8 : W .station)
    (w9 : W .mbx) (w10 : W .ledger) (w11 : W .weaver) (w12 : W (.reg (PP_BREAKS port.val)))
    (w13 : ∀ x1', W (.reg (CU x1' 36))) (w14 : W (.reg (PP_PRESENT port.val))) (w15 : W (.reg (PP_STATUS port.val)))
    (w16 : W (.reg (HUB_Q 2 16))) (w17 : W (.reg (HUB_Q 2 24))) (w18 : W (.reg (HUB_Q 2 20)))
    (w19 : W (.reg MB_NTF_NSEQ)) (h : P s)
    (ht : execChainBreak port pos s = .next t) : P t := by
  unfold Sys2Proof.Machine.execChainBreak at ht
  cases ht
  repeat' first
    | with_reducible assumption
    | with_reducible exact w1 _
    | with_reducible exact w2 _
    | with_reducible exact w3 _
    | with_reducible exact w4 _
    | with_reducible exact w13 _
    | with_reducible apply Closed.dueReplacement hP
    | with_reducible apply Closed.chainBreak hP
    | intro _
    | split
    | dsimp only

theorem execPodAdded (hP : Closed W P) (port : Fin 16) (serial : BitVec 48) {s : State} {t : State}
    (w1 : W (.port port.val)) (w2 : ∀ x1', W (.stream x1')) (w3 : ∀ x1', W (.sched x1')) (w4 : ∀ x1', W (.ival x1'))
    (w5 : ∀ x1', W (.cmp x1')) (w6 : W .trig) (w7 : W .drawn) (w8 : W .weaver) (w9 : W (.queue 2))
    (w10 : W .station) (w11 : W .mbx) (w12 : W .ledger) (w13 : W (.reg (PP_STATUS port.val)))
    (w14 : ∀ x1', W (.reg (CU x1' 36))) (w15 : W (.reg (PP_PRESENT port.val))) (w16 : W (.reg (HUB_Q 2 16)))
    (w17 : W (.reg (HUB_Q 2 24))) (w18 : W (.reg (HUB_Q 2 20))) (w19 : W (.reg MB_NTF_NSEQ))
    (w20 : W (.reg HUB_HEALTH)) (h : P s)
    (ht : execPodAdded port serial s = .next t) : P t := by
  unfold Sys2Proof.Machine.execPodAdded at ht
  cases ht
  repeat' first
    | with_reducible assumption
    | with_reducible exact w2 _
    | with_reducible exact w3 _
    | with_reducible exact w4 _
    | with_reducible exact w5 _
    | with_reducible exact w14 _
    | with_reducible apply Closed.setRegBit hP
    | with_reducible apply Closed.podAction hP
    | with_reducible apply Closed.setRegF hP
    | with_reducible apply Closed.enumPod hP
    | with_reducible apply Closed.extendChain hP
    | with_reducible apply Closed.modPod hP
    | with_reducible apply Closed.ledPod hP
    | with_reducible apply Closed.notice hP
    | intro _
    | split
    | dsimp only

theorem execConfigDigestRotation (hP : Closed W P) (port : Fin 16) (pos : Fin 32) {s : State} {t : State}
    (w1 : W (.port port.val)) (w2 : W .weaver) (w3 : W (.queue 2)) (w4 : W .station) (w5 : W .mbx) (w6 : W .ledger)
    (w7 : W .drawn) (w8 : ∀ x1', W (.stream x1')) (w9 : ∀ x1', W (.sched x1')) (w10 : ∀ x1', W (.ival x1'))
    (w11 : ∀ x1', W (.cmp x1')) (w12 : W (.reg (PP_MISMATCH port.val))) (w13 : W (.reg (HUB_Q 2 16)))
    (w14 : W (.reg (HUB_Q 2 24))) (w15 : W (.reg (HUB_Q 2 20))) (w16 : W (.reg MB_NTF_NSEQ))
    (w17 : W (.reg HUB_HEALTH)) (w18 : W (.reg (PP_DELAY port.val pos.val))) (w19 : ∀ x1', W (.reg (CU x1' 36)))
    (h : P s)
    (ht : execConfigDigestRotation port pos s = .next t) : P t := by
  unfold Sys2Proof.Machine.execConfigDigestRotation at ht
  cases ht
  repeat' first
    | with_reducible assumption
    | with_reducible exact w8 _
    | with_reducible exact w9 _
    | with_reducible exact w10 _
    | with_reducible exact w11 _
    | with_reducible exact w19 _
    | with_reducible apply Closed.additionTurn hP
    | with_reducible apply Closed.rotation hP
    | intro _
    | split
    | dsimp only

theorem execSegmentTestStart (hP : Closed W P) (port : Fin 16) (seg : Fin 32) {s : State} {t : State}
    (w1 : W .ledger) (w2 : W .weaver) (w3 : W (.port port.val)) (w4 : ∀ x1', W (.stream x1'))
    (w5 : ∀ x1', W (.sched x1')) (w6 : ∀ x1', W (.ival x1')) (w7 : ∀ x1', W (.cmp x1')) (w8 : W .trig)
    (w9 : W (.reg (PP_STATUS port.val))) (w10 : W (.reg (PP_LOST_LINK port.val)))
    (w11 : ∀ x1', W (.reg (CU x1' 36))) (h : P s)
    (ht : execSegmentTestStart port seg s = .next t) : P t := by
  unfold Sys2Proof.Machine.execSegmentTestStart at ht
  cases ht
  repeat' first
    | with_reducible assumption
    | with_reducible exact w4 _
    | with_reducible exact w5 _
    | with_reducible exact w6 _
    | with_reducible exact w7 _
    | with_reducible exact w11 _
    | with_reducible apply Closed.raiseFault hP
    | with_reducible apply Closed.podAction hP
    | with_reducible apply Closed.modPort hP
    | with_reducible apply Closed.setRegF hP
    | with_reducible apply Closed.setRegBit hP
    | with_reducible apply Closed.each hP
    | with_reducible apply Closed.linkLossAdd hP
    | intro _
    | split
    | dsimp only

theorem execSegmentTestDone (hP : Closed W P) (port : Fin 16) (seg : Fin 32) (errors : Nat)
    (lockHeld : Bool) {s : State} {t : State} (w1 : W .drawn) (w2 : W .weaver) (w3 : W .ledger)
    (w4 : ∀ x1', W (.lane x1')) (w5 : W .station) (w6 : W .pcie) (w7 : ∀ x1', W (.stake x1'))
    (w8 : ∀ x1', W (.stream x1')) (w9 : ∀ x1', W (.sched x1')) (w10 : ∀ x1', W (.cmp x1'))
    (w11 : ∀ x1', W (.ival x1')) (w12 : W .mbx) (w13 : ∀ x1', W (.box x1')) (w14 : ∀ x1', W (.seq x1'))
    (w15 : W .fw) (w16 : ∀ x1', W (.hist x1')) (w17 : W .trig) (w18 : ∀ x1', W (.port x1'))
    (w19 : ∀ x1', W (.de x1')) (w20 : ∀ x1', W (.ref x1')) (w21 : W .dram) (w22 : ∀ x1', W (.image x1'))
    (w23 : W .time) (w24 : ∀ x1', W (.tout x1')) (w25 : ∀ x1', W (.queue x1')) (w26 : ∀ x1', W (.ce x1'))
    (w27 : ∀ a, W (.reg a)) (h : P s)
    (ht : execSegmentTestDone port seg errors lockHeld s = .next t) : P t := by
  unfold Sys2Proof.Machine.execSegmentTestDone at ht
  cases ht
  repeat' first
    | with_reducible assumption
    | with_reducible exact w4 _
    | with_reducible exact w7 _
    | with_reducible exact w8 _
    | with_reducible exact w9 _
    | with_reducible exact w10 _
    | with_reducible exact w11 _
    | with_reducible exact w13 _
    | with_reducible exact w14 _
    | with_reducible exact w16 _
    | with_reducible exact w18 _
    | with_reducible exact w19 _
    | with_reducible exact w20 _
    | with_reducible exact w22 _
    | with_reducible exact w24 _
    | with_reducible exact w25 _
    | with_reducible exact w26 _
    | with_reducible exact w27 _
    | with_reducible apply Closed.podAction hP
    | with_reducible apply Closed.setRegBit hP
    | with_reducible apply Closed.testEnds hP
    | intro _
    | split
    | dsimp only

theorem execSampleSlot (hP : Closed W P) {s : State} {t : State} (w1 : ∀ x1', W (.lane x1'))
    (w2 : ∀ x1', W (.queue (stakeQ x1'))) (w3 : ∀ x1', W (.stream x1')) (w4 : ∀ x1', W (.sched x1'))
    (w5 : ∀ x1', W (.cmp x1')) (w6 : W .trig) (w7 : W .drawn) (w8 : ∀ x1', W (.ival x1'))
    (w9 : ∀ x1', W (.port x1')) (w10 : ∀ x1', W (.hist x1')) (w11 : W .time) (w12 : ∀ a, W (.reg a)) (h : P s)
    (ht : execSampleSlot s = .next t) : P t := by
  unfold Sys2Proof.Machine.execSampleSlot at ht
  cases ht
  repeat' first
    | with_reducible assumption
    | with_reducible exact w1 _
    | with_reducible exact w2 _
    | with_reducible exact w3 _
    | with_reducible exact w4 _
    | with_reducible exact w5 _
    | with_reducible exact w8 _
    | with_reducible exact w9 _
    | with_reducible exact w10 _
    | with_reducible exact w12 _
    | with_reducible apply Closed.sampleSlot hP
    | with_reducible apply Closed.hubSlot hP
    | intro _
    | split
    | dsimp only

theorem execDurationDeadline (hP : Closed W P) (u : DurUnit) {s : State} {t : State} (w1 : W .trig)
    (w2 : ∀ a, W (.reg a)) (h : P s)
    (ht : execDurationDeadline u s = .next t) : P t := by
  unfold Sys2Proof.Machine.execDurationDeadline at ht
  cases ht
  repeat' first
    | with_reducible assumption
    | with_reducible exact w2 _
    | with_reducible apply Closed.fireDeadlines hP
    | intro _
    | split
    | dsimp only

theorem execTrigInEdge (hP : Closed W P) (pin : Fin 4) (rise : Bool) (edge : PinEdge) {s : State} {t : State}
    (w1 : W .trig) (w2 : ∀ x1', W (.ival x1')) (h : P s)
    (ht : execTrigInEdge pin rise edge s = .next t) : P t := by
  unfold Sys2Proof.Machine.execTrigInEdge at ht
  cases ht
  repeat' first
    | with_reducible assumption
    | with_reducible exact w2 _
    | with_reducible apply hP.modTrig
    | with_reducible apply Closed.each hP
    | with_reducible apply Closed.feedInterval hP
    | intro _
    | split
    | dsimp only

theorem execSequencerDecision (hP : Closed W P) (sq : Fin 32) {s : State} {t : State} (w1 : W (.seq sq.val))
    (w2 : ∀ x1', W (.stream x1')) (w3 : ∀ x1', W (.ival x1')) (w4 : ∀ x1', W (.tout x1')) (w5 : ∀ x1', W (.cmp x1'))
    (w6 : W .weaver) (w7 : W (.queue 1)) (w8 : W .station) (w9 : ∀ x1', W (.sched x1')) (w10 : ∀ x1', W (.hist x1'))
    (w11 : W .drawn) (w12 : W .ledger) (w13 : ∀ x1', W (.box x1')) (w14 : W .trig)
    (w15 : ∀ x1', W (.reg (SQ_TMR_LO sq.val x1'))) (w16 : ∀ x1', W (.reg (SQ_TMR_HI sq.val x1')))
    (w17 : W (.reg (SQ_DEAD_LO sq.val))) (w18 : W (.reg (SQ_DEAD_LO sq.val + 4)))
    (w19 : W (.reg (SQ_MISSED sq.val))) (w20 : W (.reg (SQ_STATUS sq.val))) (w21 : W (.reg (SQ_FOLDED sq.val)))
    (w22 : W (.reg (SQ_MARKS sq.val))) (w23 : ∀ x1', W (.reg (SQ_CNT_LO sq.val x1')))
    (w24 : ∀ x1', W (.reg (SQ_CNT_LO sq.val x1' + 4))) (w25 : ∀ x1', W (.reg (CU x1' 44)))
    (w26 : ∀ x1', W (.reg (CU x1' 12))) (w27 : W (.reg (HUB_Q 1 16))) (w28 : W (.reg (HUB_Q 1 24)))
    (w29 : W (.reg (HUB_Q 1 20))) (w30 : ∀ x1', W (.reg (CU x1' 28))) (w31 : ∀ x1', W (.reg (CU x1' 32)))
    (w32 : ∀ x1', W (.reg (CU x1' 16))) (w33 : ∀ x1', W (.reg (CU x1' 16 + 4))) (w34 : ∀ x1', W (.reg (CU x1' 24)))
    (w35 : ∀ x1', W (.reg (CU x1' 36))) (w36 : ∀ x1' x2' x3', W (.reg (HU_RG x1' x2' x3')))
    (w37 : W (.reg LG_REFUSED)) (h : P s)
    (ht : execSequencerDecision sq s = .next t) : P t := by
  unfold Sys2Proof.Machine.execSequencerDecision at ht
  cases ht
  repeat' first
    | with_reducible assumption
    | with_reducible exact w2 _
    | with_reducible exact w3 _
    | with_reducible exact w4 _
    | with_reducible exact w5 _
    | with_reducible exact w9 _
    | with_reducible exact w10 _
    | with_reducible exact w13 _
    | with_reducible exact w15 _
    | with_reducible exact w16 _
    | with_reducible exact w23 _
    | with_reducible exact w24 _
    | with_reducible exact w25 _
    | with_reducible exact w26 _
    | with_reducible exact w30 _
    | with_reducible exact w31 _
    | with_reducible exact w32 _
    | with_reducible exact w33 _
    | with_reducible exact w34 _
    | with_reducible exact w35 _
    | with_reducible exact w36 _ _ _
    | with_reducible apply Closed.pruneResults hP
    | with_reducible apply Closed.decideNext hP
    | intro _
    | split
    | dsimp only

theorem execTimerExpiry (hP : Closed W P) (sq : Fin 32) (i : Fin 4) {s : State} {t : State} (w1 : W (.seq sq.val))
    (w2 : W (.reg (SQ_TMR_LO sq.val i.val))) (w3 : W (.reg (SQ_TMR_HI sq.val i.val))) (h : P s)
    (ht : execTimerExpiry sq i s = .next t) : P t := by
  unfold Sys2Proof.Machine.execTimerExpiry at ht
  cases ht
  repeat' first
    | with_reducible assumption
    | with_reducible apply Closed.setTimer hP
    | with_reducible apply Closed.modSeq hP
    | intro _
    | split
    | dsimp only

theorem execDeadTimeEnd (hP : Closed W P) (sq : Fin 32) {s : State} {t : State} (w1 : W (.seq sq.val))
    (w2 : W (.reg (SQ_STATUS sq.val))) (h : P s)
    (ht : execDeadTimeEnd sq s = .next t) : P t := by
  unfold Sys2Proof.Machine.execDeadTimeEnd at ht
  cases ht
  repeat' first
    | with_reducible assumption
    | with_reducible apply Closed.setRegBit hP
    | with_reducible apply Closed.modSeq hP
    | intro _
    | split
    | dsimp only

theorem execMarkWrite (hP : Closed W P) (stream : Fin 4096) {s : State} {t : State} (w1 : ∀ x1', W (.sched x1'))
    (w2 : ∀ x1', W (.lane x1')) (w3 : ∀ x1', W (.queue (stakeQ x1'))) (w4 : ∀ x1', W (.stream x1')) (h : P s)
    (ht : execMarkWrite stream s = .next t) : P t := by
  unfold Sys2Proof.Machine.execMarkWrite at ht
  cases ht
  repeat' first
    | with_reducible assumption
    | with_reducible exact w1 _
    | with_reducible exact w2 _
    | with_reducible exact w3 _
    | with_reducible exact w4 _
    | with_reducible apply Closed.writeMark hP
    | with_reducible apply Closed.modStream hP
    | intro _
    | split
    | dsimp only

theorem execTrigOutPulseStart (hP : Closed W P) (pin : Fin 4) {s : State} {t : State} (w1 : W (.tout pin.val))
    (w2 : W (.reg (HUB_TOUT_COUNT pin.val))) (h : P s)
    (ht : execTrigOutPulseStart pin s = .next t) : P t := by
  unfold Sys2Proof.Machine.execTrigOutPulseStart at ht
  cases ht
  repeat' first
    | with_reducible assumption
    | with_reducible apply hP.setTout
    | with_reducible apply Closed.incReg hP
    | intro _
    | split
    | dsimp only

theorem execTrigOutPulseEnd (hP : Closed W P) (pin : Fin 4) {s : State} {t : State} (w1 : W (.tout pin.val))
    (w2 : W .fw) (w3 : W (.reg (HUB_TOUT_CTL pin.val))) (h : P s)
    (ht : execTrigOutPulseEnd pin s = .next t) : P t := by
  unfold Sys2Proof.Machine.execTrigOutPulseEnd at ht
  cases ht
  repeat' first
    | with_reducible assumption
    | with_reducible apply Closed.modTout hP
    | with_reducible apply hP.fwWrite
    | intro _
    | split
    | dsimp only

theorem execStepAnchor (hP : Closed W P) (cu : Fin 8) (src : AnchorSrc) {s : State} {t : State}
    (w1 : W (.cmp cu.val)) (w2 : W (.queue 1)) (w3 : W .station) (w4 : ∀ x1', W (.stream x1'))
    (w5 : ∀ x1', W (.sched x1')) (w6 : W .weaver) (w7 : W (.reg (HUB_Q 1 16))) (w8 : W (.reg (HUB_Q 1 24)))
    (w9 : W (.reg (HUB_Q 1 20))) (w10 : W (.reg (CU cu.val 16))) (w11 : W (.reg (CU cu.val 16 + 4)))
    (w12 : W (.reg (CU cu.val 24))) (w13 : W (.reg (CU cu.val 36))) (w14 : ∀ x1', W (.reg (CU x1' 44)))
    (w15 : ∀ x1', W (.reg (CU x1' 12))) (w16 : ∀ x1', W (.reg (CU x1' 28))) (w17 : ∀ x1', W (.reg (CU x1' 32)))
    (h : P s)
    (ht : execStepAnchor cu src s = .next t) : P t := by
  unfold Sys2Proof.Machine.execStepAnchor at ht
  cases ht
  repeat' first
    | with_reducible assumption
    | with_reducible exact w4 _
    | with_reducible exact w5 _
    | with_reducible exact w14 _
    | with_reducible exact w15 _
    | with_reducible exact w16 _
    | with_reducible exact w17 _
    | with_reducible apply Closed.anchor hP
    | with_reducible apply Closed.modCmp hP
    | with_reducible apply Closed.takeShed hP
    | intro _
    | split
    | dsimp only

theorem execExpectedEdgeTimeout (hP : Closed W P) (cu : Fin 8) {s : State} {t : State} (w1 : W (.cmp cu.val))
    (w2 : ∀ x1', W (.stream x1')) (w3 : ∀ x1', W (.sched x1')) (w4 : W .trig) (w5 : W .drawn)
    (w6 : W (.reg (CU cu.val 24))) (w7 : W (.reg (CU cu.val 36))) (h : P s)
    (ht : execExpectedEdgeTimeout cu s = .next t) : P t := by
  unfold Sys2Proof.Machine.execExpectedEdgeTimeout at ht
  cases ht
  repeat' first
    | with_reducible assumption
    | with_reducible exact w2 _
    | with_reducible exact w3 _
    | with_reducible apply Closed.decideFirst hP
    | intro _
    | split
    | dsimp only

theorem execCheckLevel (hP : Closed W P) (cu : Fin 8) {s : State} {t : State} (w1 : W (.cmp cu.val))
    (w2 : ∀ x1', W (.stream x1')) (w3 : ∀ x1', W (.sched x1')) (w4 : W .trig) (w5 : W .drawn)
    (w6 : W (.reg (CU cu.val 24))) (w7 : W (.reg (CU cu.val 36))) (h : P s)
    (ht : execCheckLevel cu s = .next t) : P t := by
  unfold Sys2Proof.Machine.execCheckLevel at ht
  cases ht
  repeat' first
    | with_reducible assumption
    | with_reducible exact w2 _
    | with_reducible exact w3 _
    | with_reducible apply Closed.decideFirst hP
    | intro _
    | split
    | dsimp only

theorem execDecisionInstant (hP : Closed W P) (cu : Fin 8) (fail : Option Nat) {s : State} {t : State}
    (w1 : ∀ x1', W (.de x1')) (w2 : ∀ x1', W (.ref x1')) (w3 : W (.queue 2)) (w4 : W .station) (w5 : W .mbx)
    (w6 : W .ledger) (w7 : W (.queue 1)) (w8 : ∀ x1', W (.stream x1')) (w9 : ∀ x1', W (.sched x1'))
    (w10 : ∀ x1', W (.cmp x1')) (w11 : W .trig) (w12 : W .drawn) (w13 : ∀ x1', W (.reg (DE x1' 16)))
    (w14 : ∀ x1', W (.reg (DE x1' 20))) (w15 : ∀ x1', W (.reg (DE x1' 24))) (w16 : ∀ x1', W (.reg (DE x1' 28)))
    (w17 : ∀ x1', W (.reg (DE x1' 32))) (w18 : ∀ x1', W (.reg (DE x1' 36))) (w19 : W (.reg (HUB_Q 2 16)))
    (w20 : W (.reg (HUB_Q 2 24))) (w21 : W (.reg (HUB_Q 2 20))) (w22 : W (.reg MB_NTF_NSEQ))
    (w23 : W (.reg (HUB_Q 1 16))) (w24 : W (.reg (HUB_Q 1 24))) (w25 : W (.reg (HUB_Q 1 20)))
    (w26 : ∀ x1', W (.reg (CU x1' 12))) (w27 : ∀ x1', W (.reg (CU x1' 28))) (w28 : ∀ x1', W (.reg (CU x1' 32)))
    (w29 : ∀ x1', W (.reg (DE x1' 4))) (w30 : ∀ x1', W (.reg (DE x1' 4 + 4))) (w31 : ∀ x1', W (.reg (DE x1' 12)))
    (w32 : W (.reg (CU cu.val 24))) (w33 : W (.reg (CU cu.val 36))) (w34 : W (.reg (CU cu.val 16)))
    (w35 : W (.reg (CU cu.val 16 + 4))) (h : P s)
    (ht : execDecisionInstant cu fail s = .next t) : P t := by
  unfold Sys2Proof.Machine.execDecisionInstant at ht
  cases ht
  repeat' first
    | with_reducible assumption
    | with_reducible exact w1 _
    | with_reducible exact w2 _
    | with_reducible exact w8 _
    | with_reducible exact w9 _
    | with_reducible exact w10 _
    | with_reducible exact w13 _
    | with_reducible exact w14 _
    | with_reducible exact w15 _
    | with_reducible exact w16 _
    | with_reducible exact w17 _
    | with_reducible exact w18 _
    | with_reducible exact w26 _
    | with_reducible exact w27 _
    | with_reducible exact w28 _
    | with_reducible exact w29 _
    | with_reducible exact w30 _
    | with_reducible exact w31 _
    | with_reducible apply Closed.loseReference hP
    | with_reducible apply Closed.playedCorrupt hP
    | with_reducible apply Closed.finishStep hP
    | with_reducible apply Closed.playedMember hP
    | intro _
    | split
    | dsimp only

theorem execReferenceLost (hP : Closed W P) (ref : Fin 1024) (cause : RefLossCause) {s : State} {t : State}
    (w1 : W (.ref ref.val)) (w2 : W (.queue 2)) (w3 : W .station) (w4 : W .mbx) (w5 : W .ledger) (w6 : W (.queue 1))
    (w7 : ∀ x1', W (.stream x1')) (w8 : ∀ x1', W (.sched x1')) (w9 : ∀ x1', W (.cmp x1'))
    (w10 : W (.reg (HUB_Q 2 16))) (w11 : W (.reg (HUB_Q 2 24))) (w12 : W (.reg (HUB_Q 2 20)))
    (w13 : W (.reg MB_NTF_NSEQ)) (w14 : W (.reg (HUB_Q 1 16))) (w15 : W (.reg (HUB_Q 1 24)))
    (w16 : W (.reg (HUB_Q 1 20))) (w17 : ∀ x1', W (.reg (CU x1' 12))) (w18 : ∀ x1', W (.reg (CU x1' 28)))
    (w19 : ∀ x1', W (.reg (CU x1' 32))) (h : P s)
    (ht : execReferenceLost ref cause s = .next t) : P t := by
  unfold Sys2Proof.Machine.execReferenceLost at ht
  cases ht
  repeat' first
    | with_reducible assumption
    | with_reducible exact w7 _
    | with_reducible exact w8 _
    | with_reducible exact w9 _
    | with_reducible exact w17 _
    | with_reducible exact w18 _
    | with_reducible exact w19 _
    | with_reducible apply Closed.loseReference hP
    | intro _
    | split
    | dsimp only

theorem execHistValue (hP : Closed W P) (hu : Fin 4) (parity : Bool) {s : State} {t : State} (w1 : W (.hist hu.val))
    (w2 : ∀ x1' x2', W (.reg (HU_RG hu.val x1' x2'))) (w3 : W (.reg (HU_PARITY hu.val))) (h : P s)
    (ht : execHistValue hu parity s = .next t) : P t := by
  unfold Sys2Proof.Machine.execHistValue at ht
  cases ht
  repeat' first
    | with_reducible assumption
    | with_reducible exact w2 _ _
    | with_reducible apply Closed.binValue hP
    | with_reducible apply Closed.modHist hP
    | intro _
    | split
    | dsimp only

theorem execSweepColumnEnd (hP : Closed W P) (column : ColumnRead) {s : State} {t : State}
    (w1 : W (.hist column.hu.val)) (w2 : W (.reg (HU_PARITY column.hu.val)))
    (w3 : ∀ x1' x2', W (.reg (HU_RG column.hu.val x1' x2'))) (h : P s)
    (ht : execSweepColumnEnd column s = .next t) : P t := by
  unfold Sys2Proof.Machine.execSweepColumnEnd at ht
  cases ht
  repeat' first
    | with_reducible assumption
    | with_reducible exact w3 _ _
    | with_reducible apply Closed.endColumn hP
    | with_reducible apply Closed.modHist hP
    | intro _
    | split
    | dsimp only

theorem execDeferredSwap (hP : Closed W P) (hu : Fin 4) (region : Fin 16) {s : State} {t : State}
    (w1 : W (.hist hu.val)) (w2 : W .drawn) (w3 : W (.reg (HU_RG hu.val region.val 0))) (h : P s)
    (ht : execDeferredSwap hu region s = .next t) : P t := by
  unfold Sys2Proof.Machine.execDeferredSwap at ht
  cases ht
  repeat' first
    | with_reducible assumption
    | with_reducible apply Closed.startSpill hP
    | with_reducible apply Closed.modRegion hP
    | intro _
    | split
    | dsimp only

theorem execSpillDone (hP : Closed W P) (read : SpillRead) {s : State} {t : State} (w1 : W (.hist read.hu.val))
    (w2 : ∀ x1', W (.image x1')) (w3 : ∀ x1', W (.sched x1')) (w4 : W (.queue 2)) (w5 : W .station) (w6 : W .mbx)
    (w7 : W .ledger) (w8 : W .weaver) (w9 : W (.reg (HU_PARITY read.hu.val)))
    (w10 : W (.reg (HU_IMG_LOST read.hu.val))) (w11 : W (.reg (HU_SPILLS read.hu.val)))
    (w12 : ∀ x1', W (.reg (HU_RG read.hu.val x1' 32))) (w13 : W (.reg (HUB_Q 2 16))) (w14 : W (.reg (HUB_Q 2 24)))
    (w15 : W (.reg (HUB_Q 2 20))) (w16 : W (.reg MB_NTF_NSEQ)) (w17 : ∀ x1', W (.reg (HU_RG read.hu.val x1' 0)))
    (h : P s)
    (ht : execSpillDone read s = .next t) : P t := by
  unfold Sys2Proof.Machine.execSpillDone at ht
  cases ht
  repeat' first
    | with_reducible assumption
    | with_reducible exact w2 _
    | with_reducible exact w3 _
    | with_reducible exact w12 _
    | with_reducible exact w17 _
    | with_reducible apply Closed.spillOne hP
    | intro _
    | split
    | dsimp only

theorem execGateInEdge (hP : Closed W P) (pin : Fin 4) (rise : Bool) (edge : PinEdge) {s : State} {t : State}
    (w1 : ∀ x1', W (.ival x1')) (h : P s)
    (ht : execGateInEdge pin rise edge s = .next t) : P t := by
  unfold Sys2Proof.Machine.execGateInEdge at ht
  cases ht
  repeat' first
    | with_reducible assumption
    | with_reducible exact w1 _
    | with_reducible apply Closed.each hP
    | with_reducible apply Closed.ivalEvent hP
    | with_reducible apply Closed.ivPush hP
    | intro _
    | split
    | dsimp only

theorem execIntervalEvent (hP : Closed W P) (iu : Fin 16) {s : State} {t : State} (w1 : W (.ival iu.val))
    (w2 : W .drawn) (w3 : ∀ x1', W (.stream x1')) (w4 : ∀ x1', W (.sched x1')) (w5 : W (.reg (IU iu.val 88)))
    (w6 : W (.reg (IU iu.val 92))) (w7 : W (.reg (IU iu.val 32))) (w8 : W (.reg (IU iu.val 32 + 4)))
    (w9 : W (.reg (IU iu.val 40))) (w10 : W (.reg (IU iu.val 40 + 4))) (w11 : W (.reg (IU iu.val 48)))
    (w12 : W (.reg (IU iu.val 48 + 4))) (w13 : W (.reg (IU iu.val 56))) (w14 : W (.reg (IU iu.val 56 + 4)))
    (w15 : W (.reg (IU iu.val 64))) (w16 : W (.reg (IU iu.val 68))) (w17 : W (.reg (IU iu.val 80)))
    (w18 : W (.reg (IU iu.val 84))) (h : P s)
    (ht : execIntervalEvent iu s = .next t) : P t := by
  unfold Sys2Proof.Machine.execIntervalEvent at ht
  cases ht
  cases hd : s.ivStep iu (s.iuBound iu) with
  | none => exact h
  | some u =>
    refine Closed.ivStep hP iu _ ?_ ?_ ?_ ?_ ?_ ?_ ?_ ?_ ?_ ?_ ?_ ?_ ?_ ?_ ?_ ?_ ?_ ?_ h hd <;>
      first
      | assumption
      | exact w4 _
      | exact w3 _

theorem execFreeWindowEnd (hP : Closed W P) (iu : Fin 16) {s : State} {t : State} (w1 : W (.ival iu.val))
    (w2 : W .drawn) (w3 : ∀ x1', W (.stream x1')) (w4 : ∀ x1', W (.sched x1')) (w5 : W (.reg (IU iu.val 88)))
    (w6 : W (.reg (IU iu.val 32))) (w7 : W (.reg (IU iu.val 32 + 4))) (w8 : W (.reg (IU iu.val 40)))
    (w9 : W (.reg (IU iu.val 40 + 4))) (w10 : W (.reg (IU iu.val 48))) (w11 : W (.reg (IU iu.val 48 + 4)))
    (w12 : W (.reg (IU iu.val 56))) (w13 : W (.reg (IU iu.val 56 + 4))) (w14 : W (.reg (IU iu.val 64)))
    (w15 : W (.reg (IU iu.val 68))) (w16 : W (.reg (IU iu.val 80))) (h : P s)
    (ht : execFreeWindowEnd iu s = .next t) : P t := by
  unfold Sys2Proof.Machine.execFreeWindowEnd at ht
  cases ht
  repeat' first
    | with_reducible assumption
    | with_reducible exact w3 _
    | with_reducible exact w4 _
    | with_reducible apply Closed.freeNext hP
    | intro _
    | split
    | dsimp only

theorem execFlushTime (hP : Closed W P) (stream : Fin 4096) {s : State} {t : State} (w1 : ∀ x1', W (.lane x1'))
    (w2 : ∀ x1', W (.queue (stakeQ x1'))) (w3 : ∀ x1', W (.stream x1')) (w4 : ∀ x1', W (.sched x1')) (h : P s)
    (ht : execFlushTime stream s = .next t) : P t := by
  unfold Sys2Proof.Machine.execFlushTime at ht
  cases ht
  repeat' first
    | with_reducible assumption
    | with_reducible exact w1 _
    | with_reducible exact w2 _
    | with_reducible exact w3 _
    | with_reducible exact w4 _
    | with_reducible apply Closed.flushTime hP
    | intro _
    | split
    | dsimp only

theorem execDigestPeriodic (hP : Closed W P) {s : State} {t : State} (w1 : ∀ x1', W (.stream x1'))
    (w2 : ∀ x1', W (.sched x1')) (h : P s)
    (ht : execDigestPeriodic s = .next t) : P t := by
  unfold Sys2Proof.Machine.execDigestPeriodic at ht
  cases ht
  repeat' first
    | with_reducible assumption
    | with_reducible exact w1 _
    | with_reducible exact w2 _
    | with_reducible apply Closed.writeDigests hP
    | intro _
    | split
    | dsimp only

theorem execBufferCompletion (hP : Closed W P) (stream : Fin 4096) {s : State} {t : State}
    (w1 : W (.stream stream.val)) (w2 : W .pcie) (w3 : W (.queue 2)) (w4 : W .station) (w5 : W .mbx)
    (w6 : ∀ x1', W (.sched x1')) (w7 : ∀ x1', W (.reg (CE x1' 12))) (w8 : ∀ x1', W (.reg (CE x1' 12 + 4)))
    (w9 : ∀ x1', W (.reg (CE x1' 20))) (w10 : ∀ x1' x2', W (.reg (CE_SLOT x1' x2')))
    (w11 : ∀ x1', W (.reg (CE x1' 0))) (w12 : W (.reg (HUB_Q 2 16))) (w13 : W (.reg (HUB_Q 2 24)))
    (w14 : W (.reg (HUB_Q 2 20))) (w15 : W (.reg MB_NTF_NSEQ)) (h : P s)
    (ht : execBufferCompletion stream s = .next t) : P t := by
  unfold Sys2Proof.Machine.execBufferCompletion at ht
  cases ht
  repeat' first
    | with_reducible assumption
    | with_reducible exact w6 _
    | with_reducible exact w7 _
    | with_reducible exact w8 _
    | with_reducible exact w9 _
    | with_reducible exact w10 _ _
    | with_reducible exact w11 _
    | with_reducible apply Closed.deliver hP
    | intro _
    | split
    | dsimp only

theorem execLossSegment (hP : Closed W P) (stream : Fin 4096) {s : State} {t : State} (w1 : W (.stream stream.val))
    (h : P s)
    (ht : execLossSegment stream s = .next t) : P t := by
  unfold Sys2Proof.Machine.execLossSegment at ht
  cases ht
  repeat' first
    | with_reducible assumption
    | with_reducible apply Closed.presentLoss hP
    | intro _
    | split
    | dsimp only

theorem execQueueWrite (hP : Closed W P) (q : QRef) (item : QueueItem) (last : Bool)
    (parity : Bool) {s : State} {t : State} (w1 : ∀ x1', W (.stream x1')) (w2 : ∀ x1', W (.queue x1'))
    (w3 : ∀ x1', W (.sched x1')) (w4 : W .station) (w5 : W .mbx) (w6 : ∀ x1', W (.lane x1'))
    (w7 : ∀ x1', W (.reg (HUB_Q x1' 16))) (w8 : ∀ x1', W (.reg (HUB_Q x1' 24)))
    (w9 : ∀ x1', W (.reg (HUB_Q x1' 20))) (w10 : ∀ x1', W (.reg (STK_PACK_LOST x1'))) (h : P s)
    (ht : execQueueWrite q item last parity s = .next t) : P t := by
  unfold Sys2Proof.Machine.execQueueWrite at ht
  cases ht
  repeat' first
    | with_reducible assumption
    | with_reducible exact w1 _
    | with_reducible exact w2 _
    | with_reducible exact w3 _
    | with_reducible exact w6 _
    | with_reducible exact w7 _
    | with_reducible exact w8 _
    | with_reducible exact w9 _
    | with_reducible exact w10 _
    | with_reducible apply Closed.endCycle hP
    | with_reducible apply Closed.queueWrite hP
    | with_reducible apply Closed.each hP
    | with_reducible apply Closed.consumeOp hP
    | intro _
    | split
    | dsimp only

theorem execPacketCommit (hP : Closed W P) (q : QRef) (item : QueueItem) {s : State} {t : State}
    (w1 : ∀ x1', W (.stream x1')) (w2 : ∀ x1', W (.queue x1')) (w3 : ∀ x1', W (.sched x1')) (w4 : W .station)
    (w5 : W .mbx) (w6 : ∀ x1', W (.lane x1')) (w7 : ∀ x1', W (.reg (HUB_Q x1' 16)))
    (w8 : ∀ x1', W (.reg (HUB_Q x1' 24))) (w9 : ∀ x1', W (.reg (HUB_Q x1' 20)))
    (w10 : ∀ x1', W (.reg (STK_PACK_LOST x1'))) (h : P s)
    (ht : execPacketCommit q item s = .next t) : P t := by
  unfold Sys2Proof.Machine.execPacketCommit at ht
  cases ht
  repeat' first
    | with_reducible assumption
    | with_reducible exact w1 _
    | with_reducible exact w2 _
    | with_reducible exact w3 _
    | with_reducible exact w6 _
    | with_reducible exact w7 _
    | with_reducible exact w8 _
    | with_reducible exact w9 _
    | with_reducible exact w10 _
    | with_reducible apply Closed.endCycle hP
    | with_reducible apply Closed.queueWrite hP
    | with_reducible apply Closed.each hP
    | with_reducible apply Closed.consumeOp hP
    | intro _
    | split
    | dsimp only

theorem execPacketAbort (hP : Closed W P) (q : QRef) {s : State} {t : State} (w1 : ∀ x1', W (.queue x1'))
    (w2 : W .station) (w3 : ∀ x1', W (.reg (HUB_Q x1' 16))) (w4 : ∀ x1', W (.reg (HUB_Q x1' 24)))
    (w5 : ∀ x1', W (.reg (HUB_Q x1' 20))) (h : P s)
    (ht : execPacketAbort q s = .next t) : P t := by
  unfold Sys2Proof.Machine.execPacketAbort at ht
  cases ht
  repeat' first
    | with_reducible assumption
    | with_reducible exact w1 _
    | with_reducible exact w3 _
    | with_reducible exact w4 _
    | with_reducible exact w5 _
    | with_reducible apply Closed.settleQueue hP
    | intro _
    | split
    | dsimp only

theorem execQueueRead (hP : Closed W P) (q : QRef) (n : Nat) {s : State} {t : State} (w1 : ∀ x1', W (.stream x1'))
    (w2 : ∀ x1', W (.queue x1')) (w3 : ∀ x1', W (.sched x1')) (w4 : W .station)
    (w5 : ∀ x1', W (.reg (HUB_Q x1' 20))) (h : P s)
    (ht : execQueueRead q n s = .next t) : P t := by
  unfold Sys2Proof.Machine.execQueueRead at ht
  cases ht
  repeat' first
    | with_reducible assumption
    | with_reducible exact w1 _
    | with_reducible exact w2 _
    | with_reducible exact w3 _
    | with_reducible exact w5 _
    | with_reducible apply Closed.endCycle hP
    | with_reducible apply Closed.consumeOp hP
    | intro _
    | split
    | dsimp only

theorem execPop (hP : Closed W P) (q : QRef) (n : Nat) {s : State} {t : State} (w1 : ∀ x1', W (.stream x1'))
    (w2 : ∀ x1', W (.queue x1')) (w3 : ∀ x1', W (.sched x1')) (w4 : W .station)
    (w5 : ∀ x1', W (.reg (HUB_Q x1' 20))) (h : P s)
    (ht : execPop q n s = .next t) : P t := by
  unfold Sys2Proof.Machine.execPop at ht
  cases ht
  repeat' first
    | with_reducible assumption
    | with_reducible exact w1 _
    | with_reducible exact w2 _
    | with_reducible exact w3 _
    | with_reducible exact w5 _
    | with_reducible apply Closed.endCycle hP
    | with_reducible apply Closed.consumeOp hP
    | intro _
    | split
    | dsimp only

theorem execSetMark (hP : Closed W P) (q : QRef) {s : State} {t : State} (w1 : ∀ x1', W (.stream x1'))
    (w2 : ∀ x1', W (.queue x1')) (w3 : ∀ x1', W (.sched x1')) (w4 : W .station)
    (w5 : ∀ x1', W (.reg (HUB_Q x1' 20))) (h : P s)
    (ht : execSetMark q s = .next t) : P t := by
  unfold Sys2Proof.Machine.execSetMark at ht
  cases ht
  repeat' first
    | with_reducible assumption
    | with_reducible exact w1 _
    | with_reducible exact w2 _
    | with_reducible exact w3 _
    | with_reducible exact w5 _
    | with_reducible apply Closed.endCycle hP
    | with_reducible apply Closed.consumeOp hP
    | intro _
    | split
    | dsimp only

theorem execRewind (hP : Closed W P) (q : QRef) {s : State} {t : State} (w1 : ∀ x1', W (.stream x1'))
    (w2 : ∀ x1', W (.queue x1')) (w3 : ∀ x1', W (.sched x1')) (w4 : W .station)
    (w5 : ∀ x1', W (.reg (HUB_Q x1' 20))) (h : P s)
    (ht : execRewind q s = .next t) : P t := by
  unfold Sys2Proof.Machine.execRewind at ht
  cases ht
  repeat' first
    | with_reducible assumption
    | with_reducible exact w1 _
    | with_reducible exact w2 _
    | with_reducible exact w3 _
    | with_reducible exact w5 _
    | with_reducible apply Closed.endCycle hP
    | with_reducible apply Closed.consumeOp hP
    | intro _
    | split
    | dsimp only

theorem execRelease (hP : Closed W P) (q : QRef) {s : State} {t : State} (w1 : ∀ x1', W (.stream x1'))
    (w2 : ∀ x1', W (.queue x1')) (w3 : ∀ x1', W (.sched x1')) (w4 : W .station)
    (w5 : ∀ x1', W (.reg (HUB_Q x1' 20))) (h : P s)
    (ht : execRelease q s = .next t) : P t := by
  unfold Sys2Proof.Machine.execRelease at ht
  cases ht
  repeat' first
    | with_reducible assumption
    | with_reducible exact w1 _
    | with_reducible exact w2 _
    | with_reducible exact w3 _
    | with_reducible exact w5 _
    | with_reducible apply Closed.endCycle hP
    | with_reducible apply Closed.consumeOp hP
    | intro _
    | split
    | dsimp only

theorem execReleaseToMark (hP : Closed W P) (q : QRef) {s : State} {t : State} (w1 : ∀ x1', W (.stream x1'))
    (w2 : ∀ x1', W (.queue x1')) (w3 : ∀ x1', W (.sched x1')) (w4 : W .station)
    (w5 : ∀ x1', W (.reg (HUB_Q x1' 20))) (h : P s)
    (ht : execReleaseToMark q s = .next t) : P t := by
  unfold Sys2Proof.Machine.execReleaseToMark at ht
  cases ht
  repeat' first
    | with_reducible assumption
    | with_reducible exact w1 _
    | with_reducible exact w2 _
    | with_reducible exact w3 _
    | with_reducible exact w5 _
    | with_reducible apply Closed.endCycle hP
    | with_reducible apply Closed.consumeOp hP
    | intro _
    | split
    | dsimp only

theorem execStalledReadComplete (hP : Closed W P) (q : QRef) {s : State} {t : State} (w1 : ∀ x1', W (.stream x1'))
    (w2 : ∀ x1', W (.queue x1')) (w3 : ∀ x1', W (.sched x1')) (w4 : W .station)
    (w5 : ∀ x1', W (.reg (HUB_Q x1' 20))) (h : P s)
    (ht : execStalledReadComplete q s = .next t) : P t := by
  unfold Sys2Proof.Machine.execStalledReadComplete at ht
  cases ht
  repeat' first
    | with_reducible assumption
    | with_reducible exact w1 _
    | with_reducible exact w2 _
    | with_reducible exact w3 _
    | with_reducible exact w5 _
    | with_reducible apply Closed.endCycle hP
    | with_reducible apply Closed.consume hP
    | with_reducible apply Closed.finishVword hP
    | intro _
    | split
    | dsimp only

theorem execReadWithdrawn (hP : Closed W P) (q : QRef) {s : State} {t : State} (w1 : ∀ x1', W (.stream x1'))
    (w2 : ∀ x1', W (.queue x1')) (w3 : ∀ x1', W (.sched x1')) (w4 : W .station) (w5 : W (.reg STN_WITHDRAWN))
    (h : P s)
    (ht : execReadWithdrawn q s = .next t) : P t := by
  unfold Sys2Proof.Machine.execReadWithdrawn at ht
  cases ht
  repeat' first
    | with_reducible assumption
    | with_reducible exact w1 _
    | with_reducible exact w2 _
    | with_reducible exact w3 _
    | with_reducible apply Closed.consume hP
    | with_reducible apply Closed.incReg hP
    | with_reducible apply hP.modStation
    | intro _
    | split
    | dsimp only

theorem execBankHandover (hP : Closed W P) (q : QRef) {s : State} {t : State} (w1 : ∀ x1', W (.stream x1'))
    (w2 : ∀ x1', W (.queue x1')) (h : P s)
    (ht : execBankHandover q s = .next t) : P t := by
  unfold Sys2Proof.Machine.execBankHandover at ht
  cases ht
  repeat' first
    | with_reducible assumption
    | with_reducible exact w1 _
    | with_reducible exact w2 _
    | with_reducible apply Closed.modStream hP
    | with_reducible apply Closed.modQueue hP
    | intro _
    | split
    | dsimp only

theorem execBankDrainDone (hP : Closed W P) (q : QRef) {s : State} {t : State} (w1 : ∀ x1', W (.stream x1'))
    (w2 : ∀ x1', W (.queue x1')) (h : P s)
    (ht : execBankDrainDone q s = .next t) : P t := by
  unfold Sys2Proof.Machine.execBankDrainDone at ht
  cases ht
  repeat' first
    | with_reducible assumption
    | with_reducible exact w1 _
    | with_reducible exact w2 _
    | with_reducible apply Closed.modStream hP
    | with_reducible apply Closed.modQueue hP
    | intro _
    | split
    | dsimp only

theorem execData (hP : Closed W P) (item : StationWord) {s : State} {t : State} (w1 : ∀ x1', W (.stream x1'))
    (w2 : ∀ x1', W (.queue x1')) (w3 : ∀ x1', W (.sched x1')) (w4 : W .station) (w5 : W .mbx)
    (w6 : ∀ x1', W (.lane x1')) (w7 : W (.reg (HUB_Q 0 16))) (w8 : W (.reg (HUB_Q 0 24)))
    (w9 : W (.reg (HUB_Q 0 20))) (w10 : ∀ x1', W (.reg (STK_PACK_LOST x1'))) (h : P s)
    (ht : execData item s = .next t) : P t := by
  unfold Sys2Proof.Machine.execData at ht
  cases ht
  repeat' first
    | with_reducible assumption
    | with_reducible exact w1 _
    | with_reducible exact w2 _
    | with_reducible exact w3 _
    | with_reducible exact w6 _
    | with_reducible exact w10 _
    | with_reducible apply Closed.stationWord hP
    | intro _
    | split
    | dsimp only

theorem execDataLast (hP : Closed W P) (item : StationWord) (at_ : Time) {s : State} {t : State}
    (w1 : ∀ x1', W (.stream x1')) (w2 : ∀ x1', W (.queue x1')) (w3 : ∀ x1', W (.sched x1')) (w4 : W .station)
    (w5 : W .mbx) (w6 : ∀ x1', W (.lane x1')) (w7 : W (.reg (HUB_Q 0 16))) (w8 : W (.reg (HUB_Q 0 24)))
    (w9 : W (.reg (HUB_Q 0 20))) (w10 : ∀ x1', W (.reg (STK_PACK_LOST x1'))) (h : P s)
    (ht : execDataLast item at_ s = .next t) : P t := by
  unfold Sys2Proof.Machine.execDataLast at ht
  cases ht
  repeat' first
    | with_reducible assumption
    | with_reducible exact w1 _
    | with_reducible exact w2 _
    | with_reducible exact w3 _
    | with_reducible exact w6 _
    | with_reducible exact w10 _
    | with_reducible apply Closed.stationWord hP
    | intro _
    | split
    | dsimp only

theorem execControlAbort (hP : Closed W P) {s : State} {t : State} (w1 : W (.queue 0)) (w2 : W .station)
    (w3 : W (.reg (HUB_Q 0 16))) (w4 : W (.reg (HUB_Q 0 24))) (w5 : W (.reg (HUB_Q 0 20))) (h : P s)
    (ht : execControlAbort s = .next t) : P t := by
  unfold Sys2Proof.Machine.execControlAbort at ht
  cases ht
  repeat' first
    | with_reducible assumption
    | with_reducible apply Closed.abortAnnotation hP
    | intro _
    | split
    | dsimp only

theorem execControlDiscard (hP : Closed W P) {s : State} {t : State} (w1 : W (.queue 1)) (w2 : W .station)
    (w3 : W (.reg (HUB_Q 1 16))) (w4 : W (.reg (HUB_Q 1 24))) (w5 : W (.reg (HUB_Q 1 20))) (h : P s)
    (ht : execControlDiscard s = .next t) : P t := by
  unfold Sys2Proof.Machine.execControlDiscard at ht
  cases ht
  repeat' first
    | with_reducible assumption
    | with_reducible apply Closed.settleQueue hP
    | with_reducible apply hP.modStation
    | intro _
    | split
    | dsimp only

theorem execVword (hP : Closed W P) {s : State} {t : State} (w1 : W (.queue 1)) (w2 : W .station)
    (w3 : W (.reg (HUB_Q 1 16))) (w4 : W (.reg (HUB_Q 1 24))) (w5 : W (.reg (HUB_Q 1 20))) (h : P s)
    (ht : execVword s = .next t) : P t := by
  unfold Sys2Proof.Machine.execVword at ht
  cases ht
  repeat' first
    | with_reducible assumption
    | with_reducible apply Closed.settleQueue hP
    | with_reducible apply hP.modStation
    | with_reducible apply Closed.finishVword hP
    | intro _
    | split
    | dsimp only

theorem execLost (hP : Closed W P) {s : State} {t : State} (w1 : W .station) (h : P s)
    (ht : execLost s = .next t) : P t := by
  unfold Sys2Proof.Machine.execLost at ht
  cases ht
  repeat' first
    | with_reducible assumption
    | with_reducible apply hP.modStation
    | intro _
    | split
    | dsimp only

theorem execPortProtocolError (hP : Closed W P) {s : State} {t : State} (w1 : W (.reg STN_ERR)) (h : P s)
    (ht : execPortProtocolError s = .next t) : P t := by
  unfold Sys2Proof.Machine.execPortProtocolError at ht
  cases ht
  repeat' first
    | with_reducible assumption
    | with_reducible apply Closed.incReg hP
    | intro _
    | split
    | dsimp only

theorem execStationTimeout (hP : Closed W P) {s : State} {t : State} (w1 : W (.queue 0)) (w2 : W .station)
    (w3 : W (.reg (HUB_Q 0 16))) (w4 : W (.reg (HUB_Q 0 24))) (w5 : W (.reg (HUB_Q 0 20)))
    (w6 : W (.reg STN_TIMEOUTS)) (h : P s)
    (ht : execStationTimeout s = .next t) : P t := by
  unfold Sys2Proof.Machine.execStationTimeout at ht
  cases ht
  repeat' first
    | with_reducible assumption
    | with_reducible apply Closed.incReg hP
    | with_reducible apply Closed.abortAnnotation hP
    | intro _
    | split
    | dsimp only

theorem execAnnotationRoute (hP : Closed W P) {s : State} {t : State} (w1 : W (.queue 0)) (w2 : W .station)
    (w3 : ∀ x1', W (.stream x1')) (w4 : ∀ x1', W (.sched x1')) (w5 : ∀ x1', W (.cmp x1')) (w6 : W .weaver)
    (w7 : W (.reg (HUB_Q 0 16))) (w8 : W (.reg (HUB_Q 0 24))) (w9 : W (.reg (HUB_Q 0 20))) (w10 : W (.reg STN_ERR))
    (w11 : W (.reg STN_DISCARDED)) (h : P s)
    (ht : execAnnotationRoute s = .next t) : P t := by
  unfold Sys2Proof.Machine.execAnnotationRoute at ht
  cases ht
  repeat' first
    | with_reducible assumption
    | with_reducible exact w3 _
    | with_reducible exact w4 _
    | with_reducible exact w5 _
    | with_reducible apply Closed.routeNext hP
    | intro _
    | split
    | dsimp only

theorem execSyncInEdge (hP : Closed W P) {s : State} {t : State} (w1 : ∀ x1', W (.sched x1'))
    (w2 : ∀ x1', W (.stream x1')) (w3 : W .time) (w4 : ∀ x1', W (.port x1')) (w5 : ∀ x1', W (.tout x1'))
    (w6 : W .ledger) (w7 : W .trig) (w8 : ∀ x1', W (.lane x1')) (w9 : ∀ x1', W (.queue (stakeQ x1')))
    (w10 : ∀ x1', W (.seq x1')) (w11 : ∀ x1', W (.box x1')) (w12 : ∀ x1', W (.hist x1'))
    (w13 : ∀ x1', W (.ival x1')) (w14 : ∀ x1', W (.cmp x1')) (w15 : W .weaver) (w16 : W (.reg PWR_STATE))
    (w17 : W (.reg STN_SYNC)) (w18 : ∀ x1', W (.reg (SQ_STATUS x1'))) (w19 : ∀ x1', W (.reg (SQ_DEAD_LO x1')))
    (w20 : ∀ x1', W (.reg (SQ_DEAD_LO x1' + 4))) (w21 : ∀ x1', W (.reg (SQ_MISSED x1')))
    (w22 : ∀ x1', W (.reg (SQ_FOLDED x1'))) (w23 : ∀ x1' x2', W (.reg (SQ_CNT_LO x1' x2')))
    (w24 : ∀ x1' x2', W (.reg (SQ_CNT_LO x1' x2' + 4))) (w25 : ∀ x1' x2', W (.reg (SQ_TMR_LO x1' x2')))
    (w26 : ∀ x1' x2', W (.reg (SQ_TMR_HI x1' x2'))) (w27 : ∀ x1' x2' x3', W (.reg (HU_RG x1' x2' x3')))
    (w28 : ∀ x1' x2', W (.reg (IU x1' x2'))) (w29 : ∀ x1', W (.reg (CU x1' 12))) (w30 : ∀ x1', W (.reg (CU x1' 36)))
    (h : P s)
    (ht : execSyncInEdge s = .next t) : P t := by
  unfold Sys2Proof.Machine.execSyncInEdge at ht
  cases ht
  repeat' first
    | with_reducible assumption
    | with_reducible exact w1 _
    | with_reducible exact w2 _
    | with_reducible exact w4 _
    | with_reducible exact w5 _
    | with_reducible exact w8 _
    | with_reducible exact w9 _
    | with_reducible exact w10 _
    | with_reducible exact w11 _
    | with_reducible exact w12 _
    | with_reducible exact w13 _
    | with_reducible exact w14 _
    | with_reducible exact w18 _
    | with_reducible exact w19 _
    | with_reducible exact w20 _
    | with_reducible exact w21 _
    | with_reducible exact w22 _
    | with_reducible exact w23 _ _
    | with_reducible exact w24 _ _
    | with_reducible exact w25 _ _
    | with_reducible exact w26 _ _
    | with_reducible exact w27 _ _ _
    | with_reducible exact w28 _ _
    | with_reducible exact w29 _
    | with_reducible exact w30 _
    | with_reducible apply Closed.syncResponse hP
    | with_reducible apply Closed.startSession hP
    | with_reducible apply Closed.loadEpoch hP
    | with_reducible apply Closed.closeAll hP
    | with_reducible apply Closed.addRegF hP
    | intro _
    | split
    | dsimp only

theorem execState (hP : Closed W P) {s : State} {t : State} (w1 : W .out) (h : P s)
    (ht : execState s = .next t) : P t := by
  unfold Sys2Proof.Machine.execState at ht
  cases ht
  repeat' first
    | with_reducible assumption
    | with_reducible apply Closed.smbus hP
    | intro _
    | split
    | dsimp only

theorem execTempHd (hP : Closed W P) (reading : Half) {s : State} {t : State} (w1 : W .power) (w2 : W .out) (h : P s)
    (ht : execTempHd reading s = .next t) : P t := by
  unfold Sys2Proof.Machine.execTempHd at ht
  cases ht
  repeat' first
    | with_reducible assumption
    | with_reducible apply Closed.smbus hP
    | with_reducible apply hP.modPower
    | intro _
    | split
    | dsimp only

theorem execTempCd0 (hP : Closed W P) (reading : Half) {s : State} {t : State} (w1 : W .power) (w2 : W .out) (h : P s)
    (ht : execTempCd0 reading s = .next t) : P t := by
  unfold Sys2Proof.Machine.execTempCd0 at ht
  cases ht
  repeat' first
    | with_reducible assumption
    | with_reducible apply Closed.smbus hP
    | with_reducible apply hP.modPower
    | intro _
    | split
    | dsimp only

theorem execTempCd1 (hP : Closed W P) (reading : Half) {s : State} {t : State} (w1 : W .out) (w2 : W .power) (h : P s)
    (ht : execTempCd1 reading s = .next t) : P t := by
  unfold Sys2Proof.Machine.execTempCd1 at ht
  cases ht
  repeat' first
    | with_reducible assumption
    | with_reducible apply Closed.smbus hP
    | with_reducible apply hP.modPower
    | intro _
    | split
    | dsimp only

theorem execOpSeconds (hP : Closed W P) {s : State} {t : State} (w1 : W .out) (h : P s)
    (ht : execOpSeconds s = .next t) : P t := by
  unfold Sys2Proof.Machine.execOpSeconds at ht
  cases ht
  repeat' first
    | with_reducible assumption
    | with_reducible apply Closed.smbus hP
    | intro _
    | split
    | dsimp only

theorem execAlert (hP : Closed W P) {s : State} {t : State} (w1 : W .out) (h : P s)
    (ht : execAlert s = .next t) : P t := by
  unfold Sys2Proof.Machine.execAlert at ht
  cases ht
  repeat' first
    | with_reducible assumption
    | with_reducible apply Closed.smbus hP
    | intro _
    | split
    | dsimp only

theorem execAck (hP : Closed W P) (v : Byte) {s : State} {t : State} (w1 : W .station) (h : P s)
    (ht : execAck v s = .next t) : P t := by
  unfold Sys2Proof.Machine.execAck at ht
  cases ht
  repeat' first
    | with_reducible assumption
    | with_reducible apply Closed.ackAlert hP
    | intro _
    | split
    | dsimp only

theorem execIdent (hP : Closed W P) {s : State} {t : State} (w1 : W .out) (h : P s)
    (ht : execIdent s = .next t) : P t := by
  unfold Sys2Proof.Machine.execIdent at ht
  cases ht
  repeat' first
    | with_reducible assumption
    | with_reducible apply Closed.smbus hP
    | intro _
    | split
    | dsimp only

theorem execCompressorBlock (hP : Closed W P) (ce : Fin 16) (slot : Fin 8) (segs : Nat) (out : CodedBlock)
    (decodeOk : Bool) {s : State} {t : State} (w1 : ∀ x1', W (.stream x1')) (w2 : ∀ x1', W (.sched x1'))
    (w3 : W (.ce ce.val)) (w4 : W .ledger) (w5 : W .weaver) (w6 : ∀ x1', W (.reg (CE x1' 12)))
    (w7 : ∀ x1', W (.reg (CE x1' 12 + 4))) (w8 : ∀ x1', W (.reg (CE x1' 20)))
    (w9 : ∀ x1' x2', W (.reg (CE_SLOT x1' x2'))) (w10 : ∀ x1', W (.reg (CE x1' 0))) (w11 : W (.reg (CE ce.val 28)))
    (w12 : ∀ x1', W (.reg (CE x1' 4))) (w13 : ∀ x1', W (.reg (CE x1' 4 + 4))) (w14 : ∀ x1', W (.reg (CE x1' 24)))
    (w15 : W (.reg (CE ce.val 36))) (h : P s)
    (ht : execCompressorBlock ce slot segs out decodeOk s = .next t) : P t := by
  unfold Sys2Proof.Machine.execCompressorBlock at ht
  cases ht
  repeat' first
    | with_reducible assumption
    | with_reducible exact w1 _
    | with_reducible exact w2 _
    | with_reducible exact w6 _
    | with_reducible exact w7 _
    | with_reducible exact w8 _
    | with_reducible exact w9 _ _
    | with_reducible exact w10 _
    | with_reducible exact w12 _
    | with_reducible exact w13 _
    | with_reducible exact w14 _
    | with_reducible apply Closed.serveSlot hP
    | intro _
    | split
    | dsimp only

theorem execKnownAnswerTestDone (hP : Closed W P) (e : EngineRef) (pass : Bool) {s : State} {t : State}
    (w1 : ∀ x1', W (.ce x1')) (w2 : W .drawn) (w3 : W .weaver) (w4 : W .ledger) (w5 : ∀ x1', W (.lane x1'))
    (w6 : W .station) (w7 : W .pcie) (w8 : ∀ x1', W (.stake x1')) (w9 : ∀ x1', W (.stream x1'))
    (w10 : ∀ x1', W (.sched x1')) (w11 : ∀ x1', W (.cmp x1')) (w12 : ∀ x1', W (.ival x1')) (w13 : W .mbx)
    (w14 : ∀ x1', W (.box x1')) (w15 : ∀ x1', W (.seq x1')) (w16 : W .fw) (w17 : ∀ x1', W (.hist x1'))
    (w18 : W .trig) (w19 : ∀ x1', W (.port x1')) (w20 : ∀ x1', W (.de x1')) (w21 : ∀ x1', W (.ref x1'))
    (w22 : W .dram) (w23 : ∀ x1', W (.image x1')) (w24 : W .time) (w25 : ∀ x1', W (.tout x1'))
    (w26 : ∀ x1', W (.queue x1')) (w27 : ∀ a, W (.reg a)) (h : P s)
    (ht : execKnownAnswerTestDone e pass s = .next t) : P t := by
  unfold Sys2Proof.Machine.execKnownAnswerTestDone at ht
  cases ht
  repeat' first
    | with_reducible assumption
    | with_reducible exact w1 _
    | with_reducible exact w5 _
    | with_reducible exact w8 _
    | with_reducible exact w9 _
    | with_reducible exact w10 _
    | with_reducible exact w11 _
    | with_reducible exact w12 _
    | with_reducible exact w14 _
    | with_reducible exact w15 _
    | with_reducible exact w17 _
    | with_reducible exact w19 _
    | with_reducible exact w20 _
    | with_reducible exact w21 _
    | with_reducible exact w23 _
    | with_reducible exact w25 _
    | with_reducible exact w26 _
    | with_reducible exact w27 _
    | with_reducible apply Closed.testEnds hP
    | with_reducible apply Closed.modCe hP
    | with_reducible apply Closed.modDe hP
    | with_reducible apply Closed.rerunOwn hP
    | intro _
    | split
    | dsimp only

theorem execContextSwitchDone (hP : Closed W P) (e : EngineRef) (slot : Fin 8) (ctx : Half)
    (ok : Bool) {s : State} {t : State} (w1 : ∀ x1', W (.stream x1')) (w2 : W .drawn) (w3 : ∀ x1', W (.sched x1'))
    (w4 : ∀ x1', W (.de x1')) (w5 : ∀ x1', W (.reg (CE x1' 12))) (w6 : ∀ x1', W (.reg (CE x1' 12 + 4)))
    (w7 : ∀ x1', W (.reg (CE x1' 20))) (w8 : ∀ x1', W (.reg (CE x1' 28)))
    (w9 : ∀ x1', W (.reg (CE_SLOT x1' slot.val))) (w10 : ∀ x1', W (.reg (CE x1' 0)))
    (w11 : ∀ x1', W (.reg (CE x1' 32))) (w12 : ∀ x1', W (.reg (CE x1' 40))) (w13 : ∀ x1', W (.reg (DE x1' 40)))
    (w14 : ∀ x1', W (.reg (DE x1' 0))) (w15 : ∀ x1', W (.reg (DE x1' 44))) (h : P s)
    (ht : execContextSwitchDone e slot ctx ok s = .next t) : P t := by
  unfold Sys2Proof.Machine.execContextSwitchDone at ht
  cases ht
  repeat' first
    | with_reducible assumption
    | with_reducible exact w1 _
    | with_reducible exact w3 _
    | with_reducible exact w4 _
    | with_reducible exact w5 _
    | with_reducible exact w6 _
    | with_reducible exact w7 _
    | with_reducible exact w8 _
    | with_reducible exact w9 _
    | with_reducible exact w10 _
    | with_reducible exact w11 _
    | with_reducible exact w12 _
    | with_reducible exact w13 _
    | with_reducible exact w14 _
    | with_reducible exact w15 _
    | with_reducible apply Closed.enterSlot hP
    | with_reducible apply Closed.enterJob hP
    | intro _
    | split
    | dsimp only

theorem execDecompressorCorrupt (hP : Closed W P) (e : Fin 8) (ref : Fin 1024) (member : Nat) (offset : Nat)
    (rerun : Rerun) {s : State} {t : State} (w1 : ∀ x1', W (.de x1')) (w2 : W .drawn) (w3 : ∀ x1', W (.sched x1'))
    (w4 : W .ledger) (w5 : W .weaver) (w6 : ∀ x1', W (.reg (DE x1' 40))) (w7 : ∀ x1', W (.reg (DE x1' 4)))
    (w8 : ∀ x1', W (.reg (DE x1' 4 + 4))) (w9 : ∀ x1', W (.reg (DE x1' 12))) (w10 : ∀ x1', W (.reg (DE x1' 20)))
    (w11 : ∀ x1', W (.reg (DE x1' 24))) (w12 : ∀ x1', W (.reg (DE x1' 28))) (w13 : ∀ x1', W (.reg (DE x1' 32)))
    (w14 : ∀ x1', W (.reg (DE x1' 36))) (w15 : W (.reg (DE e.val 16))) (h : P s)
    (ht : execDecompressorCorrupt e ref member offset rerun s = .next t) : P t := by
  unfold Sys2Proof.Machine.execDecompressorCorrupt at ht
  cases ht
  repeat' first
    | with_reducible assumption
    | with_reducible exact w1 _
    | with_reducible exact w3 _
    | with_reducible exact w6 _
    | with_reducible exact w7 _
    | with_reducible exact w8 _
    | with_reducible exact w9 _
    | with_reducible exact w10 _
    | with_reducible exact w11 _
    | with_reducible exact w12 _
    | with_reducible exact w13 _
    | with_reducible exact w14 _
    | with_reducible apply Closed.decompressorCorrupt hP
    | intro _
    | split
    | dsimp only

theorem execUncorrectableError (hP : Closed W P) (ch : Fin 16) (off : BitVec 33) (port : BitVec 3) (tagError : Bool)
    (synd : Word) {s : State} {t : State} (w1 : W .ledger) (w2 : W .weaver) (w3 : ∀ x1', W (.stream x1'))
    (w4 : ∀ x1', W (.de x1')) (w5 : ∀ x1', W (.ref x1')) (w6 : W (.queue 2)) (w7 : W .station) (w8 : W .mbx)
    (w9 : W (.queue 1)) (w10 : ∀ x1', W (.sched x1')) (w11 : ∀ x1', W (.cmp x1')) (w12 : W .dram)
    (w13 : ∀ x1', W (.image x1')) (w14 : ∀ x1', W (.hist x1')) (w15 : W .out) (w16 : W .drawn) (w17 : W .pcie)
    (w18 : ∀ a, W (.reg a)) (h : P s)
    (ht : execUncorrectableError ch off port tagError synd s = .next t) : P t := by
  unfold Sys2Proof.Machine.execUncorrectableError at ht
  cases ht
  repeat' first
    | with_reducible assumption
    | with_reducible exact w3 _
    | with_reducible exact w4 _
    | with_reducible exact w5 _
    | with_reducible exact w10 _
    | with_reducible exact w11 _
    | with_reducible exact w13 _
    | with_reducible exact w14 _
    | with_reducible exact w18 _
    | with_reducible apply Closed.answerBar2 hP
    | with_reducible apply Closed.freezeChannel hP
    | intro _
    | split
    | dsimp only

theorem execDramCommandError (hP : Closed W P) (ch : Fin 16) (off : BitVec 33) (port : BitVec 3)
    (missedRefresh : Bool) {s : State} {t : State} (w1 : W .drawn) (w2 : W .ledger) (w3 : W .weaver)
    (w4 : ∀ x1', W (.stream x1')) (w5 : ∀ x1', W (.de x1')) (w6 : ∀ x1', W (.ref x1')) (w7 : W (.queue 2))
    (w8 : W .station) (w9 : W .mbx) (w10 : W (.queue 1)) (w11 : ∀ x1', W (.sched x1')) (w12 : ∀ x1', W (.cmp x1'))
    (w13 : W .dram) (w14 : ∀ x1', W (.image x1')) (w15 : ∀ x1', W (.hist x1')) (w16 : W .out) (w17 : W .pcie)
    (w18 : ∀ a, W (.reg a)) (h : P s)
    (ht : execDramCommandError ch off port missedRefresh s = .next t) : P t := by
  unfold Sys2Proof.Machine.execDramCommandError at ht
  cases ht
  repeat' first
    | with_reducible assumption
    | with_reducible exact w4 _
    | with_reducible exact w5 _
    | with_reducible exact w6 _
    | with_reducible exact w11 _
    | with_reducible exact w12 _
    | with_reducible exact w14 _
    | with_reducible exact w15 _
    | with_reducible exact w18 _
    | with_reducible apply Closed.draw hP
    | with_reducible apply Closed.answerBar2 hP
    | with_reducible apply Closed.freezeChannel hP
    | intro _
    | split
    | dsimp only

theorem execCorrectedError (hP : Closed W P) (ch : Fin 16) (off : BitVec 33) {s : State} {t : State}
    (w1 : W (.chan ch.val)) (w2 : W (.reg (MC_CE_COUNT ch.val))) (h : P s)
    (ht : execCorrectedError ch off s = .next t) : P t := by
  unfold Sys2Proof.Machine.execCorrectedError at ht
  cases ht
  repeat' first
    | with_reducible assumption
    | with_reducible apply Closed.corrected hP
    | intro _
    | split
    | dsimp only

theorem execCorrectedHour (hP : Closed W P) (ch : Fin 16) {s : State} {t : State} (w1 : W .ledger)
    (w2 : W (.chan ch.val)) (h : P s)
    (ht : execCorrectedHour ch s = .next t) : P t := by
  unfold Sys2Proof.Machine.execCorrectedHour at ht
  cases ht
  repeat' first
    | with_reducible assumption
    | with_reducible apply Closed.modChan hP
    | with_reducible apply Closed.ledgerReq hP
    | intro _
    | split
    | dsimp only

theorem execPatrolScrub (hP : Closed W P) (ch : Fin 16) (off : BitVec 33) (result : Fin 3)
    (passEnd : Bool) {s : State} {t : State} (w1 : W (.chan ch.val)) (w2 : W .drawn) (w3 : W .ledger)
    (w4 : W .weaver) (w5 : ∀ x1', W (.stream x1')) (w6 : ∀ x1', W (.de x1')) (w7 : ∀ x1', W (.ref x1'))
    (w8 : W (.queue 2)) (w9 : W .station) (w10 : W .mbx) (w11 : W (.queue 1)) (w12 : ∀ x1', W (.sched x1'))
    (w13 : ∀ x1', W (.cmp x1')) (w14 : W .dram) (w15 : ∀ x1', W (.image x1')) (w16 : ∀ x1', W (.hist x1'))
    (w17 : W .out) (w18 : W .pcie) (w19 : ∀ a, W (.reg a)) (h : P s)
    (ht : execPatrolScrub ch off result passEnd s = .next t) : P t := by
  unfold Sys2Proof.Machine.execPatrolScrub at ht
  cases ht
  repeat' first
    | with_reducible assumption
    | with_reducible exact w5 _
    | with_reducible exact w6 _
    | with_reducible exact w7 _
    | with_reducible exact w12 _
    | with_reducible exact w13 _
    | with_reducible exact w15 _
    | with_reducible exact w16 _
    | with_reducible exact w19 _
    | with_reducible apply hP.setReg
    | with_reducible apply Closed.corrected hP
    | with_reducible apply Closed.draw hP
    | with_reducible apply Closed.answerBar2 hP
    | with_reducible apply Closed.freezeChannel hP
    | intro _
    | split
    | dsimp only

theorem execDriftTracking (hP : Closed W P) (ch : Fin 16) (steps : Int) (temp : Half) {s : State} {t : State}
    (w1 : W .fw) (w2 : W .weaver) (w3 : W .drawn) (w4 : ∀ x1', W (.chan x1')) (w5 : W (.queue 2)) (w6 : W .station)
    (w7 : W .mbx) (w8 : ∀ x1', W (.reg (MC_STATUS x1'))) (w9 : ∀ x1' x2', W (.reg (MC_TRN_DELAY x1' x2')))
    (w10 : ∀ x1', W (.reg (MC_TRAIN_TEMP x1'))) (w11 : W (.reg (HUB_Q 2 16))) (w12 : W (.reg (HUB_Q 2 24)))
    (w13 : W (.reg (HUB_Q 2 20))) (w14 : W (.reg MB_NTF_NSEQ)) (h : P s)
    (ht : execDriftTracking ch steps temp s = .next t) : P t := by
  unfold Sys2Proof.Machine.execDriftTracking at ht
  cases ht
  repeat' first
    | with_reducible assumption
    | with_reducible exact w4 _
    | with_reducible exact w8 _
    | with_reducible exact w9 _ _
    | with_reducible exact w10 _
    | with_reducible apply Closed.considerEvacuation hP
    | with_reducible apply Closed.trackDrift hP
    | intro _
    | split
    | dsimp only

theorem execEvacuationDone (hP : Closed W P) (ch : Fin 16) {s : State} {t : State} (w1 : W (.chan ch.val))
    (w2 : W (.queue 2)) (w3 : W .station) (w4 : W .mbx) (w5 : W .ledger) (w6 : W (.reg (MC_STATUS ch.val)))
    (w7 : ∀ x1', W (.reg (MC_TRN_ERR ch.val x1'))) (w8 : W (.reg (MC_TRN_FAIL_BITS ch.val)))
    (w9 : W (.reg (MC_STEPDOWNS ch.val))) (w10 : W (.reg HUB_GUAR_INGEST)) (w11 : W (.reg HUB_HEALTH))
    (w12 : W (.reg (HUB_Q 2 16))) (w13 : W (.reg (HUB_Q 2 24))) (w14 : W (.reg (HUB_Q 2 20)))
    (w15 : W (.reg MB_NTF_NSEQ)) (h : P s)
    (ht : execEvacuationDone ch s = .next t) : P t := by
  unfold Sys2Proof.Machine.execEvacuationDone at ht
  cases ht
  repeat' first
    | with_reducible assumption
    | with_reducible exact w7 _
    | with_reducible apply Closed.takeRate hP
    | with_reducible apply Closed.setMcState hP
    | intro _
    | split
    | dsimp only

theorem execRetrainingDone (hP : Closed W P) (ch : Fin 16) (temp : Half) {s : State} {t : State} (w1 : W .drawn)
    (w2 : W .dram) (w3 : W .fw) (w4 : W (.chan ch.val)) (w5 : W .weaver) (w6 : W (.queue 2)) (w7 : W .station)
    (w8 : W .mbx) (w9 : W .out) (w10 : W .pcie) (w11 : W .ledger) (w12 : ∀ x1', W (.stream x1'))
    (w13 : ∀ x1', W (.de x1')) (w14 : ∀ x1', W (.ref x1')) (w15 : W (.queue 1)) (w16 : ∀ x1', W (.sched x1'))
    (w17 : ∀ x1', W (.cmp x1')) (w18 : ∀ x1', W (.image x1')) (w19 : ∀ x1', W (.hist x1')) (w20 : ∀ a, W (.reg a))
    (h : P s)
    (ht : execRetrainingDone ch temp s = .next t) : P t := by
  unfold Sys2Proof.Machine.execRetrainingDone at ht
  cases ht
  repeat' first
    | with_reducible assumption
    | with_reducible exact w12 _
    | with_reducible exact w13 _
    | with_reducible exact w14 _
    | with_reducible exact w16 _
    | with_reducible exact w17 _
    | with_reducible exact w18 _
    | with_reducible exact w19 _
    | with_reducible exact w20 _
    | with_reducible apply Closed.incReg hP
    | with_reducible apply Closed.trained hP
    | with_reducible apply Closed.answerBar2 hP
    | with_reducible apply Closed.hostResult hP
    | with_reducible apply hP.modWeaver
    | intro _
    | split
    | dsimp only

theorem execTrainingFailed (hP : Closed W P) (ch : Fin 16) {s : State} {t : State} (w1 : W .weaver) (w2 : W .ledger)
    (w3 : W (.queue 2)) (w4 : W .station) (w5 : W .mbx) (w6 : W .pcie) (w7 : ∀ x1', W (.queue (stakeQ x1')))
    (w8 : ∀ x1', W (.stream x1')) (w9 : ∀ x1', W (.sched x1')) (w10 : ∀ x1', W (.lane x1'))
    (w11 : ∀ x1', W (.cmp x1')) (w12 : ∀ x1', W (.ival x1')) (w13 : ∀ x1', W (.box x1')) (w14 : ∀ x1', W (.seq x1'))
    (w15 : W .fw) (w16 : ∀ x1', W (.hist x1')) (w17 : W .drawn) (w18 : W (.queue 1)) (w19 : W .trig)
    (w20 : ∀ x1', W (.port x1')) (w21 : ∀ x1', W (.de x1')) (w22 : ∀ x1', W (.ref x1')) (w23 : W .dram)
    (w24 : ∀ x1', W (.image x1')) (w25 : W .time) (w26 : W (.queue 0)) (w27 : ∀ x1', W (.tout x1'))
    (w28 : W (.chan ch.val)) (w29 : W .out) (w30 : ∀ a, W (.reg a)) (h : P s)
    (ht : execTrainingFailed ch s = .next t) : P t := by
  unfold Sys2Proof.Machine.execTrainingFailed at ht
  cases ht
  repeat' first
    | with_reducible assumption
    | with_reducible exact w7 _
    | with_reducible exact w8 _
    | with_reducible exact w9 _
    | with_reducible exact w10 _
    | with_reducible exact w11 _
    | with_reducible exact w12 _
    | with_reducible exact w13 _
    | with_reducible exact w14 _
    | with_reducible exact w16 _
    | with_reducible exact w20 _
    | with_reducible exact w21 _
    | with_reducible exact w22 _
    | with_reducible exact w24 _
    | with_reducible exact w27 _
    | with_reducible exact w30 _
    | with_reducible apply Closed.answerBar2 hP
    | with_reducible apply Closed.stepDown hP
    | intro _
    | split
    | dsimp only

theorem execSweepStepDone (hP : Closed W P) (ch : Fin 16) {s : State} {t : State} (w1 : W .drawn) (w2 : W .dram)
    (w3 : W (.chan ch.val)) (w4 : W (.queue 2)) (w5 : W .station) (w6 : W .mbx) (w7 : W .ledger)
    (w8 : W (.reg (MC_TRN_CTL ch.val))) (w9 : ∀ x1', W (.reg (MC_TRN_ERR ch.val x1')))
    (w10 : W (.reg (MC_TRN_FAIL_BITS ch.val))) (w11 : W (.reg (MC_STATUS ch.val)))
    (w12 : W (.reg (MC_STEPDOWNS ch.val))) (w13 : W (.reg HUB_GUAR_INGEST)) (w14 : W (.reg HUB_HEALTH))
    (w15 : W (.reg (HUB_Q 2 16))) (w16 : W (.reg (HUB_Q 2 24))) (w17 : W (.reg (HUB_Q 2 20)))
    (w18 : W (.reg MB_NTF_NSEQ)) (h : P s)
    (ht : execSweepStepDone ch s = .next t) : P t := by
  unfold Sys2Proof.Machine.execSweepStepDone at ht
  cases ht
  repeat' first
    | with_reducible assumption
    | with_reducible exact w9 _
    | with_reducible apply Closed.takeRate hP
    | with_reducible apply Closed.endStep hP
    | intro _
    | split
    | dsimp only

theorem execSelfRefreshEntry (hP : Closed W P) (ch : Fin 16) {s : State} {t : State}
    (w1 : W (.reg (MC_STATUS ch.val))) (w2 : W (.reg (MC_SR_ENTRIES ch.val))) (h : P s)
    (ht : execSelfRefreshEntry ch s = .next t) : P t := by
  unfold Sys2Proof.Machine.execSelfRefreshEntry at ht
  cases ht
  repeat' first
    | with_reducible assumption
    | with_reducible apply Closed.incReg hP
    | with_reducible apply Closed.setMcState hP
    | intro _
    | split
    | dsimp only

theorem execChannelWake (hP : Closed W P) (ch : Fin 16) (steps : Int) (temp : Half) {s : State} {t : State}
    (w1 : W .fw) (w2 : W (.chan ch.val)) (w3 : W .out) (w4 : W .drawn) (w5 : W .pcie) (w6 : W .ledger)
    (w7 : W .weaver) (w8 : ∀ x1', W (.stream x1')) (w9 : ∀ x1', W (.de x1')) (w10 : ∀ x1', W (.ref x1'))
    (w11 : W (.queue 2)) (w12 : W .station) (w13 : W .mbx) (w14 : W (.queue 1)) (w15 : ∀ x1', W (.sched x1'))
    (w16 : ∀ x1', W (.cmp x1')) (w17 : W .dram) (w18 : ∀ x1', W (.image x1')) (w19 : ∀ x1', W (.hist x1'))
    (w20 : ∀ a, W (.reg a)) (h : P s)
    (ht : execChannelWake ch steps temp s = .next t) : P t := by
  unfold Sys2Proof.Machine.execChannelWake at ht
  cases ht
  repeat' first
    | with_reducible assumption
    | with_reducible exact w8 _
    | with_reducible exact w9 _
    | with_reducible exact w10 _
    | with_reducible exact w15 _
    | with_reducible exact w16 _
    | with_reducible exact w18 _
    | with_reducible exact w19 _
    | with_reducible exact w20 _
    | with_reducible apply Closed.answerBar2 hP
    | with_reducible apply Closed.trackDrift hP
    | with_reducible apply Closed.setMcState hP
    | intro _
    | split
    | dsimp only

theorem execModuleRetired (hP : Closed W P) (die : Fin 2) (module : Fin 4) {s : State} {t : State} (w1 : W .weaver)
    (w2 : W .ledger) (w3 : W (.queue 2)) (w4 : W .station) (w5 : W .mbx) (w6 : W .pcie)
    (w7 : ∀ x1', W (.queue (stakeQ x1'))) (w8 : ∀ x1', W (.stream x1')) (w9 : ∀ x1', W (.sched x1'))
    (w10 : ∀ x1', W (.lane x1')) (w11 : ∀ x1', W (.cmp x1')) (w12 : ∀ x1', W (.ival x1'))
    (w13 : ∀ x1', W (.box x1')) (w14 : ∀ x1', W (.seq x1')) (w15 : W .fw) (w16 : ∀ x1', W (.hist x1'))
    (w17 : W .drawn) (w18 : W (.queue 1)) (w19 : W .trig) (w20 : ∀ x1', W (.port x1')) (w21 : ∀ x1', W (.de x1'))
    (w22 : ∀ x1', W (.ref x1')) (w23 : W .dram) (w24 : ∀ x1', W (.image x1')) (w25 : W .time) (w26 : W (.queue 0))
    (w27 : ∀ x1', W (.tout x1')) (w28 : ∀ a, W (.reg a)) (h : P s)
    (ht : execModuleRetired die module s = .next t) : P t := by
  unfold Sys2Proof.Machine.execModuleRetired at ht
  cases ht
  repeat' first
    | with_reducible assumption
    | with_reducible exact w7 _
    | with_reducible exact w8 _
    | with_reducible exact w9 _
    | with_reducible exact w10 _
    | with_reducible exact w11 _
    | with_reducible exact w12 _
    | with_reducible exact w13 _
    | with_reducible exact w14 _
    | with_reducible exact w16 _
    | with_reducible exact w20 _
    | with_reducible exact w21 _
    | with_reducible exact w22 _
    | with_reducible exact w24 _
    | with_reducible exact w27 _
    | with_reducible exact w28 _
    | with_reducible apply Closed.retireModule hP
    | intro _
    | split
    | dsimp only

theorem execTargetedSelfTestDone (hP : Closed W P) (unit : Word) (results : List (Byte × Bool))
    (detail : Word) {s : State} {t : State} (w1 : W .weaver) (w2 : W .ledger) (w3 : ∀ x1', W (.lane x1'))
    (w4 : W .station) (w5 : W .pcie) (w6 : ∀ x1', W (.stake x1')) (w7 : ∀ x1', W (.stream x1'))
    (w8 : ∀ x1', W (.sched x1')) (w9 : ∀ x1', W (.cmp x1')) (w10 : ∀ x1', W (.ival x1')) (w11 : W .mbx)
    (w12 : ∀ x1', W (.box x1')) (w13 : ∀ x1', W (.seq x1')) (w14 : W .fw) (w15 : ∀ x1', W (.hist x1'))
    (w16 : W .drawn) (w17 : W .trig) (w18 : ∀ x1', W (.port x1')) (w19 : ∀ x1', W (.de x1'))
    (w20 : ∀ x1', W (.ref x1')) (w21 : W .dram) (w22 : ∀ x1', W (.image x1')) (w23 : W .time)
    (w24 : ∀ x1', W (.tout x1')) (w25 : ∀ x1', W (.queue x1')) (w26 : ∀ x1', W (.ce x1')) (w27 : ∀ a, W (.reg a))
    (h : P s)
    (ht : execTargetedSelfTestDone unit results detail s = .next t) : P t := by
  unfold Sys2Proof.Machine.execTargetedSelfTestDone at ht
  cases ht
  repeat' first
    | with_reducible assumption
    | with_reducible exact w3 _
    | with_reducible exact w6 _
    | with_reducible exact w7 _
    | with_reducible exact w8 _
    | with_reducible exact w9 _
    | with_reducible exact w10 _
    | with_reducible exact w12 _
    | with_reducible exact w13 _
    | with_reducible exact w15 _
    | with_reducible exact w18 _
    | with_reducible exact w19 _
    | with_reducible exact w20 _
    | with_reducible exact w22 _
    | with_reducible exact w24 _
    | with_reducible exact w25 _
    | with_reducible exact w26 _
    | with_reducible exact w27 _
    | with_reducible apply Closed.verdict hP
    | intro _
    | split
    | dsimp only

theorem execReplacement (hP : Closed W P) {s : State} {t : State} (w1 : W .weaver) (w2 : ∀ x1', W (.stream x1'))
    (w3 : ∀ x1', W (.sched x1')) (w4 : ∀ x1', W (.box x1')) (w5 : ∀ x1', W (.seq x1')) (w6 : W .fw)
    (w7 : ∀ x1', W (.ival x1')) (w8 : W .drawn) (w9 : W (.queue 1)) (w10 : W .station) (w11 : ∀ x1', W (.cmp x1'))
    (w12 : W (.queue 2)) (w13 : W .mbx) (w14 : W .ledger) (w15 : ∀ x1', W (.port x1')) (w16 : ∀ x1', W (.de x1'))
    (w17 : ∀ x1', W (.image x1')) (w18 : ∀ x1', W (.hist x1')) (w19 : ∀ x1', W (.chan x1')) (w20 : W .trig)
    (w21 : ∀ a, W (.reg a)) (h : P s)
    (ht : execReplacement s = .next t) : P t := by
  unfold Sys2Proof.Machine.execReplacement at ht
  cases ht
  repeat' first
    | with_reducible assumption
    | with_reducible exact w2 _
    | with_reducible exact w3 _
    | with_reducible exact w4 _
    | with_reducible exact w5 _
    | with_reducible exact w7 _
    | with_reducible exact w11 _
    | with_reducible exact w15 _
    | with_reducible exact w16 _
    | with_reducible exact w17 _
    | with_reducible exact w18 _
    | with_reducible exact w19 _
    | with_reducible exact w21 _
    | with_reducible apply Closed.replace hP
    | intro _
    | split
    | dsimp only

theorem execDieDigestCheck (hP : Closed W P) (die : Die) (upsets : List (BitVec 26 × Word))
    (sticky : Bool) {s : State} {t : State} (w1 : W .weaver) (w2 : W (.queue 2)) (w3 : W .station) (w4 : W .mbx)
    (w5 : W .ledger) (w6 : ∀ a, W (.reg a)) (h : P s)
    (ht : execDieDigestCheck die upsets sticky s = .next t) : P t := by
  unfold Sys2Proof.Machine.execDieDigestCheck at ht
  cases ht
  repeat' first
    | with_reducible assumption
    | with_reducible exact w6 _
    | with_reducible apply Closed.checkDie hP
    | intro _
    | split
    | dsimp only

theorem execLedgerRecordCreate (hP : Closed W P) {s : State} {t : State} (w1 : W .ledger) (w2 : W .drawn)
    (w3 : W (.queue 3)) (w4 : W .station) (w5 : W (.queue 2)) (w6 : W .mbx) (w7 : W (.reg LG_REFUSED))
    (w8 : W (.reg LG_STATUS)) (w9 : W (.reg LG_NEXT_SEQ_LO)) (w10 : W (.reg (LG_NEXT_SEQ_LO + 4)))
    (w11 : W (.reg (HUB_Q 3 16))) (w12 : W (.reg (HUB_Q 3 24))) (w13 : W (.reg (HUB_Q 3 20)))
    (w14 : W (.reg (HUB_Q 2 16))) (w15 : W (.reg (HUB_Q 2 24))) (w16 : W (.reg (HUB_Q 2 20)))
    (w17 : W (.reg MB_NTF_NSEQ)) (h : P s)
    (ht : execLedgerRecordCreate s = .next t) : P t := by
  unfold Sys2Proof.Machine.execLedgerRecordCreate at ht
  cases ht
  repeat' first
    | with_reducible assumption
    | with_reducible apply Closed.createNext hP
    | intro _
    | split
    | dsimp only

theorem execLedgerFlush (hP : Closed W P) (fail : Option (Fin 2 × Nat)) {s : State} {t : State} (w1 : W (.queue 2))
    (w2 : W .station) (w3 : W .mbx) (w4 : W .ledger) (w5 : W .weaver) (w6 : W (.queue 3)) (w7 : W (.reg LG_FLUSHES))
    (w8 : W (.reg LG_VERIFY_FAIL)) (w9 : W (.reg LG_STATUS)) (w10 : W (.reg (HUB_Q 2 16)))
    (w11 : W (.reg (HUB_Q 2 24))) (w12 : W (.reg (HUB_Q 2 20))) (w13 : W (.reg MB_NTF_NSEQ))
    (w14 : W (.reg (HUB_Q 3 16))) (w15 : W (.reg (HUB_Q 3 24))) (w16 : W (.reg (HUB_Q 3 20))) (h : P s)
    (ht : execLedgerFlush fail s = .next t) : P t := by
  unfold Sys2Proof.Machine.execLedgerFlush at ht
  cases ht
  repeat' first
    | with_reducible assumption
    | with_reducible apply Closed.flushLedger hP
    | intro _
    | split
    | dsimp only

theorem execLedgerRestored (hP : Closed W P) (bank : Fin 2) {s : State} {t : State} (w1 : W .ledger)
    (w2 : W (.queue 2)) (w3 : W .station) (w4 : W .mbx) (w5 : W .weaver) (w6 : W (.queue 3))
    (w7 : W (.reg LG_STATUS)) (w8 : W (.reg LG_FLUSHES)) (w9 : W (.reg LG_VERIFY_FAIL))
    (w10 : W (.reg (HUB_Q 2 16))) (w11 : W (.reg (HUB_Q 2 24))) (w12 : W (.reg (HUB_Q 2 20)))
    (w13 : W (.reg MB_NTF_NSEQ)) (w14 : W (.reg (HUB_Q 3 16))) (w15 : W (.reg (HUB_Q 3 24)))
    (w16 : W (.reg (HUB_Q 3 20))) (h : P s)
    (ht : execLedgerRestored bank s = .next t) : P t := by
  unfold Sys2Proof.Machine.execLedgerRestored at ht
  cases ht
  repeat' first
    | with_reducible assumption
    | with_reducible apply Closed.restoreBank hP
    | intro _
    | split
    | dsimp only

theorem execLedgerScrub (hP : Closed W P) (bad0 : List Nat) (bad1 : List Nat) {s : State} {t : State}
    (w1 : W .ledger) (w2 : W (.reg LG_SCRUB)) (w3 : W (.reg LG_SCRUB_PASSES)) (h : P s)
    (ht : execLedgerScrub bad0 bad1 s = .next t) : P t := by
  unfold Sys2Proof.Machine.execLedgerScrub at ht
  cases ht
  repeat' first
    | with_reducible assumption
    | with_reducible apply Closed.scrubRegion hP
    | intro _
    | split
    | dsimp only

theorem execOperatingSecond (hP : Closed W P) {s : State} {t : State} (w1 : W .ledger) (w2 : W (.reg LG_OP_SECONDS))
    (w3 : ∀ x1', W (.reg (MC_STATUS x1'))) (h : P s)
    (ht : execOperatingSecond s = .next t) : P t := by
  unfold Sys2Proof.Machine.execOperatingSecond at ht
  cases ht
  repeat' first
    | with_reducible assumption
    | with_reducible exact w3 _
    | with_reducible apply Closed.trainingsAge hP
    | with_reducible apply Closed.commitSeconds hP
    | with_reducible apply hP.setReg
    | intro _
    | split
    | dsimp only

theorem execNoticeWrite (hP : Closed W P) {s : State} {t : State} (w1 : W (.queue 2)) (w2 : W .station)
    (w3 : W .pcie) (w4 : W (.reg (HUB_Q 2 16))) (w5 : W (.reg (HUB_Q 2 24))) (w6 : W (.reg (HUB_Q 2 20)))
    (w7 : W (.reg MB_NTF_TAIL)) (w8 : W (.reg MB_NTF_CFG)) (h : P s)
    (ht : execNoticeWrite s = .next t) : P t := by
  unfold Sys2Proof.Machine.execNoticeWrite at ht
  cases ht
  repeat' first
    | with_reducible assumption
    | with_reducible apply Closed.writeNotice hP
    | intro _
    | split
    | dsimp only

theorem execBeat (hP : Closed W P) {s : State} {t : State} (w1 : W .pcie) (w2 : W .ledger) (w3 : W (.reg PWR_STATE))
    (w4 : W (.reg ALIVE)) (h : P s)
    (ht : execBeat s = .next t) : P t := by
  unfold Sys2Proof.Machine.execBeat at ht
  cases ht
  repeat' first
    | with_reducible assumption
    | with_reducible apply Closed.setRegF hP
    | with_reducible apply Closed.endReset hP
    | intro _
    | split
    | dsimp only

theorem execUnlockLapse (hP : Closed W P) {s : State} {t : State} (w1 : W .station) (w2 : W .weaver)
    (w3 : W (.queue 2)) (w4 : W .mbx) (w5 : W .ledger) (w6 : ∀ a, W (.reg a)) (h : P s)
    (ht : execUnlockLapse s = .next t) : P t := by
  unfold Sys2Proof.Machine.execUnlockLapse at ht
  cases ht
  repeat' first
    | with_reducible assumption
    | with_reducible exact w6 _
    | with_reducible apply Closed.lapseLock hP
    | intro _
    | split
    | dsimp only

theorem execPowerUp (hP : Closed W P) {s : State} {t : State} (w1 : ∀ p, W p) (h : P s)
    (ht : execPowerUp s = .next t) : P t := by
  unfold Sys2Proof.Machine.execPowerUp at ht
  cases ht
  repeat' first
    | with_reducible assumption
    | with_reducible exact w1 _
    | with_reducible apply hP.modPower
    | with_reducible apply Closed.hardReset hP
    | intro _
    | split
    | dsimp only

theorem execBlockLockGained (hP : Closed W P) (port : Fin 16) {s : State} {t : State}
    (w1 : W (.reg (PP_STATUS port.val))) (h : P s)
    (ht : execBlockLockGained port s = .next t) : P t := by
  unfold Sys2Proof.Machine.execBlockLockGained at ht
  cases ht
  repeat' first
    | with_reducible assumption
    | with_reducible apply Closed.setRegBit hP
    | intro _
    | split
    | dsimp only

theorem execPmeStatusClear (hP : Closed W P) {s : State} {t : State} (w1 : W .pcie) (w2 : W .station) (h : P s)
    (ht : execPmeStatusClear s = .next t) : P t := by
  unfold Sys2Proof.Machine.execPmeStatusClear at ht
  cases ht
  repeat' first
    | with_reducible assumption
    | with_reducible apply hP.modStation
    | with_reducible apply hP.modPcie
    | intro _
    | split
    | dsimp only

/-- Every command keeps what every update keeps. -/
theorem exec (hP : Closed W P) (hw : ∀ p, W p) {c : Instr} {s t : State} (h : P s)
    (ht : Sys2Proof.Machine.exec c s = .next t) : P t := by
  cases c
  case deviceInfo => exact Closed.execDeviceInfo hP _ (hw _) h ht
  case getStatus => exact Closed.execGetStatus hP _ (hw _) (hw _) (hw _) h ht
  case getDigests => exact Closed.execGetDigests hP _ (hw _) h ht
  case notifyRing => exact Closed.execNotifyRing hP _ (hw _) (hw _) (hw _) (hw _) (hw _) h ht
  case create => exact Closed.execCreate hP _ (hw _) (fun _ => hw _) (hw _) h ht
  case destroy =>
    exact Closed.execDestroy hP _ (hw _) (hw _) (fun _ => hw _) (fun _ => hw _) (fun _ => hw _) (fun _ => hw _)
      (hw _) h ht
  case configureLanes => exact Closed.execConfigureLanes hP _ (hw _) (hw _) h ht
  case configurePods => exact Closed.execConfigurePods hP _ (hw _) (hw _) h ht
  case defineSequenceLevels => exact Closed.execDefineSequenceLevels hP _ (hw _) (hw _) h ht
  case defineSequenceTerms => exact Closed.execDefineSequenceTerms hP _ (hw _) (hw _) h ht
  case defineHistogram => exact Closed.execDefineHistogram hP _ (hw _) (hw _) h ht
  case defineInterval => exact Closed.execDefineInterval hP _ (hw _) (hw _) h ht
  case bindStream => exact Closed.execBindStream hP _ (hw _) (hw _) h ht
  case setWindow => exact Closed.execSetWindow hP _ (hw _) (hw _) h ht
  case startCompare => exact Closed.execStartCompare hP _ (hw _) (hw _) h ht
  case commit =>
    exact Closed.execCommit hP _ (hw _) (hw _) (fun _ => hw _) (fun _ => hw _) (fun _ => hw _) (fun _ => hw _)
      (fun _ => hw _) (fun _ => hw _) (fun _ => hw _) (fun _ => hw _) (hw _) (hw _) (fun _ => hw _) (hw _)
      (fun _ => hw _) (hw _) (hw _) (hw _) (fun _ => hw _) (hw _) (fun _ => hw _) (fun _ => hw _) (hw _) (hw _)
      (fun _ => hw _) (fun _ => hw _) (hw _) (fun _ => hw _) h ht
  case commitRevert => exact Closed.execCommitRevert hP _ (hw _) (hw _) h ht
  case queryPlacement => exact Closed.execQueryPlacement hP _ (hw _) (hw _) (hw _) h ht
  case arm =>
    exact Closed.execArm hP _ (fun _ => hw _) (fun _ => hw _) (hw _) (fun _ => hw _) (fun _ => hw _) (hw _) (hw _)
      (fun _ => hw _) (fun _ => hw _) (fun _ => hw _) (fun _ => hw _) (fun _ => hw _) (fun _ => hw _)
      (fun _ => hw _) (hw _) (hw _) (hw _) (fun _ => hw _) (fun _ => hw _) (fun _ => hw _) (fun _ => hw _)
      (fun _ => hw _) (fun _ _ => hw _) (fun _ _ => hw _) (fun _ _ => hw _) (fun _ _ => hw _) (fun _ _ _ => hw _)
      (fun _ _ => hw _) (fun _ => hw _) (fun _ => hw _) h ht
  case armSync => exact Closed.execArmSync hP _ (hw _) (hw _) (hw _) h ht
  case disarm =>
    exact Closed.execDisarm hP _ (hw _) (hw _) (hw _) (fun _ => hw _) (fun _ => hw _) (fun _ => hw _) (hw _) (hw _)
      (fun _ => hw _) (fun _ => hw _) (fun _ => hw _) (fun _ => hw _) (fun _ => hw _) (hw _) (hw _) (hw _)
      (fun _ => hw _) (fun _ => hw _) (fun _ => hw _) (hw _) (hw _) (hw _) (fun _ => hw _) h ht
  case forceMark => exact Closed.execForceMark hP _ (fun _ => hw _) (hw _) h ht
  case abortStream =>
    exact Closed.execAbortStream hP _ (fun _ => hw _) (hw _) (hw _) (hw _) (hw _) (fun _ => hw _) (hw _)
      (fun _ => hw _) (fun _ => hw _) (fun _ => hw _) (fun _ _ => hw _) (fun _ => hw _) (hw _) (hw _) (hw _)
      (hw _) h ht
  case abortCompareJob =>
    exact Closed.execAbortCompareJob hP _ (hw _) (hw _) (fun _ => hw _) (fun _ => hw _) (fun _ => hw _) (hw _)
      (hw _) (hw _) (hw _) (fun _ => hw _) (fun _ => hw _) (fun _ => hw _) h ht
  case abortCommand => exact Closed.execAbortCommand hP _ (hw _) (fun _ => hw _) (hw _) (fun _ => hw _) h ht
  case loadReference =>
    exact Closed.execLoadReference hP _ (fun _ => hw _) (hw _) (fun _ => hw _) (fun _ => hw _) (hw _) (hw _) (hw _)
      (hw _) (fun _ => hw _) (fun _ => hw _) (fun _ => hw _) (fun _ => hw _) (fun _ => hw _) (fun _ => hw _)
      (fun _ => hw _) (fun _ => hw _) (fun _ => hw _) (fun _ => hw _) h ht
  case histogramSnapshotSwap =>
    exact Closed.execHistogramSnapshotSwap hP _ (fun _ => hw _) (hw _) (fun _ => hw _) (hw _) (fun _ => hw _) (hw _)
      (fun _ _ _ => hw _) h ht
  case histogramSnapshotFetch =>
    exact Closed.execHistogramSnapshotFetch hP _ (hw _) (fun _ => hw _) (hw _) (fun _ => hw _) (hw _) h ht
  case histogramClear => exact Closed.execHistogramClear hP _ (fun _ => hw _) (hw _) h ht
  case annotate => exact Closed.execAnnotate hP _ (fun _ => hw _) (fun _ => hw _) (hw _) h ht
  case timeNote =>
    exact Closed.execTimeNote hP _ (hw _) (hw _) (hw _) (hw _) (hw _) (hw _) (hw _) (hw _) (hw _) (hw _) (hw _)
      (hw _) (hw _) (hw _) (hw _) (hw _) (hw _) (hw _) h ht
  case ledgerRead =>
    exact Closed.execLedgerRead hP _ (hw _) (hw _) (hw _) (hw _) (hw _) (hw _) (hw _) (hw _) (hw _) (hw _) (hw _)
      (hw _) (hw _) (hw _) (hw _) (hw _) (hw _) (hw _) (hw _) h ht
  case ledgerClearChallenge => exact Closed.execLedgerClearChallenge hP _ (hw _) (hw _) (hw _) h ht
  case ledgerClear =>
    exact Closed.execLedgerClear hP _ (hw _) (hw _) (hw _) (hw _) (hw _) (hw _) (hw _) (hw _) (hw _) (hw _) (hw _)
      (hw _) (hw _) (hw _) (hw _) (hw _) (hw _) (hw _) (hw _) (hw _) (hw _) (hw _) (hw _) (hw _) h ht
  case ledgerSetSnapshot => exact Closed.execLedgerSetSnapshot hP _ (hw _) (hw _) h ht
  case ledgerProvisionKey => exact Closed.execLedgerProvisionKey hP _ (hw _) (hw _) h ht
  case selftest =>
    exact Closed.execSelftest hP _ (hw _) (hw _) (fun _ => hw _) (hw _) (hw _) (hw _) (hw _) (fun _ => hw _)
      (fun _ _ => hw _) (fun _ => hw _) (fun _ => hw _) (hw _) (hw _) (hw _) (hw _) (hw _) (hw _) h ht
  case diagDecompress =>
    exact Closed.execDiagDecompress hP _ (hw _) (fun _ => hw _) (hw _) (fun _ => hw _) (hw _) (fun _ => hw _)
      (fun _ => hw _) (fun _ => hw _) (fun _ => hw _) (fun _ => hw _) (fun _ => hw _) (fun _ => hw _)
      (fun _ => hw _) (fun _ => hw _) h ht
  case diagUnlock => exact Closed.execDiagUnlock hP _ (hw _) (hw _) (hw _) (hw _) h ht
  case diagLock => exact Closed.execDiagLock hP _ (hw _) (hw _) (hw _) (hw _) (hw _) (hw _) (fun _ => hw _) h ht
  case mapWindow => exact Closed.execMapWindow hP _ (hw _) (hw _) h ht
  case setPowerState => exact Closed.execSetPowerState hP _ (hw _) (hw _) (hw _) h ht
  case fwUpdateBegin => exact Closed.execFwUpdateBegin hP _ (hw _) (hw _) h ht
  case fwUpdateCancel => exact Closed.execFwUpdateCancel hP _ (hw _) (hw _) h ht
  case fwUpdateChunk => exact Closed.execFwUpdateChunk hP _ (hw _) (hw _) (hw _) h ht
  case fwUpdateCommit => exact Closed.execFwUpdateCommit hP _ (hw _) (hw _) h ht
  case fwUpdateDone =>
    exact Closed.execFwUpdateDone hP _ (hw _) (hw _) (hw _) (hw _) (hw _) (hw _) (hw _) (hw _) (hw _) (hw _) h ht
  case mailboxDoorbell =>
    exact Closed.execMailboxDoorbell hP _ _ _ _ (hw _) (hw _) (hw _) (fun _ => hw _) (hw _) (fun _ => hw _) (hw _)
      (hw _) h ht
  case commandCompletion =>
    exact Closed.execCommandCompletion hP _ _ (hw _) (hw _) (hw _) (fun _ => hw _) (hw _) (fun _ => hw _) (hw _)
      (hw _) h ht
  case descTail =>
    exact Closed.execDescTail hP _ _ _ (hw _) (hw _) (hw _) (hw _) (hw _) (hw _) (hw _) (hw _) (hw _) (hw _) h ht
  case cplHead => exact Closed.execCplHead hP _ _ _ (hw _) (hw _) (hw _) h ht
  case notificationConsumerDoorbell => exact Closed.execNotificationConsumerDoorbell hP _ _ (hw _) (hw _) (hw _) h ht
  case registerWrite =>
    exact Closed.execRegisterWrite hP _ _ _ _ (hw _) (hw _) (fun _ => hw _) (fun _ => hw _) (fun _ => hw _) (hw _)
      (fun _ => hw _) h ht
  case rcRegisterRead =>
    exact Closed.execRcRegisterRead hP _ _ (hw _) (hw _) (hw _) (fun _ => hw _) (fun _ => hw _) (fun _ => hw _)
      (fun _ => hw _) h ht
  case iuResValueLoRead =>
    exact Closed.execIuResValueLoRead hP _ (hw _) (hw _) (hw _) (fun _ => hw _) (fun _ => hw _) (fun _ => hw _)
      (hw _) (hw _) h ht
  case loCounterRead =>
    exact Closed.execLoCounterRead hP _ (hw _) (hw _) (hw _) (fun _ => hw _) (fun _ => hw _) (fun _ => hw _) (hw _)
      (hw _) h ht
  case bar2Read =>
    exact Closed.execBar2Read hP _ _ _ (hw _) (hw _) (hw _) (hw _) (hw _) (fun _ => hw _) (fun _ => hw _)
      (fun _ => hw _) (hw _) (hw _) (hw _) (hw _) (fun _ => hw _) (fun _ => hw _) (hw _) (fun _ => hw _)
      (fun _ => hw _) (fun _ => hw _) h ht
  case bar2Write =>
    exact Closed.execBar2Write hP _ _ _ (hw _) (hw _) (hw _) (fun _ => hw _) (hw _) (hw _) (hw _) (hw _) (hw _) h ht
  case windowTableSwap => exact Closed.execWindowTableSwap hP _ (hw _) (fun _ => hw _) (hw _) (fun _ => hw _) h ht
  case d3hot =>
    exact Closed.execD3hot hP (hw _) (hw _) (hw _) (hw _) (fun _ => hw _) (fun _ => hw _) (fun _ => hw _) (hw _)
      (hw _) (fun _ => hw _) (fun _ => hw _) (fun _ => hw _) (fun _ => hw _) (fun _ => hw _) (hw _) (hw _) (hw _)
      (fun _ => hw _) (fun _ => hw _) (fun _ => hw _) (hw _) (hw _) (fun _ => hw _) h ht
  case d0 => exact Closed.execD0 hP (hw _) (hw _) (hw _) h ht
  case busMasterEnableCleared =>
    exact Closed.execBusMasterEnableCleared hP (hw _) (hw _) (fun _ => hw _) (fun _ => hw _) (hw _) h ht
  case busMasterEnableSet => exact Closed.execBusMasterEnableSet hP (hw _) (fun _ => hw _) h ht
  case functionLevelReset =>
    exact Closed.execFunctionLevelReset hP (hw _) (hw _) (hw _) (fun _ => hw _) (fun _ => hw _) (fun _ => hw _)
      (fun _ => hw _) (fun _ => hw _) (fun _ => hw _) (fun _ => hw _) (hw _) (hw _) (hw _) (hw _) (hw _)
      (fun _ => hw _) (hw _) (fun _ => hw _) (fun _ => hw _) (fun _ => hw _) (hw _) (fun _ => hw _) (fun _ => hw _)
      (hw _) (fun _ => hw _) h ht
  case linkDown =>
    exact Closed.execLinkDown hP (hw _) (hw _) (fun _ => hw _) (fun _ => hw _) (hw _) (hw _) (hw _) (hw _) h ht
  case linkUp => exact Closed.execLinkUp hP _ _ _ (hw _) (hw _) (hw _) h ht
  case linkHoldExpiry =>
    exact Closed.execLinkHoldExpiry hP (hw _) (hw _) (hw _) (fun _ => hw _) (fun _ => hw _) (fun _ => hw _) (hw _)
      (hw _) (fun _ => hw _) (fun _ => hw _) (fun _ => hw _) (fun _ => hw _) (fun _ => hw _) (hw _) (hw _) (hw _)
      (fun _ => hw _) (fun _ => hw _) (fun _ => hw _) (hw _) (hw _) (hw _) (fun _ => hw _) h ht
  case linkRetrain => exact Closed.execLinkRetrain hP _ _ _ (hw _) (hw _) h ht
  case completionTimeout =>
    exact Closed.execCompletionTimeout hP _ (hw _) (hw _) (hw _) (fun _ => hw _) (fun _ => hw _) (fun _ => hw _)
      (hw _) (hw _) (hw _) (hw _) (hw _) (hw _) (hw _) (hw _) h ht
  case completionReceived =>
    exact Closed.execCompletionReceived hP _ _ _ (hw _) (fun _ => hw _) (hw _) (hw _) (hw _) (hw _) (fun _ => hw _)
      (fun _ => hw _) (hw _) (hw _) (hw _) (hw _) (hw _) (hw _) h ht
  case descriptorFetch => exact Closed.execDescriptorFetch hP _ (hw _) h ht
  case uncorrectableInternalError => exact Closed.execUncorrectableInternalError hP _ (hw _) (hw _) h ht
  case perstNAssert => exact Closed.execPerstNAssert hP hw h ht
  case startUp =>
    exact Closed.execStartUp hP _ (hw _) (hw _) (hw _) (hw _) (hw _) (hw _) (hw _) (hw _) (hw _) (hw _)
      (fun _ => hw _) (fun _ => hw _) (fun _ => hw _) (fun _ => hw _) (fun _ => hw _) (fun _ => hw _)
      (fun _ => hw _) (fun _ => hw _) (fun _ => hw _) (hw _) (hw _) (fun _ => hw _) (fun _ => hw _) (fun _ => hw _)
      (fun _ => hw _) (hw _) (hw _) (fun _ => hw _) (fun _ => hw _) (fun _ => hw _) h ht
  case laneCalibration =>
    exact Closed.execLaneCalibration hP _ _ _ (hw _) (fun _ => hw _) (fun _ => hw _) (fun _ => hw _) (hw _)
      (fun _ => hw _) (fun _ => hw _) (fun _ => hw _) (hw _) (hw _) (hw _) (hw _) (fun _ => hw _) (hw _)
      (fun _ => hw _) (hw _) (hw _) (hw _) (hw _) (fun _ => hw _) (fun _ => hw _) (fun _ => hw _) (fun _ => hw _)
      (fun _ => hw _) (hw _) (hw _) (fun _ => hw _) (fun _ => hw _) h ht
  case initialTraining =>
    exact Closed.execInitialTraining hP _ _ _ _ (hw _) (hw _) (hw _) (hw _) (hw _) (hw _) (hw _) (fun _ => hw _)
      (fun _ => hw _) (fun _ => hw _) (fun _ => hw _) (fun _ => hw _) (fun _ => hw _) (fun _ => hw _)
      (fun _ => hw _) (hw _) (fun _ => hw _) (hw _) (hw _) (hw _) (fun _ => hw _) (fun _ => hw _) (fun _ => hw _)
      (fun _ => hw _) (hw _) (hw _) (fun _ => hw _) (hw _) (fun _ => hw _) h ht
  case pwrFailNAssert =>
    exact Closed.execPwrFailNAssert hP (hw _) (hw _) (hw _) (hw _) (hw _) (hw _) (hw _) (hw _) (hw _) (hw _) (hw _)
      (hw _) (hw _) (hw _) (hw _) (hw _) (hw _) (hw _) (hw _) (hw _) (hw _) (hw _) h ht
  case pwrFailNDeassert => exact Closed.execPwrFailNDeassert hP _ hw h ht
  case brownOut => exact Closed.execBrownOut hP hw h ht
  case thermalTrip => exact Closed.execThermalTrip hP _ _ hw h ht
  case thermalRelease => exact Closed.execThermalRelease hP _ _ _ (hw _) h ht
  case stateTransitionDone =>
    exact Closed.execStateTransitionDone hP (hw _) (hw _) (hw _) (hw _) (hw _) (hw _) (hw _) (hw _) h ht
  case standbyEntry =>
    exact Closed.execStandbyEntry hP (hw _) (hw _) (hw _) (hw _) (hw _) (hw _) (fun _ => hw _) (fun _ => hw _)
      (fun _ => hw _) (fun _ => hw _) (fun _ => hw _) (hw _) (hw _) (fun _ => hw _) (fun _ => hw _) (fun _ => hw _)
      (fun _ => hw _) h ht
  case wake =>
    exact Closed.execWake hP _ _ (hw _) (hw _) (fun _ => hw _) (hw _) (hw _) (hw _) (fun _ => hw _) (fun _ => hw _)
      (hw _) (hw _) (hw _) (fun _ => hw _) h ht
  case refLost =>
    exact Closed.execRefLost hP (hw _) (hw _) (fun _ => hw _) (fun _ => hw _) (hw _) (hw _) (hw _) (hw _) (hw _)
      (hw _) (hw _) (hw _) (hw _) (hw _) (hw _) (hw _) (hw _) h ht
  case refBad =>
    exact Closed.execRefBad hP (hw _) (hw _) (hw _) (fun _ => hw _) (fun _ => hw _) (hw _) (hw _) (hw _) (hw _)
      (hw _) (hw _) (hw _) (hw _) (hw _) (hw _) (hw _) (hw _) h ht
  case refQualified => exact Closed.execRefQualified hP _ _ (hw _) (hw _) h ht
  case refLocked =>
    exact Closed.execRefLocked hP (hw _) (hw _) (fun _ => hw _) (fun _ => hw _) (hw _) (hw _) (hw _) (hw _) (hw _)
      (hw _) (hw _) (hw _) (hw _) (hw _) (hw _) h ht
  case holdoverEnd =>
    exact Closed.execHoldoverEnd hP (hw _) (hw _) (hw _) (fun _ => hw _) (fun _ => hw _) (hw _) (hw _) (hw _) (hw _)
      (hw _) (hw _) (hw _) (hw _) (hw _) (hw _) h ht
  case timestampWrap => exact Closed.execTimestampWrap hP (hw _) (fun _ => hw _) (fun _ => hw _) h ht
  case sessionEpochPulse => exact Closed.execSessionEpochPulse hP _ (hw _) (fun _ => hw _) (fun _ => hw _) h ht
  case comparatorEdge =>
    exact Closed.execComparatorEdge hP _ _ _ _ _ _ (fun _ => hw _) (fun _ => hw _) (fun _ => hw _) (fun _ => hw _)
      (hw _) (fun _ => hw _) (fun _ => hw _) (fun _ => hw _) (fun _ _ _ => hw _) (fun _ => hw _) (fun _ => hw _)
      (fun _ => hw _) h ht
  case burstClose =>
    exact Closed.execBurstClose hP _ _ _ (hw _) (fun _ => hw _) (fun _ => hw _) (fun _ => hw _) (hw _) h ht
  case levelKeepalive =>
    exact Closed.execLevelKeepalive hP _ (hw _) (fun _ => hw _) (fun _ => hw _) (fun _ => hw _) h ht
  case rawBlockClose =>
    exact Closed.execRawBlockClose hP _ (hw _) (fun _ => hw _) (fun _ => hw _) (fun _ => hw _) h ht
  case lossOfLock => exact Closed.execLossOfLock hP _ _ (hw _) (hw _) (hw _) (hw _) (hw _) h ht
  case tdcSelftestDone =>
    exact Closed.execTdcSelftestDone hP _ _ (hw _) (hw _) (hw _) (fun _ => hw _) (hw _) (hw _) (fun _ => hw _)
      (fun _ => hw _) (fun _ => hw _) (fun _ => hw _) (fun _ => hw _) (hw _) (fun _ => hw _) (fun _ => hw _) (hw _)
      (fun _ => hw _) (hw _) (fun _ => hw _) (fun _ => hw _) (fun _ => hw _) (hw _) (fun _ => hw _) (hw _)
      (fun _ => hw _) (fun _ => hw _) (fun _ => hw _) (fun _ => hw _) h ht
  case dacReadback =>
    exact Closed.execDacReadback hP _ _ _ (hw _) (hw _) (fun _ => hw _) (hw _) (fun _ => hw _) (fun _ => hw _) h ht
  case dacSweepDone =>
    exact Closed.execDacSweepDone hP _ _ (hw _) (hw _) (hw _) (fun _ => hw _) (hw _) (hw _) (fun _ => hw _)
      (fun _ => hw _) (fun _ => hw _) (fun _ => hw _) (fun _ => hw _) (hw _) (fun _ => hw _) (fun _ => hw _) (hw _)
      (fun _ => hw _) (hw _) (fun _ => hw _) (fun _ => hw _) (fun _ => hw _) (hw _) (fun _ => hw _) (hw _)
      (fun _ => hw _) (fun _ => hw _) (fun _ => hw _) (fun _ => hw _) h ht
  case calDue => exact Closed.execCalDue hP _ _ (hw _) (hw _) (hw _) (fun _ => hw _) (hw _) (hw _) (hw _) (hw _) h ht
  case superframeBeacon =>
    exact Closed.execSuperframeBeacon hP _ (fun _ => hw _) (fun _ => hw _) (fun _ => hw _) (fun _ => hw _) (hw _)
      (hw _) (hw _) (fun _ => hw _) (hw _) (hw _) h ht
  case frameReceived =>
    exact Closed.execFrameReceived hP _ _ _ (hw _) (fun _ => hw _) (fun _ => hw _) (fun _ => hw _) (fun _ => hw _)
      (hw _) (hw _) (fun _ => hw _) (hw _) (fun _ => hw _) (hw _) (fun _ => hw _) (fun _ _ _ => hw _)
      (fun _ => hw _) h ht
  case managementBlockReceived =>
    exact Closed.execManagementBlockReceived hP _ _ _ (hw _) (fun _ => hw _) (fun _ => hw _) (fun _ => hw _)
      (fun _ => hw _) (hw _) (hw _) (hw _) (hw _) (fun _ => hw _) (hw _) (hw _) (hw _) h ht
  case blockLockLost =>
    exact Closed.execBlockLockLost hP _ (hw _) (fun _ => hw _) (fun _ => hw _) (fun _ => hw _) (fun _ => hw _)
      (hw _) (hw _) (hw _) (fun _ => hw _) h ht
  case delayRecompute => exact Closed.execDelayRecompute hP _ _ (hw _) (hw _) (hw _) h ht
  case commandBlockSent => exact Closed.execCommandBlockSent hP _ _ (hw _) h ht
  case podFault =>
    exact Closed.execPodFault hP _ _ (hw _) (hw _) (hw _) (hw _) (hw _) (hw _) (hw _) (hw _) (hw _) h ht
  case slotSwitch => exact Closed.execSlotSwitch hP _ (hw _) (fun _ => hw _) (hw _) h ht
  case slotSwitchCancel => exact Closed.execSlotSwitchCancel hP _ _ (hw _) (hw _) h ht
  case enum =>
    exact Closed.execEnum hP _ _ (hw _) (fun _ => hw _) (fun _ => hw _) (fun _ => hw _) (fun _ => hw _) (hw _)
      (hw _) (hw _) (hw _) (hw _) (hw _) (hw _) (fun _ => hw _) (hw _) (hw _) (hw _) (hw _) (hw _) (hw _)
      (hw _) h ht
  case chainBreak =>
    exact Closed.execChainBreak hP _ _ (fun _ => hw _) (fun _ => hw _) (fun _ => hw _) (fun _ => hw _) (hw _) (hw _)
      (hw _) (hw _) (hw _) (hw _) (hw _) (hw _) (fun _ => hw _) (hw _) (hw _) (hw _) (hw _) (hw _) (hw _) h ht
  case podAdded =>
    exact Closed.execPodAdded hP _ _ (hw _) (fun _ => hw _) (fun _ => hw _) (fun _ => hw _) (fun _ => hw _) (hw _)
      (hw _) (hw _) (hw _) (hw _) (hw _) (hw _) (hw _) (fun _ => hw _) (hw _) (hw _) (hw _) (hw _) (hw _)
      (hw _) h ht
  case configDigestRotation =>
    exact Closed.execConfigDigestRotation hP _ _ (hw _) (hw _) (hw _) (hw _) (hw _) (hw _) (hw _) (fun _ => hw _)
      (fun _ => hw _) (fun _ => hw _) (fun _ => hw _) (hw _) (hw _) (hw _) (hw _) (hw _) (hw _) (hw _)
      (fun _ => hw _) h ht
  case segmentTestStart =>
    exact Closed.execSegmentTestStart hP _ _ (hw _) (hw _) (hw _) (fun _ => hw _) (fun _ => hw _) (fun _ => hw _)
      (fun _ => hw _) (hw _) (hw _) (hw _) (fun _ => hw _) h ht
  case segmentTestDone =>
    exact Closed.execSegmentTestDone hP _ _ _ _ (hw _) (hw _) (hw _) (fun _ => hw _) (hw _) (hw _) (fun _ => hw _)
      (fun _ => hw _) (fun _ => hw _) (fun _ => hw _) (fun _ => hw _) (hw _) (fun _ => hw _) (fun _ => hw _) (hw _)
      (fun _ => hw _) (hw _) (fun _ => hw _) (fun _ => hw _) (fun _ => hw _) (hw _) (fun _ => hw _) (hw _)
      (fun _ => hw _) (fun _ => hw _) (fun _ => hw _) (fun _ => hw _) h ht
  case sampleSlot =>
    exact Closed.execSampleSlot hP (fun _ => hw _) (fun _ => hw _) (fun _ => hw _) (fun _ => hw _) (fun _ => hw _)
      (hw _) (hw _) (fun _ => hw _) (fun _ => hw _) (fun _ => hw _) (hw _) (fun _ => hw _) h ht
  case durationDeadline => exact Closed.execDurationDeadline hP _ (hw _) (fun _ => hw _) h ht
  case trigInEdge => exact Closed.execTrigInEdge hP _ _ _ (hw _) (fun _ => hw _) h ht
  case sequencerDecision =>
    exact Closed.execSequencerDecision hP _ (hw _) (fun _ => hw _) (fun _ => hw _) (fun _ => hw _) (fun _ => hw _)
      (hw _) (hw _) (hw _) (fun _ => hw _) (fun _ => hw _) (hw _) (hw _) (fun _ => hw _) (hw _) (fun _ => hw _)
      (fun _ => hw _) (hw _) (hw _) (hw _) (hw _) (hw _) (hw _) (fun _ => hw _) (fun _ => hw _) (fun _ => hw _)
      (fun _ => hw _) (hw _) (hw _) (hw _) (fun _ => hw _) (fun _ => hw _) (fun _ => hw _) (fun _ => hw _)
      (fun _ => hw _) (fun _ => hw _) (fun _ _ _ => hw _) (hw _) h ht
  case timerExpiry => exact Closed.execTimerExpiry hP _ _ (hw _) (hw _) (hw _) h ht
  case deadTimeEnd => exact Closed.execDeadTimeEnd hP _ (hw _) (hw _) h ht
  case markWrite =>
    exact Closed.execMarkWrite hP _ (fun _ => hw _) (fun _ => hw _) (fun _ => hw _) (fun _ => hw _) h ht
  case trigOutPulseStart => exact Closed.execTrigOutPulseStart hP _ (hw _) (hw _) h ht
  case trigOutPulseEnd => exact Closed.execTrigOutPulseEnd hP _ (hw _) (hw _) (hw _) h ht
  case stepAnchor =>
    exact Closed.execStepAnchor hP _ _ (hw _) (hw _) (hw _) (fun _ => hw _) (fun _ => hw _) (hw _) (hw _) (hw _)
      (hw _) (hw _) (hw _) (hw _) (hw _) (fun _ => hw _) (fun _ => hw _) (fun _ => hw _) (fun _ => hw _) h ht
  case expectedEdgeTimeout =>
    exact Closed.execExpectedEdgeTimeout hP _ (hw _) (fun _ => hw _) (fun _ => hw _) (hw _) (hw _) (hw _) (hw _) h ht
  case checkLevel =>
    exact Closed.execCheckLevel hP _ (hw _) (fun _ => hw _) (fun _ => hw _) (hw _) (hw _) (hw _) (hw _) h ht
  case decisionInstant =>
    exact Closed.execDecisionInstant hP _ _ (fun _ => hw _) (fun _ => hw _) (hw _) (hw _) (hw _) (hw _) (hw _)
      (fun _ => hw _) (fun _ => hw _) (fun _ => hw _) (hw _) (hw _) (fun _ => hw _) (fun _ => hw _) (fun _ => hw _)
      (fun _ => hw _) (fun _ => hw _) (fun _ => hw _) (hw _) (hw _) (hw _) (hw _) (hw _) (hw _) (hw _)
      (fun _ => hw _) (fun _ => hw _) (fun _ => hw _) (fun _ => hw _) (fun _ => hw _) (fun _ => hw _) (hw _) (hw _)
      (hw _) (hw _) h ht
  case referenceLost =>
    exact Closed.execReferenceLost hP _ _ (hw _) (hw _) (hw _) (hw _) (hw _) (hw _) (fun _ => hw _) (fun _ => hw _)
      (fun _ => hw _) (hw _) (hw _) (hw _) (hw _) (hw _) (hw _) (hw _) (fun _ => hw _) (fun _ => hw _)
      (fun _ => hw _) h ht
  case histValue => exact Closed.execHistValue hP _ _ (hw _) (fun _ _ => hw _) (hw _) h ht
  case sweepColumnEnd => exact Closed.execSweepColumnEnd hP _ (hw _) (hw _) (fun _ _ => hw _) h ht
  case deferredSwap => exact Closed.execDeferredSwap hP _ _ (hw _) (hw _) (hw _) h ht
  case spillDone =>
    exact Closed.execSpillDone hP _ (hw _) (fun _ => hw _) (fun _ => hw _) (hw _) (hw _) (hw _) (hw _) (hw _) (hw _)
      (hw _) (hw _) (fun _ => hw _) (hw _) (hw _) (hw _) (hw _) (fun _ => hw _) h ht
  case gateInEdge => exact Closed.execGateInEdge hP _ _ _ (fun _ => hw _) h ht
  case intervalEvent =>
    exact Closed.execIntervalEvent hP _ (hw _) (hw _) (fun _ => hw _) (fun _ => hw _) (hw _) (hw _) (hw _) (hw _)
      (hw _) (hw _) (hw _) (hw _) (hw _) (hw _) (hw _) (hw _) (hw _) (hw _) h ht
  case freeWindowEnd =>
    exact Closed.execFreeWindowEnd hP _ (hw _) (hw _) (fun _ => hw _) (fun _ => hw _) (hw _) (hw _) (hw _) (hw _)
      (hw _) (hw _) (hw _) (hw _) (hw _) (hw _) (hw _) (hw _) h ht
  case flushTime =>
    exact Closed.execFlushTime hP _ (fun _ => hw _) (fun _ => hw _) (fun _ => hw _) (fun _ => hw _) h ht
  case digestPeriodic => exact Closed.execDigestPeriodic hP (fun _ => hw _) (fun _ => hw _) h ht
  case bufferCompletion =>
    exact Closed.execBufferCompletion hP _ (hw _) (hw _) (hw _) (hw _) (hw _) (fun _ => hw _) (fun _ => hw _)
      (fun _ => hw _) (fun _ => hw _) (fun _ _ => hw _) (fun _ => hw _) (hw _) (hw _) (hw _) (hw _) h ht
  case lossSegment => exact Closed.execLossSegment hP _ (hw _) h ht
  case queueWrite =>
    exact Closed.execQueueWrite hP _ _ _ _ (fun _ => hw _) (fun _ => hw _) (fun _ => hw _) (hw _) (hw _)
      (fun _ => hw _) (fun _ => hw _) (fun _ => hw _) (fun _ => hw _) (fun _ => hw _) h ht
  case packetCommit =>
    exact Closed.execPacketCommit hP _ _ (fun _ => hw _) (fun _ => hw _) (fun _ => hw _) (hw _) (hw _)
      (fun _ => hw _) (fun _ => hw _) (fun _ => hw _) (fun _ => hw _) (fun _ => hw _) h ht
  case packetAbort =>
    exact Closed.execPacketAbort hP _ (fun _ => hw _) (hw _) (fun _ => hw _) (fun _ => hw _) (fun _ => hw _) h ht
  case queueRead =>
    exact Closed.execQueueRead hP _ _ (fun _ => hw _) (fun _ => hw _) (fun _ => hw _) (hw _) (fun _ => hw _) h ht
  case pop => exact Closed.execPop hP _ _ (fun _ => hw _) (fun _ => hw _) (fun _ => hw _) (hw _) (fun _ => hw _) h ht
  case setMark =>
    exact Closed.execSetMark hP _ (fun _ => hw _) (fun _ => hw _) (fun _ => hw _) (hw _) (fun _ => hw _) h ht
  case rewind =>
    exact Closed.execRewind hP _ (fun _ => hw _) (fun _ => hw _) (fun _ => hw _) (hw _) (fun _ => hw _) h ht
  case release =>
    exact Closed.execRelease hP _ (fun _ => hw _) (fun _ => hw _) (fun _ => hw _) (hw _) (fun _ => hw _) h ht
  case releaseToMark =>
    exact Closed.execReleaseToMark hP _ (fun _ => hw _) (fun _ => hw _) (fun _ => hw _) (hw _) (fun _ => hw _) h ht
  case stalledReadComplete =>
    exact Closed.execStalledReadComplete hP _ (fun _ => hw _) (fun _ => hw _) (fun _ => hw _) (hw _)
      (fun _ => hw _) h ht
  case readWithdrawn =>
    exact Closed.execReadWithdrawn hP _ (fun _ => hw _) (fun _ => hw _) (fun _ => hw _) (hw _) (hw _) h ht
  case bankHandover => exact Closed.execBankHandover hP _ (fun _ => hw _) (fun _ => hw _) h ht
  case bankDrainDone => exact Closed.execBankDrainDone hP _ (fun _ => hw _) (fun _ => hw _) h ht
  case data =>
    exact Closed.execData hP _ (fun _ => hw _) (fun _ => hw _) (fun _ => hw _) (hw _) (hw _) (fun _ => hw _) (hw _)
      (hw _) (hw _) (fun _ => hw _) h ht
  case dataLast =>
    exact Closed.execDataLast hP _ _ (fun _ => hw _) (fun _ => hw _) (fun _ => hw _) (hw _) (hw _) (fun _ => hw _)
      (hw _) (hw _) (hw _) (fun _ => hw _) h ht
  case controlAbort => exact Closed.execControlAbort hP (hw _) (hw _) (hw _) (hw _) (hw _) h ht
  case controlDiscard => exact Closed.execControlDiscard hP (hw _) (hw _) (hw _) (hw _) (hw _) h ht
  case vword => exact Closed.execVword hP (hw _) (hw _) (hw _) (hw _) (hw _) h ht
  case lost => exact Closed.execLost hP (hw _) h ht
  case portProtocolError => exact Closed.execPortProtocolError hP (hw _) h ht
  case stationTimeout => exact Closed.execStationTimeout hP (hw _) (hw _) (hw _) (hw _) (hw _) (hw _) h ht
  case annotationRoute =>
    exact Closed.execAnnotationRoute hP (hw _) (hw _) (fun _ => hw _) (fun _ => hw _) (fun _ => hw _) (hw _) (hw _)
      (hw _) (hw _) (hw _) (hw _) h ht
  case syncInEdge =>
    exact Closed.execSyncInEdge hP (fun _ => hw _) (fun _ => hw _) (hw _) (fun _ => hw _) (fun _ => hw _) (hw _)
      (hw _) (fun _ => hw _) (fun _ => hw _) (fun _ => hw _) (fun _ => hw _) (fun _ => hw _) (fun _ => hw _)
      (fun _ => hw _) (hw _) (hw _) (hw _) (fun _ => hw _) (fun _ => hw _) (fun _ => hw _) (fun _ => hw _)
      (fun _ => hw _) (fun _ _ => hw _) (fun _ _ => hw _) (fun _ _ => hw _) (fun _ _ => hw _) (fun _ _ _ => hw _)
      (fun _ _ => hw _) (fun _ => hw _) (fun _ => hw _) h ht
  case state => exact Closed.execState hP (hw _) h ht
  case tempHd => exact Closed.execTempHd hP _ (hw _) (hw _) h ht
  case tempCd0 => exact Closed.execTempCd0 hP _ (hw _) (hw _) h ht
  case tempCd1 => exact Closed.execTempCd1 hP _ (hw _) (hw _) h ht
  case opSeconds => exact Closed.execOpSeconds hP (hw _) h ht
  case alert => exact Closed.execAlert hP (hw _) h ht
  case ack => exact Closed.execAck hP _ (hw _) h ht
  case ident => exact Closed.execIdent hP (hw _) h ht
  case compressorBlock =>
    exact Closed.execCompressorBlock hP _ _ _ _ _ (fun _ => hw _) (fun _ => hw _) (hw _) (hw _) (hw _)
      (fun _ => hw _) (fun _ => hw _) (fun _ => hw _) (fun _ _ => hw _) (fun _ => hw _) (hw _) (fun _ => hw _)
      (fun _ => hw _) (fun _ => hw _) (hw _) h ht
  case knownAnswerTestDone =>
    exact Closed.execKnownAnswerTestDone hP _ _ (fun _ => hw _) (hw _) (hw _) (hw _) (fun _ => hw _) (hw _) (hw _)
      (fun _ => hw _) (fun _ => hw _) (fun _ => hw _) (fun _ => hw _) (fun _ => hw _) (hw _) (fun _ => hw _)
      (fun _ => hw _) (hw _) (fun _ => hw _) (hw _) (fun _ => hw _) (fun _ => hw _) (fun _ => hw _) (hw _)
      (fun _ => hw _) (hw _) (fun _ => hw _) (fun _ => hw _) (fun _ => hw _) h ht
  case contextSwitchDone =>
    exact Closed.execContextSwitchDone hP _ _ _ _ (fun _ => hw _) (hw _) (fun _ => hw _) (fun _ => hw _)
      (fun _ => hw _) (fun _ => hw _) (fun _ => hw _) (fun _ => hw _) (fun _ => hw _) (fun _ => hw _)
      (fun _ => hw _) (fun _ => hw _) (fun _ => hw _) (fun _ => hw _) (fun _ => hw _) h ht
  case decompressorCorrupt =>
    exact Closed.execDecompressorCorrupt hP _ _ _ _ _ (fun _ => hw _) (hw _) (fun _ => hw _) (hw _) (hw _)
      (fun _ => hw _) (fun _ => hw _) (fun _ => hw _) (fun _ => hw _) (fun _ => hw _) (fun _ => hw _)
      (fun _ => hw _) (fun _ => hw _) (fun _ => hw _) (hw _) h ht
  case uncorrectableError =>
    exact Closed.execUncorrectableError hP _ _ _ _ _ (hw _) (hw _) (fun _ => hw _) (fun _ => hw _) (fun _ => hw _)
      (hw _) (hw _) (hw _) (hw _) (fun _ => hw _) (fun _ => hw _) (hw _) (fun _ => hw _) (fun _ => hw _) (hw _)
      (hw _) (hw _) (fun _ => hw _) h ht
  case dramCommandError =>
    exact Closed.execDramCommandError hP _ _ _ _ (hw _) (hw _) (hw _) (fun _ => hw _) (fun _ => hw _)
      (fun _ => hw _) (hw _) (hw _) (hw _) (hw _) (fun _ => hw _) (fun _ => hw _) (hw _) (fun _ => hw _)
      (fun _ => hw _) (hw _) (hw _) (fun _ => hw _) h ht
  case correctedError => exact Closed.execCorrectedError hP _ _ (hw _) (hw _) h ht
  case correctedHour => exact Closed.execCorrectedHour hP _ (hw _) (hw _) h ht
  case patrolScrub =>
    exact Closed.execPatrolScrub hP _ _ _ _ (hw _) (hw _) (hw _) (hw _) (fun _ => hw _) (fun _ => hw _)
      (fun _ => hw _) (hw _) (hw _) (hw _) (hw _) (fun _ => hw _) (fun _ => hw _) (hw _) (fun _ => hw _)
      (fun _ => hw _) (hw _) (hw _) (fun _ => hw _) h ht
  case driftTracking =>
    exact Closed.execDriftTracking hP _ _ _ (hw _) (hw _) (hw _) (fun _ => hw _) (hw _) (hw _) (hw _)
      (fun _ => hw _) (fun _ _ => hw _) (fun _ => hw _) (hw _) (hw _) (hw _) (hw _) h ht
  case evacuationDone =>
    exact Closed.execEvacuationDone hP _ (hw _) (hw _) (hw _) (hw _) (hw _) (hw _) (fun _ => hw _) (hw _) (hw _)
      (hw _) (hw _) (hw _) (hw _) (hw _) (hw _) h ht
  case retrainingDone =>
    exact Closed.execRetrainingDone hP _ _ (hw _) (hw _) (hw _) (hw _) (hw _) (hw _) (hw _) (hw _) (hw _) (hw _)
      (hw _) (fun _ => hw _) (fun _ => hw _) (fun _ => hw _) (hw _) (fun _ => hw _) (fun _ => hw _) (fun _ => hw _)
      (fun _ => hw _) (fun _ => hw _) h ht
  case trainingFailed =>
    exact Closed.execTrainingFailed hP _ (hw _) (hw _) (hw _) (hw _) (hw _) (hw _) (fun _ => hw _) (fun _ => hw _)
      (fun _ => hw _) (fun _ => hw _) (fun _ => hw _) (fun _ => hw _) (fun _ => hw _) (fun _ => hw _) (hw _)
      (fun _ => hw _) (hw _) (hw _) (hw _) (fun _ => hw _) (fun _ => hw _) (fun _ => hw _) (hw _) (fun _ => hw _)
      (hw _) (hw _) (fun _ => hw _) (hw _) (hw _) (fun _ => hw _) h ht
  case sweepStepDone =>
    exact Closed.execSweepStepDone hP _ (hw _) (hw _) (hw _) (hw _) (hw _) (hw _) (hw _) (hw _) (fun _ => hw _)
      (hw _) (hw _) (hw _) (hw _) (hw _) (hw _) (hw _) (hw _) (hw _) h ht
  case selfRefreshEntry => exact Closed.execSelfRefreshEntry hP _ (hw _) (hw _) h ht
  case channelWake =>
    exact Closed.execChannelWake hP _ _ _ (hw _) (hw _) (hw _) (hw _) (hw _) (hw _) (hw _) (fun _ => hw _)
      (fun _ => hw _) (fun _ => hw _) (hw _) (hw _) (hw _) (hw _) (fun _ => hw _) (fun _ => hw _) (hw _)
      (fun _ => hw _) (fun _ => hw _) (fun _ => hw _) h ht
  case moduleRetired =>
    exact Closed.execModuleRetired hP _ _ (hw _) (hw _) (hw _) (hw _) (hw _) (hw _) (fun _ => hw _) (fun _ => hw _)
      (fun _ => hw _) (fun _ => hw _) (fun _ => hw _) (fun _ => hw _) (fun _ => hw _) (fun _ => hw _) (hw _)
      (fun _ => hw _) (hw _) (hw _) (hw _) (fun _ => hw _) (fun _ => hw _) (fun _ => hw _) (hw _) (fun _ => hw _)
      (hw _) (hw _) (fun _ => hw _) (fun _ => hw _) h ht
  case targetedSelfTestDone =>
    exact Closed.execTargetedSelfTestDone hP _ _ _ (hw _) (hw _) (fun _ => hw _) (hw _) (hw _) (fun _ => hw _)
      (fun _ => hw _) (fun _ => hw _) (fun _ => hw _) (fun _ => hw _) (hw _) (fun _ => hw _) (fun _ => hw _) (hw _)
      (fun _ => hw _) (hw _) (hw _) (fun _ => hw _) (fun _ => hw _) (fun _ => hw _) (hw _) (fun _ => hw _) (hw _)
      (fun _ => hw _) (fun _ => hw _) (fun _ => hw _) (fun _ => hw _) h ht
  case replacement =>
    exact Closed.execReplacement hP (hw _) (fun _ => hw _) (fun _ => hw _) (fun _ => hw _) (fun _ => hw _) (hw _)
      (fun _ => hw _) (hw _) (hw _) (hw _) (fun _ => hw _) (hw _) (hw _) (hw _) (fun _ => hw _) (fun _ => hw _)
      (fun _ => hw _) (fun _ => hw _) (fun _ => hw _) (hw _) (fun _ => hw _) h ht
  case dieDigestCheck =>
    exact Closed.execDieDigestCheck hP _ _ _ (hw _) (hw _) (hw _) (hw _) (hw _) (fun _ => hw _) h ht
  case ledgerRecordCreate =>
    exact Closed.execLedgerRecordCreate hP (hw _) (hw _) (hw _) (hw _) (hw _) (hw _) (hw _) (hw _) (hw _) (hw _)
      (hw _) (hw _) (hw _) (hw _) (hw _) (hw _) (hw _) h ht
  case ledgerFlush =>
    exact Closed.execLedgerFlush hP _ (hw _) (hw _) (hw _) (hw _) (hw _) (hw _) (hw _) (hw _) (hw _) (hw _) (hw _)
      (hw _) (hw _) (hw _) (hw _) (hw _) h ht
  case ledgerRestored =>
    exact Closed.execLedgerRestored hP _ (hw _) (hw _) (hw _) (hw _) (hw _) (hw _) (hw _) (hw _) (hw _) (hw _)
      (hw _) (hw _) (hw _) (hw _) (hw _) (hw _) h ht
  case ledgerScrub => exact Closed.execLedgerScrub hP _ _ (hw _) (hw _) (hw _) h ht
  case operatingSecond => exact Closed.execOperatingSecond hP (hw _) (hw _) (fun _ => hw _) h ht
  case noticeWrite => exact Closed.execNoticeWrite hP (hw _) (hw _) (hw _) (hw _) (hw _) (hw _) (hw _) (hw _) h ht
  case beat => exact Closed.execBeat hP (hw _) (hw _) (hw _) (hw _) h ht
  case unlockLapse => exact Closed.execUnlockLapse hP (hw _) (hw _) (hw _) (hw _) (hw _) (fun _ => hw _) h ht
  case powerUp => exact Closed.execPowerUp hP hw h ht
  case blockLockGained => exact Closed.execBlockLockGained hP _ (hw _) h ht
  case pmeStatusClear => exact Closed.execPmeStatusClear hP (hw _) (hw _) h ht

/-- Every step keeps what every update keeps, and what does not depend on the queue of commands. -/
theorem step (hP : Closed W P) (hw : ∀ p, W p) {s t : State} (hq : ∀ q, P s → P (s.withPending q)) (h : P s)
    (ht : Sys2Proof.Machine.step s = .next t) : P t := by
  unfold Sys2Proof.Machine.step at ht
  split at ht
  · cases ht
    exact h
  · exact Closed.exec hP hw (hq _ h) ht

end Sys2Proof.Machine.Closed
end

