-- ==== Sys2Proof/Laws/Frame.lean ====
section
/-!
SUPPORT. Frames: the updates that `W` allows leave every other part as it was, so a lemma of Laws/Exec.lean gives the frame of its
command.
-/
namespace Sys2Proof.Machine

open Sys2Proof.Safety

theorem same_refl (s : State) (p : Part) : Same s s p := by
  cases p <;> simp [Same]

theorem frame_refl (W : Part → Prop) (s : State) : Frame W s s := ⟨rfl, fun p _ => same_refl s p⟩

/-- A frame is kept by an update that leaves the parts outside `W` as they were. -/
theorem frame_update {W : Part → Prop} {s t u : State} (h : Frame W s t) (hq : u.pending = t.pending)
    (hu : ∀ p, ¬ W p → Same t u p) : Frame W s u := by
  refine ⟨hq.trans h.1, fun p hp => ?_⟩
  have h1 := h.2 p hp
  have h2 := hu p hp
  cases p <;> simp only [Same] at * <;> simp_all

theorem closed_frame (W : Part → Prop) (s : State) : Closed W (Frame W s) := by
  constructor
  case setReg =>
    refine fun a v hw h => frame_update h rfl fun p hp => ?_
    cases p <;> try first | exact rfl | exact ⟨fun _ => rfl, rfl⟩ | exact ⟨rfl, rfl, rfl, rfl, rfl⟩
    rename_i b
    exact Tbl.getD_set_of_ne _ _ _ _ fun e => hp (e ▸ hw)
  case fwWrite =>
    refine fun a v hw hf h => frame_update h rfl fun p hp => ?_
    cases p <;> try first | exact rfl | exact ⟨fun _ => rfl, rfl⟩ | exact ⟨rfl, rfl, rfl, rfl, rfl⟩
    · rename_i b
      exact Tbl.getD_set_of_ne _ _ _ _ fun e => hp (e ▸ hw)
    · exact absurd hf hp
  case setStream =>
    refine fun i v hw h => frame_update h rfl fun p hp => ?_
    cases p <;> try first | exact rfl | exact ⟨fun _ => rfl, rfl⟩ | exact ⟨rfl, rfl, rfl, rfl, rfl⟩
    exact Tbl.getD_put_of_ne _ _ _ fun e => hp (e ▸ hw)
  case modMbx =>
    refine fun f hf hw h => frame_update h rfl fun p hp => ?_
    cases p <;> try first | exact rfl | exact ⟨fun _ => rfl, rfl⟩ | exact ⟨rfl, rfl, rfl, rfl, rfl⟩
    · simp [Same, State.box, State.modMbx, hf]
    · exact absurd hw hp
  case modMem =>
    refine fun f _ hc hw h => frame_update h rfl fun p hp => ?_
    cases p <;> try first | exact rfl | exact ⟨fun _ => rfl, rfl⟩ | exact ⟨rfl, rfl, rfl, rfl, rfl⟩
    · simp [Same, State.chan, State.modMem, hc]
    · exact absurd hw hp
  case drawBytes =>
    refine fun n hw h => frame_update h rfl fun p hp => ?_
    cases p <;> try first | exact rfl | exact ⟨fun _ => rfl, rfl⟩ | exact ⟨rfl, rfl, rfl, rfl, rfl⟩
    exact absurd hw hp
  case abandonCommands =>
    refine fun hb hw h => frame_update h rfl fun p hp => ?_
    cases p <;> try first | exact rfl | exact ⟨fun _ => rfl, rfl⟩ | exact ⟨rfl, rfl, rfl, rfl, rfl⟩
    · exact absurd (hb _) hp
    · exact absurd hw hp
  case pruneLanes =>
    refine fun hw h => frame_update h ?_ fun p hp => ?_
    · exact rfl
    · cases p <;> try first | exact rfl | exact ⟨fun _ => rfl, rfl⟩ | exact ⟨rfl, rfl, rfl, rfl, rfl⟩
      exact absurd (hw _) hp
  case resetBase => exact fun keep hw h => ⟨h.1, fun p hp => absurd (hw p) hp⟩
  case delStream | delRef | delImage =>
    refine fun i hw h => frame_update h rfl fun p hp => ?_
    cases p <;> try first | exact rfl | exact ⟨fun _ => rfl, rfl⟩ | exact ⟨rfl, rfl, rfl, rfl, rfl⟩
    rename_i n
    have hn : n ≠ i := fun e => hp (e ▸ hw)
    simp [Same, State.stream, State.ref, State.image, State.delStream, State.delRef, State.delImage, Tbl.getD,
      Tbl.find?_del_of_ne _ hn]
  case setLane | setStake | setPort | setSeq | setTout | setRef | setCmp | setHist | setImage | setIval | setQueue | setCe
      | setDe | setBox | setChan | setSched =>
    refine fun i v hw h => frame_update h rfl fun p hp => ?_
    cases p <;> try first | exact rfl | exact ⟨fun _ => rfl, rfl⟩ | exact ⟨rfl, rfl, rfl, rfl, rfl⟩
    exact Tbl.getD_set_of_ne _ _ _ _ fun e => hp (e ▸ hw)
  all_goals
    refine fun f hw h => frame_update h rfl fun p hp => ?_
    cases p <;> try first | exact rfl | exact ⟨fun _ => rfl, rfl⟩ | exact ⟨rfl, rfl, rfl, rfl, rfl⟩
    exact absurd hw hp

end Sys2Proof.Machine
end

