-- ==== Sys2Proof/WellFormed.lean ====
section
/-!
DEFINITION. Which operand values a command can arrive with: the bounds that the operand types of `Instr` leave open.
The machine runs ill-formed commands too; a statement that needs a bound takes it from here.
-/
namespace Sys2Proof

/-- An access moves a positive whole number of bytes (R354). -/
def wholeBytes (bits : Nat) : Bool := bits % 8 == 0 && decide (0 < bits)

def WriteAttr.wf (a : WriteAttr) : Bool := wholeBytes a.bits

/-- 17 reserved header bytes and at most 4,032 payload bytes (Table 14.1). -/
def MbImage.wf (i : MbImage) : Bool := i.rsv.length == 17 && decide (i.payload.length ≤ 4032)

/-- A lane can fail steps 2 to 5 (Table 2.3). -/
def LaneCal.wf (c : LaneCal) : Bool := c.failStep.all fun k => decide (2 ≤ k ∧ k ≤ 5)

/-- Widths the link can negotiate (R344). -/
def legalWidth (w : Nat) : Bool := [1, 2, 4, 8, 16].contains w

/-- A frame carries 15 pod words (R68). -/
def PodFrame.wf (f : PodFrame) : Bool := f.words.length == 15

/-- Two firmware slots, one entry per memory channel, at most three failed rates each, lane results, a nominal reference of
10 or 100 MHz or none, and a rate code of Table 15.16. -/
def StartOutcome.wf (o : StartOutcome) : Bool :=
  o.channelFails.length == 16 && o.channelFails.all (fun n => decide (n ≤ 3)) && o.densities.length == 16
    && o.lanes.all LaneCal.wf && o.slots.length == 2 && [0, 10, 100].contains o.refMhz
    && decide (1 ≤ o.linkRate.toNat ∧ o.linkRate.toNat ≤ 6) && legalWidth o.linkWidth.toNat

/-- The operands are ones that the interfaces of the device can carry. -/
def Instr.wf : Instr → Bool
  | .deviceInfo _ | .getStatus _ | .getDigests _ | .notifyRing _ | .create _ | .destroy _ | .configureLanes _
  | .configurePods _ | .defineSequenceLevels _ | .defineSequenceTerms _ | .defineHistogram _ | .defineInterval _
  | .bindStream _ | .setWindow _ | .startCompare _ | .commit _ | .commitRevert _ | .queryPlacement _ | .arm _
  | .armSync _ | .disarm _ | .forceMark _ | .abortStream _ | .abortCompareJob _ | .abortCommand _
  | .loadReference _ | .histogramSnapshotSwap _ | .histogramSnapshotFetch _ | .histogramClear _ | .annotate _
  | .timeNote _ | .ledgerRead _ | .ledgerClearChallenge _ | .ledgerClear _ | .ledgerSetSnapshot _
  | .ledgerProvisionKey _ | .selftest _ | .diagDecompress _ | .diagUnlock _ | .diagLock _ | .mapWindow _
  | .setPowerState _ | .fwUpdateBegin _ | .fwUpdateCancel _ | .fwUpdateChunk _ | .fwUpdateCommit _
  | .fwUpdateDone _ => true
  | .mailboxDoorbell _ _ a i => a.wf && i.wf
  | .commandCompletion _ _ => true
  | .descTail _ _ a => a.wf
  | .cplHead _ _ a => a.wf
  | .notificationConsumerDoorbell _ a => a.wf
  | .registerWrite _ _ a _ => a.wf
  | .rcRegisterRead _ bits => wholeBytes bits
  | .iuResValueLoRead _ | .loCounterRead _ => true
  | .bar2Read _ len _ => decide (0 < len)
  | .bar2Write _ bs _ => !bs.isEmpty
  | .windowTableSwap _ | .d3hot | .d0 | .busMasterEnableCleared | .busMasterEnableSet | .functionLevelReset
  | .linkDown => true
  | .linkUp r w _ => decide (1 ≤ r.toNat ∧ r.toNat ≤ 6) && legalWidth w.toNat
  | .linkHoldExpiry => true
  | .linkRetrain r w _ => decide (1 ≤ r.toNat ∧ r.toNat ≤ 6) && legalWidth w.toNat
  | .completionTimeout tag => decide (tag < 1024)
  | .completionReceived tag _ _ => decide (tag < 1024)
  | .descriptorFetch _ => true
  | .uncorrectableInternalError h => decide (h.length = 16)
  | .perstNAssert => true
  | .startUp o => o.wf
  | .laneCalibration rs _ _ => rs.all LaneCal.wf
  | .initialTraining _ fails _ _ => decide (fails ≤ 3)
  | .pwrFailNAssert | .pwrFailNDeassert _ | .brownOut | .thermalTrip _ _ | .thermalRelease _ _ _
  | .stateTransitionDone | .standbyEntry | .wake _ _ | .refLost | .refBad => true
  | .refQualified mhz _ => decide (mhz = 10 ∨ mhz = 100)
  | .refLocked | .holdoverEnd | .timestampWrap | .sessionEpochPulse _ | .comparatorEdge _ _ _ _ _ _
  | .burstClose _ _ _ | .levelKeepalive _ | .rawBlockClose _ | .lossOfLock _ _ | .tdcSelftestDone _ _
  | .dacReadback _ _ _ | .dacSweepDone _ _ | .calDue _ _ | .superframeBeacon _ => true
  | .frameReceived _ _ f => f.wf
  | .managementBlockReceived _ _ _ | .blockLockLost _ | .delayRecompute _ _ | .commandBlockSent _ _
  | .podFault _ _ | .slotSwitch _ | .slotSwitchCancel _ _ => true
  | .enum _ serials => decide (serials.length ≤ 32)
  | .chainBreak _ _ | .podAdded _ _ | .configDigestRotation _ _ | .segmentTestStart _ _
  | .segmentTestDone _ _ _ _ | .sampleSlot | .durationDeadline _ | .trigInEdge _ _ _ | .sequencerDecision _
  | .timerExpiry _ _ | .deadTimeEnd _ | .markWrite _ | .trigOutPulseStart _ | .trigOutPulseEnd _
  | .stepAnchor _ _ | .expectedEdgeTimeout _ | .checkLevel _ | .decisionInstant _ _ | .referenceLost _ _
  | .histValue _ _ | .sweepColumnEnd _ | .deferredSwap _ _ | .spillDone _ | .gateInEdge _ _ _ | .intervalEvent _
  | .freeWindowEnd _ | .flushTime _ | .digestPeriodic | .bufferCompletion _ | .lossSegment _
  | .queueWrite _ _ _ _ | .packetCommit _ _ | .packetAbort _ | .queueRead _ _ | .pop _ _ | .setMark _
  | .rewind _ | .release _ | .releaseToMark _ | .stalledReadComplete _ | .readWithdrawn _ | .bankHandover _
  | .bankDrainDone _ | .data _ | .dataLast _ _ | .controlAbort | .controlDiscard | .vword | .lost
  | .portProtocolError | .stationTimeout | .annotationRoute | .syncInEdge | .state | .tempHd _ | .tempCd0 _
  | .tempCd1 _ | .opSeconds | .alert | .ack _ | .ident | .compressorBlock _ _ _ _ _ | .knownAnswerTestDone _ _ => true
  | .contextSwitchDone _ _ ctx _ => decide (ctx.toNat < 4096)
  | .decompressorCorrupt _ _ _ _ _ | .uncorrectableError _ _ _ _ _ | .dramCommandError _ _ _ _
  | .correctedError _ _ | .correctedHour _ | .patrolScrub _ _ _ _ | .driftTracking _ _ _ | .evacuationDone _
  | .retrainingDone _ _ | .trainingFailed _ | .sweepStepDone _ | .selfRefreshEntry _ | .channelWake _ _ _
  | .moduleRetired _ _ | .targetedSelfTestDone _ _ _ | .replacement | .dieDigestCheck _ _ _ | .ledgerRecordCreate
  | .ledgerFlush _ | .ledgerRestored _ | .ledgerScrub _ _ | .operatingSecond | .noticeWrite | .beat
  | .unlockLapse | .powerUp | .blockLockGained _ | .pmeStatusClear => true

end Sys2Proof
end

