-- ==== Sys2Proof/Tests/Slice0.lean ====
section
/-!
SUPPORT. Tests: ill-formed commands that the checks refuse, values of the standards that the spec names, and for every
statement with hypotheses states that meet them together, clause by clause (`witness_<statement>`).
-/
set_option maxRecDepth 100000
set_option Elab.async false

namespace Sys2Proof.Tests

open Machine Safety

/-! ## Commands that no interface can carry -/

def image : MbImage :=
  { code := 1, tag := 7, length := 0, handle := 0, vector := 0, flags := 0, rsv := List.replicate 17 0, payload := [] }
def outcome : StartOutcome :=
  { powerOn := true, boardA := [], boardB := [], slots := [some [], none], metaBadA := [], metaBadB := [], pllLock := true
    refMhz := 0, refPpb := 0
    badModules := [], channelFails := List.replicate 16 0, densities := List.replicate 16 2, memTemp := 0, lanes := []
    tempHd := 0, tempCd0 := 0, tempCd1 := 0, badUnits := [], coreFail := false, late := false, us := 0
    linkRate := 6, linkWidth := 16, linkFlit := true }
def frame (n : Nat) : PodFrame := { headersValid := true, words := List.replicate n 0, checkType := 0, check := 0 }

theorem test_wf_write_bits : Instr.wf (.registerWrite ⟨.bar0, 0, 0⟩ 0 { bits := 12, poisoned := false } false) = false := by decide
theorem test_wf_write_empty : Instr.wf (.descTail 0 0 { bits := 0, poisoned := false }) = false := by decide
theorem test_wf_image_reserved :
    Instr.wf (.mailboxDoorbell 0 7 { bits := 32, poisoned := false } { image with rsv := [] }) = false := by decide
theorem test_wf_image_payload : MbImage.wf { image with payload := List.replicate 4033 0 } = false := by decide +kernel
theorem test_wf_image : MbImage.wf image = true := by decide
theorem test_wf_lane_step : Instr.wf (.laneCalibration [{ lane := 0, failStep := some 6, cal := 0 }] 0 0) = false := by decide
theorem test_wf_frame_words : Instr.wf (.frameReceived 0 0 (frame 14)) = false := by decide
theorem test_wf_start_channels : Instr.wf (.startUp { outcome with channelFails := [] }) = false := by decide
theorem test_wf_start_fails :
    Instr.wf (.startUp { outcome with channelFails := List.replicate 16 4 }) = false := by decide
theorem test_wf_start_densities : Instr.wf (.startUp { outcome with densities := [] }) = false := by decide
theorem test_wf_start_lanes :
    Instr.wf (.startUp { outcome with lanes := [{ lane := 0, failStep := some 1, cal := 0 }] }) = false := by decide
theorem test_wf_start_slots : Instr.wf (.startUp { outcome with slots := [none] }) = false := by decide
theorem test_wf_start_ref : Instr.wf (.startUp { outcome with refMhz := 11 }) = false := by decide
theorem test_wf_start_rate : Instr.wf (.startUp { outcome with linkRate := 7 }) = false := by decide
theorem test_wf_start_width : Instr.wf (.startUp { outcome with linkWidth := 3 }) = false := by decide
theorem test_wf_start : Instr.wf (.startUp outcome) = true := by decide
theorem test_wf_read_bits : Instr.wf (.rcRegisterRead ⟨.bar0, 0, 0⟩ 33) = false := by decide
theorem test_wf_bar2_read : Instr.wf (.bar2Read 0 0 ⟨false, 0⟩) = false := by decide
theorem test_wf_bar2_write : Instr.wf (.bar2Write 0 [] false) = false := by decide
theorem test_wf_link_rate : Instr.wf (.linkUp 0 16 true) = false := by decide
theorem test_wf_link_width : Instr.wf (.linkRetrain 6 5 true) = false := by decide
theorem test_wf_timeout_tag : Instr.wf (.completionTimeout 1024) = false := by decide
theorem test_wf_completion_tag : Instr.wf (.completionReceived 1024 .success []) = false := by decide
theorem test_wf_header_log : Instr.wf (.uncorrectableInternalError []) = false := by decide
theorem test_wf_training_fails : Instr.wf (.initialTraining 0 4 0 0) = false := by decide
theorem test_wf_ref_mhz : Instr.wf (.refQualified 20 0) = false := by decide
theorem test_wf_enum_serials : Instr.wf (.enum 0 (List.replicate 33 1)) = false := by decide
theorem test_wf_context : Instr.wf (.contextSwitchDone (.ce 0) 0 4096 true) = false := by decide

/-! ## Values from outside the model -/

/-- No row of the table has bits. -/
theorem test_no_word_decodes : decodeTableWord 16 0x1234 = none := rfl

/-- The check value of the CRC-32 of IEEE 802.3 over "123456789". -/
theorem test_crc32_check : crc32 ((List.range 9).map fun k => BitVec.ofNat 8 (0x31 + k)) = 0xCBF43926 := by decide +kernel

/-- The SHA-256 of no bytes (FIPS 180-4). -/
theorem test_sha256_empty :
    sha256 [] = (leBytes 32 0xE3B0C44298FC1C149AFBF4C8996FB92427AE41E4649B934CA495991B7852B855).reverse := by decide +kernel

/-- R8: the counters of the hub wrap at 2^64, into the next timestamp epoch of the session. -/
theorem test_session_time : State.reset.sessionTime 5 = 5 := by decide +kernel

/-! ## States for the witnesses -/

/-! ### Builders -/

/-- A command image with tag 7. -/
def cmd (code : Half) (handle : Word) (payload : List Byte) : MbImage :=
  { code := code, tag := 7, length := BitVec.ofNat 32 payload.length, handle := handle, vector := 0, flags := 0
    rsv := List.replicate 17 0, payload := payload }

/-- Mailbox 0 has started this command. -/
def started (s : State) (img : MbImage) : State :=
  s.modBox 0 fun b => { b with owner := true, taken := some img, started := true }

def run (code : Half) (handle : Word) (payload : List Byte) : State := started State.reset (cmd code handle payload)

def half (s : State) : State :=
  s.modPower fun p => { p with board := { p.board with ordering := .zs096c } }

def onBus (s : State) : State := s.modPcie fun p => { p with busMaster := true }

/-- Armed since session time 0; the counters stand at slot 100. -/
def armed (s : State) : State :=
  ((s.modTime fun t => { t with armed := true, tsCd0 := 25600, tsCd1 := 25600, tsHd := 25600 }).setPwr 2).setReg HUB_EPOCH 1

/-- One committed definition. -/
def committed (s : State) (kind idx : Nat) (p : List Byte) : State :=
  s.modWeaver fun w => { w with committed := { w.committed with defs := Tbl.put w.committed.defs (objKey kind idx) p } }

def placed (s : State) (f : Placement → Placement) : State := s.modWeaver fun w => { w with place := f w.place }

/-- A stream of lanes 0 with a 16-entry descriptor ring and completion ring and 1 MiB of retention. -/
def bindBytes (flags fmt : Nat) (lanes : List Byte) : List Byte :=
  leBytes 4 flags ++ leBytes 4 fmt ++ leBytes 8 0 ++ leBytes 8 (2 ^ 20) ++ leBytes 8 0x10000 ++ leBytes 8 0x20000 ++
    leBytes 4 16 ++ leBytes 4 16 ++ leBytes 2 lanes.length ++ leBytes 14 0 ++ padTo (4 * ((lanes.length + 3) / 4)) lanes

def streamed (s : State) : State :=
  placed (committed s 1 0 (bindBytes 0 0 [0])) fun p => { p with streams := [{ obj := 0, demand := 1, stripe := [0], perChannel := 2 ^ 20
                                                                               engine := none, slot := none }] }

/-! ### Mailboxes -/

def iInfo : MbImage := cmd 1 0 []
def iUnknown : MbImage := cmd 0xFFFF 0 []
def iCommitImage : MbImage := cmd 0x30 0 (leBytes 8 0)
def iTooLong : MbImage := { iInfo with length := 4033 }
def attr32 : WriteAttr := { bits := 32, poisoned := false }
def attr64 : WriteAttr := { bits := 64, poisoned := false }
def sReset : State := State.reset
def sInfo : State := run 1 0 []
def sStatus : State := (run 2 0 []).modStation fun t => { t with retiredEvt := true, spareEvt := true }
def sStatusStream : State := run 2 0x10010000 []
def sDigests : State := run 3 0 []

def sAnswered : State :=
  onBus (State.reset.modBox 0 fun b =>
    { b with owner := true, taken := some { iInfo with flags := 1 }, started := true, ready := some (Response.ok [1, 2]) })

def sVectorOn : State := sAnswered.modPcie fun p => { p with msix := Tbl.put p.msix 3 0 }
def sRing : State := run 4 0 (leBytes 8 4096 ++ leBytes 8 64)

def sNotice : State :=
  (((onBus State.reset).setReg MB_NTF_CFG 3).modMbx fun m => { m with ringAddr := 4096, ringEntries := 64 }).modQueue 2 fun q =>
    { q with items := [{ word := 5, last := true }], visible := 1 }

/-! ### Objects and configuration -/

def sCreate : State := run 0x10 0 [1, 0, 0, 0]

/-- All 16 interval jobs... of type 5 are taken. -/
def sCreateFull : State :=
  (run 0x10 0 [4, 0, 0, 0]).modWeaver fun w => { w with created := (List.range 64).map fun k => (objKey 4 k, false) }

def sDestroy : State := (run 0x11 0x20010000 []).modWeaver fun w => { w with created := [(objKey 2 0, false)] }

def sDestroyNamed : State :=
  sDestroy.modWeaver fun w => { w with staged := { w.staged with
    defs := [(objKey 1 0, bindBytes 0 0 [0, 0, 0, 0] |>.set 0x34 1 |> (· ++ leBytes 4 0x20010000))] } }

def sDestroyInUse : State :=
  (committed (run 0x11 0x10010000 []) 1 0 (bindBytes 0 0 [0])).modWeaver fun w => { w with created := [(objKey 1 0, false)] }

def laneEntryBytes (n thr : Nat) : List Byte :=
  leBytes 4 n ++ leBytes 4 0x100001 ++ leBytes 4 thr ++ leBytes 4 1000 ++ leBytes 16 0

def sLanes : State := run 0x20 0 (leBytes 8 2 ++ laneEntryBytes 0 (1000 + 1010 * 65536) ++ laneEntryBytes 0 (24 + 4024 * 65536))
def sLanesAbsent : State := half (run 0x20 0 (leBytes 8 1 ++ laneEntryBytes 96 (1000 + 2000 * 65536)))
def sPods : State := run 0x21 0 (leBytes 8 1 ++ leBytes 4 0x10000 ++ leBytes 1044 0)
def sPodsAbsent : State := half (run 0x21 0 (leBytes 8 1 ++ leBytes 4 0x1F0F ++ leBytes 1044 0))
def sLevels : State := run 0x22 0x20010000 (leBytes 1416 0)
def sTerms : State := run 0x22 0x20010000 (leBytes 8 0x101 ++ leBytes 4 1 ++ leBytes 44 0)
def sTermsAbsent : State := half (run 0x22 0x20010000 (leBytes 8 0x101 ++ leBytes 4 0xB0001 ++ leBytes 44 0))
def histBytes (weave : Nat) : List Byte := leBytes 4 0x20 ++ leBytes 4 weave ++ leBytes 4 1 ++ leBytes 36 0
def sHist : State := run 0x23 0x40010000 (histBytes 3)
def sHistAbsent : State := half sHist
def ivalBytes (weave : Nat) : List Byte := leBytes 4 0 ++ leBytes 4 0x20002000 ++ leBytes 4 1 ++ leBytes 2 1 ++ leBytes 2 weave ++ leBytes 32 0
def sIval : State := run 0x24 0x50010000 (ivalBytes 3)
def sIvalAbsent : State := half sIval
def sBind : State := run 0x25 0x10010000 (bindBytes 0 0x20 [0])
def sBindAbsent : State := half (run 0x25 0x10010000 (bindBytes 0 0 [96]))
def sWindow : State := run 0x26 0x10010000 (leBytes 8 4096)
def sCompare : State := run 0x27 0x60010000 (leBytes 4 0x30010000 ++ leBytes 4 3 ++ leBytes 40 0)
def sCompareAbsent : State := half sCompare
def sCommit : State := run 0x30 0 (leBytes 8 0)
def sCommitUnlocked : State := sCommit.setReg HUB_RF_STATE 1
def sRevert : State := run 0x30 0 (leBytes 8 0x10000)
def sRevertUnlocked : State := sRevert.setReg HUB_RF_STATE 1
def sQuery : State := run 0x31 0 (leBytes 8 0 ++ leBytes 8 4096)
def sQueryShort : State := run 0x31 0 (leBytes 16 0)

/-! ### Sessions -/

def epoch1 (s : State) : State := s.setReg HUB_EPOCH 1
def sArmEpoch0 : State := run 0x40 0 (leBytes 4 0)
def sArm : State := (epoch1 (run 0x40 0 (leBytes 4 0))).modTime fun t => { t with newEpoch := true }
def sArmBusy : State := armed (run 0x40 0 (leBytes 4 0))
def sArmStandby : State := (epoch1 (run 0x40 0 (leBytes 4 0))).setPwr 3
def sArmSync : State := epoch1 (run 0x40 0 (leBytes 4 1))
def sDisarm : State := armed (run 0x41 0 [])
def sDisarmWaiting : State := (run 0x41 0 []).modTime fun t => { t with syncWait := some 4 }

def sForce : State :=
  placed (armed (run 0x42 0x20010000 (leBytes 4 9))) fun p => { p with seqs := [{ obj := 0, sq := 31, path := 0 }] }

def sForceDisarmed : State := run 0x42 0x20010000 (leBytes 4 9)

def sAbortStream : State :=
  (streamed (run 0x43 0x10010000 (leBytes 4 0))).modStream 0 fun d => { d with openTime := 5 }

def sAbortNoStream : State := run 0x43 0x10010000 (leBytes 4 0)

def stepInit : StepDyn :=
  { index := 0, stepId := 5, anchor := 0, endT := 1000, settle := 0, decision := 2000, margin := 0, maxEarly := 0, items := [], dcs := []
    devCount := 0, recorded := 0, first := none, unjudged := 0, truncated := false, devCut := false, blind := [], byStation := false }

def sAbortJob : State :=
  (placed (run 0x43 0x60010000 (leBytes 4 0)) fun p => { p with cmps := [{ obj := 0, cu := 7, de := 0 }] }).modCmp 7 fun c =>
    { c with step := some stepInit }

def sAbortNoJob : State := run 0x43 0x60010000 (leBytes 4 0)
def sAbortIdle : State := run 0x43 0 (leBytes 4 31)
def sAbortCommit : State := (run 0x43 0 (leBytes 4 31)).modBox 31 fun b => { b with owner := true, taken := some iCommitImage, started := true }
def sAbortPast : State := (run 0x43 0 (leBytes 4 31)).modBox 31 fun b => { b with owner := true, taken := some iInfo, started := true }

/-! ### References and notes -/

/-- A header for one step, and that step without edges, as two zlib members. -/
def memberA : List Byte := [120, 218, 139, 114, 14, 50, 100, 100, 96, 100, 192, 5, 88, 25, 152, 192, 52, 0, 44, 40, 1, 42]

def memberB : List Byte := [120, 218, 123, 193, 204, 192, 192, 16, 192, 32, 192, 0, 1, 5, 0, 19, 45, 1, 188]
def loadBytes (count format flags : Nat) : List Byte := leBytes 8 0 ++ leBytes 4 count ++ leBytes 1 format ++ leBytes 3 flags
def runLoad (count format flags : Nat) : State := run 0x50 0x30010000 (loadBytes count format flags)
def deliver (s : State) (bytes : List Byte) : State := s.modPcie fun p => { p with delivered := [(.command 0, bytes)] }
def noDes (s : State) : State := s.modWeaver fun w => { w with retired := (List.range 8).map uDe }
def sLoadReady : State := (runLoad 0 2 1).modRef 0 fun r => { r with phase := .ready }
def sLoadNotFirst : State := runLoad 0 2 2
def sLoadFormat : State := (runLoad 0 3 0).modRef 0 fun r => { r with phase := .loading, format := 2 }
def sLoadNoEngine : State := noDes (runLoad 0 2 1)
def sLoadWaits : State := runLoad 41 2 3
def sLoadNothing : State := runLoad 0 2 1

/-- A header for no step has come. -/
def sLoadLast : State :=
  (runLoad 0 2 2).modRef 0 fun r => { r with phase := .loading, format := 2, members := [[0]] }

/-- Playback of it would ask for more than 6.4 GB/s. -/
def sLoadDemand : State := sLoadLast.modRef 0 fun r => { r with demand := 6400000001 }

def sLoadNoRoom : State :=
  (deliver (runLoad 41 2 3) (memberA ++ memberB)).modRef 1 fun r => { r with phase := .ready, bytes := 2 ^ 33 }

def sLoadFault : State := (runLoad 0 2 1).modRef 0 fun r => { r with fault := some 9 }
def sLoadCorrupt : State := deliver (runLoad 3 2 1) [120, 218, 7]

def diagBytes (count format limit : Nat) : List Byte :=
  leBytes 8 0 ++ leBytes 4 count ++ leBytes 4 format ++ leBytes 8 0 ++ leBytes 8 limit

def sDiag : State := deliver (run 0x71 0 (diagBytes 22 2 1000)) memberA
def sDiagWaits : State := run 0x71 0 (diagBytes 22 2 1000)
def sDiagEmpty : State := run 0x71 0 (diagBytes 0 2 0)

/-- Member 0 of a reference. -/
def sDiagMember : State :=
  (run 0x71 0x30010000 (diagBytes 0 2 1000)).modRef 0 fun r => { r with phase := .ready, format := 2, members := [[1]] }

def sDiagNoEngine : State := noDes (run 0x71 0 (diagBytes 22 2 1000))
def sAnnotate : State := streamed (armed (run 0x53 0 (leBytes 4 0x101 ++ leBytes 4 0x10010000 ++ leBytes 4 0x41)))
def sAnnotateDisarmed : State := run 0x53 0 (leBytes 4 0x101 ++ leBytes 4 0x10010000 ++ leBytes 4 0x41)
def sTimeNote : State := run 0x54 0 (leBytes 8 1000 ++ leBytes 8 0)

/-- One record fills the records area; the requests are these. -/
def fullLedger (s : State) (reqs : List LedgerReq) (b : List Byte) : State :=
  s.modLedger fun l => { l with reqs := reqs, bank0 := [{ seq := 0, bytes := b, tail := false }] }

def sTimeNoteFull : State := fullLedger (run 0x54 0 (leBytes 8 1000 ++ leBytes 8 0)) [] (List.replicate 0x370000 0)

/-! ### Histograms -/

/-- Histogram 0 stands in region 1 of unit 3. -/
def histAt (s : State) : State := placed s fun p => { p with hists := [{ obj := 0, hu := 3, region := 1, base := 0, words := 64 }] }

def snapRun (code : Half) (bits len : Nat) : State := run code 0x40010000 (leBytes 4 bits ++ leBytes 4 len ++ leBytes 8 0)

def closingAt (t : Time) : Closing :=
  { obj := 0, cfg := 0, bins := 1, rows := 1, lo := 0, epoch := 1, tOpen := 0, tClose := t, bank := false, counters := List.replicate 6 0
    sat := false, cleared := false, parity := false, fault := false, missed := 0, place := 0, gone := false }

def sSwapNone : State := snapRun 0x51 1 0
def sSwapRetired : State := (histAt (snapRun 0x51 1 0)).modWeaver fun w => { w with retired := [uHu 3] }
def sSwapDisarmed : State := histAt (snapRun 0x51 1 0)
def sSwap : State := histAt (armed (snapRun 0x51 1 0))
def sSwapTwice : State := sSwap.modRegion 3 1 fun r => { r with closing := some (closingAt 25600) }
def sSwapFetch : State := (histAt (armed (snapRun 0x51 3 2))).modImage 0 fun i => { i with images := [(0, [1, 2])], places := [0], nextSeq := 1 }
def sSwapBusy : State := sSwap.modRegion 3 1 fun r => { r with closing := some (closingAt 25599) }
def sClear : State := histAt (armed (run 0x52 0x40010000 []))
def sClearSwapped : State := sClear.modRegion 3 1 fun r => { r with closing := some (closingAt 25600) }
def sFetchNone : State := snapRun 0x51 2 0
def sFetchShort : State := (snapRun 0x51 2 1).modImage 0 fun i => { i with images := [(0, [1, 2])], places := [0], nextSeq := 1 }
def sFetch : State := (snapRun 0x51 2 2).modImage 0 fun i => { i with images := [(0, [1, 2]), (1, [3])], places := [0, 64], nextSeq := 2 }

/-! ### Ledger -/

def sLedgerRead : State :=
  (run 0x60 0 (leBytes 8 4096 ++ leBytes 4 100 ++ leBytes 4 0 ++ leBytes 8 0)).modLedger fun l =>
    { l with bank0 := [{ seq := 0, bytes := List.replicate 64 1, tail := false }, { seq := 1, bytes := List.replicate 64 2, tail := false }] }

def sChallenge : State := run 0x61 0 []
def keyed (s : State) : State := s.modLedger fun l => { l with key := some (List.replicate 32 7), keyId := 3 }
def sClearNoKey : State := run 0x62 0 (leBytes 72 0)
def sClearVolatile : State := (keyed sClearNoKey).setReg LG_STATUS 8
def sClearWrong : State := keyed sClearNoKey

/-- The response of key 07 … 07 to the challenge 09 … 09, in generation 0. -/
def sClearRight : State :=
  (keyed (run 0x62 0 (leBytes 4 3 ++ List.replicate 32 9 ++
    hmacSha256 (List.replicate 32 7) ((keyed State.reset).clearMessage (List.replicate 32 9)) ++ leBytes 4 0))).modLedger fun l =>
      { l with challenge := some (List.replicate 32 9, 0) }

def sSetSnapshot : State := run 0x63 0 (leBytes 2 5 ++ leBytes 2 2 ++ leBytes 4 0x100000 ++ leBytes 4 0x103000)
def sProvision : State := run 0x64 0 (leBytes 4 3 ++ List.replicate 32 7)
def sProvisionAgain : State := keyed sProvision

/-! ### Service, power states, firmware -/

def sSelftest : State := run 0x70 0 (leBytes 4 2 ++ leBytes 4 (uLane 0).toNat ++ leBytes 4 (uLane 191).toNat)
def sSelftestAbsent : State := half sSelftest
def sSelftestArmed : State := (armed sSelftest).setRegF (LN_CFG 191) 0 3 1
def sUnlock : State := run 0x72 0 (leBytes 2 1 ++ leBytes 2 60)
def sUnlockArmed : State := armed sUnlock
def sLock : State := run 0x72 0 (leBytes 4 0)
def sLockOpen : State := sLock.setReg HUB_RF_STATE 1
def sLockArmed : State := armed sLock
def sUnlocked : State := (State.reset.setReg HUB_RF_STATE 1).setReg HUB_RF_LAPSE 5
def setState (n : Nat) : State := run 0x81 0 (leBytes 4 n)
def sToSleepArmed : State := armed (setState 3)
def sToReady : State := setState 1
def sToReadyMoving : State := (setState 1).setReg PWR_STATE 0x91
def sFailed : State := State.reset.setPwr 7
def sInReset : State := State.reset.setPwr 0
def sD3 : State := State.reset.modPcie fun p => { p with d3hot := true }
def sD3Asleep : State := (sD3.setPwr 4).modStation fun x => { x with wakeN := true }
def sStandbyToSleep : State := (State.reset.setReg PWR_STATE 0x93).setReg HUB_RF_STATE 1
def sWaking : State := State.reset.setReg PWR_STATE 0x33
def sArrived : State := State.reset.setReg PWR_STATE 0x73

/-- A key made so that SIZE 4,096, VERSION 7.2, ROLLBACK 5 and the digest of zeros have the signature r = s = e, their own
digest: both scalars of the check are then 1. -/
def testX : Nat := 0x86d47c8bcebc59d6526f7142c3cad146b8c3e7cca84130ecc2c009008956e48ca1bf85da4805faf04c6eacd2b66006aa

def testY : Nat := 0x5bedcbe682f41c8c666e8709f52bfe2f2a5def2bbd6498309a3583f8edf4d5a885f018c06aa1f224c24721340ea87db
def testE : Nat := 0xd26edbd798067671f10e5c4ae1a602ab0cb47a7668e14b40490d010fbec71dccd9125bfbd594777be1e2bd09a0d0ffd2
def fwZeros : Nat := 0xc0e59a3e3ffbd3b5c75428fb36432facabc745944296ff515f737c4fef4efc64586809f7a16f56354a1eaecf2aa8d774
def fwNone : Nat := 0x38b060a751ac96384cd9327eb1b1e36a21fdb71114be07434c0cc7bf63f6e1da274edebfe76f65fbd51ad2f14898b95b

/-- MAGIC, SIZE, VERSION 7.2, ROLLBACK 5, DIGEST and the signature. -/
def manifestOf (size digest sig : Nat) : List Byte :=
  leBytes 4 0x55534C54 ++ leBytes 4 size ++ leBytes 4 0x0207 ++ leBytes 4 5 ++ (leBytes 48 digest).reverse ++
    leBytes 48 sig ++ leBytes 48 sig

/-- A signed manifest for 4,096 bytes of zeros. -/
def manifest : List Byte := manifestOf 4096 fwZeros testE

/-- A manifest for an image of no bytes, with the SHA-384 of no bytes. -/
def manifestEmpty : List Byte := manifestOf 0 fwNone 0

def testKey (s : State) : State := s.modFw fun f => { f with keyX := testX, keyY := testY }
def sFwBegin : State := testKey (run 0x90 0 manifest)
def sFwRollback : State := sFwBegin.modLedger fun l => { l with rollback := 6 }
def staging (s : State) : State := s.modFw fun f => { f with staging := some (manifest, []) }
def sFwBusy : State := staging sFwBegin
def sFwUnsigned : State := testKey (run 0x90 0 (manifestOf 4096 fwZeros 0))
def sFwCancel : State := staging (run 0x90 0 (leBytes 8 0x55534C54 ++ leBytes 152 0))
def chunk (off len : Nat) : State := run 0x91 0 (leBytes 8 0 ++ leBytes 4 off ++ leBytes 4 len)
def sFwChunkNone : State := chunk 0 4096
def sFwCommitNone : State := run 0x92 0 []
def sFwChunkWaits : State := staging (chunk 0 4096)
def sFwChunk : State := deliver (staging (chunk 0 4096)) [1, 2, 3]
def sFwChunkEmpty : State := staging (chunk 4096 0)
def sFwChunkPast : State := staging (chunk 4096 4096)
def sFwCommit : State := (run 0x92 0 []).modFw fun f => { f with staging := some (manifestEmpty, []) }
def sFwMismatch : State := (run 0x92 0 []).modFw fun f => { f with staging := some (manifestOf 0 fwZeros 0, []) }
def sProgramming : State := State.reset.modFw fun f => { f with programming := some (manifest, []) }

/-! ### Streams at the host -/

def sStream : State := streamed State.reset
def sStreamBus : State := onBus sStream
def sPosted : State := sStreamBus.modStream 0 fun d => { d with descTail := 5, descFetched := 0 }
def descOf (n len : Nat) : Desc := { num := n, addr := 0x100000, len := len, bufId := 9, interrupt := false, bad := false }

def sBuffer : State := sStreamBus.modStream 0 fun d =>
  { d with descs := [descOf 0 4096, descOf 1 4096], descFetched := 0, fillLen := 4096, fillFirst := some 0, fillStarts := 1 }

def sFlushedRun : State := sStream.modStream 0 fun d =>
  { d with missing := [{ firstSeq := 3, segs := 2, cause := 7, count := 10, from_ := 100, upTo := 900, ringStart := 0 }], nextDeliver := 3 }

def sFlushDue : State := (streamed (armed State.reset)).modStream 0 fun d => { d with open_ := [0x1000000000000000], firstRecord := some 0 }

/-- 100 µs after its first record. -/
def sFlushOver : State := sFlushDue.modTime fun t => { t with tsHd := 3000000000, tsCd0 := 3000000000, tsCd1 := 3000000000 }

def sDigests2 : State := sFlushDue

/-! ### Registers and BAR 2 -/

def sUnlockedOpen : State := sUnlocked.setReg HUB_RF_LAPSE 1000
def sPba : State := (onBus State.reset).modPcie fun p => { p with pba := [0, 1] }
def mapRun (entry : Nat) : State := run 0x80 0 (leBytes 4 0 ++ leBytes 4 1 ++ leBytes 4 entry)
def sMap : State := mapRun 0x80000000
def sMapPast : State := mapRun 0x80000FFF
def sStagedSwap : State := sMap.modPcie fun p => { p with stagedWindows := [(0, some 0, [(5, 0x80000001)])], entries := [(5, 0x80000000), (700, 0x80000002)] }
def mapped (s : State) : State := s.modPcie fun p => { p with entries := [(0, 0x80000005)] }
def sMapped : State := mapped (State.reset.modMem fun m => { m with dram := [(0xA00000, 7), (0xA00FFF, 8)], written := [5] })
def sMappedOpen : State := mapped sUnlockedOpen
def sMappedFrozen : State := sMappedOpen.setRegF (MC_STATUS 0) 0 3 3
def sMappedLogged : State := sMappedOpen.modPcie fun p => { p with bar2Logged := [0] }

/-! ### The endpoint -/

def reading (s : State) (o : ReadOwner) : State := s.modPcie fun p => { p with outstanding := [{ tag := 3, owner := o, addr := 0x10000, len := 16, off := 0, relaxed := true, since := 0 }] }
def sReading : State := reading (onBus (runLoad 16 2 1)) (.command 0)
def sFetching : State := reading sPosted (.descriptors 0 0 1)
def sAbandoned : State := (onBus State.reset).modPcie fun p => { p with abandoned := [3] }
def sHoldOver : State := (armed State.reset).modPcie fun p => { p with linkUp := false }
def sPerst : State := (State.reset.setPwr 0).modPower fun p => { p with perst := true, outputsOff := true }
def sUnpowered : State := sPerst.modPower fun p => { p with powered := false }
def sTripped : State := sPerst.modPower fun p => { p with hotDie := some .cd1 }
def sPwrFail : State := State.reset.modPower fun p => { p with pwrFail := true, stopped := true }

def startsUp : StartOutcome :=
  { powerOn := false, boardA := [], boardB := [], slots := [some [], none], metaBadA := [], metaBadB := [], pllLock := true
    refMhz := 0, refPpb := 0, badModules := [], channelFails := List.replicate 16 0, densities := List.replicate 16 2
    memTemp := 0, lanes := [], tempHd := 0, tempCd0 := 0, tempCd1 := 0
    badUnits := [], coreFail := false, late := false, us := 100000, linkRate := 6, linkWidth := 16, linkFlit := true }

def startNoSlot : StartOutcome := { startsUp with slots := [none, none] }
def startNoLock : StartOutcome := { startsUp with pllLock := false }
def startOneChannel : StartOutcome := { startsUp with channelFails := 0 :: List.replicate 15 3 }

/-! ### Clocks -/

def sTbLocked : State := State.reset.setReg CLK_STATUS 0x1C
def sHoldover : State := State.reset.setReg CLK_STATUS 0x1D
def lastSlot (s : State) : State := s.modTime fun t => { t with tsHd := 0xFFFFFFFFFFFFFF00, tsCd0 := 0xFFFFFFFFFFFFFF00, tsCd1 := 0xFFFFFFFFFFFFFF00 }
def sLastSlot : State := lastSlot State.reset
def sLastSlotAsleep : State := lastSlot (State.reset.setPwr 3)

/-! ### Fine lanes -/

/-- Lanes 0 and 191 record into a stream of session 1. -/
def recording (s : State) : State :=
  ((armed (placed (committed s 1 0 (bindBytes 0 0 [0, 191])) fun p =>
    { p with streams := [{ obj := 0, demand := 1, stripe := [0], perChannel := 2 ^ 20, engine := none, slot := none }] })).setReg (LN_CFG 0) 0x100001).setReg
      (LN_CFG 191) 0x100002

def sRecording : State := ((recording State.reset).setReg (LN_FOLLOW 0) 100).setReg (LN_FOLLOW_U 191) 1
def sBurst : State := sRecording.modLane 0 fun d => { d with l := { d.l with burst := some { first := 1, count := 2, last := 5, coarse := false, lastCoarse := false } } }
def sBurstNow : State := sBurst.setReg (LN_FOLLOW 0) 0
def sQuiet : State := sRecording.modTime fun t => { t with tsHd := 4294967296, tsCd0 := 4294967296, tsCd1 := 4294967296 }
def sBlockFull : State := sRecording.modLane 0 fun d => { d with block := some { start := 0, samples := List.replicate 2016 1, waiting := [], skipped := 0 } }
def testing (s : State) (u : Word) (cls : Byte) : State := s.modWeaver fun w => { w with tests := [{ unit := u, classes := [cls], byError := true }] }
def sTdcTest : State := testing sRecording (uLane 0) 3
def sSpareUsed : State := sRecording.setReg (STK_SPARE 0) 0x7D
def sSweep : State := (testing (sRecording.setReg (STK_SPARE 0) 1) (uDac 0 0) 4).modStake 0 fun k => { k with sweeping := true }
def sCalibrating : State := State.reset.modWeaver fun w => { w with calibrating := [0, 191] }
def calPass : List LaneCal := [{ lane := 0, failStep := none, cal := 77 }, { lane := 191, failStep := some 5, cal := 0 }]

/-! ### Pods -/

/-- Ports 0 and 15 with lock and one pod each; slot 0 of each is owned by position 0. -/
def podded : State :=
  [0, 15].foldl (fun s p => (((s.setReg (PP_STATUS p) 3).setReg (PP_PRESENT p) 1).setReg (PP_SLOT p 0) 32).setPod p 0
    { PodDyn.init with serial := 5, fsn := 9, mgmtSeen := true }) State.reset

def iFrameWords : List DWord := List.replicate 15 0
def fGood : PodFrame := { headersValid := true, words := iFrameWords, checkType := 0xC3, check := 0xD38B8E32000900C3 }
def fBad : PodFrame := { fGood with checkType := 0 }
def bGood : DWord := 0xF70000000012348E

/-- R_p is 0 (pages 0 and 1 known) and R_dev is 20. -/
def sPodDelay : State := (podded.setReg (PP_RDEV 0) 20).modPod 0 0 fun d => { d with info := [(0, 0), (1, 0)] }

def sPodDelaySame : State := sPodDelay.setReg (PP_DELAY 0 0) 10
def pcWrite : PodCommand := { pos := 0, bcast := false, op := 0, seq := 3, addr := 0xF8, data := 1 }
def pcSwitch : PodCommand := { pos := 0, bcast := false, op := 1, seq := 4, addr := 0x02, data := 77 }
def sPodSilent : State := podded.modPod 0 0 fun d => { d with pending := [{ cmd := pcWrite, sent := 0, retries := 2 }] }
def sPodSwitch : State := (podded.setReg (PP_SWITCH 0) 0x10000).modPort 0 fun d => { d with nextSlots := List.replicate 62 0 }
def sPodSwitchOpen : State := (podded.setReg (PP_SWITCH 0) 0x10005).modPod 0 0 fun d => { d with pending := [{ cmd := pcWrite, sent := 0, retries := 0 }] }
def sPodFull : State := (podded.setReg (PP_STATUS 0) 65).setReg (PP_PRESENT 0) 0xFFFFFFFF
def sPodAbsent : State := podded.modPod 0 0 fun d => { d with absent := 2 }
def digWords (l : List Byte) : Tbl Half := (chunks 2 l).zipIdx.map fun x => (x.2, BitVec.ofNat 16 (leNat x.1))

def zeroDigest : List Byte :=
  (leBytes 32 0x5f70bf18a086007016e948b04aed3b82103a36bea41755b6cddfaf10ace3c6ef).reverse

def sPodDigest : State := podded.modPod 0 0 fun d => { d with dig := digWords zeroDigest }
def sPodDiffers : State := podded.modPod 0 0 fun d => { d with dig := (List.range 16).map fun k => (k, 1) }
def sPodDiffersTwice : State := sPodDiffers.modPod 0 0 fun d => { d with digBad := 1 }

/-! ### Sequencers and terms -/

/-- Sequencers 0 and 31 serve sequence 0; branch 1 of level 0 is true without inputs and leads to level 1. -/
def sequenced : State :=
  [0, 31].foldl (fun s q => ((s.setReg (SQ_CFG q) 1).setReg (SQ_BR_CTL q 0 1) (1 + 4)).setReg (SQ_BR_COND q 0 1) 0x00010001)
    (placed (armed State.reset) fun p => { p with seqs := [{ obj := 0, sq := 0, path := 0 }, { obj := 0, sq := 31, path := 0 }] })

def sSeq : State := sequenced

/-- The inverted input 0 is false: no branch holds. -/
def sSeqStays : State := (sequenced.setReg (SQ_BR_COND 0 0 1) 1).setReg (SQ_BR_COND 31 0 1) 1

def sSeqDead : State := sequenced.modSeq 0 fun d => { d with deadEnd := some 5 }
def sSeqDeadOver : State := (sequenced.setRegBit (SQ_STATUS 0) 5 true).modSeq 0 fun d => { d with deadEnd := some 5, next := 5 }

def timed (s : State) (start : Nat) : State :=
  (((s.setReg64 (SQ_TMR_LIMIT_LO 0 0) 10).modSeq 0 fun d => { d with timers := [(0, { start := start, due := none })] })).setTimer 0 0 0 true

def sTimer : State := timed sequenced 0
def sTimerLater : State := timed sequenced 90000
def sMark : State := (streamed (armed State.reset)).modStream 0 fun d => { d with marks := [Mark.plain 100 0 3, Mark.plain 200 1 4] }
def sToutReq : State := (armed State.reset).setTout 0 { requests := [(0, 0)], served := none, activeUntil := none }
def sToutOn : State := sToutReq.setReg (HUB_TOUT_CTL 0) 0x20010
def sToutActive : State := sToutOn.setTout 0 { requests := [(0, 0)], served := none, activeUntil := some 1000 }
def sToutOver : State := sToutOn.setTout 0 { requests := [], served := none, activeUntil := some 100 }

def sDuration : State :=
  ((armed State.reset).setReg (STK 0 0x200) (2 + 2 ^ 17 + 2 ^ 19)).setMeas (.du 0 0) { start := some 5, flags := EvFlags.none, fired := 0, start2 := none }

def sArmed : State := armed State.reset

/-! ### Compare, histogram and interval units -/

/-- Compare unit 0 serves job 0 with reference 0 (one step of two edges and a check). -/
def wEdge (t : Nat) (v : Nat) : DWord := BitVec.ofNat 64 (2 * 2 ^ 60 + v * 2 ^ 45 + t)

def iRefMembers : List (List DWord) := [[BitVec.ofNat 64 (2 ^ 48), 0, 0, 0, 0x77], [BitVec.ofNat 64 (0x77 * 2 ^ 44 + 5000), wEdge 100 1, wEdge 300 0]]

def compared : State :=
  ((((placed (committed sArmed 6 0 (leBytes 4 0x30010000 ++ leBytes 44 0)) fun p => { p with cmps := [{ obj := 0, cu := 0, de := 0 }] }).setReg (CU 0 0) 1).setReg
    (CU 0 0x0C) 1).setRef 0 { RefDyn.init with phase := .ready, members := iRefMembers }).modWeaver fun w => { w with created := [(objKey 6 0, false), (objKey 3 0, false)] }

def sCmpLost : State := compared.modRef 0 fun d => { d with phase := .lost }

def stepping (s : State) (items : List CmpItem) : State :=
  s.modCmp 0 fun c => { c with step := some { buildStep iRefMembers[0]! iRefMembers[1]! 0 1000 0 with items := items } }

def ciEdge : CmpItem := { cin := 0, level := true, time := 1100, early := 0, late := 10, check := false }
def ciCheck : CmpItem := { ciEdge with check := true, time := 1500 }
def sCmpStep : State := stepping compared [ciEdge]
def sCmpCheck : State := stepping compared [ciCheck]
def sCmpStepLoss : State := sCmpStep.modCmp 0 fun c => { c with losses := [(0, 500, none)] }

def regioned (s : State) (cfg : Nat) : State :=
  (((placed s fun p => { p with hists := [{ obj := 0, hu := 0, region := 0, base := 0, words := 256 }] }).setReg (HU_RG 0 0 0)
    (BitVec.ofNat 32 cfg)).setReg (HU_RG 0 0 4) 100).setReg64 (HU_RG 0 0 8) 50

def valued (s : State) (x : Int) : State := s.modHist 0 fun h => { h with values := [{ region := 0, x := x, te := 10, flagged := false }] }
def sHistUnder : State := valued (regioned sArmed 5) 9
def sHistOver : State := valued (regioned sArmed 5) 10000
def sHistBin : State := valued (regioned sArmed 5) 60
def sHistMap : State := (regioned sArmed 3).modRegion 0 0 fun d => { d with sweeps := [{ tr := 10, column := 4, cfg := 3, lo := 50, cols := 100, mask := 3 }] }
def sHistMapLast : State := (regioned sArmed 3).modRegion 0 0 fun d => { d with sweeps := [{ tr := 10, column := 99, cfg := 3, lo := 50, cols := 100, mask := 3 }] }
def sHistDeferred : State := (regioned sArmed 5).modRegion 0 0 fun d => { d with deferred := [closingAt 77] }
def sHistClosed : State := (regioned sArmed 5).closeAccum 0 0 20 false
def sHistClosedBusy : State := valued sHistClosed 60

def intervalled (cfg : Nat) (d : IvalDyn) : State :=
  (((committed sArmed 5 0 (leBytes 64 0)).setReg (IU 0 0) (BitVec.ofNat 32 cfg)).setReg (IU 0 4) 0xA000A000).modIval 0 fun _ => d

def evB (t : Nat) : IvTimed := { at_ := t, flags := EvFlags.none, ev := .b true }
def sIvOrphan : State := intervalled 5 { IvalDyn.init with events := [evB 100, evB 200] }
def sIvStop : State := intervalled 5 { IvalDyn.init with events := [evB 100], start := some 40 }
def sIvLater : State := intervalled 5 { IvalDyn.init with events := [evB 90000] }
def sIvGate : State := intervalled 7 IvalDyn.init
def sIvFree : State := (intervalled 0x11 { IvalDyn.init with window := some 0, count := 3, first := some 1, last := 9 }).setReg (IU 0 8) 1

/-! ### Queues, station port, engines -/

def qi (w : Nat) (last : Bool) : QItem := { word := BitVec.ofNat 64 w, last := last }

def queued (s : State) (n : Nat) (items : List QItem) (visible : Nat) : State :=
  s.modQueue n fun q => { q with items := items, visible := visible }

/-- Queue 4 holds 2,048 packets of 2 items, with a mark: full. -/
def sQueueFull : State := queued State.reset 4 ((List.replicate 2048 [qi 1 false, qi 2 true]).flatten) 4096

def sQueueOpen : State := queued State.reset 0 [qi 1 false, qi 2 true, qi 3 false] 2
def sQueueHeld : State := ((queued State.reset 2 [qi 1 false, qi 2 true, qi 3 true] 3)).modQueue 2 fun q => { q with mark := some 0, read := 1, skip := some 4 }
def sQueueStalled : State := sQueueHeld.modQueue 2 fun q => { q with stalled := some (7, false) }
def sQueueStaged : State := sQueueHeld.modQueue 2 fun q => { q with filling := 512 }
def sRingOpen : State := (streamed sArmed).modStream 0 fun d => { d with open_ := [0] }
def sRingSkip : State := (streamed sArmed).modStream 0 fun d => { d with skipState := true, recLeft := 1 }

def ringSeg (k : Nat) : Segment :=
  { seq := k, words := List.replicate 512 0, channel := 0, pos := 512 * k, hasLoss := false, flushPoint := false, time := 0, last := 0
    markTime := none, closed := 0, memberEnd := false }

def sRingHeld : State := (streamed sArmed).modStream 0 fun d => { d with ring := [ringSeg 0, ringSeg 1], qRead := 510, qMark := some 3, segSeq := 2 }
def sVerdict : State := queued State.reset 1 [qi 1 false, qi 2 true] 2
def sVerdictPart : State := sVerdict.modStation fun t => { t with partRead := 1, lostVerdicts := 300 }
def sAsleepStation : State := State.reset.setPwr 4

/-- A compressed stream in slot 0 of engine 0, with one segment held and one posted buffer of 1 MiB. -/
def compressedBase : State :=
  (onBus (placed (committed sArmed 1 0 (bindBytes 0 0x21 [0])) fun p =>
    { p with streams := [{ obj := 0, demand := 1, stripe := [0], perChannel := 2 ^ 20, engine := some 0, slot := some 0 }] })).setReg (CE 0 0x40) 0x1000

def sEngine : State := compressedBase.modStream 0 fun d => { d with
  ring := [ringSeg 0], segSeq := 1, descTail := 1, descTaken := 1
  descs := [{ num := 0, addr := 0, len := 1048576, bufId := 0, interrupt := false, bad := false }] }

def sRotating : State := (placed sEngine fun p => { p with streams := p.streams.map fun x => { x with slot := none } }).setReg (CE 0 0x40) 0
def sJob : State := placed sArmed fun p => { p with cmps := [{ obj := 0, cu := 0, de := 0 }] }
def sCeTest : State := testing State.reset (uCe 0) 7
def sDeTest : State := testing State.reset (uDe 0) 7
def sDeRetired : State := State.reset.modWeaver fun w => { w with retired := [uDe 0] }

/-! ### Memory channels -/

def chanAt (ch v : Nat) : State := State.reset.setMcState ch v
def sChan1 : State := chanAt 0 1
def sChan0 : State := chanAt 0 0
def sChan4 : State := chanAt 0 4
def sChan5 : State := chanAt 0 5
def sChan6 : State := chanAt 0 6
def sChan2 : State := chanAt 0 2
def sChanHour : State := sChan1.modChan 0 fun d => { d with ceHour := 3 }
def sChanWritten : State := sChan1.memPut 0 [5]
def sChanLow : State := sChan5.setRegF (MC_STATUS 0) 3 2 2
def sChanSweep : State := sChan1.modChan 0 fun d => { d with sweeping := true }

/-! ### Health and ledger -/

def sModuleGone : State := State.reset.modWeaver fun w => { w with retired := [uModule 0 0] }
def sHostTest : State := State.reset.modWeaver fun w => { w with tests := [{ unit := 7, classes := [], byError := false }] }
def sHostTestRetired : State := sHostTest.modWeaver fun w => { w with retired := [7] }
def sReplace0 : State := State.reset.modWeaver fun w => { w with replaceDue := true }
def sReplace : State := sReplace0.setReg HUB_EPOCH 1
def sNoRequest : State := State.reset.modLedger fun l => { l with reqs := [] }
def sLedgerFull : State := fullLedger State.reset [LedgerReq.startUp] (List.replicate 0x370000 0)
def sLedgerHeld : State := queued State.reset 3 ((List.replicate 7 (qi 0 false)) ++ [qi 0 true]) 8
def sBankOut : State := State.reset.setReg LG_STATUS 2

/-! ### More states -/

def clock (s : State) (n : Nat) : State :=
  s.modTime fun t => { t with tsCd0 := BitVec.ofNat 64 n, tsCd1 := BitVec.ofNat 64 n, tsHd := BitVec.ofNat 64 n }

def sRom : State := State.reset.modPcie fun p => { p with memSpace := true, romBar := 1 }

/-- The pod has sent a frame less than the port expects. -/
def sPodFsn : State := podded.modPod 0 0 fun d => { d with fsn := 8 }

def pcZero : PodCommand := { pcWrite with seq := 0 }
def pcBroad : PodCommand := { pcSwitch with bcast := true, pos := 7 }
def sPodAck : State := podded.modPod 0 0 fun d => { d with pending := [{ cmd := pcZero, sent := 0, retries := 0 }] }
def sPodOut : State := podded.modPort 0 fun d => { d with outbox := [pcWrite, pcSwitch] }

def sPodOutAgain : State :=
  (podded.modPort 0 fun d => { d with outbox := [pcBroad] }).modPod 0 0 fun d => { d with pending := [{ cmd := pcBroad, sent := 0, retries := 1 }] }

/-- 64 superframes after its second retry. -/
def sPodSilentLate : State := clock sPodSilent 40000000

def sDurationLate : State := sDuration.setReg (STK 0 0x20C) 1000000
def sTimeout : State := (sDuration.setReg (STK 0 0x200) (4 + 2 ^ 20)).setReg (STK 0 0x20C) 1000
def sMarkWaits : State := sMark.modStream 0 fun d => { d with marks := [Mark.plain 25600 0 3] }
def sPodSwitchLate : State := sPodSwitchOpen.setReg (PP_SWITCH 0) 0x10003
def sPodHold : State := sPodDigest.modPod 0 0 fun d => { d with digHold := true }
def sPodAdding : State := podded.modPod 0 0 fun d => { d with adding := some 0 }
def sPodAdded : State := sPodDelay.modPod 0 0 fun d => { d with adding := some 1 }
def sSegBad : State := podded.modPort 0 fun d => { d with bad := [(0, 0, 4)] }
def sSegTest : State := testing (podded.setRegBit (PP_STATUS 0) 8 true) (uSegment 0 0) 5
def sAnchored : State := compared.modCmp 0 fun c => { c with anchors := [.sequencer 100, .station 100 0x77, .station 100 9] }
def sAnchorOff : State := sAnchored.setReg (CU 0 0) 0
def sAnchorTwice : State := sAnchored.modCmp 0 fun c => { c with stationAt := some 100 }
def sAnchorLost : State := sAnchored.modRef 0 fun d => { d with phase := .lost }

def anchoredStep (s : State) (t : Time) : State :=
  (stepping s []).modCmp 0 fun c => { c with step := c.step.map fun st => { st with decision := t } }

def sAnchorBusy : State := anchoredStep sAnchored 90000
def sStepLost : State := anchoredStep sCmpLost 90000

def sStepNext : State := (anchoredStep compared 2000).modCmp 0 fun c =>
  { c with queue := [{ index := 0, anchor := 3000, byStation := false, horizon := 0, endAt := none }] }

def sHistFlagged : State := (regioned sArmed 5).modHist 0 fun h => { h with values := [{ region := 0, x := 60, te := 10, flagged := true }] }
def evA (t : Nat) : IvTimed := { at_ := t, flags := EvFlags.none, ev := .a true }
def sIvStart : State := intervalled 5 { IvalDyn.init with events := [evA 100] }
def sIvCount : State := (intervalled 0x11 { IvalDyn.init with window := some 0, events := [evA 100] }).setReg (IU 0 8) 1000
def sIvTouched : State := sIvStop.modIval 0 fun d => { d with losses := [(true, 50, some 60)] }
def sIvSkipped : State := sIvStop.modIval 0 fun d => { d with lastTime := some 90 }

/-- A PERIOD job on the rising edges of GATE_IN[0]. -/
def sIvGateSource : State := (intervalled (9 + 32) IvalDyn.init).setReg (IU 0 4) 0x80008000

def sRingStalled : State := sRingHeld.modStream 0 fun d => { d with qStalled := some (7, false) }
def sRingStalledPop : State := sRingHeld.modStream 0 fun d => { d with qStalled := some (7, true) }
def sQueuePop : State := sQueueHeld.modQueue 2 fun q => { q with stalled := some (7, true) }
def sQueueSkip : State := sQueueOpen.modQueue 0 fun q => { q with skipState := true }
def sQueueRejecting : State := sQueueOpen.modQueue 0 fun q => { q with rejecting := true }
def sQueueStopped : State := sQueueHeld.modQueue 2 fun q => { q with filling := 512, draining := 4 }
def sStakeStopped : State := State.reset.modQueue (qNumber (.stake 0)) fun q => { q with filling := 512, draining := 4 }
def sRingFull : State := (streamed sArmed).modStream 0 fun d => { d with open_ := List.replicate 512 0 }

/-- The oldest packet is an anchor for job 0, or for a job that takes none. -/
def annotated (s : State) (job : Nat) : State :=
  (queued s 0 [qi 0x5354 false, qi 0x77 false, qi job true] 3).modQueue 0 fun q => { q with times := [(100, 3)] }

def sAnnotated : State := annotated (committed compared 6 0 (leBytes 4 0x30010000 ++ leBytes 4 (2 ^ 32 - 1) ++ leBytes 40 0)) 0
def sAnnotatedNone : State := annotated compared 5
def sRequest3 : State := State.reset.modLedger fun l => { l with reqs := [{ LedgerReq.startUp with severity := 3 }] }
def sOneBank : State := sLedgerHeld.setRegBit LG_STATUS 1 false
def sNoBank : State := sLedgerHeld.setReg LG_STATUS 8

def sScrubLost : State := State.reset.modLedger fun l =>
  { l with bank0 := [{ seq := 3, bytes := [1], tail := false }], bank1 := [{ seq := 3, bytes := [1], tail := false }] }

/-- Its session has ended, with a member open and nothing left of it. -/
def sMemberEnds : State := sEngine.modStream 0 fun d => { d with ring := [], fillClose := true, memberOpen := true }

def sModuleLast : State := State.reset.modWeaver fun w => { w with retired := [uModule 0 1, uModule 0 2, uModule 0 3] }
def sQueryBus : State := onBus sQuery
def sDiagBus : State := onBus sDiag
def sSwapFetchBus : State := onBus sSwapFetch
def sFetchBus : State := onBus sFetch

/-! ### States of this review's clauses -/

/-- A command that writes to the host has its response, and one write has not left. -/
def sAnsweredHeld : State :=
  (State.reset.modBox 0 fun b =>
    { b with owner := true, taken := some (cmd 0x51 0x40010000 []), started := true, ready := some (Response.ok [1, 2]) }).modPcie fun p =>
      { p with held := [.write 4096 [1] false] }

def sVectorSent : State := sVectorOn.modPcie fun p => { p with msixEnable := true, msixMask := false }
def sSwapMissed : State := sSwap.modRegion 3 1 fun r => { r with closing := some (closingAt 25599), missed := [25600] }
def sSwapFetchNone : State := histAt (armed (snapRun 0x51 3 2))
def sSwapFetchShort : State := (histAt (armed (snapRun 0x51 3 1))).modImage 0 fun i => { i with images := [(0, [1, 2])], places := [0], nextSeq := 1 }
def sSwapFetchWaits : State := sSwapFetch.setMcState 0 5
def sFetchWaits : State := sFetch.setMcState 0 2
def sFetchRetired : State := (histAt sFetch).modWeaver fun w => { w with retired := [uHu 3] }
def sResetting : State := State.reset.modPcie fun p => { p with flr := true }
def sMappedTraining : State := sMapped.setMcState 0 5
def sReadingLate : State := clock sReading 1000000000000
def sFetchingLate : State := clock sFetching 1000000000000

def sReadingTwo : State := sReading.modPcie fun p => { p with outstanding := p.outstanding ++
  [{ tag := 8, owner := .command 0, addr := 0x10010, len := 16, off := 16, relaxed := true, since := 0 }] }

def bootX : Nat := 0xd9810acfca7375d30ceacf394192f4b4606605e2350d5e90c4633b9de8539eaca8255b0f197cb432c7363c7afb57ccc7
def bootY : Nat := 0x1a067cb506cccac4cb0fb4dc2ace184b08521499ab86658cbee17e2a5b2cbb303d76ed73a7b40f1ddadeffe9505261ec
def bootE : Nat := 0x13fb8f9fed22a258d5784f4523c9060a17953f88e37ae01ef745f4eb253524934538d8b1f0649197520d0fe9bc8b9d8a

/-- A signed manifest of an image of no bytes. -/
def bootManifest : List Byte :=
  leBytes 4 0x55534C54 ++ leBytes 4 0 ++ leBytes 4 0x0200 ++ leBytes 4 5 ++ (leBytes 48 fwNone).reverse ++
    leBytes 48 bootE ++ leBytes 48 bootE

/-- Boot flash holds a firmware image that verifies. -/
def sBootable : State :=
  (State.reset.setPwr 0).modFw fun f => { f with keyX := bootX, keyY := bootY, slot0 := bootManifest }

def heldJob (a : List AnchorSrc) : State :=
  (placed compared fun p => { p with cmps := [] }).modWeaver fun w => { w with
    heldCmps := [(0, { cu := 0, nextStep := 0, stationAt := none, anchors := a })] }

def sHeldSeq : State := heldJob [.sequencer 100]
def sHeldStation : State := heldJob [.station 100 0x77]
def sHeldOff : State := sHeldSeq.modTime fun t => { t with armed := false }
def sHistGone : State := sHistClosed.modRegion 0 0 fun d => { d with closing := d.closing.map fun c => { c with gone := true } }
def sEngineRead : State := sEngine.modStream 0 fun d => { d with ring := [{ ringSeg 0 with asked := true }] }
def sJobAway : State := sJob.modDe 0 fun d => { d with away := true }
def corruptAt (off : Nat) : Corrupt := { ref := 0, member := 1, offset := off, rerun := ⟨1, 5, 0, 0⟩ }
def alone (s : State) : State := s.modWeaver fun w => { w with retired := (List.range 7).map fun k => uDe (k + 1) }
def sDeAlone : State := alone State.reset
def sDeCorrupt : State := sDeAlone.modDe 0 fun d => { d with testing := true, corrupt := [corruptAt 5] }
def sCeHost : State := State.reset.modWeaver fun w => { w with tests := [{ unit := uCe 0, classes := [7], byError := false }] }
def sDeHost : State := State.reset.modWeaver fun w => { w with tests := [{ unit := uDe 0, classes := [7], byError := false }] }
def sChanSweep0 : State := sChan0.modChan 0 fun d => { d with sweeping := true }
def sChan3Written : State := sChanWritten.setMcState 0 3
def sAnnotatedHeld : State := annotated (committed sHeldSeq 6 0 (leBytes 4 0x30010000 ++ leBytes 4 (2 ^ 32 - 1) ++ leBytes 40 0)) 0

/-- Two streams wait in slots 0 and 1 of an engine whose turn is slot 1's. -/
def sEngineTwo : State :=
  ((placed (committed sEngine 1 1 (bindBytes 0 0x21 [1])) fun p => { p with streams := p.streams ++ (p.streams.map fun x =>
    { x with obj := 1, slot := some 1 }) }).setReg (CE 0 0x44) 0x1001).setStream 1 (sEngine.stream 0)

/-- The one other engine that works has a job whose unit does not await an anchor. -/
def sDeBusy : State :=
  ((placed State.reset fun p => { p with cmps := [{ obj := 0, cu := 0, de := 1 }] }).modCmp 0 fun c =>
    { c with anchors := [.sequencer 1] }).modWeaver fun w => { w with retired := (List.range 6).map fun k => uDe (k + 2) }

/-- A MARK has come in part, up to its second word or to all but its last. -/
def sRingPart : State := sRingOpen.modStream 0 fun d => { d with recPart := [0x6000000000000000] }

def sRingMark : State := sRingOpen.modStream 0 fun d => { d with recPart := [0x6000000000000000, 100, 0] }

/-! ## Witnesses -/

theorem witness_AbortCommands :
    ((sAbortStream.box 0).started = true ∧ (sAbortStream.box 0).ready = none ∧ sAbortStream.power.stopped = false ∧
     (∃ img ∈ (sAbortStream.box 0).taken, img.code = 67 ∧ hType img.handle = 1 ∧
       sAbortStream.hasStream (hIdx img.handle) = true)) ∧
    ((sAbortStream.box 0).started = true ∧ (sAbortStream.box 0).ready = none ∧ sAbortStream.power.stopped = false ∧
     (∃ img ∈ (sAbortStream.box 0).taken, img.code = 67 ∧ hType img.handle = 1 ∧
       sAbortStream.hasStream (hIdx img.handle) = true ∧ 1 ≠ hIdx img.handle)) ∧
    ((sAbortNoStream.box 0).started = true ∧ (sAbortNoStream.box 0).ready = none ∧ sAbortNoStream.power.stopped = false ∧
     (∃ img ∈ (sAbortNoStream.box 0).taken, img.code = 67 ∧ hType img.handle = 1 ∧
       sAbortNoStream.hasStream (hIdx img.handle) = false)) ∧
    ((sAbortJob.box 0).started = true ∧ (sAbortJob.box 0).ready = none ∧ sAbortJob.power.stopped = false ∧
     (∃ img ∈ (sAbortJob.box 0).taken, img.code = 67 ∧ hType img.handle = 6 ∧
       ∃ cu ∈ sAbortJob.weaver.place.cmpCu (hIdx img.handle), (sAbortJob.cmp cu).step ≠ none)) ∧
    ((sAbortJob.box 0).started = true ∧ (sAbortJob.box 0).ready = none ∧ sAbortJob.power.stopped = false ∧
     (∃ img ∈ (sAbortJob.box 0).taken, img.code = 67 ∧ hType img.handle = 6 ∧
       ∃ cu ∈ sAbortJob.weaver.place.cmpCu (hIdx img.handle), (sAbortJob.cmp cu).step ≠ none ∧ 0 ≠ cu)) ∧
    ((sAbortNoJob.box 0).started = true ∧ (sAbortNoJob.box 0).ready = none ∧ sAbortNoJob.power.stopped = false ∧
     (∃ img ∈ (sAbortNoJob.box 0).taken, img.code = 67 ∧ hType img.handle = 6 ∧
       ∀ cu ∈ sAbortNoJob.weaver.place.cmpCu (hIdx img.handle), (sAbortNoJob.cmp cu).step = none)) ∧
    ((sAbortIdle.box 0).started = true ∧ (sAbortIdle.box 0).ready = none ∧ sAbortIdle.power.stopped = false ∧
     (∃ img ∈ (sAbortIdle.box 0).taken, img.code = 67 ∧ img.handle = 0 ∧
       (sAbortIdle.box (getLe img.payload 0 1)).taken = none)) ∧
    ((sAbortCommit.box 0).started = true ∧ (sAbortCommit.box 0).ready = none ∧ sAbortCommit.power.stopped = false ∧
     (∃ img ∈ (sAbortCommit.box 0).taken, img.code = 67 ∧ img.handle = 0 ∧
       (sAbortCommit.box (getLe img.payload 0 1)).ready = none ∧
       ∃ c ∈ (sAbortCommit.box (getLe img.payload 0 1)).taken,
       ((sAbortCommit.box (getLe img.payload 0 1)).started = false ∨ c.code = 48 ∨ c.code = 98 ∨ c.code = 146))) ∧
    ((sAbortPast.box 0).started = true ∧ (sAbortPast.box 0).ready = none ∧ sAbortPast.power.stopped = false ∧ 1 ≠ 0 ∧
     (∃ img ∈ (sAbortPast.box 0).taken, img.code = 67 ∧ img.handle = 0 ∧
       ∃ c ∈ (sAbortPast.box (getLe img.payload 0 1)).taken, ((sAbortPast.box (getLe img.payload 0 1)).ready ≠ none ∨
       (sAbortPast.box (getLe img.payload 0 1)).started = true ∧ c.code ≠ 48 ∧ c.code ≠ 98 ∧ c.code ≠ 146))) := by
  and_intros <;> decide +kernel

theorem witness_AliveRegister :
    (sResetting.pcie.flr = true) ∧
    (sReset.pcie.flr = false ∧ sReset.pwr = 1) ∧
    (compared.pcie.flr = false ∧ compared.pwr = 2) ∧
    (sArmStandby.pcie.flr = false ∧ (sArmStandby.pwr = 3 ∨ sArmStandby.pwr = 4)) ∧
    (sFailed.pcie.flr = false ∧ sFailed.pwr = 7) := by
  and_intros <;> decide +kernel

theorem witness_AnnotateAndTimeNote :
    ((sAnnotateDisarmed.box 0).started = true ∧ (sAnnotateDisarmed.box 0).ready = none ∧
     sAnnotateDisarmed.power.stopped = false ∧ sAnnotateDisarmed.time.armed = false ∧
     (∃ img ∈ (sAnnotateDisarmed.box 0).taken, img.code = 83)) ∧
    ((sAnnotate.box 0).started = true ∧ (sAnnotate.box 0).ready = none ∧ sAnnotate.power.stopped = false ∧
     sAnnotate.time.armed = true ∧ (∃ img ∈ (sAnnotate.box 0).taken, img.code = 83)) ∧
    ((sAnnotate.box 0).started = true ∧ (sAnnotate.box 0).ready = none ∧ sAnnotate.power.stopped = false ∧
     sAnnotate.time.armed = true ∧
     (∃ img ∈ (sAnnotate.box 0).taken, img.code = 83 ∧ ¬1 ∈ List.map hIdx (annHandles img.payload))) ∧
    ((sTimeNote.box 0).started = true ∧ (sTimeNote.box 0).ready = none ∧ sTimeNote.power.stopped = false ∧
     (∃ tail ∈ (State.createAll sTimeNote.ledger.reqs.length sTimeNote).recordPlace false (recordLength 32
       ((State.createAll sTimeNote.ledger.reqs.length sTimeNote).snapList 17).length), True) ∧
     (∃ img ∈ (sTimeNote.box 0).taken, img.code = 84 ∧ img.payload.length = 16)) := by
  and_intros <;> decide +kernel


theorem recordPlace_full {s : State} {len : Nat} (h : s.ledgerBytes false = 0x370000) (hl : 0 < len) :
    s.recordPlace false len = none := by
  have : ¬ (0x370000 + len ≤ 0x370000) := by omega
  simp [State.recordPlace, h, this]

theorem sTimeNoteFull_bytes : sTimeNoteFull.ledgerBytes false = 0x370000 :=
  have h (b : List Byte) : (fullLedger (run 0x54 0 (leBytes 8 1000 ++ leBytes 8 0)) [] b).ledgerBytes false = b.length :=
    Nat.zero_add _
  (h _).trans List.length_replicate

theorem witness_AnnotateAndTimeNote_full :
    Safety.Running sTimeNoteFull 0 (cmd 0x54 0 (leBytes 8 1000 ++ leBytes 8 0)) ∧
    sTimeNoteFull.ledger.reqs = [] ∧ (leBytes 8 1000 ++ leBytes 8 0).length = 16 ∧
    (State.createAll sTimeNoteFull.ledger.reqs.length sTimeNoteFull).recordPlace false
      (recordLength 32 ((State.createAll sTimeNoteFull.ledger.reqs.length sTimeNoteFull).snapList 0x11).length) = none :=
  ⟨⟨rfl, rfl, rfl, rfl⟩, rfl, rfl, recordPlace_full sTimeNoteFull_bytes (by decide +kernel)⟩

theorem witness_ArmCommands :
    ((sArmEpoch0.box 0).started = true ∧ (sArmEpoch0.box 0).ready = none ∧ sArmEpoch0.power.stopped = false ∧
     sArmEpoch0.reg HUB_EPOCH = 0 ∧
     (∃ img ∈ (sArmEpoch0.box 0).taken, img.code = 64 ∧ (Instr.arm 0 = Instr.arm 0 ∧ getLe img.payload 0 1 % 2 = 0 ∨
       Instr.arm 0 = Instr.armSync 0 ∧ getLe img.payload 0 1 % 2 = 1))) ∧
    ((sArmBusy.box 0).started = true ∧ (sArmBusy.box 0).ready = none ∧ sArmBusy.power.stopped = false ∧
     sArmBusy.reg HUB_EPOCH ≠ 0 ∧
     (sArmBusy.time.armed = true ∨ sArmBusy.time.syncWait ≠ none ∨ sArmBusy.unlocked = true ∨
       sArmBusy.weaver.calibrating ≠ []) ∧
     (∃ img ∈ (sArmBusy.box 0).taken, img.code = 64 ∧ (Instr.arm 0 = Instr.arm 0 ∧ getLe img.payload 0 1 % 2 = 0 ∨
       Instr.arm 0 = Instr.armSync 0 ∧ getLe img.payload 0 1 % 2 = 1))) ∧
    ((sArmStandby.box 0).started = true ∧ (sArmStandby.box 0).ready = none ∧ sArmStandby.power.stopped = false ∧
     sArmStandby.reg HUB_EPOCH ≠ 0 ∧ sArmStandby.time.armed = false ∧ sArmStandby.time.syncWait = none ∧
     sArmStandby.unlocked = false ∧ sArmStandby.weaver.calibrating = [] ∧ sArmStandby.pwr ≠ 1 ∧
     (∃ img ∈ (sArmStandby.box 0).taken, img.code = 64 ∧ (Instr.arm 0 = Instr.arm 0 ∧ getLe img.payload 0 1 % 2 = 0 ∨
       Instr.arm 0 = Instr.armSync 0 ∧ getLe img.payload 0 1 % 2 = 1))) ∧
    ((sArm.box 0).started = true ∧ (sArm.box 0).ready = none ∧ sArm.power.stopped = false ∧ sArm.reg HUB_EPOCH ≠ 0 ∧
     sArm.time.armed = false ∧ sArm.time.syncWait = none ∧ sArm.unlocked = false ∧ sArm.weaver.calibrating = [] ∧
     sArm.pwr = 1 ∧ (∃ img ∈ (sArm.box 0).taken, img.code = 64 ∧ getLe img.payload 0 1 % 2 = 0)) ∧
    ((sArmSync.box 0).started = true ∧ (sArmSync.box 0).ready = none ∧ sArmSync.power.stopped = false ∧
     sArmSync.reg HUB_EPOCH ≠ 0 ∧ sArmSync.time.armed = false ∧ sArmSync.time.syncWait = none ∧
     sArmSync.unlocked = false ∧ sArmSync.weaver.calibrating = [] ∧ sArmSync.pwr = 1 ∧
     (∃ img ∈ (sArmSync.box 0).taken, img.code = 64 ∧ getLe img.payload 0 1 % 2 = 1)) ∧
    (sDisarmWaiting.pwr = 1 ∧ (∃ m ∈ sDisarmWaiting.time.syncWait, True)) ∧
    (sReset.time.syncWait = none ∧ sReset.clocked = true) := by
  and_intros <;> decide +kernel

theorem witness_Bar2Access :
    (sHoldOver.pcie.linkUp = false) ∧
    (sD3.pcie.linkUp = true ∧ sD3.pcie.d3hot = true) ∧
    (sReset.pcie.linkUp = true ∧ sReset.pcie.d3hot = false ∧ entryValid (sReset.bar2Entry 0#36) = false) ∧
    (sMappedTraining.pcie.linkUp = true ∧ sMappedTraining.pcie.d3hot = false ∧
     5 = sMappedTraining.mcState (entryChan (sMappedTraining.bar2Entry 0#36)) ∧
     entryValid (sMappedTraining.bar2Entry 0#36) = true ∧ (5 = 2 ∨ 5 = 5)) ∧
    (sMappedFrozen.pcie.linkUp = true ∧ sMappedFrozen.pcie.d3hot = false ∧
     entryValid (sMappedFrozen.bar2Entry 0#36) = true ∧
     (sMappedFrozen.mcState (entryChan (sMappedFrozen.bar2Entry 0#36)) = 3 ∨ sMappedFrozen.pcie.bar2Waits = [] ∧
       sMappedFrozen.mcState (entryChan (sMappedFrozen.bar2Entry 0#36)) ≠ 2 ∧
       sMappedFrozen.mcState (entryChan (sMappedFrozen.bar2Entry 0#36)) ≠ 5 ∧ (⟨false, 0⟩ : ReadAsk).eccFail = true ∧
       sMappedFrozen.pageChecked (entryPage (sMappedFrozen.bar2Entry 0#36)) = true)) ∧
    (sMapped.pcie.linkUp = true ∧ sMapped.pcie.d3hot = false ∧ entryValid (sMapped.bar2Entry 0#36) = true ∧
     sMapped.mcState (entryChan (sMapped.bar2Entry 0#36)) ≠ 2 ∧ sMapped.mcState (entryChan (sMapped.bar2Entry 0#36)) ≠ 3 ∧
     sMapped.mcState (entryChan (sMapped.bar2Entry 0#36)) ≠ 5 ∧
     ((⟨false, 0⟩ : ReadAsk).eccFail = false ∨ sMapped.pageChecked (entryPage (sMapped.bar2Entry 0#36)) = false) ∧
     sMapped.pageOpen (pageOf (bar2Ma (sMapped.bar2Entry 0#36) 0#36)) = false) ∧
    (sD3.pcie.d3hot = true ∨ false = true) ∧
    (sMapped.pcie.linkUp = true ∧ sMapped.pcie.d3hot = false ∧ entryValid (sMapped.bar2Entry 0#36) = true ∧
     sMapped.unlocked = false) ∧
    (sMappedLogged.pcie.linkUp = true ∧ sMappedLogged.pcie.d3hot = false ∧
     entryValid (sMappedLogged.bar2Entry 0#36) = true ∧ sMappedLogged.unlocked = true ∧
     sMappedLogged.mcState (entryChan (sMappedLogged.bar2Entry 0#36)) ≠ 3) ∧
    (sMappedOpen.pcie.linkUp = true ∧ sMappedOpen.pcie.d3hot = false ∧ entryValid (sMappedOpen.bar2Entry 0#36) = true ∧
     sMappedOpen.unlocked = true ∧ sMappedOpen.mcState (entryChan (sMappedOpen.bar2Entry 0#36)) ≠ 3 ∧
     ¬BitVec.toNat (sMappedOpen.reg (PCI_BAR2_GEN (bar2Window 0#36))) ∈ sMappedOpen.pcie.bar2Logged) ∧
    (sMappedFrozen.pcie.linkUp = true ∧ sMappedFrozen.pcie.d3hot = false ∧
     entryValid (sMappedFrozen.bar2Entry 0#36) = true ∧ sMappedFrozen.unlocked = true ∧
     sMappedFrozen.mcState (entryChan (sMappedFrozen.bar2Entry 0#36)) = 3) := by
  and_intros <;> decide +kernel

theorem witness_ChannelErrors :
    (true = sChanWritten.pageChecked (pageOf (0 * 2 ^ 33 + (0#33).toNat)) ∧ ¬sChanWritten.mcState 0 ∈ [0, 3, 5, 6]) ∧
    (true = sChan3Written.pageChecked (pageOf (0 * 2 ^ 33 + (0#33).toNat)) ∧
     (sChan3Written.mcState 0 = 3 ∨ sChan3Written.mcState 0 = 5)) ∧
    (sReset.pageChecked (pageOf (0 * 2 ^ 33 + (0#33).toNat)) = false ∨ (sReset.mcState 0 = 0 ∨ sReset.mcState 0 = 6) ∧
       sReset.pcie.bar2Waits = []) ∧
    (¬sReset.mcState 0 ∈ [0, 3, 5, 6]) ∧
    ((sChan0.mcState 0 = 0 ∨ sChan0.mcState 0 = 3 ∨ sChan0.mcState 0 = 5) ∧ sChan0.pcie.bar2Waits = []) ∧
    (true = sChanWritten.pageChecked (pageOf (0 * 2 ^ 33 + (0#33).toNat)) ∧ sChanWritten.chanServes 0 = true) ∧
    (sReset.pageChecked (pageOf (0 * 2 ^ 33 + (0#33).toNat)) = false ∨ sReset.chanServes 0 = false) ∧
    ((sReset.chan 0).ceHour = 0) ∧
    ((sChanHour.chan 0).ceHour ≠ 0) ∧
    (sChan0.mcState 0 ≠ 1 ∧ sChan0.mcState 0 ≠ 4) ∧
    ((sReset.mcState 0 = 1 ∨ sReset.mcState 0 = 4) ∧
     (0 = 0 ∨ sReset.pageChecked (pageOf (0 * 2 ^ 33 + (0#33).toNat)) = false)) ∧
    (true = sChanWritten.pageChecked (pageOf (0 * 2 ^ 33 + (0#33).toNat)) ∧
     (sChanWritten.mcState 0 = 1 ∨ sChanWritten.mcState 0 = 4)) ∧
    (sChan6.mcState 0 = 6) := by
  and_intros <;> decide +kernel

theorem witness_ChannelTraining :
    (sReset.mcState 0 = 1 ∨ sReset.mcState 0 = 4) ∧
    (sChan0.mcState 0 ≠ 1 ∧ sChan0.mcState 0 ≠ 4) ∧
    (sChan4.mcState 0 = 4 ∧ sChan4.weaver.replaceDue = false ∧ sChan4.chanStripe 0 = false ∧ sChan4.chanNeeded 0 = false ∧
     sChan4.chanJobRef 0 = false ∧ sChan4.chanReserved 0 = false ∧ ¬0 ∈ sChan4.fwChans) ∧
    (sReset.mcState 0 ≠ 4 ∨ sReset.weaver.replaceDue = true ∨ sReset.chanStripe 0 = true ∨ sReset.chanNeeded 0 = true ∨
       sReset.chanJobRef 0 = true ∨ sReset.chanReserved 0 = true ∨ 0 ∈ sReset.fwChans) ∧
    (sChan5.mcState 0 = 5 ∧ (∀ x ∈ sChan5.weaver.tests, x.unit = uMc 0 → x.classes = []) ∧
     (∀ x ∈ sChan5.pcie.bar2Waits, x.snd.snd.eccFail = false)) ∧
    (sReset.mcState 0 ≠ 5 ∨ ∃ x ∈ sReset.weaver.tests, x.unit = uMc 0 ∧ x.classes ≠ []) ∧
    ((sChan0.mcState 0 = 5 ∨ sChan0.mcState 0 = 0) ∧ sChan0.chanRate 0 < 2 ∧ sChan0.sweepRuns 0 = false) ∧
    ((sChanSweep0.mcState 0 = 5 ∨ sChanSweep0.mcState 0 = 0) ∧ sChanSweep0.chanRate 0 < 2 ∧ sChanSweep0.sweepRuns 0 = true) ∧
    ((sChanLow.mcState 0 = 5 ∨ sChanLow.mcState 0 = 0) ∧ 2 ≤ sChanLow.chanRate 0 ∧ sChanLow.isRetired (uMc 0) = false) ∧
    (sReset.mcState 0 ≠ 5 ∧ sReset.mcState 0 ≠ 0) ∧
    (sChanSweep.regBit (MC_TRN_CTL 0) 5 = true ∨ (sChanSweep.chan 0).sweeping = true) ∧
    (sReset.regBit (MC_TRN_CTL 0) 5 = false ∧ (sReset.chan 0).sweeping = false) ∧
    (sReset.mcState 0 ≠ 0 ∨ sReset.underTest (uMc 0) = true) ∧
    (sChan0.mcState 0 = 0 ∧ sChan0.underTest (uMc 0) = false ∧ sChan0.isRetired (uMc 0) = false ∧
     (0 ≠ 0 → sChan0.sweepRuns 0 = false) ∧ 2 * 2 ^ (2#2).toNat = sChan0.power.board.channelGib ∧
     (0 = 0 ∨ sChan0.chanRate 0 + 0 ≤ 2)) ∧
    (sChan0.mcState 0 = 0 ∧ sChan0.underTest (uMc 0) = false ∧ sChan0.isRetired (uMc 0) = false ∧
     (3 ≠ 0 → sChan0.sweepRuns 0 = false) ∧ 2 * 2 ^ (2#2).toNat = sChan0.power.board.channelGib ∧ 3 ≠ 0 ∧
     2 < sChan0.chanRate 0 + 3) ∧
    (sChan0.mcState 0 = 0 ∧ sChan0.underTest (uMc 0) = false ∧ sChan0.isRetired (uMc 0) = false ∧
     (0 ≠ 0 → sChan0.sweepRuns 0 = false) ∧ 2 * 2 ^ (0#2).toNat ≠ sChan0.power.board.channelGib) ∧
    (sReset.chanIdle 8 = true) ∧
    (sReset.chanIdle 0 = false) ∧
    (sChan2.mcState 0 = 2 ∧ (∀ x ∈ sChan2.pcie.bar2Waits, x.snd.snd.eccFail = false)) ∧
    (sReset.mcState 0 ≠ 2) := by
  and_intros <;> decide +kernel

theorem witness_ClocksAndTime :
    (sTbLocked.refWatched = true ∧ sTbLocked.tb = 0) ∧
    (sHoldover.refWatched = true ∧ sHoldover.tb ≠ 0 ∧ sHoldover.regBit CLK_STATUS 3 = true) ∧
    (sReset.refWatched = true ∧ (sReset.tb = 0 ∨ sReset.regBit CLK_STATUS 3 = false)) ∧
    (sHoldover.refWatched = true ∧ sHoldover.tb = 1) ∧
    (sReset.refWatched = true ∧ sReset.tb ≠ 1) ∧
    (sBootable.refWatched = false) ∧
    (sReset.clocked = true ∧ BitVec.toNat sReset.time.tsHd + 256 < 2 ^ 64) ∧
    (sArmStandby.clocked = false ∧ sArmStandby.hubClocked = true ∧ BitVec.toNat sArmStandby.time.tsHd + 256 < 2 ^ 64) ∧
    (sLastSlot.clocked = true ∧ 2 ^ 64 ≤ BitVec.toNat sLastSlot.time.tsHd + 256) ∧
    (sLastSlot.hubClocked = true ∧ 2 ^ 64 ≤ BitVec.toNat sLastSlot.time.tsHd + 256) ∧
    (sLastSlotAsleep.hubClocked = true ∧ 2 ^ 64 ≤ BitVec.toNat sLastSlotAsleep.time.tsHd + 256 ∧
     sLastSlotAsleep.asleep = true) ∧
    (sReset.hubClocked = false ∨ BitVec.toNat sReset.time.tsHd + 256 < 2 ^ 64) ∧
    (sReset.time.armed = false) ∧
    (compared.time.armed = true) ∧
    (sUnpowered.power.powered = false) ∧
    (sReset.power.powered = true ∧ 0 < 16) ∧
    (sReset.power.powered = true ∧ sReset.power.perst = false ∧ sReset.power.stopped = false ∧
      sReset.power.hotDie = none) := by
  and_intros <;> decide +kernel

theorem witness_CommandCompletes :
    (sAnsweredHeld.served = true ∧ (∃ img ∈ (sAnsweredHeld.box 0).taken, sAnsweredHeld.writesHeld img = true) ∧
     (∃ r ∈ (sAnsweredHeld.box 0).ready, True)) ∧
    (sAnswered.served = true ∧ (∃ img ∈ (sAnswered.box 0).taken, sAnswered.writesHeld img = false) ∧
     (∃ r ∈ (sAnswered.box 0).ready, True)) ∧
    (sVectorSent.served = true ∧ sVectorSent.pcie.busMaster = true ∧ sVectorSent.pcie.linkUp = true ∧
     sVectorSent.pcie.d3hot = false ∧
     (∃ img ∈ (sVectorSent.box 0).taken, sVectorSent.writesHeld img = false ∧ bit img.flags 0 = true ∧
       sVectorSent.pcie.vectorMasked (BitVec.toNat img.vector) = false) ∧
     (∃ r ∈ (sVectorSent.box 0).ready, True)) := by
  and_intros <;> decide +kernel

theorem witness_CommitCommands :
    ((sCommitUnlocked.box 0).started = true ∧ (sCommitUnlocked.box 0).ready = none ∧
     sCommitUnlocked.power.stopped = false ∧ sCommitUnlocked.unlocked = true ∧
     (∃ img ∈ (sCommitUnlocked.box 0).taken, img.code = 48 ∧ commitRevert img.payload = false)) ∧
    ((sRevertUnlocked.box 0).started = true ∧ (sRevertUnlocked.box 0).ready = none ∧
     sRevertUnlocked.power.stopped = false ∧ sRevertUnlocked.unlocked = true ∧
     (∃ img ∈ (sRevertUnlocked.box 0).taken, img.code = 48 ∧ commitRevert img.payload = true)) ∧
    ((sRevert.box 0).started = true ∧ (sRevert.box 0).ready = none ∧ sRevert.power.stopped = false ∧
     sRevert.unlocked = false ∧ (∃ img ∈ (sRevert.box 0).taken, img.code = 48 ∧ commitRevert img.payload = true)) ∧
    ((sQuery.box 0).started = true ∧ (sQuery.box 0).ready = none ∧ sQuery.power.stopped = false ∧
     (∃ img ∈ (sQuery.box 0).taken, img.code = 49 ∧
       ((sQuery.draw 8).snd.placementReport (sQuery.draw 8).fst.toNat).length ≤ getLe img.payload 8 4)) ∧
    ((sQueryBus.box 0).started = true ∧ (sQueryBus.box 0).ready = none ∧ sQueryBus.power.stopped = false ∧
     sQueryBus.pcie.busMaster = true ∧ sQueryBus.pcie.linkUp = true ∧ sQueryBus.pcie.d3hot = false ∧
     (∃ img ∈ (sQueryBus.box 0).taken, img.code = 49 ∧
       ((sQueryBus.draw 8).snd.placementReport (sQueryBus.draw 8).fst.toNat).length ≤ getLe img.payload 8 4)) ∧
    ((sQueryShort.box 0).started = true ∧ (sQueryShort.box 0).ready = none ∧ sQueryShort.power.stopped = false ∧
     (∃ img ∈ (sQueryShort.box 0).taken, img.code = 49 ∧
       getLe img.payload 8 4 < ((sQueryShort.draw 8).snd.placementReport (sQueryShort.draw 8).fst.toNat).length)) := by
  and_intros <;> decide +kernel


/-- A result that is good, and meets a test. -/
theorem ok_of {ε α : Type} {x : Except ε α} (p : α → Bool) (h : x.toOption.any p = true) : ∃ a, x = .ok a ∧ p a = true := by
  cases x with
  | ok a => exact ⟨a, rfl, h⟩
  | error _ => exact nomatch h

/-- The intent that a COMMIT brings. -/
def commitOf (s : State) (img : MbImage) : Intent :=
  { s.weaver.staged.effective with constraints := commitRecords img.payload }

/-- The state and the question that step 5 of a COMMIT puts to placement. -/
def commitPlace (s : State) : State := s.modWeaver fun w => { w with egress := s.linkEgress }

def commitCtx (s : State) (img : MbImage) : PlaceCtx :=
  { it := commitOf s img, shed := [], keep := Placement.empty, strict := true }

theorem all_ok {ε α : Type} {x : Except ε α} (p : α → Bool) (h : x.toOption.all p = true) : ∀ a, x = .ok a → p a = true := by
  rintro a rfl
  exact h

theorem witness_CommitCommands_admitted :
    Safety.Running sCommit 0 iCommitImage ∧ iCommitImage.code = 0x0030 ∧ commitRevert iCommitImage.payload = false ∧
    sCommit.unlocked = false ∧ sCommit.checkIntent (commitOf sCommit iCommitImage) = none ∧
    (∀ qs, (commitPlace sCommit).placeSeqs (commitCtx sCommit iCommitImage) = .ok qs →
      checkHistRefs (commitOf sCommit iCommitImage) qs = none) ∧
    ∃ pl, (commitPlace sCommit).placeAll (commitCtx sCommit iCommitImage) = .ok pl := by
  refine ⟨⟨rfl, rfl, rfl, rfl⟩, rfl, rfl, by decide +kernel, by decide +kernel, fun qs h => ?_, ?_⟩
  · exact Option.isNone_iff_eq_none.mp
      (all_ok (fun qs => (checkHistRefs (commitOf sCommit iCommitImage) qs).isNone) (by decide +kernel) qs h)
  · obtain ⟨pl, h, _⟩ := ok_of (fun _ => true) (x := (commitPlace sCommit).placeAll (commitCtx sCommit iCommitImage))
      (by decide +kernel)
    exact ⟨pl, h⟩

theorem witness_ComparatorsAndLosses :
    (sArmStandby.compOn 0 Comp.l = false) ∧
    (sReset.compOn 0 Comp.l = true ∧
     ((sReset.lane 0).comp Comp.l).from_ ≤ sReset.edgeStamp 0 0 0 ((sReset.lane 0).comp Comp.l).coarse false) ∧
    (sBurst.compOn 0 Comp.l = true ∧ sBurst.time.armed = true ∧
     sBurst.time.armTime ≤ sBurst.edgeStamp 0 0 0 ((sBurst.lane 0).comp Comp.l).coarse false ∧ sBurst.lnStream 0 ≠ none ∧
     (sBurst.lnMode 0 = 1 ∨ sBurst.lnMode 0 = 2) ∧ (∃ b ∈ ((sBurst.lane 0).comp Comp.l).burst, True)) ∧
    (compressedBase.compOn 0 Comp.l = true ∧ compressedBase.time.armed = true ∧
     compressedBase.time.armTime ≤ compressedBase.edgeStamp 0 0 0 ((compressedBase.lane 0).comp Comp.l).coarse false ∧
     compressedBase.lnStream 0 ≠ none ∧ (compressedBase.lnMode 0 = 1 ∨ compressedBase.lnMode 0 = 2) ∧
     ((compressedBase.lane 0).comp Comp.l).burst = none ∧
     ((compressedBase.lane 0).comp Comp.l).e ≤ compressedBase.edgeStamp 0 0 0 ((compressedBase.lane 0).comp
       Comp.l).coarse false) ∧
    (sDigests2.compOn 0 Comp.l = true ∧ sDigests2.time.armed = true ∧
     sDigests2.time.armTime ≤ sDigests2.edgeStamp 0 0 0 ((sDigests2.lane 0).comp Comp.l).coarse false ∧
     sDigests2.lnStream 0 ≠ none ∧ (sDigests2.lnMode 0 = 1 ∨ sDigests2.lnMode 0 = 2) ∧
     ((sDigests2.lane 0).comp Comp.l).burst = none ∧
     ((sDigests2.lane 0).comp Comp.l).e ≤ sDigests2.edgeStamp 0 0 0 ((sDigests2.lane 0).comp Comp.l).coarse false ∧
     (∀ cu < 8, sDigests2.cuEnabled cu = false) ∧ (sDigests2.lane 0).levelDue = none ∧
     (∃ i ∈ sDigests2.lnStream 0, sDigests2.isShed (objKey 1 i) = false ∧ (sDigests2.stream i).open_ ≠ [] ∧
       needBase (sDigests2.stream i).baseTime (fineEdge 0 (isU Comp.l) false ((sDigests2.lane 0).comp Comp.l).coarse
       (sDigests2.edgeStamp 0 0 0 ((sDigests2.lane 0).comp Comp.l).coarse false)) = false ∧
       (sDigests2.stream i).open_.length + 1 + (sDigests2.stream i).reserve < 512)) ∧
    (compressedBase.compOn 0 Comp.l = true ∧ compressedBase.time.armed = true ∧
     compressedBase.time.armTime ≤ compressedBase.edgeStamp 0 0 0 ((compressedBase.lane 0).comp Comp.l).coarse true ∧
     compressedBase.lnStream 0 ≠ none ∧ (compressedBase.lnMode 0 = 1 ∨ compressedBase.lnMode 0 = 2) ∧
     ((compressedBase.lane 0).comp Comp.l).burst = none ∧
     (compressedBase.edgeStamp 0 0 0 ((compressedBase.lane 0).comp Comp.l).coarse true < ((compressedBase.lane 0).comp
       Comp.l).e ∨ true = true)) ∧
    (sBurstNow.time.armed = true ∧
     burstDue (sBurstNow.lnFollow 0 Comp.l) ((sBurstNow.lane 0).comp Comp.l) (sBurstNow.sessionTime (128 * 1)) = true) ∧
    (sReset.time.armed = false ∨
       burstDue (sReset.lnFollow 0 Comp.l) ((sReset.lane 0).comp Comp.l) (sReset.sessionTime (128 * 0)) = false) ∧
    (sQuiet.lnStream 0 ≠ none ∧ sQuiet.lnLive 0 = true ∧ (sQuiet.lane 0).lastRecord + 2 ^ 32 < sQuiet.slotEnd) ∧
    (sReset.lnStream 0 = none ∨ sReset.lnLive 0 = false ∨ sReset.slotEnd ≤ (sReset.lane 0).lastRecord + 2 ^ 32) ∧
    (∃ b ∈ (sBlockFull.lane 0).block, blockSamples ≤ b.samples.length ∧
       ∀ x ∈ b :: (sBlockFull.lane 0).full, ∀ at_ ∈ x.waiting, at_ ≤ sBlockFull.now) ∧
    ((∀ b ∈ (sReset.lane 0).block, b.samples.length < blockSamples) ∧ (∀ x ∈ (sReset.lane 0).full, x.waiting ≠ [])) := by
  and_intros <;> decide +kernel

theorem witness_CompareSteps :
    ((sReset.cmp 0).anchors.contains (sReset.anchorAt (AnchorSrc.sequencer 100)) = false ∧
     (List.any sReset.weaver.heldCmps fun e => e.snd.cu == 0 && e.snd.anchors.contains (sReset.anchorAt
       (AnchorSrc.sequencer 100))) = false) ∧
    (∃ z ∈ List.find? (fun e => e.snd.cu == ↑0 && e.snd.anchors.contains (sAnnotatedHeld.anchorAt (AnchorSrc.sequencer
       100))) sAnnotatedHeld.weaver.heldCmps,
       (sAnnotatedHeld.cmp 0).anchors.contains (sAnnotatedHeld.anchorAt (AnchorSrc.sequencer 100)) = false ∧
       List.find? (fun e => e.snd.cu == 0 && e.snd.anchors.contains (sAnnotatedHeld.anchorAt (AnchorSrc.sequencer
       100))) sAnnotatedHeld.weaver.heldCmps = some (z.fst, z.snd)) ∧
    (∃ z ∈ List.find? (fun e => e.snd.cu == ↑0 && e.snd.anchors.contains (sHeldOff.anchorAt (AnchorSrc.sequencer 100)))
       sHeldOff.weaver.heldCmps,
       (sHeldOff.cmp 0).anchors.contains (sHeldOff.anchorAt (AnchorSrc.sequencer 100)) = false ∧
       List.find? (fun e => e.snd.cu == 0 && e.snd.anchors.contains (sHeldOff.anchorAt (AnchorSrc.sequencer 100)))
       sHeldOff.weaver.heldCmps = some (z.fst, z.snd) ∧ sHeldOff.time.armed = false) ∧
    (∃ z ∈ List.find? (fun e => e.snd.cu == ↑0 && e.snd.anchors.contains (sHeldStation.anchorAt (AnchorSrc.station 100
       119))) sHeldStation.weaver.heldCmps,
       (sHeldStation.cmp 0).anchors.contains (sHeldStation.anchorAt (AnchorSrc.station 100 119)) = false ∧
       List.find? (fun e => e.snd.cu == 0 && e.snd.anchors.contains (sHeldStation.anchorAt (AnchorSrc.station 100
       119))) sHeldStation.weaver.heldCmps = some (z.fst, z.snd) ∧ sHeldStation.time.armed = true ∧
       sHeldStation.anchorAt (AnchorSrc.station 100 119) = AnchorSrc.station 100 119) ∧
    (∃ z ∈ List.find? (fun e => e.snd.cu == ↑0 && e.snd.anchors.contains (sAnnotatedHeld.anchorAt (AnchorSrc.sequencer
       100))) sAnnotatedHeld.weaver.heldCmps,
       (sAnnotatedHeld.cmp 0).anchors.contains (sAnnotatedHeld.anchorAt (AnchorSrc.sequencer 100)) = false ∧
       List.find? (fun e => e.snd.cu == 0 && e.snd.anchors.contains (sAnnotatedHeld.anchorAt (AnchorSrc.sequencer
       100))) sAnnotatedHeld.weaver.heldCmps = some (z.fst, z.snd) ∧ sAnnotatedHeld.time.armed = true ∧
       sAnnotatedHeld.anchorAt (AnchorSrc.sequencer 100) = AnchorSrc.sequencer 100 ∧ z.snd.stationAt ≠ some 100 ∧
       z.snd.anchors = [AnchorSrc.sequencer 100]) ∧
    ((sAnchorOff.cmp 0).anchors.contains (AnchorSrc.sequencer (sAnchorOff.sessionTime 100)) = true ∧
     (sAnchorOff.time.armed = false ∨ sAnchorOff.cuEnabled 0 = false)) ∧
    ((sAnchorTwice.cmp 0).anchors.contains (AnchorSrc.sequencer (sAnchorTwice.sessionTime 100)) = true ∧
     sAnchorTwice.time.armed = true ∧ sAnchorTwice.cuEnabled 0 = true ∧
     (sAnchorTwice.cmp 0).stationAt = some (sAnchorTwice.sessionTime 100)) ∧
    ((sAnchorLost.cmp 0).anchors.contains (AnchorSrc.sequencer (sAnchorLost.sessionTime 100)) = true ∧
     sAnchorLost.time.armed = true ∧ sAnchorLost.cuEnabled 0 = true ∧
     (sAnchorLost.cmp 0).stationAt ≠ some (sAnchorLost.sessionTime 100) ∧
     (sAnchorLost.ref (sAnchorLost.cuRef 0)).phase ≠ RefPhase.ready) ∧
    ((sAnchored.cmp 0).anchors.contains (AnchorSrc.sequencer (sAnchored.sessionTime 100)) = true ∧
     sAnchored.time.armed = true ∧ sAnchored.cuEnabled 0 = true ∧
     (sAnchored.cmp 0).stationAt ≠ some (sAnchored.sessionTime 100) ∧
     (sAnchored.ref (sAnchored.cuRef 0)).phase = RefPhase.ready ∧ (sAnchored.cmp 0).step = none ∧
     (sAnchored.cmp 0).queue = []) ∧
    ((sAnchorBusy.cmp 0).anchors.contains (AnchorSrc.sequencer (sAnchorBusy.sessionTime 100)) = true ∧
     sAnchorBusy.time.armed = true ∧ sAnchorBusy.cuEnabled 0 = true ∧
     (sAnchorBusy.cmp 0).stationAt ≠ some (sAnchorBusy.sessionTime 100) ∧
     (sAnchorBusy.ref (sAnchorBusy.cuRef 0)).phase = RefPhase.ready ∧ (sAnchorBusy.cmp 0).step ≠ none) ∧
    ((sAnchorBusy.cmp 0).anchors.contains (AnchorSrc.station (sAnchorBusy.sessionTime 100) 9#16) = true ∧
     sAnchorBusy.time.armed = true ∧ sAnchorBusy.cuEnabled 0 = true ∧
     (sAnchorBusy.ref (sAnchorBusy.cuRef 0)).phase = RefPhase.ready ∧
     sAnchorBusy.sameTime 0 (sAnchorBusy.sessionTime 100) = none ∧
     refStepOf (sAnchorBusy.ref (sAnchorBusy.cuRef 0)) (9#16).toNat = none) ∧
    ((sAnchorTwice.cmp 0).anchors.contains (AnchorSrc.station (sAnchorTwice.sessionTime 100) 119#16) = true ∧
     sAnchorTwice.time.armed = true ∧ sAnchorTwice.cuEnabled 0 = true ∧
     (sAnchorTwice.ref (sAnchorTwice.cuRef 0)).phase = RefPhase.ready ∧
     sAnchorTwice.sameTime 0 (sAnchorTwice.sessionTime 100) = none ∧ (sAnchorTwice.cmp 0).step = none ∧
     (sAnchorTwice.cmp 0).queue = [] ∧ (∃ i ∈ refStepOf (sAnchorTwice.ref (sAnchorTwice.cuRef 0)) (119#16).toNat, True)) ∧
    ((sReset.cmp 0).step = none) ∧
    (∃ st ∈ (sAnchorBusy.cmp 0).step,
       firstDue st.margin (List.filter (fun i => i.check == false && decide (CmpItem.due st.margin i ≤ st.decision) &&
       sAnchorBusy.cmpDone 0 (CmpItem.due st.margin i)) st.items) = none) ∧
    (∃ st ∈ (sCmpStep.cmp 0).step,
       ∃ i ∈ firstDue st.margin (List.filter (fun i => i.check == false && decide (CmpItem.due st.margin i ≤
       st.decision) && sCmpStep.cmpDone 0 (CmpItem.due st.margin i)) st.items), True) ∧
    (∃ st ∈ (sCmpStepLoss.cmp 0).step,
       ∃ i ∈ firstDue st.margin (List.filter (fun i => i.check == false && decide (CmpItem.due st.margin i ≤
       st.decision) && sCmpStepLoss.cmpDone 0 (CmpItem.due st.margin i)) st.items),
       sCmpStepLoss.nextEdge 0 (CmpItem.due st.margin i) = none ∧
       List.filter (fun j => decide (CmpItem.due st.margin j ≤ CmpItem.due st.margin i)) st.items = [i] ∧
       sCmpStepLoss.itemUnjudged 0 st.margin i = true) ∧
    (∃ st ∈ (sCmpStep.cmp 0).step,
       ∃ i ∈ firstDue st.margin (List.filter (fun i => i.check == false && decide (CmpItem.due st.margin i ≤
       st.decision) && sCmpStep.cmpDone 0 (CmpItem.due st.margin i)) st.items),
       sCmpStep.nextEdge 0 (CmpItem.due st.margin i) = none ∧
       List.filter (fun j => decide (CmpItem.due st.margin j ≤ CmpItem.due st.margin i)) st.items = [i] ∧
       sCmpStep.itemUnjudged 0 st.margin i = false) ∧
    ((sAnchorBusy.ref (sAnchorBusy.cuRef 0)).phase = RefPhase.ready ∧
     (∃ c ∈ sAnchorBusy.refCus (sAnchorBusy.cuRef 0), c ∈ sAnchorBusy.refCus (sAnchorBusy.cuRef 0)) ∧
     (∃ st ∈ (sAnchorBusy.cmp 0).step, ∃ off ∈ sAnchorBusy.playFault (sAnchorBusy.cuRef 0) (st.index + 1) (some 5), True)) ∧
    ((sStepLost.ref (sStepLost.cuRef 0)).phase ≠ RefPhase.ready ∧
     (∃ st ∈ (sStepLost.cmp 0).step, ∃ off ∈ sStepLost.playFault (sStepLost.cuRef 0) (st.index + 1) (some 5), True)) ∧
    (∃ st ∈ (sAnchorBusy.cmp 0).step, sAnchorBusy.playFault (sAnchorBusy.cuRef 0) (st.index + 1) none = none ∧
       sAnchorBusy.cmpDone 0 st.decision = false) ∧
    ((sCmpCheck.cmp 0).queue = [] ∧
     (∃ st ∈ (sCmpCheck.cmp 0).step, sCmpCheck.playFault (sCmpCheck.cuRef 0) (st.index + 1) none = none ∧
       sCmpCheck.cmpDone 0 st.decision = true)) ∧
    ((∃ n ∈ (sStepNext.cmp 0).queue.head?, (sStepNext.cmp 0).queue = n :: (sStepNext.cmp 0).queue.tail) ∧
     (∃ st ∈ (sStepNext.cmp 0).step, sStepNext.playFault (sStepNext.cuRef 0) (st.index + 1) none = none ∧
       sStepNext.cmpDone 0 st.decision = true)) ∧
    ((compared.ref 0).phase = RefPhase.ready ∧ (∃ cu ∈ compared.refCus 0, cu ∈ compared.refCus 0)) ∧
    ((sReset.ref 0).phase ≠ RefPhase.ready) := by
  and_intros <;> decide +kernel

theorem witness_DefinitionCommands :
    ((sLevels.box 0).started = true ∧ (sLevels.box 0).ready = none ∧ sLevels.power.stopped = false ∧
     (∃ img ∈ (sLevels.box 0).taken, img.code = 34 ∧ getLe img.payload 0 1 = 0)) ∧
    ((sLevels.box 0).started = true ∧ (sLevels.box 0).ready = none ∧ sLevels.power.stopped = false ∧
     (∃ img ∈ (sLevels.box 0).taken, img.code = 34 ∧ getLe img.payload 0 1 = 0 ∧ objKey 0 0 ≠ objKey 2 (hIdx img.handle))) ∧
    ((sTerms.box 0).started = true ∧ (sTerms.box 0).ready = none ∧ sTerms.power.stopped = false ∧
     (∃ img ∈ (sTerms.box 0).taken, img.code = 34 ∧ getLe img.payload 0 1 = 1 ∧
       ∀ i < qTermN img.payload, sTerms.termAbsent (qTerm img.payload i) = false)) ∧
    ((sTerms.box 0).started = true ∧ (sTerms.box 0).ready = none ∧ sTerms.power.stopped = false ∧
     (∃ img ∈ (sTerms.box 0).taken, img.code = 34 ∧ getLe img.payload 0 1 = 1 ∧
       (∀ i < qTermN img.payload, sTerms.termAbsent (qTerm img.payload i) = false) ∧
         objKey 0 0 ≠ objKey 7 (hIdx img.handle))) ∧
    ((sHist.box 0).started = true ∧ (sHist.box 0).ready = none ∧ sHist.power.stopped = false ∧
     (∃ img ∈ (sHist.box 0).taken, img.code = 35 ∧ sHist.weaveAbsent (hWeave img.payload) = false ∧
       ∀ h ∈ sHist.weaver.place.histPlace (hIdx img.handle), sHist.isRetired (uHu h.hu) = false)) ∧
    ((sHist.box 0).started = true ∧ (sHist.box 0).ready = none ∧ sHist.power.stopped = false ∧
     (∃ img ∈ (sHist.box 0).taken, img.code = 35 ∧ sHist.weaveAbsent (hWeave img.payload) = false ∧
       (∀ h ∈ sHist.weaver.place.histPlace (hIdx img.handle), sHist.isRetired (uHu h.hu) = false) ∧
       objKey 0 0 ≠ objKey 4 (hIdx img.handle))) ∧
    ((sIval.box 0).started = true ∧ (sIval.box 0).ready = none ∧ sIval.power.stopped = false ∧
     (∃ img ∈ (sIval.box 0).taken, img.code = 36 ∧ sIval.weaveAbsent (iWeave img.payload) = false)) ∧
    ((sIval.box 0).started = true ∧ (sIval.box 0).ready = none ∧ sIval.power.stopped = false ∧
     (∃ img ∈ (sIval.box 0).taken, img.code = 36 ∧ sIval.weaveAbsent (iWeave img.payload) = false ∧
       objKey 0 0 ≠ objKey 5 (hIdx img.handle))) ∧
    ((sBind.box 0).started = true ∧ (sBind.box 0).ready = none ∧ sBind.power.stopped = false ∧
     (∃ img ∈ (sBind.box 0).taken, img.code = 37 ∧
       ∀ r ∈ sBind.laneRefusals (hIdx img.handle) img.payload ++ sBind.podRefusals (hIdx img.handle) img.payload, r = none)) ∧
    ((sBind.box 0).started = true ∧ (sBind.box 0).ready = none ∧ sBind.power.stopped = false ∧
     (∃ img ∈ (sBind.box 0).taken, img.code = 37 ∧
       (∀ r ∈ sBind.laneRefusals (hIdx img.handle) img.payload ++ sBind.podRefusals (hIdx img.handle) img.payload,
       r = none) ∧ objKey 0 0 ≠ objKey 1 (hIdx img.handle))) ∧
    ((sWindow.box 0).started = true ∧ (sWindow.box 0).ready = none ∧ sWindow.power.stopped = false ∧
     (∃ img ∈ (sWindow.box 0).taken, img.code = 38)) ∧
    ((sWindow.box 0).started = true ∧ (sWindow.box 0).ready = none ∧ sWindow.power.stopped = false ∧
     (∃ img ∈ (sWindow.box 0).taken, img.code = 38 ∧ objKey 0 0 ≠ objKey 8 (hIdx img.handle))) ∧
    ((sCompare.box 0).started = true ∧ (sCompare.box 0).ready = none ∧ sCompare.power.stopped = false ∧
     (∃ img ∈ (sCompare.box 0).taken, img.code = 39 ∧ sCompare.weaveAbsent (cWeave img.payload) = false)) ∧
    ((sCompare.box 0).started = true ∧ (sCompare.box 0).ready = none ∧ sCompare.power.stopped = false ∧
     (∃ img ∈ (sCompare.box 0).taken, img.code = 39 ∧ sCompare.weaveAbsent (cWeave img.payload) = false ∧
       objKey 0 0 ≠ objKey 6 (hIdx img.handle))) ∧
    ((sTermsAbsent.box 0).started = true ∧ (sTermsAbsent.box 0).ready = none ∧ sTermsAbsent.power.stopped = false ∧
     (∃ img ∈ (sTermsAbsent.box 0).taken, img.code = 34 ∧ getLe img.payload 0 1 = 1 ∧ ∃ i, i < qTermN img.payload ∧
       sTermsAbsent.termAbsent (qTerm img.payload i) = true)) ∧
    ((sHistAbsent.box 0).started = true ∧ (sHistAbsent.box 0).ready = none ∧ sHistAbsent.power.stopped = false ∧
     (∃ img ∈ (sHistAbsent.box 0).taken, img.code = 35 ∧ sHistAbsent.weaveAbsent (hWeave img.payload) = true)) ∧
    ((sIvalAbsent.box 0).started = true ∧ (sIvalAbsent.box 0).ready = none ∧ sIvalAbsent.power.stopped = false ∧
     (∃ img ∈ (sIvalAbsent.box 0).taken, img.code = 36 ∧ sIvalAbsent.weaveAbsent (iWeave img.payload) = true ∧
       srcOnWeave (iSrc img.payload % 2 ^ 16) = true)) ∧
    ((sBindAbsent.box 0).started = true ∧ (sBindAbsent.box 0).ready = none ∧ sBindAbsent.power.stopped = false ∧
     (∃ img ∈ (sBindAbsent.box 0).taken, img.code = 37 ∧
       ∃ r ∈ sBindAbsent.laneRefusals (hIdx img.handle) img.payload ++ sBindAbsent.podRefusals (hIdx img.handle)
       img.payload, r ≠ none)) ∧
    ((sCompareAbsent.box 0).started = true ∧ (sCompareAbsent.box 0).ready = none ∧ sCompareAbsent.power.stopped = false ∧
     (∃ img ∈ (sCompareAbsent.box 0).taken, img.code = 39 ∧ sCompareAbsent.weaveAbsent (cWeave img.payload) = true)) := by
  and_intros <;> decide +kernel

theorem witness_DeviceRequests :
    (compressedBase.pcie.busMaster = true) ∧
    (sReading.pcie.busMaster = true ∧ (sReading.box 0).started = true ∧ (sReading.box 0).ready = none ∧
     (∃ img ∈ (sReading.box 0).taken, True) ∧
     (∃ r ∈ sReading.pcie.outstanding ++ sReading.pcie.queued, r ∈ sReading.pcie.outstanding ++ sReading.pcie.queued ∧
       r.owner = ReadOwner.command 0)) ∧
    (compressedBase.pcie.busMaster = true ∨ compressedBase.pcie.linkUp = false) ∧
    (sReset.pcie.busMaster = false ∧ sReset.pcie.linkUp = true ∧ sReset.pcie.d3hot = false) ∧
    (sAbortStream.pcie.busMaster = false ∧ sAbortStream.pcie.linkUp = true ∧
     (∃ i ∈ sAbortStream.streams.keys, i ∈ sAbortStream.streams.keys)) ∧
    (∃ tag ∈ sAbandoned.pcie.abandoned, List.find? (fun x => x.tag == tag) sAbandoned.pcie.outstanding = none ∧
       tag ∈ sAbandoned.pcie.abandoned) ∧
    (List.find? (fun x => x.tag == 0) sReset.pcie.outstanding = none ∧ ¬0 ∈ sReset.pcie.abandoned) ∧
    (sFetching.pcie.queued = [] ∧
     (∃ r ∈ List.find? (fun x => x.tag == 3) sFetching.pcie.outstanding,
       sFetching.now < r.since + usFt * timeoutUs sFetching.pcie.completionTimeout.toNat)) ∧
    (sFetchingLate.pcie.queued = [] ∧
     (∃ r ∈ List.find? (fun x => x.tag == 3) sFetchingLate.pcie.outstanding,
       r.since + usFt * timeoutUs sFetchingLate.pcie.completionTimeout.toNat ≤ sFetchingLate.now)) ∧
    (sReadingLate.pcie.queued = [] ∧ (sReadingLate.box 0).started = true ∧ (sReadingLate.box 0).ready = none ∧
     (∃ img ∈ (sReadingLate.box 0).taken, True) ∧
     (∃ r ∈ List.find? (fun x => x.tag == 3) sReadingLate.pcie.outstanding,
       r.since + usFt * timeoutUs sReadingLate.pcie.completionTimeout.toNat ≤ sReadingLate.now ∧
       r.owner = ReadOwner.command 0)) ∧
    (sFetchingLate.pcie.queued = [] ∧ sFetchingLate.hasStream 0 = true ∧
     (∃ r ∈ List.find? (fun x => x.tag == 3) sFetchingLate.pcie.outstanding,
       r.since + usFt * timeoutUs sFetchingLate.pcie.completionTimeout.toNat ≤ sFetchingLate.now ∧
       r.owner = ReadOwner.descriptors 0 0 1)) ∧
    (sFetching.pcie.queued = [] ∧ (∃ r ∈ List.find? (fun x => x.tag == 3) sFetching.pcie.outstanding, True)) ∧
    (sReading.pcie.queued = [] ∧
     (∃ r ∈ List.find? (fun x => x.tag == 3) sReading.pcie.outstanding, r.owner = ReadOwner.command 0 ∧
       ∀ x ∈ sReading.pcie.outstanding, x.owner = r.owner → x.tag = 3)) ∧
    (sReadingTwo.pcie.queued = [] ∧
     (∃ r ∈ List.find? (fun x => x.tag == 3) sReadingTwo.pcie.outstanding, r.owner = ReadOwner.command 0 ∧
       ∃ x ∈ sReadingTwo.pcie.outstanding, x.owner = r.owner ∧ x.tag ≠ 3)) ∧
    (sReading.pcie.queued = [] ∧ CplStatus.unsupported ≠ CplStatus.success ∧ (sReading.box 0).started = true ∧
     (sReading.box 0).ready = none ∧ (∃ img ∈ (sReading.box 0).taken, True) ∧
     (∃ r ∈ List.find? (fun x => x.tag == 3) sReading.pcie.outstanding, r.owner = ReadOwner.command 0)) ∧
    (sFetching.pcie.queued = [] ∧ sFetching.hasStream 0 = true ∧ CplStatus.unsupported ≠ CplStatus.success ∧
     (∃ r ∈ List.find? (fun x => x.tag == 3) sFetching.pcie.outstanding, r.owner = ReadOwner.descriptors 0 0 1)) ∧
    (sFetching.pcie.queued = [] ∧ sFetching.hasStream 0 = true ∧ 1 ≠ 0 ∧
     (∃ r ∈ List.find? (fun x => x.tag == 3) sFetching.pcie.outstanding, r.owner = ReadOwner.descriptors 0 0 1 ∧
       ∀ x ∈ sFetching.pcie.outstanding, x.owner = r.owner → x.tag = 3)) := by
  and_intros <;> decide +kernel

theorem witness_DiagDecompressCommand :
    ((sDiagNoEngine.box 0).started = true ∧ (sDiagNoEngine.box 0).ready = none ∧ sDiagNoEngine.power.stopped = false ∧
     sDiagNoEngine.desAtWork none = [] ∧
     (∃ img ∈ (sDiagNoEngine.box 0).taken, img.code = 113 ∧ sDiagNoEngine.frozenChan (hIdx img.handle) = none)) ∧
    ((sDiagWaits.box 0).started = true ∧ (sDiagWaits.box 0).ready = none ∧ sDiagWaits.power.stopped = false ∧
     sDiagWaits.desAtWork none ≠ [] ∧
     (∃ img ∈ (sDiagWaits.box 0).taken, img.code = 113 ∧ img.handle = 0 ∧ (sDiagWaits.spareDe none = none ∨
       diagLen img.payload ≠ 0 ∧ sDiagWaits.hostData 0 = none))) := by
  and_intros <;> decide +kernel


/-- No host bytes, host bytes that came, and a member of a reference. -/
theorem witness_DiagDecompressCommand_runs :
    (Safety.Running sDiagEmpty 0 (cmd 0x71 0 (diagBytes 0 2 0)) ∧ diagLen (diagBytes 0 2 0) = 0 ∧
      sDiagEmpty.spareDe none ≠ none) ∧
    (Safety.Running sDiagBus 0 (cmd 0x71 0 (diagBytes 22 2 1000)) ∧ diagLen (diagBytes 22 2 1000) ≠ 0 ∧
     sDiagBus.hostData 0 = some memberA ∧ sDiagBus.spareDe none ≠ none ∧ sDiagBus.pcie.busMaster = true ∧
     sDiagBus.pcie.linkUp = true ∧ sDiagBus.pcie.d3hot = false) ∧
    (Safety.Running sDiagMember 0 (cmd 0x71 0x30010000 (diagBytes 0 2 1000)) ∧
      sDiagMember.frozenChan (hIdx 0x30010000) = none ∧
     diagLen (diagBytes 0 2 1000) < (sDiagMember.ref (hIdx 0x30010000)).members.length ∧ sDiagMember.spareDe none ≠ none) := by
  unfold Safety.Running
  and_intros <;> decide +kernel

theorem witness_DisarmAndForceMark :
    ((sDisarm.box 0).started = true ∧ (sDisarm.box 0).ready = none ∧ sDisarm.power.stopped = false ∧
     sDisarm.time.armed = true ∧ (∃ img ∈ (sDisarm.box 0).taken, img.code = 65)) ∧
    ((sDisarmWaiting.box 0).started = true ∧ (sDisarmWaiting.box 0).ready = none ∧ sDisarmWaiting.power.stopped = false ∧
     sDisarmWaiting.time.armed = false ∧ (∃ img ∈ (sDisarmWaiting.box 0).taken, img.code = 65)) ∧
    ((sForceDisarmed.box 0).started = true ∧ (sForceDisarmed.box 0).ready = none ∧ sForceDisarmed.power.stopped = false ∧
     (∃ img ∈ (sForceDisarmed.box 0).taken, img.code = 66 ∧
       (sForceDisarmed.weaver.place.seqSq (hIdx img.handle) = none ∨ sForceDisarmed.time.armed = false ∨
       sForceDisarmed.isShed (objKey 2 (hIdx img.handle)) = true))) ∧
    ((sForce.box 0).started = true ∧ (sForce.box 0).ready = none ∧ sForce.power.stopped = false ∧
     sForce.time.armed = true ∧
     (∃ img ∈ (sForce.box 0).taken, img.code = 66 ∧ sForce.isShed (objKey 2 (hIdx img.handle)) = false ∧
       ∃ q ∈ sForce.weaver.place.seqSq (hIdx img.handle), ∀ f ∈ (sForce.seq q).forced, f.snd.snd ≠ 0)) ∧
    ((sForce.box 0).started = true ∧ (sForce.box 0).ready = none ∧ sForce.power.stopped = false ∧
     sForce.time.armed = true ∧
     (∃ img ∈ (sForce.box 0).taken, img.code = 66 ∧ sForce.isShed (objKey 2 (hIdx img.handle)) = false ∧
       ∃ q ∈ sForce.weaver.place.seqSq (hIdx img.handle), (∀ f ∈ (sForce.seq q).forced, f.snd.snd ≠ 0) ∧ 0 ≠ q)) := by
  and_intros <;> decide +kernel

theorem witness_DoorbellIgnored :
    (sReset.served = true ∧ sReset.doorbellOk attr32 = true ∧
     ((sReset.box 0).owner = true ∨ BitVec.setWidth 16 0#32 ≠ iCommitImage.tag ∨ (0#32).toNat / 2 ^ 16 ≠ 0)) ∧
    (sAbortCommit.served = true ∧ sAbortCommit.doorbellOk attr32 = true ∧
     ((sAbortCommit.box 0).owner = true ∨ BitVec.setWidth 16 0#32 ≠ iCommitImage.tag ∨ (0#32).toNat / 2 ^ 16 ≠ 0) ∧
     (sAbortCommit.box 0).owner = true) := by
  and_intros <;> decide +kernel

theorem witness_DoorbellsTakenOrRefused :
    (sReset.served = true ∧ sReset.doorbellOk attr32 = true ∧ (sReset.box 0).owner = false ∧
     BitVec.setWidth 16 7#32 = iUnknown.tag ∧ (7#32).toNat / 2 ^ 16 = 0 ∧ (0 < 8 ∨ sReset.mbx.order = []) ∧
     cmdClass (BitVec.toNat iUnknown.code) = none) ∧
    (sReset.served = true ∧ sReset.doorbellOk attr32 = true ∧ (sReset.box 0).owner = false ∧
     BitVec.setWidth 16 7#32 = iCommitImage.tag ∧ (7#32).toNat / 2 ^ 16 = 0 ∧ (0 < 8 ∨ sReset.mbx.order = []) ∧
     (∃ c ∈ cmdClass (BitVec.toNat iCommitImage.code), boxClass 0 < c)) ∧
    (sReset.served = true ∧ sReset.doorbellOk attr32 = true ∧ (sReset.box 8).owner = false ∧
     BitVec.setWidth 16 7#32 = iTooLong.tag ∧ (7#32).toNat / 2 ^ 16 = 0 ∧ (8 < 8 ∨ sReset.mbx.order = []) ∧
     4032 < BitVec.toNat iTooLong.length ∧ (∃ c ∈ cmdClass (BitVec.toNat iTooLong.code), c ≤ boxClass 8)) := by
  and_intros <;> decide +kernel

theorem witness_EndpointErrors :
    (0 ≠ 22) := by
  and_intros <;> decide +kernel

theorem witness_EngineCommands :
    ((sReset.passBinds (sReset.ceSlotStream 0 0)).ceWorks 0 = false ∨
       (sReset.passBinds (sReset.ceSlotStream 0 0)).ceSlotValid 0 0 = false ∨
       (sReset.passBinds (sReset.ceSlotStream 0 0)).canDma = false ∨
       (sReset.passBinds (sReset.ceSlotStream 0 0)).hasStream (sReset.ceSlotStream 0 0) = false ∨
       (sReset.passBinds (sReset.ceSlotStream 0 0)).strFormat (sReset.ceSlotStream 0 0) = 0 ∨
       ((sReset.passBinds (sReset.ceSlotStream 0 0)).stream (sReset.ceSlotStream 0 0)).dmaFailed = true) ∧
    ((sEngineTwo.passBinds (sEngineTwo.ceSlotStream 0 0)).ceWorks 0 = true ∧
     (sEngineTwo.passBinds (sEngineTwo.ceSlotStream 0 0)).ceSlotValid 0 0 = true ∧
     (sEngineTwo.passBinds (sEngineTwo.ceSlotStream 0 0)).canDma = true ∧
     (sEngineTwo.passBinds (sEngineTwo.ceSlotStream 0 0)).hasStream (sEngineTwo.ceSlotStream 0 0) = true ∧
     (sEngineTwo.passBinds (sEngineTwo.ceSlotStream 0 0)).strFormat (sEngineTwo.ceSlotStream 0 0) ≠ 0 ∧
     ((sEngineTwo.passBinds (sEngineTwo.ceSlotStream 0 0)).stream (sEngineTwo.ceSlotStream 0 0)).dmaFailed = false ∧
     (sEngineTwo.passBinds (sEngineTwo.ceSlotStream 0 0)).yields 0 0 = true) ∧
    ((sMemberEnds.passBinds (sMemberEnds.ceSlotStream 0 0)).ceWorks 0 = true ∧
     (sMemberEnds.passBinds (sMemberEnds.ceSlotStream 0 0)).ceSlotValid 0 0 = true ∧
     (sMemberEnds.passBinds (sMemberEnds.ceSlotStream 0 0)).canDma = true ∧
     (sMemberEnds.passBinds (sMemberEnds.ceSlotStream 0 0)).hasStream (sMemberEnds.ceSlotStream 0 0) = true ∧
     (sMemberEnds.passBinds (sMemberEnds.ceSlotStream 0 0)).strFormat (sMemberEnds.ceSlotStream 0 0) ≠ 0 ∧
     ((sMemberEnds.passBinds (sMemberEnds.ceSlotStream 0 0)).stream (sMemberEnds.ceSlotStream 0 0)).dmaFailed = false ∧
     (sMemberEnds.passBinds (sMemberEnds.ceSlotStream 0 0)).yields 0 0 = false ∧
     ((sMemberEnds.passBinds (sMemberEnds.ceSlotStream 0 0)).stream (sMemberEnds.ceSlotStream 0 0)).atEnd = true) ∧
    ((compressedBase.passBinds (compressedBase.ceSlotStream 0 0)).ceWorks 0 = true ∧
     (compressedBase.passBinds (compressedBase.ceSlotStream 0 0)).ceSlotValid 0 0 = true ∧
     (compressedBase.passBinds (compressedBase.ceSlotStream 0 0)).canDma = true ∧
     (compressedBase.passBinds (compressedBase.ceSlotStream 0 0)).hasStream (compressedBase.ceSlotStream 0 0) = true ∧
     (compressedBase.passBinds (compressedBase.ceSlotStream 0 0)).strFormat (compressedBase.ceSlotStream 0 0) ≠ 0 ∧
     ((compressedBase.passBinds (compressedBase.ceSlotStream 0 0)).stream (compressedBase.ceSlotStream 0 0)).dmaFailed
       = false ∧
     (compressedBase.passBinds (compressedBase.ceSlotStream 0 0)).yields 0 0 = false ∧
     ((compressedBase.passBinds (compressedBase.ceSlotStream 0 0)).stream (compressedBase.ceSlotStream 0 0)).atEnd = false ∧
     (compressedBase.passBinds (compressedBase.ceSlotStream 0 0)).postedRoom (compressedBase.ceSlotStream 0 0) <
       (compressedBase.passBinds (compressedBase.ceSlotStream 0 0)).strBlock (compressedBase.ceSlotStream 0 0) + 4096) ∧
    ((sEngine.passBinds (sEngine.ceSlotStream 0 0)).ceWorks 0 = true ∧
     (sEngine.passBinds (sEngine.ceSlotStream 0 0)).ceSlotValid 0 0 = true ∧
     (sEngine.passBinds (sEngine.ceSlotStream 0 0)).canDma = true ∧
     (sEngine.passBinds (sEngine.ceSlotStream 0 0)).hasStream (sEngine.ceSlotStream 0 0) = true ∧
     (sEngine.passBinds (sEngine.ceSlotStream 0 0)).strFormat (sEngine.ceSlotStream 0 0) ≠ 0 ∧
     ((sEngine.passBinds (sEngine.ceSlotStream 0 0)).stream (sEngine.ceSlotStream 0 0)).dmaFailed = false ∧
     (sEngine.passBinds (sEngine.ceSlotStream 0 0)).yields 0 0 = false ∧
     ((sEngine.passBinds (sEngine.ceSlotStream 0 0)).stream (sEngine.ceSlotStream 0 0)).atEnd = false ∧
     (sEngine.passBinds (sEngine.ceSlotStream 0 0)).strBlock (sEngine.ceSlotStream 0 0) + 4096 ≤ (sEngine.passBinds
       (sEngine.ceSlotStream 0 0)).postedRoom (sEngine.ceSlotStream 0 0) ∧
     (State.takeBlock (sEngine.ceSlotStream 0 0) ((sEngine.passBinds (sEngine.ceSlotStream 0 0)).strBlock
       (sEngine.ceSlotStream 0 0)) ((sEngine.passBinds (sEngine.ceSlotStream 0 0)).strMember (sEngine.ceSlotStream 0
       0)) 1 [] (sEngine.passBinds (sEngine.ceSlotStream 0 0))).snd ≠ [] ∧
     (State.takeBlock (sEngine.ceSlotStream 0 0) ((sEngine.passBinds (sEngine.ceSlotStream 0 0)).strBlock
       (sEngine.ceSlotStream 0 0)) ((sEngine.passBinds (sEngine.ceSlotStream 0 0)).strMember (sEngine.ceSlotStream 0
       0)) 1 [] (sEngine.passBinds (sEngine.ceSlotStream 0 0))).snd.all ((sEngine.passBinds (sEngine.ceSlotStream 0
       0)).segRead (sEngine.ceSlotStream 0 0)) = false) ∧
    ((sEngineRead.passBinds (sEngineRead.ceSlotStream 0 0)).ceWorks 0 = true ∧
     (sEngineRead.passBinds (sEngineRead.ceSlotStream 0 0)).ceSlotValid 0 0 = true ∧
     (sEngineRead.passBinds (sEngineRead.ceSlotStream 0 0)).canDma = true ∧
     (sEngineRead.passBinds (sEngineRead.ceSlotStream 0 0)).hasStream (sEngineRead.ceSlotStream 0 0) = true ∧
     (sEngineRead.passBinds (sEngineRead.ceSlotStream 0 0)).strFormat (sEngineRead.ceSlotStream 0 0) ≠ 0 ∧
     ((sEngineRead.passBinds (sEngineRead.ceSlotStream 0 0)).stream (sEngineRead.ceSlotStream 0 0)).dmaFailed = false ∧
     (sEngineRead.passBinds (sEngineRead.ceSlotStream 0 0)).yields 0 0 = false ∧
     ((sEngineRead.passBinds (sEngineRead.ceSlotStream 0 0)).stream (sEngineRead.ceSlotStream 0 0)).atEnd = false ∧
     (sEngineRead.passBinds (sEngineRead.ceSlotStream 0 0)).strBlock (sEngineRead.ceSlotStream 0 0) + 4096 ≤
       (sEngineRead.passBinds (sEngineRead.ceSlotStream 0 0)).postedRoom (sEngineRead.ceSlotStream 0 0) ∧
     (State.takeBlock (sEngineRead.ceSlotStream 0 0) ((sEngineRead.passBinds (sEngineRead.ceSlotStream 0 0)).strBlock
       (sEngineRead.ceSlotStream 0 0)) ((sEngineRead.passBinds (sEngineRead.ceSlotStream 0 0)).strMember
       (sEngineRead.ceSlotStream 0 0)) 1 [] (sEngineRead.passBinds (sEngineRead.ceSlotStream 0 0))).snd ≠ [] ∧
     (State.takeBlock (sEngineRead.ceSlotStream 0 0) ((sEngineRead.passBinds (sEngineRead.ceSlotStream 0 0)).strBlock
       (sEngineRead.ceSlotStream 0 0)) ((sEngineRead.passBinds (sEngineRead.ceSlotStream 0 0)).strMember
       (sEngineRead.ceSlotStream 0 0)) 1 [] (sEngineRead.passBinds (sEngineRead.ceSlotStream 0 0))).snd.all
       ((sEngineRead.passBinds (sEngineRead.ceSlotStream 0 0)).segRead (sEngineRead.ceSlotStream 0 0)) = true) ∧
    (sReset.ceWorks 0 = false ∨
       (sReset.weaver.place.streams.any fun p => p.obj == (0#16).toNat && p.engine == some 0 && p.slot.isNone) = false
       ∨ ((List.range 8).any fun j => sReset.ceSlotValid 0 j && sReset.ceSlotStream 0 j == (0#16).toNat) = true ∨
       bit (sReset.ceSlot 0 0) 13 = true ∨ sReset.slotGives 0 0 = false ∨ sReset.waiting (0#16).toNat = false ∧
       (sReset.stream (0#16).toNat).atEnd = false) ∧
    (true = sRotating.weaver.place.streams.any fun p => p.obj == (0#16).toNat && p.engine == some 0 && p.slot.isNone ∧
     false = (List.range 8).any fun j => sRotating.ceSlotValid 0 j && sRotating.ceSlotStream 0 j == (0#16).toNat ∧
     (0#16).toNat < 4096 ∧ sRotating.ceWorks 0 = true ∧ bit (sRotating.ceSlot 0 0) 13 = false ∧
     sRotating.slotGives 0 0 = true ∧
     (sRotating.waiting (0#16).toNat = true ∨ (sRotating.stream (0#16).toNat).atEnd = true) ∧
     (false = false ∨ (sRotating.stream (0#16).toNat).ctxLost = true)) ∧
    (true = sJobAway.weaver.place.cmps.any fun c => c.de == 0 && c.obj == (0#16).toNat ∧
     sJobAway.isRetired (uDe 0) = false ∧ (sJobAway.de 0).away = true ∧ (false = false ∨ (sJobAway.de 0).ctxLost = true)) ∧
    (true = sJobAway.weaver.place.cmps.any fun c => c.de == 0 && c.obj == (0#16).toNat ∧
     sJobAway.isRetired (uDe 0) = false ∧ (sJobAway.de 0).away = true ∧ (sJobAway.de 0).ctxLost = false) ∧
    (sReset.isRetired (uDe 0) = true ∨
       (sReset.weaver.place.cmps.any fun c => c.de == 0 && c.obj == (0#16).toNat) = false ∨ (sReset.de 0).away = false) ∧
    (sReset.underTest (uCe 0) = false) ∧
    (sReset.underTest (uDe 0) = false ∧ ((sReset.de 0).corrupt = [] ∨ false = false ∨ sReset.desAtWork (some 0) ≠ [])) ∧
    (sDeCorrupt.underTest (uDe 0) = false ∧ sDeCorrupt.desAtWork (some 0) = [] ∧
     (∃ c ∈ (sDeCorrupt.de 0).corrupt.head?, (sDeCorrupt.de 0).corrupt = [c])) ∧
    (sCeHost.isRetired (uCe 0) = false ∧
     (∃ x ∈ List.find? (fun x => decide (x.unit = uCe 0)) sCeHost.weaver.tests, x.classes = [7] ∧ x.byError = false)) ∧
    (sDeHost.isRetired (uDe 0) = false ∧ (sDeHost.de 0).corrupt = [] ∧
     (∃ x ∈ List.find? (fun x => decide (x.unit = uDe 0)) sDeHost.weaver.tests, x.classes = [7] ∧ x.byError = false)) ∧
    (sCeTest.isRetired (uCe 0) = false ∧
     List.countP (fun t => t.fst == uCe 0 && decide (BitVec.toNat sCeTest.opSeconds ≤ t.snd + transientWindow))
       sCeTest.weaver.transients < 2 ∧
     (∃ x ∈ List.find? (fun x => decide (x.unit = uCe 0)) sCeTest.weaver.tests, x.classes = [7] ∧ x.byError = true)) ∧
    (sDeTest.isRetired (uDe 0) = false ∧
     List.countP (fun t => t.fst == uDe 0 && decide (BitVec.toNat sDeTest.opSeconds ≤ t.snd + transientWindow))
       sDeTest.weaver.transients < 2 ∧
     (sDeTest.de 0).corrupt = [] ∧
     (∃ x ∈ List.find? (fun x => decide (x.unit = uDe 0)) sDeTest.weaver.tests, x.classes = [7] ∧ x.byError = true)) ∧
    (sCeHost.isRetired (uCe 0) = false ∧
     (∃ x ∈ List.find? (fun x => decide (x.unit = uCe 0)) sCeHost.weaver.tests, x.classes = [7])) ∧
    (sDeHost.isRetired (uDe 0) = false ∧
     (∃ x ∈ List.find? (fun x => decide (x.unit = uDe 0)) sDeHost.weaver.tests, x.classes = [7])) ∧
    (sReset.isRetired (uDe 0) = false ∧ none = List.find? (fun c => c.ref == 0 && c.member == 0) (sReset.de 0).corrupt ∧
     sReset.spareDe (some 0) ≠ none ∧
     rerunResult 0 (match sReset.storedMember 0 0 with | some m => m.rerun | none => (⟨0, 0, 0, 0⟩ : Rerun)) ≠ 0) ∧
    (sReset.isRetired (uDe 0) = false ∧ none = List.find? (fun c => c.ref == 0 && c.member == 0) (sReset.de 0).corrupt ∧
     sReset.spareDe (some 0) ≠ none ∧
     rerunResult 0 (match sReset.storedMember 0 0 with | some m => m.rerun | none => (⟨1, 0, 0, 0⟩ : Rerun)) = 0) ∧
    (sDeAlone.isRetired (uDe 0) = false ∧
     none = List.find? (fun c => c.ref == 0 && c.member == 0) (sDeAlone.de 0).corrupt ∧ sDeAlone.spareDe (some 0) = none ∧
     sDeAlone.desAtWork (some 0) = []) ∧
    (sDeBusy.isRetired (uDe 0) = false ∧ none = List.find? (fun c => c.ref == 0 && c.member == 0) (sDeBusy.de 0).corrupt ∧
     sDeBusy.spareDe (some 0) = none ∧ sDeBusy.desAtWork (some 0) ≠ []) ∧
    (sDeCorrupt.isRetired (uDe 0) = false ∧
     List.find? (fun c => c.ref == 0 && c.member == 1) (sDeCorrupt.de 0).corrupt ≠ none) ∧
    (sDeRetired.isRetired (uDe 0) = true) := by
  and_intros <;> decide +kernel

theorem witness_EveryCommandFrame : exec .stationTimeout sReset = .next sReset := rfl

theorem witness_FirmwareUpdate :
    ((sFwUnsigned.box 0).started = true ∧ (sFwUnsigned.box 0).ready = none ∧ sFwUnsigned.power.stopped = false ∧
     (∃ img ∈ (sFwUnsigned.box 0).taken, img.code = 144 ∧ fwSize img.payload ≠ 0 ∧ sFwUnsigned.fwSigned img.payload = false)) ∧
    ((sFwCancel.box 0).started = true ∧ (sFwCancel.box 0).ready = none ∧ sFwCancel.power.stopped = false ∧
     (∃ img ∈ (sFwCancel.box 0).taken, img.code = 144 ∧ fwSize img.payload = 0 ∧
       ((slice img.payload 8 152).all fun b => b = 0) = true)) ∧
    ((sFwChunkNone.box 0).started = true ∧ (sFwChunkNone.box 0).ready = none ∧ sFwChunkNone.power.stopped = false ∧
     sFwChunkNone.power.fw.staging = none ∧ (∃ img ∈ (sFwChunkNone.box 0).taken, img.code = 145)) ∧
    ((sFwCommitNone.box 0).started = true ∧ (sFwCommitNone.box 0).ready = none ∧ sFwCommitNone.power.stopped = false ∧
     sFwCommitNone.power.fw.staging = none ∧ (∃ img ∈ (sFwCommitNone.box 0).taken, img.code = 146)) ∧
    (∃ img ∈ (sFwChunkWaits.box 0).taken, (sFwChunkWaits.box 0).started = true ∧
       (sFwChunkWaits.box 0).ready = none ∧ sFwChunkWaits.power.stopped = false ∧
       sFwChunkWaits.power.fw.staging = some (manifest, []) ∧ img.code = 145 ∧
       fwChunkOff img.payload + fwChunkLen img.payload ≤ fwSize manifest ∧ fwChunkLen img.payload ≠ 0 ∧
       sFwChunkWaits.hostData 0 = none) ∧
    (∃ img ∈ (sFwChunk.box 0).taken, (sFwChunk.box 0).started = true ∧ (sFwChunk.box 0).ready = none ∧
      sFwChunk.power.stopped = false ∧
       sFwChunk.power.fw.staging = some (manifest, []) ∧ img.code = 145 ∧
       fwChunkOff img.payload + fwChunkLen img.payload ≤ fwSize manifest ∧ fwChunkLen img.payload ≠ 0 ∧
       ∃ bytes ∈ sFwChunk.hostData 0, True) ∧
    (∃ img ∈ (sFwChunkEmpty.box 0).taken, (sFwChunkEmpty.box 0).started = true ∧
       (sFwChunkEmpty.box 0).ready = none ∧ sFwChunkEmpty.power.stopped = false ∧
       sFwChunkEmpty.power.fw.staging = some (manifest, []) ∧ img.code = 145 ∧ fwChunkOff img.payload ≤ fwSize manifest ∧
       fwChunkLen img.payload = 0) ∧
    (∃ img ∈ (sFwChunkPast.box 0).taken, (sFwChunkPast.box 0).started = true ∧ (sFwChunkPast.box 0).ready = none ∧
      sFwChunkPast.power.stopped = false ∧
       sFwChunkPast.power.fw.staging = some (manifest, []) ∧ img.code = 145 ∧
       fwSize manifest < fwChunkOff img.payload + fwChunkLen img.payload) ∧
    ((sFwCommit.box 0).started = true ∧ (sFwCommit.box 0).ready = none ∧ sFwCommit.power.stopped = false ∧
       sFwCommit.power.fw.staging = some (manifestEmpty, []) ∧ (∃ img ∈ (sFwCommit.box 0).taken, img.code = 146) ∧
     sha384 (fwImage (manifestEmpty, [])) = fwDigest manifestEmpty) ∧
    ((sFwMismatch.box 0).started = true ∧ (sFwMismatch.box 0).ready = none ∧ sFwMismatch.power.stopped = false ∧
       sFwMismatch.power.fw.staging = some ((manifestOf 0 fwZeros 0), []) ∧
         (∃ img ∈ (sFwMismatch.box 0).taken, img.code = 146) ∧
     sha384 (fwImage ((manifestOf 0 fwZeros 0), [])) ≠ fwDigest (manifestOf 0 fwZeros 0)) ∧
    (sProgramming.power.fw.running < 2 ∧ (∃ new ∈ sProgramming.power.fw.programming, True)) ∧
    (sReset.power.fw.programming = none) := by
  and_intros <;> decide +kernel


theorem manifest_signed :
    ecdsaP384 testX testY (sha384 (manifest.take 0x40)) (getLe manifest 0x40 48) (getLe manifest 0x70 48) = true := by
  decide +kernel

theorem fwSigned_manifest {s : State} (hx : s.power.fw.keyX = testX) (hy : s.power.fw.keyY = testY) :
    s.fwSigned manifest = true := by
  rw [State.fwSigned, FwState.signed, hx, hy]
  exact manifest_signed

theorem witness_FirmwareUpdate_signed :
    (Safety.Running sFwRollback 0 (cmd 0x90 0 manifest) ∧ fwSize manifest ≠ 0 ∧ sFwRollback.fwSigned manifest = true ∧
     fwRollback manifest < sFwRollback.ledger.rollback.toNat) ∧
    (Safety.Running sFwBusy 0 (cmd 0x90 0 manifest) ∧ sFwBusy.power.fw.staging ≠ none ∧ sFwBusy.fwSigned manifest = true ∧
     sFwBusy.ledger.rollback.toNat ≤ fwRollback manifest) ∧
    (Safety.Running sFwBegin 0 (cmd 0x90 0 manifest) ∧ sFwBegin.power.fw.staging = none ∧
     sFwBegin.power.fw.programming = none ∧ sFwBegin.fwSigned manifest = true ∧
     sFwBegin.ledger.rollback.toNat ≤ fwRollback manifest) := by
  unfold Safety.Running
  and_intros <;> first
    | with_reducible refine fwSigned_manifest ?_ ?_ <;> rfl
    | decide +kernel

theorem witness_FunctionLevelReset :
    (sResetting.power.powered = true ∧ sResetting.power.perst = false ∧ sResetting.power.stopped = false ∧
     sResetting.power.hotDie = none ∧ sResetting.pcie.flr = true) := by
  and_intros <;> decide +kernel

theorem witness_HistogramCommands :
    ((sSwapNone.box 0).started = true ∧ (sSwapNone.box 0).ready = none ∧ sSwapNone.power.stopped = false ∧
     (∃ img ∈ (sSwapNone.box 0).taken, (Instr.histogramSnapshotSwap 0 = Instr.histogramSnapshotSwap 0 ∧ img.code = 81 ∧
       getLe img.payload 0 4 % 2 = 1 ∨ Instr.histogramSnapshotSwap 0 = Instr.histogramClear 0 ∧ img.code = 82) ∧
       sSwapNone.weaver.place.histPlace (hIdx img.handle) = none)) ∧
    ((sSwapRetired.box 0).started = true ∧ (sSwapRetired.box 0).ready = none ∧ sSwapRetired.power.stopped = false ∧
     (∃ img ∈ (sSwapRetired.box 0).taken, (Instr.histogramSnapshotSwap 0 = Instr.histogramSnapshotSwap 0 ∧
       img.code = 81 ∧ getLe img.payload 0 4 % 2 = 1 ∨ Instr.histogramSnapshotSwap 0 = Instr.histogramClear 0 ∧
       img.code = 82) ∧
         ∃ h ∈ sSwapRetired.weaver.place.histPlace (hIdx img.handle), sSwapRetired.isRetired (uHu h.hu) = true)) ∧
    ((sSwapDisarmed.box 0).started = true ∧ (sSwapDisarmed.box 0).ready = none ∧ sSwapDisarmed.power.stopped = false ∧
     sSwapDisarmed.time.armed = false ∧
     (∃ img ∈ (sSwapDisarmed.box 0).taken, (Instr.histogramSnapshotSwap 0 = Instr.histogramSnapshotSwap 0 ∧
       img.code = 81 ∧ getLe img.payload 0 4 % 2 = 1 ∨ Instr.histogramSnapshotSwap 0 = Instr.histogramClear 0 ∧
       img.code = 82) ∧
       ∃ h ∈ sSwapDisarmed.weaver.place.histPlace (hIdx img.handle), sSwapDisarmed.isRetired (uHu h.hu) = false)) ∧
    ((sSwap.box 0).started = true ∧ (sSwap.box 0).ready = none ∧ sSwap.power.stopped = false ∧ sSwap.time.armed = true ∧
     (∃ img ∈ (sSwap.box 0).taken, img.code = 81 ∧ getLe img.payload 0 4 = 1 ∧
       ∃ h ∈ sSwap.weaver.place.histPlace (hIdx img.handle), sSwap.isRetired (uHu h.hu) = false ∧
       (∀ c ∈ (sSwap.region h.hu h.region).closings, c.tClose ≠ sSwap.slotStart) ∧
       ¬sSwap.slotStart ∈ (sSwap.region h.hu h.region).missed ∧ sSwap.otherBankFree h.hu h.region = true ∧
       (sSwap.region h.hu h.region).deferred = [])) ∧
    ((sSwapFetch.box 0).started = true ∧ (sSwapFetch.box 0).ready = none ∧ sSwapFetch.power.stopped = false ∧
     sSwapFetch.time.armed = true ∧
     (∃ img ∈ (sSwapFetch.box 0).taken, img.code = 81 ∧ getLe img.payload 0 4 = 3 ∧
       sSwapFetch.imageServes (hIdx img.handle) = true ∧
       (∃ x ∈ (sSwapFetch.image (hIdx img.handle)).images.head?,
       (sSwapFetch.image (hIdx img.handle)).images = x :: (sSwapFetch.image (hIdx img.handle)).images.tail ∧
       x.snd.length ≤ getLe img.payload 4 4) ∧
       ∃ h ∈ sSwapFetch.weaver.place.histPlace (hIdx img.handle), sSwapFetch.isRetired (uHu h.hu) = false ∧
       (∀ c ∈ (sSwapFetch.region h.hu h.region).closings, c.tClose ≠ sSwapFetch.slotStart) ∧
       ¬sSwapFetch.slotStart ∈ (sSwapFetch.region h.hu h.region).missed ∧
       sSwapFetch.otherBankFree h.hu h.region = true ∧ (sSwapFetch.region h.hu h.region).deferred = [])) ∧
    ((sSwapFetchBus.box 0).started = true ∧ (sSwapFetchBus.box 0).ready = none ∧ sSwapFetchBus.power.stopped = false ∧
     sSwapFetchBus.time.armed = true ∧ sSwapFetchBus.pcie.busMaster = true ∧ sSwapFetchBus.pcie.linkUp = true ∧
     sSwapFetchBus.pcie.d3hot = false ∧
     (∃ img ∈ (sSwapFetchBus.box 0).taken, img.code = 81 ∧ getLe img.payload 0 4 = 3 ∧
       sSwapFetchBus.imageServes (hIdx img.handle) = true ∧
       (∃ x ∈ (sSwapFetchBus.image (hIdx img.handle)).images.head?,
       (sSwapFetchBus.image (hIdx img.handle)).images = x :: (sSwapFetchBus.image (hIdx img.handle)).images.tail ∧
       x.snd.length ≤ getLe img.payload 4 4) ∧
       ∃ h ∈ sSwapFetchBus.weaver.place.histPlace (hIdx img.handle), sSwapFetchBus.isRetired (uHu h.hu) = false ∧
       (∀ c ∈ (sSwapFetchBus.region h.hu h.region).closings, c.tClose ≠ sSwapFetchBus.slotStart) ∧
       ¬sSwapFetchBus.slotStart ∈ (sSwapFetchBus.region h.hu h.region).missed ∧
       sSwapFetchBus.otherBankFree h.hu h.region = true ∧ (sSwapFetchBus.region h.hu h.region).deferred = [])) ∧
    ((sSwapTwice.box 0).started = true ∧ (sSwapTwice.box 0).ready = none ∧ sSwapTwice.power.stopped = false ∧
     sSwapTwice.time.armed = true ∧
     (∃ img ∈ (sSwapTwice.box 0).taken, img.code = 81 ∧ getLe img.payload 0 4 = 1 ∧
       ∃ h ∈ sSwapTwice.weaver.place.histPlace (hIdx img.handle), sSwapTwice.isRetired (uHu h.hu) = false ∧
       ∃ c ∈ (sSwapTwice.region h.hu h.region).closings, c.tClose = sSwapTwice.slotStart)) ∧
    ((sSwapBusy.box 0).started = true ∧ (sSwapBusy.box 0).ready = none ∧ sSwapBusy.power.stopped = false ∧
     sSwapBusy.time.armed = true ∧
     (∃ img ∈ (sSwapBusy.box 0).taken, img.code = 81 ∧ getLe img.payload 0 4 = 1 ∧
       ∃ h ∈ sSwapBusy.weaver.place.histPlace (hIdx img.handle), sSwapBusy.isRetired (uHu h.hu) = false ∧
       (∀ c ∈ (sSwapBusy.region h.hu h.region).closings, c.tClose ≠ sSwapBusy.slotStart) ∧
       ¬sSwapBusy.slotStart ∈ (sSwapBusy.region h.hu h.region).missed ∧
       (sSwapBusy.otherBankFree h.hu h.region = false ∨ (sSwapBusy.region h.hu h.region).deferred ≠ []))) ∧
    ((sSwapMissed.box 0).started = true ∧ (sSwapMissed.box 0).ready = none ∧ sSwapMissed.power.stopped = false ∧
     sSwapMissed.time.armed = true ∧
     (∃ img ∈ (sSwapMissed.box 0).taken, img.code = 81 ∧ getLe img.payload 0 4 = 1 ∧
       ∃ h ∈ sSwapMissed.weaver.place.histPlace (hIdx img.handle), sSwapMissed.isRetired (uHu h.hu) = false ∧
       (∀ c ∈ (sSwapMissed.region h.hu h.region).closings, c.tClose ≠ sSwapMissed.slotStart) ∧
       sSwapMissed.slotStart ∈ (sSwapMissed.region h.hu h.region).missed)) ∧
    ((sSwapFetchNone.box 0).started = true ∧ (sSwapFetchNone.box 0).ready = none ∧ sSwapFetchNone.power.stopped = false ∧
     sSwapFetchNone.time.armed = true ∧
     (∃ img ∈ (sSwapFetchNone.box 0).taken, img.code = 81 ∧ getLe img.payload 0 4 = 3 ∧
       (sSwapFetchNone.image (hIdx img.handle)).images = [] ∧
       ∃ h ∈ sSwapFetchNone.weaver.place.histPlace (hIdx img.handle), sSwapFetchNone.isRetired (uHu h.hu) = false)) ∧
    ((sSwapFetchShort.box 0).started = true ∧ (sSwapFetchShort.box 0).ready = none ∧
     sSwapFetchShort.power.stopped = false ∧ sSwapFetchShort.time.armed = true ∧
     (∃ img ∈ (sSwapFetchShort.box 0).taken, img.code = 81 ∧ getLe img.payload 0 4 = 3 ∧
       (∃ x ∈ (sSwapFetchShort.image (hIdx img.handle)).images.head?,
       (sSwapFetchShort.image (hIdx img.handle)).images = x :: (sSwapFetchShort.image (hIdx img.handle)).images.tail ∧
       getLe img.payload 4 4 < x.snd.length) ∧
       ∃ h ∈ sSwapFetchShort.weaver.place.histPlace (hIdx img.handle), sSwapFetchShort.isRetired (uHu h.hu) = false)) ∧
    ((sSwapFetchWaits.box 0).started = true ∧ (sSwapFetchWaits.box 0).ready = none ∧
     sSwapFetchWaits.power.stopped = false ∧ sSwapFetchWaits.time.armed = true ∧
     (∃ img ∈ (sSwapFetchWaits.box 0).taken, img.code = 81 ∧ getLe img.payload 0 4 = 3 ∧
       sSwapFetchWaits.imageServes (hIdx img.handle) = false ∧
       (∃ x ∈ (sSwapFetchWaits.image (hIdx img.handle)).images.head?,
       (sSwapFetchWaits.image (hIdx img.handle)).images = x :: (sSwapFetchWaits.image (hIdx img.handle)).images.tail ∧
       x.snd.length ≤ getLe img.payload 4 4) ∧
       ∃ h ∈ sSwapFetchWaits.weaver.place.histPlace (hIdx img.handle), sSwapFetchWaits.isRetired (uHu h.hu) = false)) ∧
    ((sClear.box 0).started = true ∧ (sClear.box 0).ready = none ∧ sClear.power.stopped = false ∧
     sClear.time.armed = true ∧
     (∃ img ∈ (sClear.box 0).taken, img.code = 82 ∧
       ∃ h ∈ sClear.weaver.place.histPlace (hIdx img.handle), sClear.isRetired (uHu h.hu) = false ∧
       ∀ c ∈ (sClear.region h.hu h.region).closings, c.tClose ≠ sClear.slotStart)) ∧
    ((sClearSwapped.box 0).started = true ∧ (sClearSwapped.box 0).ready = none ∧ sClearSwapped.power.stopped = false ∧
     sClearSwapped.time.armed = true ∧
     (∃ img ∈ (sClearSwapped.box 0).taken, img.code = 82 ∧
       ∃ h ∈ sClearSwapped.weaver.place.histPlace (hIdx img.handle), sClearSwapped.isRetired (uHu h.hu) = false ∧
       ∃ c ∈ (sClearSwapped.region h.hu h.region).closings, c.tClose = sClearSwapped.slotStart)) ∧
    ((sFetchRetired.box 0).started = true ∧ (sFetchRetired.box 0).ready = none ∧ sFetchRetired.power.stopped = false ∧
     (∃ img ∈ (sFetchRetired.box 0).taken, img.code = 81 ∧ getLe img.payload 0 4 = 2 ∧
       ∃ p ∈ sFetchRetired.weaver.place.histPlace (hIdx img.handle), sFetchRetired.isRetired (uHu p.hu) = true)) ∧
    ((sFetchNone.box 0).started = true ∧ (sFetchNone.box 0).ready = none ∧ sFetchNone.power.stopped = false ∧
     (∃ img ∈ (sFetchNone.box 0).taken, img.code = 81 ∧ getLe img.payload 0 4 = 2 ∧
       (∀ p ∈ sFetchNone.weaver.place.histPlace (hIdx img.handle), sFetchNone.isRetired (uHu p.hu) = false) ∧
       (sFetchNone.image (hIdx img.handle)).images = [])) ∧
    ((sFetchShort.box 0).started = true ∧ (sFetchShort.box 0).ready = none ∧ sFetchShort.power.stopped = false ∧
     (∃ img ∈ (sFetchShort.box 0).taken, img.code = 81 ∧ getLe img.payload 0 4 = 2 ∧
       (∀ p ∈ sFetchShort.weaver.place.histPlace (hIdx img.handle), sFetchShort.isRetired (uHu p.hu) = false) ∧
       ∃ x ∈ (sFetchShort.image (hIdx img.handle)).images.head?,
       (sFetchShort.image (hIdx img.handle)).images = x :: (sFetchShort.image (hIdx img.handle)).images.tail ∧
       getLe img.payload 4 4 < x.snd.length)) ∧
    ((sFetchWaits.box 0).started = true ∧ (sFetchWaits.box 0).ready = none ∧ sFetchWaits.power.stopped = false ∧
     (∃ img ∈ (sFetchWaits.box 0).taken, img.code = 81 ∧ getLe img.payload 0 4 = 2 ∧
       (∀ p ∈ sFetchWaits.weaver.place.histPlace (hIdx img.handle), sFetchWaits.isRetired (uHu p.hu) = false) ∧
       sFetchWaits.imageServes (hIdx img.handle) = false ∧
       ∃ x ∈ (sFetchWaits.image (hIdx img.handle)).images.head?,
       (sFetchWaits.image (hIdx img.handle)).images = x :: (sFetchWaits.image (hIdx img.handle)).images.tail ∧
       x.snd.length ≤ getLe img.payload 4 4)) ∧
    ((sFetch.box 0).started = true ∧ (sFetch.box 0).ready = none ∧ sFetch.power.stopped = false ∧
     (∃ img ∈ (sFetch.box 0).taken, img.code = 81 ∧ getLe img.payload 0 4 = 2 ∧
       (∀ p ∈ sFetch.weaver.place.histPlace (hIdx img.handle), sFetch.isRetired (uHu p.hu) = false) ∧
       sFetch.imageServes (hIdx img.handle) = true ∧
       ∃ x ∈ (sFetch.image (hIdx img.handle)).images.head?,
       (sFetch.image (hIdx img.handle)).images = x :: (sFetch.image (hIdx img.handle)).images.tail ∧
       x.snd.length ≤ getLe img.payload 4 4)) ∧
    ((sFetchBus.box 0).started = true ∧ (sFetchBus.box 0).ready = none ∧ sFetchBus.power.stopped = false ∧
     sFetchBus.pcie.busMaster = true ∧ sFetchBus.pcie.linkUp = true ∧ sFetchBus.pcie.d3hot = false ∧
     (∃ img ∈ (sFetchBus.box 0).taken, img.code = 81 ∧ getLe img.payload 0 4 = 2 ∧
       (∀ p ∈ sFetchBus.weaver.place.histPlace (hIdx img.handle), sFetchBus.isRetired (uHu p.hu) = false) ∧
       sFetchBus.imageServes (hIdx img.handle) = true ∧
       ∃ x ∈ (sFetchBus.image (hIdx img.handle)).images.head?,
       (sFetchBus.image (hIdx img.handle)).images = x :: (sFetchBus.image (hIdx img.handle)).images.tail ∧
       x.snd.length ≤ getLe img.payload 4 4)) := by
  and_intros <;> decide +kernel

theorem witness_HistogramUnits :
    ((if sReset.huMap 0 = true then 2 else 4) ≤ (sReset.hist 0).valueOps ∨
       List.find? (fun v => !(sReset.region 0 v.region).blocked v.te && !(sReset.region 0 v.region).waitsClear v.te &&
       sReset.histHeld 0 v.te) ((sReset.hist 0).held ++ (sReset.hist 0).values) = none) ∧
    ((sHistBin.hist 0).valueOps < (if sHistBin.huMap 0 = true then 2 else 4) ∧
     (∃ v ∈ List.find? (fun v => !(sHistBin.region 0 v.region).blocked v.te && !(sHistBin.region 0 v.region).waitsClear
       v.te && sHistBin.histHeld 0 v.te) ((sHistBin.hist 0).held ++ (sHistBin.hist 0).values), True)) ∧
    ((sHistFlagged.hist 0).valueOps < (if sHistFlagged.huMap 0 = true then 2 else 4) ∧
     (∃ v ∈ List.find? (fun v => !(sHistFlagged.region 0 v.region).blocked v.te && !(sHistFlagged.region 0
       v.region).waitsClear v.te && sHistFlagged.histHeld 0 v.te) ((sHistFlagged.hist 0).held ++ (sHistFlagged.hist
       0).values), sHistFlagged.closingOf 0 v.region v.te = none ∧ v.flagged = true)) ∧
    ((sHistUnder.hist 0).valueOps < (if sHistUnder.huMap 0 = true then 2 else 4) ∧
     (∃ v ∈ List.find? (fun v => !(sHistUnder.region 0 v.region).blocked v.te && !(sHistUnder.region 0
       v.region).waitsClear v.te && sHistUnder.histHeld 0 v.te) ((sHistUnder.hist 0).held ++ (sHistUnder.hist
       0).values), sHistUnder.closingOf 0 v.region v.te = none ∧ v.x < sHistUnder.rgLo 0 v.region)) ∧
    ((sHistOver.hist 0).valueOps < (if sHistOver.huMap 0 = true then 2 else 4) ∧
     (∃ v ∈ List.find? (fun v => !(sHistOver.region 0 v.region).blocked v.te && !(sHistOver.region 0
       v.region).waitsClear v.te && sHistOver.histHeld 0 v.te) ((sHistOver.hist 0).held ++ (sHistOver.hist 0).values),
       sHistOver.closingOf 0 v.region v.te = none ∧ sHistOver.rgLo 0 v.region ≤ v.x ∧
       sHistOver.rgBins 0 v.region ≤ (v.x - sHistOver.rgLo 0 v.region).toNat / 2 ^ rgShift (sHistOver.rgCfg 0 v.region))) ∧
    ((sHistBin.hist 0).valueOps < (if sHistBin.huMap 0 = true then 2 else 4) ∧
     (∃ v ∈ List.find? (fun v => !(sHistBin.region 0 v.region).blocked v.te && !(sHistBin.region 0 v.region).waitsClear
       v.te && sHistBin.histHeld 0 v.te) ((sHistBin.hist 0).held ++ (sHistBin.hist 0).values),
       sHistBin.closingOf 0 v.region v.te = none ∧ sHistBin.rgLo 0 v.region ≤ v.x ∧
       (v.x - sHistBin.rgLo 0 v.region).toNat / 2 ^ rgShift (sHistBin.rgCfg 0 v.region) < sHistBin.rgBins 0 v.region)) ∧
    ((sHistClosedBusy.hist 0).valueOps < (if sHistClosedBusy.huMap 0 = true then 2 else 4) ∧
     (∃ v ∈ List.find? (fun v => !(sHistClosedBusy.region 0 v.region).blocked v.te && !(sHistClosedBusy.region 0
       v.region).waitsClear v.te && sHistClosedBusy.histHeld 0 v.te) ((sHistClosedBusy.hist 0).held ++
       (sHistClosedBusy.hist 0).values), ∃ k ∈ sHistClosedBusy.closingOf 0 v.region v.te, k.counters.length = 6 ∧
       k.lo ≤ v.x ∧ (v.x - k.lo).toNat / 2 ^ rgShift k.cfg < k.bins)) ∧
    (2 ≤ (sReset.hist 0).columnOps ∨
       List.find? (fun r => ((fun r => List.find? (fun x => !(sReset.region 0 r).blocked x.tr && !(sReset.region 0
       r).waitsClear x.tr && sReset.histHeld 0 x.columnEnd) (sReset.region 0 r).sweeps) r).isSome) (List.range 16) = none) ∧
    ((sHistMap.hist 0).columnOps < 2 ∧
     (∃ r ∈ List.find? (fun r => ((fun r => List.find? (fun x => !(sHistMap.region 0 r).blocked x.tr &&
       !(sHistMap.region 0 r).waitsClear x.tr && sHistMap.histHeld 0 x.columnEnd) (sHistMap.region 0 r).sweeps)
       r).isSome) (List.range 16),
       ∃ x ∈ (fun r => List.find? (fun x => !(sHistMap.region 0 r).blocked x.tr && !(sHistMap.region 0 r).waitsClear
       x.tr && sHistMap.histHeld 0 x.columnEnd) (sHistMap.region 0 r).sweeps) r, True)) ∧
    ((sHistMapLast.hist 0).columnOps < 2 ∧
     (∃ r ∈ List.find? (fun r => ((fun r => List.find? (fun x => !(sHistMapLast.region 0 r).blocked x.tr &&
       !(sHistMapLast.region 0 r).waitsClear x.tr && sHistMapLast.histHeld 0 x.columnEnd) (sHistMapLast.region 0
       r).sweeps) r).isSome) (List.range 16),
       ∃ x ∈ (fun r => List.find? (fun x => !(sHistMapLast.region 0 r).blocked x.tr && !(sHistMapLast.region 0
       r).waitsClear x.tr && sHistMapLast.histHeld 0 x.columnEnd) (sHistMapLast.region 0 r).sweeps) r,
       x.cols ≤ x.column + 1 ∧ sHistMapLast.closingOf 0 r x.tr = none)) ∧
    ((sReset.region 0 0).deferred = [] ∨ sReset.otherBankFree 0 0 = false) ∧
    (sHistDeferred.otherBankFree 0 0 = true ∧
     (∃ c ∈ (sHistDeferred.region 0 0).deferred.head?,
       (sHistDeferred.region 0 0).deferred = c :: (sHistDeferred.region 0 0).deferred.tail)) ∧
    ((sReset.hist 0).spillOrder = []) ∧
    (∃ r ∈ (sHistClosedBusy.hist 0).spillOrder.head?,
       (sHistClosedBusy.hist 0).spillOrder = r :: (sHistClosedBusy.hist 0).spillOrder.tail ∧
       sHistClosedBusy.spillReady 0 r = false) ∧
    (∃ r ∈ (sHistClosed.hist 0).spillOrder.head?,
       (sHistClosed.hist 0).spillOrder = r :: (sHistClosed.hist 0).spillOrder.tail ∧
       sHistClosed.spillReady 0 r = true ∧ ∃ c ∈ (sHistClosed.region 0 r).closing, True) ∧
    (∃ r ∈ (sHistGone.hist 0).spillOrder.head?,
       (sHistGone.hist 0).spillOrder = r :: (sHistGone.hist 0).spillOrder.tail ∧ sHistGone.spillReady 0 r = true ∧
       ∃ c ∈ (sHistGone.region 0 r).closing, c.gone = true) ∧
    (∃ r ∈ (sHistClosed.hist 0).spillOrder.head?,
       (sHistClosed.hist 0).spillOrder = r :: (sHistClosed.hist 0).spillOrder.tail ∧
       sHistClosed.spillReady 0 r = true ∧ ∃ c ∈ (sHistClosed.region 0 r).closing, c.gone = false) := by
  and_intros <;> decide +kernel

theorem witness_InputConfiguration :
    ((sLanes.box 0).started = true ∧ (sLanes.box 0).ready = none ∧ sLanes.power.stopped = false ∧
     (∃ img ∈ (sLanes.box 0).taken, img.code = 32 ∧
       ∀ k < cfgLaneN img.payload, sLanes.laneAbsent (getLe img.payload (cfgLaneOff k) 2) = false ∧
       sLanes.lnRetired (getLe img.payload (cfgLaneOff k) 2) = false ∧ separationOk img.payload (cfgLaneOff k) = true)) ∧
    ((sLanesAbsent.box 0).started = true ∧ (sLanesAbsent.box 0).ready = none ∧ sLanesAbsent.power.stopped = false ∧
     (∃ img ∈ (sLanesAbsent.box 0).taken, img.code = 32 ∧ ∃ k, k < cfgLaneN img.payload ∧
       (sLanesAbsent.laneAbsent (getLe img.payload (cfgLaneOff k) 2) = true ∨
       sLanesAbsent.lnRetired (getLe img.payload (cfgLaneOff k) 2) = true ∨
         separationOk img.payload (cfgLaneOff k) = false))) ∧
    ((sPods.box 0).started = true ∧ (sPods.box 0).ready = none ∧ sPods.power.stopped = false ∧
     (∃ img ∈ (sPods.box 0).taken, img.code = 33 ∧
       ∀ k < cfgPodN img.payload, sPods.portAbsent (getLe img.payload (cfgPodOff k) 1) = false)) ∧
    ((sPodsAbsent.box 0).started = true ∧ (sPodsAbsent.box 0).ready = none ∧ sPodsAbsent.power.stopped = false ∧
     (∃ img ∈ (sPodsAbsent.box 0).taken, img.code = 33 ∧ ∃ k, k < cfgPodN img.payload ∧
       sPodsAbsent.portAbsent (getLe img.payload (cfgPodOff k) 1) = true)) := by
  and_intros <;> decide +kernel

theorem witness_InquiryCommands :
    ((sInfo.box 0).started = true ∧ (sInfo.box 0).ready = none ∧ sInfo.power.stopped = false ∧
     (∃ img ∈ (sInfo.box 0).taken, img.code = 1)) ∧
    ((sStatus.box 0).started = true ∧ (sStatus.box 0).ready = none ∧ sStatus.power.stopped = false ∧
     (∃ img ∈ (sStatus.box 0).taken, img.code = 2 ∧ img.handle = 0)) ∧
    ((sStatusStream.box 0).started = true ∧ (sStatusStream.box 0).ready = none ∧ sStatusStream.power.stopped = false ∧
     (∃ img ∈ (sStatusStream.box 0).taken, img.code = 2 ∧ img.handle ≠ 0)) ∧
    ((sDigests.box 0).started = true ∧ (sDigests.box 0).ready = none ∧ sDigests.power.stopped = false ∧
     (∃ img ∈ (sDigests.box 0).taken, img.code = 3)) := by
  and_intros <;> decide +kernel

theorem witness_IntervalUnits :
    ((sReset.ival 0).events = []) ∧
    (∃ e ∈ (sIvLater.ival 0).events.head?, (sIvLater.ival 0).events = e :: (sIvLater.ival 0).events.tail ∧
       (sIvLater.iuBound 0 < ↑e.at_ ∨ ∃ w ∈ sIvLater.freeEnd 0, w ≤ e.at_)) ∧
    (∃ e ∈ (sIvCount.ival 0).events.head?, (sIvCount.ival 0).events = e :: (sIvCount.ival 0).events.tail ∧
       ↑e.at_ ≤ sIvCount.iuBound 0 ∧ ∀ w ∈ sIvCount.freeEnd 0, e.at_ < w) ∧
    (iuMode (sIvTouched.iuCfg 0) = 1 ∧ (iuGated (sIvTouched.iuCfg 0) = false ∨ (sIvTouched.ival 0).window.isSome = true) ∧
     (∃ e ∈ (sIvTouched.ival 0).events.head?, (sIvTouched.ival 0).events = e :: (sIvTouched.ival 0).events.tail ∧
       ↑e.at_ ≤ sIvTouched.iuBound 0 ∧ (∀ w ∈ sIvTouched.freeEnd 0, e.at_ < w) ∧ e.ev = IvEv.b true ∧
       ∃ t0 ∈ (sIvTouched.ival 0).start, (sIvTouched.ival 0).touched t0 e.at_ = true)) ∧
    (iuMode (sIvSkipped.iuCfg 0) = 1 ∧ (iuGated (sIvSkipped.iuCfg 0) = false ∨ (sIvSkipped.ival 0).window.isSome = true) ∧
     (∃ e ∈ (sIvSkipped.ival 0).events.head?, (sIvSkipped.ival 0).events = e :: (sIvSkipped.ival 0).events.tail ∧
       ↑e.at_ ≤ sIvSkipped.iuBound 0 ∧ (∀ w ∈ sIvSkipped.freeEnd 0, e.at_ < w) ∧ e.ev = IvEv.b true ∧
       (∃ l ∈ (sIvSkipped.ival 0).lastTime, e.at_ < l + 16384) ∧
       ∃ t0 ∈ (sIvSkipped.ival 0).start, (sIvSkipped.ival 0).touched t0 e.at_ = false)) ∧
    (iuMode (sIvStop.iuCfg 0) = 1 ∧ (iuGated (sIvStop.iuCfg 0) = false ∨ (sIvStop.ival 0).window.isSome = true) ∧
     (∃ e ∈ (sIvStop.ival 0).events.head?, (sIvStop.ival 0).events = e :: (sIvStop.ival 0).events.tail ∧
       ↑e.at_ ≤ sIvStop.iuBound 0 ∧ (∀ w ∈ sIvStop.freeEnd 0, e.at_ < w) ∧ e.ev = IvEv.b true ∧
       (∀ l ∈ (sIvStop.ival 0).lastTime, l + 16384 ≤ e.at_) ∧
       ∃ t0 ∈ (sIvStop.ival 0).start, (sIvStop.ival 0).touched t0 e.at_ = false)) ∧
    ((iuGated (sIvStart.iuCfg 0) = false ∨ (sIvStart.ival 0).window.isSome = true) ∧ iuMode (sIvStart.iuCfg 0) = 1 ∧
     (∃ e ∈ (sIvStart.ival 0).events.head?, (sIvStart.ival 0).events = e :: (sIvStart.ival 0).events.tail ∧
       ↑e.at_ ≤ sIvStart.iuBound 0 ∧ (∀ w ∈ sIvStart.freeEnd 0, e.at_ < w) ∧ e.ev = IvEv.a true)) ∧
    ((iuGated (sIvCount.iuCfg 0) = false ∨ (sIvCount.ival 0).window.isSome = true) ∧
     (iuMode (sIvCount.iuCfg 0) = 4 ∨ iuMode (sIvCount.iuCfg 0) = 5) ∧
     (∃ e ∈ (sIvCount.ival 0).events.head?, (sIvCount.ival 0).events = e :: (sIvCount.ival 0).events.tail ∧
       ↑e.at_ ≤ sIvCount.iuBound 0 ∧ (∀ w ∈ sIvCount.freeEnd 0, e.at_ < w) ∧ e.ev = IvEv.a true)) ∧
    (sReset.time.armed = false ∨ sReset.sessionTime (pinStamp ⟨30000, false, false⟩).fst < sReset.time.armTime) ∧
    (compared.time.armed = true ∧ compared.time.armTime ≤ compared.sessionTime (pinStamp ⟨30000, false, false⟩).fst) ∧
    (sIvGate.time.armed = true ∧ sIvGate.time.armTime ≤ sIvGate.sessionTime (pinStamp ⟨30000, false, false⟩).fst ∧
     0 < 16 ∧ iuEnable (sIvGate.iuCfg 0) = true ∧ sIvGate.isShed (objKey 5 (iuJob (sIvGate.iuCfg 0))) = false ∧
     (sIvGate.ival 0).origin ≤ sIvGate.sessionTime (pinStamp ⟨30000, false, false⟩).fst ∧
     iuGated (sIvGate.iuCfg 0) = true ∧ iuGate (sIvGate.iuCfg 0) = 0) ∧
    (sIvGateSource.time.armed = true ∧
     sIvGateSource.time.armTime ≤ sIvGateSource.sessionTime (pinStamp ⟨30000, false, false⟩).fst ∧ 0 < 16 ∧
     iuEnable (sIvGateSource.iuCfg 0) = true ∧ sIvGateSource.isShed (objKey 5 (iuJob (sIvGateSource.iuCfg 0))) = false ∧
     (sIvGateSource.ival 0).origin ≤ sIvGateSource.sessionTime (pinStamp ⟨30000, false, false⟩).fst ∧
     (iuMode (sIvGateSource.iuCfg 0) = 2 ∨ iuMode (sIvGateSource.iuCfg 0) = 4 ∨ iuMode (sIvGateSource.iuCfg 0) = 5) ∧
     sIvGateSource.iuSrcA 0 / 2 ^ 13 = 4 ∧ sIvGateSource.iuSrcA 0 % 4 = 0 ∧
     polTakes (iuPolA (sIvGateSource.iuCfg 0)) true = true) ∧
    (sReset.freeEnd 0 = none) ∧
    (∃ w ∈ sIvCount.freeEnd 0, (sIvCount.iuBound 0 + 1 < ↑w ∨ sIvCount.time.armed = false ∨
       ∃ e ∈ (sIvCount.ival 0).events.head?, e.at_ < w)) ∧
    (sIvFree.time.armed = true ∧
     (∃ w ∈ sIvFree.freeEnd 0, ↑w ≤ sIvFree.iuBound 0 + 1 ∧
       ∀ e ∈ (sIvFree.ival 0).events.head?, w ≤ e.at_)) ∧
    (iuMode (sIvOrphan.iuCfg 0) = 1 ∧ iuGated (sIvOrphan.iuCfg 0) = false ∧ (sIvOrphan.ival 0).start = none ∧
     (∃ e ∈ (sIvOrphan.ival 0).events.head?, (sIvOrphan.ival 0).events = e :: (sIvOrphan.ival 0).events.tail ∧
       ↑e.at_ ≤ sIvOrphan.iuBound 0 ∧ (∀ w ∈ sIvOrphan.freeEnd 0, e.at_ < w) ∧ e.ev = IvEv.b true)) := by
  and_intros <;> decide +kernel

theorem witness_LaneFaultsAndCalibration :
    (sArmStandby.compOn 0 Comp.l = false) ∧
    (sReset.compOn 0 Comp.l = true ∧ sReset.isRetired (uLane 0) = false) ∧
    (sReset.underTest (uLane 0) = false) ∧
    (sTdcTest.isRetired (uLane 0) = false ∧ sTdcTest.lnRetired 0 = false ∧
     (∃ x ∈ List.find? (fun x => decide (x.unit = uLane 0)) sTdcTest.weaver.tests, x.classes = [3] ∧
       (x.byError = false ∨
       List.countP (fun t => t.fst == uLane 0 && decide (BitVec.toNat sTdcTest.opSeconds ≤ t.snd + transientWindow))
       sTdcTest.weaver.transients < 2))) ∧
    (sTdcTest.isRetired (uLane 0) = false ∧ sTdcTest.lnRetired 0 = false ∧
     (∃ x ∈ List.find? (fun x => decide (x.unit = uLane 0)) sTdcTest.weaver.tests, x.classes = [3])) ∧
    (sArmStandby.compOn 0 Comp.l = false ∨ (0 - sArmStandby.threshold 0 Comp.l).natAbs ≤ 8) ∧
    (sReset.compOn 0 Comp.l = true ∧ 8 < (0 - sReset.threshold 0 Comp.l).natAbs ∧ sReset.regF (STK_SPARE (0 / 16)) 0 2 = 0) ∧
    (sSpareUsed.compOn 0 Comp.l = true ∧ 8 < (0 - sSpareUsed.threshold 0 Comp.l).natAbs ∧
     sSpareUsed.regF (STK_SPARE (0 / 16)) 0 2 = 1 ∧
     sSpareUsed.regF (STK_SPARE (0 / 16)) 2 5 ≠ 2 * (0 % 16) + compBit Comp.l) ∧
    ((sSweep.stake 0).sweeping = true ∧ (sSweep.stake 0).waiting = [] ∧
     sSweep.isRetired (uDac 0 (sSweep.regF (STK_SPARE 0) 2 5)) = false ∧
     (∃ x ∈ List.find? (fun x => decide (x.unit = uDac 0 (sSweep.regF (STK_SPARE 0) 2 5))) sSweep.weaver.tests,
       x.classes = [4] ∧ (x.byError = false ∨
       List.countP (fun t => t.fst == uDac 0 (sSweep.regF (STK_SPARE 0) 2 5) && decide (BitVec.toNat sSweep.opSeconds ≤
       t.snd + transientWindow)) sSweep.weaver.transients < 2))) ∧
    ((sSweep.stake 0).sweeping = true ∧ (sSweep.stake 0).waiting = [] ∧
     sSweep.isRetired (uDac 0 (sSweep.regF (STK_SPARE 0) 2 5)) = false ∧
     (∃ x ∈ List.find? (fun x => decide (x.unit = uDac 0 (sSweep.regF (STK_SPARE 0) 2 5))) sSweep.weaver.tests,
       x.classes = [4])) ∧
    (sReset.stakeAbsent 0 = false ∧ sReset.asleep = false ∧
     (∃ n ∈ stakeLanes 0, n ∈ stakeLanes 0 ∧ sReset.laneAbsent n = false ∧ tempFar (119#16) (sReset.lane n).calTemp = true)) ∧
    (sArmStandby.stakeAbsent 0 = true ∨ sArmStandby.asleep = true) ∧
    (∀ n ∈ sReset.weaver.calibrating, n < 192) ∧
    ((∀ n ∈ sCalibrating.weaver.calibrating, n < 192) ∧
     (∃ n ∈ sCalibrating.weaver.calibrating, n ∈ sCalibrating.weaver.calibrating ∧
       ∃ x ∈ List.find? (fun r => ↑r.lane == n) calPass, x.failStep = none)) ∧
    ((∀ n ∈ sCalibrating.weaver.calibrating, n < 192) ∧
     (∃ n ∈ sCalibrating.weaver.calibrating, n ∈ sCalibrating.weaver.calibrating ∧
       ∃ x ∈ List.find? (fun r => ↑r.lane == n) calPass, x.failStep ≠ none)) := by
  and_intros <;> decide +kernel

theorem witness_LedgerCommands :
    ((sLedgerRead.box 0).started = true ∧ (sLedgerRead.box 0).ready = none ∧ sLedgerRead.power.stopped = false ∧
     (∃ img ∈ (sLedgerRead.box 0).taken, img.code = 96)) ∧
    ((sChallenge.box 0).started = true ∧ (sChallenge.box 0).ready = none ∧ sChallenge.power.stopped = false ∧
     (∃ img ∈ (sChallenge.box 0).taken, img.code = 97)) ∧
    ((sClearNoKey.box 0).started = true ∧ (sClearNoKey.box 0).ready = none ∧ sClearNoKey.power.stopped = false ∧
     sClearNoKey.ledger.key = none ∧ (∃ img ∈ (sClearNoKey.box 0).taken, img.code = 98)) ∧
    ((sClearVolatile.box 0).started = true ∧ (sClearVolatile.box 0).ready = none ∧ sClearVolatile.power.stopped = false ∧
     sClearVolatile.ledger.key ≠ none ∧ sClearVolatile.ledgerVolatile = true ∧
     (∃ img ∈ (sClearVolatile.box 0).taken, img.code = 98)) ∧
    ((sClearWrong.box 0).started = true ∧ (sClearWrong.box 0).ready = none ∧ sClearWrong.power.stopped = false ∧
     sClearWrong.ledgerVolatile = false ∧
     (∃ img ∈ (sClearWrong.box 0).taken, img.code = 98 ∧
       ∃ key ∈ sClearWrong.ledger.key, (sClearWrong.flushLedger none).clearAuthentic key img.payload = false)) ∧
    ((sClearRight.box 0).started = true ∧ (sClearRight.box 0).ready = none ∧ sClearRight.power.stopped = false ∧
     sClearRight.ledgerVolatile = false ∧
     (∃ img ∈ (sClearRight.box 0).taken, img.code = 98 ∧
       ∃ key ∈ sClearRight.ledger.key, (sClearRight.flushLedger none).clearAuthentic key img.payload = true)) ∧
    ((sSetSnapshot.box 0).started = true ∧ (sSetSnapshot.box 0).ready = none ∧ sSetSnapshot.power.stopped = false ∧
     (∃ img ∈ (sSetSnapshot.box 0).taken, img.code = 99)) ∧
    ((sSetSnapshot.box 0).started = true ∧ (sSetSnapshot.box 0).ready = none ∧ sSetSnapshot.power.stopped = false ∧
     (∃ img ∈ (sSetSnapshot.box 0).taken, img.code = 99 ∧ 0 ≠ getLe img.payload 0 2)) ∧
    ((sProvision.box 0).started = true ∧ (sProvision.box 0).ready = none ∧ sProvision.power.stopped = false ∧
     sProvision.ledger.key = none ∧ sProvision.ledger.keyLost = false ∧ (∃ img ∈ (sProvision.box 0).taken, img.code = 100)) ∧
    ((sProvisionAgain.box 0).started = true ∧ (sProvisionAgain.box 0).ready = none ∧
     sProvisionAgain.power.stopped = false ∧ (sProvisionAgain.ledger.key ≠ none ∨ sProvisionAgain.ledger.keyLost = true) ∧
     (∃ img ∈ (sProvisionAgain.box 0).taken, img.code = 100)) := by
  and_intros <;> decide +kernel

theorem witness_LedgerRecords :
    (List.find? sNoRequest.reqReady sNoRequest.ledger.reqs = none ∨ sNoRequest.power.pwrFail = true) ∧
    (sReset.power.pwrFail = false ∧ sReset.reg64 LG_NEXT_SEQ_LO + 1 < 2 ^ 64 ∧
     (∃ r ∈ List.find? sReset.reqReady sReset.ledger.reqs,
       ∃ tail ∈ sReset.recordPlace (r.severity.toNat == 4) (recordLength r.body.length (sReset.snapList (BitVec.toNat
       r.trigger)).length), True)) ∧
    (sRequest3.power.pwrFail = false ∧ sRequest3.ledgerVolatile = false ∧
     (∃ r ∈ List.find? sRequest3.reqReady sRequest3.ledger.reqs, 3 ≤ r.severity.toNat ∧
       ∃ tail ∈ sRequest3.recordPlace (r.severity.toNat == 4) (recordLength r.body.length (sRequest3.snapList
       (BitVec.toNat r.trigger)).length), True)) ∧
    (sReset.ledgerVolatile = false ∧ sReset.ledgerBuffer = []) ∧
    (sLedgerHeld.ledgerVolatile = false ∧ 0 < 2 ∧ sLedgerHeld.bankIn 0 = true ∧
     (∃ r ∈ sLedgerHeld.ledgerBuffer, r ∈ sLedgerHeld.ledgerBuffer)) ∧
    (sLedgerHeld.ledgerVolatile = false ∧ (sLedgerHeld.bankIn 0 = true ∨ sLedgerHeld.bankIn 1 = true) ∧
     (∃ r ∈ sLedgerHeld.ledgerBuffer.head?, sLedgerHeld.ledgerBuffer = [r])) ∧
    (sLedgerHeld.ledgerVolatile = false ∧ sLedgerHeld.bankIn 0 = true ∧
     (∃ r ∈ sLedgerHeld.ledgerBuffer.head?, sLedgerHeld.ledgerBuffer = [r])) ∧
    (sLedgerHeld.ledgerVolatile = false ∧ sLedgerHeld.bankIn 0 = true ∧ sLedgerHeld.bankIn 1 = true ∧
     (∃ r ∈ sLedgerHeld.ledgerBuffer.head?, sLedgerHeld.ledgerBuffer = [r])) ∧
    (sOneBank.ledgerVolatile = false ∧ sOneBank.bankIn 0 = true ∧ sOneBank.bankIn 1 = false ∧
     (∃ r ∈ sOneBank.ledgerBuffer.head?, sOneBank.ledgerBuffer = [r])) ∧
    (sReset.bankIn 0 = true ∨ sReset.isRetired (uMram 0) = true ∨ sReset.underTest (uMram 0) = true) ∧
    (sBankOut.bankIn 0 = false ∧ sBankOut.isRetired (uMram 0) = false ∧ sBankOut.underTest (uMram 0) = false ∧
     sBankOut.ledgerVolatile = false) ∧
    (sClearVolatile.bankIn 0 = false ∧ sClearVolatile.isRetired (uMram 0) = false ∧
     sClearVolatile.underTest (uMram 0) = false ∧ sClearVolatile.ledgerVolatile = true) ∧
    (sNoBank.bankIn 0 = false ∧ sNoBank.isRetired (uMram 0) = false ∧ sNoBank.underTest (uMram 0) = false ∧
     sNoBank.ledgerVolatile = true ∧ (∃ r ∈ sNoBank.ledgerBuffer, r ∈ sNoBank.ledgerBuffer)) ∧
    (3 ∈ List.map (fun x => x.seq) sScrubLost.ledgerLog ∧ 3 ∈ [3, 5]) := by
  and_intros <;> decide +kernel


theorem sLedgerFull_bytes : sLedgerFull.ledgerBytes false = 0x370000 :=
  have h (b : List Byte) : (fullLedger State.reset [LedgerReq.startUp] b).ledgerBytes false = b.length := Nat.zero_add _
  (h _).trans List.length_replicate

theorem witness_LedgerRecords_full :
    sLedgerFull.power.pwrFail = false ∧ sLedgerFull.ledger.reqs.find? sLedgerFull.reqReady = some LedgerReq.startUp ∧
    sLedgerFull.recordPlace (LedgerReq.startUp.severity.toNat == 4)
      (recordLength LedgerReq.startUp.body.length (sLedgerFull.snapList LedgerReq.startUp.trigger.toNat).length) = none :=
  ⟨rfl, rfl, recordPlace_full sLedgerFull_bytes (by decide +kernel)⟩

theorem witness_LinkEvents :
    (sReset.pcie.linkUp = true) ∧
    (sHoldOver.pcie.linkUp = false ∧ (sHoldOver.pwr = 1 ∨ sHoldOver.pwr = 2)) ∧
    (sReset.pcie.linkUp = true ∨ sReset.pwr ≠ 1 ∧ sReset.pwr ≠ 2) := by
  and_intros <;> decide +kernel

theorem witness_NotificationRing :
    ((sRing.box 0).started = true ∧ (sRing.box 0).ready = none ∧ sRing.power.stopped = false ∧
     (∃ img ∈ (sRing.box 0).taken, img.code = 4)) ∧
    ((sRing.box 0).started = true ∧ (sRing.box 0).ready = none ∧ sRing.power.stopped = false ∧
     (∃ img ∈ (sRing.box 0).taken, img.code = 4 ∧ getLe img.payload 0 8 ≠ 0)) ∧
    (sReset.doorbellOk attr32 = true) ∧
    (sD3.doorbellOk attr32 = false) ∧
    (sNotice.regBit MB_NTF_CFG 0 = true ∧ sNotice.pcie.busMaster = true ∧ sNotice.pcie.linkUp = true ∧
     sNotice.pcie.d3hot = false ∧ sNotice.served = true ∧ 0 < sNotice.mbx.ringEntries ∧
     BitVec.toNat (sNotice.reg MB_NTF_TAIL - sNotice.reg MB_NTF_HEAD) < sNotice.mbx.ringEntries ∧
     0 < QueueDyn.pkts (qKind 2) (sNotice.queue 2) ∧ (sNotice.queue 2).depth ≠ 0) ∧
    (sReset.regBit MB_NTF_CFG 0 = false ∨ sReset.served = false ∨
       sReset.mbx.ringEntries ≤ BitVec.toNat (sReset.reg MB_NTF_TAIL - sReset.reg MB_NTF_HEAD) ∨
       QueueDyn.pkts (qKind 2) (sReset.queue 2) = 0) := by
  and_intros <;> decide +kernel

theorem witness_ObjectCommands :
    ((sCreate.box 0).started = true ∧ (sCreate.box 0).ready = none ∧ sCreate.power.stopped = false ∧
     (∃ img ∈ (sCreate.box 0).taken, img.code = 16 ∧
       lowestFree (sCreate.inUse (getLe img.payload 0 1)) 0 < typeCount (getLe img.payload 0 1))) ∧
    ((sCreate.box 0).started = true ∧ (sCreate.box 0).ready = none ∧ sCreate.power.stopped = false ∧
     (∃ img ∈ (sCreate.box 0).taken, img.code = 16 ∧
       lowestFree (sCreate.inUse (getLe img.payload 0 1)) 0 < typeCount (getLe img.payload 0 1) ∧
       0 ≠ objKey (getLe img.payload 0 1) (lowestFree (sCreate.inUse (getLe img.payload 0 1)) 0))) ∧
    ((sCreate.box 0).started = true ∧ (sCreate.box 0).ready = none ∧ sCreate.power.stopped = false ∧
     (∃ img ∈ (sCreate.box 0).taken, img.code = 16 ∧
       lowestFree (sCreate.inUse (getLe img.payload 0 1)) 0 < typeCount (getLe img.payload 0 1) ∧ getLe img.payload 0 1 = 1)) ∧
    ((sCreateFull.box 0).started = true ∧ (sCreateFull.box 0).ready = none ∧ sCreateFull.power.stopped = false ∧
     (∃ img ∈ (sCreateFull.box 0).taken, img.code = 16 ∧
       typeCount (getLe img.payload 0 1) ≤ lowestFree (sCreateFull.inUse (getLe img.payload 0 1)) 0)) ∧
    ((sDestroyNamed.box 0).started = true ∧ (sDestroyNamed.box 0).ready = none ∧ sDestroyNamed.power.stopped = false ∧
     (∃ img ∈ (sDestroyNamed.box 0).taken, img.code = 17 ∧
       ∃ k ∈ sDestroyNamed.weaver.staged.used, k ≠ hKey img.handle ∧ hKey img.handle ∈ sDestroyNamed.weaver.staged.names k)) ∧
    ((sDestroyInUse.box 0).started = true ∧ (sDestroyInUse.box 0).ready = none ∧ sDestroyInUse.power.stopped = false ∧
     (∃ img ∈ (sDestroyInUse.box 0).taken, img.code = 17 ∧
       (∀ k ∈ sDestroyInUse.weaver.staged.used,
       k ≠ hKey img.handle → ¬hKey img.handle ∈ sDestroyInUse.weaver.staged.names k) ∧
       hKey img.handle ∈ sDestroyInUse.weaver.committed.used)) ∧
    ((sDestroy.box 0).started = true ∧ (sDestroy.box 0).ready = none ∧ sDestroy.power.stopped = false ∧
     (∃ img ∈ (sDestroy.box 0).taken, img.code = 17 ∧
       (∀ k ∈ sDestroy.weaver.staged.used, k ≠ hKey img.handle → ¬hKey img.handle ∈ sDestroy.weaver.staged.names k) ∧
       ¬hKey img.handle ∈ sDestroy.weaver.committed.used)) := by
  and_intros <;> decide +kernel

/-- The SHA-256 of 1,024 zero bytes. -/
theorem zeroImage_digest : sha256 (List.replicate 1024 0) = zeroDigest := by decide +kernel

theorem podDigest_zero {s : State} (h : (s.pod 0 0).imageBytes = List.replicate 1024 0) : s.podDigest 0 0 = zeroDigest := by
  rw [State.podDigest, h, zeroImage_digest]

theorem witness_PodChains :
    (sArmStandby.ppLive 0 = false) ∧
    (sReset.ppLive 0 = true ∧ 0 < 32) ∧
    (sPodFull.ppLive 0 = true ∧ 32 ≤ sPodFull.ppPods 0) ∧
    (sReset.ppLive 0 = true ∧ sReset.ppPods 0 < 32) ∧
    (sReset.ppLive 0 = false ∨ sReset.absentFrom 0 0 = false) ∧
    (sPodAbsent.ppLive 0 = true ∧ sPodAbsent.absentFrom 0 0 = true ∧ 0 < 32 ∧ 0 ≤ 0) ∧
    (sPodHold.ppLive 0 = true ∧ sPodHold.podHere 0 0 = true ∧ (sPodHold.pod 0 0).adding = none ∧
     List.length (sPodHold.pod 0 0).dig = 16 ∧ (sPodHold.pod 0 0).digHold = true) ∧
    (sPodDigest.ppLive 0 = true ∧ sPodDigest.podHere 0 0 = true ∧ (sPodDigest.pod 0 0).adding = none ∧
     List.length (sPodDigest.pod 0 0).dig = 16 ∧ (sPodDigest.pod 0 0).digHold = false ∧
     sPodDigest.podDigest 0 0 = sPodDigest.podReported 0 0) ∧
    (sPodDiffers.ppLive 0 = true ∧ sPodDiffers.podHere 0 0 = true ∧ (sPodDiffers.pod 0 0).adding = none ∧
     List.length (sPodDiffers.pod 0 0).dig = 16 ∧ (sPodDiffers.pod 0 0).digHold = false ∧
     sPodDiffers.podDigest 0 0 ≠ sPodDiffers.podReported 0 0 ∧ (sPodDiffers.pod 0 0).digBad = 0) ∧
    (sPodDiffersTwice.ppLive 0 = true ∧ sPodDiffersTwice.podHere 0 0 = true ∧ (sPodDiffersTwice.pod 0 0).adding = none ∧
     List.length (sPodDiffersTwice.pod 0 0).dig = 16 ∧ (sPodDiffersTwice.pod 0 0).digHold = false ∧
     sPodDiffersTwice.podDigest 0 0 ≠ sPodDiffersTwice.podReported 0 0 ∧ (sPodDiffersTwice.pod 0 0).digBad ≠ 0 ∧
     sPodDiffersTwice.weaver.mismatches.contains (uPod 0 0, 1) = false) ∧
    (sPodAdding.ppLive 0 = true ∧ sPodAdding.podHere 0 0 = true ∧ (sPodAdding.pod 0 0).adding = some 0) ∧
    (sPodAdded.ppLive 0 = true ∧ sPodAdded.podHere 0 0 = true ∧ (sPodAdded.pod 0 0).rp ≠ none ∧
     (∃ n ∈ (sPodAdded.pod 0 0).adding, n ≠ 0)) ∧
    (sSegBad.ppLive 0 = true ∧ 0 < sSegBad.ppPods 0 ∧
     (4 ≤ sSegBad.segFails 0 0 ∨ sSegBad.underTest (uSegment 0 0) = true) ∧ sSegBad.regBit (PP_STATUS 0) 8 = false ∧
     0 < 32 ∧ 0 ≤ 0 ∧ sSegBad.podHere 0 0 = true) ∧
    (sReset.ppLive 0 = false ∨ sReset.ppPods 0 ≤ 0 ∨ sReset.segFails 0 0 < 4 ∧
       sReset.underTest (uSegment 0 0) = false ∨ sReset.regBit (PP_STATUS 0) 8 = true) ∧
    (sReset.regF (PP_STATUS 0) 9 5 = 0 ∧ sReset.underTest (uSegment 0 0) = false) ∧
    (sSegTest.regF (PP_STATUS 0) 9 5 = 0 ∧ sSegTest.isRetired (uSegment 0 0) = false ∧
     (∃ x ∈ List.find? (fun x => decide (x.unit = uSegment 0 0)) sSegTest.weaver.tests, x.classes = [5] ∧
       (x.byError = false ∨
       List.countP (fun t => t.fst == uSegment 0 0 && decide (BitVec.toNat sSegTest.opSeconds ≤ t.snd +
       transientWindow)) sSegTest.weaver.transients < 2))) ∧
    (sSegTest.regF (PP_STATUS 0) 9 5 = 0 ∧ sSegTest.isRetired (uSegment 0 0) = false ∧ (0 ≠ 0 ∨ false = false) ∧
     (∃ x ∈ List.find? (fun x => decide (x.unit = uSegment 0 0)) sSegTest.weaver.tests, x.classes = [5])) := by
  and_intros <;> first
    | rw [podDigest_zero (by decide +kernel)]; decide +kernel
    | decide +kernel

theorem witness_PodCommandsAndSlots :
    (podded.ppLive 0 = true ∧ podded.ppLock 0 = true ∧ 0 < 32 ∧ podded.podHere 0 0 = true) ∧
    (sReset.ppLive 0 = true ∧ sReset.ppLock 0 = false) ∧
    (sReset.ppLive 0 = false ∨ sReset.ppLock 0 = false) ∧
    (podded.ppLive 0 = false ∨ podded.ppLock 0 = true) ∧
    (sReset.ppLive 0 = false ∨ sReset.podHere 0 0 = false ∨ (sReset.pod 0 0).rp = none) ∧
    (sPodAdded.ppLive 0 = true ∧ sPodAdded.podHere 0 0 = true ∧
     (∃ rp ∈ (sPodAdded.pod 0 0).rp,
       4 ≤ max ((sPodAdded.regF (PP_RDEV 0) 0 17 + 67584 - rp % 67584) % 67584 / 2 + if (sPodAdded.regF (PP_RDEV 0) 0
       17 + 67584 - rp % 67584) % 67584 % 2 = 1 then (sPodAdded.draw 1).fst.toNat else 0) (sPodAdded.regF (PP_DELAY 0
       0) 0 17) - min ((sPodAdded.regF (PP_RDEV 0) 0 17 + 67584 - rp % 67584) % 67584 / 2 + if (sPodAdded.regF (PP_RDEV
       0) 0 17 + 67584 - rp % 67584) % 67584 % 2 = 1 then (sPodAdded.draw 1).fst.toNat else 0) (sPodAdded.regF
       (PP_DELAY 0 0) 0 17))) ∧
    (sPodDelaySame.ppLive 0 = true ∧ sPodDelaySame.podHere 0 0 = true ∧
     (∃ rp ∈ (sPodDelaySame.pod 0 0).rp,
       max ((sPodDelaySame.regF (PP_RDEV 0) 0 17 + 67584 - rp % 67584) % 67584 / 2 + if (sPodDelaySame.regF (PP_RDEV 0)
       0 17 + 67584 - rp % 67584) % 67584 % 2 = 1 then (sPodDelaySame.draw 1).fst.toNat else 0) (sPodDelaySame.regF
       (PP_DELAY 0 0) 0 17) - min ((sPodDelaySame.regF (PP_RDEV 0) 0 17 + 67584 - rp % 67584) % 67584 / 2 + if
       (sPodDelaySame.regF (PP_RDEV 0) 0 17 + 67584 - rp % 67584) % 67584 % 2 = 1 then (sPodDelaySame.draw 1).fst.toNat
       else 0) (sPodDelaySame.regF (PP_DELAY 0 0) 0 17) < 4)) ∧
    (sArmStandby.ppLive 0 = false) ∧
    (sReset.ppLive 0 = true ∧ (sReset.port 0).outbox = []) ∧
    (sPodOut.ppLive 0 = true ∧
     (∃ c ∈ (sPodOut.port 0).outbox.head?, (sPodOut.port 0).outbox = c :: (sPodOut.port 0).outbox.tail)) ∧
    (sPodOut.ppLive 0 = true ∧ 0 < 32 ∧ sPodOut.podHere 0 0 = true ∧
     (∃ c ∈ (sPodOut.port 0).outbox.head?, (sPodOut.port 0).outbox = c :: (sPodOut.port 0).outbox.tail ∧
       (c.bcast = true ∨ ↑c.pos = 0) ∧ ∀ x ∈ (sPodOut.pod 0 0).pending, x.cmd ≠ c)) ∧
    (sPodOutAgain.ppLive 0 = true ∧ 0 < 32 ∧ sPodOutAgain.podHere 0 0 = true ∧
     (∃ c ∈ (sPodOutAgain.port 0).outbox.head?, (sPodOutAgain.port 0).outbox = c :: (sPodOutAgain.port 0).outbox.tail ∧
       (c.bcast = true ∨ ↑c.pos = 0) ∧ ∃ x ∈ (sPodOutAgain.pod 0 0).pending, x.cmd = c)) ∧
    (∀ x ∈ (sReset.pod 0 0).pending, x.retries < 2 ∨ sReset.superframe 0 < x.sent + 64) ∧
    (sPodSilentLate.ppLive 0 = true ∧ sPodSilentLate.podHere 0 0 = true ∧
     (∃ x ∈ List.find? (fun x => decide (2 ≤ x.retries) && decide (x.sent + 64 ≤ sPodSilentLate.superframe 0))
       (sPodSilentLate.pod 0 0).pending, True)) ∧
    (sPodSwitch.ppLive 0 = true ∧ sPodSwitch.regBit (PP_SWITCH 0) 16 = true ∧
     sPodSwitch.regF (PP_SWITCH 0) 0 16 = sPodSwitch.regF (PP_SFN 0) 0 16 ∧ (sPodSwitch.port 0).nextSlots ≠ [] ∧
     sPodSwitch.slotWritesOpen 0 = false ∧ 0 < 62) ∧
    (sReset.ppLive 0 = false ∨ sReset.regBit (PP_SWITCH 0) 16 = false ∨
       sReset.regF (PP_SWITCH 0) 0 16 ≠ sReset.regF (PP_SFN 0) 0 16 ∨ (sReset.port 0).nextSlots = [] ∨
       sReset.slotWritesOpen 0 = true) ∧
    (sPodSwitchLate.ppLive 0 = true ∧ sPodSwitchLate.regBit (PP_SWITCH 0) 16 = true ∧
     sPodSwitchLate.slotWritesOpen 0 = true ∧
     ((sPodSwitchLate.regF (PP_SWITCH 0) 0 16 + 2 ^ 16 - sPodSwitchLate.regF (PP_SFN 0) 0 16) % 2 ^ 16 ≤ 4 ∨
       2 ^ 15 ≤ (sPodSwitchLate.regF (PP_SWITCH 0) 0 16 + 2 ^ 16 - sPodSwitchLate.regF (PP_SFN 0) 0 16) % 2 ^ 16)) ∧
    (sReset.ppLive 0 = false ∨ sReset.regBit (PP_SWITCH 0) 16 = false ∨ sReset.slotWritesOpen 0 = false ∨
       4 < (sReset.regF (PP_SWITCH 0) 0 16 + 2 ^ 16 - sReset.regF (PP_SFN 0) 0 16) % 2 ^ 16 ∧
       (sReset.regF (PP_SWITCH 0) 0 16 + 2 ^ 16 - sReset.regF (PP_SFN 0) 0 16) % 2 ^ 16 < 2 ^ 15) := by
  and_intros <;> decide +kernel

theorem witness_PodFrames :
    (sReset.ppLive 0 = true ∧ (∀ b ∈ (sReset.port 0).beacon, b < sReset.superframe 0)) ∧
    (podded.ppLive 0 = true ∧ (∀ b ∈ (podded.port 0).beacon, b < podded.superframe 0) ∧ podded.ppLock 0 = true ) ∧
    (sArmStandby.ppLive 0 = false ∨ ∃ b ∈ (sArmStandby.port 0).beacon, sArmStandby.superframe 0 ≤ b) ∧
    (sReset.ppLive 0 = false ∨ sReset.ppLock 0 = false) ∧
    (podded.ppLive 0 = true ∧ podded.ppLock 0 = true ∧ podded.slotOwner 0 1 = none) ∧
    (podded.ppLive 0 = true ∧ podded.ppLock 0 = true ∧ (∃ pos ∈ podded.slotOwner 0 0, frameSound fBad pos = false)) ∧
    (sPodFsn.ppLive 0 = true ∧ sPodFsn.ppLock 0 = true ∧
     (∃ pos ∈ sPodFsn.slotOwner 0 0, frameSound fGood pos = true ∧
       BitVec.ofNat 16 (fld fGood.check 16 16) ≠ (sPodFsn.pod 0 pos).fsn)) ∧
    (podded.ppLive 0 = true ∧ podded.ppLock 0 = true ∧
     (∃ pos ∈ podded.slotOwner 0 0, frameSound fGood pos = true ∧
       BitVec.ofNat 16 (fld fGood.check 16 16) = (podded.pod 0 pos).fsn)) ∧
    (sReset.ppLive 0 = false ∨ sReset.ppLock 0 = false ∨ mgmtSound 0#64 = false ∨ sReset.podHere 0 0 = false) ∧
    (podded.ppLive 0 = true ∧ podded.ppLock 0 = true ∧ mgmtSound bGood = true ∧ podded.podHere 0 0 = true ∧
     (0#16).toNat % 16 ≠ 2) ∧
    (sPodAck.ppLive 0 = true ∧ sPodAck.ppLock 0 = true ∧ mgmtSound bGood = true ∧ sPodAck.podHere 0 0 = true ∧
     (2#16).toNat % 16 = 2 ∧
     (sPodAck.pod 0 0).pending = [{ cmd := pcZero, sent := 0, retries := 0 }] ∧
       pcZero.seq = BitVec.ofNat 8 (fld bGood 44 12)) := by
  and_intros <;> decide +kernel

theorem witness_PowerStateChanges :
    ((sToSleepArmed.box 0).started = true ∧ (sToSleepArmed.box 0).ready = none ∧ sToSleepArmed.power.stopped = false ∧
     sToSleepArmed.time.armed = true ∧
     (∃ img ∈ (sToSleepArmed.box 0).taken, img.code = 129 ∧ 1 ≤ getLe img.payload 0 1 ∧ getLe img.payload 0 1 ≤ 3 ∧
       getLe img.payload 0 1 ≠ 1)) ∧
    ((sToReadyMoving.box 0).started = true ∧ (sToReadyMoving.box 0).ready = none ∧ sToReadyMoving.power.stopped = false ∧
     (∃ img ∈ (sToReadyMoving.box 0).taken, img.code = 129 ∧ 1 ≤ getLe img.payload 0 1 ∧ getLe img.payload 0 1 ≤ 3 ∧
       (sToReadyMoving.time.armed = false ∨ getLe img.payload 0 1 = 1) ∧ (sToReadyMoving.regBit PWR_STATE 4 = true ∨
       powerCode (getLe img.payload 0 1) ≠ sToReadyMoving.pwr ∧ sToReadyMoving.pwr ≠ 2))) ∧
    ((sToReady.box 0).started = true ∧ (sToReady.box 0).ready = none ∧ sToReady.power.stopped = false ∧
     sToReady.regBit PWR_STATE 4 = false ∧
     (∃ img ∈ (sToReady.box 0).taken, img.code = 129 ∧ 1 ≤ getLe img.payload 0 1 ∧ getLe img.payload 0 1 ≤ 3 ∧
       (sToReady.time.armed = false ∨ getLe img.payload 0 1 = 1) ∧ (powerCode (getLe img.payload 0 1) = sToReady.pwr ∨
       sToReady.pwr = 2))) ∧
    (sReset.pwr ≠ 0 ∧ sReset.failed = false ∧ (sReset.pwr ≠ 4 ∨ sReset.regBit PWR_STATE 4 = true)) ∧
    (sBootable.pwr = 0 ∨ sBootable.failed = true) ∧
    (sReset.pcie.d3hot = false) ∧
    (sD3.pcie.d3hot = true) ∧
    (sD3Asleep.pcie.d3hot = true ∧ (sD3Asleep.asleep = true ∨ sD3Asleep.regBit PWR_STATE 4 = true)) ∧
    (sStandbyToSleep.regBit PWR_STATE 4 = true ∧ (sStandbyToSleep.target = 3 ∨ sStandbyToSleep.target = 4) ∧
     (sStandbyToSleep.pwr = 1 ∨ sStandbyToSleep.pwr = 3) ∧ sStandbyToSleep.pwr ≠ sStandbyToSleep.target ∧
     sStandbyToSleep.time.armed = false ∧ sStandbyToSleep.weaver.tests = []) ∧
    (sReset.regBit PWR_STATE 4 = false ∨ sReset.time.armed = true ∨ sReset.weaver.tests ≠ [] ∨ sReset.pwr = sReset.target) ∧
    (sWaking.regBit PWR_STATE 4 = true ∧ sWaking.target = 1 ∧ sWaking.asleep = true) ∧
    (sReset.regBit PWR_STATE 4 = false ∨ sReset.target ≠ 1 ∨ sReset.asleep = false) ∧
    (sArrived.regBit PWR_STATE 4 = true ∧ sArrived.pwr = sArrived.target) ∧
    (sReset.regBit PWR_STATE 4 = false ∨ sReset.pwr ≠ sReset.target) := by
  and_intros <;> decide +kernel

theorem witness_QueueConsumers :
    ((∀ (i : Fin 4096), QRef.onChip 0 ≠ QRef.stream i) ∧ (sReset.queue (qNumber (QRef.onChip 0))).depth = 0) ∧
    ((∀ (i : Fin 4096), QRef.onChip 0 ≠ QRef.stream i) ∧ (sAnnotated.queue (qNumber (QRef.onChip 0))).depth ≠ 0) ∧
    ((∀ (i : Fin 4096), QRef.onChip 2 ≠ QRef.stream i) ∧ (∃ a ∈ (sQueueHeld.queue (qNumber (QRef.onChip 2))).mark, True)) ∧
    ((∀ (i : Fin 4096), QRef.onChip 0 ≠ QRef.stream i) ∧ (sReset.queue (qNumber (QRef.onChip 0))).mark = none) ∧
    ((∀ (i : Fin 4096), QRef.onChip 2 ≠ QRef.stream i) ∧ (∃ z ∈ (sQueueStalled.queue (qNumber (QRef.onChip 2))).stalled,
       (sQueueStalled.queue (qNumber (QRef.onChip 2))).stalled = some (z.fst, false) ∧
       (sQueueStalled.queue (qNumber (QRef.onChip 2))).depth ≠ 0)) ∧
    ((∀ (i : Fin 4096), QRef.onChip 2 ≠ QRef.stream i) ∧ (∃ z ∈ (sQueuePop.queue (qNumber (QRef.onChip 2))).stalled,
       (sQueuePop.queue (qNumber (QRef.onChip 2))).stalled = some (z.fst, true) ∧
       (sQueuePop.queue (qNumber (QRef.onChip 2))).depth ≠ 0)) ∧
    ((∀ (i : Fin 4096), QRef.onChip 0 ≠ QRef.stream i) ∧
     ((sReset.queue (qNumber (QRef.onChip 0))).stalled = none ∨ (sReset.queue (qNumber (QRef.onChip 0))).depth = 0)) ∧
    ((∀ (i : Fin 4096), QRef.onChip 2 ≠ QRef.stream i) ∧ (sQueueStaged.queue (qNumber (QRef.onChip 2))).filling ≠ 0 ∧
     (sQueueStaged.queue (qNumber (QRef.onChip 2))).draining = 0) ∧
    ((∀ (i : Fin 4096), QRef.onChip 0 ≠ QRef.stream i) ∧
     ((sReset.queue (qNumber (QRef.onChip 0))).filling = 0 ∨ (sReset.queue (qNumber (QRef.onChip 0))).draining ≠ 0)) ∧
    ((∀ (i : Fin 4096), QRef.onChip 2 ≠ QRef.stream i) ∧
     (sQueueStaged.queue (qNumber (QRef.onChip 2))).filling * (qKind (qNumber (QRef.onChip 2))).itemBytes = 4096) ∧
    ((∀ (i : Fin 4096), QRef.onChip 0 ≠ QRef.stream i) ∧
     (sReset.queue (qNumber (QRef.onChip 0))).filling * (qKind (qNumber (QRef.onChip 0))).itemBytes ≠ 4096) := by
  and_intros <;> first | exact fun _ h => nomatch h | decide +kernel

theorem witness_QueueProducers :
    ((∀ (i : Fin 4096), QRef.onChip 0 ≠ QRef.stream i) ∧
     (Instr.queueWrite (QRef.onChip 0) ⟨0, []⟩ false false = Instr.queueWrite (QRef.onChip 0) ⟨0, []⟩ false false ∨
       Instr.queueWrite (QRef.onChip 0) ⟨0, []⟩ false false = Instr.packetCommit (QRef.onChip 0) ⟨0, []⟩ ∧ false = true ∧
       false = false) ∧
     ((sQueueSkip.each [] fun s op => s.consumeOp (QRef.onChip 0) op).queue (qNumber (QRef.onChip 0))).skipState = true ∧
     qNumber (QRef.onChip 0) < 5) ∧
    ((∀ (i : Fin 4096), QRef.onChip 0 ≠ QRef.stream i) ∧
     (Instr.queueWrite (QRef.onChip 0) ⟨0, []⟩ false false = Instr.queueWrite (QRef.onChip 0) ⟨0, []⟩ false false ∨
       Instr.queueWrite (QRef.onChip 0) ⟨0, []⟩ false false = Instr.packetCommit (QRef.onChip 0) ⟨0, []⟩ ∧ false = true ∧
       false = false) ∧
     false = ((qKind (qNumber (QRef.onChip 0))).packets == PacketKind.none) ∧
     ((sQueueSkip.each [] fun s op => s.consumeOp (QRef.onChip 0) op).queue (qNumber (QRef.onChip 0))).skipState = true) ∧
    ((∀ (i : Fin 4096), QRef.onChip 0 ≠ QRef.stream i) ∧
     (Instr.queueWrite (QRef.onChip 0) ⟨0, []⟩ false false = Instr.queueWrite (QRef.onChip 0) ⟨0, []⟩ false false ∨
       Instr.queueWrite (QRef.onChip 0) ⟨0, []⟩ false false = Instr.packetCommit (QRef.onChip 0) ⟨0, []⟩ ∧ false = true ∧
       false = false) ∧
     ((sQueueRejecting.each [] fun s op => s.consumeOp (QRef.onChip 0) op).queue (qNumber (QRef.onChip 0))).skipState =
       false ∧
     ((sQueueRejecting.each [] fun s op => s.consumeOp (QRef.onChip 0) op).queue (qNumber (QRef.onChip 0))).rejecting = true) ∧
    ((∀ (i : Fin 4096), QRef.onChip 0 ≠ QRef.stream i) ∧
     (Instr.queueWrite (QRef.onChip 0) ⟨0, []⟩ false true = Instr.queueWrite (QRef.onChip 0) ⟨0, []⟩ false true ∨
       Instr.queueWrite (QRef.onChip 0) ⟨0, []⟩ false true = Instr.packetCommit (QRef.onChip 0) ⟨0, []⟩ ∧ false = true ∧
       true = false) ∧
     false = ((qKind (qNumber (QRef.onChip 0))).packets == PacketKind.none) ∧
     ((sReset.each [] fun s op => s.consumeOp (QRef.onChip 0) op).queue (qNumber (QRef.onChip 0))).skipState = false ∧
     ((sReset.each [] fun s op => s.consumeOp (QRef.onChip 0) op).queue (qNumber (QRef.onChip 0))).rejecting = false ∧
     (true = true ∨
       (qKind (qNumber (QRef.onChip 0))).limit ≤ ((sReset.each [] fun s op => s.consumeOp (QRef.onChip 0) op).queue
       (qNumber (QRef.onChip 0))).occ - ((sReset.each [] fun s op => s.consumeOp (QRef.onChip 0) op).queue (qNumber
       (QRef.onChip 0))).visible) ∧
     qNumber (QRef.onChip 0) < 5) ∧
    ((∀ (i : Fin 4096), QRef.stake 0 ≠ QRef.stream i) ∧
     (Instr.queueWrite (QRef.stake 0) ⟨0, []⟩ false false = Instr.queueWrite (QRef.stake 0) ⟨0, []⟩ false false ∨
       Instr.queueWrite (QRef.stake 0) ⟨0, []⟩ false false = Instr.packetCommit (QRef.stake 0) ⟨0, []⟩ ∧ false = true ∧
       false = false) ∧
     true = ((qKind (qNumber (QRef.stake 0))).packets == PacketKind.none) ∧
     ((sStakeStopped.each [] fun s op => s.consumeOp (QRef.stake 0) op).queue (qNumber (QRef.stake 0))).skipState = false ∧
     ((sStakeStopped.each [] fun s op => s.consumeOp (QRef.stake 0) op).queue (qNumber (QRef.stake 0))).rejecting = false ∧
     (true = true ∨ false = false ∧
       ((sStakeStopped.each [] fun s op => s.consumeOp (QRef.stake 0) op).queue (qNumber (QRef.stake 0))).occ -
       ((sStakeStopped.each [] fun s op => s.consumeOp (QRef.stake 0) op).queue (qNumber (QRef.stake 0))).visible <
       (qKind (qNumber (QRef.stake 0))).limit) ∧
     QueueDyn.stagingFull (qKind (qNumber (QRef.stake 0))) ((sStakeStopped.each [] fun s op => s.consumeOp (QRef.stake
       0) op).queue (qNumber (QRef.stake 0))) = true) ∧
    ((∀ (i : Fin 4096), QRef.onChip 2 ≠ QRef.stream i) ∧
     (Instr.queueWrite (QRef.onChip 2) ⟨0, []⟩ false false = Instr.queueWrite (QRef.onChip 2) ⟨0, []⟩ false false ∨
       Instr.queueWrite (QRef.onChip 2) ⟨0, []⟩ false false = Instr.packetCommit (QRef.onChip 2) ⟨0, []⟩ ∧ false = true ∧
       false = false) ∧
     false = ((qKind (qNumber (QRef.onChip 2))).packets == PacketKind.none) ∧
     ((sQueueStopped.each [] fun s op => s.consumeOp (QRef.onChip 2) op).queue (qNumber (QRef.onChip 2))).skipState = false ∧
     ((sQueueStopped.each [] fun s op => s.consumeOp (QRef.onChip 2) op).queue (qNumber (QRef.onChip 2))).rejecting = false ∧
     (false = true ∨ false = false ∧
       ((sQueueStopped.each [] fun s op => s.consumeOp (QRef.onChip 2) op).queue (qNumber (QRef.onChip 2))).occ -
       ((sQueueStopped.each [] fun s op => s.consumeOp (QRef.onChip 2) op).queue (qNumber (QRef.onChip 2))).visible <
       (qKind (qNumber (QRef.onChip 2))).limit) ∧
     QueueDyn.stagingFull (qKind (qNumber (QRef.onChip 2))) ((sQueueStopped.each [] fun s op => s.consumeOp
       (QRef.onChip 2) op).queue (qNumber (QRef.onChip 2))) = true ∧
     qNumber (QRef.onChip 2) < 5) ∧
    ((∀ (i : Fin 4096), QRef.onChip 0 ≠ QRef.stream i) ∧
     (Instr.queueWrite (QRef.onChip 0) ⟨0, []⟩ false false = Instr.queueWrite (QRef.onChip 0) ⟨0, []⟩ false false ∨
       Instr.queueWrite (QRef.onChip 0) ⟨0, []⟩ false false = Instr.packetCommit (QRef.onChip 0) ⟨0, []⟩ ∧ false = true ∧
       false = false) ∧
     ((sReset.each [] fun s op => s.consumeOp (QRef.onChip 0) op).queue (qNumber (QRef.onChip 0))).skipState = false ∧
     ((sReset.each [] fun s op => s.consumeOp (QRef.onChip 0) op).queue (qNumber (QRef.onChip 0))).rejecting = false ∧
     (((qKind (qNumber (QRef.onChip 0))).packets == PacketKind.none) = true ∨ false = false ∧
       ((sReset.each [] fun s op => s.consumeOp (QRef.onChip 0) op).queue (qNumber (QRef.onChip 0))).occ -
       ((sReset.each [] fun s op => s.consumeOp (QRef.onChip 0) op).queue (qNumber (QRef.onChip 0))).visible < (qKind
       (qNumber (QRef.onChip 0))).limit) ∧
     QueueDyn.stagingFull (qKind (qNumber (QRef.onChip 0))) ((sReset.each [] fun s op => s.consumeOp (QRef.onChip 0)
       op).queue (qNumber (QRef.onChip 0))) = false ∧
     ((sReset.each [] fun s op => s.consumeOp (QRef.onChip 0) op).queue (qNumber (QRef.onChip 0))).occ < (qKind
       (qNumber (QRef.onChip 0))).cap ∧
     qNumber (QRef.onChip 0) < 5) ∧
    ((∀ (i : Fin 4096), QRef.onChip 4 ≠ QRef.stream i) ∧
     (Instr.queueWrite (QRef.onChip 4) ⟨0, []⟩ false false = Instr.queueWrite (QRef.onChip 4) ⟨0, []⟩ false false ∨
       Instr.queueWrite (QRef.onChip 4) ⟨0, []⟩ false false = Instr.packetCommit (QRef.onChip 4) ⟨0, []⟩ ∧ false = true ∧
       false = false) ∧
     ((sQueueFull.each [] fun s op => s.consumeOp (QRef.onChip 4) op).queue (qNumber (QRef.onChip 4))).skipState = false ∧
     ((sQueueFull.each [] fun s op => s.consumeOp (QRef.onChip 4) op).queue (qNumber (QRef.onChip 4))).rejecting = false ∧
     (((qKind (qNumber (QRef.onChip 4))).packets == PacketKind.none) = true ∨ false = false ∧
       ((sQueueFull.each [] fun s op => s.consumeOp (QRef.onChip 4) op).queue (qNumber (QRef.onChip 4))).occ -
       ((sQueueFull.each [] fun s op => s.consumeOp (QRef.onChip 4) op).queue (qNumber (QRef.onChip 4))).visible <
       (qKind (qNumber (QRef.onChip 4))).limit) ∧
     QueueDyn.stagingFull (qKind (qNumber (QRef.onChip 4))) ((sQueueFull.each [] fun s op => s.consumeOp (QRef.onChip
       4) op).queue (qNumber (QRef.onChip 4))) = false ∧
     (qKind (qNumber (QRef.onChip 4))).cap ≤ ((sQueueFull.each [] fun s op => s.consumeOp (QRef.onChip 4) op).queue
       (qNumber (QRef.onChip 4))).occ ∧
     0 < oldestUnit (qKind (qNumber (QRef.onChip 4))) ((sQueueFull.each [] fun s op => s.consumeOp (QRef.onChip 4)
       op).queue (qNumber (QRef.onChip 4))) ∧
     qNumber (QRef.onChip 4) < 5) ∧
    ((Instr.queueWrite (QRef.stream 0) ⟨0, []⟩ false false = Instr.queueWrite (QRef.stream 0) ⟨0, []⟩ false false ∨
       Instr.queueWrite (QRef.stream 0) ⟨0, []⟩ false false = Instr.packetCommit (QRef.stream 0) ⟨0, []⟩) ∧
     sReset.hasStream 0 = false) ∧
    ((Instr.queueWrite (QRef.stream 0) ⟨0, []⟩ false false = Instr.queueWrite (QRef.stream 0) ⟨0, []⟩ false false ∨
       Instr.queueWrite (QRef.stream 0) ⟨0, []⟩ false false = Instr.packetCommit (QRef.stream 0) ⟨0, []⟩) ∧
     sRingSkip.hasStream 0 = true ∧
     ((sRingSkip.each [] fun s op => s.consumeOp (QRef.stream 0) op).stream 0).skipState = true) ∧
    ((Instr.queueWrite (QRef.stream 0) ⟨0, []⟩ false false = Instr.queueWrite (QRef.stream 0) ⟨0, []⟩ false false ∨
       Instr.queueWrite (QRef.stream 0) ⟨0, []⟩ false false = Instr.packetCommit (QRef.stream 0) ⟨0, []⟩) ∧
     sRingPart.hasStream 0 = true ∧
     ((sRingPart.each [] fun s op => s.consumeOp (QRef.stream 0) op).stream 0).skipState = false ∧
     (((sRingPart.each [] fun s op => s.consumeOp (QRef.stream 0) op).stream 0).recPart ++ [0#64]).length < recordWords
       ((((sRingPart.each [] fun s op => s.consumeOp (QRef.stream 0) op).stream 0).recPart ++ [0#64]).headD 0)) ∧
    ((Instr.queueWrite (QRef.stream 0) ⟨0, []⟩ false false = Instr.queueWrite (QRef.stream 0) ⟨0, []⟩ false false ∨
       Instr.queueWrite (QRef.stream 0) ⟨0, []⟩ false false = Instr.packetCommit (QRef.stream 0) ⟨0, []⟩) ∧
     compressedBase.hasStream 0 = true ∧
     ((compressedBase.each [] fun s op => s.consumeOp (QRef.stream 0) op).stream 0).skipState = false ∧
     recordWords ((((compressedBase.each [] fun s op => s.consumeOp (QRef.stream 0) op).stream 0).recPart ++
       [0#64]).headD 0) ≤ (((compressedBase.each [] fun s op => s.consumeOp (QRef.stream 0) op).stream 0).recPart ++
       [0#64]).length) ∧
    ((Instr.queueWrite (QRef.stream 0) ⟨17293822569102704647#64,
      []⟩ false false = Instr.queueWrite (QRef.stream 0) ⟨17293822569102704647#64, []⟩ false false ∨
       Instr.queueWrite (QRef.stream 0) ⟨17293822569102704647#64,
         []⟩ false false = Instr.packetCommit (QRef.stream 0) ⟨17293822569102704647#64, []⟩) ∧
     sDigests2.hasStream 0 = true ∧
     ((sDigests2.each [] fun s op => s.consumeOp (QRef.stream 0) op).stream 0).skipState = false ∧
     recordWords ((((sDigests2.each [] fun s op => s.consumeOp (QRef.stream 0) op).stream 0).recPart ++
       [17293822569102704647#64]).headD 0) ≤ (((sDigests2.each [] fun s op => s.consumeOp (QRef.stream 0) op).stream
       0).recPart ++ [17293822569102704647#64]).length ∧
     sDigests2.isShed (objKey 1 0) = false ∧
     ((sDigests2.each [] fun s op => s.consumeOp (QRef.stream 0) op).stream 0).open_ ≠ [] ∧ sDigests2.strMember 0 = 0 ∧
     ¬fld ((((sDigests2.each [] fun s op => s.consumeOp (QRef.stream 0) op).stream 0).recPart ++
       [17293822569102704647#64]).headD 0) 60 4 ∈ [0, 3, 6] ∧
     ((sDigests2.each [] fun s op => s.consumeOp (QRef.stream 0) op).stream 0).fits (recordOf (if ((sDigests2.each []
       fun s op => s.consumeOp (QRef.stream 0) op).stream 0).recPart = [] then (sDigests2.each [] fun s op =>
       s.consumeOp (QRef.stream 0) op).streamBase 0 else ((sDigests2.each [] fun s op => s.consumeOp (QRef.stream 0)
       op).stream 0).recBase) (((sDigests2.each [] fun s op => s.consumeOp (QRef.stream 0) op).stream 0).recPart ++
       [17293822569102704647#64])) = true ∧
     needBase ((sDigests2.each [] fun s op => s.consumeOp (QRef.stream 0) op).stream 0).baseTime (recordOf (if
       ((sDigests2.each [] fun s op => s.consumeOp (QRef.stream 0) op).stream 0).recPart = [] then (sDigests2.each []
       fun s op => s.consumeOp (QRef.stream 0) op).streamBase 0 else ((sDigests2.each [] fun s op => s.consumeOp
       (QRef.stream 0) op).stream 0).recBase) (((sDigests2.each [] fun s op => s.consumeOp (QRef.stream 0) op).stream
       0).recPart ++ [17293822569102704647#64])) = false) ∧
    ((Instr.queueWrite (QRef.stream 0) ⟨17293822569102704647#64,
      []⟩ false false = Instr.queueWrite (QRef.stream 0) ⟨17293822569102704647#64, []⟩ false false ∨
       Instr.queueWrite (QRef.stream 0) ⟨17293822569102704647#64,
         []⟩ false false = Instr.packetCommit (QRef.stream 0) ⟨17293822569102704647#64, []⟩) ∧
     sRingFull.hasStream 0 = true ∧
     ((sRingFull.each [] fun s op => s.consumeOp (QRef.stream 0) op).stream 0).skipState = false ∧
     recordWords ((((sRingFull.each [] fun s op => s.consumeOp (QRef.stream 0) op).stream 0).recPart ++
       [17293822569102704647#64]).headD 0) ≤ (((sRingFull.each [] fun s op => s.consumeOp (QRef.stream 0) op).stream
       0).recPart ++ [17293822569102704647#64]).length ∧
     sRingFull.isShed (objKey 1 0) = false ∧
     ((sRingFull.each [] fun s op => s.consumeOp (QRef.stream 0) op).stream 0).open_ ≠ [] ∧ sRingFull.strMember 0 = 0 ∧
     ¬fld ((((sRingFull.each [] fun s op => s.consumeOp (QRef.stream 0) op).stream 0).recPart ++
       [17293822569102704647#64]).headD 0) 60 4 ∈ [0, 3, 6] ∧
     ((sRingFull.each [] fun s op => s.consumeOp (QRef.stream 0) op).stream 0).fits (recordOf (if ((sRingFull.each []
       fun s op => s.consumeOp (QRef.stream 0) op).stream 0).recPart = [] then (sRingFull.each [] fun s op =>
       s.consumeOp (QRef.stream 0) op).streamBase 0 else ((sRingFull.each [] fun s op => s.consumeOp (QRef.stream 0)
       op).stream 0).recBase) (((sRingFull.each [] fun s op => s.consumeOp (QRef.stream 0) op).stream 0).recPart ++
       [17293822569102704647#64])) = false) ∧
    ((Instr.queueWrite (QRef.stream 0) ⟨0, []⟩ false false = Instr.queueWrite (QRef.stream 0) ⟨0, []⟩ false false ∨
       Instr.queueWrite (QRef.stream 0) ⟨0, []⟩ false false = Instr.packetCommit (QRef.stream 0) ⟨0, []⟩) ∧
     sRingMark.hasStream 0 = true ∧
     ((sRingMark.each [] fun s op => s.consumeOp (QRef.stream 0) op).stream 0).skipState = false ∧
     recordWords ((((sRingMark.each [] fun s op => s.consumeOp (QRef.stream 0) op).stream 0).recPart ++ [0#64]).headD
       0) ≤ (((sRingMark.each [] fun s op => s.consumeOp (QRef.stream 0) op).stream 0).recPart ++ [0#64]).length ∧
     sRingMark.isShed (objKey 1 0) = false ∧
     ((sRingMark.each [] fun s op => s.consumeOp (QRef.stream 0) op).stream 0).open_ ≠ [] ∧ sRingMark.strMember 0 = 0 ∧
     fld ((((sRingMark.each [] fun s op => s.consumeOp (QRef.stream 0) op).stream 0).recPart ++ [0#64]).headD 0) 60 4 = 6 ∧
     ((sRingMark.each [] fun s op => s.consumeOp (QRef.stream 0) op).stream 0).fits (recordOf (if ((sRingMark.each []
       fun s op => s.consumeOp (QRef.stream 0) op).stream 0).recPart = [] then (sRingMark.each [] fun s op =>
       s.consumeOp (QRef.stream 0) op).streamBase 0 else ((sRingMark.each [] fun s op => s.consumeOp (QRef.stream 0)
       op).stream 0).recBase) (((sRingMark.each [] fun s op => s.consumeOp (QRef.stream 0) op).stream 0).recPart ++
       [0#64])) = true) ∧
    ((sQueueOpen.queue 0).skipState = false ∧ (sQueueOpen.queue 0).rejecting = false ∧
     (sQueueOpen.queue 0).visible < (sQueueOpen.queue 0).occ) ∧
    ((sReset.queue 0).skipState = false ∧ (sReset.queue 0).rejecting = false ∧
     (sReset.queue 0).occ ≤ (sReset.queue 0).visible) ∧
    ((sQueueRejecting.queue 0).skipState = true ∨ (sQueueRejecting.queue 0).rejecting = true) ∧
    (1 ≠ 0) := by
  and_intros <;> first | exact fun _ h => nomatch h | decide +kernel

theorem witness_ReferenceLoads :
    ((sLoadReady.box 0).started = true ∧ (sLoadReady.box 0).ready = none ∧ sLoadReady.power.stopped = false ∧
     (∃ img ∈ (sLoadReady.box 0).taken, img.code = 80 ∧ (sLoadReady.ref (hIdx img.handle)).fault = none ∧
       ((sLoadReady.ref (hIdx img.handle)).phase = RefPhase.ready ∨
         (sLoadReady.ref (hIdx img.handle)).phase = RefPhase.lost))) ∧
    ((sLoadNotFirst.box 0).started = true ∧ (sLoadNotFirst.box 0).ready = none ∧ sLoadNotFirst.power.stopped = false ∧
     (∃ img ∈ (sLoadNotFirst.box 0).taken, img.code = 80 ∧ (sLoadNotFirst.ref (hIdx img.handle)).fault = none ∧
       (sLoadNotFirst.ref (hIdx img.handle)).phase = RefPhase.empty ∧ loadFirst img.payload = false)) ∧
    ((sLoadFormat.box 0).started = true ∧ (sLoadFormat.box 0).ready = none ∧ sLoadFormat.power.stopped = false ∧
     (∃ img ∈ (sLoadFormat.box 0).taken, img.code = 80 ∧ (sLoadFormat.ref (hIdx img.handle)).fault = none ∧
       (sLoadFormat.ref (hIdx img.handle)).phase = RefPhase.loading ∧ loadFirst img.payload = false ∧
       (sLoadFormat.ref (hIdx img.handle)).format ≠ loadFormat img.payload)) ∧
    ((sLoadNoEngine.box 0).started = true ∧ (sLoadNoEngine.box 0).ready = none ∧ sLoadNoEngine.power.stopped = false ∧
     sLoadNoEngine.desAtWork none = [] ∧
     (∃ img ∈ (sLoadNoEngine.box 0).taken, img.code = 80 ∧ (sLoadNoEngine.ref (hIdx img.handle)).fault = none ∧
       ((sLoadNoEngine.ref (hIdx img.handle)).phase = RefPhase.loading ∧
       ((sLoadNoEngine.ref (hIdx img.handle)).format = loadFormat img.payload ∨ loadFirst img.payload = true) ∨
       (sLoadNoEngine.ref (hIdx img.handle)).phase = RefPhase.empty ∧ loadFirst img.payload = true))) ∧
    ((sLoadWaits.box 0).started = true ∧ (sLoadWaits.box 0).ready = none ∧ sLoadWaits.power.stopped = false ∧
     sLoadWaits.desAtWork none ≠ [] ∧
     (∃ img ∈ (sLoadWaits.box 0).taken, img.code = 80 ∧ (sLoadWaits.ref (hIdx img.handle)).fault = none ∧
       ((sLoadWaits.ref (hIdx img.handle)).phase = RefPhase.loading ∧
       ((sLoadWaits.ref (hIdx img.handle)).format = loadFormat img.payload ∨ loadFirst img.payload = true) ∨
       (sLoadWaits.ref (hIdx img.handle)).phase = RefPhase.empty ∧ loadFirst img.payload = true) ∧
       (sLoadWaits.spareDe none = none ∨ loadCount img.payload ≠ 0 ∧ sLoadWaits.hostData 0 = none))) ∧
    ((sLoadFault.box 0).started = true ∧ (sLoadFault.box 0).ready = none ∧ sLoadFault.power.stopped = false ∧
     (∃ img ∈ (sLoadFault.box 0).taken, img.code = 80 ∧ ∃ ch ∈ (sLoadFault.ref (hIdx img.handle)).fault, True)) := by
  and_intros <;> decide +kernel


theorem isOk {ε α : Type} {x : Except ε α} (h : x.toOption.isSome = true) : ∃ a, x = .ok a := by
  cases x with
  | ok a => exact ⟨a, rfl⟩
  | error _ => exact nomatch h

theorem error_of {ε α : Type} {x : Except ε α} (h : x.toOption.isNone = true) : ∃ e, x = .error e := by
  cases x with
  | ok a => exact nomatch h
  | error e => exact ⟨e, rfl⟩

/-- The state in which a first piece of a reference is judged. -/
def loadInto (s : State) : State := (s.dropData 0).emptyRef 0

/-- A piece without room, an empty piece that is not the last, an empty last piece after a header for no step, one whose
playback would ask for too much, and a piece that is corrupt. -/
theorem witness_ReferenceLoads_data :
    (Safety.Running sLoadNoRoom 0 (cmd 0x50 0x30010000 (loadBytes 41 2 3)) ∧ (sLoadNoRoom.ref 0).fault = none ∧
     (sLoadNoRoom.ref 0).phase = .empty ∧ sLoadNoRoom.spareDe none ≠ none ∧
     sLoadNoRoom.hostData 0 = some (memberA ++ memberB)) ∧
    (∃ e, (loadInto sLoadNoRoom).roomFor0A 0 (memberA ++ memberB).length = .error e) ∧
    (Safety.Running sLoadNothing 0 (cmd 0x50 0x30010000 (loadBytes 0 2 1)) ∧ (sLoadNothing.ref 0).fault = none ∧
     (sLoadNothing.ref 0).phase = .empty ∧ loadFirst (loadBytes 0 2 1) = true ∧ sLoadNothing.spareDe none ≠ none ∧
     loadCount (loadBytes 0 2 1) = 0 ∧ loadLast (loadBytes 0 2 1) = false) ∧
    (∃ pages, (sLoadNothing.emptyRef 0).roomFor0A 0 0 = .ok pages) ∧
    verifyMembers 2 1 [] (96 * mebi) ((sLoadNothing.emptyRef 0).ref 0).members ((sLoadNothing.emptyRef 0).ref 0).ends
      ((sLoadNothing.emptyRef 0).ref 0).demand 0 = .ok [] [] 0 0 ∧
    (Safety.Running sLoadLast 0 (cmd 0x50 0x30010000 (loadBytes 0 2 2)) ∧ (sLoadLast.ref 0).fault = none ∧
     (sLoadLast.ref 0).phase = .loading ∧ (sLoadLast.ref 0).format = loadFormat (loadBytes 0 2 2) ∧
     sLoadLast.spareDe none ≠ none ∧ loadCount (loadBytes 0 2 2) = 0 ∧ loadFirst (loadBytes 0 2 2) = false ∧
     loadLast (loadBytes 0 2 2) = true) ∧
    (∃ pages, sLoadLast.roomFor0A 0 0 = .ok pages) ∧
    verifyMembers 2 1 [] (96 * mebi) (sLoadLast.ref 0).members (sLoadLast.ref 0).ends (sLoadLast.ref 0).demand 0 =
      .ok [[0]] [] 0 0 ∧
    [([0] : List DWord)].length = refSteps { RefDyn.init with members := [[0]] } + 1 ∧
    (Safety.Running sLoadDemand 0 (cmd 0x50 0x30010000 (loadBytes 0 2 2)) ∧ (sLoadDemand.ref 0).fault = none ∧
     (sLoadDemand.ref 0).phase = .loading ∧ (sLoadDemand.ref 0).format = loadFormat (loadBytes 0 2 2) ∧
     sLoadDemand.spareDe none ≠ none ∧ 6400000000 < (sLoadDemand.ref 0).demand) ∧
    (∃ pages, sLoadDemand.roomFor0A 0 0 = .ok pages) ∧
    verifyMembers 2 1 [] (96 * mebi) (sLoadDemand.ref 0).members (sLoadDemand.ref 0).ends (sLoadDemand.ref 0).demand 0 =
      .ok [[0]] [] 6400000001 0 ∧
    (Safety.Running sLoadCorrupt 0 (cmd 0x50 0x30010000 (loadBytes 3 2 1)) ∧ (sLoadCorrupt.ref 0).fault = none ∧
     (sLoadCorrupt.ref 0).phase = .empty ∧ sLoadCorrupt.spareDe none ≠ none ∧
     sLoadCorrupt.hostData 0 = some [120, 218, 7]) ∧
    (∃ pages, (loadInto sLoadCorrupt).roomFor0A 0 3 = .ok pages) ∧
    (match verifyMembers 2 4 [120, 218, 7] (96 * mebi) [] [] 0 0 with
     | .ok .. => false
     | .bad .. => true) = true := by
  unfold Safety.Running
  and_intros
  all_goals first
    | with_reducible refine isOk ?_; decide +kernel
    | with_reducible refine error_of ?_; decide +kernel
    | decide +kernel

theorem witness_RegisterReads :
    (sHoldOver.pcie.linkUp = false) ∧
    (sD3.pcie.linkUp = true ∧ sD3.pcie.d3hot = true) ∧
    (sResetting.pcie.linkUp = true ∧ sResetting.pcie.d3hot = false ∧ sResetting.pcie.flr = true) ∧
    (sReset.pcie.linkUp = true ∧ sReset.pcie.d3hot = false ∧ sReset.pcie.flr = false ∧ 65536 ≤ (524288#26).toNat ∧
     (524288#26).toNat < 1048576) ∧
    (sReset.pcie.linkUp = true ∧ sReset.pcie.d3hot = false ∧ sReset.pcie.flr = false ∧
     ((0#26).toNat < 65536 ∨ 1048576 ≤ (0#26).toNat) ∧ (0 ≠ 32 ∧ 0 ≠ 64 ∨ (0#26).toNat % 4 ≠ 0)) ∧
    (sReset.pcie.linkUp = true ∧ sReset.pcie.d3hot = false ∧ sReset.pcie.flr = false ∧
     ((0#26).toNat < 65536 ∨ 1048576 ≤ (0#26).toNat) ∧ (0#26).toNat % 4 = 0 ∧ sReset.dieReachable (0#26).toNat = true) ∧
    (sReset.pcie.linkUp = true ∧ sReset.pcie.d3hot = false ∧ sReset.pcie.flr = false ∧
     ((0#26).toNat < 65536 ∨ 1048576 ≤ (0#26).toNat) ∧ (0#26).toNat % 4 = 0 ∧ 1 ≠ (0#26).toNat ∧ 1 ≠ (0#26).toNat + 4) ∧
    (sRom.pcie.linkUp = true ∧ sRom.pcie.d3hot = false ∧ sRom.romDecodes = true ∧
     ((0#26).toNat % 2 ^ 24 + 0 / 8 ≤ 1048576 ∨ sRom.power.fw.programming ≠ none)) ∧
    (sReset.pcie.linkUp = true ∧ (sReset.pcie.d3hot = true ∨ sReset.romDecodes = false)) ∧
    (sBootable.pcie.linkUp = true ∧ sBootable.pwr = 0) ∧
    (sReset.pcie.linkUp = true ∧ sReset.pwr ≠ 0 ∧ (∃ v ∈ sReset.configWord ((0#26).toNat % 4096 / 4 * 4), True)) := by
  and_intros <;> decide +kernel

theorem witness_RegisterWrites :
    (sHoldOver.pcie.linkUp = false) ∧
    (sResetting.pcie.flr = true ∧ sResetting.pcie.d3hot = false ∧ attr32.poisoned = false) ∧
    (sD3.pcie.d3hot = true ∨ attr32.poisoned = true) ∧
    (sReset.pcie.linkUp = true ∧ sReset.pcie.d3hot = false ∧ attr32.poisoned = false ∧
     ((0#26).toNat < 65536 ∨ 196608 ≤ (0#26).toNat ∧ (0#26).toNat < 524288 ∨ 557056 ≤ (0#26).toNat) ∧
     (sReset.unlocked = false ∨ (0#26).toNat % 4 ≠ 0 ∨ (0#26).toNat < 1048576 ∨ 50331648 ≤ (0#26).toNat ∨
       attr32.bits ≠ 32 ∧ attr32.bits ≠ 64 ∨
       sReset.dieReachable (0#26).toNat = false ∧ (attr32.bits = 32 ∨
       sReset.dieReachable ((0#26).toNat + 4) = false))) ∧
    (sCommitUnlocked.pcie.linkUp = true ∧ sCommitUnlocked.pcie.d3hot = false ∧ sCommitUnlocked.pcie.flr = false ∧
     attr32.poisoned = false ∧ 1048576 ≤ (16777216#26).toNat ∧ (16777216#26).toNat < 50331648 ∧
     sCommitUnlocked.unlocked = true ∧ (16777216#26).toNat % 4 = 0 ∧
     sCommitUnlocked.dieReachable (16777216#26).toNat = true ∧
     (attr32.bits = 32 ∨ attr32.bits = 64) ∧
     (∃ sp ∈ regSpec (16777216#26).toNat, True)) ∧
    (sCommitUnlocked.pcie.linkUp = true ∧ sCommitUnlocked.pcie.d3hot = false ∧ sCommitUnlocked.pcie.flr = false ∧
     attr32.poisoned = false ∧ 1048576 ≤ (16777216#26).toNat ∧ (16777216#26).toNat < 50331648 ∧
     sCommitUnlocked.unlocked = true ∧ (16777216#26).toNat % 4 = 0 ∧
     sCommitUnlocked.dieReachable (16777216#26).toNat = true ∧ attr32.bits = 32 ∧
     ¬(2097152 ≤ (16777216#26).toNat ∧ (16777216#26).toNat < 2162688 ∧ (16777216#26).toNat % 4096 = 256) ∧
     (∀ q < 5, (16777216#26).toNat ≠ HUB_Q q 0) ∧ 0 ≠ (16777216#26).toNat ∧ (∃ sp ∈ regSpec (16777216#26).toNat, True)) ∧
    (sCommitUnlocked.pcie.linkUp = true ∧ sCommitUnlocked.pcie.d3hot = false ∧ sCommitUnlocked.pcie.flr = false ∧
     attr32.poisoned = false ∧ 1048576 ≤ (1069056#26).toNat ∧ (1069056#26).toNat < 50331648 ∧
     sCommitUnlocked.unlocked = true ∧ (1069056#26).toNat % 4 = 0 ∧
     sCommitUnlocked.dieReachable (1069056#26).toNat = true ∧ attr32.bits = 32 ∧
     ¬(2097152 ≤ (1069056#26).toNat ∧ (1069056#26).toNat < 2162688 ∧ (1069056#26).toNat % 4096 = 256) ∧
     (∀ q < 5, (1069056#26).toNat ≠ HUB_Q q 0) ∧ 0 < 4 ∧ (1069056#26).toNat = HUB_TOUT_CTL 0 ∧
     (∃ sp ∈ regSpec (1069056#26).toNat, True)) ∧
    (sCommitUnlocked.pcie.linkUp = true ∧ sCommitUnlocked.pcie.d3hot = false ∧ sCommitUnlocked.pcie.flr = false ∧
     attr32.poisoned = false ∧ 1048576 ≤ (1064960#26).toNat ∧ (1064960#26).toNat < 50331648 ∧
     sCommitUnlocked.unlocked = true ∧ (1064960#26).toNat % 4 = 0 ∧
     sCommitUnlocked.dieReachable (1064960#26).toNat = true ∧ attr32.bits = 32 ∧
     (1064960#26).toNat = HUB_Q 0 0 ∧ 0 ≠ (1064960#26).toNat ∧ 0 ≠ HUB_Q 0 20 ∧ (∃ sp ∈ regSpec (1064960#26).toNat, True)) ∧
    (sCommitUnlocked.pcie.linkUp = true ∧ sCommitUnlocked.pcie.d3hot = false ∧ sCommitUnlocked.pcie.flr = false ∧
     attr32.poisoned = false ∧ 1048576 ≤ (2097408#26).toNat ∧ (2097408#26).toNat < 50331648 ∧
     sCommitUnlocked.unlocked = true ∧ (2097408#26).toNat % 4 = 0 ∧
     sCommitUnlocked.dieReachable (2097408#26).toNat = true ∧ attr32.bits = 32 ∧
     (2097408#26).toNat = MC_TRN_CTL 0 ∧ bit (BitVec.setWidth 32 1#64) 0 = true ∧
     (sCommitUnlocked.addRegF HUB_RF_STATE 16 16 1).regBit (2097408#26).toNat 5 = false ∧ 0 < 24 ∧
     (∃ sp ∈ regSpec (2097408#26).toNat, True)) ∧
    (sCommitUnlocked.pcie.linkUp = true ∧ sCommitUnlocked.pcie.d3hot = false ∧ sCommitUnlocked.pcie.flr = false ∧
     attr64.poisoned = false ∧ 1048576 ≤ (16777216#26).toNat ∧ (16777216#26).toNat < 50331648 ∧
     sCommitUnlocked.unlocked = true ∧ (16777216#26).toNat % 4 = 0 ∧
     sCommitUnlocked.dieReachable (16777216#26).toNat = true ∧ attr64.bits = 64 ∧
     (∃ sp ∈ regSpec (16777216#26).toNat, True)) ∧
    (sReset.pcie.linkUp = true ∧ sReset.pcie.d3hot = false ∧ sReset.pcie.flr = false ∧
     attr32.poisoned = false ∧ attr32.bits = 32 ∧
     (524288#26).toNat = 524288 + 4 * 0 ∧ 0 < 8192 ∧ 1 ≠ 0) ∧
    (sPba.pcie.linkUp = true ∧ sPba.pcie.d3hot = false ∧ sPba.pcie.flr = false ∧
     attr32.poisoned = false ∧ attr32.bits = 32 ∧
     (524288#26).toNat = 524288 + 4 * 0 ∧ 0 < 8192 ∧ (∃ k ∈ sPba.pcie.pba, k ∈ sPba.pcie.pba)) ∧
    (sReset.pcie.linkUp = true ∧ sReset.pcie.d3hot = false ∧ sReset.pcie.flr = false ∧
     attr32.poisoned = false ∧ (65536#26).toNat = 65536 + 4096 * 0 + 0 ∧
     0 + min 8 (attr32.bits / 8) ≤ 4096 ∧ 0 < 4096 ∧ 1 ≠ 0) ∧
    (sAbortCommit.pcie.linkUp = true ∧ sAbortCommit.pcie.d3hot = false ∧ sAbortCommit.pcie.flr = false ∧
     attr32.poisoned = false ∧ (65536#26).toNat = 65536 + 4096 * 0 + 0 ∧
     0 + min 8 (attr32.bits / 8) ≤ 4096 ∧ 0 < 4096 ∧ (sAbortCommit.box 0).owner = true) ∧
    (sReset.pcie.linkUp = true ∧ sReset.pcie.d3hot = false ∧ sReset.pcie.flr = false ∧
     attr32.poisoned = false ∧ (65536#26).toNat = 65536 + 4096 * 0 + 0 ∧
     0 + min 8 (attr32.bits / 8) ≤ 4096 ∧ 0 < 4096 ∧ (sReset.box 0).owner = false) ∧
    (sReset.pcie.linkUp = true ∧ sReset.pwr ≠ 0 ∧ (524292#26).toNat % 4096 / 4 * 4 = 4) ∧
    (sReset.pcie.linkUp = true ∧ sReset.pwr ≠ 0 ∧ (16#26).toNat % 4096 / 4 * 4 = 16) ∧
    (sReset.pcie.linkUp = true ∧ sReset.pwr ≠ 0 ∧ (48#26).toNat % 4096 / 4 * 4 = 48) := by
  and_intros <;> decide +kernel

theorem witness_ResetsAndPowerFailure :
    (sPerst.power.powered = false ∨ sPerst.power.perst = true) ∧
    (sUnpowered.power.powered = false) ∧
    (sReset.power.powered = true ∧ sReset.power.hotDie = none ∧ (sReset.halfPart = true → Die.cd0 ≠ Die.cd1)) ∧
    (sTripped.power.powered = false ∨ sTripped.power.hotDie ≠ none ∨ sTripped.halfPart = true ∧ Die.cd0 = Die.cd1) ∧
    (sTripped.power.hotDie ≠ none) ∧
    (sReset.power.powered = true ∧ sReset.power.pwrFail = false ∧ sReset.power.perst = false ∧ sReset.power.hotDie = none) ∧
    (sPwrFail.power.powered = false ∨ sPwrFail.power.pwrFail = true) ∧
    (sPwrFail.power.powered = true ∧ sPwrFail.power.pwrFail = true ∧ sPwrFail.power.stopped = true ∧ (0#32).toNat < 150) ∧
    (sPwrFail.power.powered = true ∧ sPwrFail.power.pwrFail = true ∧ sPwrFail.power.stopped = true ∧
     150 ≤ (65543#32).toNat) ∧
    (sReset.power.powered = false ∨ sReset.power.pwrFail = false) := by
  and_intros <;> decide +kernel

theorem witness_RingReaders :
    (sReset.hasStream 1 = false) ∧
    (compressedBase.hasStream 0 = true ∧ (compressedBase.stream 0).ringDepth = 0) ∧
    (sEngine.hasStream 0 = true ∧ (sEngine.stream 0).ringDepth ≠ 0) ∧
    (∃ z ∈ (sRingStalled.stream 0).qStalled, sRingStalled.hasStream 0 = true ∧ (sRingStalled.stream 0).ringDepth ≠ 0 ∧
       (sRingStalled.stream 0).qStalled = some (z.fst, false)) ∧
    (∃ z ∈ (sRingStalledPop.stream 0).qStalled, sRingStalledPop.hasStream 0 = true ∧
       (sRingStalledPop.stream 0).ringDepth ≠ 0 ∧ (sRingStalledPop.stream 0).qStalled = some (z.fst, true)) ∧
    (compressedBase.hasStream 0 = true ∧
     ((compressedBase.stream 0).ringDepth = 0 ∨ (compressedBase.stream 0).qStalled = none)) ∧
    (sRingHeld.hasStream 0 = true ∧ (∃ a ∈ (sRingHeld.stream 0).qMark, True)) ∧
    (compressedBase.hasStream 0 = true ∧ (compressedBase.stream 0).qMark = none) := by
  and_intros <;> decide +kernel

theorem witness_SequencerDecides :
    (sReset.time.armed = false ∨ sReset.sqEnabled 0 = false ∨
       sReset.slot ≤ (sReset.seq 0).next + 6 + pathDelay (sReset.sqPath 0)) ∧
    (sSeq.time.armed = true ∧ sSeq.sqEnabled 0 = true ∧ (sSeq.seq 0).next + 6 + pathDelay (sSeq.sqPath 0) < sSeq.slot ∧
     (∀ e ∈ (sSeq.seq 0).deadEnd, e ≤ (sSeq.seq 0).next) ∧ 1 < 4 ∧
     sSeq.branchHolds 0 (sSeq.sqLevel 0) 1 (sSeq.seqInputs 0 (sSeq.seq 0).next) = true ∧
     (∀ c < 1, sSeq.branchHolds 0 (sSeq.sqLevel 0) c (sSeq.seqInputs 0 (sSeq.seq 0).next) = false) ∧
     (∃ idx ∈ sSeq.sqSeq 0, sSeq.isShed (objKey 2 idx) = false)) ∧
    (sSeqStays.time.armed = true ∧ sSeqStays.sqEnabled 0 = true ∧
     (sSeqStays.seq 0).next + 6 + pathDelay (sSeqStays.sqPath 0) < sSeqStays.slot ∧
     (∀ e ∈ (sSeqStays.seq 0).deadEnd, e ≤ (sSeqStays.seq 0).next) ∧
     (∀ b < 4, sSeqStays.branchHolds 0 (sSeqStays.sqLevel 0) b (sSeqStays.seqInputs 0 (sSeqStays.seq 0).next) = false) ∧
     (∃ idx ∈ sSeqStays.sqSeq 0, sSeqStays.isShed (objKey 2 idx) = false)) ∧
    (sSeqDead.time.armed = true ∧ sSeqDead.sqEnabled 0 = true ∧
     (sSeqDead.seq 0).next + 6 + pathDelay (sSeqDead.sqPath 0) < sSeqDead.slot ∧ (sSeqDead.seq 0).forced = [] ∧
     (∃ e ∈ (sSeqDead.seq 0).deadEnd, (sSeqDead.seq 0).next < e) ∧
     (∃ idx ∈ sSeqDead.sqSeq 0, sSeqDead.isShed (objKey 2 idx) = false)) := by
  and_intros <;> decide +kernel

theorem witness_ServiceCommands :
    ((sSelftestAbsent.box 0).started = true ∧ (sSelftestAbsent.box 0).ready = none ∧
     sSelftestAbsent.power.stopped = false ∧
     (∃ img ∈ (sSelftestAbsent.box 0).taken, img.code = 112 ∧
       (((selftestUnits img.payload).take 1).all fun v => uaPresent sSelftestAbsent.halfPart v) = true ∧
       ((selftestUnits img.payload)[1]?.any fun u => !uaPresent sSelftestAbsent.halfPart u) = true)) ∧
    ((sSelftestArmed.box 0).started = true ∧ (sSelftestArmed.box 0).ready = none ∧ sSelftestArmed.power.stopped = false ∧
     (∃ img ∈ (sSelftestArmed.box 0).taken, img.code = 112 ∧
       ((selftestUnits img.payload).all fun u => uaPresent sSelftestArmed.halfPart u) = true ∧
       ((selftestUnits img.payload).any fun u => (sSelftestArmed.calLanes u).any fun n => sSelftestArmed.laneArmed n) =
         true)) ∧
    ((sSelftest.box 0).started = true ∧ (sSelftest.box 0).ready = none ∧ sSelftest.power.stopped = false ∧
     (∃ img ∈ (sSelftest.box 0).taken, img.code = 112 ∧
       ((selftestUnits img.payload).all fun u => uaPresent sSelftest.halfPart u) = true ∧
       ((selftestUnits img.payload).all fun u => (sSelftest.calLanes u).all fun n => !sSelftest.laneArmed n) = true)) ∧
    ((sUnlockArmed.box 0).started = true ∧ (sUnlockArmed.box 0).ready = none ∧ sUnlockArmed.power.stopped = false ∧
     sUnlockArmed.time.armed = true ∧ (∃ img ∈ (sUnlockArmed.box 0).taken, img.code = 114 ∧ getLe img.payload 0 1 = 1)) ∧
    ((sLockArmed.box 0).started = true ∧ (sLockArmed.box 0).ready = none ∧ sLockArmed.power.stopped = false ∧
     sLockArmed.time.armed = true ∧ (∃ img ∈ (sLockArmed.box 0).taken, img.code = 114 ∧ getLe img.payload 0 1 = 0)) ∧
    ((sUnlock.box 0).started = true ∧ (sUnlock.box 0).ready = none ∧ sUnlock.power.stopped = false ∧
     sUnlock.time.armed = false ∧ (∃ img ∈ (sUnlock.box 0).taken, img.code = 114 ∧ getLe img.payload 0 1 = 1)) ∧
    ((sLock.box 0).started = true ∧ (sLock.box 0).ready = none ∧ sLock.power.stopped = false ∧ sLock.time.armed = false ∧
     sLock.unlocked = false ∧ (∃ img ∈ (sLock.box 0).taken, img.code = 114 ∧ getLe img.payload 0 1 = 0)) ∧
    ((sLockOpen.box 0).started = true ∧ (sLockOpen.box 0).ready = none ∧ sLockOpen.power.stopped = false ∧
     sLockOpen.time.armed = false ∧ sLockOpen.unlocked = true ∧
     (∃ img ∈ (sLockOpen.box 0).taken, img.code = 114 ∧ getLe img.payload 0 1 = 0)) ∧
    (sCommitUnlocked.unlocked = true ∧
     BitVec.toNat (sCommitUnlocked.reg HUB_RF_LAPSE) ≤ BitVec.toNat sCommitUnlocked.opSeconds) ∧
    (sReset.unlocked = false ∨ BitVec.toNat sReset.opSeconds < BitVec.toNat (sReset.reg HUB_RF_LAPSE)) := by
  and_intros <;> decide +kernel

theorem witness_SmBus :
    (sReset.power.powered = true ∧ sReset.halfPart = false) ∧
    (sBindAbsent.power.powered = true ∧ sBindAbsent.halfPart = true) ∧
    (0#8 ≠ 1) := by
  and_intros <;> decide +kernel

/-- The rollback counter that a start takes up, and the slot that it then starts. -/
def startRollback (o : StartOutcome) (s : State) : Word :=
  match ({ s.ledger with
      metaA := { s.ledger.metaA with bad := s.ledger.metaA.bad.filter (fun i => !o.metaBadA.contains i) ++ o.metaBadA }
      metaB := { s.ledger.metaB with bad := s.ledger.metaB.bad.filter (fun i => !o.metaBadB.contains i) ++ o.metaBadB } } :
      LedgerState).metaOf .rollback with
  | some c => c.rollback
  | none => BitVec.ofNat 32 (([0, 1].filterMap fun k => (s.power.fw.verified o k).map fun m => fwRollback m.1).foldl max 0)

def startBoot (o : StartOutcome) (s : State) : Option (Nat × List Byte × Tbl Byte) :=
  (s.modLedger fun l => { l with rollback := startRollback o s }).bootSlot o (s.draw 1).1.toNat

theorem sBootable_slot0 (o : StartOutcome) : sBootable.power.fw.verified o 0 = some (bootManifest, []) := by
  have h1 : sBootable.power.fw.slotHolds o 0 = some (bootManifest, []) := rfl
  have h2 : sBootable.power.fw.signed bootManifest = true := by decide +kernel
  have h3 : (sha384 (fwImage (bootManifest, [])) == fwDigest bootManifest) = true := by decide +kernel
  have h4 : sBootable.power.fw.bad.contains 0 = false := rfl
  rw [FwState.verified, h4, h1]
  simp [Option.filter, h2, h3]

theorem boots {o : StartOutcome} {s : State} (n : Nat) (hp : s.power = sBootable.power) (hr : s.ledger.rollback = 0)
    (h1 : sBootable.power.fw.verified o 1 = none) : s.bootSlot o n = some (0, bootManifest, []) := by
  have v0 : s.validSlot o 0 = some (bootManifest, []) := by
    rw [State.validSlot, hp, hr, sBootable_slot0]
    decide +kernel
  have v1 : s.validSlot o 1 = none := by
    rw [State.validSlot, hp, h1]
    rfl
  have v : s.power.fw.pending = none := by
    rw [hp]
    rfl
  simp only [State.bootSlot, v, v0, v1]
  rfl

theorem witness_StartUp :
    (sReset.power.powered = false ∨ sReset.power.hotDie ≠ none ∨ sReset.pwr ≠ 0) ∧
    (sInReset.power.powered = true ∧ sInReset.power.hotDie = none ∧ sInReset.pwr = 0 ∧
     startBoot startNoSlot sInReset = none) ∧
    (sBootable.power.powered = true ∧ sBootable.power.hotDie = none ∧ sBootable.pwr = 0 ∧
     startBoot startNoLock sBootable = some (0, bootManifest, []) ∧ startNoLock.pllLock = false) ∧
    (startBoot startOneChannel sBootable = some (0, bootManifest, []) ∧ startOneChannel.pllLock = true) := by
  have b1 : startBoot startNoLock sBootable = some (0, bootManifest, []) := by
    unfold startBoot
    refine boots _ ?_ (by decide +kernel) (by decide +kernel)
    rfl
  have b2 : startBoot startOneChannel sBootable = some (0, bootManifest, []) := by
    unfold startBoot
    refine boots _ ?_ (by decide +kernel) (by decide +kernel)
    rfl
  refine ⟨by decide +kernel, ⟨rfl, rfl, rfl, by decide +kernel⟩, ⟨rfl, rfl, rfl, b1, rfl⟩, b2, rfl⟩

theorem witness_StationPort :
    (sAsleepStation.portOn = false) ∧
    (sReset.portOn = true ∧ ((sReset.each [] fun s op => s.consumeOp (QRef.onChip 0) op).queue 0).skipState = false ∧
     ((sReset.each [] fun s op => s.consumeOp (QRef.onChip 0) op).queue 0).rejecting = false ∧
     QueueDyn.stagingFull (qKind 0) ((sReset.each [] fun s op => s.consumeOp (QRef.onChip 0) op).queue 0) = false ∧
     ((sReset.each [] fun s op => s.consumeOp (QRef.onChip 0) op).queue 0).occ < 8192 ∧
     ((sReset.each [] fun s op => s.consumeOp (QRef.onChip 0) op).queue 0).occ - ((sReset.each [] fun s op =>
       s.consumeOp (QRef.onChip 0) op).queue 0).visible < 2048) ∧
    (sQueueOpen.portOn = true ∧ (sQueueOpen.queue 0).skipState = false ∧ (sQueueOpen.queue 0).rejecting = false ∧
     (sQueueOpen.queue 0).visible < (sQueueOpen.queue 0).occ) ∧
    ((sReset.queue 0).occ ≤ (sReset.queue 0).visible) ∧
    (sAsleepStation.portOn = false ∨ sAsleepStation.station.pendingRead ≠ none) ∧
    (sVerdict.portOn = true ∧ sVerdict.station.pendingRead = none ∧ (sVerdict.queue 1).read < (sVerdict.queue 1).visible ∧
     (∃ i ∈ (List.drop (sVerdict.queue 1).read (sVerdict.queue 1).items).head?,
       List.drop (sVerdict.queue 1).read (sVerdict.queue 1).items = i :: (List.drop (sVerdict.queue 1).read
       (sVerdict.queue 1).items).tail)) ∧
    (sReset.portOn = true ∧ sReset.station.pendingRead = none ∧ (sReset.queue 1).depth = 0) ∧
    (sVerdictPart.portOn = true ∧ sVerdictPart.station.partRead ≠ 0) ∧
    (sReset.portOn = false ∨ sReset.station.partRead = 0) ∧
    (sReset.nextAnnotation = none) ∧
    (∃ z ∈ sAnnotated.nextAnnotation, sAnnotated.nextAnnotation = some (z.fst, z.snd)) ∧
    (∃ z ∈ sQueueOpen.nextAnnotation, sQueueOpen.nextAnnotation = some (z.fst, z.snd) ∧
       (sQueueOpen.time.armed = false ∨ z.snd < sQueueOpen.time.armTime)) ∧
    (∃ z ∈ sAnnotatedNone.nextAnnotation, sAnnotatedNone.nextAnnotation = some (z.fst, z.snd) ∧
       sAnnotatedNone.time.armed = true ∧ sAnnotatedNone.time.armTime ≤ z.snd ∧ z.fst.headD 0 = 21332 ∧
       3 ≤ z.fst.length ∧ sAnnotatedNone.stationJob (BitVec.toNat (z.fst.getD 2 0)) = false) ∧
    (∃ z ∈ sAnnotated.nextAnnotation, sAnnotated.nextAnnotation = some (z.fst, z.snd) ∧ sAnnotated.time.armed = true ∧
       sAnnotated.time.armTime ≤ z.snd ∧ z.fst.headD 0 = 21332 ∧ 3 ≤ z.fst.length ∧
       sAnnotated.stationJob (BitVec.toNat (z.fst.getD 2 0)) = true ∧
       ∃ cu ∈ sAnnotated.weaver.place.cmpCu (BitVec.toNat (z.fst.getD 2 0)), True) ∧
    (∃ z ∈ sAnnotatedHeld.nextAnnotation, sAnnotatedHeld.nextAnnotation = some (z.fst, z.snd) ∧
       sAnnotatedHeld.time.armed = true ∧ sAnnotatedHeld.time.armTime ≤ z.snd ∧ z.fst.headD 0 = 21332 ∧
       3 ≤ z.fst.length ∧ sAnnotatedHeld.stationJob (BitVec.toNat (z.fst.getD 2 0)) = true ∧
       sAnnotatedHeld.weaver.place.cmpCu (BitVec.toNat (z.fst.getD 2 0)) = none ∧
       ∃ h ∈ sAnnotatedHeld.weaver.heldCmps.find? (BitVec.toNat (z.fst.getD 2 0)), True) := by
  and_intros <;> decide +kernel

theorem witness_StepKeepsInv :
    Safety.Inv (sChan0.withPending [.beat]) ∧ ∃ t, step (sChan0.withPending [.beat]) = .next t := by
  refine ⟨?_, _, rfl⟩
  constructor <;> decide +kernel

theorem witness_StepRunsFrontCommand :
    (sReset.pending = []) := by
  and_intros <;> decide +kernel

theorem witness_StreamDelivery :
    (sBuffer.canDma = true ∧ (sBuffer.stream 0).dmaFailed = false ∧
     (sBuffer.stream 0).descFetched = (sBuffer.stream 0).descTaken ∧ sBuffer.cplFree 0 (sBuffer.stream 0) = true ∧
     (∃ p ∈ sBuffer.def? 1 0, True) ∧
     (∃ d ∈ (sBuffer.stream 0).descs.head?, (sBuffer.stream 0).descs = d :: (sBuffer.stream 0).descs.tail ∧
       d.bad = false ∧ d.len ≤ (sBuffer.stream 0).fillLen)) ∧
    (sReset.canDma = false ∨ sReset.hasStream 0 = false) ∧
    (sFlushedRun.hasStream 0 = true ∧ (sFlushedRun.stream 0).ring = [] ∧ (sFlushedRun.stream 0).skipState = false ∧
     (∃ run ∈ (sFlushedRun.stream 0).missing.head?, (sFlushedRun.stream 0).missing = [run] ∧ run.cause = 7)) ∧
    ((sFlushOver.stream 0).open_ ≠ [] ∧
     (∃ p ∈ sFlushOver.def? 1 0, ∃ t0 ∈ (sFlushOver.stream 0).firstRecord, t0 + bFlushUs p * usFt < sFlushOver.slotEnd)) ∧
    (∃ p ∈ sDigests2.def? 1 0, ∃ t0 ∈ (sDigests2.stream 0).firstRecord, sDigests2.slotEnd ≤ t0 + bFlushUs p * usFt) ∧
    (sReset.time.armed = false) ∧
    (compared.time.armed = true ∧ compared.streamIds.Nodup) ∧
    (sDigests2.time.armed = true ∧ sDigests2.streamIds.Nodup ∧
     (∃ i ∈ sDigests2.streamIds, i ∈ sDigests2.streamIds ∧ sDigests2.isShed (objKey 1 i) = false ∧
       (sDigests2.stream i).open_ ≠ [] ∧ (sDigests2.stream i).open_.length + 10 + (sDigests2.stream i).reserve < 512)) := by
  and_intros <;> decide +kernel

theorem witness_StreamDoorbellsAndFetch :
    (sD3.doorbellOk attr32 = false) ∧
    (compressedBase.doorbellOk attr32 = true ∧
     movesBack (compressedBase.stream 0).descTail (0#32).toNat = false ∧
     (∃ p ∈ compressedBase.def? 1 0, ((0#32).toNat + 2 ^ 32 - (compressedBase.stream 0).cplWritten) % 2 ^ 32 ≤ bDescN p)) ∧
    (sEngine.doorbellOk attr32 = true ∧
     (∃ p ∈ sEngine.def? 1 0, (movesBack (sEngine.stream 0).descTail (0#32).toNat = true ∨
       bDescN p < ((0#32).toNat + 2 ^ 32 - (sEngine.stream 0).cplWritten) % 2 ^ 32))) ∧
    (compressedBase.doorbellOk attr32 = true ∧ (∃ p ∈ compressedBase.def? 1 0, True)) ∧
    (sReset.doorbellOk attr32 = true ∧ sReset.def? 1 0 = none) ∧
    (sEngine.canDma = true ∧ (sEngine.stream 0).dmaFailed = false ∧ sEngine.fetching 0 = false ∧
     sEngine.pcie.queued = [] ∧ sEngine.pcie.outstanding.length + 1 < sEngine.pcie.readLimit ∧
     (∃ p ∈ sEngine.def? 1 0,
       fetchCount sEngine.pcie.maxReadRequest (max 1 (bDescN p)) (sEngine.stream 0).descFetched (sEngine.stream
       0).descTail ≠ 0)) ∧
    (∃ p ∈ compressedBase.def? 1 0, (compressedBase.canDma = false ∨ (compressedBase.stream 0).dmaFailed = true ∨
       compressedBase.fetching 0 = true ∨
       fetchCount compressedBase.pcie.maxReadRequest (max 1 (bDescN p)) (compressedBase.stream 0).descFetched
       (compressedBase.stream 0).descTail = 0 ∨ compressedBase.pcie.readLimit ≤ compressedBase.pcie.outstanding.length)) := by
  and_intros <;> decide +kernel

theorem witness_TermEvents :
    (sReset.time.armed = false ∨ sReset.termOn (durTerm (DurUnit.stake 0 0)) = false ∨
       (sReset.durCfg (durTerm (DurUnit.stake 0 0))).deadline (sReset.unitMeas (durTerm (DurUnit.stake 0 0))) = none) ∧
    (∃ x ∈ (sDurationLate.durCfg (durTerm (DurUnit.stake 0 0))).deadline (sDurationLate.unitMeas (durTerm
       (DurUnit.stake 0 0))),
       (sDurationLate.firstEdge (durTerm (DurUnit.stake 0 0)) (sDurationLate.deadlineBound (durTerm (DurUnit.stake 0
       0))) ≤ x ∨ (sDurationLate.durCfg (durTerm (DurUnit.stake 0 0))).kind = 4 ∧
       (sDurationLate.durCfg (durTerm (DurUnit.stake 0 0))).max = 0)) ∧
    (sDuration.time.armed = true ∧ sDuration.termOn (durTerm (DurUnit.stake 0 0)) = true ∧
     ((sDuration.durCfg (durTerm (DurUnit.stake 0 0))).kind ≠ 4 ∨
       (sDuration.durCfg (durTerm (DurUnit.stake 0 0))).max ≠ 0 ∧
       (sDuration.durCfg (durTerm (DurUnit.stake 0 0))).repeat_ = false) ∧
     (∃ x ∈ (sDuration.durCfg (durTerm (DurUnit.stake 0 0))).deadline (sDuration.unitMeas (durTerm (DurUnit.stake 0
       0))), x < sDuration.firstEdge (durTerm (DurUnit.stake 0 0)) (sDuration.deadlineBound (durTerm (DurUnit.stake 0 0)))) ∧
     (∃ a ∈ (durTerm (DurUnit.stake 0 0)).hits, True)) ∧
    (sTimeout.time.armed = true ∧ sTimeout.termOn (durTerm (DurUnit.stake 0 0)) = true ∧
     (sTimeout.durCfg (durTerm (DurUnit.stake 0 0))).kind = 4 ∧ (sTimeout.durCfg (durTerm (DurUnit.stake 0 0))).max ≠ 0 ∧
     (sTimeout.durCfg (durTerm (DurUnit.stake 0 0))).repeat_ = true ∧
     (∃ x ∈ (sTimeout.durCfg (durTerm (DurUnit.stake 0 0))).deadline (sTimeout.unitMeas (durTerm (DurUnit.stake 0 0))),
       x < sTimeout.firstEdge (durTerm (DurUnit.stake 0 0)) (sTimeout.deadlineBound (durTerm (DurUnit.stake 0 0))))) ∧
    (sReset.time.armed = false ∨ sReset.sessionTime (pinStamp ⟨30000, false, false⟩).fst < sReset.time.armTime) ∧
    (compared.time.armed = true ∧ compared.time.armTime ≤ compared.sessionTime (pinStamp ⟨30000, false, false⟩).fst) := by
  and_intros <;> decide +kernel

theorem witness_TimersMarksPulses :
    (sTimer.sqTimerRun 0 0 = true ∧
     (∃ x ∈ (sTimer.seq 0).timers.find? 0, x.start + 256 * sTimer.sqTimerLimit 0 0 < sTimer.slotEnd)) ∧
    (∃ x ∈ (sTimerLater.seq 0).timers.find? 0, (sTimerLater.sqTimerRun 0 0 = false ∨
       sTimerLater.slotEnd ≤ x.start + 256 * sTimerLater.sqTimerLimit 0 0)) ∧
    (∃ e ∈ (sSeqDeadOver.seq 0).deadEnd, e ≤ (sSeqDeadOver.seq 0).next) ∧
    (∃ e ∈ (sSeqDead.seq 0).deadEnd, (sSeqDead.seq 0).next < e) ∧
    ((sReset.seq 0).deadEnd = none) ∧
    ((sReset.stream 0).marks = [] ∨ sReset.hasStream 0 = false) ∧
    (sMarkWaits.hasStream 0 = true ∧
     (∃ m ∈ (sMarkWaits.stream 0).marks.head?, (sMarkWaits.stream 0).marks = m :: (sMarkWaits.stream 0).marks.tail ∧
       sMarkWaits.markReady 0 m = false)) ∧
    (sMark.hasStream 0 = true ∧ sMark.isShed (objKey 1 0) = false ∧
     (∃ m ∈ (sMark.stream 0).marks.head?, (sMark.stream 0).marks = m :: (sMark.stream 0).marks.tail ∧
       sMark.markReady 0 m = true)) ∧
    ((sReset.tout 0).requests = []) ∧
    (sToutReq.regBit (HUB_TOUT_CTL 0) 17 = false ∧
     (∃ r ∈ (sToutReq.tout 0).requests.head?, (sToutReq.tout 0).requests = r :: (sToutReq.tout 0).requests.tail ∧
       r.snd ≤ sToutReq.slot)) ∧
    (sToutOn.regBit (HUB_TOUT_CTL 0) 17 = true ∧ (∀ e ∈ (sToutOn.tout 0).activeUntil, e ≤ sToutOn.slot) ∧
     (∃ r ∈ (sToutOn.tout 0).requests.head?, (sToutOn.tout 0).requests = r :: (sToutOn.tout 0).requests.tail ∧
       r.snd ≤ sToutOn.slot)) ∧
    (sToutActive.regBit (HUB_TOUT_CTL 0) 17 = true ∧ (∃ e ∈ (sToutActive.tout 0).activeUntil, sToutActive.slot < e) ∧
     (∃ r ∈ (sToutActive.tout 0).requests.head?,
       (sToutActive.tout 0).requests = r :: (sToutActive.tout 0).requests.tail ∧ r.snd ≤ sToutActive.slot)) ∧
    (∃ e ∈ (sToutOver.tout 0).activeUntil, e ≤ sToutOver.slot) ∧
    ((sReset.tout 0).activeUntil = none ∨ ∃ e, (sReset.tout 0).activeUntil = some e ∧ sReset.slot < e) := by
  and_intros <;> decide +kernel

theorem witness_VerdictsAndReplacement :
    (sModuleGone.isRetired (uModule 0 0) = true) ∧
    (sReset.isRetired (uModule 0 0) = false ∧ 2 ≤ sReset.modules 0) ∧
    (sModuleLast.isRetired (uModule 0 0) = false ∧ sModuleLast.modules 0 ≤ 1 ∧
     ((dieUnits 0).any fun u => uaKind u != 4) = true) ∧
    (List.find? (fun x => decide (x.unit = 0#32)) sReset.weaver.tests = none) ∧
    ((∀ r ∈ ([] : List (Byte × Bool)), r.snd = true) ∧ sHostTest.isRetired 7#32 = false ∧ uaIsSlice 7#32 = false ∧
     (∃ x ∈ List.find? (fun x => decide (x.unit = 7#32)) sHostTest.weaver.tests, x.classes = [] ∧ x.byError = false)) ∧
    (((3, false) : Byte × Bool) ∈ [((3, false) : Byte × Bool)] ∧ ((3, false) : Byte × Bool).snd = false ∧
      sHostTestRetired.isRetired 7#32 = true ∧
     (∃ x ∈ List.find? (fun x => decide (x.unit = 7#32)) sHostTestRetired.weaver.tests, x.classes = [])) ∧
    (sReset.weaver.replaceDue = false ∨ sReset.failed = true) ∧
    (sReplace0.weaver.replaceDue = true ∧ sReplace0.failed = false ∧ sReplace0.epochNo = 0) ∧
    (sReplace.weaver.replaceDue = true ∧ sReplace.failed = false ∧ sReplace.epochNo ≠ 0) ∧
    (sArmStandby.unlocked = true ∨ sArmStandby.halfPart = true ∧ Die.cd0 = Die.cd1 ∨ sArmStandby.asleep = true ∧
       Die.cd0 ≠ Die.hd) ∧
    (sReset.unlocked = false ∧ (sReset.asleep = true → Die.cd0 = Die.hd) ∧ (sReset.halfPart = true → Die.cd0 ≠ Die.cd1) ∧
     sReset.expectedDigest (dieNo Die.cd0) = sReset.reportedDigest (dieNo Die.cd0)) := by
  and_intros <;> first
    | exact congrArg sha256 rfl
    | decide +kernel

theorem witness_WindowMapping :
    ((sMapPast.box 0).started = true ∧ (sMapPast.box 0).ready = none ∧ sMapPast.power.stopped = false ∧
     (∃ img ∈ (sMapPast.box 0).taken, img.code = 128 ∧ ∃ k, k < mapCount img.payload ∧
       sMapPast.entryRefusal k (mapEntry img.payload k) ≠ none)) ∧
    ((sMap.box 0).started = true ∧ (sMap.box 0).ready = none ∧ sMap.power.stopped = false ∧
     (∃ img ∈ (sMap.box 0).taken, img.code = 128 ∧
       ∀ k < mapCount img.payload, sMap.entryRefusal k (mapEntry img.payload k) = none)) ∧
    (List.find? (fun x => x.fst == 0) sReset.pcie.stagedWindows = none) ∧
    (∃ z ∈ List.find? (fun x => x.fst == ↑0) sStagedSwap.pcie.stagedWindows,
       List.find? (fun x => x.fst == 0) sStagedSwap.pcie.stagedWindows = some (0, z.snd.fst, z.snd.snd) ∧
       z.snd.snd.sorted = true ∧ ∀ e ∈ z.snd.snd, e.fst / 512 = 0) ∧
    (∃ z ∈ List.find? (fun x => x.fst == ↑0) sStagedSwap.pcie.stagedWindows,
       List.find? (fun x => x.fst == 0) sStagedSwap.pcie.stagedWindows = some (0, z.snd.fst, z.snd.snd) ∧
       z.snd.snd.sorted = true ∧ (∀ e ∈ z.snd.snd, e.fst / 512 = 0) ∧ z.snd.fst = some 0 ∧
       (sStagedSwap.box 0).started = true ∧ (sStagedSwap.box 0).ready = none ∧ sStagedSwap.power.stopped = false ∧
       ∃ img ∈ (sStagedSwap.box 0).taken, img.code = 128) := by
  and_intros <;> decide +kernel

end Sys2Proof.Tests
end

section
/-!
The reset state (R12). Every table of `State.reset` is empty, so the canonical form holds and each read gives the value of an
unlisted entry: `regDefault` for a register, the initial queue for a queue, zero for a byte of DRAM.
-/
namespace Sys2Proof

/-! ### The empty table -/

@[simp] theorem Tbl.getD_nil {α : Type} (k : Nat) (d : α) : Tbl.getD ([] : Tbl α) k d = d := rfl

@[simp] theorem Tbl.sorted_nil {α : Type} : Tbl.sorted ([] : Tbl α) = true := rfl

@[simp] theorem Tbl.lean_nil {α : Type} [DecidableEq α] (dflt : Nat → α) : Tbl.lean ([] : Tbl α) dflt = true := rfl

namespace Machine

@[simp] theorem memRead_nil (a : Nat) : memRead [] a = 0 := Tbl.getD_nil a 0

/-! ### What the reset state reads as -/

@[simp] theorem State.reset_reg (a : Nat) : State.reset.reg a = regDefault a := Tbl.getD_nil a _

@[simp] theorem State.reset_queue (i : Nat) : State.reset.queue i = QueueDyn.init := Tbl.getD_nil i _

/-- Table 18.8: STATE resets to READY, every other field of PWR_STATE to 0. -/
theorem regDefault_PWR_STATE : regDefault PWR_STATE = 1 := by decide

/-- HUB_EPOCH resets to 0: no epoch has begun. -/
theorem regDefault_HUB_EPOCH : regDefault HUB_EPOCH = 0 := by decide

theorem State.reset_pwr : State.reset.pwr = 1 := by
  rw [State.pwr, State.regF, State.reset_reg, regDefault_PWR_STATE]
  rfl

theorem State.reset_epochNo : State.reset.epochNo = 0 := by
  rw [State.epochNo, State.reset_reg, regDefault_HUB_EPOCH]

end Machine

/-! ### The obligations -/

namespace Safety

open Machine

/-- Settles O4: every table of the reset state is empty, and DRAM is the initial memory. -/
theorem resetMeetsInv : Obligations.ResetMeetsInv where
  regsSorted := Tbl.sorted_nil
  regsLean := Tbl.lean_nil _
  fwSorted := Tbl.sorted_nil
  fwLean := Tbl.lean_nil _
  memory := wf_init
  lanes := Tbl.sorted_nil
  stakes := Tbl.sorted_nil
  ports := Tbl.sorted_nil
  seqs := Tbl.sorted_nil
  touts := Tbl.sorted_nil
  refs := Tbl.sorted_nil
  cmps := Tbl.sorted_nil
  hists := Tbl.sorted_nil
  images := Tbl.sorted_nil
  ivals := Tbl.sorted_nil
  streams := Tbl.sorted_nil
  queues := Tbl.sorted_nil
  ces := Tbl.sorted_nil
  des := Tbl.sorted_nil
  scheds := Tbl.sorted_nil

/-- Settles O5: the register file, the queues and DRAM list nothing, so each read gives the default; READY and epoch 0 are the
defaults of PWR_STATE and HUB_EPOCH. -/
theorem resetValues : Obligations.ResetValues := by
  have noItems (n : Nat) : (State.reset.queue n).items = [] := by rw [State.reset_queue]; rfl
  exact ⟨State.reset_reg, State.reset_pwr, rfl, rfl, State.reset_epochNo, rfl, noItems, memRead_nil⟩

end Safety

end Sys2Proof
end

section
/-!
Verdicts, module retirement, re-placement and die digest checks (R18, R307 to R312, R317, R318). The retired units stand in
the Weaver state: every operation that `Closed` describes without that part leaves them alone, so only `addRetired` and
`dueReplacement` need rules of their own.
-/
namespace Sys2Proof

namespace Machine

open Safety

/-! ### Rules for one part of the state -/

/-- What is said of the Weaver state alone is kept by every operation on the other parts. -/
theorem closed_weaver (Q : WeaverState → Prop) : Closed (· ≠ .weaver) fun s => Q s.weaver := by
  constructor
  case modWeaver => exact fun _ hw _ => absurd rfl hw
  case resetBase => exact fun _ hw _ => absurd rfl (hw .weaver)
  all_goals
    intros
    assumption

theorem closed_isRetired (u : Word) : Closed (· ≠ .weaver) fun s => s.isRetired u = true :=
  closed_weaver fun w => w.retired.contains u = true

/-- A register is kept by every operation that writes other parts only. -/
theorem reg_eq_of_frame {a : Nat} {s t : State} (h : Frame (· ≠ .reg a) s t) : t.reg a = s.reg a :=
  h.2 (.reg a) fun hne => hne rfl

@[simp] theorem reg_modWeaver (s : State) (f : WeaverState → WeaverState) (a : Nat) :
    (s.modWeaver f).reg a = s.reg a := rfl

theorem reg_ne_of_ne {a b : Nat} (h : b ≠ a) : Part.reg b ≠ Part.reg a := fun e => h (Part.reg.inj e)

namespace State

variable (s : State)

/-! ### The Weaver state after an operation on other parts -/

@[simp] theorem weaver_resumeUnit (u : Word) : (s.resumeUnit u).weaver = s.weaver := by
  refine Closed.resumeUnit (closed_weaver (· = s.weaver)) u ?_ ?_ ?_ ?_ ?_ ?_ ?_ ?_ ?_ ?_ ?_ ?_ ?_ ?_ ?_ rfl <;> nofun

@[simp] theorem weaver_noticeSelftest (id : Nat) (u : Word) (result : Nat) :
    (s.noticeSelftest id u result).weaver = s.weaver := by
  refine Closed.noticeSelftest (closed_weaver (· = s.weaver)) id u result ?_ ?_ ?_ ?_ ?_ ?_ ?_ rfl <;> nofun

@[simp] theorem weaver_announceRetired (u : Word) (cls : Nat) : (s.announceRetired u cls).weaver = s.weaver := by
  refine Closed.announceRetired (closed_weaver (· = s.weaver)) u cls ?_ ?_ ?_ ?_ ?_ ?_ ?_ ?_ ?_ ?_ ?_ rfl <;> nofun

@[simp] theorem weaver_retireSequencer (q : Nat) : (s.retireSequencer q).weaver = s.weaver := by
  refine Closed.retireSequencer (closed_weaver (· = s.weaver)) q ?_ ?_ ?_ ?_ ?_ ?_ ?_ ?_ ?_ ?_ ?_ rfl <;> nofun

@[simp] theorem weaver_retireHist (hu : Nat) (badBank : Option Bool) : (s.retireHist hu badBank).weaver = s.weaver := by
  refine Closed.retireHist (closed_weaver (· = s.weaver)) hu badBank ?_ ?_ ?_ ?_ ?_ rfl <;> nofun

@[simp] theorem weaver_retireCompare (cu : Nat) : (s.retireCompare cu).weaver = s.weaver := by
  refine Closed.retireCompare (closed_weaver (· = s.weaver)) cu ?_ ?_ ?_ ?_ ?_ ?_ ?_ ?_ ?_ ?_ ?_ ?_ ?_ rfl <;> nofun

@[simp] theorem weaver_retireInterval (iu : Nat) : (s.retireInterval iu).weaver = s.weaver := by
  refine Closed.retireInterval (closed_weaver (· = s.weaver)) iu ?_ ?_ ?_ ?_ ?_ ?_ ?_ ?_ ?_ ?_ ?_ ?_ ?_ ?_ ?_ ?_ ?_ ?_ ?_ ?_
    rfl <;> nofun

/-! ### Which units are retired -/

theorem isRetired_congr {s t : State} (h : t.weaver.retired = s.weaver.retired) (u : Word) : t.isRetired u = s.isRetired u :=
  congrArg (·.contains u) h

@[simp] theorem weaver_dueReplacement : s.dueReplacement.weaver = { s.weaver with replaceDue := true } := rfl

@[simp] theorem isRetired_dueReplacement (u : Word) : s.dueReplacement.isRetired u = s.isRetired u := rfl

@[simp] theorem isRetired_announceRetired (u v : Word) (cls : Nat) : (s.announceRetired u cls).isRetired v = s.isRetired v :=
  isRetired_congr (by simp) v

/-- The retired ones are the unit that joins and those that were. -/
theorem isRetired_addRetired (u v : Word) : (s.addRetired u).isRetired v = (decide (v = u) || s.isRetired v) := by
  have order : v ≠ u → (v.toNat < u.toNat ∨ u.toNat < v.toNat) := fun h =>
    Nat.lt_or_gt_of_ne fun e => h (BitVec.eq_of_toNat_eq e)
  rw [Bool.eq_iff_iff]
  simp only [isRetired, addRetired, setReg_weaver, storeMeta, modLedger_weaver, modWeaver_self, List.contains_iff_mem,
    List.mem_append, List.mem_filter, List.mem_cons, decide_eq_true_eq, Bool.or_eq_true]
  constructor
  · rintro (⟨h, -⟩ | h | ⟨h, -⟩)
    · exact .inr h
    · exact .inl h
    · exact .inr h
  · rintro (h | h)
    · exact .inr (.inl h)
    · by_cases hv : v = u
      · exact .inr (.inl hv)
      · exact (order hv).elim (fun lt => .inl ⟨h, lt⟩) fun gt => .inr (.inr ⟨h, gt⟩)

theorem isRetired_addRetired_self (u : Word) : (s.addRetired u).isRetired u = true := by simp [isRetired_addRetired]

variable {s}

theorem isRetired_addRetired_of_isRetired {v : Word} (u : Word) (h : s.isRetired v = true) :
    (s.addRetired u).isRetired v = true := by simp [isRetired_addRetired, h]

/-- Retiring a lane brings no unit back. -/
theorem isRetired_retireLane_of_isRetired {v : Word} (n cls : Nat) (t : Time) (h : s.isRetired v = true) :
    (s.retireLane n cls t).isRetired v = true := by
  have hP := closed_isRetired v
  have lossOpens (s : State) (m : Nat) (h : s.isRetired v = true) :
      (match s.laneStream m with
        | some i => s.openLoss i causeReplace 1 m t t 0
        | none => s).isRetired v = true := by
    split
    · exact hP.openLoss _ _ _ _ _ _ _ nofun nofun h
    · exact h
  have comparesLose (s : State) (h : s.isRetired v = true) :
      (if s.time.armed then s.each (s.weaveCus (n / 48)) fun s cu => s.cmpLossBegin cu (n % 48) t
        else s).isRetired v = true :=
    hP.ite (hP.each (fun _ _ => hP.cmpLossBegin _ _ _ nofun nofun) h) h
  unfold retireLane
  split
  · exact h
  · have burstsEnd := hP.closeBurst n .u t nofun nofun nofun nofun nofun <|
      hP.closeBurst n .l t nofun nofun nofun nofun nofun h
    have retired := isRetired_addRetired_of_isRetired (uLane n) <| hP.setRegBit (LN_STATUS n) 8 true nofun <|
      hP.endBlock n t nofun nofun nofun nofun burstsEnd
    refine hP.alertEvent _ nofun nofun <| hP.noticeRetired _ _ nofun nofun nofun nofun nofun nofun nofun <|
      hP.ledRetired _ _ nofun <| hP.srcLoss _ _ _ _ nofun <| comparesLose _ <| hP.each (fun s d h => ?_) <|
      lossOpens _ n <| hP.modLane _ _ nofun retired
    exact lossOpens _ d (hP.endBlock _ _ nofun nofun nofun nofun h)

/-- Retiring a port brings no unit back, and the port is retired. -/
theorem isRetired_retirePort {v : Word} (p cls : Nat) (h : v = uPort p ∨ s.isRetired v = true) :
    (s.retirePort p cls).isRetired v = true := by
  have hP := closed_isRetired v
  refine hP.alertEvent _ nofun nofun <| hP.noticeRetired _ _ nofun nofun nofun nofun nofun nofun nofun <|
    hP.ledRetired _ _ nofun ?_
  rcases h with rfl | h
  · exact isRetired_addRetired_self _ _
  · exact isRetired_addRetired_of_isRetired _ <| hP.setRegF _ _ _ _ nofun <| hP.setReg _ _ nofun <|
      hP.setRegBit _ _ _ nofun <|
      hP.each (fun _ _ => hP.podBreak _ _ _ nofun nofun nofun nofun nofun nofun nofun) h

end State

/-! ### Units of a capture die -/

/-- A unit of a capture die, not a slice of one: of KIND weave to port, and a port by its own address. -/
def captureUnit (u : Word) : Bool :=
  !uaIsSlice u && decide (2 ≤ uaKind u) && decide (uaKind u ≤ 9) && (uaKind u != 9 || uPort (uaPort u) == u)

theorem captureUnit_iff {u : Word} : captureUnit u = true ↔
    uaIsSlice u = false ∧ (2 ≤ uaKind u ∧ uaKind u ≤ 9) ∧ (uaKind u = 9 → uPort (uaPort u) = u) := by
  simp only [captureUnit, Bool.and_eq_true, Bool.or_eq_true, Bool.not_eq_true', decide_eq_true_eq, bne_iff_ne, beq_iff_eq,
    and_assoc, ne_eq, Decidable.imp_iff_not_or]

theorem dieUnits_all_captureUnit : ∀ d : Fin 2, (dieUnits d).all captureUnit = true := by decide +kernel

theorem uaUnit_of_not_slice {u : Word} (h : uaIsSlice u = false) : uaUnit u = u := by simp [uaUnit, h]

namespace State

variable {s : State}

/-- R309: what was retired stays so through the announcement, and the unit that joined is among it. -/
theorem isRetired_announceRetired_of_weaver {t : State} {u v : Word} (cls : Nat)
    (ht : t.weaver.retired = (s.addRetired u).weaver.retired) (h : v = u ∨ s.isRetired v = true) :
    (t.announceRetired u cls).isRetired v = true := by
  rw [isRetired_announceRetired, isRetired_congr ht, isRetired_addRetired]
  simpa using h

/-- R309: retiring a unit of a capture die brings none back, and the unit is retired. Of a lane the register decides, so it
is left out. -/
theorem isRetired_retireUnit {u v : Word} (hu : captureUnit u = true) (cls : Nat)
    (h : (v = u ∧ uaKind u ≠ 4) ∨ s.isRetired v = true) : (s.retireUnit u cls).isRetired v = true := by
  obtain ⟨hslice, ⟨hlo, hhi⟩, hport⟩ := captureUnit_iff.mp hu
  have h' : v = u ∨ s.isRetired v = true := h.imp And.left id
  unfold retireUnit
  simp only [uaUnit_of_not_slice hslice, hslice]
  split
  next hr => exact h'.elim (fun e => e ▸ hr) id
  have kinds : uaKind u = 2 ∨ uaKind u = 3 ∨ uaKind u = 4 ∨ uaKind u = 5 ∨ uaKind u = 6 ∨ uaKind u = 7 ∨
      uaKind u = 8 ∨ uaKind u = 9 := by omega
  rcases kinds with weave | stake | lane | seq | hist | cmp | ival | port
  · rw [weave]
    exact isRetired_announceRetired_of_weaver cls rfl h'
  · rw [stake]
    refine isRetired_announceRetired_of_weaver cls rfl <| h'.imp_right ?_
    exact (closed_isRetired v).each fun _ n => isRetired_retireLane_of_isRetired _ cls _
  · rw [lane]
    exact isRetired_retireLane_of_isRetired _ _ _ (h.resolve_left fun e => e.2 lane)
  · rw [seq]
    exact isRetired_announceRetired_of_weaver cls (by simp) h'
  · rw [hist]
    exact isRetired_announceRetired_of_weaver cls (by simp) h'
  · rw [cmp]
    exact isRetired_announceRetired_of_weaver cls (by simp) h'
  · rw [ival]
    exact isRetired_announceRetired_of_weaver cls (by simp) h'
  · rw [port]
    exact (isRetired_dueReplacement _ v).trans (isRetired_retirePort _ cls (by rwa [hport port]))

theorem isRetired_each_retireUnit_of_isRetired {l : List Word} (hl : ∀ u ∈ l, captureUnit u = true) (cls : Nat)
    {v : Word} (h : s.isRetired v = true) : (s.each l fun s u => s.retireUnit u cls).isRetired v = true := by
  induction l generalizing s with
  | nil => exact h
  | cons u l ih =>
    obtain ⟨hu, hl⟩ := List.forall_mem_cons.mp hl
    exact ih hl (isRetired_retireUnit hu cls (.inr h))

/-- Units of a capture die that are retired one by one are all retired in the end. -/
theorem isRetired_each_retireUnit {l : List Word} (hl : ∀ u ∈ l, captureUnit u = true) (cls : Nat) {v : Word}
    (hv : v ∈ l) (hk : uaKind v ≠ 4) : (s.each l fun s u => s.retireUnit u cls).isRetired v = true := by
  induction l generalizing s with
  | nil => cases hv
  | cons u l ih =>
    obtain ⟨hu, hrest⟩ := List.forall_mem_cons.mp hl
    rcases List.mem_cons.mp hv with rfl | hv
    · have joined : (s.retireUnit v cls).isRetired v = true := isRetired_retireUnit hu cls (.inl ⟨rfl, hk⟩)
      exact isRetired_each_retireUnit_of_isRetired hrest cls joined
    · exact ih hrest hv

/-! ### Die-to-die modules (R18) -/

theorem uModule_injOn : ∀ (d : Fin 2) (m : Fin 4), ∀ k < 4, uModule d k = uModule d m → k = m := by decide

theorem modules_congr {s t : State} (h : t.weaver.retired = s.weaver.retired) (d : Nat) : t.modules d = s.modules d := by
  simp only [modules, isRetired_congr h]

/-- One module fewer is in service. -/
theorem modules_addRetired (d : Fin 2) (m : Fin 4) (h : s.isRetired (uModule d m) = false) :
    (s.addRetired (uModule d m)).modules d = s.modules d - 1 := by
  have others : (List.range 4).filter (fun k => !(s.addRetired (uModule d m)).isRetired (uModule d k)) =
      ((List.range 4).filter fun k => !s.isRetired (uModule d k)).erase m := by
    rw [List.Nodup.erase_eq_filter (List.nodup_range.filter _), List.filter_filter]
    refine List.filter_congr fun k hk => ?_
    have same : uModule d k = uModule d m ↔ k = m :=
      ⟨uModule_injOn d m k (List.mem_range.mp hk), fun e => e ▸ rfl⟩
    rw [isRetired_addRetired, decide_eq_decide.mpr same, Bool.not_or, bne, Bool.beq_eq_decide_eq, Bool.and_comm]
  have inService : m.val ∈ (List.range 4).filter fun k => !s.isRetired (uModule d k) := by simp [h]
  rw [modules, others, List.length_erase_of_mem inService, modules]

/-- R309, R310: a module joins the retired units, and a re-placement is due. -/
def loseModule (s : State) (d m : Nat) : State :=
  ((s.addRetired (uModule d m)).announceRetired (uModule d m) 0x13).dueReplacement

theorem isRetired_loseModule_self (s : State) (d m : Nat) : (s.loseModule d m).isRetired (uModule d m) = true := by
  rw [loseModule, isRetired_dueReplacement, isRetired_announceRetired, isRetired_addRetired_self]

theorem replaceDue_loseModule (s : State) (d m : Nat) : (s.loseModule d m).weaver.replaceDue = true := rfl

theorem modules_loseModule (d : Fin 2) (m : Fin 4) (h : s.isRetired (uModule d m) = false) :
    (s.loseModule d m).modules d = s.modules d - 1 := by
  rw [← modules_addRetired d m h]
  exact modules_congr (by simp [loseModule]) d

theorem retireModule_of_isRetired (d m : Nat) (h : s.isRetired (uModule d m) = true) : s.retireModule d m = s := if_pos h

theorem retireModule_of_not_isRetired (d m : Nat) (h : s.isRetired (uModule d m) = false) :
    s.retireModule d m =
      if (s.loseModule d m).modules d = 0 then
        ((s.loseModule d m).ledgerReq 0x001B 4 (uDie d) 0x13 (leBytes 8 d)).each (dieUnits d) fun s u => s.retireUnit u 0x13
      else s.loseModule d m :=
  if_neg (by simp [h])

theorem retireModule_of_others (d : Fin 2) (m : Fin 4) (h : s.isRetired (uModule d m) = false) (two : 2 ≤ s.modules d) :
    s.retireModule d m = s.loseModule d m := by
  have left := modules_loseModule d m h
  rw [retireModule_of_not_isRetired d m h, if_neg (by omega)]

/-- R18: with its last module a die is lost, and its units are retired. -/
theorem isRetired_retireModule_of_last (d : Fin 2) (m : Fin 4) (h : s.isRetired (uModule d m) = false)
    (last : s.modules d ≤ 1) {u : Word} (hu : u ∈ dieUnits d) (hk : uaKind u ≠ 4) :
    (s.retireModule d m).isRetired u = true := by
  have left := modules_loseModule d m h
  rw [retireModule_of_not_isRetired d m h, if_pos (by omega)]
  exact isRetired_each_retireUnit (List.all_eq_true.mp (dieUnits_all_captureUnit d)) _ hu hk

end State

/-! ### Verdicts (R307, R308) -/

namespace State

variable (s : State)

/-- Telling the host tests of a result changes only which units they wait for. -/
theorem weaver_hostResult (u : Word) (result : Nat) :
    (s.hostResult u result).weaver = { s.weaver with hostTests := (s.hostResult u result).weaver.hostTests } := by
  have told (l : List HostTest) : (s.each l fun s h => s.noticeSelftest h.id u result).weaver = s.weaver :=
    (closed_weaver (· = s.weaver)).each (fun t h e => by simpa using e) rfl
  simp [hostResult, told]

theorem underTest_hostResult (u v : Word) (result : Nat) : (s.hostResult u result).underTest v = s.underTest v := by
  rw [underTest, weaver_hostResult, underTest]

theorem transients_hostResult (u : Word) (result : Nat) :
    (s.hostResult u result).weaver.transients = s.weaver.transients := by rw [weaver_hostResult]

theorem isRetired_hostResult (u v : Word) (result : Nat) : (s.hostResult u result).isRetired v = s.isRetired v :=
  isRetired_congr (by rw [weaver_hostResult]) v

theorem reg_hostResult_HUB_LASTING (u : Word) (result : Nat) :
    (s.hostResult u result).reg HUB_LASTING = s.reg HUB_LASTING :=
  reg_eq_of_frame <| Closed.hostResult (closed_frame _ s) u result nofun nofun nofun nofun (reg_ne_of_ne (by decide))
    (reg_ne_of_ne (by decide)) (reg_ne_of_ne (by decide)) (reg_ne_of_ne (by decide)) (frame_refl _ s)

theorem toNat_reg_incReg (a : Nat) : ((s.incReg a).reg a).toNat = min ((s.reg a).toNat + 1) (2 ^ 32 - 1) := by
  rw [incReg, addReg, reg_setReg, BitVec.toNat_ofNat, sat]
  split <;> omega

/-- The tests on a unit are over. -/
def endTests (u : Word) : State := s.modWeaver fun w => { w with tests := w.tests.filter (·.unit ≠ u) }

variable {s}

theorem underTest_endTests (u : Word) : (s.endTests u).underTest u = false := by simp [underTest, endTests]

/-- A test of the host's that passes on a unit in service: the unit resumes, and nothing is counted. -/
theorem verdict_hostPass {u : Word} (h : s.isRetired u = false) (cls : Nat) (result : Word) :
    s.verdict u cls false false result = ((s.endTests u).resumeUnit u).hostResult u 0 := by
  have inService : ¬ ((s.endTests u).isRetired u && uaKind u != 0x04) = true := by
    rw [show (s.endTests u).isRetired u = false from h]
    nofun
  exact if_neg inService

/-- A failure on a unit that is retired already: it is counted and recorded, and a re-placement is due. -/
theorem verdict_fail_of_isRetired {u : Word} (h : s.isRetired u = true) (cls : Nat) (errors : Bool) (result : Word) :
    ∃ window, s.verdict u cls errors true result =
      ((((s.endTests u).incReg HUB_LASTING).ledVerdict u cls true window result).dueReplacement).hostResult u 1 := by
  cases errors <;> exact ⟨_, congrArg (fun t => (dueReplacement t).hostResult u 1) (if_pos (by exact h))⟩

end State

theorem exec_moduleRetired (d : Fin 2) (m : Fin 4) (s : State) :
    exec (.moduleRetired d m) s = .next (s.retireModule d m) := rfl

theorem exec_replacement (s : State) : exec .replacement s = .next s.replace := rfl

theorem exec_targetedSelfTestDone_of_untested {s : State} {u : Word} (h : s.weaver.tests.find? (·.unit = u) = none)
    (results : List (Byte × Bool)) (detail : Word) : exec (.targetedSelfTestDone u results detail) s = .next s := by
  simp [exec, execTargetedSelfTestDone, h]

/-- The verdict on a unit whose test no error has named: any failed result decides. -/
theorem exec_targetedSelfTestDone_of_host {s : State} {u : Word} {x : UnitTest}
    (hx : s.weaver.tests.find? (·.unit = u) = some x) (hc : x.classes = []) (results : List (Byte × Bool)) (detail : Word) :
    exec (.targetedSelfTestDone u results detail) s =
      .next (s.verdict u (unitClass u) x.byError (results.any fun r => !r.2) detail) := by
  simp [exec, execTargetedSelfTestDone, hx, hc, ascending]

/-! ### Re-placement (R310 to R312) -/

namespace State

variable {s s1 : State}

theorem replace_of_not_due (h : s.weaver.replaceDue = false ∨ s.failed = true) : s.replace = s :=
  if_pos (by simpa using h)

/-- R310: a re-placement that is due no longer is, and with nothing committed only reports the limits anew. -/
theorem replace_of_due (hs1 : s1 = s.modWeaver fun w => { w with replaceDue := false }) (hdue : s.weaver.replaceDue = true)
    (hf : s.failed = false) :
    s.replace = if s.epochNo = 0 then s1.updateLimits else
      match s1.newPlacement with
      | some x => s1.applyReplacement x.1 x.2 s.healthDigest
      | none => s1.applyReplacement s1.weaver.place s1.weaver.shed s.healthDigest := by
  subst hs1
  exact if_neg (by simp [hdue, hf])

/-- The last part of a re-placement: HEALTH, the count, the limits and, in a session, the digests (R312). -/
def reportReplacement (s : State) (shed : List Nat) : State :=
  let s := (((s.setRegBit HUB_HEALTH 0 true).setRegBit HUB_HEALTH 1 (!shed.isEmpty)).incReg HUB_REPLACEMENTS).updateLimits
  if s.time.armed then s.writeDigests false else s

theorem applyReplacement_ends_with_report (s : State) (pl : Placement) (shed : List Nat) (health : List Byte) :
    ∃ t : State, s.applyReplacement pl shed health = t.reportReplacement shed := ⟨_, rfl⟩

theorem reg_HUB_HEALTH_writeDigests (s : State) (periodic : Bool) :
    (s.writeDigests periodic).reg HUB_HEALTH = s.reg HUB_HEALTH :=
  reg_eq_of_frame <| Closed.writeDigests (closed_frame _ s) periodic nofun nofun (frame_refl _ s)

theorem regBit_HUB_HEALTH_updateLimits (s : State) {i : Nat} (h : i ≠ 3) :
    s.updateLimits.regBit HUB_HEALTH i = s.regBit HUB_HEALTH i := by
  rw [updateLimits, regBit_setRegBit_of_ne _ _ _ (by decide) h, regBit, reg_setReg_of_ne _ _ (by decide), regBit]

theorem regBit_HUB_HEALTH_incReg (s : State) {a : Nat} (h : HUB_HEALTH ≠ a) (i : Nat) :
    (s.incReg a).regBit HUB_HEALTH i = s.regBit HUB_HEALTH i := congrArg (bit · i) (s.reg_setReg_of_ne _ h)

theorem regBit_HUB_HEALTH_reportReplacement (s : State) (shed : List Nat) {i : Nat} (hi : i ≠ 3) :
    (s.reportReplacement shed).regBit HUB_HEALTH i =
      ((s.setRegBit HUB_HEALTH 0 true).setRegBit HUB_HEALTH 1 (!shed.isEmpty)).regBit HUB_HEALTH i := by
  have limits (t : State) : (t.incReg HUB_REPLACEMENTS).updateLimits.regBit HUB_HEALTH i = t.regBit HUB_HEALTH i := by
    rw [regBit_HUB_HEALTH_updateLimits _ hi, regBit_HUB_HEALTH_incReg _ (by decide)]
  simp only [reportReplacement]
  split
  · rw [regBit, reg_HUB_HEALTH_writeDigests]
    exact limits _
  · exact limits _

/-- R312: HEALTH says that the placement is not the committed one, and whether objects are shed. -/
theorem regBit_HUB_HEALTH_applyReplacement (s : State) (pl : Placement) (shed : List Nat) (health : List Byte) :
    (s.applyReplacement pl shed health).regBit HUB_HEALTH 0 = true ∧
      (s.applyReplacement pl shed health).regBit HUB_HEALTH 1 = !shed.isEmpty := by
  obtain ⟨t, ht⟩ := applyReplacement_ends_with_report s pl shed health
  rw [ht, regBit_HUB_HEALTH_reportReplacement _ _ (by decide), regBit_HUB_HEALTH_reportReplacement _ _ (by decide),
    regBit_setRegBit_of_ne _ _ _ (by decide) (by decide)]
  exact ⟨regBit_setRegBit_self .., regBit_setRegBit_self ..⟩

/-! ### Digest checks of dies (R317) -/

theorem reg_HUB_DIG_MATCH_clearMismatch (s : State) (u : Word) (kind : Nat) (expected reported : List Byte) :
    (s.clearMismatch u kind expected reported).reg HUB_DIG_MATCH = s.reg HUB_DIG_MATCH :=
  reg_eq_of_frame <| Closed.clearMismatch (closed_frame _ s) u kind expected reported nofun nofun nofun nofun nofun
    (reg_ne_of_ne (by decide)) (reg_ne_of_ne (by decide)) (reg_ne_of_ne (by decide)) (reg_ne_of_ne (by decide))
    (reg_ne_of_ne (by decide)) (frame_refl _ s)

theorem regBit_HUB_DIG_MATCH_compareDie (s : State) {d : Nat} (hd : d + 1 ≤ 32) :
    (s.compareDie d).regBit HUB_DIG_MATCH d = (s.expectedDigest d == s.reportedDigest d) := by
  unfold compareDie
  exact regBit_setRegBit_self _ _ _ _ hd

/-- A check of a die whose registers hold what firmware wrote reports a match. -/
theorem regBit_HUB_DIG_MATCH_checkDie {d : Nat} (hd : d + 1 ≤ 32) (h : s.expectedDigest d = s.reportedDigest d)
    (sticky : Bool) :
    (s.checkDie d [] sticky).regBit HUB_DIG_MATCH d = true := by
  have found : s.checkDie d [] sticky = ((s.compareDie d).modWeaver fun w =>
      { w with digSecs := Tbl.put w.digSecs d s.opSeconds.toNat }).clearMismatch (uDie d) 0 (s.expectedDigest d)
        (s.reportedDigest d) := if_pos h
  rw [found, regBit, reg_HUB_DIG_MATCH_clearMismatch, reg_modWeaver]
  exact (regBit_HUB_DIG_MATCH_compareDie s hd).trans (beq_iff_eq.mpr h)

end State

theorem dieNo_lt (die : Die) : dieNo die < 3 := by cases die <;> decide

theorem dieNo_eq_one {die : Die} : dieNo die = 1 ↔ die = .cd1 := by cases die <;> decide
theorem dieNo_eq_two {die : Die} : dieNo die = 2 ↔ die = .hd := by cases die <;> decide

theorem exec_dieDigestCheck_of_suspended {die : Die} {s : State}
    (h : s.unlocked = true ∨ (s.halfPart = true ∧ die = .cd1) ∨ (s.asleep = true ∧ die ≠ .hd))
    (upsets : List (BitVec 26 × Word)) (sticky : Bool) : exec (.dieDigestCheck die upsets sticky) s = .next s :=
  congrArg Host.Outcome.next (if_pos (by simpa [dieNo_eq_one, dieNo_eq_two, and_comm, or_assoc] using h))

theorem exec_dieDigestCheck_of_checked {die : Die} {s : State} (hu : s.unlocked = false) (ha : s.asleep = true → die = .hd)
    (hh : s.halfPart = true → die ≠ .cd1) (sticky : Bool) :
    exec (.dieDigestCheck die [] sticky) s = .next (s.checkDie (dieNo die) [] sticky) :=
  have awake : die ≠ .hd → s.asleep = false := fun h => by simpa using mt ha h
  congrArg Host.Outcome.next (if_neg (by simpa [dieNo_eq_one, dieNo_eq_two, hu] using ⟨hh, awake⟩))

end Machine

namespace Safety

open Machine

/-! ### The obligation -/

/-- R307: a test that the host started and that passes is over, and no transient is counted. -/
theorem targetedSelfTestDone_of_pass {u : Word} {s : State} {x : UnitTest}
    (hx : s.weaver.tests.find? (·.unit = u) = some x) (hc : x.classes = []) (he : x.byError = false)
    (hr : s.isRetired u = false) {results : List (Byte × Bool)} (pass : ∀ r ∈ results, r.2 = true) (detail : Word) :
    Does (.targetedSelfTestDone u results detail) s fun t =>
      t.underTest u = false ∧ t.weaver.transients = s.weaver.transients := by
  have passed : (results.any fun r => !r.2) = false := by simpa using pass
  refine ⟨_, exec_targetedSelfTestDone_of_host hx hc results detail, ?_⟩
  rw [passed, he, State.verdict_hostPass hr]
  constructor
  · rw [State.underTest_hostResult, State.underTest, State.weaver_resumeUnit]
    exact State.underTest_endTests u
  · rw [State.transients_hostResult, State.weaver_resumeUnit]
    rfl

/-- R308: a failed test of a unit that is retired leaves it so and counts a lasting verdict. -/
theorem targetedSelfTestDone_of_fail_of_isRetired {u : Word} {s : State} {x : UnitTest}
    (hx : s.weaver.tests.find? (·.unit = u) = some x) (hc : x.classes = []) (hr : s.isRetired u = true)
    {results : List (Byte × Bool)} {r : Byte × Bool} (hmem : r ∈ results) (fail : r.2 = false) (detail : Word) :
    Does (.targetedSelfTestDone u results detail) s fun t => t.isRetired u = true ∧ Counted s t HUB_LASTING := by
  have failed : (results.any fun r => !r.2) = true := List.any_eq_true.mpr ⟨r, hmem, by simp [fail]⟩
  obtain ⟨window, hv⟩ := State.verdict_fail_of_isRetired hr (unitClass u) x.byError detail
  refine ⟨_, exec_targetedSelfTestDone_of_host hx hc results detail, ?_⟩
  rw [failed, hv]
  constructor
  · rw [State.isRetired_hostResult]
    exact hr
  · rw [Counted, State.reg_hostResult_HUB_LASTING]
    exact State.toNat_reg_incReg (s.endTests u) HUB_LASTING

/-- R312: after a re-placement HEALTH says so, and whether it had to shed. -/
theorem replacement_of_epoch {s s1 : State} (hs1 : s1 = s.modWeaver fun w => { w with replaceDue := false })
    (hdue : s.weaver.replaceDue = true) (hf : s.failed = false) (he : s.epochNo ≠ 0) :
    Does .replacement s fun t => t.regBit HUB_HEALTH 0 = true ∧
      t.regBit HUB_HEALTH 1 = !(match s1.newPlacement with | some x => x.2 | none => s.weaver.shed).isEmpty := by
  refine ⟨_, exec_replacement s, ?_⟩
  rw [State.replace_of_due hs1 hdue hf, if_neg he]
  cases s1.newPlacement with
  | some x => exact State.regBit_HUB_HEALTH_applyReplacement ..
  | none =>
    subst hs1
    exact State.regBit_HUB_HEALTH_applyReplacement ..

/-- Settles O59: module retirement from what `retireModule` does to the retired units, verdicts from `verdict`, re-placement
from the report that ends it, and digest checks from `checkDie`. -/
theorem verdictsAndReplacement : Obligations.VerdictsAndReplacement := by
  unfold Obligations.VerdictsAndReplacement
  refine ⟨⟨fun d m s => ⟨fun h => ?_, fun h two => ?_, fun h one => ?_⟩,
      fun u results detail s => ⟨fun untested => ?_,
        fun x hx hc => ⟨fun pass he hr _ => ?_, fun r hmem fail hr => ?_⟩⟩⟩,
    fun s s1 hs1 => ⟨fun idle => ?_, fun hdue hf he => ?_, fun hdue hf he => ?_⟩,
    fun die upsets sticky s => ⟨fun off => ?_, fun hu ha hh same => ?_⟩⟩
  · rw [exec_moduleRetired, State.retireModule_of_isRetired d m h]
  · rw [Does, exec_moduleRetired, State.retireModule_of_others d m h two]
    exact ⟨_, rfl, State.isRetired_loseModule_self s d m, State.replaceDue_loseModule s d m⟩
  · exact ⟨_, exec_moduleRetired d m s, fun u hu hk => State.isRetired_retireModule_of_last d m h one hu hk⟩
  · rw [exec_targetedSelfTestDone_of_untested untested]
  · exact targetedSelfTestDone_of_pass hx hc he hr pass detail
  · exact targetedSelfTestDone_of_fail_of_isRetired hx hc hr hmem fail detail
  · rw [exec_replacement, State.replace_of_not_due idle]
  · rw [Does, exec_replacement, State.replace_of_due hs1 hdue hf, if_pos he, hs1]
    exact ⟨_, rfl, rfl, rfl⟩
  · exact replacement_of_epoch hs1 hdue hf he
  · exact exec_dieDigestCheck_of_suspended off upsets sticky
  · have inWord : dieNo die < 3 := dieNo_lt die
    exact ⟨_, exec_dieDigestCheck_of_checked hu ha hh sticky,
      State.regBit_HUB_DIG_MATCH_checkDie (by omega) same sticky⟩

end Safety

end Sys2Proof
end

section
/-!
Duration units and TRIG_IN edges (R100, R101, R110, R42). A deadline that passes adds one firing to its unit's measurement and
touches, of the registers, only the unit's HITS counter: so the settings stand, and whether a second deadline follows rests on
the firings alone.
-/
namespace Sys2Proof

namespace Machine

open Safety

namespace State

variable (s : State)

/-! ### Measurements and registers under a detection -/

@[simp] theorem unitMeas_setMeas (t : TermUnit) (m : MeasDyn) : (s.setMeas t m).unitMeas t = m := Tbl.getD_put_self ..

theorem unitMeas_congr {s s' : State} (h : s'.trig.meas = s.trig.meas) (t : TermUnit) : s'.unitMeas t = s.unitMeas t := by
  rw [unitMeas, h, unitMeas]

@[simp] theorem unitMeas_detect (t v : TermUnit) (x : Time) (f : EvFlags) : (s.detect t x f).unitMeas v = s.unitMeas v := by
  refine unitMeas_congr ?_ v
  unfold detect
  cases t.hits <;> rfl

@[simp] theorem unitMeas_detectDue (t v : TermUnit) (x : Time) (f : EvFlags) :
    (s.detectDue t x f).unitMeas v = s.unitMeas v := by
  unfold detectDue
  split
  · exact unitMeas_detect s t v x f
  · rfl

/-- A detection counts in the HITS counter of its unit. -/
theorem counted_detect {t : TermUnit} {a : Nat} (h : t.hits = some a) (x : Time) (f : EvFlags) :
    Counted s (s.detect t x f) a := by
  simp only [detect, h]
  exact toNat_reg_incReg ..

theorem reg_detect_of_ne {t : TermUnit} {a : Nat} (h : t.hits ≠ some a) (x : Time) (f : EvFlags) :
    (s.detect t x f).reg a = s.reg a := by
  unfold detect
  cases ht : t.hits with
  | none => rfl
  | some b => exact reg_setReg_of_ne _ _ fun e => h (e ▸ ht)

theorem reg_detectDue_of_ne {t : TermUnit} {a : Nat} (h : t.hits ≠ some a) (x : Time) (f : EvFlags) :
    (s.detectDue t x f).reg a = s.reg a := by
  unfold detectDue
  split
  · exact reg_detect_of_ne s h x f
  · rfl

end State

/-! ### The deadline of a measurement -/

/-- Tables 4.8, 4.11 and 4.12: HITS is the last register of a duration unit. -/
theorem hits_durTerm (u : DurUnit) : (durTerm u).hits = some ((durTerm u).ctl + 0x1C) := by
  cases u <;> simp only [durTerm, TermUnit.hits, TermUnit.ctl, STK, PP, capAddr, Option.some.injEq] <;> omega

/-- R100, R101: only a repeating timeout has another deadline after it has fired. -/
theorem DurCfg.deadline_of_fired {c : DurCfg} {m : MeasDyn} (hc : c.kind ≠ 4 ∨ c.repeat_ = false) (hm : m.fired ≠ 0) :
    c.deadline m = none := by
  unfold deadline
  cases m.start with
  | none => rfl
  | some t0 =>
    rcases hc with hk | hr
    · simp [hk, hm]
    · simp [hr, hm]

namespace State

variable {s : State}

theorem firstEdge_le (s : State) (t : TermUnit) (upTo : Time) : s.firstEdge t upTo ≤ upTo := by
  unfold firstEdge
  split
  · exact Nat.le_refl _
  · exact Nat.min_le_left ..

/-! ### One deadline -/

/-- The deadline `x` of a unit passes: its measurement has fired once more, and the unit detects it. -/
def fireDeadline (s : State) (t : TermUnit) (x : Time) : State :=
  (s.setMeas t { s.unitMeas t with fired := (s.unitMeas t).fired + 1 }).detectDue t x (s.unitMeas t).flags

theorem unitMeas_fireDeadline (s : State) (t : TermUnit) (x : Time) :
    (s.fireDeadline t x).unitMeas t = { s.unitMeas t with fired := (s.unitMeas t).fired + 1 } := by simp [fireDeadline]

theorem reg_fireDeadline_of_ne (s : State) {t : TermUnit} {a : Nat} (h : t.hits ≠ some a) (x : Time) :
    (s.fireDeadline t x).reg a = s.reg a := reg_detectDue_of_ne _ h x _

/-- A deadline that is settled counts in HITS. -/
theorem counted_fireDeadline {t : TermUnit} {x : Time} (hx : x < s.deadlineBound t) {a : Nat} (ha : t.hits = some a) :
    Counted s (s.fireDeadline t x) a := by
  rw [fireDeadline, detectDue, if_pos (by exact hx)]
  exact counted_detect _ ha x _

/-- The settings of a duration unit stand below its HITS counter. -/
theorem durCfg_fireDeadline (s : State) (u : DurUnit) (x : Time) :
    (s.fireDeadline (durTerm u) x).durCfg (durTerm u) = s.durCfg (durTerm u) := by
  have setting {o : Nat} (ho : o < 0x1C) :
      (s.fireDeadline (durTerm u) x).reg ((durTerm u).ctl + o) = s.reg ((durTerm u).ctl + o) := by
    refine reg_fireDeadline_of_ne s ?_ x
    rw [hits_durTerm, ne_eq, Option.some.injEq]
    omega
  have ctl := setting (o := 0) (by decide)
  simp only [durCfg, reg64, Nat.add_assoc, Nat.reduceAdd, Nat.add_zero] at ctl ⊢
  rw [ctl, setting (by decide), setting (by decide), setting (by decide), setting (by decide)]

/-! ### Every deadline before an instant -/

theorem fireDeadlines_of_none {t : TermUnit} (h : (s.durCfg t).deadline (s.unitMeas t) = none) (upTo : Time) (fuel : Nat) :
    fireDeadlines t upTo fuel s = s := by
  cases fuel with
  | zero => rfl
  | succ fuel => simp only [fireDeadlines, h]

theorem fireDeadlines_succ {t : TermUnit} {x : Time} (h : (s.durCfg t).deadline (s.unitMeas t) = some x) (upTo : Time)
    (fuel : Nat) :
    fireDeadlines t upTo (fuel + 1) s =
      if x < upTo ∧ ((s.durCfg t).kind ≠ 4 ∨ (s.durCfg t).max ≠ 0) then
        fireDeadlines t upTo fuel (s.fireDeadline t x)
      else s := by
  simp only [fireDeadlines, h, fireDeadline, Bool.and_eq_true, decide_eq_true_eq, Bool.or_eq_true, bne_iff_ne]

/-- Firing never ends or restarts a measurement, and takes no firing back. -/
theorem unitMeas_fireDeadlines (t : TermUnit) (upTo : Time) (fuel : Nat) (s : State) :
    ((fireDeadlines t upTo fuel s).unitMeas t).start = (s.unitMeas t).start ∧
      (s.unitMeas t).fired ≤ ((fireDeadlines t upTo fuel s).unitMeas t).fired := by
  induction fuel generalizing s with
  | zero => exact ⟨rfl, Nat.le_refl _⟩
  | succ fuel ih =>
    cases h : (s.durCfg t).deadline (s.unitMeas t) with
    | none => simp [fireDeadlines_of_none h]
    | some x =>
      rw [fireDeadlines_succ h]
      split
      · obtain ⟨start, fired⟩ := ih (s.fireDeadline t x)
        rw [unitMeas_fireDeadline] at start fired
        exact ⟨start, Nat.le_of_succ_le fired⟩
      · exact ⟨rfl, Nat.le_refl _⟩

/-- R100, R101: an early decision, or a timeout without REPEAT, fires once and no more. -/
theorem fireDeadlines_of_once {u : DurUnit} {x upTo : Time}
    (h : (s.durCfg (durTerm u)).deadline (s.unitMeas (durTerm u)) = some x) (hx : x < upTo)
    (hc : (s.durCfg (durTerm u)).kind ≠ 4 ∨ (s.durCfg (durTerm u)).max ≠ 0 ∧ (s.durCfg (durTerm u)).repeat_ = false)
    (fuel : Nat) : fireDeadlines (durTerm u) upTo (fuel + 1) s = s.fireDeadline (durTerm u) x := by
  rw [fireDeadlines_succ h, if_pos ⟨hx, hc.imp_right And.left⟩]
  refine fireDeadlines_of_none ?_ upTo fuel
  rw [durCfg_fireDeadline, unitMeas_fireDeadline]
  exact DurCfg.deadline_of_fired (hc.imp_right And.right) (Nat.succ_ne_zero _)

/-- R101: every timeout before the instant fires, the first one among them. -/
theorem fired_lt_fireDeadlines {t : TermUnit} {x upTo : Time} (h : (s.durCfg t).deadline (s.unitMeas t) = some x)
    (hx : x < upTo) (hmax : (s.durCfg t).max ≠ 0) (fuel : Nat) :
    (s.unitMeas t).fired < ((fireDeadlines t upTo (fuel + 1) s).unitMeas t).fired := by
  rw [fireDeadlines_succ h, if_pos ⟨hx, .inr hmax⟩]
  have after := (unitMeas_fireDeadlines t upTo fuel (s.fireDeadline t x)).2
  rwa [unitMeas_fireDeadline] at after

end State

/-! ### DURATION_DEADLINE -/

section

variable {u : DurUnit} {s : State}

theorem exec_durationDeadline_of_on (ha : s.time.armed = true) (hon : s.termOn (durTerm u) = true) :
    exec (.durationDeadline u) s =
      .next (State.fireDeadlines (durTerm u) (s.firstEdge (durTerm u) (s.deadlineBound (durTerm u))) deadlineFuel s) :=
  congrArg Host.Outcome.next (if_pos (by rw [ha, hon]; rfl))

theorem exec_durationDeadline_of_off (h : s.time.armed = false ∨ s.termOn (durTerm u) = false) :
    exec (.durationDeadline u) s = .next s :=
  congrArg Host.Outcome.next (if_neg (by rcases h with h | h <;> simp [h]))

/-- Nothing fires where firing the deadlines of the unit changes nothing. -/
theorem exec_durationDeadline_of_still
    (h : State.fireDeadlines (durTerm u) (s.firstEdge (durTerm u) (s.deadlineBound (durTerm u))) deadlineFuel s = s) :
    exec (.durationDeadline u) s = .next s := by
  by_cases on : s.time.armed = true ∧ s.termOn (durTerm u) = true
  · rw [exec_durationDeadline_of_on on.1 on.2, h]
  · exact exec_durationDeadline_of_off (by simpa [Decidable.imp_iff_not_or] using on)

end

/-! ### TRIG_IN_EDGE -/

/-- The trigger state is kept by every operation that writes other parts only. -/
theorem trig_eq_of_frame {s t : State} (h : Frame (· ≠ .trig) s t) : t.trig = s.trig := h.2 .trig fun hne => hne rfl

/-- The interval units that take an event leave the terms' inputs alone. -/
theorem State.trig_each_feedInterval (s : State) (l : List Nat) (e : TimedEv) :
    (s.each l fun s w => s.feedInterval w e).trig = s.trig :=
  trig_eq_of_frame <| Closed.each (closed_frame _ s) (fun _ w => Closed.feedInterval (closed_frame _ s) w e nofun)
    (frame_refl _ s)

variable {pin : Fin 4} {rise : Bool} {edge : PinEdge} {s : State}

theorem exec_trigInEdge_of_early (h : s.time.armed = false ∨ s.sessionTime (pinStamp edge).1 < s.time.armTime) :
    exec (.trigInEdge pin rise edge) s = .next s := congrArg Host.Outcome.next (if_pos (by simpa using h))

theorem exec_trigInEdge_of_armed (ha : s.time.armed = true) (ht : s.time.armTime ≤ s.sessionTime (pinStamp edge).1)
    {e : TimedEv} (he : e = { at_ := s.sessionTime (pinStamp edge).1, flags := (pinStamp edge).2, ev := .trigIn pin rise }) :
    exec (.trigInEdge pin rise edge) s = .next
      ((s.modTrig fun t => { t with inputs := t.inputs ++ [e] }).each (List.range 4) fun s w => s.feedInterval w e) := by
  subst he
  exact congrArg Host.Outcome.next (if_neg (by simpa [ha] using ht))

end Machine

namespace Safety

open Machine

/-! ### The obligation -/

/-- R100, R101: a single deadline before the first edge fires, and counts in HITS. -/
theorem durationDeadline_once {u : DurUnit} {s : State} {x : Time}
    (h : (s.durCfg (durTerm u)).deadline (s.unitMeas (durTerm u)) = some x) (ha : s.time.armed = true)
    (hon : s.termOn (durTerm u) = true) (hx : x < s.firstEdge (durTerm u) (s.deadlineBound (durTerm u)))
    (hc : (s.durCfg (durTerm u)).kind ≠ 4 ∨ (s.durCfg (durTerm u)).max ≠ 0 ∧ (s.durCfg (durTerm u)).repeat_ = false) :
    Does (.durationDeadline u) s fun t => (t.unitMeas (durTerm u)).fired = (s.unitMeas (durTerm u)).fired + 1 ∧
      (t.unitMeas (durTerm u)).start = (s.unitMeas (durTerm u)).start ∧
      ∀ a, (durTerm u).hits = some a → Counted s t a := by
  have settled : x < s.deadlineBound (durTerm u) := Nat.lt_of_lt_of_le hx (s.firstEdge_le _ _)
  have meas := s.unitMeas_fireDeadline (durTerm u) x
  rw [Does, exec_durationDeadline_of_on ha hon, deadlineFuel, State.fireDeadlines_of_once h hx hc]
  exact ⟨_, rfl, by rw [meas], by rw [meas], fun _ => State.counted_fireDeadline settled⟩

/-- Settles O47: a unit that is off or has no deadline stays, by `fireDeadlines_of_none`; a deadline fires by what
`fireDeadlines` does to the measurement; a TRIG_IN edge joins the inputs, which the interval units leave alone. -/
theorem termEvents : Obligations.TermEvents := by
  unfold Obligations.TermEvents
  refine ⟨fun u s => ⟨fun idle => ?_, fun x h => ⟨fun late => ?_, fun ha hon hx => ⟨fun hc => ?_, fun _ hmax _ => ?_⟩⟩⟩,
    fun k rise e s => ⟨exec_trigInEdge_of_early, fun ha ht => ?_⟩⟩
  · rcases idle with off | off | resting
    · exact exec_durationDeadline_of_off (.inl off)
    · exact exec_durationDeadline_of_off (.inr off)
    · exact exec_durationDeadline_of_still (State.fireDeadlines_of_none resting _ _)
  · refine exec_durationDeadline_of_still ((State.fireDeadlines_succ h _ _).trans (if_neg ?_))
    rintro ⟨before, fires⟩
    rcases late with late | ⟨timeout, zero⟩
    · exact Nat.not_lt.mpr late before
    · exact fires.elim (· timeout) (· zero)
  · exact durationDeadline_once h ha hon hx hc
  · exact ⟨_, exec_durationDeadline_of_on ha hon, State.fired_lt_fireDeadlines h hx hmax _,
      (State.unitMeas_fireDeadlines ..).1⟩
  · exact ⟨_, exec_trigInEdge_of_armed ha ht rfl, congrArg TrigState.inputs (State.trig_each_feedInterval ..)⟩

end Safety

end Sys2Proof
end

section
/-!
Queues and stream rings (chapter 10; R229, R231, R234, R235, R237). A consumer's operation changes its own queue or ring by one
function of that queue or ring. A stake queue also hands the words that it releases on to the streams, which changes, of the
queue, only the words of a record that are not yet taken whole. O51 fails at one clause: which member interval closes the open
segment is the committed binding's, while `strMember` reads the binding of the segment that is delivered next.
-/
namespace Sys2Proof

namespace Machine

open Safety

/-- A queue is kept by every operation that writes other parts only. -/
theorem queue_eq_of_frame {n : Nat} {s t : State} (h : Frame (· ≠ .queue n) s t) : t.queue n = s.queue n :=
  h.2 (.queue n) fun hne => hne rfl

/-! ### Operations on one queue -/

namespace QueueDyn

variable {k : QKind} {q : QueueDyn} {n : Nat} {pop : Bool}

/-- R237: a read at depth 0 stalls. -/
theorem doRead_of_empty (h : q.depth = 0) : q.doRead k n pop = { q with stalled := some (n, pop), lastFail := 0 } := if_pos h

/-- R231, R234: READ moves on over the items that it returns, with V and SKIP. -/
theorem doRead_of_depth (h : q.depth ≠ 0) :
    q.doRead k n pop = { q with
      read := q.read + q.readCount k n, stalled := none, skip := none, lastSkip := q.skip
      lastItems := ((q.items.drop q.read).take (q.readCount k n)).map (·.word)
      lastV := q.readCount k n * k.itemBytes, lastEnd := (q.doRead k n pop).lastEnd, lastFail := 0 } := by
  unfold doRead
  rw [if_neg h]

theorem doPop_of_empty (h : q.depth = 0) : q.doPop k n = { q with stalled := some (n, true), lastFail := 0 } := by
  rw [doPop, if_pos h, doRead_of_empty h]

theorem doPop_of_depth (h : q.depth ≠ 0) : q.doPop k n = (q.doRead k n true).release := if_neg h

theorem rewind_of_mark {a : Nat} (h : q.mark = some a) : q.rewind = { q with read := a, lastFail := 0 } := by
  simp only [rewind, h]

theorem rewind_of_no_mark (h : q.mark = none) :
    q.rewind = { q with markLost := false, lastFail := if q.markLost then 2 else 1 } := by simp only [rewind, h]

/-- R234: RELEASE moves up to the mark, which stays set. -/
theorem releaseToMark_of_mark {a : Nat} (h : q.mark = some a) :
    q.releaseToMark = { q with
      items := q.items.drop a, released := q.released + BitVec.ofNat 32 a, visible := q.visible - a, read := q.read - a
      mark := some 0, times := q.times.drop ((q.items.take a).countP (·.last)), lastFail := 0 } := by
  simp only [releaseToMark, h]

theorem releaseToMark_of_no_mark (h : q.mark = none) : q.releaseToMark = { q with lastFail := 1 } := by
  simp only [releaseToMark, h]

/-- R237: a read that does not stall, or that finds nothing yet, stays. -/
theorem completeStalled_of_idle (h : q.stalled = none ∨ q.depth = 0) : q.completeStalled k = q := by
  unfold completeStalled
  split
  next stalled => exact if_pos (h.resolve_left (by simp [stalled]))
  next => rfl

theorem completeStalled_of_depth (hs : q.stalled = some (n, pop)) (h : q.depth ≠ 0) :
    q.completeStalled k = if pop then q.doPop k n else q.doRead k n false := by
  simp only [completeStalled, hs, if_neg h]

theorem handover_of_ready (hf : q.filling ≠ 0) (hd : q.draining = 0) :
    q.handover = { q with filling := 0, draining := q.filling } := if_neg (by simp [hf, hd])

theorem handover_of_not_ready (h : q.filling = 0 ∨ q.draining ≠ 0) : q.handover = q := if_pos (by simpa using h)

theorem drainDone_of_full (h : q.filling * k.itemBytes = 4096) :
    q.drainDone k = { q with filling := 0, draining := q.filling } := if_pos h

theorem drainDone_of_not_full (h : q.filling * k.itemBytes ≠ 4096) : q.drainDone k = { q with draining := 0 } := if_neg h

end QueueDyn

/-! ### Operations on a stream's ring -/

namespace StreamDyn

variable {sd : StreamDyn} {n : Nat} {pop : Bool}

theorem ringRead_of_empty (h : sd.ringDepth = 0) : sd.ringRead n pop = { sd with qStalled := some (n, pop), qFail := 0 } :=
  if_pos h

/-- R231, R235: a read of a ring returns up to 64 bytes, with V and SKIP. -/
theorem ringRead_of_depth (h : sd.ringDepth ≠ 0) :
    sd.ringRead n pop = { sd with
      qRead := sd.qRead + min (min n 8) sd.ringDepth, qStalled := none, qSkip := 0, qFail := 0
      qLast := (sd.ringWords.drop sd.qRead).take (min (min n 8) sd.ringDepth), qLastV := 8 * min (min n 8) sd.ringDepth
      qLastSkip := if sd.qSkip = 0 then none else some sd.qSkip } := if_neg h

theorem ringPop_of_empty (h : sd.ringDepth = 0) : sd.ringPop n = { sd with qStalled := some (n, true), qFail := 0 } := by
  rw [ringPop, if_pos h, ringRead_of_empty h]

theorem ringPop_of_depth (h : sd.ringDepth ≠ 0) :
    sd.ringPop n = (sd.ringRead n true).ringRelease (sd.qRead + min (min n 8) sd.ringDepth) false := by
  rw [ringPop, if_neg h, ringRead_of_depth h]

theorem ringRewind_of_mark {a : Nat} (h : sd.qMark = some a) : sd.ringRewind = { sd with qRead := a, qFail := 0 } := by
  simp only [ringRewind, h]

theorem ringRewind_of_no_mark (h : sd.qMark = none) :
    sd.ringRewind = { sd with qMarkLost := false, qFail := if sd.qMarkLost then 2 else 1 } := by simp only [ringRewind, h]

theorem consume_releaseToMark_of_mark {a : Nat} (h : sd.qMark = some a) :
    sd.consume .releaseToMark = sd.ringRelease a true := by simp only [consume, h]

theorem consume_releaseToMark_of_no_mark (h : sd.qMark = none) : sd.consume .releaseToMark = { sd with qFail := 1 } := by
  simp only [consume, h]

theorem ringComplete_of_idle (h : sd.ringDepth = 0 ∨ sd.qStalled = none) : sd.ringComplete = sd := by
  unfold ringComplete
  split
  next stalled => exact if_pos (h.resolve_right (by simp [stalled]))
  next => rfl

theorem ringComplete_of_depth (hs : sd.qStalled = some (n, pop)) (h : sd.ringDepth ≠ 0) :
    sd.ringComplete = if pop then sd.ringPop n else sd.ringRead n false := by
  simp only [ringComplete, hs, if_neg h]

end StreamDyn

/-! ### The consumer's operations on a queue of the state -/

/-- Queue `n` of `t` is `d`, but for the released words of a record that its consumer has not yet taken whole (R226). -/
def QueueIs (n : Nat) (d : QueueDyn) (t : State) : Prop := ∃ p, t.queue n = { d with popped := p }

theorem QueueIs.trans {n : Nat} {d : QueueDyn} {t u : State} (h : QueueIs n d t) (hu : QueueIs n (t.queue n) u) :
    QueueIs n d u := by
  obtain ⟨p, hp⟩ := h
  obtain ⟨p', hp'⟩ := hu
  exact ⟨p', by rw [hp', hp]⟩

namespace State

variable (s : State)

@[simp] theorem queue_followWater (n m : Nat) : (s.followWater n).queue m = s.queue m := by
  unfold followWater
  split
  · split <;> rfl
  · rfl

@[simp] theorem queue_endCycle (q : QRef) (m : Nat) : (s.endCycle q).queue m = s.queue m := by
  cases q with
  | onChip n => exact queue_followWater s n m
  | stake k => rfl
  | stream i => rfl

/-- Words that go into a stream's ring leave the queues as they are. -/
theorem queue_each_ringWord (i n : Nat) (ws : List DWord) : (s.each ws fun s w => s.ringWord i w).queue n = s.queue n :=
  queue_eq_of_frame <| (closed_frame _ s).each
    (fun _ w => Closed.ringWord (closed_frame _ s) i w nofun nofun) (frame_refl _ s)

theorem queueIs_stakeWord (k : Nat) (w : DWord) : QueueIs (stakeQ k) (s.queue (stakeQ k)) (s.stakeWord k w) := by
  unfold stakeWord
  dsimp only
  split
  · exact ⟨_, queue_setQueue ..⟩
  · split
    · exact ⟨_, (queue_each_ringWord ..).trans (queue_setQueue ..)⟩
    · exact ⟨_, queue_setQueue ..⟩

theorem queueIs_each_stakeWord (k : Nat) (ws : List DWord) :
    QueueIs (stakeQ k) (s.queue (stakeQ k)) (s.each ws fun s w => s.stakeWord k w) := by
  induction ws generalizing s with
  | nil => exact ⟨_, rfl⟩
  | cons w ws ih => exact (queueIs_stakeWord s k w).trans (ih _)

variable {q : QRef} (f : QKind → QueueDyn → QueueDyn) (g : StreamDyn → StreamDyn)

/-- R234: an operation on a queue that is no stream ring acts on the queue as `f` says. -/
theorem queueIs_consume (hq : ∀ i, q ≠ .stream i) :
    QueueIs (qNumber q) (f (qKind (qNumber q)) (s.queue (qNumber q))) (s.consume q f g) := by
  cases q with
  | onChip n => exact ⟨_, queue_setQueue ..⟩
  | stake k => exact QueueIs.trans ⟨_, queue_setQueue ..⟩ (queueIs_each_stakeWord ..)
  | stream i => exact absurd rfl (hq i)

/-- An operation that leaves the queue as it was releases no word. -/
theorem queue_consume_of_eq (hq : ∀ i, q ≠ .stream i)
    (h : f (qKind (qNumber q)) (s.queue (qNumber q)) = s.queue (qNumber q)) :
    (s.consume q f g).queue (qNumber q) = s.queue (qNumber q) := by
  cases q with
  | onChip n => exact (queue_setQueue ..).trans h
  | stake k =>
    have kept : (s.modQueue (stakeQ k) (f (qKind (stakeQ k)))).queue (stakeQ k) = s.queue (stakeQ k) :=
      (queue_setQueue ..).trans h
    simp only [consume, qNumber, kept, Nat.sub_self, List.take_zero, List.map_nil]
    exact kept
  | stream i => exact absurd rfl (hq i)

theorem consume_stream_of_absent {i : Fin 4096} (h : s.hasStream i = false) : s.consume (.stream i) f g = s := by
  simp [consume, h]

/-- R234: an operation on a stream's ring acts on it as `g` says. -/
theorem stream_consume {i : Fin 4096} (h : s.hasStream i = true) :
    (s.consume (.stream i) f g).stream i = g (s.stream i) := by simp [consume, h]

end State

/-- The command that asks for a consumer's operation (Table 10.2). -/
def consumerInstr (q : QRef) : ConsumerOp → Instr
  | .read n => .queueRead q n
  | .pop n => .pop q n
  | .setMark => .setMark q
  | .rewind => .rewind q
  | .release => .release q
  | .releaseToMark => .releaseToMark q

theorem exec_consumerInstr (q : QRef) (op : ConsumerOp) (s : State) :
    exec (consumerInstr q op) s = .next ((s.consumeOp q op).endCycle q) := by cases op <;> rfl

/-- A stalled read that completes changes its queue alone, and what the station port shows of it. -/
theorem queue_stalledReadComplete (q : QRef) (s : State) :
    Does (.stalledReadComplete q) s fun t =>
      ∀ m, t.queue m = (s.consume q (fun k d => d.completeStalled k) (·.ringComplete)).queue m := by
  refine ⟨_, rfl, fun m => ?_⟩
  dsimp only
  split
  · split <;> exact State.queue_endCycle ..
  · exact State.queue_endCycle ..

/-- A withdrawn read changes its queue alone, and what the station port shows of it. -/
theorem queue_readWithdrawn (q : QRef) (s : State) :
    Does (.readWithdrawn q) s fun t => ∀ m, t.queue m =
      (s.consume q (fun _ d => d.withdraw) fun sd => { sd with qStalled := none }).queue m := by
  refine ⟨_, rfl, fun m => ?_⟩
  dsimp only
  split
  · split <;> rfl
  · rfl

section

variable {q : QRef} (hq : ∀ i, q ≠ .stream i) (s : State)

include hq

theorem queueIs_consumerInstr (op : ConsumerOp) :
    Does (consumerInstr q op) s (QueueIs (qNumber q) ((s.queue (qNumber q)).consume (qKind (qNumber q)) op)) := by
  obtain ⟨p, hp⟩ := s.queueIs_consume (fun k d => d.consume k op) (·.consume op) hq
  exact ⟨_, exec_consumerInstr q op s, p, (State.queue_endCycle ..).trans hp⟩

theorem queueIs_stalledReadComplete :
    Does (.stalledReadComplete q) s (QueueIs (qNumber q) ((s.queue (qNumber q)).completeStalled (qKind (qNumber q)))) := by
  obtain ⟨t, ht, same⟩ := queue_stalledReadComplete q s
  obtain ⟨p, hp⟩ := s.queueIs_consume (fun k d => d.completeStalled k) (·.ringComplete) hq
  exact ⟨t, ht, p, (same _).trans hp⟩

theorem queueIs_readWithdrawn :
    Does (.readWithdrawn q) s (QueueIs (qNumber q) (s.queue (qNumber q)).withdraw) := by
  obtain ⟨t, ht, same⟩ := queue_readWithdrawn q s
  obtain ⟨p, hp⟩ := s.queueIs_consume (fun _ d => d.withdraw) (fun sd => { sd with qStalled := none }) hq
  exact ⟨t, ht, p, (same _).trans hp⟩

theorem queue_bankHandover :
    Does (.bankHandover q) s fun t => t.queue (qNumber q) = (s.queue (qNumber q)).handover := by
  cases q with
  | stream i => exact absurd rfl (hq i)
  | onChip n => exact ⟨_, rfl, State.queue_setQueue ..⟩
  | stake k => exact ⟨_, rfl, State.queue_setQueue ..⟩

theorem queue_bankDrainDone :
    Does (.bankDrainDone q) s fun t =>
      t.queue (qNumber q) = (s.queue (qNumber q)).drainDone (qKind (qNumber q)) := by
  cases q with
  | stream i => exact absurd rfl (hq i)
  | onChip n => exact ⟨_, rfl, State.queue_setQueue ..⟩
  | stake k => exact ⟨_, rfl, State.queue_setQueue ..⟩

end

section

variable (i : Fin 4096) (s : State)

theorem stream_bankHandover :
    Does (.bankHandover (.stream i)) s fun t => t.stream i =
      if (s.stream i).bankFull = true ∧ (s.stream i).draining = false then
        { s.stream i with bankFull := false, draining := true }
      else s.stream i := ⟨_, rfl, by simp⟩

theorem stream_bankDrainDone :
    Does (.bankDrainDone (.stream i)) s fun t =>
      t.stream i = { s.stream i with draining := (s.stream i).bankFull, bankFull := false } := ⟨_, rfl, by simp⟩

variable {i s} (h : s.hasStream i = true)

include h

theorem stream_consumerInstr (op : ConsumerOp) :
    Does (consumerInstr (.stream i) op) s fun t => t.stream i = (s.stream i).consume op :=
  ⟨_, exec_consumerInstr .., s.stream_consume (fun k d => d.consume k op) _ h⟩

theorem stream_stalledReadComplete :
    Does (.stalledReadComplete (.stream i)) s fun t => t.stream i = (s.stream i).ringComplete :=
  ⟨_, rfl, s.stream_consume (fun k d => d.completeStalled k) _ h⟩

theorem stream_readWithdrawn :
    Does (.readWithdrawn (.stream i)) s fun t => t.stream i = { s.stream i with qStalled := none } :=
  ⟨_, rfl, s.stream_consume (fun _ d => d.withdraw) _ h⟩

end

/-- R234: a stream that is not configured takes no operation of a consumer. -/
theorem exec_consumerInstr_of_absent {i : Fin 4096} {s : State} (h : s.hasStream i = false) (op : ConsumerOp) :
    exec (consumerInstr (.stream i) op) s = .next s :=
  (exec_consumerInstr ..).trans (congrArg _ (s.consume_stream_of_absent (fun k d => d.consume k op) _ h))

/-! ### A segment that ends under new settings -/

/-- A binding with a member interval of 1 MiB (R333); format 0 is NONE, which has no members. -/
def bindingOf (format : Byte) : List Byte := [0, 0, 0, 0, format, 0, 1, 0]

/-- Closed segment `k` of a ring. -/
def heldSegment (k : Nat) : Segment :=
  { seq := k, words := List.replicate segWords 0, channel := 0, pos := segWords * k, hasLoss := false, flushPoint := false
    time := 0, last := 0, markTime := none, closed := 0, memberEnd := false }

/-- Stream 0 after a COMMIT has turned it from format NONE to a compressed one (R248): segment 0 still waits under the old
binding, 255 segments are held, and one word is left in the open one, which is the 256th of the member's 1 MiB. -/
def rebound : State :=
  { State.reset with
    weaver := { State.reset.weaver with committed := { Intent.empty with defs := [(objKey 1 0, bindingOf 1)] } }
    streams := [(0, { StreamDyn.init with
      segSeq := 255, openPos := 255 * segWords, open_ := List.replicate 511 0, oldBinds := [(0, bindingOf 0)]
      ring := (List.range 255).map heldSegment })] }

/-- A FINE_EDGE of lane 0, one word (Table 9.3), at the time of its BASE. -/
def edgeWord : DWord := BitVec.ofNat 64 (2 ^ 60)

/-- The edge fills the segment, which closes, since the committed binding ends a member there. -/
theorem open_rebound_edge :
    Does (.queueWrite (.stream 0) ⟨edgeWord, []⟩ false false) rebound fun t => (t.stream 0).open_ = [] :=
  ⟨_, rfl, by decide +kernel⟩

end Machine

namespace Safety

open Machine

theorem Does.imp {c : Instr} {s : State} {P Q : State → Prop} (h : Does c s P) (hPQ : ∀ t, P t → Q t) : Does c s Q :=
  Exists.imp (fun t ht => ht.imp_right (hPQ t)) h

/-- Settles O52: each command acts on its queue by the operation of Table 10.2, up to the words that a stake queue's consumer
has not yet taken whole, and each operation's cases stand in its own lemmas. -/
theorem queueConsumers : Obligations.QueueConsumers := by
  unfold Obligations.QueueConsumers
  constructor
  · rintro q n k d s hq rfl rfl rfl
    have op := queueIs_consumerInstr hq s
    have complete := queueIs_stalledReadComplete hq s
    refine ⟨fun c => ⟨fun empty => ?_, fun empty => ?_, fun more => ?_, fun more => ?_⟩, ?_, ?_, ?_, ?_,
      fun c hs more => ?_, fun c hs more => ?_, fun idle => ?_, ?_⟩
    · refine (op (.read c)).imp fun t ⟨p, ht⟩ => ?_
      rw [ht, QueueDyn.consume, QueueDyn.doRead_of_empty empty]
      exact ⟨rfl, rfl⟩
    · refine (op (.pop c)).imp fun t ⟨p, ht⟩ => ?_
      rw [ht, QueueDyn.consume, QueueDyn.doPop_of_empty empty]
      exact ⟨rfl, rfl⟩
    · refine (op (.read c)).imp fun t ⟨p, ht⟩ => ?_
      rw [ht, QueueDyn.consume, QueueDyn.doRead_of_depth more]
      exact ⟨rfl, rfl, rfl, rfl, rfl, rfl⟩
    · refine (op (.pop c)).imp fun t ⟨p, ht⟩ => ?_
      rw [ht, QueueDyn.consume, QueueDyn.doPop_of_depth more, QueueDyn.doRead_of_depth more]
      exact ⟨rfl, rfl, rfl⟩
    · refine (op .setMark).imp fun t ⟨p, ht⟩ => ?_
      rw [ht]
      exact ⟨rfl, rfl⟩
    · refine (op .rewind).imp fun t ⟨p, ht⟩ => ?_
      rw [ht, QueueDyn.consume]
      cases hm : (s.queue (qNumber q)).mark with
      | some a =>
        rw [QueueDyn.rewind_of_mark hm]
        exact ⟨rfl, fun b hb => ⟨Option.some.inj hb, rfl⟩, nofun⟩
      | none =>
        rw [QueueDyn.rewind_of_no_mark hm]
        exact ⟨rfl, nofun, fun _ => ⟨rfl, rfl⟩⟩
    · refine (op .release).imp fun t ⟨p, ht⟩ => ?_
      rw [ht]
      exact ⟨rfl, rfl, rfl, rfl⟩
    · refine (op .releaseToMark).imp fun t ⟨p, ht⟩ => ?_
      rw [ht, QueueDyn.consume]
      cases hm : (s.queue (qNumber q)).mark with
      | some a =>
        rw [QueueDyn.releaseToMark_of_mark hm]
        exact ⟨fun b hb => Option.some.inj hb ▸ ⟨rfl, rfl, rfl⟩, nofun⟩
      | none =>
        rw [QueueDyn.releaseToMark_of_no_mark hm]
        exact ⟨nofun, fun _ => ⟨rfl, rfl⟩⟩
    · refine complete.imp fun t ⟨p, ht⟩ => ?_
      rw [ht, QueueDyn.completeStalled_of_depth hs more, if_neg nofun, QueueDyn.doRead_of_depth more]
      exact ⟨rfl, rfl, rfl⟩
    · refine complete.imp fun t ⟨p, ht⟩ => ?_
      rw [ht, QueueDyn.completeStalled_of_depth hs more, if_pos rfl, QueueDyn.doPop_of_depth more,
        QueueDyn.doRead_of_depth more]
      exact ⟨rfl, rfl, rfl⟩
    · exact (queue_stalledReadComplete q s).imp fun t same =>
        (same _).trans (s.queue_consume_of_eq _ _ hq (QueueDyn.completeStalled_of_idle idle))
    · refine (queueIs_readWithdrawn hq s).imp fun t ⟨p, ht⟩ => ?_
      rw [ht]
      exact ⟨rfl, rfl, rfl⟩
  · rintro q n d s hq rfl rfl
    have handover := queue_bankHandover hq s
    have drained := queue_bankDrainDone hq s
    refine ⟨fun hf hd => handover.imp fun t ht => ?_, fun still => handover.imp fun t ht => ?_,
      fun full => drained.imp fun t ht => ?_, fun room => drained.imp fun t ht => ?_⟩
    · rw [ht, QueueDyn.handover_of_ready hf hd]
      exact ⟨rfl, rfl, rfl⟩
    · rw [ht, QueueDyn.handover_of_not_ready still]
    · rw [ht, QueueDyn.drainDone_of_full full]
      exact ⟨rfl, rfl⟩
    · rw [ht, QueueDyn.drainDone_of_not_full room]
      exact ⟨rfl, rfl⟩

/-- Settles O53: each command acts on its ring by the operation of Table 10.2, whose cases stand in its own lemmas. -/
theorem ringReaders : Obligations.RingReaders := by
  unfold Obligations.RingReaders
  refine ⟨fun i c s absent hc => ?_, ?_, fun i s => ⟨stream_bankHandover i s, stream_bankDrainDone i s⟩⟩
  · rcases hc with ⟨n, rfl | rfl⟩ | rfl | rfl | rfl | rfl | rfl | rfl
    · exact exec_consumerInstr_of_absent absent (.read n)
    · exact exec_consumerInstr_of_absent absent (.pop n)
    · exact exec_consumerInstr_of_absent absent .setMark
    · exact exec_consumerInstr_of_absent absent .rewind
    · exact exec_consumerInstr_of_absent absent .release
    · exact exec_consumerInstr_of_absent absent .releaseToMark
    · exact congrArg _ (s.consume_stream_of_absent (fun k d => d.completeStalled k) _ absent)
    · exact congrArg _ (s.consume_stream_of_absent (fun _ d => d.withdraw) _ absent)
  · rintro i n s d c present rfl rfl
    have op := stream_consumerInstr present
    have complete := stream_stalledReadComplete present
    refine ⟨fun empty => ⟨?_, ?_⟩, fun more => ⟨?_, ?_, fun hs => ?_, fun hs => ?_⟩, fun idle => ?_,
      stream_readWithdrawn present, ?_, ?_, ?_, ?_⟩
    · exact (op (.read n)).imp fun t ht => ht.trans (StreamDyn.ringRead_of_empty empty)
    · exact (op (.pop n)).imp fun t ht => ht.trans (StreamDyn.ringPop_of_empty empty)
    · refine (op (.read n)).imp fun t ht => ?_
      rw [ht, StreamDyn.consume, StreamDyn.ringRead_of_depth more]
      exact ⟨rfl, rfl, rfl, rfl, rfl, rfl, rfl⟩
    · refine (op (.pop n)).imp fun t ht => ?_
      rw [ht, StreamDyn.consume, StreamDyn.ringPop_of_depth more, StreamDyn.ringRead_of_depth more]
      exact ⟨rfl, rfl, rfl, rfl⟩
    · refine complete.imp fun t ht => ?_
      rw [ht, StreamDyn.ringComplete_of_depth hs more, if_neg nofun, StreamDyn.ringRead_of_depth more]
      exact ⟨rfl, rfl, rfl⟩
    · refine complete.imp fun t ht => ?_
      rw [ht, StreamDyn.ringComplete_of_depth hs more, if_pos rfl, StreamDyn.ringPop_of_depth more,
        StreamDyn.ringRead_of_depth more]
      exact ⟨rfl, rfl⟩
    · exact complete.imp fun t ht => ht.trans (StreamDyn.ringComplete_of_idle idle)
    · refine (op .setMark).imp fun t ht => ?_
      rw [ht]
      exact ⟨rfl, rfl⟩
    · refine (op .rewind).imp fun t ht => ?_
      rw [ht, StreamDyn.consume]
      cases hm : (s.stream i).qMark with
      | some a =>
        rw [StreamDyn.ringRewind_of_mark hm]
        exact ⟨rfl, fun b hb => ⟨Option.some.inj hb, rfl⟩, nofun⟩
      | none =>
        rw [StreamDyn.ringRewind_of_no_mark hm]
        exact ⟨rfl, nofun, fun _ => ⟨rfl, rfl⟩⟩
    · refine (op .release).imp fun t ht => ?_
      rw [ht]
      exact ⟨rfl, rfl, rfl⟩
    · refine (op .releaseToMark).imp fun t ht => ?_
      rw [ht]
      refine ⟨fun a hm => ?_, fun hm => StreamDyn.consume_releaseToMark_of_no_mark hm⟩
      rw [StreamDyn.consume_releaseToMark_of_mark hm]
      exact ⟨rfl, rfl⟩

/-- Refutes O51: where a COMMIT has replaced format NONE by a compressed one, `strMember` still reads 0 from the binding of the
segments that wait, and a record that fits closes its segment all the same, by the member interval of the committed binding. -/
theorem not_queueProducers : ¬ Obligations.QueueProducers := by
  rintro ⟨-, rings, -⟩
  have bound : rebound.hasStream 0 = true := by decide +kernel
  have noSkip : (rebound.stream 0).skipState = false := by decide +kernel
  have base : 0 = if (rebound.stream 0).recPart = [] then rebound.streamBase 0 else (rebound.stream 0).recBase := by
    decide +kernel
  have whole : recordWords edgeWord ≤ 1 := by decide +kernel
  have notShed : rebound.isShed (objKey 1 0) = false := by decide +kernel
  have isOpen : (rebound.stream 0).open_ ≠ [] := by decide +kernel
  have noMember : rebound.strMember 0 = 0 := by decide +kernel
  have isEdge : fld edgeWord 60 4 ∉ [0x0, 0x3, 0x6] := by decide +kernel
  have fits : (rebound.stream 0).fits (recordOf 0 [edgeWord]) = true := by decide +kernel
  have noBase : needBase (rebound.stream 0).baseTime (recordOf 0 [edgeWord]) = false := by decide +kernel
  obtain ⟨-, configured⟩ := rings 0 edgeWord false false [] _ rebound rebound (rebound.stream 0) (.inl rfl) rfl rfl
  obtain ⟨-, written⟩ := configured bound
  obtain ⟨-, joins⟩ := written [edgeWord] 0 _ noSkip rfl base rfl
  obtain ⟨-, placed⟩ := joins whole
  obtain ⟨other, -⟩ := placed notShed isOpen noMember
  obtain ⟨appends, -⟩ := other isEdge
  obtain ⟨t, ht, grown⟩ := appends fits noBase
  obtain ⟨u, hu, closed⟩ := open_rebound_edge
  obtain rfl : t = u := Host.Outcome.next.inj (ht.symm.trans hu)
  exact isOpen (List.append_eq_nil_iff.mp (grown.symm.trans closed)).1

end Safety

end Sys2Proof
end
